-- ==== Sys2Proof/Word.lean ====
section
/-! DEFINITION. The word types of the LSV-960: bytes, 32-bit and 64-bit words, and byte strings.
Multi-byte fields are little-endian (R6); the byte-order helpers stand in Machine/Bytes.lean. -/

namespace Sys2Proof

/-- One byte of a register window, a descriptor, a message or a memory. -/
abbrev Byte := BitVec 8

/-- A 32-bit register word. -/
abbrev W32 := BitVec 32

/-- A 64-bit register word; also a postmark (R291). -/
abbrev W64 := BitVec 64

/-- A byte string, first byte at the lowest address. -/
abbrev Bytes := List Byte

end Sys2Proof
end

