-- ==== Sys2Proof/Syntax.lean ====
section
/-! DEFINITION. The commands of the LSV-960: one constructor for each row of spec/opcode_table.json.
A row that the module performs on work it already holds names that work (a descriptor in progress, a port,
a mailbox); a row by which something reaches the module carries what arrives (bytes of a flit, a pin level,
a set of samples). -/

namespace Sys2Proof

/-- A descriptor in progress: session, dispatch context, and the number the context gave it when it started. -/
structure OpRef where
  session : Nat
  ctx : Nat
  seq : Nat
  deriving DecidableEq, Repr

/-- An addition of a reduction whose residue check fails (R287): source element, tree level and index of its node, and
whether its repeat fails too. Assumption log 5 (DESIGN CHOICE), 68 (DEDUCED). -/
structure AddFault where
  element : Nat
  level : Nat
  index : Nat
  again : Bool
  deriving DecidableEq, Repr

/-- Where a message of the step seal or of roll call arrives from (R318): the postal ring, travelling
clockwise or not, or a Krelas port. -/
inductive Rx where
  | ring (clockwise : Bool)
  | port (p : Nat)
  deriving DecidableEq, Repr

/-- Where a roll-call message arrives from, whether its sender is LOCKED, and the delays measured by the other members on
its path, in 2^-16 ns: the message says neither (R322). Assumption log 58 (DEDUCED). -/
structure RollSender where
  rx : Rx
  locked : Bool
  path : Nat
  deriving DecidableEq, Repr

/-- Who sends a request to a function at J1: the function, and the selective IDE stream that carries it, if one does (R458).
Assumption log 41 (DEDUCED). -/
structure Origin where
  fn : Nat
  stream : Option Nat
  deriving DecidableEq, Repr

/-- The range of the HDM decoder (R452). -/
structure HdmRange where
  base : Nat
  size : Nat
  deriving DecidableEq, Repr

/-- The requester of an SPDM key exchange: its leaf key and the public key of its exchange on secp384r1 (R388, R389). -/
structure Requester where
  leafKey : Bytes
  exchange : Bytes
  deriving DecidableEq, Repr

/-- What the input monitor reads of the two supplies, in millivolts (R566, R567).
Assumption log 82 (DESIGN CHOICE). -/
structure Inputs where
  in48mV : Nat
  sb12mV : Nat
  deriving DecidableEq, Repr

/-- A change of a postal-ring bypass switch (R303, R304): this module's own, with the lock of its transceiver, or that of
another position of its ring. Assumption log 70 (DESIGN CHOICE). -/
inductive BypassChange where
  | own (bothLocked : Bool)
  | member (position : Nat) (closed : Bool)
  deriving DecidableEq, Repr

/-- The transports of SPDM requests (R388, R585): a DOE mailbox of a CXL function (0 the physical function,
1 to 4 a virtual function) or MCTP on the management bus. -/
inductive Via where
  | doe (fn : Nat)
  | mctp
  deriving DecidableEq, Repr

/-- What a configuration request does to its register (R462). -/
inductive CfgAccess where
  | read
  | write (value : W32)
  deriving DecidableEq, Repr

/-- The outcomes of a UIO completion (R457). -/
inductive UioStatus where
  | success
  | unsupportedRequest
  | completerAbort
  | poisoned
  deriving DecidableEq, Repr

/-- The IDE streams of R439: the link stream, eight selective streams and CXL.cachemem IDE. -/
inductive IdeStream where
  | link
  | selective (n : Nat)
  | cachemem
  deriving DecidableEq, Repr

/-- The blocks that Block reach can name (R515, R543), by BLOCK code. -/
inductive BlockTarget where
  | port (p : Nat)
  | farTier
  | pigeonhole (die : Nat)
  | countingBoard (die : Nat)
  | reckoner (die : Nat)
  | dma (die : Nat)
  | sortingOffice (half : Nat)
  | hostPort
  | physicalFunction
  | tap
  deriving DecidableEq, Repr

/-- The engines that report quiescent on a strike (R407, R408). -/
inductive Engine where
  | onDie (die : Nat)
  | memory
  | farTier
  | sortingOffice
  | ports
  deriving DecidableEq, Repr

/-- How a bring-up step ended (R499): its method succeeded or failed. The numbers a ledger entry records of
it (microseconds since the release, DETAIL) stand beside it in the command. -/
inductive StepEnd where
  | done
  | failed
  deriving DecidableEq, Repr

/-- The commands, in the order of the table. Assumption log 5 (DESIGN CHOICE). -/
inductive Instr where
  -- descriptors
  | nop (o : OpRef)
  | endList (o : OpRef)
  | link (o : OpRef)
  | matmul (o : OpRef)
  | matmulAlt (o : OpRef)
  | arrayScrub (o : OpRef)
  | phMove (o : OpRef)
  | phStream (o : OpRef)
  | runKernel (o : OpRef)
  | reckon (o : OpRef)
  | dpNoise (o : OpRef)
  | stepSeal (o : OpRef)
  | exchange (o : OpRef)
  | exchangeV (o : OpRef)
  | reduceScatter (o : OpRef) (residueFails : List AddFault)
  | allGather (o : OpRef)
  | allReduce (o : OpRef) (residueFails : List AddFault)
  | tallyAdd (o : OpRef)
  | tallySet (o : OpRef)
  | tallyArm (o : OpRef)
  | farMove (o : OpRef)
  | ckptExport (o : OpRef)
  | ckptImport (o : OpRef)
  -- dispatch
  | descriptorStart (session ctx : Nat)
  | tileIssue (session : Nat) (operandLate scaleLate : Nat)
  | tileDrain (session : Nat) (drainHeld : Nat)
  | arrayOpComplete (o : OpRef)
  | collectiveComplete (o : OpRef)
  | descriptorComplete (o : OpRef)
  | launchComparatorFire (o : OpRef)
  | armFire (tally : Nat)
  | commandCorePoll (core : Nat)
  | sampleRecordWrite (session : Nat)
  | sweepStep (channel : Nat)
  -- Cloari, one request waiting in mailbox mb
  | fwSupply (mb : Nat)
  | fwVerifyDone
  | ledgerClear (mb : Nat)
  | hostWindowGrant (mb : Nat)
  | hostWindowWithdraw (mb : Nat)
  | farTargetGrant (mb : Nat)
  | farTargetWithdraw (mb : Nat)
  | linkConfigRead (mb : Nat)
  | linkConfigWrite (mb : Nat)
  | lcChallenge (mb : Nat)
  | lcTransition (mb : Nat)
  | lcStatus (mb : Nat)
  | transitionStepDone
  | challengeExpiry
  | portStatus0 (mb : Nat)
  | timeRead (mb : Nat)
  | linkReset (mb : Nat)
  | attestReport (mb : Nat)
  | sessionOpen (mb : Nat)
  | sessionClose (mb : Nat)
  | partyJoin (mb : Nat)
  | partyRemove (mb : Nat)
  | weightPlan (mb : Nat)
  | ingest (mb : Nat)
  | weightDigestRoot (session : Nat)
  | listLoad (mb : Nat)
  | listUnload (mb : Nat)
  | kernelLoad (mb : Nat)
  | contextStart (mb : Nat)
  | contextStop (mb : Nat)
  | scaleWrite (mb : Nat)
  | routingLoad (mb : Nat)
  | consignConfig (mb : Nat)
  | timeSet (mb : Nat)
  | rollCall (mb : Nat)
  | sealResolve (mb : Nat)
  | voidRequest (mb : Nat)
  | recordRead (mb : Nat)
  | tallyRead (mb : Nat)
  | powerSet (mb : Nat)
  | resetRequest (mb : Nat)
  | firmwareRequestAssert
  | resetLogRead (mb : Nat)
  | watchRead (mb : Nat)
  | watchLogRead (mb : Nat)
  | backupRead (mb : Nat)
  | backupWrite (mb : Nat)
  | perfConfigRead (mb : Nat)
  | perfConfigWrite (mb : Nat)
  | perfConfigClaim (mb : Nat)
  | perfConfigRelease (mb : Nat)
  | perfRead (mb : Nat)
  | perfRing (mb : Nat)
  | perfRingRead (mb : Nat)
  -- host port
  | registerWrite (origin : Origin) (offset : Nat) (value : W32)
  | nowLoRead (origin : Origin)
  | statusPageWrite (page : Nat)
  | hdmRead (offset : Nat)
  | hdmWrite (offset : Nat) (data : Bytes)
  | birsp (offset : Nat) (data : Bytes)
  | bisnpinv
  | h2dSnoop (address : Nat)
  | uioCompletion (session : Nat) (status : UioStatus)
  | configurationRequest (fn register : Nat) (access : CfgAccess)
  | hdmDecoderCommit (range : HdmRange) (ways : Nat) (stream : Option Nat)
  | d3hotEntry (fn : Nat)
  | ideKm (stream : IdeStream)
  | ideSecureLost (stream : IdeStream)
  | cdatRead
  | hostLinkDown
  | hostLinkUp (width : Nat) (fullRate : Bool)
  | hostLinkRetry (success : Bool) (elapsedUs : Nat)
  -- SPDM and management bus
  | keyExchange (via : Via) (requester : Requester)
  | finish (via : Via) (authenticated : Bool)
  | getVersion (via : Via)
  | getCapabilities (via : Via)
  | negotiateAlgorithms (via : Via)
  | getDigests (via : Via)
  | getCertificate (via : Via) (slot offset length : Nat)
  | challenge (via : Via) (slot : Nat) (nonce : Bytes)
  | getMeasurements (via : Via) (index : Nat)
  | setEndpointId (eid : Byte)
  | getEndpointId
  | getMctpVersionSupport
  | getMessageTypeSupport
  | getVendorDefinedMessageSupport
  | entdaa (address : BitVec 7)
  | pldmDiscovery (command : Byte)
  | pldmSensorRead (sensor : Nat)
  | pollForPlatformEventMessage
  | ledgerRead (offset length : Nat)
  | vendorResetLogRead (entry : Nat)
  | vendorWatchLogRead
  | vendorLcStatus
  | optionRead
  | optionWrite (block : Bytes)
  -- Krelas
  | flitSlot (port : Nat)
  | dataFlit (port : Nat) (flit : Bytes) (residueFails : List AddFault)
  | resetFlit (port : Nat) (flit : Bytes)
  | uncorrectableCodeword (port : Nat)
  | hello (port : Nat) (block : Bytes)
  | ack (port : Nat) (block : Bytes)
  | nak (port : Nat) (block : Bytes)
  | credit (port : Nat) (block : Bytes)
  | timestamp (port : Nat) (block : Bytes)
  | timestampTick (port : Nat)
  | portTrainingDone (port : Nat) (cableDelay : BitVec 16) (lanes : BitVec 8)
  | helloTimeout (port : Nat)
  | laneFailure (port lane : Nat)
  | collectiveTimeout (o : OpRef)
  | farMoveTimeout (o : OpRef)
  | objectTimeout (session id : Nat)
  -- postal ring
  | timeFrame (clockwise : Bool) (frame : Bytes)
  | timeFrameTick
  | measureTick
  | measure (clockwise : Bool) (frame : Bytes)
  | measureReply (clockwise : Bool) (frame : Bytes)
  | holdoverTimeout
  | holdoverHeld
  | bypassSwitchChange (change : BypassChange) (idleBoundary : Bool)
  | vote (rx : Rx) (message : Bytes)
  | summary (port : Nat) (message : Bytes)
  | summaryDeadline (session : Nat)
  | decision (rx : Rx) (message : Bytes)
  | sealCollectionClose (session : Nat)
  | sealFlip (session : Nat)
  | rollCallPostmark (session : Nat)
  | rollCallMessage (sender : RollSender) (message : Bytes)
  | rollCallDecide (session : Nat)
  | verdict (rx : Rx) (message : Bytes)
  | epochOpen (session : Nat)
  -- strikes
  | partyStrike (session party : Nat)
  | sessionCloseStrike (session : Nat)
  | engineQuiescent (session : Nat) (engine : Engine)
  | quiesceDeadline (session : Nat)
  | noiseLaneFail (lane : Nat)
  -- power, pins and resets
  | modulePowerGood (inputs : Inputs) (heldUs : Nat)
  | in48Rise (mV : Nat)
  | sb12Loss
  | perstN (level : Bool) (widthNs : Nat)
  | sysResetN (level : Bool) (widthNs : Nat)
  | trstN (level : Bool) (widthNs : Nat)
  | cxlHotReset (assert : Bool)
  | cxlFunctionLevelReset
  | vfFlr (vf : Nat)
  | controlWatchdog (core : Nat)
  | tamper (assert : Bool)
  | quarterFault (quarter : Nat) (assert : Bool)
  | quarterReset (quarter : Nat)
  | quarterResetRelease (quarter : Nat)
  | blockReset (target : BlockTarget)
  | resetRelease
  | bringupStepEnd (key : Nat) (result : StepEnd) (elapsedUs : Nat) (detail : W32)
  | clockGood (domain : Nat) (lockUs : Nat)
  | clockGoodTimeout (domain : Nat)
  | clockGoodLoss (domain : Nat)
  | watchPostSample (samples : List Int)
  | thermalTripRelease
  | supplyFaultRelease
  | ps1Entry
  | ps0WakeDone
  | ps2WakeDone
  | ps3WakeDone
  | hostPortPowerOff
  | peerLoss (port : Nat)
  | standbyPowerGood (mgmtModeGrounded : Bool) (mgmtAddr : BitVec 2)
  | testEntryInstruction
  | samplePreload (pinLevels : BitVec 16) (laneLevels : Bytes) (preset : BitVec 16)
  deriving DecidableEq, Repr

end Sys2Proof
end

