-- ==== Sys2Proof/Decode.lean ====
section
/-! DEFINITION. The table's words: spec/opcode_table.json gives no row any bits, so no word spells a command. -/

namespace Sys2Proof

/-- The command that a word spells by the table's bits: none, because no row has bits.
Assumption log 2 (DESIGN CHOICE). -/
def decodeTableWord (_nbits _w : Nat) : Option Instr := none

end Sys2Proof
end

