-- ==== Sys2Proof/Config.lean ====
section
/-! DEFINITION. What the manual leaves to the part or leaves open: values with no body, so that no proof can
see one of them. Each is applied to the operands it depends on, or to the plain counter State.draws, which every
use advances. -/

namespace Sys2Proof.Config

/-- Byte `i` of the `n`-th output drawn from the Vrelcy root's CTR_DRBG (R383): keys, nonces, salts, challenges.
Assumption log 10 (DESIGN CHOICE). -/
opaque drbg (n i : Nat) : Byte

/-- The `n`-th pair of 32-bit words the noise lanes supply (R234): which lane feeds which sample is not specified.
Assumption log 12 (DESIGN CHOICE). -/
opaque laneWord (n : Nat) : W32

/-- What the binary64 computation of a noise sample adds to its exact value (R234): the manual names the formula and
not the sequence of library operations. Bits [12:0] give the difference, in units of 2^-52 from −4,096 on; bit 13 is
the sign of a result of zero. Assumption log 12 (DESIGN CHOICE). -/
opaque gaussError (w1 w2 : W32) : Nat

/-- The RSA-4096 attestation key of generation `gen` (R416, R423): its modulus below its top bit, which is set, and its
private exponent. Assumption log 13 (DESIGN CHOICE). -/
opaque attestModulus (gen : Nat) : BitVec 4095
@[inherit_doc attestModulus] opaque attestExponent (gen : Nat) : BitVec 4096

/-- The RSA-4096 device identity key (R423, R433), likewise. Assumption log 13 (DESIGN CHOICE). -/
opaque identityModulus : BitVec 4095
@[inherit_doc identityModulus] opaque identityExponent : BitVec 4096

/-- The ML-DSA-87 public key of generation `gen`, 2,592 bytes (R418). Assumption log 13 (DESIGN CHOICE). -/
opaque pqPublic (gen i : Nat) : Byte

/-- The ML-DSA-87 signing function of FIPS 204 under the key of generation `gen`: of a formatted message and the 32 random
bytes of a hedged signature (R417). Assumption log 13 (DESIGN CHOICE). -/
opaque pqSignature (gen : Nat) (hedge message : Bytes) (i : Nat) : Byte

/-- What DMTF's transcripts hold beside the `known` bytes of the `n`-th exchange: the message that an SPDM signature
covers, and the transcript hash of a key schedule. Assumption log 13 (DESIGN CHOICE). -/
opaque transcript (n : Nat) (known : Bytes) (i : Nat) : Byte

/-- Number of bytes of field `f` of certificate `k` of the chain (R418): 0 the subject name, 1 the validity, 2 the serial
number, 3 the signature algorithm, 4 the public key, 5 further extensions, 6 the identifier of the ML-DSA-87 extension, 7
the signature, 8 the attestation key's public exponent. Assumption log 13 (DESIGN CHOICE). -/
opaque certLength (k f : Nat) : Nat

/-- Byte `i` of such a field, at attestation-key generation `gen`. Assumption log 13 (DESIGN CHOICE). -/
opaque certByte (gen k f i : Nat) : Byte

/-- The module serial number, sixteen ASCII bytes (R414). Assumption log 13 (DESIGN CHOICE). -/
opaque serial (i : Nat) : Byte

/-- SHA-512 digest of the boot ROM (R415, component 0; R492), byte by byte. Assumption log 13 (DESIGN CHOICE). -/
opaque bootRomDigest (i : Nat) : Byte

/-- SHA-512 digest of the vendor firmware key fused for a root revision (R494 check 2).
Assumption log 13 (DESIGN CHOICE). -/
opaque firmwareKeyDigest (rev i : Nat) : Byte

/-- SHA-512 digest of the life-cycle key fused for a root revision (R435 check 6).
Assumption log 13 (DESIGN CHOICE). -/
opaque lifeCycleKeyDigest (rev i : Nat) : Byte

/-- Silicon revision, reported as Revision ID (R441). Assumption log 13 (DESIGN CHOICE). -/
opaque revisionId : Byte

/-- What a configuration read returns for a register whose contents the manual leaves to CXL and PCIe (R443).
Assumption log 14 (DESIGN CHOICE). -/
opaque configWord (fn register : Nat) : W32

/-- Answers whose bytes the management and SPDM standards fix and the manual does not repeat (R582 to R585).
Assumption log 14 (DESIGN CHOICE). -/
opaque standardAnswer (service item i : Nat) : Byte

/-- Number of bytes of such an answer. Assumption log 14 (DESIGN CHOICE). -/
opaque standardLength (service item : Nat) : Nat

/-- A stored byte that the manual does not fix, for the `n`-th use: of the firmware reserve and its metadata, whose
layout it does not give (R334). Assumption log 15 (DESIGN CHOICE). -/
opaque metadataByte (n address : Nat) : Byte

/-- The byte an HBM or far-tier address holds after its `n`-th power-on, until it is written.
Assumption log 15 (DESIGN CHOICE). -/
opaque staleByte (n address : Nat) : Byte

/-- Whether the metadata cache evicts one more entry for the `n`-th access, `k` having gone (R588).
Assumption log 16 (DESIGN CHOICE). -/
opaque evicts (n k : Nat) : Bool

/-- Which entry the `k`-th eviction for the `n`-th access takes (R588). Assumption log 16 (DESIGN CHOICE). -/
opaque victim (n k : Nat) : Nat

/-- The GMAC nonce of a decision record or verdict, which the manual does not state (R225, R323): byte `i` for the 32
bytes the tag covers. Assumption log 17 (DESIGN CHOICE). -/
opaque recordNonce (record : Bytes) (i : Nat) : Byte

/-- The sum that an adder gives when its residue check and its repeat's both fail (R287): the manual says it is used as
computed, and not what it is. Assumption log 68 (DEDUCED). -/
opaque faultySum (n : Nat) : W32

/-- Codewords that a port's receiver has corrected before its `n`-th flit slot (R247): no command carries one.
Assumption log 94 (DESIGN CHOICE). -/
opaque correctedCodewords (n : Nat) : Nat

/-- A value of a fresh kind the manual leaves open, for the `n`-th use. Assumption log 10 and 19 (DESIGN CHOICE). -/
opaque freeWord (n : Nat) : W64

end Sys2Proof.Config
end

