-- ==== Sys2Proof/Machine/Bytes.lean ====
section
/-! DEFINITION. Byte order, bit fields and byte-string helpers (R5, R6). -/

namespace Sys2Proof.Machine

/-- `k` bytes of `n`, little-endian (R6). -/
def le : Nat → Nat → Bytes
  | 0, _ => []
  | k + 1, n => BitVec.ofNat 8 n :: le k (n / 256)

/-- The little-endian value of a byte string. -/
def leNat : Bytes → Nat
  | [] => 0
  | b :: rest => b.toNat + 256 * leNat rest

/-- The big-endian value of a byte string. -/
def beNat (b : Bytes) : Nat := b.foldl (fun a x => a * 256 + x.toNat) 0

/-- `k` bytes of `n`, big-endian. -/
def be (k n : Nat) : Bytes := (le k n).reverse

/-- `n` zero bytes. -/
def zeros (n : Nat) : Bytes := List.replicate n 0

/-- The bytes `b` laid over those of `old` from `off` on. -/
def overlay (old : Bytes) (off : Nat) (b : Bytes) : Bytes := old.take off ++ b ++ old.drop (off + b.length)

/-- Bytes `off` to `off + len - 1`, zero beyond the end. -/
def slice (b : Bytes) (off len : Nat) : Bytes :=
  let s := (b.drop off).take len
  s ++ zeros (len - s.length)

/-- The little-endian field of `len` bytes at `off`. -/
def fieldAt (b : Bytes) (off len : Nat) : Nat := leNat (slice b off len)

/-- Byte at `off`. -/
def u8 (b : Bytes) (off : Nat) : Byte := b.getD off 0

/-- 16-bit field at `off`. -/
def u16 (b : Bytes) (off : Nat) : BitVec 16 := BitVec.ofNat 16 (fieldAt b off 2)

/-- 32-bit field at `off`. -/
def u32 (b : Bytes) (off : Nat) : W32 := BitVec.ofNat 32 (fieldAt b off 4)

/-- 64-bit field at `off`. -/
def u64 (b : Bytes) (off : Nat) : W64 := BitVec.ofNat 64 (fieldAt b off 8)

/-- Bits [hi:lo] of a number, with bit 0 the least significant (R5). -/
def bitsOf (n hi lo : Nat) : Nat := (n / 2 ^ lo) % 2 ^ (hi + 1 - lo)

/-- Bit `i` of a number. -/
def bitOf (n i : Nat) : Bool := (n / 2 ^ i) % 2 == 1

/-- Every byte of the range is zero. -/
def zeroRange (b : Bytes) (off len : Nat) : Bool := (slice b off len).all (fun x => x == 0)

/-- Pad with zero bytes to `n` bytes. -/
def padTo (n : Nat) (b : Bytes) : Bytes := b ++ zeros (n - b.length)

/-- Exclusive OR of two byte strings, as long as the first. -/
def xorBytes : Bytes → Bytes → Bytes
  | [], _ => []
  | a, [] => a
  | x :: xs, y :: ys => (x ^^^ y) :: xorBytes xs ys

/-- The ASCII bytes of a string. -/
def ascii (s : String) : Bytes := s.toList.map (fun c => BitVec.ofNat 8 c.toNat)

/-- A 16-bit, 32-bit or 64-bit word as little-endian bytes. -/
def w16 (x : BitVec 16) : Bytes := le 2 x.toNat

@[inherit_doc w16] def w32 (x : W32) : Bytes := le 4 x.toNat

@[inherit_doc w16] def w64 (x : W64) : Bytes := le 8 x.toNat

/-- 1 for true and 0 for false. -/
def boolNat (b : Bool) : Nat := if b then 1 else 0

/-- Cut a byte string into pieces of `n` bytes, the last holding what remains; `fuel` bounds their number. -/
def piecesOf : Nat → Nat → Bytes → List Bytes
  | 0, _, _ => []
  | fuel + 1, n, b => if b.isEmpty then [] else b.take n :: piecesOf fuel n (b.drop n)

/-- Pieces of `n` bytes (`n` above zero). -/
def chunksOf (n : Nat) (b : Bytes) : List Bytes := piecesOf (b.length / n + 1) n b

/-- A counter that holds at its largest value (R135). -/
def satAdd {w : Nat} (x : BitVec w) (n : Nat) : BitVec w :=
  if x.toNat + n < 2 ^ w then BitVec.ofNat w (x.toNat + n) else BitVec.allOnes w

/-- Write one element of a fixed table of like things; out of range changes nothing. -/
def vset {α : Type} {n : Nat} (v : Vector α n) (i : Nat) (a : α) : Vector α n := v.setIfInBounds i a

/-- Read one element of a fixed table, `d` beyond its end. -/
def vget {α : Type} {n : Nat} (d : α) (v : Vector α n) (i : Nat) : α := v[i]?.getD d

end Sys2Proof.Machine
end

