-- ==== Sys2Proof/Machine/Crypto.lean ====
section
/-! DEFINITION. The published algorithms the manual names: AES (FIPS 197, R129), GCM and GHASH (SP 800-38D),
SHA-512, HMAC and HKDF (RFC 5869), RSASSA-PSS verification (RFC 8017, R416) and the CRC-32 of IEEE 802.3 (R520). -/

namespace Sys2Proof.Machine.Crypto

/-! ### AES -/

/-- Multiplication by x in the AES field. -/
def xtime (b : Byte) : Byte := if b.getLsbD 7 then (b <<< 1) ^^^ 0x1B else b <<< 1

/-- Product in the AES field. -/
def gmul (a b : Byte) : Byte :=
  (List.range 8).foldl (fun (acc : Byte × Byte) i => (if b.getLsbD i then acc.1 ^^^ acc.2 else acc.1, xtime acc.2))
    ((0 : Byte), a) |>.1

/-- The S-box of FIPS 197, row by row. -/
def sboxRows : List (List Nat) := [
  [0x63, 0x7c, 0x77, 0x7b, 0xf2, 0x6b, 0x6f, 0xc5, 0x30, 0x01, 0x67, 0x2b, 0xfe, 0xd7, 0xab, 0x76],
  [0xca, 0x82, 0xc9, 0x7d, 0xfa, 0x59, 0x47, 0xf0, 0xad, 0xd4, 0xa2, 0xaf, 0x9c, 0xa4, 0x72, 0xc0],
  [0xb7, 0xfd, 0x93, 0x26, 0x36, 0x3f, 0xf7, 0xcc, 0x34, 0xa5, 0xe5, 0xf1, 0x71, 0xd8, 0x31, 0x15],
  [0x04, 0xc7, 0x23, 0xc3, 0x18, 0x96, 0x05, 0x9a, 0x07, 0x12, 0x80, 0xe2, 0xeb, 0x27, 0xb2, 0x75],
  [0x09, 0x83, 0x2c, 0x1a, 0x1b, 0x6e, 0x5a, 0xa0, 0x52, 0x3b, 0xd6, 0xb3, 0x29, 0xe3, 0x2f, 0x84],
  [0x53, 0xd1, 0x00, 0xed, 0x20, 0xfc, 0xb1, 0x5b, 0x6a, 0xcb, 0xbe, 0x39, 0x4a, 0x4c, 0x58, 0xcf],
  [0xd0, 0xef, 0xaa, 0xfb, 0x43, 0x4d, 0x33, 0x85, 0x45, 0xf9, 0x02, 0x7f, 0x50, 0x3c, 0x9f, 0xa8],
  [0x51, 0xa3, 0x40, 0x8f, 0x92, 0x9d, 0x38, 0xf5, 0xbc, 0xb6, 0xda, 0x21, 0x10, 0xff, 0xf3, 0xd2],
  [0xcd, 0x0c, 0x13, 0xec, 0x5f, 0x97, 0x44, 0x17, 0xc4, 0xa7, 0x7e, 0x3d, 0x64, 0x5d, 0x19, 0x73],
  [0x60, 0x81, 0x4f, 0xdc, 0x22, 0x2a, 0x90, 0x88, 0x46, 0xee, 0xb8, 0x14, 0xde, 0x5e, 0x0b, 0xdb],
  [0xe0, 0x32, 0x3a, 0x0a, 0x49, 0x06, 0x24, 0x5c, 0xc2, 0xd3, 0xac, 0x62, 0x91, 0x95, 0xe4, 0x79],
  [0xe7, 0xc8, 0x37, 0x6d, 0x8d, 0xd5, 0x4e, 0xa9, 0x6c, 0x56, 0xf4, 0xea, 0x65, 0x7a, 0xae, 0x08],
  [0xba, 0x78, 0x25, 0x2e, 0x1c, 0xa6, 0xb4, 0xc6, 0xe8, 0xdd, 0x74, 0x1f, 0x4b, 0xbd, 0x8b, 0x8a],
  [0x70, 0x3e, 0xb5, 0x66, 0x48, 0x03, 0xf6, 0x0e, 0x61, 0x35, 0x57, 0xb9, 0x86, 0xc1, 0x1d, 0x9e],
  [0xe1, 0xf8, 0x98, 0x11, 0x69, 0xd9, 0x8e, 0x94, 0x9b, 0x1e, 0x87, 0xe9, 0xce, 0x55, 0x28, 0xdf],
  [0x8c, 0xa1, 0x89, 0x0d, 0xbf, 0xe6, 0x42, 0x68, 0x41, 0x99, 0x2d, 0x0f, 0xb0, 0x54, 0xbb, 0x16]]

/-- SubBytes of one byte. -/
def sbox (b : Byte) : Byte := BitVec.ofNat 8 ((sboxRows.getD (b.toNat / 16) []).getD (b.toNat % 16) 0)

/-- The round constants of R129. -/
def rcon : List Byte := [0x01, 0x02, 0x04, 0x08, 0x10, 0x20, 0x40, 0x80, 0x1B, 0x36]

/-- Key expansion: words already formed, newest first, until `total` are held. -/
def expand (nk : Nat) : Nat → Nat → List Bytes → List Bytes
  | 0, _, ws => ws
  | fuel + 1, i, ws =>
    let prev := ws.getD 0 []
    let back := ws.getD (nk - 1) []
    let t :=
      if i % nk = 0 then
        match prev.map sbox with
        | a :: rest => (match rest ++ [a] with
          | x :: xs => (x ^^^ rcon.getD (i / nk - 1) 0) :: xs
          | [] => [])
        | [] => []
      else if nk > 6 ∧ i % nk = 4 then prev.map sbox
      else prev
    expand nk fuel (i + 1) (xorBytes back t :: ws)

/-- Round keys of a 16-byte or 32-byte key, in order, 16 bytes each. -/
def roundKeys (key : Bytes) : List Bytes :=
  let nk := key.length / 4
  let total := 4 * (nk + 7)
  let start := (chunksOf 4 key).reverse
  chunksOf 16 ((expand nk (total - nk) nk start).reverse.flatten)

/-- ShiftRows on sixteen bytes in column order. -/
def shiftRows (b : Bytes) : Bytes :=
  (List.range 16).map (fun i => b.getD ((i + 4 * (i % 4)) % 16) 0)

/-- MixColumns of one column. -/
def mixColumn : Bytes → Bytes
  | [a, b, c, d] =>
    [xtime a ^^^ (xtime b ^^^ b) ^^^ c ^^^ d, a ^^^ xtime b ^^^ (xtime c ^^^ c) ^^^ d,
     a ^^^ b ^^^ xtime c ^^^ (xtime d ^^^ d), (xtime a ^^^ a) ^^^ b ^^^ c ^^^ xtime d]
  | x => x

/-- The rounds after the first AddRoundKey; the last leaves MixColumns out. -/
def rounds : List Bytes → Bytes → Bytes
  | [], b => b
  | [k], b => xorBytes (shiftRows (b.map sbox)) k
  | k :: ks, b => rounds ks (xorBytes (((chunksOf 4 (shiftRows (b.map sbox))).map mixColumn).flatten) k)

/-- AES encryption of one 16-byte block. Assumption log 81 (DEDUCED). -/
def aes (key block : Bytes) : Bytes :=
  match roundKeys key with
  | k :: ks => rounds ks (xorBytes block k)
  | [] => block

/-! ### GHASH and GCM -/

/-- Product in GF(2^128), bits in the order of SP 800-38D. -/
def gfMul (x y : BitVec 128) : BitVec 128 :=
  ((List.range 128).foldl (fun (zv : BitVec 128 × BitVec 128) i =>
    let z := if x.getMsbD i then zv.1 ^^^ zv.2 else zv.1
    let v := if zv.2.getLsbD 0 then (zv.2 >>> 1) ^^^ (0xE1#128 <<< 120) else zv.2 >>> 1
    (z, v)) (0, y)).1

/-- GHASH over whole 16-byte blocks. -/
def ghashBlocks (h : BitVec 128) (data : Bytes) : BitVec 128 :=
  (chunksOf 16 data).foldl (fun y b => gfMul (y ^^^ BitVec.ofNat 128 (beNat (padTo 16 b))) h) 0

/-- Pad with zeros to a multiple of 16 bytes. -/
def pad16 (b : Bytes) : Bytes := b ++ zeros ((16 - b.length % 16) % 16)

/-- GHASH of additional data and ciphertext with the length block. -/
def ghash (h : BitVec 128) (aad ct : Bytes) : Bytes :=
  be 16 (ghashBlocks h (pad16 aad ++ pad16 ct ++ be 8 (8 * aad.length) ++ be 8 (8 * ct.length))).toNat

/-- Counter-mode key stream for `n` blocks from counter `c`, 96-bit nonce. -/
def ctrStream (key nonce : Bytes) (n : Nat) : Bytes :=
  ((List.range n).map (fun i => aes key (nonce ++ be 4 (i + 2)))).flatten

/-- Counter-mode encryption, which is its own inverse. -/
def ctrCrypt (key nonce data : Bytes) : Bytes :=
  xorBytes data (ctrStream key nonce ((data.length + 15) / 16))

/-- The GCM tag of a ciphertext. -/
def gcmTag (key nonce aad ct : Bytes) : Bytes :=
  let h := BitVec.ofNat 128 (beNat (aes key (zeros 16)))
  xorBytes (ghash h aad ct) (aes key (nonce ++ be 4 1))

/-- GCM encryption: ciphertext and 16-byte tag. Assumption log 81 (DEDUCED). -/
def gcmSeal (key nonce aad plain : Bytes) : Bytes × Bytes :=
  let ct := ctrCrypt key nonce plain
  (ct, gcmTag key nonce aad ct)

/-- GCM decryption: the plaintext when the tag verifies. -/
def gcmOpen (key nonce aad ct tag : Bytes) : Option Bytes :=
  if gcmTag key nonce aad ct = tag then some (ctrCrypt key nonce ct) else none

/-! ### SHA-512, HMAC, HKDF -/

/-- Sixty-four bits of a wider number, `i` words from its low end. -/
def wordOf (n i : Nat) : W64 := BitVec.ofNat 64 (n >>> (64 * i))

/-- What FIPS 180-4 takes from the cube roots of the first eighty primes, the first 64 bits of each fractional part: four
a number, the earliest highest. -/
def rootNumbers : List Nat := [
  0x428A2F98D728AE227137449123EF65CDB5C0FBCFEC4D3B2FE9B5DBA58189DBBC,
  0x3956C25BF348B53859F111F1B605D019923F82A4AF194F9BAB1C5ED5DA6D8118,
  0xD807AA98A303024212835B0145706FBE243185BE4EE4B28C550C7DC3D5FFB4E2,
  0x72BE5D74F27B896F80DEB1FE3B1696B19BDC06A725C71235C19BF174CF692694,
  0xE49B69C19EF14AD2EFBE4786384F25E30FC19DC68B8CD5B5240CA1CC77AC9C65,
  0x2DE92C6F592B02754A7484AA6EA6E4835CB0A9DCBD41FBD476F988DA831153B5,
  0x983E5152EE66DFABA831C66D2DB43210B00327C898FB213FBF597FC7BEEF0EE4,
  0xC6E00BF33DA88FC2D5A79147930AA72506CA6351E003826F142929670A0E6E70,
  0x27B70A8546D22FFC2E1B21385C26C9264D2C6DFC5AC42AED53380D139D95B3DF,
  0x650A73548BAF63DE766A0ABB3C77B2A881C2C92E47EDAEE692722C851482353B] ++ [
  0xA2BFE8A14CF10364A81A664BBC423001C24B8B70D0F89791C76C51A30654BE30,
  0xD192E819D6EF5218D69906245565A910F40E35855771202A106AA07032BBD1B8,
  0x19A4C116B8D2D0C81E376C085141AB532748774CDF8EEB9934B0BCB5E19B48A8,
  0x391C0CB3C5C95A634ED8AA4AE3418ACB5B9CCA4F7763E373682E6FF3D6B2B8A3,
  0x748F82EE5DEFB2FC78A5636F43172F6084C87814A1F0AB728CC702081A6439EC,
  0x90BEFFFA23631E28A4506CEBDE82BDE9BEF9A3F7B2C67915C67178F2E372532B,
  0xCA273ECEEA26619CD186B8C721C0C207EADA7DD6CDE0EB1EF57D4F7FEE6ED178,
  0x06F067AA72176FBA0A637DC5A2C898A6113F9804BEF90DAE1B710B35131C471B,
  0x28DB77F523047D8432CAAB7B40C724933C9EBE0A15C9BEBC431D67C49C100D4C,
  0x4CC5D4BECB3E42B6597F299CFC657E2A5FCB6FAB3AD6FAEC6C44198C4A475817]

/-- The constant that each round of SHA-512 adds. -/
def roundAdds : List W64 := rootNumbers.flatMap fun n => [3, 2, 1, 0].map (wordOf n)

/-- The eight working variables of SHA-512. -/
structure Digest where
  a : W64
  b : W64
  c : W64
  d : W64
  e : W64
  f : W64
  g : W64
  h : W64
  deriving DecidableEq, Repr

/-- Its value before the first block: the first 64 bits of the fractional parts of the square roots of the first eight
primes, the earliest highest. -/
def Digest.start : Digest :=
  let w := wordOf (0x6A09E667F3BCC908BB67AE8584CAA73B3C6EF372FE94F82BA54FF53A5F1D36F1 * 2 ^ 256 +
    0x510E527FADE682D19B05688C2B3E6C1F1F83D9ABFB41BD6B5BE0CD19137E2179)
  ⟨w 7, w 6, w 5, w 4, w 3, w 2, w 1, w 0⟩

/-- The exclusive OR of a word turned right by each of some amounts. -/
def turns (x : W64) (l : List Nat) : W64 := l.foldl (fun acc n => acc ^^^ x.rotateRight n) 0

/-- One round, which takes a constant and a word of the message. -/
def Digest.round (v : Digest) (add word : W64) : Digest :=
  let up := v.h + turns v.e [14, 18, 41] + (v.g ^^^ (v.e &&& (v.f ^^^ v.g))) + add + word
  { a := up + turns v.a [28, 34, 39] + ((v.a &&& (v.b ||| v.c)) ||| (v.b &&& v.c))
    b := v.a, c := v.b, d := v.c, e := v.d + up, f := v.e, g := v.f, h := v.g }

/-- The rounds of one block: each takes the oldest of the sixteen message words in hand and puts in their place the word
that the message schedule forms of them. -/
def Digest.rounds : List W64 → List W64 → Digest → Digest
  | [], _, v => v
  | _, [], v => v
  | add :: adds, word :: rest, v =>
    let x := rest.getD 0 0
    let y := rest.getD 13 0
    let next := word + (turns x [1, 8] ^^^ (x >>> 7)) + rest.getD 8 0 + (turns y [19, 61] ^^^ (y >>> 6))
    Digest.rounds adds (rest ++ [next]) (v.round add word)

/-- The effect of one 128-byte block. -/
def Digest.block (v : Digest) (b : Bytes) : Digest :=
  let r := Digest.rounds roundAdds ((chunksOf 8 b).map fun w => BitVec.ofNat 64 (beNat w)) v
  ⟨v.a + r.a, v.b + r.b, v.c + r.c, v.d + r.d, v.e + r.e, v.f + r.f, v.g + r.g, v.h + r.h⟩

/-- SHA-512 (FIPS 180-4). Assumption log 81 (DEDUCED). -/
def sha512 (m : Bytes) : Bytes :=
  let filled := m ++ 0x80 :: zeros ((239 - m.length % 128) % 128) ++ be 16 (8 * m.length)
  let v := (chunksOf 128 filled).foldl Digest.block Digest.start
  [v.a, v.b, v.c, v.d, v.e, v.f, v.g, v.h].flatMap fun w => be 8 w.toNat

/-- HMAC-SHA-512. Assumption log 81 (DEDUCED). -/
def hmac (key m : Bytes) : Bytes :=
  let k := padTo 128 (if key.length > 128 then sha512 key else key)
  sha512 (k.map (· ^^^ 0x5C) ++ sha512 (k.map (· ^^^ 0x36) ++ m))

/-- HKDF-Expand with SHA-512, its first `n` bytes (`n` at most 64). -/
def hkdfExpand (prk info : Bytes) (n : Nat) : Bytes := (hmac prk (info ++ [1])).take n

/-- HKDF-SHA-512 (RFC 5869), its first `n` bytes (`n` at most 64). Assumption log 81 (DEDUCED). -/
def hkdf (ikm salt info : Bytes) (n : Nat) : Bytes :=
  hkdfExpand (hmac (if salt.isEmpty then zeros 64 else salt) ikm) info n

/-- Fingerprint of a secret key (R384). Assumption log 64 (PRESUMED). -/
def fingerprint (k : Bytes) : Bytes := sha512 (ascii "LSV960-KEYFP" ++ k)

/-! ### RSASSA-PSS, ECDHE and CRC-32 -/

/-- Modular power by the binary digits of the exponent. -/
def powMod (n : Nat) : Nat → Nat → Nat → Nat → Nat
  | 0, _, _, acc => acc
  | fuel + 1, b, e, acc =>
    if e = 0 then acc
    else powMod n fuel (b * b % n) (e / 2) (if e % 2 = 1 then acc * b % n else acc)

/-- MGF1 with SHA-512. -/
def mgf1 (seed : Bytes) (n : Nat) : Bytes :=
  (((List.range ((n + 63) / 64)).map (fun i => sha512 (seed ++ be 4 i))).flatten).take n

/-- RSASSA-PSS verification with SHA-512, MGF1 with SHA-512, a 64-byte salt and trailer 0xBC (R416), exponent 65,537.
Assumption log 81 (DEDUCED). -/
def pssVerify (modulus message signature : Bytes) : Bool :=
  let n := beNat modulus
  let s := beNat signature
  if n ≤ s ∨ n = 0 ∨ signature.length ≠ modulus.length then false
  else
    let emBits := Nat.log2 n
    let emLen := (emBits + 7) / 8
    let m := powMod n 18 s 65537 1
    if 256 ^ emLen ≤ m ∨ emLen < 130 then false
    else
      let em := be emLen m
      let dbLen := emLen - 65
      let h := slice em dbLen 64
      let mask := mgf1 h dbLen
      let top := 8 * emLen - emBits
      let db := xorBytes (em.take dbLen) mask
      let db := match db with
        | x :: xs => BitVec.ofNat 8 (x.toNat % 2 ^ (8 - top)) :: xs
        | [] => []
      let ps := db.take (dbLen - 65)
      let salt := db.drop (dbLen - 64)
      u8 em (emLen - 1) == 0xBC && decide ((u8 em 0).toNat < 2 ^ (8 - top)) && ps.all (· == 0) &&
        u8 db (dbLen - 65) == 1 &&
        decide (sha512 (zeros 8 ++ sha512 message ++ salt) = h)

/-- EMSA-PSS encoding for a 4,096-bit key, with the parameters of R416. -/
def pssEncode (message salt : Bytes) : Bytes :=
  let h := sha512 (zeros 8 ++ sha512 message ++ salt)
  let db := xorBytes (zeros 382 ++ [1] ++ salt) (mgf1 h 447)
  (u8 db 0 &&& 0x7F) :: db.drop 1 ++ h ++ [0xBC]

/-- R416: an RSASSA-PSS signature under a 4,096-bit key, as the 512-byte big-endian integer.
Assumption log 81 (DEDUCED). -/
def pssSign (modulus : BitVec 4095) (exponent : BitVec 4096) (message salt : Bytes) : Bytes :=
  be 512 (powMod (2 ^ 4095 + modulus.toNat) 4096 (beNat (pssEncode message salt)) exponent.toNat 1)

/-- The curve secp384r1 (R388): its prime, its order, its coefficient b and its base point. -/
def prime384 : Nat := 2 ^ 384 - 2 ^ 128 - 2 ^ 96 + 2 ^ 32 - 1
@[inherit_doc prime384] def order384 : Nat :=
  0xFFFFFFFFFFFFFFFFFFFFFFFFFFFFFFFFFFFFFFFFFFFFFFFFC7634D81F4372DDF581A0DB248B0A77AECEC196ACCC52973
@[inherit_doc prime384] def b384 : Nat :=
  0xB3312FA7E23EE7E4988E056BE3F82D19181D9C6EFE8141120314088F5013875AC656398D8A2ED19D2A85C8EDD3EC2AEF
@[inherit_doc prime384] def base384 : Nat × Nat :=
  (0xAA87CA22BE8B05378EB1C71EF320AD746E1D3B628BA79B9859F741E082542A385502F25DBF55296C3A545E3872760AB7,
    0x3617DE4A96262C6F5D9E98BF9292DC29F8F41DBD289A147CE9DA3113B5F0B8C00A60B1CE1D7E819D7A431D7C90EA0E5F)

/-- A pair of coordinates is a point of the curve. -/
def onCurve (q : Nat × Nat) : Bool :=
  decide (q.1 < prime384 ∧ q.2 < prime384 ∧ q.2 * q.2 % prime384 = (q.1 * q.1 * q.1 + (prime384 - 3) * q.1 + b384) % prime384)

/-- The line through a point with a slope given as a fraction meets the curve again; the sum is that point's mirror. -/
def curveChord (q : Nat × Nat) (x rise run : Nat) : Nat × Nat :=
  let m := rise * powMod prime384 384 (run % prime384) (prime384 - 2) 1 % prime384
  let x3 := (m * m + 2 * prime384 - q.1 - x) % prime384
  (x3, (m * (prime384 + q.1 - x3) + prime384 - q.2) % prime384)

/-- The sum of two points; none is the point at infinity. -/
def curveAdd : Option (Nat × Nat) → Option (Nat × Nat) → Option (Nat × Nat)
  | none, q => q
  | q, none => q
  | some q, some r =>
    if q.1 ≠ r.1 then some (curveChord q r.1 (prime384 + r.2 - q.2) (prime384 + r.1 - q.1))
    else if q.2 = r.2 ∧ q.2 ≠ 0 then some (curveChord q q.1 (3 * q.1 * q.1 + prime384 - 3) (2 * q.2))
    else none

/-- A multiple of a point. Assumption log 81 (DEDUCED). -/
def curveMul (k : Nat) (q : Nat × Nat) : Option (Nat × Nat) :=
  (List.range 384).reverse.foldl (fun acc i =>
    let d := curveAdd acc acc
    if k.testBit i then curveAdd d (some q) else d) none

/-- The coordinates of a point, big-endian; zeros for the point at infinity. -/
def pointBytes : Option (Nat × Nat) → Bytes
  | some q => be 48 q.1 ++ be 48 q.2
  | none => zeros 96

/-- One byte of the CRC-32 of IEEE 802.3. -/
def crcByte (c : W32) (b : Byte) : W32 :=
  (List.range 8).foldl (fun (c : W32) _ => if c.getLsbD 0 then (c >>> 1) ^^^ 0xEDB88320 else c >>> 1)
    (c ^^^ b.setWidth 32)

/-- The CRC-32 of IEEE 802.3. Assumption log 81 (DEDUCED). -/
def crc32 (b : Bytes) : W32 := ~~~(b.foldl crcByte 0xFFFFFFFF)

end Sys2Proof.Machine.Crypto
end

