-- ==== Sys2Proof/Machine/State.lean ====
section
/-! DEFINITION. The state of the module: every register, record, queue, key and pin the manual gives it, as plain
data, and the machine right after a Power-on reset with no supply present. -/

namespace Sys2Proof.Machine

/-! ### Sparse tables

A table over natural-number keys lists, in rising order, exactly the entries that differ from the value an unlisted
key reads as. Memories are such tables of bytes. -/

/-- A sparse table: (key, value) pairs. -/
abbrev Table (α : Type) := List (Nat × α)

/-- A memory: cells in rising address order; an unlisted address reads zero (see notes/assumptions).
Assumption log 7 (DESIGN CHOICE). -/
abbrev Memory := List Host.Cell

/-- Read a table; `d` is what an unlisted key reads as. -/
def Table.get {α : Type} (d : α) : Table α → Nat → α
  | [], _ => d
  | (k, v) :: rest, key => if k = key then v else Table.get d rest key

/-- Write a table, keeping the canonical form: rising keys, and no entry equal to `d`. -/
def Table.set {α : Type} [DecidableEq α] (d : α) : Table α → Nat → α → Table α
  | [], key, x => if x = d then [] else [(key, x)]
  | (k, v) :: rest, key, x =>
    if key < k then (if x = d then (k, v) :: rest else (key, x) :: (k, v) :: rest)
    else if key = k then (if x = d then rest else (key, x) :: rest)
    else (k, v) :: Table.set d rest key x

/-- Every listed key is above `lo` and the keys rise. -/
def Table.risingFrom {α : Type} : Nat → Table α → Bool
  | _, [] => true
  | lo, (k, _) :: rest => decide (lo ≤ k) && Table.risingFrom (k + 1) rest

/-- The canonical form of a table with default `d`. -/
def Table.wf {α : Type} [DecidableEq α] (d : α) (t : Table α) : Bool :=
  Table.risingFrom 0 t && t.all (fun e => decide (e.2 ≠ d))

/-- The canonical form of a memory. -/
def Memory.wf (m : Memory) : Bool := Table.wf (0 : Byte) m

/-! ### Small enumerations -/

/-- Session states of R387. -/
inductive SessState where
  | free | opening | ready | running | closing
  deriving DecidableEq, Repr

/-- Dispatch context states of R98. -/
inductive CtxState where
  | idle | waiting | running | stopped
  deriving DecidableEq, Repr

/-- Mailbox states of R467. -/
inductive MbState where
  | idle | submitted | serving | done
  deriving DecidableEq, Repr

/-- FW_STATE of R488. -/
inductive FwState where
  | awaiting | receiving | verifying | running | rejected
  deriving DecidableEq, Repr

/-- Power states of R525. -/
inductive Power where
  | ps0 | ps1 | ps2 | ps3 | ps4
  deriving DecidableEq, Repr

/-- SYNC_STATE of R295. -/
inductive Sync where
  | free | acquiring | locked | holdover
  deriving DecidableEq, Repr

/-- Krelas port states of R247. -/
inductive PortState where
  | disabled | training | keying | up | degraded | down
  deriving DecidableEq, Repr

/-- Reset reaches of R13, narrowest first. -/
inductive Reach where
  | block | quarter | warm | cold | powerOn
  deriving DecidableEq, Repr

/-- Kinds of key slot of R383. -/
inductive SlotKind where
  | party (p : Nat) | joint | reserve | link | exportKey
  deriving DecidableEq, Repr

/-- Conditions of a stored line, tag or metadata entry (R357, R358): what its code and tag checks will find.
A line may have lost its tag alone, to a tag line that was uncorrectable.
Assumption log 8 (DEDUCED), 9 (DESIGN CHOICE). -/
inductive LineCond where
  | good | correctable | uncorrectable | tagBad | tagLost | poisoned
  deriving DecidableEq, Repr

/-- States of an IDE stream (R458). -/
inductive IdeState where
  | never | secure | lost
  deriving DecidableEq, Repr

/-- Stages of a descriptor in progress. -/
inductive Stage where
  | started   -- handed to its engine, not launched (a timed descriptor waits for its postmark)
  | launched  -- launched; its work is in progress
  | finished  -- its work is done with the status it will complete with
  deriving DecidableEq, Repr

/-! ### Records a party reads (R484) -/

/-- Numeric event record, R134. -/
structure NumRec where
  inSat : W64
  inNan : W64
  nanOut : W64
  accOvf : W64
  outSat : W64
  flush : W64
  nanBlock : W64
  deriving DecidableEq, Repr

/-- Scale record, R154. `fmtLocked` is the lock of its RWL fields. -/
structure ScaleRec where
  fmt : BitVec 4
  policy : BitVec 2
  blockEn : Bool
  voidOnMiss : Bool
  margin : BitVec 4
  satShift : BitVec 5
  flushShift : BitVec 5
  histLen : BitVec 5
  staticScale : W32
  workScale : W32
  curAmax : W32
  elemCount : W64
  satCount : W64
  flushCount : W64
  missSat : Bool
  missFlush : Bool
  replay : Bool
  nanSeen : Bool
  histHead : BitVec 4
  histValid : BitVec 5
  lastStep : W32
  scaleAddr : W64
  history : Vector W32 16
  fmtLocked : Bool
  deriving DecidableEq, Repr

/-- Re-blocking record, R185. -/
structure ReblockRec where
  elem : W64
  inexact : W64
  flush : W64
  dualFlush : W64
  deriving DecidableEq, Repr

/-- Seal record, R238. -/
structure SealRec where
  step : W32
  attempt : BitVec 16
  lastDecision : BitVec 2
  sealing : Bool
  lastReasons : BitVec 16
  voidCount : W32
  lastFlip : W64
  commitCount : W32
  deriving DecidableEq, Repr

/-- Update record, R239. -/
structure UpdRec where
  updElem : W64
  updNan : W64
  noiseElem : W64
  noiseSteps : W64
  deriving DecidableEq, Repr

/-- Collective record, R290. -/
structure CollRec where
  done : W64
  chunksTx : W64
  chunksRx : W64
  sumOvf : W64
  retried : W64
  tagTaint : W64
  residueTaint : W64
  residueFail : W64
  staleDrop : W64
  routeDrop : W64
  deriving DecidableEq, Repr

/-- Violation log entry, R377. -/
structure Violation where
  far : Bool
  address : BitVec 63
  postmark : W64
  kind : BitVec 4
  level : BitVec 4
  owner : BitVec 5
  deriving DecidableEq, Repr

/-- Memory record, R376; `log` holds at most sixteen entries in order of detection. -/
structure MemRec where
  corrected : W64
  uncorrectable : W64
  integrity : W64
  poisonRead : W64
  refrank : W64
  metaFetch : W64
  keyEpoch : W32
  sweeping : Bool
  readOnly : Bool
  quarantined : Bool
  exportSeq : W64
  log : List Violation
  deriving DecidableEq, Repr

/-- Held record, R327; `reasonOf` is rank 0's byte of every rank. -/
structure HeldRec where
  held : Bool
  ownReasons : BitVec 8
  groupReasons : BitVec 8
  epoch : W64
  heldSince : W64
  reasonOf : Table Byte
  deriving DecidableEq, Repr

/-! ### Dispatch -/

/-- A loaded dispatch list: the running copy and its SHA-512 digest (R87). -/
structure DispatchList where
  descs : List Bytes
  digest : Bytes
  deriving DecidableEq, Repr

/-- A dispatch context: its record (R98), the latch of its satisfied wait (R94) and the number its next
descriptor takes. -/
structure Context where
  index : BitVec 17               -- up to 65,536, one past the longest list (R86, R97); DESC_INDEX shows [15:0]
  slot : Byte
  state : CtxState
  status : BitVec 16
  lateCount : BitVec 16
  completed : W32
  waitMet : Bool
  nextSeq : Nat
  deriving DecidableEq, Repr

/-- One contribution source of a collective: owner, address, scale address, scale record (R265). -/
structure Source where
  party : Nat
  addr : W64
  saddr : W64
  srec : BitVec 16
  deriving DecidableEq, Repr

/-- A descriptor in progress. -/
structure Op where
  ctx : Nat
  seq : Nat
  slot : Nat
  index : Nat
  desc : Bytes
  stage : Stage
  readyAt : W64                   -- postmark since which its launch conditions hold (R83)
  launchedAt : W64                -- postmark of its launch
  status : BitVec 16
  step : W32
  attempt : BitVec 16
  scales : List (Nat × W32)       -- WORK_SCALE of each record named, read at launch (R149)
  copies : Table Bool             -- pages whose current copy was copy 1 at launch (R214)
  sources : List Source           -- a collective's sources as checked at launch (R265)
  sizes : List (List Nat)         -- an EXCHANGE_V's size table as read at launch (R267)
  progress : Nat                  -- tiles, pages, chunks or rows done
  dropped : Bool                  -- it met an item of a struck generation (R409)
  taint : Bool                    -- a chunk or local sum of it is tainted (R289)
  feeds : Option (Nat × Nat)      -- the array operation (ctx, seq) that a stream serves (R179)
  deriving DecidableEq, Repr

/-- A finished element of a tile: FP32 value and sticky flags (R114, R115). -/
structure Acc where
  value : W32
  nan : Bool
  ovf : Bool
  deriving DecidableEq, Repr

/-- A tile in an accumulator bank: its product (false the primary, true the companion of R187), its row and column
tile, and its elements, row by row. -/
structure Tile where
  ctx : Nat
  seq : Nat
  companion : Bool
  rowTile : Nat
  colTile : Nat
  rows : Nat
  cols : Nat
  accs : List (List Acc)
  deriving DecidableEq, Repr

/-- A session's piece of the array (R27, R55). -/
structure Piece where
  top : Nat
  dies : Nat
  party : Option Nat              -- PARTY of the last array operation (R77)
  held : Option Tile              -- R53
  bank : Bool                     -- bank the next tile enters
  last : Option (Nat × Nat × Nat) -- issue clock and K_c of the last tile, and clocks its drain was held (R49, R52)
  prev : Option (Nat × Nat × Nat) -- and of the tile before it
  lastHeld : Bool                 -- the last tile was one of a HOLD operation, which does not drain (R53)
  clock : Nat                     -- ARR clocks of the piece
  quiet : Bool                    -- it holds no launched array operation (R556)
  wake : Bool                     -- the next operation it takes was launched while it was idle (R82)
  idleSince : W64                 -- postmark at which its last accepted operation had issued its last tile (R83)
  quietSince : W64                -- postmark since which it holds no array operation (R556)
  opened : List (Nat × Nat)       -- accepted array operations (ctx, seq), issuing first (R92)
  tiles : List Tile               -- issued tiles not yet drained, oldest first
  rowBuffer : List Tile           -- tiles of a row tile drained into the row buffer, R205
  retired : List Nat              -- retired slots of the attempt, for each die of the piece (R557)
  deriving DecidableEq, Repr

/-- Kernel table (R193): entries 1 onwards and the digest. -/
structure KernelTable where
  entries : List Bytes
  digest : Bytes
  deriving DecidableEq, Repr

/-- A page of copy 0 of the parameter region (R213). -/
structure Page where
  current : Bool      -- false copy 0, true copy 1
  pending : Bool
  step : W32          -- step of its last committed write
  deriving DecidableEq, Repr

/-- A party's noise record (R236). -/
structure NoiseRec where
  party : Nat
  step : W32
  tensor : W32
  samples : List W32
  deriving DecidableEq, Repr

/-- A run of bytes of a session: on the Sorting store of a Frame die (space 0 to 3) or in session HBM (space 4). -/
structure Span where
  space : Nat
  start : Nat
  len : Nat
  deriving DecidableEq, Repr

/-- A recorded output of a DP_NOISE (R237): data and scale byte ranges. -/
structure NoiseOut where
  party : Nat
  data : List Span
  scale : List Span
  deriving DecidableEq, Repr

/-- A started STEP_SEAL (R223). -/
structure Sealing where
  ctx : Nat
  seq : Nat
  launch : W64
  decideNs : Nat
  flipNs : Nat
  fenceMask : BitVec 4
  replaySlot : Nat
  replayIndex : Nat
  voteSent : Bool
  ownReasons : BitVec 16
  deriving DecidableEq, Repr

/-- A vote held by the decider or a ring master (R224, R319). -/
structure Vote where
  rank : Nat
  step : W32
  attempt : BitVec 16
  reasons : BitVec 16
  launch : W64
  deriving DecidableEq, Repr

/-- A roll-call message held by a ring master (R322): the sender's rank, the body, and whether its time was out. -/
structure RollMsg where
  rank : Nat
  body : Bytes
  timeBad : Bool
  deriving DecidableEq, Repr

/-- A roll call in progress (R321 to R324). -/
structure RollCall where
  p : W64
  epoch : W64
  sent : Bool
  body : Bytes                    -- the body this member sent
  reference : Option Bytes        -- rank 0's body
  heard : List RollMsg
  summaries : List Bytes          -- SUMMARY bodies held by rank 0
  summarySent : Bool
  verdict : Option (Byte × BitVec 16)       -- DECISION and REASONS held
  deriving DecidableEq, Repr

/-- Consignment configuration (R315). -/
structure Consign where
  rank : Nat
  members : Nat
  timePort : Option Nat
  places : List (Nat × Nat)       -- ring and position of each rank
  nonceDigest : Bytes
  deriving DecidableEq, Repr

/-- A tensor of the weight plan (R399). -/
structure PlanTensor where
  id : W32
  addr : W64
  length : W64
  deriving DecidableEq, Repr

/-- The weight plan and the progress of its ingestion (R399 to R401). -/
structure WeightPlan where
  tensors : List PlanTensor
  bytes : Nat
  received : List (Nat × Nat)     -- copy-0 byte ranges ingested, first and past-last
  leaves : List (Nat × Bytes)     -- chunks of the stream hashed so far (R401), by number
  digest : Bytes                  -- WEIGHT_DIGEST, zero until the root is formed
  deriving DecidableEq, Repr

/-- An ingest that has been accepted and not ended (R398). -/
structure Ingest where
  id : Nat
  party : Nat
  owner : Nat
  memAddr : Nat
  length : Nat
  hostAddr : Nat
  ingestId : W64
  timeout : Nat
  acceptedAt : W64
  deriving DecidableEq, Repr

/-- A pending-table entry (R477, R487, R489). `key` is the request's arguments, by which a repeat is recognised. -/
structure Pending where
  command : Nat
  status : BitVec 16
  session : Byte
  party : Byte
  tag : W32
  seq : W64
  key : Bytes
  deriving DecidableEq, Repr

/-- A party removal accepted and not complete (R406). -/
structure Removal where
  party : Nat
  strikeAt : W64
  struck : Bool
  deriving DecidableEq, Repr

/-- A session close in progress (R411): acceptance, the postmark of its strike, and the mailbox it answers, if any. -/
structure Closing where
  strikeAt : W64
  struck : Bool
  mailbox : Option Nat
  deriving DecidableEq, Repr

/-- A party's command key (R389): the SPDM session it came from and the last SEQ accepted under it (R394). -/
structure CmdKey where
  party : Nat
  spdm : Nat
  seq : W64
  deriving DecidableEq, Repr

/-- A sample record waiting in its unit's queue, or written (R552, R553). -/
structure Sample where
  unit : Nat
  bytes : Bytes
  deriving DecidableEq, Repr

/-- A session's sample ring (R552). -/
structure SampleRing where
  owner : Nat
  base : Nat
  size : Nat
  head : Nat
  tail : Nat
  lost : W32
  seq : W32
  queue : List Sample
  deriving DecidableEq, Repr

/-- A chunk arriving at a member or held in its landing buffer (R276, R280): its header, source rank, the Hub die whose
half of the buffer holds it, and its elements. A member's own leaves stand beside them. -/
structure Chunk where
  header : Bytes
  src : Nat
  half : Nat
  data : Bytes
  tainted : Bool                  -- a value formed from it had left when its check failed (R288)
  deriving DecidableEq, Repr

/-- A session (R387). -/
structure Session where
  state : SessState
  config : Bytes                  -- the 2,048-byte configuration record, R380
  configDigest : Bytes
  programs : List Bytes           -- approved list digests, R397
  kernelAllowed : Bytes
  joined : BitVec 16
  removed : BitVec 16
  shares : Table Bytes
  seed : Bytes
  statusKey : Bytes
  memberNonce : Bytes
  ingestKeys : Table Bytes
  ingestIds : Table (Option W64)  -- the last identifier accepted from each party (R398)
  cmdKeys : List CmdKey
  statusSeq : W64
  statusEnv : Bytes               -- its portion of the status block, as last written (R487, R489)
  ctxs : Vector Context 4
  ops : List Op                   -- descriptors in progress, in start order
  lists : List (Nat × DispatchList)
  kernel : Option KernelTable
  piece : Piece
  num : NumRec
  scales : Table ScaleRec
  reblock : ReblockRec
  sealRec : SealRec
  upd : UpdRec
  coll : CollRec
  mem : MemRec
  held : HeldRec
  pages : Table Page
  noise : List NoiseRec
  outputs : List NoiseOut
  noiseRan : Bool                 -- a DP_NOISE with SIGMA above +0 ran in the step
  updNanInAttempt : Bool
  voteReasons : BitVec 16         -- reasons gathered in the attempt, R224
  sealing : Option Sealing
  exhausted : Bool                -- step 0xFFFF_FFFF has committed (R228)
  votes : List Vote
  ringSummaries : List Bytes      -- SUMMARY bodies held by rank 0, R319
  sealSummarySent : Bool
  decision : Option Bytes         -- decision record held, R225
  routing : Bytes                 -- the routing set: one table of 2,048 entries for each rank, R257 and R317
  routingDigest : Bytes
  groups : List (List Nat)        -- groups 1 onwards, R262
  consign : Option Consign
  linkSalt : Bytes
  frameSeq : W64                  -- ring frame counter of the ring key, R297
  epoch : W64
  epochOpen : Bool
  manifest : Bytes                -- last manifest digest, R320
  roll : Option RollCall
  plan : Option WeightPlan
  ingests : List Ingest
  pend : List Pending
  removals : List Removal
  closing : Option Closing
  quiesce : List Engine           -- engines that still hold an item of a struck generation, R408
  struckAt : List (Engine × W64)  -- and the postmark of the strike from which each of them counts, R408
  landing : List Chunk
  inbound : Table Chunk           -- chunks being assembled, by source rank
  unsent : List (Nat × Nat)       -- descriptors (ctx, seq) a flit of which was dropped unacknowledged (R282)
  lost : List (Nat × Nat × Nat)   -- collectives whose data were dropped as stale: identifier, step, attempt (R284)
  ring : Option SampleRing
  farParts : List (Nat × Nat)     -- units of 1 GiB of the far range: far target and unit of it (R365, R483)
  deriving DecidableEq, Repr

/-! ### Memories and dies -/

/-- A page's counters (R346): major and the 64 minors, as a table with default 0. -/
structure Counters where
  major : W64
  minors : Table (BitVec 7)
  deriving DecidableEq, Repr

/-- A memory channel or a far range: who holds it, its plaintext as the protection engine returns it, the counters and
the tree versions, what of them the metadata cache holds, the stored bytes no live key accounts for, the condition of
each stored line, and the sweep pointer (R332, R343 to R355, R361, R362). Counter groups and nodes are keyed by
level·2^32 + index, a group at level 0. Assumption log 8 (DEDUCED), 76 (DESIGN CHOICE). -/
structure Channel where
  holder : Option (Nat × Nat)     -- session and owner code
  data : Memory
  counters : Table Counters       -- by page: the newest, as the cache or the stored copy has them
  versions : Table (BitVec 56)    -- by group or node: the version its parent holds; a group's eight are one
  cache : Table (Option Bool)     -- groups and nodes resident in the metadata cache; true: dirty
  stored : Table (Option Byte)    -- bytes stored at an address: metadata as last written back, and old ciphertext
  lines : Table LineCond          -- by line
  tagLines : Table LineCond       -- by tag line (eight lines)
  groups : Table LineCond         -- by counter block (page)
  nodes : Table LineCond          -- by node
  failed : List (Nat × LineCond)  -- groups and nodes found faulty (R588), with the status class they keep
  sweep : Option Nat              -- counter groups below the pointer use the new epoch
  ahead : List Nat                -- groups swept before the pointer reached them
  deriving DecidableEq, Repr

/-- A Frame die's staging memory and units (R20, R404). -/
structure Die where
  store : Memory                  -- Sorting store
  phParty : Option Nat            -- PARTY recorded by the Pigeonhole
  cbParty : Option Nat            -- PARTY recorded by the Counting Board
  phQueue : List OpRef            -- moves and streams in start order, R176
  inReset : Bool                  -- the quarter is under a Quarter reset
  readying : Bool                 -- released and not yet available, R519
  clear : Nat                     -- ARR clocks spent clearing units at changes of PARTY
  deriving DecidableEq, Repr

/-- A key slot (R383, R385). -/
structure KeySlot where
  key : Bytes
  gen : W32
  binding : Option (Nat × SlotKind)
  draining : Bool                 -- struck, and some engine not yet quiescent (R386)
  deriving DecidableEq, Repr

/-- A tally (R309) and its arm (R314). Assumption log 1 (DESIGN CHOICE). -/
structure Tally where
  value : W32
  arm : Option (W64 × W32 × Nat × Nat)   -- postmark, increment, session, context
  clock : W64                            -- postmark of the CTRL clock of the last update (R313)
  before : W32                           -- the value before that clock
  setBy : Option Nat                     -- context of the TALLY_SET that holds on that clock
  adds : W32                             -- sum of the adds of that clock
  deriving DecidableEq, Repr

/-- A tally as binding leaves it (R309). -/
def Tally.reset : Tally := ⟨0, none, 0, 0, none, 0⟩

/-! ### Krelas ports -/

/-- A flit queued or held for retry: TYPE, DST, SRC, FIRST, LAST and payload (R248), the generation it was queued under
(R284), and the context and number of the collective of this member that sends it. -/
structure OutFlit where
  type : Nat
  dst : Nat
  src : Nat
  first : Bool
  last : Bool
  payload : Bytes
  gen : Nat
  work : Option (Nat × Nat)
  deriving DecidableEq, Repr

/-- A data flit that arrived in PS1 and waits for PS0 (R526), with what its service then needs. -/
structure Arrived where
  flit : OutFlit
  gen : Nat
  tainted : Bool
  faults : List AddFault
  deriving DecidableEq, Repr

/-- A Krelas port: configuration (R246), status (R247), counters, queues and credits (R252 to R255).
Assumption log 84 (DESIGN CHOICE). -/
structure Port where
  enable : Bool
  session : BitVec 2
  bound : Bool
  peerRank : BitVec 11
  peerPort : BitVec 5
  peerLocked : Bool
  loopback : Bool
  txPolarity : Byte
  rxPolarity : Byte
  txPreset : BitVec 3
  state : PortState
  lanes : Byte
  failedLanes : Byte
  downReason : BitVec 4
  cableDelay : BitVec 16
  epochTagFail : Byte
  fecCorrected : W64
  fecUncorrectable : W64
  retry : W64
  tagFail : W64
  dataTx : W64
  dataRx : W64
  keyEpoch : W64                  -- epoch of the keys in use
  txSlot : W64
  rxSlot : W64
  txCtl : W64
  rxCtl : W64
  txSeq : BitVec 12
  rxSeq : BitVec 12
  discarding : Bool               -- discarding until the NAKed flit arrives again, R254
  window : List (BitVec 12 × OutFlit)
  resend : List (BitVec 12 × OutFlit)
  control : List OutFlit
  data : List OutFlit
  lastStream : Nat                -- destination·2048 + source of the data flit last sent
  dataCredits : BitVec 16
  ctlCredits : BitVec 16
  wire : Bytes                    -- flit last put on the lanes
  arrived : List Arrived          -- data flits that wait for PS0, oldest first (R526)
  owed : Nat                      -- data credits not yet returned to the peer (R255, R280)
  granted : Bool                  -- the buffers have been granted since training (R255)
  sentBlocks : List Bytes         -- control blocks sent and not observed, newest first
  keyingSince : W64
  lastStamp : Option (W64 × W64)  -- peer's postmark and arrival of its last TIMESTAMP
  stampDelays : List Int          -- delays of the last five exchanges, newest first
  lastSentStamp : W64
  resetMbs : List Nat             -- mailboxes of LINK_RESETs awaiting acknowledgement (R250)
  deriving DecidableEq, Repr

/-! ### Time and the postal ring -/

/-- One direction of the ring port. Assumption log 84 (DESIGN CHOICE). -/
structure RingSide where
  locked : Bool
  measSeq : W32
  sentAt : Option W64             -- t1 of the MEASURE outstanding
  delays : List Int               -- last five one-way delays in 2^-16 ns, newest first
  sent : List Bytes               -- ring frames sent and not observed, newest first
  deriving DecidableEq, Repr

/-- The timebase (R291 to R295, R306) and the ring port. -/
structure TimeBase where
  now : W64
  fraction : W32
  sync : Sync
  grandmaster : Bool
  ringMaster : Bool
  ringPos : BitVec 5
  ringNo : BitVec 6
  ringBroken : Bool
  active : BitVec 6
  offset : W32
  rate : W32
  holdoverUs : W32
  latch : Vector W32 5            -- NOW_HI as latched for each function
  good : Nat                      -- consecutive intervals within ±2 ns
  lastGood : W64                  -- postmark of the last usable TIME or TIMESTAMP
  holdoverSince : W64
  cw : RingSide
  ccw : RingSide
  bypassClosed : Bool
  stepNeeded : Bool               -- the offset would need a step under R293
  bypassed : BitVec 32            -- positions of the ring whose bypass switch is closed (R304)
  timeSent : Option W64           -- postmark of the last TIME frame sent as ring master (R302)
  deriving DecidableEq, Repr

/-! ### Host attachment, mailboxes -/

/-- A host window (R448, R479). -/
structure HostWindow where
  objects : Bool
  owner : Option Nat
  base : Nat
  size : Nat
  deriving DecidableEq, Repr

/-- The HDM decoder of R452. -/
structure HdmDecoder where
  base : Nat
  size : Nat
  ways : Nat
  committed : Bool
  notCommitted : Bool
  deriving DecidableEq, Repr

/-- What the module last answered on a bus that reads data: the host port or the management bus. -/
inductive Reply where
  | none
  | bytes (data : Bytes)
  | poison
  | crs
  | ok
  | snoopMiss
  | unsupported
  | noLink
  | error (code : Nat)
  deriving DecidableEq, Repr

/-- A KEY_EXCHANGE that waits for its FINISH: its function, the fingerprint of the requester's leaf key, and the secret that
the exchange agreed. -/
structure Handshake where
  fn : Nat
  leaf : Bytes
  shared : Bytes
  deriving DecidableEq, Repr

/-- An SPDM session (R388, R389). -/
structure SpdmSession where
  number : Nat
  fn : Nat
  leaf : Bytes                    -- fingerprint of the requester's leaf key
  exportMaster : Bytes
  deriving DecidableEq, Repr

/-- The host port. Assumption log 84 (DESIGN CHOICE). -/
structure HostPort where
  linkUp : Bool
  powered : Bool
  width : BitVec 5
  rate : BitVec 2
  configDone : Bool               -- configuration bring-up has ended (R462)
  memActive : Bool
  uioEnable : Bool
  vfEnable : Bool
  numVfs : BitVec 16
  d3 : Vector Bool 5
  config : Table (Option W32)     -- configuration registers written, by function·1024 + register
  component : Table (Option W32)  -- words of BAR2 written, by offset / 4 (R444)
  windows : List (Nat × HostWindow)
  targets : List (Nat × Nat × Nat)
  decoder : HdmDecoder
  filter : List Nat               -- tracked lines, oldest first (R453)
  dirty : List Nat                -- tracked lines written and not yet back-invalidated
  ideLink : IdeState
  ideSel : Vector IdeState 8
  ideMem : IdeState
  linkDowns : W32
  wrDrop : W64
  ideFail : W64
  biSent : W64
  memory : Memory                 -- host memory, as the module's windows show it
  reply : Reply                   -- last answer on the host port
  spdmPending : List Handshake     -- KEY_EXCHANGE begun and not finished
  spdm : List SpdmSession
  spdmNext : Nat
  deriving DecidableEq, Repr

/-- A Cloari mailbox (R467). -/
structure Mailbox where
  state : MbState
  busyErr : Bool
  reqLen : BitVec 13
  respLen : BitVec 13
  submits : W32
  donePostmark : W64
  buffer : Memory
  order : Nat                     -- order of its SUBMIT (R471)
  at_ : W64                       -- postmark of its SUBMIT
  deriving DecidableEq, Repr

/-! ### Boot, life cycle, resets, power, Watch Post, management -/

/-- The firmware image and module words of R488. -/
structure Firmware where
  state : FwState
  rejectReason : Byte
  version : W64
  image : Bytes
  totalLen : Nat
  received : Nat
  digests : List Bytes            -- eight component digests once verified
  deriving DecidableEq, Repr

/-- A ledger entry (R498). -/
structure LedgerEntry where
  step : Byte
  phase : BitVec 3
  method : Bool
  outcome : BitVec 4
  start : W32
  elapsed : W32
  detail : W32
  deriving DecidableEq, Repr

/-- A reset log entry (R515). -/
structure ResetEntry where
  postmark : W64
  cause : BitVec 14
  primary : BitVec 4
  reach : BitVec 3
  idleTimeout : Bool
  target : Byte
  aonMs : BitVec 24
  deriving DecidableEq, Repr

/-- A Watch Post log entry (R540). -/
structure WatchEntry where
  aonMs : W32
  postmark : W64
  event : Byte
  sensor : Byte
  median : BitVec 16
  deriving DecidableEq, Repr

/-- Poste restante, the backup registers and what else AON keeps (R497, R515, R523, R524, R582). -/
structure Aon where
  running : Bool
  startCount : W32
  head : Byte
  wrapped : Bool
  cause : BitVec 14
  primary : BitVec 4
  fallback : BitVec 256
  ledger : Table LedgerEntry
  resetLog : List ResetEntry      -- newest last, at most 32
  watchLog : List WatchEntry      -- newest last, at most 64
  watchUnread : Nat               -- entries the management read pointer has not passed
  retained : Memory               -- firmware's retained area
  fwBackup : Vector W32 8
  hostBackup : Vector W32 8
  ms : W32
  eid : Byte
  mgmtI3c : Bool
  mgmtAddr : BitVec 2
  dynAddr : Option (BitVec 7)
  deriving DecidableEq, Repr

/-- Fuses (read-only but in Test), their latches, and the serial flash (R509, R520, R521, R587). -/
structure Fuses where
  reach : Vector (BitVec 3) 14
  pins : BitVec 12
  fwFloor : W32
  rootRev : W32
  latched : Bool
  pinLatch : BitVec 12
  sector0 : Bytes
  sector1 : Bytes
  currentSector : Bool
  vendorLocked : Bool
  deriving DecidableEq, Repr

/-- Option values in force (R520). -/
structure Options where
  idleTimeout : W32
  watchdogMs : BitVec 16
  powerLimit : BitVec 16
  throttleOn : BitVec 16
  throttleOff : BitVec 16
  filterShift : Byte
  deriving DecidableEq, Repr

/-- Life-cycle state of the Vrelcy root (R419 to R436). Assumption log 37 (DEDUCED). -/
structure LifeCycle where
  codeword : W64
  records : Vector W32 8
  scopes : Vector W32 8           -- DEBUG_SCOPE stored with each record's TARGET (R435)
  challenge : Option (Bytes × W64)
  running : Option Nat            -- record the transition engine is working on
  secretBurned : Bool
  identityDerived : Bool
  attestGen : Nat                 -- generation of the attestation key pairs
  attestKeys : Bool               -- they exist (R423, R432)
  tapCapture : BitVec 16
  tapPreset : BitVec 16
  tapLanes : Bytes                -- what the boundary cells of the lanes captured (R436)
  deriving DecidableEq, Repr

/-- What an asserted reset source covers (R508, R510). -/
inductive ResetTarget where
  | module
  | quarter (q : Nat)
  | block (b : BlockTarget)
  deriving DecidableEq, Repr

/-- A reset source that was asserted, at the reach it acts at; `on` while it stays asserted. It is kept until the release
of what it covers, whose log entry names it. Source 14 stands for the loss of a Krelas domain's clock-good, which R502
makes a Block reset and which no entry of R508 names. Assumption log 88 (DEDUCED). -/
structure Hold where
  source : Nat
  reach : Reach
  target : ResetTarget
  on : Bool
  deriving DecidableEq, Repr

/-- A block under Block reach (R513): when it was asked to go idle, whether it has been reset, and whether an operation
was still in progress then. -/
structure BlockHold where
  target : BlockTarget
  since : W64
  done : Bool
  timedOut : Bool
  deriving DecidableEq, Repr

/-- Reset sources, domains and bring-up (R502 to R519). -/
structure Resets where
  holds : List Hold
  since : List (Nat × Reach)      -- sources asserted since the last start, with the widest reach of each
  inReset : Option Reach          -- the whole module is in reset at this reach
  faults : BitVec 4               -- quarters whose fault source is asserted
  blocks : List BlockHold
  requested : List (Reach × ResetTarget × W64)  -- accepted RESET_REQUESTs, each with its due postmark
  pll : BitVec 18                 -- PLLs enabled
  clockGood : BitVec 18
  released : BitVec 18
  phase : BitVec 3
  inPhase : Nat                   -- phase in progress; 8 when bring-up is complete
  atP0 : Bool                     -- a Power-on start has run P0 and waits under R569
  starting : Bool                 -- a start has begun
  halted : Bool
  stepsDone : List Nat            -- step keys that ended in this start
  failed : List Nat               -- those among them that failed, timed out or were skipped
  phaseUs : Nat                   -- microseconds from the release at which the phase in progress began
  quarterSteps : List Nat         -- steps that released quarters still have to end (R519)
  unavailQuarter : BitVec 4
  unavailStack : BitVec 8
  unavailLnk : BitVec 2
  trainMethod : Vector Bool 12    -- method of the last start for repair 0-3 and training 0-7
  hostMethod : Bool               -- method of the next host link training attempt
  deriving DecidableEq, Repr

/-- How a management pin stands at its connector (R521). -/
inductive Pin where
  | hiZ | low | high | pullUp
  deriving DecidableEq, Repr

/-- Supply, pins and power state (R521, R525, R565 to R577). -/
structure PowerPins where
  power : Power
  modePin : Bool                  -- MGMT_MODE grounded
  addrPins : BitVec 2             -- MGMT_ADDR
  sb12 : Bool                     -- SB12 in its operating range
  sb12Ms : Nat                    -- milliseconds for which it has been (R566)
  in48 : Nat                      -- millivolts
  converters : Bool
  powerGood : Bool
  perst : Bool                    -- PERST_N level
  sysReset : Bool                 -- SYS_RESET_N level
  trst : Bool                     -- TRST_N level
  wakeN : Pin
  alertN : Pin
  thermN : Pin
  faultN : Pin
  modReady : Pin
  ledN : Pin
  wakeLow : Bool                  -- the Watch Post drives WAKE_N low until the host link reaches L0 (R530)
  waking : Bool                   -- a wake from PS1 is running
  waking2 : Bool                  -- a wake from PS2 is running
  waking3 : Bool                  -- a wake from PS3 is running
  wakeAt : W64
  offDue : Bool                   -- the host port is to be unpowered (R530)
  offAt : W64
  idleSince : W64
  deriving DecidableEq, Repr

/-- The Watch Post (R533 to R541). -/
structure Watch where
  windows : Vector (List Int) 64  -- last five samples of each sensor, newest first
  median : Vector Int 64
  filtered : Vector Int 64
  pieceLevel : Vector Nat 4       -- thermal level of the piece that holds each die
  hubLevel : Vector Nat 2
  powerLevel : Nat
  clamp : Bool                    -- median input current reached 88 A
  tripHeld : Bool
  supplyHeld : Bool
  leakLatched : Bool
  trips : W32
  limitW : W32
  safeMs : Nat
  supplyMs : Nat
  deriving DecidableEq, Repr

/-- A programmable counter (R548). -/
structure Counter where
  event : BitVec 10
  enable : Bool
  edge : Bool
  ovfSample : Bool
  sticky : Bool
  owner : BitVec 2
  session : BitVec 2
  value : BitVec 48
  reload : BitVec 48
  high : Bool                     -- its event was at a level above 0 on the clock before (R549)
  deriving DecidableEq, Repr

/-- The counters: programmable ones by unit·64 + number, slot counters by quarter (R545, R556). -/
structure Perf where
  counters : Table Counter
  slots : Vector (Vector W64 16) 4
  deriving DecidableEq, Repr

/-- The module. Assumption log 15 and 84 (DESIGN CHOICE). -/
structure State where
  pending : List Instr
  time : TimeBase
  host : HostPort
  mailboxes : Vector Mailbox 64
  submitNo : Nat
  modulePend : List Pending
  statusSeq : W32
  shown : Option Bytes            -- module portion of the status block as its last page write showed it (R490)
  written : W64
  fw : Firmware
  aon : Aon
  fuses : Fuses
  options : Options
  lc : LifeCycle
  resets : Resets
  power : PowerPins
  watch : Watch
  slots : Vector KeySlot 64
  tallies : Table Tally
  dies : Vector Die 4
  channels : Vector Channel 64
  blank : Nat                     -- which power-on contents HBM holds (the model's own)
  far : Vector Channel 4          -- far range of each session
  ports : Vector Port 18
  lanes : BitVec 64               -- noise lanes in service
  adders : Vector Nat 2           -- retired adder lanes of each half
  sessions : Vector Session 4
  perf : Perf
  mgmtReply : Reply
  draws : Nat                     -- free values taken so far (the model's own)
  deriving DecidableEq, Repr

/-- Why the machine stops with a fault. Assumption log 83 (DESIGN CHOICE). -/
inductive Fault where
  /-- A host access beyond the register window (4 MiB, R441) or beyond the HDM window (1,024 GiB, R452), where the
  manual gives the module no address: raised by registerWrite, hdmRead, hdmWrite and birsp; safe. -/
  | noSuchAddress
  deriving DecidableEq, Repr

/-- Why a command has no outcome. Assumption log 82 (DESIGN CHOICE). -/
inductive Refusal where
  /-- A command whose meaning the model does not give: raised only by Machine/Dispatch.lean; safe. -/
  | notModelled (mnemonic : String)
  /-- The module is supplied beyond the absolute maximum ratings, where no rule binds its behaviour (R563): raised by
  modulePowerGood and in48Rise; safe. -/
  | beyondRatings
  deriving DecidableEq, Repr

/-! ### The machine right after a Power-on reset -/

/-- Reset values of R134. -/
def NumRec.reset : NumRec := ⟨0, 0, 0, 0, 0, 0, 0⟩

/-- Reset values of R154. -/
def ScaleRec.reset : ScaleRec :=
  { fmt := 0xF, policy := 0, blockEn := false, voidOnMiss := false, margin := 0, satShift := 0, flushShift := 0,
    histLen := 0x10, staticScale := 0x3F800000, workScale := 0x3F800000, curAmax := 0, elemCount := 0, satCount := 0,
    flushCount := 0, missSat := false, missFlush := false, replay := false, nanSeen := false, histHead := 0,
    histValid := 0, lastStep := 0, scaleAddr := 0x8000000000000000, history := Vector.replicate 16 0,
    fmtLocked := false }

/-- Reset values of R185. -/
def ReblockRec.reset : ReblockRec := ⟨0, 0, 0, 0⟩

/-- Reset values of R238. -/
def SealRec.reset : SealRec := ⟨0, 0, 0, false, 0, 0, 0, 0⟩

/-- Reset values of R239. -/
def UpdRec.reset : UpdRec := ⟨0, 0, 0, 0⟩

/-- Reset values of R290. -/
def CollRec.reset : CollRec := ⟨0, 0, 0, 0, 0, 0, 0, 0, 0, 0⟩

/-- Reset values of R376. -/
def MemRec.reset : MemRec :=
  { corrected := 0, uncorrectable := 0, integrity := 0, poisonRead := 0, refrank := 0, metaFetch := 0, keyEpoch := 0,
    sweeping := false, readOnly := false, quarantined := false, exportSeq := 1, log := [] }

/-- Reset values of R327. -/
def HeldRec.reset : HeldRec := ⟨false, 0, 0, 0, 0, []⟩

/-- Reset values of R98. Assumption log 23 (DESIGN CHOICE). -/
def Context.reset : Context :=
  { index := 0, slot := 0, state := .idle, status := 0, lateCount := 0, completed := 0, waitMet := false,
    nextSeq := 0 }

/-- A piece just bound: no tile held, no PARTY recorded (R53, R77). Assumption log 20 (DESIGN CHOICE). -/
def Piece.reset : Piece :=
  { top := 0, dies := 0, party := none, held := none, bank := false, last := none, prev := none, lastHeld := false,
    clock := 0, quiet := true, wake := false, idleSince := 0, quietSince := 0,
    opened := [], tiles := [], rowBuffer := [], retired := [] }

/-- A FREE session: every record at its reset value. -/
def Session.reset : Session :=
  { state := .free, config := [], configDigest := [], programs := [], kernelAllowed := [], joined := 0, removed := 0,
    shares := [], seed := [], statusKey := [], memberNonce := [], ingestKeys := [], ingestIds := [], cmdKeys := [],
    statusSeq := 0, statusEnv := [], ctxs := Vector.replicate 4 Context.reset, ops := [], lists := [], kernel := none,
    piece := Piece.reset, num := NumRec.reset, scales := [], reblock := ReblockRec.reset, sealRec := SealRec.reset,
    upd := UpdRec.reset, coll := CollRec.reset, mem := MemRec.reset, held := HeldRec.reset, pages := [], noise := [],
    outputs := [], noiseRan := false, updNanInAttempt := false, voteReasons := 0, sealing := none, exhausted := false, votes := [],
    ringSummaries := [], sealSummarySent := false, decision := none, routing := [], routingDigest := [], groups := [],
    consign := none, linkSalt := [], frameSeq := 0, epoch := 0, epochOpen := false, manifest := [], roll := none, plan := none,
    ingests := [], pend := [], removals := [], closing := none, quiesce := [], struckAt := [], landing := [],
    inbound := [], unsent := [], lost := [], ring := none, farParts := [] }

/-- An unbound channel or far range: everything fresh (R343, R349). -/
def Channel.reset : Channel :=
  { holder := none, data := [], counters := [], versions := [], cache := [], stored := [], lines := [], tagLines := [],
    groups := [], nodes := [], failed := [], ahead := [],
    sweep := none }

/-- A cleared Frame die. Assumption log 7 (DESIGN CHOICE). -/
def Die.reset : Die :=
  { store := [], phParty := none, cbParty := none, phQueue := [], inReset := false, readying := false, clear := 0 }

/-- A free key slot at generation 0 (R385, R532). Assumption log 22 (DEDUCED). -/
def KeySlot.reset : KeySlot := ⟨[], 0, none, false⟩

/-- Reset values of R246 and R247; an unbound port reads DISABLED (R245). Assumption log 23 (DESIGN CHOICE). -/
def Port.reset : Port :=
  { enable := false, session := 0, bound := false, peerRank := 0, peerPort := 0, peerLocked := false,
    loopback := false, txPolarity := 0, rxPolarity := 0, txPreset := 1, state := .disabled, lanes := 0,
    failedLanes := 0, downReason := 0, cableDelay := 0, epochTagFail := 0, fecCorrected := 0, fecUncorrectable := 0,
    retry := 0, tagFail := 0, dataTx := 0, dataRx := 0, keyEpoch := 0, txSlot := 0, rxSlot := 0, txCtl := 0,
    rxCtl := 0, txSeq := 0, rxSeq := 0, discarding := false, window := [], resend := [], control := [], data := [], lastStream := 0,
    dataCredits := 0, ctlCredits := 0, wire := [], arrived := [], owed := 0, granted := false, sentBlocks := [], keyingSince := 0, lastStamp := none, stampDelays := [],
    lastSentStamp := 0, resetMbs := [] }

/-- A ring direction with nothing measured. Assumption log 23 (DESIGN CHOICE). -/
def RingSide.reset : RingSide := ⟨false, 0, none, [], []⟩

/-- The timebase after a Cold or Power-on reset (R294, R295); the bypass is closed (R303).
Assumption log 23 (DESIGN CHOICE). -/
def TimeBase.reset : TimeBase :=
  { now := 0, fraction := 0, sync := .free, grandmaster := false, ringMaster := false, ringPos := 0, ringNo := 0,
    ringBroken := false, active := 0, offset := 0, rate := 0, holdoverUs := 0, latch := Vector.replicate 5 0,
    good := 0, lastGood := 0, holdoverSince := 0, cw := RingSide.reset, ccw := RingSide.reset,
    bypassClosed := true, stepNeeded := false, bypassed := 0, timeSent := none }

/-- The host port before any link. Assumption log 7 and 23 (DESIGN CHOICE). -/
def HostPort.reset : HostPort :=
  { linkUp := false, powered := false, width := 0, rate := 0, configDone := false, memActive := false,
    uioEnable := false, vfEnable := false, numVfs := 0, d3 := Vector.replicate 5 false, config := [], component := [], windows := [],
    targets := [], decoder := ⟨0, 0, 0, false, false⟩, filter := [], dirty := [], ideLink := .never,
    ideSel := Vector.replicate 8 .never, ideMem := .never, linkDowns := 0, wrDrop := 0, ideFail := 0, biSent := 0,
    memory := [], reply := .none, spdmPending := [], spdm := [], spdmNext := 0 }

/-- Reset values of R467. Assumption log 7 (DESIGN CHOICE). -/
def Mailbox.reset : Mailbox := ⟨.idle, false, 0, 0, 0, 0, [], 0, 0⟩

/-- Reset values of R488 for the firmware words. -/
def Firmware.reset : Firmware := ⟨.awaiting, 0, 0, [], 0, 0, []⟩

/-- AON after a Power-on reset, before standby power (R497, R515, R523, R524, R582).
Assumption log 7 (DESIGN CHOICE). -/
def Aon.reset : Aon :=
  { running := false, startCount := 0, head := 0, wrapped := false, cause := 0, primary := 0, fallback := 0,
    ledger := [], resetLog := [], watchLog := [], watchUnread := 0, retained := [], fwBackup := Vector.replicate 8 0,
    hostBackup := Vector.replicate 8 0, ms := 0, eid := 0, mgmtI3c := false, mgmtAddr := 0, dynAddr := none }

/-- Blank fuses (R509, R521) and a serial flash with no option block stored. Assumption log 21 (DESIGN CHOICE). -/
def Fuses.reset : Fuses :=
  { reach := Vector.replicate 14 0, pins := 0, fwFloor := 0, rootRev := 0, latched := false, pinLatch := 0,
    sector0 := [], sector1 := [], currentSector := false, vendorLocked := true }

/-- The defaults of R520. -/
def Options.reset : Options := ⟨1000, 100, 3000, 1520, 1488, 3⟩

/-- A module shipped in Production: records 0 and 1 hold the two transitions that led there (R427).
Assumption log 21 (DESIGN CHOICE). -/
def LifeCycle.reset : LifeCycle :=
  { codeword := 0x00000000FFFFFFFF, records := #v[0x00F0000F, 0x00FC0333, 0, 0, 0, 0, 0, 0], scopes := Vector.replicate 8 0,
    challenge := none, running := none, secretBurned := false, identityDerived := true, attestGen := 0,
    attestKeys := false, tapCapture := 0, tapPreset := 0, tapLanes := [] }

/-- The whole module in reset at Power-on reach for want of standby power (source 0, R510), no domain released.
Assumption log 25 (DEDUCED). -/
def Resets.reset : Resets :=
  { holds := [⟨0, .powerOn, .module, true⟩], since := [(0, .powerOn)], inReset := some .powerOn, faults := 0, blocks := [],
    requested := [], pll := 0, clockGood := 0x20000, released := 0, phase := 0, inPhase := 0, atP0 := false,
    starting := false, halted := false, stepsDone := [], failed := [], phaseUs := 0, quarterSteps := [],
    unavailQuarter := 0, unavailStack := 0, unavailLnk := 0, trainMethod := Vector.replicate 12 false,
    hostMethod := false }

/-- No supply; the pulled pins at their pulled levels (R576); every management pin high impedance (R522).
Assumption log 24 (DESIGN CHOICE). -/
def PowerPins.reset : PowerPins :=
  { power := .ps4, modePin := false, addrPins := 3, sb12 := false, sb12Ms := 0, in48 := 0, converters := false, powerGood := false, perst := false,
    sysReset := true, trst := false, wakeN := .hiZ, alertN := .hiZ, thermN := .hiZ, faultN := .hiZ, modReady := .hiZ,
    ledN := .hiZ, wakeLow := false, waking := false, waking2 := false, waking3 := false, wakeAt := 0, offDue := false, offAt := 0, idleSince := 0 }

/-- Reset values of R541. Assumption log 23 (DESIGN CHOICE). -/
def Watch.reset : Watch :=
  { windows := Vector.replicate 64 [], median := Vector.replicate 64 0, filtered := Vector.replicate 64 0,
    pieceLevel := Vector.replicate 4 0, hubLevel := Vector.replicate 2 0, powerLevel := 0, clamp := false,
    tripHeld := false, supplyHeld := false, leakLatched := false, trips := 0, limitW := 0, safeMs := 0,
    supplyMs := 0 }

/-- Reset values of R548. -/
def Counter.reset : Counter := ⟨0, false, false, false, false, 0, 0, 0, 0, false⟩

/-- Reset values of R548 and R556. -/
def Perf.reset : Perf := ⟨[], Vector.replicate 4 (Vector.replicate 16 0)⟩

/-- The machine right after a Power-on reset, with standby power not yet in range.
Assumption log 2 and 23 (DESIGN CHOICE). -/
def State.reset : State :=
  { pending := [], time := TimeBase.reset, host := HostPort.reset, mailboxes := Vector.replicate 64 Mailbox.reset,
    submitNo := 0, modulePend := [], statusSeq := 0, shown := none, written := 0, fw := Firmware.reset, aon := Aon.reset,
    fuses := Fuses.reset, options := Options.reset, lc := LifeCycle.reset, resets := Resets.reset,
    power := PowerPins.reset, watch := Watch.reset, slots := Vector.replicate 64 KeySlot.reset, tallies := [],
    dies := Vector.replicate 4 Die.reset, channels := Vector.replicate 64 Channel.reset, blank := 0,
    far := Vector.replicate 4 Channel.reset, ports := Vector.replicate 18 Port.reset, lanes := BitVec.allOnes 64,
    adders := Vector.replicate 2 0, sessions := Vector.replicate 4 Session.reset, perf := Perf.reset,
    mgmtReply := .none, draws := 0 }

end Sys2Proof.Machine
end

