-- ==== Sys2Proof/Machine/Numeric.lean ====
section
/-! DEFINITION. Number formats, taking in, rounding, FP32 arithmetic and the elementary functions
(R101 to R127, R196, R207). -/

namespace Sys2Proof.Machine

/-- An exact value: NaN, or a signed fraction `n / d · 2^e` with `d` above zero; `n = 0` is a signed zero. -/
inductive Val where
  | nan
  | num (neg : Bool) (n d : Nat) (e : Int)
  deriving DecidableEq, Repr

/-- A format of R102 and R104: width, mantissa bits, bias, magnitude code of the largest finite value, and whether
the codes above it hold an infinity, and NaN. -/
structure Fmt where
  width : Nat
  man : Nat
  bias : Nat
  top : Nat
  hasInf : Bool
  hasNan : Bool
  canonNan : Nat
  deriving DecidableEq, Repr

def Fmt.bf16 : Fmt := ⟨16, 7, 127, 0x7F7F, true, true, 0x7FC0⟩
def Fmt.fp16 : Fmt := ⟨16, 10, 15, 0x7BFF, true, true, 0x7E00⟩
def Fmt.e4m3 : Fmt := ⟨8, 3, 7, 0x7E, false, true, 0x7F⟩
def Fmt.e5m2 : Fmt := ⟨8, 2, 15, 0x7B, true, true, 0x7E⟩
def Fmt.e2m3 : Fmt := ⟨6, 3, 1, 0x1F, false, false, 0⟩
def Fmt.e3m2 : Fmt := ⟨6, 2, 3, 0x1F, false, false, 0⟩
def Fmt.e2m1 : Fmt := ⟨4, 1, 1, 0x7, false, false, 0⟩
def Fmt.fp32 : Fmt := ⟨32, 23, 127, 0x7F7FFFFF, true, true, 0x7FC00000⟩

/-- The format of a code of R67; reserved codes read as BF16 and are refused before any use. -/
def Fmt.ofCode (c : Nat) : Fmt :=
  match c with
  | 1 => .fp16
  | 2 => .e4m3
  | 3 => .e5m2
  | 4 => .e2m3
  | 5 => .e3m2
  | 6 => .e2m1
  | _ => .bf16

/-- Bits of the container at the array edge and in the Sorting store (R42, R43). -/
def Fmt.container (f : Fmt) : Nat := if f.width = 6 then 8 else f.width

/-- Elements a cell multiplies per clock (R42). -/
def Fmt.perClock (f : Fmt) : Nat := if f.width = 16 then 1 else if f.width = 4 then 4 else 2

/-- The value of magnitude code `c` (no sign bit) that is not a special encoding (R103). -/
def Fmt.magnitude (f : Fmt) (neg : Bool) (c : Nat) : Val :=
  let e := c / 2 ^ f.man
  let m := c % 2 ^ f.man
  if e = 0 then .num neg m 1 (1 - (f.bias : Int) - f.man)
  else .num neg (2 ^ f.man + m) 1 ((e : Int) - f.bias - f.man)

/-- What taking in a code found: its value, and whether it was an infinity (R106, R107). -/
def Fmt.takeIn (f : Fmt) (code : Nat) : Val × Bool :=
  let neg := bitOf code (f.width - 1)
  let c := code % 2 ^ (f.width - 1)
  if c ≤ f.top then (f.magnitude neg c, false)
  else if f.hasInf ∧ c = f.top + 1 then (f.magnitude neg f.top, true)
  else if f.hasNan then (.nan, false)
  else (f.magnitude neg c, false)

/-- ⌊log₂ (n / d)⌋ for a positive fraction. -/
def log2Floor (n d : Nat) : Int :=
  let k : Int := (Nat.log2 n : Int) - Nat.log2 d
  if k ≥ 0 then (if d * 2 ^ k.toNat ≤ n then k else k - 1)
  else (if d ≤ n * 2 ^ (-k).toNat then k else k - 1)

/-- ⌊n / d · 2^s⌋ for any integer `s`. -/
def scaledFloor (n d : Nat) (s : Int) : Nat :=
  if s ≥ 0 then n * 2 ^ s.toNat / d else n / (d * 2 ^ (-s).toNat)

/-- Rounding modes of R122. -/
inductive Rnd where
  | nearest | zero | stochastic (r : Nat)
  deriving DecidableEq, Repr

/-- A rounding: the code, and whether the value overflowed or flushed (R123, R124). -/
structure Rounded where
  code : Nat
  overflow : Bool
  flush : Bool
  deriving DecidableEq, Repr

/-- The multiplier m of R122 for ulp 2^k. -/
def roundMult (mode : Rnd) (n d : Nat) (e k : Int) : Nat :=
  match mode with
  | .nearest => let t := scaledFloor n d (e - k + 1); t / 2 + t % 2
  | .zero => scaledFloor n d (e - k)
  | .stochastic r =>
    let t := scaledFloor n d (e - k + 16)
    t / 65536 + (if t % 65536 + r ≥ 65536 then 1 else 0)

/-- Round an exact value to a format (R122 to R125). A NaN gives the canonical NaN. -/
def Fmt.round (f : Fmt) (mode : Rnd) (v : Val) : Rounded :=
  match v with
  | .nan => ⟨f.canonNan, false, false⟩
  | .num neg n d e =>
    let sign := if neg then 2 ^ (f.width - 1) else 0
    if n = 0 then ⟨sign, false, false⟩
    else
      let low : Int := 1 - (f.bias : Int) - f.man
      let k := max (log2Floor n d + e - f.man) low
      let m := roundMult mode n d e k
      let (m, k) := if m = 2 ^ (f.man + 1) then (2 ^ f.man, k + 1) else (m, k)
      if m = 0 then ⟨sign, false, true⟩
      else
        let code := if m < 2 ^ f.man then m else (k - low + 1).toNat * 2 ^ f.man + (m - 2 ^ f.man)
        if code ≤ f.top then ⟨sign + code, false, false⟩ else ⟨sign + f.top, true, false⟩

/-! ### Exact operations -/

/-- Exact product; the sign is the exclusive OR of the signs (R110). -/
def Val.mul : Val → Val → Val
  | .num s n d e, .num s' n' d' e' => .num (s != s') (n * n') (d * d') (e + e')
  | _, _ => .nan

/-- Multiply by a power of two. -/
def Val.scale (v : Val) (k : Int) : Val :=
  match v with
  | .num s n d e => .num s n d (e + k)
  | .nan => .nan

/-- Change of sign. -/
def Val.negate : Val → Val
  | .num s n d e => .num (!s) n d e
  | .nan => .nan

/-- Magnitude. -/
def Val.abs : Val → Val
  | .num _ n d e => .num false n d e
  | .nan => .nan

/-- Exact quotient of a value by a non-zero value. -/
def Val.div : Val → Val → Val
  | .num s n d e, .num s' n' d' e' => if n' = 0 then .nan else .num (s != s') (n * d') (d * n') (e - e')
  | _, _ => .nan

/-- Exact sum; a zero sum is −0 only when both are −0 (R112). -/
def Val.add : Val → Val → Val
  | .num s n d e, .num s' n' d' e' =>
    if n = 0 ∧ n' = 0 then .num (s && s') 0 1 0
    else
      let m := min e e'
      let a : Int := (if s then -1 else 1) * (n * d' * 2 ^ (e - m).toNat : Nat)
      let b : Int := (if s' then -1 else 1) * (n' * d * 2 ^ (e' - m).toNat : Nat)
      let t := a + b
      if t = 0 then .num false 0 1 0 else .num (t < 0) t.natAbs (d * d') m
  | _, _ => .nan

/-- The sign of the difference of two numbers, zeros equal. -/
def Val.compare (a b : Val) : Int :=
  match Val.add a b.negate with
  | .num s n _ _ => if n = 0 then 0 else if s then -1 else 1
  | .nan => 0

/-- Whether a value is NaN. -/
def Val.isNan : Val → Bool
  | .nan => true
  | _ => false

/-- Whether a value is a zero. -/
def Val.isZero : Val → Bool
  | .num _ n _ _ => n == 0
  | .nan => false

/-- The sign of a value (R207): none for NaN. -/
def Val.sign : Val → Option Int
  | .nan => none
  | .num s n _ _ => some (if n = 0 then 0 else if s then -1 else 1)

/-- An integer as an exact value. -/
def Val.ofInt (i : Int) : Val := .num (i < 0) i.natAbs 1 0

/-! ### FP32 values with their flags -/

/-- The exact value of an FP32 pattern the module holds; an infinity pattern, which it never holds (R109), reads as
the largest finite value of its sign (R107). -/
def f32 (x : W32) : Val := (Fmt.fp32.takeIn x.toNat).1

/-- Round an exact value to FP32 to nearest (R117, R118, R121): value and flags. -/
def toAcc (v : Val) : Acc :=
  let r := Fmt.fp32.round .nearest v
  ⟨BitVec.ofNat 32 r.code, v.isNan, r.overflow⟩

/-- An FP32 constant with clear flags. -/
def Acc.const (x : W32) : Acc := ⟨x, (f32 x).isNan, false⟩

/-- The exact value of an FP32 element; its NaN flag makes it NaN (R115). -/
def Acc.val (a : Acc) : Val := if a.nan then .nan else f32 a.value

/-- An operation's result with the flags of the operands it was fed. -/
def Acc.from (v : Val) (xs : List Acc) : Acc :=
  let r := toAcc v
  ⟨r.value, r.nan, r.ovf || xs.any (·.ovf)⟩

def Acc.zero : Acc := Acc.const 0
def Acc.one : Acc := Acc.const 0x3F800000

/-- FP32 addition, subtraction, multiplication and fused multiply-add (R117). -/
def Acc.add (x y : Acc) : Acc := Acc.from (x.val.add y.val) [x, y]
@[inherit_doc Acc.add] def Acc.sub (x y : Acc) : Acc := Acc.from (x.val.add y.val.negate) [x, y]
@[inherit_doc Acc.add] def Acc.mul (x y : Acc) : Acc := Acc.from (x.val.mul y.val) [x, y]
@[inherit_doc Acc.add] def Acc.fma (x y z : Acc) : Acc := Acc.from ((x.val.mul y.val).add z.val) [x, y, z]

/-- Change of sign, exact. -/
def Acc.neg (x : Acc) : Acc := if x.nan then x else ⟨x.value ^^^ 0x80000000, x.nan, x.ovf⟩

/-- Magnitude, exact. -/
def Acc.abs (x : Acc) : Acc := if x.nan then x else ⟨x.value &&& 0x7FFFFFFF, x.nan, x.ovf⟩

/-- FP32 division with the special cases of R118. -/
def Acc.div (x y : Acc) : Acc :=
  match x.val, y.val with
  | .num s n _ _, .num s' n' _ _ =>
    if n' = 0 then
      if n = 0 then Acc.from .nan [x, y]
      else ⟨if s != s' then 0xFF7FFFFF else 0x7F7FFFFF, false, true⟩
    else Acc.from (x.val.div y.val) [x, y]
  | _, _ => Acc.from .nan [x, y]

/-- Integer square root by bisection on `fuel` bits. -/
def isqrt (fuel n : Nat) : Nat :=
  match fuel with
  | 0 => 0
  | f + 1 =>
    let r := 2 * isqrt f (n / 4)
    if (r + 1) * (r + 1) ≤ n then r + 1 else r

/-- FP32 square root (R117, R118). The root is taken to 60 bits below the operand's and marked inexact below them, so
that one rounding to nearest with ties away is exact. -/
def Acc.sqrt (x : Acc) : Acc :=
  match x.val with
  | .nan => Acc.from .nan [x]
  | .num s n _ e =>
    if n = 0 then x
    else if s then Acc.from .nan [x]
    else
      let (n, e) := if e % 2 = 0 then (n, e) else (n * 2, e - 1)
      let m := n * 4 ^ 60
      let r := isqrt 200 m
      let v := 2 * r + (if r * r = m then 0 else 1)
      Acc.from (.num false v 1 (e / 2 - 61)) [x]

/-- Maximum and minimum (R119). -/
def Acc.max (x y : Acc) : Acc :=
  let o := x.ovf || y.ovf
  match x.nan, y.nan with
  | true, true => ⟨0x7FC00000, true, o⟩
  | true, false => ⟨y.value, false, o⟩
  | false, true => ⟨x.value, false, o⟩
  | false, false =>
    let c := x.val.compare y.val
    if c > 0 then ⟨x.value, false, o⟩
    else if c < 0 then ⟨y.value, false, o⟩
    else if x.value = 0x80000000 then ⟨y.value, false, o⟩ else ⟨x.value, false, o⟩

@[inherit_doc Acc.max] def Acc.min (x y : Acc) : Acc :=
  let o := x.ovf || y.ovf
  match x.nan, y.nan with
  | true, true => ⟨0x7FC00000, true, o⟩
  | true, false => ⟨y.value, false, o⟩
  | false, true => ⟨x.value, false, o⟩
  | false, false =>
    let c := x.val.compare y.val
    if c < 0 then ⟨x.value, false, o⟩
    else if c > 0 then ⟨y.value, false, o⟩
    else if x.value = 0 then ⟨y.value, false, o⟩ else ⟨x.value, false, o⟩

/-- maxabs of two FP32 patterns (R120), NaN when both are. -/
def maxabs (x y : W32) : W32 :=
  (Acc.max (Acc.const x).abs (Acc.const y).abs).value

/-- Whether an FP32 pattern is a positive normal value. -/
def posNormal (x : W32) : Bool := decide (0x00800000 ≤ x.toNat ∧ x.toNat ≤ 0x7F7FFFFF)

/-- Whether an FP32 pattern is NaN. -/
def f32Nan (x : W32) : Bool := (f32 x).isNan

/-! ### Elementary functions (R196) -/

/-- The value times 2^n, multiplied exactly and rounded once. -/
def Acc.ldexp (x : Acc) (n : Int) : Acc := Acc.from (x.val.scale n) [x]

/-- The nearest integer, ties away from zero. -/
def nearestInt : Val → Int
  | .nan => 0
  | .num s n d e => (if s then -1 else 1) * (roundMult .nearest n d e 0 : Nat)

/-- Horner's rule by fused multiply-adds. -/
def horner (f : Acc) (p : Acc) (cs : List W32) : Acc := cs.foldl (fun p c => Acc.fma p f (Acc.const c)) p

def Acc.exp (x0 : Acc) : Acc :=
  if x0.nan then Acc.from .nan [x0]
  else
    let x := Acc.min (Acc.max x0 (Acc.const 0xC2F00000)) (Acc.const 0x42F00000)
    let n := nearestInt (Acc.mul x (Acc.const 0x3FB8AA3B)).val
    let nf : Acc := ⟨(toAcc (Val.ofInt (-n))).value, false, false⟩
    let f := Acc.fma nf (Acc.const 0x3F317218) x
    let f := Acc.fma nf (Acc.const 0xB102E308) f
    let p := horner f (Acc.const 0x39500D01)
      [0x3AB60B61, 0x3C088889, 0x3D2AAAAB, 0x3E2AAAAB, 0x3F000000, 0x3F800000, 0x3F800000]
    p.ldexp n

def Acc.ln (x : Acc) : Acc :=
  match x.val with
  | .nan => Acc.from .nan [x]
  | .num s n d e =>
    if n = 0 then ⟨0xFF7FFFFF, false, true⟩
    else if s then Acc.from .nan [x]
    else
      let k := log2Floor n d + e
      let m : Acc := ⟨(toAcc (.num false n d (e - k))).value, false, x.ovf⟩
      let big := m.val.compare (f32 0x3FB504F3) > 0
      let m := if big then m.ldexp (-1) else m
      let k := if big then k + 1 else k
      let s := Acc.div (Acc.sub m Acc.one) (Acc.add m Acc.one)
      let q := Acc.mul s s
      let p := horner q (Acc.const 0x3E638E39) [0x3E924925, 0x3ECCCCCD, 0x3F2AAAAB, 0x40000000]
      let kf := toAcc (Val.ofInt k)
      Acc.fma kf (Acc.const 0x3F317218) (Acc.fma kf (Acc.const 0xB102E308) (Acc.mul s p))

def Acc.sigmoid (x : Acc) : Acc :=
  if x.nan then Acc.from .nan [x]
  else if x.val.compare (f32 0) ≥ 0 then
    let e := Acc.exp x.neg
    Acc.div Acc.one (Acc.add Acc.one e)
  else
    let e := Acc.exp x
    Acc.div e (Acc.add Acc.one e)

def Acc.tanh (x : Acc) : Acc :=
  if x.nan then Acc.from .nan [x]
  else
    let a := x.abs
    let t :=
      if a.val.compare (f32 0x41100000) ≥ 0 then { Acc.one with ovf := x.ovf }
      else
        let e := Acc.exp (Acc.mul (Acc.const 0xC0000000) a)
        Acc.div (Acc.sub Acc.one e) (Acc.add Acc.one e)
    if x.value.getLsbD 31 then t.neg else t

/-- Activations of R197. -/
def activation (code : Nat) (z : Acc) : Acc :=
  if z.nan then Acc.from .nan [z]
  else
    match code with
    | 1 => if z.val.compare (f32 0) > 0 then z else { Acc.zero with ovf := z.ovf }
    | 2 =>
      let h := Acc.mul (Acc.const 0x3F000000) z
      let w := Acc.fma (Acc.const 0x3D372713) (Acc.mul z z) Acc.one
      let u := Acc.mul (Acc.const 0x3F4C422A) (Acc.mul z w)
      let t := Acc.tanh u
      Acc.fma h t h
    | 3 => Acc.mul z (Acc.sigmoid z)
    | 4 => Acc.tanh z
    | 5 => Acc.sigmoid z
    | _ => z

/-- Derivatives of R197. -/
def activationDeriv (code : Nat) (z : Acc) : Acc :=
  if z.nan then Acc.from .nan [z]
  else
    match code with
    | 1 => if z.val.compare (f32 0) > 0 then { Acc.one with ovf := z.ovf } else { Acc.zero with ovf := z.ovf }
    | 2 =>
      let h := Acc.mul (Acc.const 0x3F000000) z
      let w := Acc.fma (Acc.const 0x3D372713) (Acc.mul z z) Acc.one
      let u := Acc.mul (Acc.const 0x3F4C422A) (Acc.mul z w)
      let t := Acc.tanh u
      let q := Acc.fma (Acc.const 0x3E095D4F) (Acc.mul z z) Acc.one
      let p := Acc.fma t.neg t Acc.one
      let a := Acc.mul (Acc.mul (Acc.mul h p) (Acc.const 0x3F4C422A)) q
      Acc.add (Acc.fma (Acc.const 0x3F000000) t (Acc.const 0x3F000000)) a
    | 3 =>
      let s := Acc.sigmoid z
      Acc.mul s (Acc.fma z (Acc.sub Acc.one s) Acc.one)
    | 4 =>
      let t := Acc.tanh z
      Acc.fma t.neg t Acc.one
    | 5 =>
      let s := Acc.sigmoid z
      Acc.mul s (Acc.sub Acc.one s)
    | _ => { Acc.one with ovf := z.ovf }

/-! ### The dot product (R110 to R115) -/

/-- Round to 32 significant bits, to nearest with ties away from zero: tree format T (R111). -/
def roundT : Val → Val
  | .nan => .nan
  | .num s n d e =>
    if n = 0 then .num s 0 1 0
    else
      let k := log2Floor n d + e - 31
      .num s (roundMult .nearest n d e k) 1 k

/-- One level of the tree: neighbours summed and rounded. -/
def treeLevel : List Val → List Val
  | a :: b :: rest => roundT (a.add b) :: treeLevel rest
  | rest => rest

/-- The 32 products of a reduction block summed in five levels. -/
def blockTree (ps : List Val) : Val :=
  match treeLevel (treeLevel (treeLevel (treeLevel (treeLevel ps)))) with
  | v :: _ => v
  | [] => .num false 0 1 0

/-- One reduction block into an accumulator: operands, and the E8M0 codes of its scales (R113, R114, R115). Once the value is
NaN, only the overflow of the block's own sum sets the flag. Assumption log 92 (DESIGN CHOICE). -/
def accumulateBlock (acc : Acc) (a b : List Val) (sa sb : Nat) : Acc :=
  let p := blockTree (List.zipWith Val.mul a b)
  if p.isNan ∨ sa = 0xFF ∨ sb = 0xFF then ⟨0x7FC00000, true, acc.ovf⟩
  else if acc.nan then
    ⟨0x7FC00000, true, acc.ovf || (toAcc (p.scale ((sa : Int) + sb - 254))).ovf⟩
  else
    let s := toAcc (p.scale ((sa : Int) + sb - 254))
    Acc.from ((f32 acc.value).add (f32 s.value)) [acc, s]

end Sys2Proof.Machine
end

