-- ==== Sys2Proof/Machine/Flags.lean ====
section
/-! DEFINITION. Status codes (R478), numeric event counts (R133 to R135), scale-record updates (R157, R158) and the
reason bits of the step seal (R224) and of roll call (R321). -/

namespace Sys2Proof.Machine

/-! ### Status codes, R478 -/

abbrev Status := BitVec 16

def stOk : Status := 0x0000
def stPending : Status := 0x0001
def stRefused : Status := 0x0100
def stNotReady : Status := 0x0101
def stLocked : Status := 0x0102
def stNoResource : Status := 0x0103
def stBadEnvelope : Status := 0x0200
def stBadSignature : Status := 0x0201
def stRevoked : Status := 0x0202
def stIntegrity : Status := 0x0300
def stUncorrectable : Status := 0x0301
def stPoisoned : Status := 0x0302
def stHeld : Status := 0x0400
def stVoided : Status := 0x0401
def stScaleMiss : Status := 0x0402
def stTimeout : Status := 0x0500
def stIdleTimeout : Status := 0x0501

/-! ### Seal reasons, R224 -/

def rsScaleMiss : BitVec 16 := 0x0001
def rsResidue : BitVec 16 := 0x0002
def rsLinkTag : BitVec 16 := 0x0004
def rsUpdateNan : BitVec 16 := 0x0008
def rsContextStop : BitVec 16 := 0x0010
def rsRevoked : BitVec 16 := 0x0020
def rsSoftware : BitVec 16 := 0x0040
def rsMissing : BitVec 16 := 0x0080
def rsNoise : BitVec 16 := 0x0100

/-! ### Counts of one conversion or intake -/

/-- What a batch of elements adds to the numeric event record and to the scale record it names. -/
structure Counts where
  inSat : Nat := 0
  inNan : Nat := 0
  elems : Nat := 0
  nanOut : Nat := 0
  accOvf : Nat := 0
  outSat : Nat := 0
  flush : Nat := 0
  nanBlock : Nat := 0
  amax : W32 := 0
  deriving DecidableEq, Repr

/-- maxabs of two magnitudes that are not NaN. -/
def amaxOf (x y : W32) : W32 := if x.toNat < y.toNat then y else x

/-- Two batches together. -/
def Counts.add (a b : Counts) : Counts :=
  { inSat := a.inSat + b.inSat, inNan := a.inNan + b.inNan, elems := a.elems + b.elems, nanOut := a.nanOut + b.nanOut,
    accOvf := a.accOvf + b.accOvf, outSat := a.outSat + b.outSat, flush := a.flush + b.flush,
    nanBlock := a.nanBlock + b.nanBlock, amax := amaxOf a.amax b.amax }

/-- Batches together. -/
def Counts.sum (l : List Counts) : Counts := l.foldl Counts.add {}

/-- R133 for one converted element: the first of NaN, accumulator overflow, output saturation and flush that
applies, with the element's magnitude for CUR_AMAX. -/
def Counts.ofElem (v : Val) (ovf : Bool) (r : Rounded) : Counts :=
  let m : W32 := (toAcc v).value &&& 0x7FFFFFFF
  if v.isNan then { elems := 1, nanOut := 1 }
  else if ovf then { elems := 1, accOvf := 1, amax := m }
  else if r.overflow then { elems := 1, outSat := 1, amax := m }
  else if r.flush then { elems := 1, flush := 1, amax := m }
  else { elems := 1, amax := m }

/-- R106 to R108 for one element taken in: its value and its count. -/
def takeElem (f : Fmt) (code : Nat) (scaleNan : Bool) : Val × Counts :=
  let (v, inf) := f.takeIn code
  if scaleNan || v.isNan then (.nan, { inNan := 1 })
  else (v, if inf then { inSat := 1 } else {})

/-- R134, R135: the numeric event record after a batch. -/
def NumRec.count (r : NumRec) (c : Counts) : NumRec :=
  { inSat := satAdd r.inSat c.inSat, inNan := satAdd r.inNan c.inNan, nanOut := satAdd r.nanOut c.nanOut,
    accOvf := satAdd r.accOvf c.accOvf, outSat := satAdd r.outSat c.outSat, flush := satAdd r.flush c.flush,
    nanBlock := satAdd r.nanBlock c.nanBlock }

/-- R157, R158: a scale record after a batch converted under it. -/
def ScaleRec.count (r : ScaleRec) (c : Counts) : ScaleRec :=
  { r with
    curAmax := amaxOf r.curAmax c.amax
    elemCount := satAdd r.elemCount c.elems
    satCount := satAdd r.satCount (c.accOvf + c.outSat)
    flushCount := satAdd r.flushCount c.flush
    nanSeen := r.nanSeen || decide (c.nanOut ≠ 0) }

/-- R151: the working scale from a reference magnitude. -/
def scaleFromRef (old : W32) (f : Fmt) (aRef : W32) (margin : Nat) : W32 :=
  let a := f32 aRef
  if a.isNan ∨ a.isZero then old
  else
    let q := (a.scale margin).div (f.magnitude false f.top)
    let r := Fmt.fp32.round .nearest q
    if r.overflow then 0x7F7FFFFF
    else if r.code < 0x00800000 then 0x00800000
    else BitVec.ofNat 32 r.code

/-- R150: the reference magnitude of a policy: none for static. -/
def ScaleRec.aRef (r : ScaleRec) : W32 :=
  let recent := fun k => vget 0 r.history ((r.histHead.toNat + 16 - 1 - k) % 16)
  if r.policy = 2 then recent 0
  else (List.range (min r.histValid.toNat r.histLen.toNat)).foldl (fun a k => amaxOf a (recent k)) 0

/-- R150, R151, R157: a record at a step start or at a replay; R163 keeps the scale while REPLAY is set. -/
def ScaleRec.startStep (r : ScaleRec) : ScaleRec :=
  let ws :=
    if r.replay then r.workScale
    else if r.policy = 0 then r.staticScale
    else if r.histValid = 0 then r.workScale
    else scaleFromRef r.workScale (Fmt.ofCode r.fmt.toNat) r.aRef r.margin.toNat
  { r with workScale := ws, curAmax := 0, elemCount := 0, satCount := 0, flushCount := 0, missSat := false,
           missFlush := false, nanSeen := false }

/-- R159: the miss flags at the close of a step. -/
def ScaleRec.evaluate (r : ScaleRec) : ScaleRec :=
  if r.elemCount = 0 then r
  else
    { r with
      missSat := decide (r.satShift ≠ 0 ∧ r.satCount.toNat * 2 ^ r.satShift.toNat > r.elemCount.toNat)
      missFlush := decide (r.flushShift ≠ 0 ∧ r.flushCount.toNat * 2 ^ r.flushShift.toNat > r.elemCount.toNat) }

/-- R160. -/
def ScaleRec.miss (r : ScaleRec) : Bool := r.missSat || r.missFlush

/-- R152 and R163: a record at a commit of step `step`. -/
def ScaleRec.commit (step : W32) (r : ScaleRec) : ScaleRec :=
  let r := { r with replay := false }
  if r.elemCount = 0 then r
  else
    { r with history := vset r.history r.histHead.toNat r.curAmax, histHead := r.histHead + 1,
             histValid := if r.histValid.toNat < 16 then r.histValid + 1 else r.histValid, lastStep := step }

/-- R162: a record when a step is voided with a scale miss among its reasons. Assumption log 93 (DESIGN CHOICE). -/
def ScaleRec.voidMiss (r : ScaleRec) : ScaleRec :=
  let r := if r.miss && r.voidOnMiss then
      { r with workScale := scaleFromRef r.workScale (Fmt.ofCode r.fmt.toNat) r.curAmax r.margin.toNat }
    else r
  { r with replay := true }

end Sys2Proof.Machine
end

