-- ==== Sys2Proof/Machine/Operands.lean ====
section
/-! DEFINITION. Operand forms: the descriptor header (R58, R59) and address form (R69), packed element rows (R105),
the Tumbler (R128 to R130), the block quantiser (R145 to R147) and dual posting (R181, R182). -/

namespace Sys2Proof.Machine

/-! ### Descriptor header, R58 and R59 -/

def dOpcode (d : Bytes) : Nat := fieldAt d 0 2
def dFlags (d : Bytes) : Nat := fieldAt d 2 2
def dTensor (d : Bytes) : W32 := u32 d 4
def dLaunch (d : Bytes) : W64 := u64 d 8
def dWaitTally (d : Bytes) : Nat := fieldAt d 16 2
def dWaitCount (d : Bytes) : W32 := u32 d 18
def dSignalTally (d : Bytes) : Nat := fieldAt d 22 2
def dSignalInc (d : Bytes) : W32 := u32 d 24
def dWaitEn (d : Bytes) : Bool := bitOf (dFlags d) 0
def dWaitEq (d : Bytes) : Bool := bitOf (dFlags d) 1
def dSignalEn (d : Bytes) : Bool := bitOf (dFlags d) 2
def dTimed (d : Bytes) : Bool := bitOf (dFlags d) 3
def dLateFail (d : Bytes) : Bool := bitOf (dFlags d) 4
def dFence (d : Bytes) : Bool := bitOf (dFlags d) 5

/-- A bit field of the little-endian field of `len` bytes at `off`. -/
def bitsAt (d : Bytes) (off len hi lo : Nat) : Nat := bitsOf (fieldAt d off len) hi lo

/-! ### Addresses, R69 -/

def addrClass (a : Nat) : Nat := a / 2 ^ 62
def addrOff (a : Nat) : Nat := a % 2 ^ 62

/-- The class 2 address, "no address". -/
def noAddr : Nat := 2 ^ 63

/-! ### Packed rows, R105 -/

/-- Element codes of width `w` from a row of bytes. -/
def unpackFrom (w : Nat) : Nat → Nat → List Nat
  | 0, _ => []
  | n + 1, x => x % 2 ^ w :: unpackFrom w n (x / 2 ^ w)

/-- The first `n` element codes of width `w`. -/
def unpack (w n : Nat) (b : Bytes) : List Nat := unpackFrom w n (leNat b)

/-- Codes of width `w` as one number. -/
def packNat (w : Nat) : List Nat → Nat
  | [] => 0
  | c :: cs => c % 2 ^ w + 2 ^ w * packNat w cs

/-- Codes of width `w` packed into whole bytes. -/
def pack (w : Nat) (cs : List Nat) : Bytes := le ((w * cs.length + 7) / 8) (packNat w cs)

/-- Width of an element of format `f` in a Sorting store (`store`) or in HBM (R43, R73, R172). -/
def Fmt.widthIn (f : Fmt) (store : Bool) : Nat := if store then f.container else f.width

/-- The element code within a container: bits [5:0] of an FP6 container (R43). -/
def Fmt.codeOf (f : Fmt) (c : Nat) : Nat := c % 2 ^ f.width

/-! ### The Tumbler -/

/-- R128, R129: one call; eight 16-bit values. -/
def tumbler (seed : Bytes) (sigma tau theta beta : Nat) : List Nat :=
  let c := sigma % 2 ^ 16 * 2 ^ 112 + tau % 2 ^ 32 * 2 ^ 80 + theta % 2 ^ 16 * 2 ^ 64 + beta % 2 ^ 64
  let out := Crypto.aes (slice seed 0 16) (be 16 c)
  (List.range 8).map fun j => beNat (slice out (2 * j) 2)

/-- R130: the value of element `e`. -/
def tumblerAt (seed : Bytes) (sigma tau theta e : Nat) : Nat :=
  (tumbler seed sigma tau theta (e / 8)).getD (e % 8) 0

/-- The rounding of element `e` under an RND code of R65: 0 to nearest, 1 toward zero, 2 stochastic. -/
def rndOf (rnd : Nat) (seed : Bytes) (sigma tau theta : Nat) (e : Nat) : Rnd :=
  if rnd = 2 then .stochastic (tumblerAt seed sigma tau theta e) else if rnd = 1 then .zero else .nearest

/-! ### The block quantiser -/

/-- A value bound for a stored format: its exact value, its overflow flag and its index in canonical order. -/
structure Elem where
  v : Val
  ovf : Bool
  e : Nat
  deriving DecidableEq, Repr

/-- An FP32 element. -/
def Elem.ofAcc (a : Acc) (e : Nat) : Elem := ⟨a.val, a.ovf, e⟩

/-- A quantised block. -/
structure QBlock where
  scale : Nat
  codes : List Nat
  flushed : List Bool
  counts : Counts
  deriving DecidableEq, Repr

/-- R145: the smallest e with a · 2^(−e) ≤ F_max, held within −127 to 127; 0 for zero or NaN. -/
def blockExp (f : Fmt) (a : Val) : Int :=
  match a with
  | .nan => 0
  | .num _ n d e =>
    if n = 0 then 0
    else
      match f.magnitude false f.top with
      | .nan => 0
      | .num _ fn fd fe =>
        let k := log2Floor n d + e - (log2Floor fn fd + fe)
        let k := if (Val.num false n d (e - k)).compare (.num false fn fd fe) > 0 then k + 1 else k
        if k > 127 then 127 else if k < -127 then -127 else k

/-- The larger magnitude of values, NaN only when all are (R120). -/
def maxAbsVal (vs : List Val) : Val :=
  vs.foldl (fun a v =>
    if v.isNan then a else if a.isNan then v.abs else if v.abs.compare a > 0 then v.abs else a) .nan

/-- R145 to R147 over the elements of a block (or of a dual-posted tile, which counts `units` blocks): divided by the
tensor scale, scaled when `blk`, and rounded. -/
def quantise (f : Fmt) (blk : Bool) (units : Nat) (s : Val) (rnd : Nat → Rnd) (xs : List Elem) : QBlock :=
  if blk ∧ ¬ f.hasNan ∧ xs.any (fun x => x.v.isNan) then
    { scale := 0xFF, codes := xs.map fun _ => 0, flushed := xs.map fun _ => false,
      counts := (Counts.sum (xs.map fun x => Counts.ofElem x.v x.ovf ⟨0, false, false⟩)).add { nanBlock := units } }
  else
    let ys := xs.map fun x => (x, x.v.div s)
    let e := if blk then blockExp f (maxAbsVal (ys.map (·.2))) else 0
    let rs := ys.map fun xy => (xy.1, f.round (rnd xy.1.e) (xy.2.scale (-e)))
    { scale := (e + 127).toNat, codes := rs.map (·.2.code), flushed := rs.map (·.2.flush),
      counts := Counts.sum (rs.map fun xr => Counts.ofElem xr.1.v xr.1.ovf xr.2) }

/-- Cut a list into runs of `n`; `fuel` bounds their number. -/
def runsOf {α : Type} (n : Nat) : Nat → List α → List (List α)
  | 0, _ => []
  | fuel + 1, l => if l.isEmpty then [] else l.take n :: runsOf n fuel (l.drop n)

/-- Blocks of 32. -/
def blocks32 {α : Type} (l : List α) : List (List α) := runsOf 32 (l.length / 32 + 1) l

/-- The exact value of a tensor scale; a pattern that is not a positive normal is held as it reads (R148). -/
def scaleVal (x : W32) : Val := f32 x

/-- The exact multiplier of an E8M0 code, NaN for 0xFF (R47, R106). -/
def e8m0 (c : Nat) : Val := if c = 0xFF then .nan else .num false 1 1 ((c : Int) - 127)

/-- R69: an address field of one of the classes given, its reserved bits zero. -/
def addrForm (classes : List Nat) (a : Nat) : Bool :=
  classes.contains (addrClass a) &&
    (match addrClass a with
     | 0 => decide (addrOff a < 2 ^ 28)
     | 1 => decide (addrOff a < 2 ^ 48)
     | _ => addrOff a = 0)

end Sys2Proof.Machine
end

