-- ==== Sys2Proof/Machine/Shared.lean ====
section
/-! DEFINITION. The named operations over the machine: sessions and their configuration (R380), contexts and
descriptors in progress (R90 to R98, R591), tallies (R309 to R314), the tick of the TIME clock (R292), key slots (R383),
where a session address lies (R335, R336) and the programmable counters (R547 to R554). -/

namespace Sys2Proof.Machine

/-- What a command answers. -/
abbrev Out := Host.Outcome State Fault Refusal

/-- A set bit of a bit vector. -/
def setBit {w : Nat} (x : BitVec w) (i : Nat) : BitVec w := x ||| BitVec.ofNat w (2 ^ i)

/-- A cleared bit of a bit vector. -/
def clrBit {w : Nat} (x : BitVec w) (i : Nat) : BitVec w := x &&& ~~~(BitVec.ofNat w (2 ^ i))

/-! ### Sessions -/

/-- Session `i`. -/
def State.session (s : State) (i : Nat) : Session := vget Session.reset s.sessions i

/-- Replace session `i`. -/
def State.setSession (s : State) (i : Nat) (x : Session) : State := { s with sessions := vset s.sessions i x }

/-- Change session `i`. -/
def State.onSession (s : State) (i : Nat) (f : Session → Session) : State := s.setSession i (f (s.session i))

/-- A configuration byte (R380). -/
def Session.cfg (x : Session) (off : Nat) : Nat := (u8 x.config off).toNat

/-- A configuration field. -/
def Session.cfgField (x : Session) (off len : Nat) : Nat := fieldAt x.config off len

def Session.pieceCode (x : Session) : Nat := x.cfg 1
def Session.parties (x : Session) : Nat := x.cfg 2
def Session.isConsignment (x : Session) : Bool := bitOf (x.cfg 3) 0
def Session.noiseEn (x : Session) : Bool := bitOf (x.cfg 3) 1
def Session.tallyBase (x : Session) : Nat := x.cfgField 4 2
def Session.tallyCount (x : Session) : Nat := x.cfgField 6 2
def Session.portMask (x : Session) : Nat := x.cfgField 8 4
def Session.vf (x : Session) : Nat := x.cfg 12
def Session.weightParty (x : Session) : Nat := x.cfg 13
def Session.paramBase (x : Session) : Nat := x.cfgField 16 8
def Session.paramSize (x : Session) : Nat := x.cfgField 24 8
def Session.channelOwner (x : Session) (c : Nat) : Nat := x.cfg (64 + c)
def Session.bankOwner (x : Session) (d b : Nat) : Nat := x.cfg (128 + 64 * d + b)
def Session.wayOwner (x : Session) (d w : Nat) : Nat := x.cfg (384 + 16 * d + w)
def Session.farGib (x : Session) : Nat := x.cfgField 48 4

/-- Top die and number of dies of a PIECE code (R380, R55). -/
def pieceDies (code : Nat) : Nat × Nat :=
  match code with
  | 0 => (0, 4)
  | 1 => (0, 2)
  | 2 => (2, 2)
  | _ => (code - 4, 1)

def Session.top (x : Session) : Nat := (pieceDies x.pieceCode).1
def Session.dies (x : Session) : Nat := (pieceDies x.pieceCode).2

/-- Height h_p of the piece in rows (R55). -/
def Session.height (x : Session) : Nat := 512 * x.dies

/-- The state is one in which the session holds resources. -/
def Session.isOpen (x : Session) : Bool := x.state ≠ .free

/-- Descriptors of the session may start: READY, RUNNING, or CLOSING until the strike (R411). -/
def Session.working (x : Session) : Bool :=
  match x.state, x.closing with
  | .ready, _ => true
  | .running, _ => true
  | .closing, some c => !c.struck
  | _, _ => false

/-- An owner's slot has been struck: a removed party, or a session whose close has struck (R407, R411). -/
def Session.struck (x : Session) (owner : Nat) : Bool :=
  (owner < 16 && x.removed.getLsbD owner) ||
    (match x.closing with | some c => c.struck | none => false)

/-! ### Contexts and descriptors in progress -/

def Session.ctx (x : Session) (c : Nat) : Context := vget Context.reset x.ctxs c
def Session.setCtx (x : Session) (c : Nat) (k : Context) : Session := { x with ctxs := vset x.ctxs c k }
def Session.onCtx (x : Session) (c : Nat) (f : Context → Context) : Session := x.setCtx c (f (x.ctx c))

/-- A context that executes: waiting or running. -/
def Context.live (k : Context) : Bool := k.state = .waiting ∨ k.state = .running

/-- The list in a slot. -/
def Session.list? (x : Session) (slot : Nat) : Option DispatchList := (x.lists.find? (·.1 = slot)).map (·.2)

/-- The descriptor at an index of a slot's list. -/
def Session.descAt? (x : Session) (slot index : Nat) : Option Bytes :=
  (x.list? slot).bind fun l => l.descs[index]?

/-- The descriptor in progress that context `c` numbered `q`. -/
def Session.op? (x : Session) (c q : Nat) : Option Op := x.ops.find? fun o => o.ctx = c ∧ o.seq = q

/-- Replace a descriptor in progress. -/
def Session.setOp (x : Session) (o : Op) : Session :=
  { x with ops := x.ops.map fun p => if p.ctx = o.ctx ∧ p.seq = o.seq then o else p }

/-- Take a descriptor out of progress. -/
def Session.dropOp (x : Session) (c q : Nat) : Session :=
  { x with ops := x.ops.filter fun p => !(p.ctx = c ∧ p.seq = q)
           piece := { x.piece with opened := x.piece.opened.filter fun p => !(p.1 = c ∧ p.2 = q) } }

/-- The descriptor in progress that a command names. -/
def State.op? (s : State) (o : OpRef) : Option Op := (s.session o.session).op? o.ctx o.seq

/-- Class of an opcode (R63): its high byte. -/
def opClass (c : Nat) : Nat := c / 256

def Op.code (o : Op) : Nat := dOpcode o.desc
def Op.isArray (o : Op) : Bool := opClass o.code = 1
def Op.isCollective (o : Op) : Bool := opClass o.code = 5

/-- A reason gathered for the attempt's vote (R224). -/
def Session.reason (x : Session) (r : BitVec 16) : Session := { x with voteReasons := x.voteReasons ||| r }

/-- R95, R97: a context stops with a status, its record naming the first descriptor that stopped it: one already stopped
keeps its first, and one that END has left idle stops when a descriptor it started fails.
Assumption log 55 (DEDUCED), 91 (DESIGN CHOICE). -/
def Session.stopCtxAt (x : Session) (c : Nat) (st : Status) (slot index : Nat) : Session :=
  if (x.ctx c).state = .stopped then x
  else
    (x.onCtx c fun k =>
      { k with state := .stopped, status := st, slot := BitVec.ofNat 8 slot, index := BitVec.ofNat 17 index,
               waitMet := false }).reason rsContextStop

/-- A live context stops at its head. -/
def Session.stopCtx (x : Session) (c : Nat) (st : Status) : Session :=
  if (x.ctx c).live then x.stopCtxAt c st (x.ctx c).slot.toNat (x.ctx c).index.toNat else x

/-- Every context stops at its head with a status. -/
def Session.stopAll (x : Session) (st : Status) : Session :=
  (List.range 4).foldl (fun x c => x.stopCtx c st) x

/-- A tally of the module. -/
def State.tally (s : State) (n : Nat) : Tally := Table.get Tally.reset s.tallies n

/-- Replace a tally. -/
def State.setTally (s : State) (n : Nat) (t : Tally) : State := { s with tallies := Table.set Tally.reset s.tallies n t }

/-- R313: a tally on the CTRL clock of a postmark: the updates of an earlier clock are over. -/
def Tally.on (t : Tally) (now : W64) : Tally :=
  if t.clock = now then t else { t with clock := now, before := t.value, setBy := none, adds := 0 }

/-- R312, R313: an add of a clock. Assumption log 1 (DESIGN CHOICE). -/
def Tally.add (t : Tally) (now : W64) (v : W32) : Tally :=
  let t := t.on now
  { t with value := t.value + v, adds := t.adds + v }

/-- R313: a TALLY_SET of a clock: it holds over those of lower contexts, and the clock's adds come after it.
Assumption log 1 (DESIGN CHOICE). -/
def Tally.set (t : Tally) (now : W64) (c : Nat) (v : W32) : Tally :=
  let t := t.on now
  if (match t.setBy with | some b => decide (b ≤ c) | none => true) then { t with setBy := some c, value := v + t.adds }
  else t

/-- R313: what a wait sees: the value after whole clocks. Commands of one postmark fall on one CTRL clock of 1 ns.
Assumption log 1 (DESIGN CHOICE). -/
def Tally.seen (t : Tally) (now : W64) : W32 := if t.clock = now then t.before else t.value

/-- Add to a tally. -/
def State.tallyAdd (s : State) (n : Nat) (v : W32) : State := s.setTally n ((s.tally n).add s.time.now v)

/-- R95, R591: a descriptor completes. Its signal tally advances on ST_OK and on a voided seal; any other status stops
its context, and ST_REVOKED is gathered for the vote (R224). Assumption log 80 (DESIGN CHOICE). -/
def State.completeOp (s : State) (i : Nat) (o : Op) (st : Status) : State :=
  let s := s.onSession i fun x =>
    let x := (x.dropOp o.ctx o.seq).onCtx o.ctx fun k => { k with completed := k.completed + 1 }
    let x := if st = stRevoked then x.reason rsRevoked else x
    if st = stOk ∨ st = stVoided then x else x.stopCtxAt o.ctx st o.slot o.index
  if dSignalEn o.desc ∧ (st = stOk ∨ st = stVoided) then
    s.tallyAdd ((s.session i).tallyBase + dSignalTally o.desc) (dSignalInc o.desc)
  else s

/-- R176: a descriptor leaves the Pigeonhole it waits for or runs on. -/
def State.phDone (s : State) (o : OpRef) : State :=
  { s with dies := s.dies.map fun d => { d with phQueue := d.phQueue.filter fun q => q ≠ o } }

/-- R556: a piece whose last launched array operation has left it is idle again. -/
def Session.settle (x : Session) (now : W64) : Session :=
  if x.piece.quiet ∨ x.ops.any fun o => o.isArray && o.stage ≠ .started then x
  else { x with piece := { x.piece with quiet := true, wake := false, quietSince := now } }

/-- Opcode of STEP_SEAL. -/
def opSeal : Nat := 0x0420

/-- R223: a STEP_SEAL that is stopped at its launch is in progress no more. Assumption log 73 (DESIGN CHOICE). -/
def Session.dropSeal (x : Session) (o : Op) : Session :=
  if o.code = opSeal then { x with sealing := none, sealRec := { x.sealRec with sealing := false } } else x

/-- A descriptor is stopped by a run-time check at its launch: it leaves progress and the engine that would have run it
without completing, and its context stops (R95). Assumption log 73 and 80 (DESIGN CHOICE). -/
def State.stopOp (s : State) (i : Nat) (o : Op) (st : Status) : State :=
  (s.onSession i fun x =>
    let x := (((x.dropOp o.ctx o.seq).dropSeal o).stopCtxAt o.ctx st o.slot o.index).settle s.time.now
    if o.isArray then { x with piece := { x.piece with idleSince := s.time.now } } else x).phDone ⟨i, o.ctx, o.seq⟩

/-- A descriptor's work is done with a status; its completion row follows. Assumption log 80 (DESIGN CHOICE). -/
def State.finishOp (s : State) (i : Nat) (o : Op) (st : Status) : State :=
  s.onSession i fun x => x.setOp { o with stage := .finished, status := st }

/-! ### Time -/

/-- The instants of the manual are in nanoseconds; a postmark counts 2^-16 ns (R291).
Assumption log 1 (DESIGN CHOICE). -/
def ns (n : Nat) : Nat := n * 65536

/-- The TIME domain is released (R502, R506). Domain 15 is TIME. -/
def State.timeRuns (s : State) : Bool := s.resets.released.getLsbD 15

/-- R292: one TIME clock, 1 ns and the rate correction, carried in 32 further fraction bits; never backwards.
Assumption log 1 (DESIGN CHOICE). -/
def State.tick (s : State) : State :=
  if s.timeRuns then
    let total : Int := (s.time.now.toNat * 2 ^ 32 + s.time.fraction.toNat : Nat) + 2 ^ 48 + s.time.rate.toInt * 2 ^ 16
    let total := total.toNat
    { s with time := { s.time with now := BitVec.ofNat 64 (total / 2 ^ 32), fraction := BitVec.ofNat 32 total } }
  else s

/-- Postmark time now. Assumption log 85 (DESIGN CHOICE). -/
def State.now (s : State) : Nat := s.time.now.toNat

def Power.code : Power → Nat
  | .ps0 => 0
  | .ps1 => 1
  | .ps2 => 2
  | .ps3 => 3
  | .ps4 => 4

/-- R502, R525: the deepest power state in which a clock domain runs; TAP runs as the tester drives it. -/
def domainDepth (d : Nat) : Nat :=
  if d = 0 ∨ d = 17 then 4
  else if d = 1 ∨ d = 2 then 2
  else if 3 ≤ d ∧ d ≤ 6 then 0
  else if d = 12 ∨ d = 15 ∨ d = 16 then 3
  else 1

/-- The power state leaves a clock domain running. Assumption log 44 (DEDUCED). -/
def State.runsIn (s : State) (d : Nat) : Bool := decide (s.power.power.code ≤ domainDepth d)

/-- R526: work that arrives in PS1 starts the wake to PS0, which takes 20 µs. -/
def State.stir (s : State) : State :=
  if s.power.power = .ps1 ∧ ¬ s.power.waking then
    { s with power := { s.power with waking := true, wakeAt := BitVec.ofNat 64 (s.now + ns 20000) } }
  else s

/-- Take the next free value (the model's own counter). Assumption log 10 (DESIGN CHOICE). -/
def State.draw (s : State) : Nat × State := (s.draws, { s with draws := s.draws + 1 })

/-- `n` random bytes of the Vrelcy root (R383). Assumption log 10 and 11 (DESIGN CHOICE). -/
def State.random (s : State) (n : Nat) : Bytes × State :=
  ((List.range n).map (Config.drbg s.draws), { s with draws := s.draws + 1 })

/-! ### Where a session address lies -/

/-- User bytes of a channel (R330). -/
def userBytes : Nat := 14763950080

/-- Pages of a channel (R331). -/
def channelPages : Nat := 3670016

/-- Owner codes in the order of the address map (R335). -/
def ownerOrder : List Nat := List.range 16 ++ [31]

/-- The channels of an owner, ascending. -/
def Session.channelsOf (x : Session) (o : Nat) : List Nat := (List.range 64).filter fun c => x.channelOwner c = o

/-- R335, R336: owner, channel and channel physical address of a session HBM address. -/
def Session.locateFrom (x : Session) : List Nat → Nat → Option (Nat × Nat × Nat)
  | [], _ => none
  | o :: os, a =>
    let cs := x.channelsOf o
    if a < cs.length * userBytes then
      let p := a / 4096
      some (o, cs.getD (p % cs.length) 0, 4096 * (p / cs.length) + a % 4096)
    else x.locateFrom os (a - cs.length * userBytes)

@[inherit_doc Session.locateFrom] def Session.locate (x : Session) (a : Nat) : Option (Nat × Nat × Nat) :=
  x.locateFrom ownerOrder a

/-- Base and size of an owner's region of session HBM (R335). -/
def Session.region (x : Session) (o : Nat) : Nat × Nat :=
  let before := ownerOrder.takeWhile (· ≠ o)
  ((before.map fun p => (x.channelsOf p).length * userBytes).sum, (x.channelsOf o).length * userBytes)

/-- Base and size of an owner's region of the far data (R365, R380). -/
def Session.farRegion (x : Session) (o : Nat) : Nat × Nat :=
  let size := fun k => x.cfgField (464 + 4 * k) 4 * 2 ^ 20
  let k := if o = 31 then 16 else o
  (((List.range k).map size).sum, size k)

/-- Every byte of the range lies in the region of the owner or in the joint region of session HBM, which ends the map
(R70, R335): the range may run from the one into the other. -/
def Session.hbmOk (x : Session) (owner a len : Nat) : Bool :=
  let r := x.region owner
  let q := x.region 31
  decide (r.1 ≤ a ∧ a + len ≤ r.1 + r.2) || decide (q.1 ≤ a ∧ a + len ≤ q.1 + q.2) ||
    decide (r.1 + r.2 = q.1 ∧ r.1 ≤ a ∧ a + len ≤ q.1 + q.2)

/-- Bank size of the Sorting store (R381). -/
def bankBytes : Nat := 2621440

/-- The range lies in banks of the owner or joint banks of one die (R70). -/
def Session.storeOk (x : Session) (owner die off len : Nat) : Bool :=
  decide (off + len ≤ 64 * bankBytes) &&
    (List.range 64).all fun b =>
      !(decide (off < (b + 1) * bankBytes ∧ b * bankBytes < off + len)) ||
        (x.bankOwner die b = owner || x.bankOwner die b = 31)

/-! ### Programmable counters, R547 to R554 -/

/-- Events that R554 marks host-visible. -/
def eventVisible (ev : Nat) : Bool := ev = 0x060 || ev = 0x280 || ev = 0x281 || ev = 0x290

/-- R547: a counter counts an event of session `i`'s work, or of all traffic when it is the module's. -/
def Counter.counts (c : Counter) (i ev : Nat) : Bool :=
  c.enable && c.event.toNat = ev && ((c.owner = 1 && c.session.toNat = i) || (c.owner = 2 && eventVisible ev))

/-- R551: an addition; true when it requests a sample record. -/
def Counter.advance (c : Counter) (n : Nat) : Counter × Bool :=
  let t := c.value.toNat + n
  if t < 2 ^ 48 then ({ c with value := BitVec.ofNat 48 t }, false)
  else if c.ovfSample then ({ c with sticky := true, value := BitVec.ofNat 48 (c.reload.toNat + (t - 2 ^ 48)) }, true)
  else ({ c with sticky := true, value := BitVec.ofNat 48 t }, false)

/-- The most an event gives on one clock (R554). Assumption log 18 (DESIGN CHOICE). -/
def eventMost (ev : Nat) : Nat :=
  if ev = 0x005 then 15
  else if ev = 0x010 ∨ ev = 0x011 then 256
  else if ev = 0x020 then 32
  else if ev = 0x040 ∨ ev = 0x270 ∨ ev = 0x271 then 8
  else if (0x050 ≤ ev ∧ ev ≤ 0x053) ∨ ev = 0x060 then 16
  else if ev = 0x260 then 40
  else if ev = 0x261 then 18
  else if ev = 0x290 then 2
  else 1

/-- The additions of `n` of an event over its clocks, each of 1 to `most`; how they fall on clocks is free. `fuel` bounds
the clocks. Assumption log 18 (DESIGN CHOICE). -/
def clockParts (most : Nat) : Nat → Nat → Nat → List Nat
  | 0, _, _ => []
  | fuel + 1, d, n =>
    if n = 0 then []
    else
      let a := min n (1 + (Config.freeWord d).toNat % most)
      a :: clockParts most fuel (d + 1) (n - a)

/-- R551: additions one clock after another; the number of sample records they request. -/
def Counter.advances (c : Counter) (l : List Nat) : Counter × Nat :=
  l.foldl (fun (acc : Counter × Nat) n =>
    let (c, r) := acc.1.advance n
    (c, acc.2 + boolNat r)) (c, 0)

/-- R551: `n` of an event on single clocks. Where a reload is longer than the most of one clock, each clock's addition
carries at most once past the last, so the sum alone decides; where it is not, the clocks are taken one by one from the
free value `d`. Assumption log 18 (DESIGN CHOICE). -/
def Counter.advanceBy (c : Counter) (most d n : Nat) : Counter × Nat :=
  let t := c.value.toNat + n
  let span := 2 ^ 48 - c.reload.toNat
  if t < 2 ^ 48 ∨ ¬ c.ovfSample then
    let (c, _) := c.advance n
    (c, 0)
  else if most ≤ span then
    ({ c with sticky := true, value := BitVec.ofNat 48 (c.reload.toNat + (t - 2 ^ 48) % span) }, 1 + (t - 2 ^ 48) / span)
  else c.advances (clockParts most n d n)

/-- R553: a sample record but for its SEQ, which stands at bytes 8 to 11. -/
def Session.sampleBytes (x : Session) (now : W64) (seq : W32) (unit number event : Nat) (slots : Vector W64 16) : Bytes :=
  let mine := decide (unit < 4 ∧ x.top ≤ unit ∧ unit < x.top + x.dies)
  let at_ := fun (k : Nat) => vget 0 slots k
  let issuing := if mine then x.piece.opened.head? else none
  let who : Bytes := match issuing with
    | some (c, _) => le 1 c ++ le 1 (x.ctx c).slot.toNat ++ le 2 ((x.ctx c).index.toNat % 65536)
    | none => [0xFF, 0, 0, 0]
  let tail : Bytes := if unit < 4 then
      w64 (at_ 0) ++ w64 (at_ 1 + at_ 2 + at_ 3 + at_ 4) ++ w64 (at_ 5 + at_ 6 + at_ 7) ++ w64 (at_ 8 + at_ 9)
    else zeros 32
  w64 now ++ w32 seq ++ le 1 unit ++ le 1 number ++ le 2 event ++ who ++ w32 x.sealRec.step ++ w16 x.sealRec.attempt ++
    zeros 6 ++ tail

/-- R552: a counter requests a sample record: while its unit has `room` (a unit queues four) it is queued, and else it is
lost; either way it takes a number. -/
def Session.requestSample (x : Session) (room : Bool) (now : W64) (unit number event : Nat) (slots : Vector W64 16) :
    Session :=
  match x.ring with
  | none => x
  | some r =>
    let b := x.sampleBytes now r.seq unit number event slots
    if room then { x with ring := some { r with seq := r.seq + 1, queue := r.queue ++ [⟨unit, b⟩] } }
    else { x with ring := some { r with seq := r.seq + 1, lost := satAdd r.lost 1 } }

/-- R552: records that a unit has queued, of every session. -/
def State.queued (s : State) (unit : Nat) : Nat :=
  ((List.range 4).map fun i =>
    match (s.session i).ring with
    | some r => (r.queue.filter fun q => q.unit = unit).length
    | none => 0).sum

/-- R552: a counter of session `i` requests a sample record. -/
def State.sample (s : State) (i key event : Nat) : State :=
  let room := decide (s.queued (key / 64) < 4)
  s.onSession i fun x =>
    x.requestSample room s.time.now (key / 64) (key % 64) event (vget (Vector.replicate 16 0) s.perf.slots (key / 64))

/-- R549, R551: one counter takes `n` of its event, of work of session `i`, which fell in at most `runs` separate runs of
clocks; in how many of them the clock before was a zero is free. Assumption log 18 and 86 (DESIGN CHOICE). -/
def State.bump (s : State) (i key n runs : Nat) : State :=
  let c := Table.get Counter.reset s.perf.counters key
  let d := s.draws
  let k := if c.edge then (Config.freeWord d).toNat % (min n runs + 1) else n
  let s := if c.edge then { s with draws := d + 1 } else s
  let (c', recs) := c.advanceBy (if c.edge then 1 else eventMost c.event.toNat) s.draws k
  let s := { s with perf := { s.perf with counters := Table.set Counter.reset s.perf.counters key c' },
                    draws := s.draws + (if 1 < recs then n else 0) }
  if c.owner = 1 then (List.range recs).foldl (fun s _ => s.sample i key c.event.toNat) s else s

/-- `n` of an event in a unit, of work of session `i`, in at most `runs` unbroken runs of clocks. -/
def State.perfRuns (s : State) (i unit ev n runs : Nat) : State :=
  if n = 0 then s
  else
    (s.perf.counters.filter fun e => e.1 / 64 = unit && e.2.counts i ev).foldl (fun s e => s.bump i e.1 n runs) s

/-- `n` of an event in a unit, of work of session `i`, on whatever clocks. Assumption log 86 (DESIGN CHOICE). -/
def State.perfEvent (s : State) (i unit ev n : Nat) : State := s.perfRuns i unit ev n n

/-! ### Key slots of a session -/

/-- The key slot a session holds of a kind (R383). -/
def State.slotOf (s : State) (i : Nat) (k : SlotKind) : Option Nat :=
  (List.range 64).find? fun n => (vget KeySlot.reset s.slots n).binding = some (i, k)

/-- The key in a session's slot of a kind. -/
def State.slotKey (s : State) (i : Nat) (k : SlotKind) : Bytes :=
  match s.slotOf i k with
  | some n => (vget KeySlot.reset s.slots n).key
  | none => []

end Sys2Proof.Machine
end

