-- ==== Sys2Proof/Machine/Protect.lean ====
section
/-! DEFINITION. Memory as the protection engine serves it: the layout of a channel and of a far range (R330, R331, R348,
R365, R366), the line cipher and its tags (R337 to R341), counter blocks and tree nodes with the metadata cache that
holds them (R346 to R351, R588), reading and writing a line (R343, R344), counters that run out (R352 to R356), and
failures (R357, R358, R377). -/

namespace Sys2Proof.Machine

/-- A protected space: an HBM channel, or the far range of a session. -/
inductive Space where
  | hbm (c : Nat)
  | far (i : Nat)
  deriving DecidableEq, Repr

def State.chan (s : State) : Space → Channel
  | .hbm c => vget Channel.reset s.channels c
  | .far i => vget Channel.reset s.far i

def State.setChan (s : State) (sp : Space) (ch : Channel) : State :=
  match sp with
  | .hbm c => { s with channels := vset s.channels c ch }
  | .far i => { s with far := vset s.far i ch }

def State.onChan (s : State) (sp : Space) (f : Channel → Channel) : State := s.setChan sp (f (s.chan sp))

def State.onMem (s : State) (i : Nat) (f : MemRec → MemRec) : State :=
  s.onSession i fun x => { x with mem := f x.mem }

/-! ### Layout -/

/-- Pages of user data of a channel (R330); the firmware reserve lies above them. -/
def userPages : Nat := 3604480

/-- R351: the Frame die whose metadata cache serves a channel. -/
def cacheDie (c : Nat) : Nat := c / 16

/-- Counter groups of a space (R346, R365). -/
def State.groupsOf (s : State) : Space → Nat
  | .hbm _ => channelPages / 8
  | .far i => (s.session i).farGib * 28672

/-- R366: stored levels above `n` level-1 nodes; `fuel` bounds them. -/
def levelsFor : Nat → Nat → Nat
  | 0, _ => 1
  | fuel + 1, n => if n ≤ 8 then 1 else levelsFor fuel ((n + 7) / 8) + 1

/-- Stored levels of a space's tree (R348, R366). -/
def State.treeLevels (s : State) : Space → Nat
  | .hbm _ => 7
  | .far i => levelsFor 16 (s.groupsOf (.far i))

/-- Nodes of a level of a space's tree. -/
def State.nodesAt (s : State) (sp : Space) (lv : Nat) : Nat := (s.groupsOf sp + 8 ^ (lv - 1) - 1) / 8 ^ (lv - 1)

/-- R348: channel physical addresses of the levels of a channel's tree. -/
def treeBase : List Nat :=
  [0x3FE000000, 0x3FFC00000, 0x3FFF80000, 0x3FFFF0000, 0x3FFFFE000, 0x3FFFFFC00, 0x3FFFFFF80]

/-- F of a far space in bytes (R365). -/
def State.farSize (s : State) (i : Nat) : Nat := (s.session i).farGib * 2 ^ 30

/-- Address of a line's tag in its space (R331, R365). -/
def State.tagAddr (s : State) (sp : Space) (line : Nat) : Nat :=
  (match sp with | .hbm _ => 0x380000000 | .far i => s.farSize i / 8 * 7) + 8 * line

/-- Address of a page's counter block (R331, R365). -/
def State.blockAddr (s : State) (sp : Space) (p : Nat) : Nat :=
  (match sp with | .hbm _ => 0x3F0000000 | .far i => s.farSize i / 64 * 63) + 64 * p

/-- Address of a node (R348, R365). -/
def State.nodeAddr (s : State) (sp : Space) (lv k : Nat) : Nat :=
  match sp with
  | .hbm _ => treeBase.getD (lv - 1) 0 + 64 * k
  | .far i => s.farSize i / 512 * 511 + 64 * (((List.range (lv - 1)).map fun m => s.nodesAt sp (m + 1)).sum + k)

/-- R338: the identity of the line at an address of a space, and its SPACE code. -/
def Space.lineId (sp : Space) (a : Nat) : Nat := (match sp with | .hbm c => c * 2 ^ 28 | .far _ => 0) + a / 64

@[inherit_doc Space.lineId] def Space.code : Space → Nat
  | .hbm _ => 0
  | .far _ => 1

/-- Counter groups and tree nodes by level and index; a group stands at level 0 (R346, R347). -/
abbrev Item := Nat × Nat

def Item.key (q : Item) : Nat := q.1 * 2 ^ 32 + q.2

def Item.ofKey (k : Nat) : Item := (k / 2 ^ 32, k % 2 ^ 32)

/-- R347, R348: an item and the nodes above it up to the top stored level, top first. -/
def State.path (s : State) (sp : Space) (q : Item) : List Item :=
  (((List.range (s.treeLevels sp + 1)).filter fun m => decide (q.1 < m)).map fun m => (m, q.2 / 8 ^ (m - max q.1 1))).reverse ++ [q]

/-- The counter group of a line. -/
def groupItem (line : Nat) : Item := (0, line / 512)

/-- First page beneath an item, and the one after its last, were its level full. -/
def Item.pages (q : Item) : Nat × Nat := (q.2 * 8 ^ max q.1 1, (q.2 + 1) * 8 ^ max q.1 1)

/-- An item above the firmware reserve, what stands in which the manual does not lay out (R334). -/
def overReserve (sp : Space) (q : Item) : Bool :=
  match sp with
  | .hbm _ => decide (userPages < q.pages.2)
  | .far _ => false

/-! ### Owners, R332, R365 -/

/-- Owner code of a line: the reserve above the user pages (R377). -/
def Session.lineOwner (x : Session) (sp : Space) (line : Nat) : Nat :=
  match sp with
  | .hbm c => if line / 64 < userPages then x.channelOwner c else 30
  | .far _ =>
    (ownerOrder.find? fun o => let r := x.farRegion o; decide (r.1 ≤ 64 * line ∧ 64 * line < r.1 + r.2)).getD 31

/-- Owner of an item: that of the first page beneath it. Assumption log 76 (DESIGN CHOICE). -/
def Session.itemOwner (x : Session) (sp : Space) (q : Item) : Nat := x.lineOwner sp (64 * q.pages.1)

/-- The session that holds a space. -/
def State.holderOf (s : State) (sp : Space) : Option Nat :=
  match sp with
  | .hbm c => (vget Channel.reset s.channels c).holder.map (·.1)
  | .far i => if (s.session i).farGib = 0 ∨ ¬ (s.session i).isOpen then none else some i

/-- The spaces a session holds. -/
def State.spaces (s : State) (i : Nat) : List Space :=
  ((List.range 64).map Space.hbm ++ [Space.far i]).filter fun sp => s.holderOf sp = some i

/-- The key slot that protects an owner's lines (R332). -/
def ownerSlot (o : Nat) : SlotKind := if o = 31 then .joint else if o = 30 then .reserve else .party o

/-! ### The cipher, R337 to R341 -/

/-- R337: a derived memory key. -/
def memKey (slot : Bytes) (epoch : W32) (info : String) : Bytes := Crypto.hkdf slot (w32 epoch) (ascii info) 32

/-- R338: a T-block. -/
def tBlock (ctr : Nat) (sub j domain id space : Nat) : Bytes :=
  le 8 ctr ++ le 1 sub ++ le 1 (j + 4 * domain) ++ le 5 id ++ le 1 space

/-- R339: 64 bytes under the four key-stream blocks of a domain. Assumption log 8 (DEDUCED). -/
def cipherLine (kEnc plain : Bytes) (domain ctr sub id space : Nat) : Bytes :=
  xorBytes plain ((List.range 4).map fun j => Crypto.aes kEnc (tBlock ctr sub j domain id space)).flatten

/-- R340: a tag: the first eight bytes of GHASH of the stored bytes under a mask. -/
def frankingTag (kTag x : Bytes) (domain ctr sub id space : Nat) : Bytes :=
  let h := BitVec.ofNat 128 (beNat (Crypto.aes kTag (zeros 16)))
  xorBytes ((Crypto.ghash h [] x).take 8) ((Crypto.aes kTag (tBlock ctr sub 0 domain id space)).take 8)

/-! ### Counters and versions -/

/-- The counters of a page (R346). -/
def Channel.page (ch : Channel) (p : Nat) : Counters := Table.get ⟨0, []⟩ ch.counters p

/-- Major and minor counter of a line. -/
def Channel.pair (ch : Channel) (line : Nat) : Nat × Nat :=
  let c := ch.page (line / 64)
  (c.major.toNat, (Table.get 0 c.minors (line % 64)).toNat)

/-- Replace the counters of a page. -/
def Channel.setPage (ch : Channel) (p : Nat) (c : Counters) : Channel :=
  { ch with counters := Table.set ⟨0, []⟩ ch.counters p c }

/-- The version an item's parent holds for it (R347); 0 for one never written back (R349).
Assumption log 76 (DESIGN CHOICE). -/
def Channel.version (ch : Channel) (q : Item) : BitVec 56 := Table.get 0 ch.versions q.key

/-- R346: a counter block. Assumption log 8 (DEDUCED). -/
def Counters.block (c : Counters) : Bytes :=
  w64 c.major ++ pack 7 ((List.range 64).map fun n => (Table.get 0 c.minors n).toNat)

/-- R347: the eight versions a node holds, of its children or, at level 1, of the counter blocks of its group.
Assumption log 8 (DEDUCED). -/
def Channel.nodeBytes (ch : Channel) (q : Item) : Bytes :=
  ((List.range 8).map fun k => le 7 (ch.version (if q.1 = 1 then (0, q.2) else (q.1 - 1, 8 * q.2 + k))).toNat).flatten

/-- The 64 plaintext bytes of a line. -/
def Channel.lineBytes (ch : Channel) (line : Nat) : Bytes :=
  (List.range 64).map fun i => Table.get 0 ch.data (64 * line + i)

/-- Store bytes from an address on. Assumption log 7 (DESIGN CHOICE). -/
def memStore (m : Memory) (a : Nat) : Bytes → Memory
  | [] => m
  | b :: bs => memStore (Table.set 0 m a b) (a + 1) bs

/-- Read bytes from an address on. Assumption log 7 (DESIGN CHOICE). -/
def memLoad (m : Memory) (a len : Nat) : Bytes := (List.range len).map fun i => Table.get 0 m (a + i)

/-! ### Stored bits -/

/-- Bytes stored from an address on. -/
def rawStore (m : Table (Option Byte)) (a : Nat) : Bytes → Table (Option Byte)
  | [] => m
  | b :: bs => rawStore (Table.set none m a (some b)) (a + 1) bs

/-- Stored bytes that no live line accounts for: as last written, else as power-on left them (R362). -/
def State.rawBytes (s : State) (sp : Space) (a len : Nat) : Bytes :=
  let base := match sp with | .hbm c => c * 2 ^ 34 | .far i => 2 ^ 40 + i * 2 ^ 44
  (List.range len).map fun k =>
    match Table.get none (s.chan sp).stored (a + k) with
    | some b => b
    | none => Config.staleByte s.blank (base + a + k)

/-- R355: a counter group that the sweep has passed, or that was swept ahead of it. -/
def Channel.swept (ch : Channel) (g : Nat) : Bool :=
  match ch.sweep with
  | some p => decide (g < p) || ch.ahead.contains g
  | none => true

/-- R355: the last group beneath an item has been swept, `n` groups standing in the space.
Assumption log 75 (DEDUCED). -/
def Channel.sweptUnder (ch : Channel) (n : Nat) (q : Item) : Bool :=
  match ch.sweep with
  | some p =>
    let lo := q.2 * 8 ^ (q.1 - 1)
    let hi := min (lo + 8 ^ (q.1 - 1)) n
    decide (hi - max lo p ≤ (ch.ahead.filter fun g => decide (max lo p ≤ g ∧ g < hi)).length)
  | none => true

/-- R355: the key epoch a line or item is stored under: a node changes with the last group beneath it. -/
def State.itemEpoch (s : State) (i : Nat) (sp : Space) (q : Item) : W32 :=
  let ch := s.chan sp
  let e := (s.session i).mem.keyEpoch
  if ch.sweptUnder (s.groupsOf sp) q then e else e - 1

/-- The slot key of an owner's lines in a space: none where the space is not held or the key is gone. -/
def State.spaceKey (s : State) (sp : Space) (owner : Session → Nat) : Option (Nat × Bytes) :=
  (s.holderOf sp).bind fun i =>
    let k := s.slotKey i (ownerSlot (owner (s.session i)))
    if k.isEmpty then none else some (i, k)

/-- R339, R340: the stored bytes and tag of a line that a live key protects: none for one that has never been written
under its key, whose key is gone, or whose stored copy fails its tag. Assumption log 8 (DEDUCED). -/
def State.storedLine (s : State) (sp : Space) (line : Nat) : Option (Bytes × Bytes) :=
  let ch := s.chan sp
  let (major, minor) := ch.pair line
  let cond := Table.get .good ch.lines line
  if (major = 0 ∧ minor = 0) ∨ cond = .tagBad then none
  else
    (s.spaceKey sp fun x => x.lineOwner sp line).map fun q =>
      let e := s.itemEpoch q.1 sp (groupItem line)
      let id := sp.lineId (64 * line)
      let kTag := memKey q.2 e "LSV960-MEM-TAG"
      if cond = .poisoned then (zeros 64, frankingTag kTag (zeros 64) 5 major minor id sp.code)
      else
        let x := cipherLine (memKey q.2 e "LSV960-MEM-ENC") (ch.lineBytes line) 0 major minor id sp.code
        (x, if cond = .tagLost then s.rawBytes sp (s.tagAddr sp line) 8 else frankingTag kTag x 1 major minor id sp.code)

/-- R362: the stored bits of a space as they stand when its keys go: the ciphertext and tags of its live lines stay.
Assumption log 15 (DESIGN CHOICE). -/
def State.dump (s : State) (sp : Space) : Table (Option Byte) :=
  let lines := ((s.chan sp).counters.map fun e => (List.range 64).map fun n => 64 * e.1 + n).flatten
  lines.foldl (fun m l =>
    match s.storedLine sp l with
    | some q => rawStore (rawStore m (64 * l) q.1) (s.tagAddr sp l) q.2
    | none => m) (s.chan sp).stored

/-- R362: before a key of session `i` goes, the stored bits it accounts for are kept. -/
def State.keepStored (s : State) (i : Nat) : State :=
  { s with
    channels := Vector.ofFn fun (c : Fin 64) =>
      let ch := vget Channel.reset s.channels c
      if s.holderOf (.hbm c) = some i then { ch with stored := s.dump (.hbm c) } else ch
    far := vset s.far i { s.chan (.far i) with stored := s.dump (.far i) } }

/-- R361, R362: a space whose bits remain and under whose new key nothing has been written: its cached metadata is
discarded, and only the code's verdict on its stored lines outlives it. -/
def Channel.emptied (ch : Channel) (holder : Option (Nat × Nat)) : Channel :=
  let keep := fun (t : Table LineCond) => t.filter fun e => e.2 = .correctable ∨ e.2 = .uncorrectable
  { Channel.reset with
    holder := holder, stored := ch.stored, lines := keep ch.lines, tagLines := keep ch.tagLines, groups := keep ch.groups,
    nodes := keep ch.nodes }

/-- R532: HBM loses its contents at Power-on and in PS4. -/
def State.loseHbm (s : State) : State :=
  { s with channels := Vector.replicate 64 Channel.reset, blank := s.draws, draws := s.draws + 1 }

/-! ### What the host and the counters see -/

/-- R453: tracked lines of the host's that the module has written, by their line number, wait for their
back-invalidation. -/
def State.touch (s : State) (sp : Space) (lines : List Nat) : State :=
  match sp with
  | .far _ => s
  | .hbm c =>
    let all := (lines.map fun k => c * 2 ^ 34 + 64 * k).eraseDups
    let hit := all.filter fun a => s.host.filter.contains a && !s.host.dirty.contains a
    { s with host := { s.host with dirty := s.host.dirty ++ hit } }

/-- Data lines are written, and their tag lines with them (R331). -/
def State.touchData (s : State) (sp : Space) (lines : List Nat) : State :=
  s.touch sp (lines ++ lines.map fun k => s.tagAddr sp k / 64)

/-- `n` of a memory event of session `i` (R554): HBM events of a quarter, or far-tier lines at the far-tier engine. -/
def State.memEvent (s : State) (i : Nat) (sp : Space) (hbm far n : Nat) : State :=
  match sp with
  | .hbm c => if hbm = 0 then s else s.perfEvent i (cacheDie c) hbm n
  | .far _ => if far = 0 then s else s.perfEvent i 5 far n

/-- R358, R360, R377: an integrity violation at an address is counted and logged, and the session is quarantined. -/
def State.violation (s : State) (i : Nat) (sp : Space) (a kind level owner : Nat) : State :=
  let e : Violation :=
    { far := match sp with | .far _ => true | _ => false
      address := match sp with
        | .hbm c => BitVec.ofNat 63 (c * 2 ^ 34 + a)
        | .far _ => BitVec.ofNat 63 a
      postmark := s.time.now, kind := BitVec.ofNat 4 kind, level := BitVec.ofNat 4 level, owner := BitVec.ofNat 5 owner }
  let s := s.onMem i fun m =>
    { m with integrity := satAdd m.integrity 1, quarantined := true,
             log := if m.log.length < 16 then m.log ++ [e] else m.log }
  s.onSession i fun x => x.stopAll stIntegrity

/-! ### The metadata cache, R349 to R351, R588 -/

/-- An item is resident. -/
def Channel.resident (ch : Channel) (q : Item) : Bool := (Table.get none ch.cache q.key).isSome

/-- An item becomes resident, clean or dirty; `none` takes it out. -/
def Channel.cached (ch : Channel) (q : Item) (c : Option Bool) : Channel := { ch with cache := Table.set none ch.cache q.key c }

/-- The condition of the stored lines of an item: the eight counter blocks of a group, or a node.
Assumption log 9 (DESIGN CHOICE). -/
def Channel.conds (ch : Channel) (q : Item) : List LineCond :=
  if q.1 = 0 then (List.range 8).map fun k => Table.get .good ch.groups (8 * q.2 + k) else [Table.get .good ch.nodes q.key]

/-- An item is written back over: the condition of its stored lines is good. -/
def Channel.mended (ch : Channel) (q : Item) : Channel :=
  if q.1 = 0 then { ch with groups := ch.groups.filter fun e => e.1 / 8 ≠ q.2 }
  else { ch with nodes := Table.set .good ch.nodes q.key .good }

/-- The address a fault of an item is logged at: its node, or the counter block whose tag check finds it. -/
def State.faultAddr (s : State) (sp : Space) (q : Item) : Nat :=
  if q.1 = 0 then
    s.blockAddr sp (8 * q.2 + ((List.range 8).find? fun k => Table.get .good (s.chan sp).groups (8 * q.2 + k) = .tagBad).getD 0)
  else s.nodeAddr sp q.1 q.2

/-- R349, R357, R358: an item whose parent is verified is fetched and checked; one of version 0 is all zeros and is
not read. -/
def State.fetchItem (s : State) (i : Nat) (sp : Space) (q : Item) : State × Status :=
  let ch := s.chan sp
  if ch.version q = 0 then (s.onChan sp fun ch => ch.cached q (some false), stOk)
  else
    let corr := ((ch.conds q).filter (· = .correctable)).length
    let s := (s.memEvent i sp 0x052 0 1).onMem i fun m =>
      { m with metaFetch := satAdd m.metaFetch 1, corrected := satAdd m.corrected corr }
    if (ch.conds q).contains .uncorrectable then
      ((s.onChan sp fun ch => { ch with failed := ch.failed ++ [(q.key, .uncorrectable)] }).onMem i fun m =>
        { m with uncorrectable := satAdd m.uncorrectable 1 }, stUncorrectable)
    else if (ch.conds q).contains .tagBad then
      ((s.onChan sp fun ch => { ch with failed := ch.failed ++ [(q.key, .tagBad)] }).violation i sp (s.faultAddr sp q)
        (if q.1 = 0 then 3 else 4) q.1 ((s.session i).itemOwner sp q), stIntegrity)
    else (s.onChan sp fun ch => ch.cached q (some false), stOk)

/-- Items fetched in order, up to the first that fails. -/
def State.fetchAll (s : State) (i : Nat) (sp : Space) : List Item → State × Status
  | [] => (s, stOk)
  | q :: qs =>
    let r := s.fetchItem i sp q
    if r.2 = stOk then r.1.fetchAll i sp qs else r

/-- R588: an access beneath a path of items: one found faulty gives every access beneath it its status; else the walk
fetches what lies below the first level that is resident. -/
def State.reach (s : State) (i : Nat) (sp : Space) (path : List Item) : State × Status :=
  match path.findSome? fun q => (s.chan sp).failed.find? (·.1 = q.key) with
  | some e => (s, if e.2 = .tagBad then stIntegrity else stUncorrectable)
  | none => s.fetchAll i sp (path.reverse.takeWhile fun q => !(s.chan sp).resident q).reverse

/-- R347, R350: an item is encrypted and tagged under its version, and its stored lines are written.
Assumption log 76 (DESIGN CHOICE). -/
def State.storeItem (s : State) (i : Nat) (sp : Space) (q : Item) : State :=
  let ch := s.chan sp
  let ver := (ch.version q).toNat
  let e := s.itemEpoch i sp q
  let key := s.slotKey i (ownerSlot ((s.session i).itemOwner sp q))
  let kEnc := memKey key e "LSV960-MEM-ENC"
  let at_ := if q.1 = 0 then s.blockAddr sp (8 * q.2) else s.nodeAddr sp q.1 q.2
  let bytes :=
    if q.1 = 0 then
      ((List.range 8).map fun k =>
        cipherLine kEnc (ch.page (8 * q.2 + k)).block 2 ver 0 (sp.lineId (at_ + 64 * k)) sp.code).flatten
    else
      let x := cipherLine kEnc (ch.nodeBytes q) 3 ver q.1 (sp.lineId at_) sp.code
      let group := if q.1 = 1 then s.rawBytes sp (s.blockAddr sp (8 * q.2)) 512 else []
      x ++ frankingTag (memKey key e "LSV960-MEM-TAG") (x ++ group) 4 ver q.1 (sp.lineId at_) sp.code
  let s := s.onChan sp fun ch => { ch.mended q with stored := rawStore ch.stored at_ bytes }
  s.touch sp ((List.range (if q.1 = 0 then 8 else 1)).map (at_ / 64 + ·))

/-! ### Reading a stored line, R344, R357, R358 -/

/-- A line that is read and checked: a correctable error of it or of its tag line is counted, and a failure. -/
def State.checkLine (s : State) (i : Nat) (sp : Space) (line kind : Nat) : State × Status :=
  let ch := s.chan sp
  let conds := [Table.get .good ch.tagLines (line / 8), Table.get .good ch.lines line]
  let s := (s.memEvent i sp 0x050 0x270 1).onMem i fun m =>
    { m with corrected := satAdd m.corrected (conds.filter (· = .correctable)).length }
  if conds.contains .uncorrectable || conds.contains .tagLost then
    (s.onMem i fun m => { m with uncorrectable := satAdd m.uncorrectable 1 }, stUncorrectable)
  else
    match Table.get .good ch.lines line with
    | .tagBad => (s.violation i sp (64 * line) kind 0 ((s.session i).lineOwner sp line), stIntegrity)
    | .poisoned => (s, stPoisoned)
    | _ => (s, stOk)

/-- Lines that stand poisoned: zeros under a poison tag (R344). -/
def Channel.spoil (ch : Channel) (lines : List Nat) : Channel :=
  lines.foldl (fun ch l =>
    { ch with data := memStore ch.data (64 * l) (zeros 64), lines := Table.set .good ch.lines l .poisoned }) ch

/-- A tag line is written: its code is good again. -/
def Channel.tagGood (ch : Channel) (t : Nat) : Channel := { ch with tagLines := Table.set .good ch.tagLines t .good }

/-- The lines whose tags a tag line holds. -/
def taggedBy (t : Nat) : List Nat := (List.range 8).map (8 * t + ·)

/-- The lines that a failed read of one poisons: all whose tags an uncorrectable tag line holds, else itself (R358). -/
def Channel.spoiledWith (ch : Channel) (line : Nat) : List Nat :=
  if Table.get .good ch.tagLines (line / 8) = .uncorrectable then taggedBy (line / 8) else [line]

/-- A line is read, checked and rewritten where it stands, by the sweep or a re-frank: one that fails is rewritten as
poisoned. Assumption log 75 (DEDUCED). -/
def State.renewLine (s : State) (i : Nat) (sp : Space) (line : Nat) : State :=
  let (s, st) := s.checkLine i sp line 1
  let s := if st = stUncorrectable ∨ st = stIntegrity then
      s.onChan sp fun ch => (ch.spoil (ch.spoiledWith line)).tagGood (line / 8)
    else s
  s.onChan sp fun ch =>
    if Table.get .good ch.lines line = .poisoned then ch else { ch with lines := Table.set .good ch.lines line .good }

/-- The lines of a page that are not fresh are renewed, and its tag lines with them. -/
def State.renewPage (s : State) (i : Nat) (sp : Space) (p : Nat) : State :=
  let lines := ((List.range 64).map (64 * p + ·)).filter fun l => (s.chan sp).pair l ≠ (0, 0)
  let s := (lines.foldl (fun s l => s.renewLine i sp l) s).memEvent i sp 0x051 0x271 lines.length
  (s.onChan sp fun ch => { ch with tagLines := ch.tagLines.filter fun e => !(lines.map (· / 8)).contains e.1 }).touchData sp lines

/-! ### Write-back, R350, R351 -/

/-- R350, R355: the version of an item advances while a sweep runs: one at its end waits for the next roll.
Assumption log 75 (DEDUCED). -/
def State.plainVersion (s : State) (_ : Nat) (sp : Space) (q : Item) : State × Bool :=
  let v := (s.chan sp).version q
  if v = BitVec.allOnes 56 then (s, false)
  else (s.onChan sp fun ch => { ch with versions := Table.set 0 ch.versions q.key (v + 1) }, true)

/-- R350: an item leaves the cache. A dirty one is written back: its parent is fetched and verified if it is absent, its
version there advances by `next`, and it is written under it; the parent becomes dirty. One whose parent is found faulty
has no use and is dropped, and one whose version does not advance stays. Assumption log 76 (DESIGN CHOICE). -/
def State.evictBy (next : State → Nat → Space → Item → State × Bool) (s : State) (i : Nat) (sp : Space) (q : Item) : State :=
  match Table.get none (s.chan sp).cache q.key with
  | none => s
  | some false => s.onChan sp fun ch => ch.cached q none
  | some true =>
    let above := (s.path sp q).dropLast
    let (s, st) := s.reach i sp above
    if st ≠ stOk then s.onChan sp fun ch => ch.cached q none
    else
      let (s, good) := next s i sp q
      if good then
        let s := (s.storeItem i sp q).onChan sp fun ch => ch.cached q none
        match above.getLast? with
        | some p => s.onChan sp fun ch => ch.cached p (some true)
        | none => s
      else s

/-- R351, R367: what the ways of an owner hold in the cache that serves a space. -/
def State.inWays (s : State) (i : Nat) (sp : Space) (o : Nat) : List (Space × Item) :=
  let items := fun (sp : Space) => (s.chan sp).cache.map fun e => (sp, Item.ofKey e.1)
  match sp with
  | .hbm c =>
    (((List.range 64).filter fun d => cacheDie d = cacheDie c && (s.chan (.hbm d)).holder = some (i, o)).map fun d =>
      items (.hbm d)).flatten
  | .far j => (items (.far j)).filter fun e => (s.session i).itemOwner sp e.2 = o

/-- R351, R367: bytes the ways of an owner have room for. -/
def Session.wayBytes (x : Session) (sp : Space) (o : Nat) : Nat :=
  match sp with
  | .hbm c => ((List.range 16).filter fun w => x.wayOwner (cacheDie c) w = o).length * 524288
  | .far _ => ((List.range 16).filter fun w => x.cfg (448 + w) = o).length * 262144

/-- Bytes an item fills. -/
def Item.size (q : Item) : Nat := if q.1 = 0 then 512 else 64

/-- R588: entries leave the ways of an owner before an access, as many as the cache likes and at least until a walk's
fetches fit; `fuel` bounds them. Assumption log 16 (DESIGN CHOICE). -/
def State.makeRoomFor (next : State → Nat → Space → Item → State × Bool) (i : Nat) (sp : Space) (o n : Nat) :
    Nat → Nat → State → State
  | 0, _, s => s
  | fuel + 1, k, s =>
    let l := s.inWays i sp o
    let full := decide ((s.session i).wayBytes sp o < (l.map fun e => e.2.size).sum + 512 + 64 * s.treeLevels sp)
    match l[Config.victim n k % l.length]? with
    | some e => if full || Config.evicts n k then
        makeRoomFor next i sp o n fuel (k + 1) (s.evictBy next i e.1 e.2)
      else s
    | none => s

/-- Room is made for an access. Assumption log 16 (DESIGN CHOICE), 75 (DEDUCED). -/
def State.makeRoom (next : State → Nat → Space → Item → State × Bool) (s : State) (i : Nat) (sp : Space) (o : Nat) : State :=
  State.makeRoomFor next i sp o s.draws (2 * (s.inWays i sp o).length) 0 { s with draws := s.draws + 1 }

/-! ### Key epochs and the sweep, R354, R355 -/

/-- The sweep pointer moves to a group, and past those already swept. -/
def Channel.sweptTo (ch : Channel) (p : Nat) : Channel :=
  let p := (List.range ch.ahead.length).foldl (fun p _ => if ch.ahead.contains p then p + 1 else p) p
  { ch with sweep := some p, ahead := ch.ahead.filter (p ≤ ·) }

/-- R355: stored nodes above level 1 whose last group beneath has been swept since the space stood at `old` are
rewritten. Assumption log 75 (DEDUCED). -/
def State.renewNodes (s : State) (i : Nat) (sp : Space) (old : Channel) : State :=
  let n := s.groupsOf sp
  let l := ((s.chan sp).versions.map fun e => Item.ofKey e.1).filter fun q =>
    decide (2 ≤ q.1) && !old.sweptUnder n q && (s.chan sp).sweptUnder n q
  l.foldl (fun s q => s.storeItem i sp q) s

/-- R355: the lines of a group that are not fresh are read, verified and written under the new epoch, and its counter
blocks and the node above it with them; `mark` records that it has been swept. A group never written back is written
back. Assumption log 75 (DEDUCED). -/
def State.sweepGroup (s : State) (i : Nat) (sp : Space) (g : Nat) (mark : Channel → Channel) : State :=
  let old := s.chan sp
  let (s, st) := (State.makeRoom State.plainVersion s i sp ((s.session i).itemOwner sp (0, g))).reach i sp (s.path sp (0, g))
  let pages := ((s.chan sp).counters.filter fun e => e.1 / 8 = g).map (·.1)
  let s := if st = stOk then pages.foldl (fun s p => s.renewPage i sp p) s else s
  let s := s.onChan sp mark
  let s := if st ≠ stOk ∨ (pages = [] ∧ (s.chan sp).version (0, g) = 0) then s
    else
      let s := if (s.chan sp).version (0, g) = 0 then
          s.onChan sp fun ch => { ch with versions := Table.set 0 ch.versions (Item.key (0, g)) 1 }.cached (1, g) (some true)
        else s
      let s := (s.storeItem i sp (0, g)).onChan sp fun ch => ch.cached (0, g) (some false)
      if (s.chan sp).version (1, g) = 0 then s else s.storeItem i sp (1, g)
  s.renewNodes i sp old

/-- The sweep runs on until its pointer stands at a group: those that hold anything are swept in ascending order. -/
def State.sweepUpTo (s : State) (i : Nat) (sp : Space) (e : Nat) : State :=
  match (s.chan sp).sweep with
  | some p =>
    let gs := ((s.chan sp).counters.map fun c => c.1 / 8).eraseDups.filter fun g =>
      decide (p ≤ g ∧ g < e) && !(s.chan sp).ahead.contains g
    let s := gs.foldl (fun s g => s.sweepGroup i sp g (·.sweptTo (g + 1))) s
    let old := s.chan sp
    (s.onChan sp fun ch => ch.sweptTo (max (old.sweep.getD 0) e)).renewNodes i sp old
  | none => s

/-- A channel's sweep ends at its last group, and the session's when every channel's has. -/
def State.endSweep (s : State) (i : Nat) (sp : Space) : State :=
  let s := match (s.chan sp).sweep with
    | some g => if s.groupsOf sp ≤ g then s.onChan sp fun ch => { ch with sweep := none, ahead := [] } else s
    | none => s
  if (s.spaces i).all fun q => (s.chan q).sweep.isNone then s.onMem i fun m => { m with sweeping := false } else s

/-- The session's sweep runs to its end. -/
def State.finishSweep (s : State) (i : Nat) : State :=
  (s.spaces i).foldl (fun s sp => (s.sweepUpTo i sp (s.groupsOf sp)).endSweep i sp) s

/-- R354, R355, R356: the key epoch rolls and a sweep of every channel the session holds starts, after the one that
runs; with no epoch left the session's memory becomes read-only and the answer is false.
Assumption log 75 (DEDUCED). -/
def State.rollEpoch (s : State) (i : Nat) : State × Bool :=
  if (s.session i).mem.keyEpoch = BitVec.allOnes 32 then (s.onMem i fun m => { m with readOnly := true }, false)
  else
    let s := if (s.session i).mem.sweeping then s.finishSweep i else s
    let s := s.onMem i fun m => { m with keyEpoch := m.keyEpoch + 1, sweeping := true }
    ((s.spaces i).foldl (fun s sp => s.onChan sp fun ch => { ch with sweep := some 0, ahead := [] }) s, true)

/-! ### Walks -/

/-- R350, R354: the version of an item advances; one at its end rolls the key epoch, waits for the sweep to pass what
lies beneath, and restarts at 1. False where no epoch is left. Assumption log 75 (DEDUCED). -/
def State.nextVersion (s : State) (i : Nat) (sp : Space) (q : Item) : State × Bool :=
  if (s.chan sp).version q = BitVec.allOnes 56 then
    let (s, good) := s.rollEpoch i
    if good then
      ((s.sweepUpTo i sp (min (q.pages.2 / 8) (s.groupsOf sp))).onChan sp fun ch =>
        { ch with versions := Table.set 0 ch.versions q.key 1 }, true)
    else (s, false)
  else s.plainVersion i sp q

/-- R350: an item leaves the cache. -/
def State.evict (s : State) (i : Nat) (sp : Space) (q : Item) : State := State.evictBy State.nextVersion s i sp q

/-- R588: the metadata walk of an access to a line. Assumption log 16 (DESIGN CHOICE). -/
def State.walk (s : State) (i : Nat) (sp : Space) (line : Nat) : State × Status :=
  (State.makeRoom State.nextVersion s i sp ((s.session i).lineOwner sp line)).reach i sp (s.path sp (groupItem line))

/-- Every dirty item of a space is written back. Assumption log 32 (DEDUCED). -/
def State.flush (s : State) (i : Nat) (sp : Space) : State :=
  (List.range (s.treeLevels sp + 1)).foldl (fun s lv =>
    (((s.chan sp).cache.map fun e => Item.ofKey e.1).filter fun q => q.1 = lv).foldl (fun s q => s.evict i sp q) s) s

/-! ### Reading and writing a line, R343, R344, R352 -/

/-- R352, R354 to R356: re-frank a page before a write: every line is read, encrypted and tagged anew under the new
major counter and minor 0. When the major counter has reached its end the key epoch rolls, the sweep passes the page's
group, and the counter restarts at 1; false where no epoch is left. -/
def State.refrank (s : State) (i : Nat) (sp : Space) (p : Nat) : State × Bool :=
  let c := (s.chan sp).page p
  let r := if c.major = BitVec.allOnes 64 then
      let r := s.rollEpoch i
      if r.2 then (r.1.sweepUpTo i sp (p / 8 + 1), true) else r
    else (s, true)
  if r.2 then
    let lines := (List.range 64).map (64 * p + ·)
    let fresh := lines.filter fun l => (r.1.chan sp).pair l = (0, 0)
    let s := r.1.onChan sp fun ch => fresh.foldl (fun ch l =>
      { ch with data := memStore ch.data (64 * l) (zeros 64), lines := Table.set .good ch.lines l .good }) ch
    let s := ((s.renewPage i sp p).memEvent i sp 0x051 0x271 fresh.length).onChan sp fun ch =>
      { ch with tagLines := ch.tagLines.filter fun e => e.1 / 8 ≠ p }.setPage p ⟨if c.major = BitVec.allOnes 64 then 1 else c.major + 1, []⟩
    ((s.touchData sp lines).onMem i fun m => { m with refrank := satAdd m.refrank 1 }, true)
  else r

/-- R355: a write to a page above the sweep pointer first sweeps that page's group. Assumption log 75 (DEDUCED). -/
def State.sweepAhead (s : State) (i : Nat) (sp : Space) (g : Nat) : State :=
  match (s.chan sp).sweep with
  | some p =>
    if p < g ∧ ¬ (s.chan sp).ahead.contains g then s.sweepGroup i sp g fun ch => { ch with ahead := ch.ahead ++ [g] } else s
  | none => s

/-- R344, R356: advance a line's minor counter, re-franking first at 127; its group is then dirty. False where memory is
read-only. -/
def State.advance (s : State) (i : Nat) (sp : Space) (line : Nat) : State × Bool :=
  let p := line / 64
  let s := s.sweepAhead i sp (p / 8)
  let (s, good) :=
    if (s.session i).mem.readOnly then (s, false)
    else if ((s.chan sp).pair line).2 = 127 then (s.memEvent i sp 0x053 0 1).refrank i sp p
    else (s, true)
  if good then
    (s.onChan sp fun ch =>
      let c := ch.page p
      (ch.setPage p { c with minors := Table.set 0 c.minors (line % 64) (Table.get 0 c.minors (line % 64) + 1) }).cached
        (groupItem line) (some true), true)
  else (s, false)

/-- R344, R358: lines are poisoned after a failed read of `line`: each is stored as zeros under a poison tag and the
next counter. Where memory is read-only nothing is written. -/
def State.poison (s : State) (i : Nat) (sp : Space) (line : Nat) : State :=
  let lines := (s.chan sp).spoiledWith line
  let t := s.onChan sp fun ch => (ch.spoil lines).tagGood (line / 8)
  let r := lines.foldl (fun (r : State × Bool) l => if r.2 then r.1.advance i sp l else r) (t, true)
  if r.2 then (r.1.memEvent i sp 0x051 0x271 lines.length).touchData sp lines
  else r.1.onChan sp fun ch => { ch with data := (s.chan sp).data, lines := (s.chan sp).lines, tagLines := (s.chan sp).tagLines }

/-- R344, R357, R358: read a line of a session that holds it. `part` marks the read within a partial write.
Assumption log 8 (DEDUCED), 9 (DESIGN CHOICE). -/
def State.readLine (s : State) (i : Nat) (sp : Space) (line : Nat) (part : Bool) : State × Status × Bytes :=
  let w := s.walk i sp line
  if w.2 ≠ stOk then (w.1, w.2, zeros 64)
  else if (w.1.chan sp).pair line = (0, 0) then (w.1, stOk, zeros 64)
  else
    let r := w.1.checkLine i sp line (if part then 2 else 1)
    if r.2 = stOk then (r.1, stOk, (w.1.chan sp).lineBytes line)
    else if r.2 = stPoisoned then (r.1.onMem i fun m => { m with poisonRead := satAdd m.poisonRead 1 }, stPoisoned, zeros 64)
    else (r.1.poison i sp line, r.2, zeros 64)

/-- A line and its tag are stored: the line is good, and so is its tag line. The seven other tags of a tag line that was
uncorrectable are lost. Assumption log 8 (DEDUCED). -/
def Channel.stores (ch : Channel) (line : Nat) : Channel :=
  let others := if Table.get .good ch.tagLines (line / 8) = .uncorrectable then taggedBy (line / 8) else []
  let ch := others.foldl (fun ch l => { ch with lines := Table.set .good ch.lines l (if Table.get .good ch.lines l = .uncorrectable then .uncorrectable else .tagLost) }) ch
  { ch with lines := Table.set .good ch.lines line .good }.tagGood (line / 8)

/-- R344, R356, R358: write bytes within one line from byte `off`. Assumption log 8 (DEDUCED). -/
def State.writeLine (s : State) (i : Nat) (sp : Space) (line off : Nat) (b : Bytes) : State × Status :=
  if (s.session i).mem.readOnly then (s, stLocked)
  else
    let r :=
      if b.length = 64 then let w := s.walk i sp line; (w.1, w.2, zeros 64)
      else s.readLine i sp line true
    if r.2.1 ≠ stOk then (r.1, r.2.1)
    else
      let (s, good) := r.1.advance i sp line
      if good then
        (((s.memEvent i sp 0x051 0x271 1).touchData sp [line]).onChan sp fun ch =>
          { ch.stores line with data := memStore ch.data (64 * line) (overlay r.2.2 off b) }, stOk)
      else (s, stLocked)

end Sys2Proof.Machine
end

