-- ==== Sys2Proof/Machine/Ops.lean ====
section
/-! DEFINITION. The named operations over memory: jobs, that is an operation's accesses in order with the status they meet
(R359), the places operands lie at (R69 to R73), event counts (R134, R157) and host memory behind the windows. -/

namespace Sys2Proof.Machine

/-- Cut a byte range at line boundaries: line, first byte in it, bytes; `fuel` bounds the lines. -/
def lineRuns : Nat → Nat → Nat → List (Nat × Nat × Nat)
  | 0, _, _ => []
  | fuel + 1, a, len =>
    if len = 0 then []
    else
      let n := min len (64 - a % 64)
      (a / 64, a % 64, n) :: lineRuns fuel (a + n) (len - n)

/-- The runs of `len` bytes at `a`. -/
def linesOf (a len : Nat) : List (Nat × Nat × Nat) := lineRuns (len / 64 + 2) a len

/-! ### A job: one operation's accesses in order -/

/-- An operation's run: the state, the session, the owner it works for, the pages it resolves to copy 1 (R214), whether
it launched in the step in progress (R157), whether it runs on past a strike as an array operation does (R85), and the
bad status met (R359). Assumption log 96 (DEDUCED). -/
structure Job where
  st : State
  sess : Nat
  owner : Nat
  copies : Table Bool
  inStep : Bool
  through : Bool
  status : Status
  deriving DecidableEq, Repr

/-- A status of R358. Assumption log 96 (DEDUCED). -/
def memoryFailure (st : Status) : Bool := st = stUncorrectable ∨ st = stIntegrity ∨ st = stPoisoned

/-- Keep the first bad status; a memory failure, which ends the operation's accesses (R359), stands over a lock or a
strike met before it. Assumption log 96 (DEDUCED). -/
def Job.meet (j : Job) (s : State) (st : Status) : Job :=
  { j with st := s
           status := if j.status = stOk ∨ memoryFailure st ∧ (j.status = stLocked ∨ j.status = stRevoked) then st
                     else j.status }

/-- Further accesses are issued: none once a bad status is met (R359), but read-only memory refuses each write alone
(R356) and an array operation runs to its last tile after a strike (R85). -/
def Job.live (j : Job) : Bool := j.status = stOk ∨ j.status = stLocked ∨ (j.through ∧ j.status = stRevoked)

/-- Accesses of a struck owner's lines are dropped, but an array operation's reads, whose values it still converts
(R85, R407). -/
def Job.dropsRead (j : Job) (struck : Bool) : Bool := struck && !j.through

/-- A strike met by a read that is not dropped. -/
def Job.noteStrike (j : Job) (struck : Bool) : Job := if struck then j.meet j.st stRevoked else j

/-- R213, R214: the copy that an address in copy 0 of the parameter region resolves to. -/
def Session.resolve (x : Session) (copies : Table Bool) (a : Nat) : Nat :=
  if x.paramBase ≤ a ∧ a < x.paramBase + x.paramSize ∧ Table.get false copies ((a - x.paramBase) / 4096) then
    a + x.paramSize
  else a

/-- The pages whose current copy is copy 1 (R213). -/
def Session.resolution (x : Session) : Table Bool :=
  (x.pages.filter fun e => e.2.current).map fun e => (e.1, true)

/-- Read one line's run at a session HBM address. -/
def Job.readRun (j : Job) (a len : Nat) : Job × Bytes :=
  if j.live then
    let x := j.st.session j.sess
    match x.locate (x.resolve j.copies a) with
    | none => (j.meet j.st stRevoked, zeros len)
    | some (o, c, cpa) =>
      let struck := x.struck o || x.struck j.owner
      if j.dropsRead struck ∨ (j.st.chan (.hbm c)).holder ≠ some (j.sess, o) then (j.meet j.st stRevoked, zeros len)
      else
        let j := j.noteStrike struck
        let (s, st, b) := j.st.readLine j.sess (.hbm c) (cpa / 64) false
        (j.meet s st, slice b (cpa % 64) len)
  else (j, zeros len)

/-- Read bytes at a session HBM address, line by line in ascending order. -/
def Job.readHbm (j : Job) (a len : Nat) : Job × Bytes :=
  let r := (linesOf a len).foldl
    (fun (acc : Job × List Bytes) q =>
      let (j', b) := acc.1.readRun (64 * q.1 + q.2.1) q.2.2
      (j', b :: acc.2)) (j, [])
  (r.1, r.2.reverse.flatten)

/-- R237: a write removes every recorded DP_NOISE output it overlaps. -/
def Session.overwrite (x : Session) (sp start len : Nat) : Session :=
  { x with outputs := x.outputs.filter fun o =>
      !((o.data ++ o.scale).any fun r => r.space = sp ∧ r.start < start + len ∧ start < r.start + r.len) }

/-- Write one line's run at a session HBM address that is already resolved; an item of a struck slot, the region's or the
operation's own, is dropped (R85, R386, R407). -/
def Job.writeRun (j : Job) (a : Nat) (b : Bytes) : Job :=
  if j.live then
    let x := j.st.session j.sess
    match x.locate a with
    | none => j.meet j.st stRevoked
    | some (o, c, cpa) =>
      if x.struck o ∨ x.struck j.owner ∨ (j.st.chan (.hbm c)).holder ≠ some (j.sess, o) then j.meet j.st stRevoked
      else
        let (s, st) := j.st.writeLine j.sess (.hbm c) (cpa / 64) (cpa % 64) b
        j.meet (if st = stOk then s.onSession j.sess fun x => x.overwrite 4 a b.length else s) st
  else j

/-- Write bytes at a resolved session HBM address, line by line in ascending order. -/
def Job.writeHbm (j : Job) (a : Nat) (b : Bytes) : Job :=
  (linesOf a b.length).foldl
    (fun j q => j.writeRun (64 * q.1 + q.2.1) (slice b (64 * q.1 + q.2.1 - a) q.2.2)) j

/-- Read a die's Sorting store. -/
def Job.readStore (j : Job) (die off len : Nat) : Job × Bytes :=
  if j.live then
    let struck := (j.st.session j.sess).struck j.owner
    if j.dropsRead struck then (j.meet j.st stRevoked, zeros len)
    else
      let j := j.noteStrike struck
      ({ j with st := j.st.perfEvent j.sess die 0x010 ((len + 63) / 64) },
        memLoad (vget Die.reset j.st.dies die).store off len)
  else (j, zeros len)

/-- Write a die's Sorting store. -/
def Job.writeStore (j : Job) (die off : Nat) (b : Bytes) : Job :=
  if j.live then
    if (j.st.session j.sess).struck j.owner then j.meet j.st stRevoked
    else
      let s := (j.st.perfEvent j.sess die 0x011 ((b.length + 63) / 64)).onSession j.sess fun x => x.overwrite die off b.length
      let d := vget Die.reset s.dies die
      { j with st := { s with dies := vset s.dies die { d with store := memStore d.store off b } } }
  else j

/-- A place an operand or result lies at: a die's Sorting store, session HBM, or none (class 2). -/
inductive Place where
  | store (die off : Nat)
  | hbm (a : Nat)
  | none
  deriving DecidableEq, Repr

def Job.read (j : Job) (p : Place) (len : Nat) : Job × Bytes :=
  match p with
  | .store d o => j.readStore d o len
  | .hbm a => j.readHbm a len
  | .none => (j, zeros len)

def Job.write (j : Job) (p : Place) (b : Bytes) : Job :=
  match p with
  | .store d o => j.writeStore d o b
  | .hbm a => j.writeHbm a b
  | .none => j

def Place.isStore : Place → Bool
  | .store _ _ => true
  | _ => false

/-- Move a place by bytes. -/
def Place.plus (p : Place) (n : Nat) : Place :=
  match p with
  | .store d o => .store d (o + n)
  | .hbm a => .hbm (a + n)
  | .none => .none

/-- R71, R73, R140, R589: where row `r` of a tensor of rows lies, from an address field and a pitch. -/
def Session.rowPlace (x : Session) (addr r pitch : Nat) : Place :=
  match addrClass addr with
  | 0 => .store (x.top + r / 512 % x.dies) (addrOff addr + (512 * (r / (512 * x.dies)) + r % 512) * pitch)
  | 1 => .hbm (addrOff addr + r * pitch)
  | _ => .none

/-- R589: a record or flat tensor that lies on the piece's top die. -/
def Session.topPlace (x : Session) (addr off : Nat) : Place :=
  match addrClass addr with
  | 0 => .store x.top (addrOff addr + off)
  | 1 => .hbm (addrOff addr + off)
  | _ => .none

/-- R589: a vector that every die reads at the same offset of its own store. -/
def diePlace (addr die off : Nat) : Place :=
  match addrClass addr with
  | 0 => .store die (addrOff addr + off)
  | 1 => .hbm (addrOff addr + off)
  | _ => .none

/-- The first byte at a place as the machine holds it, without an access: the bits of a byte that a packed row does not
fill keep their value. -/
def Job.peek (j : Job) (p : Place) : Nat :=
  match p with
  | .store d o => (Table.get 0 (vget Die.reset j.st.dies d).store o).toNat
  | .hbm a =>
    match (j.st.session j.sess).locate a with
    | some (_, c, cpa) => (Table.get 0 (j.st.chan (.hbm c)).data cpa).toNat
    | none => 0
  | .none => 0

/-- Write a packed row of codes of width `w`; bits beyond its last element keep their value. -/
def Job.writeCodes (j : Job) (p : Place) (w : Nat) (cs : List Nat) : Job :=
  let bits := w * cs.length
  if cs.isEmpty then j
  else if bits % 8 = 0 then j.write p (pack w cs)
  else
    let last := j.peek (p.plus (bits / 8))
    j.write p (le ((bits + 7) / 8) (packNat w cs + 2 ^ bits * (last / 2 ^ (bits % 8))))

/-- R134, R157: a batch of events on the session's records; `srec` is 0xFFFF for no scale record. -/
def Job.count (j : Job) (srec : Nat) (c : Counts) : Job :=
  { j with st := j.st.onSession j.sess fun x =>
      let x := { x with num := x.num.count c }
      if srec = 0xFFFF ∨ ¬ j.inStep then x
      else { x with scales := Table.set ScaleRec.reset x.scales srec ((Table.get ScaleRec.reset x.scales srec).count c) } }

/-- Intake only: the numeric event record. -/
def Job.intake (j : Job) (c : Counts) : Job := j.count 0xFFFF { inSat := c.inSat, inNan := c.inNan }

/-- A descriptor launched in the step and attempt in progress (R157). Assumption log 93 (DESIGN CHOICE). -/
def Session.inStep (x : Session) (o : Op) : Bool := o.step = x.sealRec.step ∧ o.attempt = x.sealRec.attempt

/-- The job of a descriptor in progress; one that names a struck owner does nothing but complete (R409). -/
def State.job (s : State) (i : Nat) (o : Op) (owner : Nat) : Job :=
  let x := s.session i
  { st := s, sess := i, owner := owner, copies := o.copies, inStep := x.inStep o, through := false,
    status := if x.struck owner then stRevoked else stOk }

/-- The job of an array operation: it goes on from the status it has met, and past a strike (R85). -/
def State.arrayJob (s : State) (i : Nat) (o : Op) (owner : Nat) : Job :=
  { s.job i o owner with status := o.status, through := true }

/-- The job as the accesses of another descriptor see it: its owner, its resolved pages, its attempt (R214). -/
def Job.as (j : Job) (o : Op) (owner : Nat) : Job :=
  { j with owner := owner, copies := o.copies, inStep := (j.st.session j.sess).inStep o }

/-- WORK_SCALE of a record as an operation read it at launch (R149); 1.0 for none. -/
def Op.scaleOf (o : Op) (srec : Nat) : Val :=
  if srec = 0xFFFF then .num false 1 1 0
  else match o.scales.find? (·.1 = srec) with | some (_, v) => f32 v | none => .num false 1 1 0

/-! ### Host memory behind the windows -/

/-- The window that holds a whole range for a purpose and an owner (R448, R482). -/
def State.windowOk (s : State) (objects : Bool) (owner : Option Nat) (a len : Nat) : Bool :=
  s.host.windows.any fun w =>
    w.2.objects = objects ∧ w.2.owner = owner ∧ w.2.base ≤ a ∧ a + len ≤ w.2.base + w.2.size

def State.hostLoad (s : State) (a len : Nat) : Bytes := memLoad s.host.memory a len

def State.hostStore (s : State) (a : Nat) (b : Bytes) : State :=
  { s with host := { s.host with memory := memStore s.host.memory a b } }

end Sys2Proof.Machine
end

