-- ==== Sys2Proof/Machine/Lists.lean ====
section
/-! DEFINITION. Dispatch: starting and launching descriptors (R83, R84, R91 to R97, R223), list control (R96, R97),
command-core polls (R94, R310), tallies and arms (R309 to R314), and completion (R591). -/

namespace Sys2Proof.Machine

/-! ### Opcodes -/

def opNop : Nat := 0x0001
def opEnd : Nat := 0x0002
def opLink : Nat := 0x0003
def opMatmul : Nat := 0x0101
def opMatmulAlt : Nat := 0x0102
def opScrub : Nat := 0x0110
def opPhMove : Nat := 0x0201
def opPhStream : Nat := 0x0202
def opKernel : Nat := 0x0301
def opReckon : Nat := 0x0401
def opNoise : Nat := 0x0410
def opTallyAdd : Nat := 0x0601
def opTallySet : Nat := 0x0602
def opTallyArm : Nat := 0x0603
def opFarMove : Nat := 0x0701
def opExport : Nat := 0x0710
def opImport : Nat := 0x0711

/-- Scale records that the fields of a descriptor name (R75, R180, R188). -/
def scaleRecs (d : Bytes) : List Nat :=
  let c := dOpcode d
  let l :=
    if c = opMatmul then [fieldAt d 72 2, fieldAt d 74 2, fieldAt d 76 2]
    else if c = opMatmulAlt then [fieldAt d 72 2, fieldAt d 74 2, fieldAt d 76 2, fieldAt d 104 2, fieldAt d 106 2]
    else if c = opPhMove ∨ c = opPhStream ∨ c = opKernel ∨ c = opNoise then [fieldAt d 44 2]
    else []
  l.filter (· ≠ 0xFFFF)

/-- The descriptor of a stage that a command names, when its opcode is `code`. -/
def State.opAt (s : State) (o : OpRef) (st : Stage) (code : Nat) : Option Op :=
  (s.op? o).filter fun p => p.code = code ∧ p.stage = st

/-- The clock domain of the engine that works on an opcode: ARR for array, Pigeonhole, Counting Board and Reckoner work,
LNK for collectives, NOC for memory transfers, CTRL for what the control cores do themselves (R502).
Assumption log 44 (DEDUCED). -/
def opDomain (code : Nat) : Nat :=
  let k := opClass code
  if k = 1 ∨ k = 2 ∨ k = 3 ∨ code = opReckon ∨ code = opNoise then 3
  else if k = 5 then 13
  else if k = 7 then 7
  else 2

/-- A launched descriptor of an opcode, whose engine's domain runs. -/
def State.launched (s : State) (o : OpRef) (code : Nat) : Option Op :=
  if s.runsIn (opDomain code) then s.opAt o .launched code else none

/-! ### Acceptance -/

/-- Tiles of one product. -/
def tilesOf (m n h : Nat) : Nat := ((m + h - 1) / h) * ((n + 1023) / 1024)

/-- Tiles an array descriptor issues: of both products for MATMUL_ALT, whose companion has M' = N and N' = K (R187). -/
def Session.tileCount (x : Session) (d : Bytes) : Nat :=
  let m := bitsAt d 32 4 23 0
  let n := bitsAt d 36 4 23 0
  let k := bitsAt d 40 4 23 0
  if dOpcode d = opMatmul then tilesOf m n x.height
  else if dOpcode d = opMatmulAlt then tilesOf m n x.height + tilesOf n k x.height
  else 0

/-- An array operation that the piece has accepted and that has tiles still to issue, or is a scrub (R79, R92). -/
def Session.unissued (x : Session) (o : Op) : Bool :=
  o.isArray && o.stage ≠ .finished && (o.code = opScrub || decide (o.progress < x.tileCount o.desc))

/-- A block that has been asked to go idle accepts no new work (R513). -/
def State.blockHeld (s : State) (b : BlockTarget) : Bool := s.resets.blocks.any fun e => e.target = b

/-- The dies of a session's piece. -/
def Session.dieList (x : Session) : List Nat := (List.range x.dies).map (x.top + ·)

/-- R91, R92, R279: the engine of a descriptor can accept it; a session has at most eight collectives in progress. -/
def State.accepts (s : State) (x : Session) (d : Bytes) : Bool :=
  match opClass (dOpcode d) with
  | 1 => decide ((x.ops.filter x.unissued).length < 2)
  | 2 => let die := x.top + bitsAt d 42 1 1 0
         !(s.blockHeld (.pigeonhole die)) && !(s.blockHeld (.dma die))
  | 3 => x.dieList.all fun q => !(s.blockHeld (.countingBoard q))
  | 4 => if dOpcode d = opReckon then x.dieList.all fun q => !(s.blockHeld (.reckoner q))
         else if dOpcode d = opNoise then x.dieList.all fun q => !(s.blockHeld (.countingBoard q))
         else true
  | 5 => !(s.blockHeld (.sortingOffice 0)) && !(s.blockHeld (.sortingOffice 1)) && decide ((x.ops.filter Op.isCollective).length < 8)
  | 7 => !(s.blockHeld .hostPort) && (dOpcode d ≠ opFarMove || !(s.blockHeld .farTier))
  | _ => true

/-- R223: what a STEP_SEAL waits for. -/
def Session.sealReady (x : Session) (mask : Nat) : Bool :=
  x.ops.all fun o => !(bitOf mask o.ctx) && o.code ≠ opReckon && o.code ≠ opNoise && !o.isCollective

/-- R223: what a STEP_SEAL in progress holds back. -/
def Session.sealHolds (x : Session) (c : Nat) (d : Bytes) : Bool :=
  match x.sealing with
  | some q => bitOf q.fenceMask.toNat c || dOpcode d = opReckon || dOpcode d = opNoise
  | none => false

/-- R59, R94: a wait holds. -/
def State.waitHolds (s : State) (x : Session) (d : Bytes) : Bool :=
  let v := (s.tally (x.tallyBase + dWaitTally d)).seen s.time.now
  if dWaitEq d then v = dWaitCount d else decide (dWaitCount d ≤ v)

/-- The context's head has not started: no END or LINK of it is in progress, which hold the head until they complete. -/
def Session.atHead (x : Session) (c : Nat) : Bool := x.ops.all fun o => !(o.ctx = c ∧ (o.code = opEnd ∨ o.code = opLink))

/-- R91: every condition of a start but the run-time checks; a STEP_SEAL waits for one in progress.
Assumption log 73 (DESIGN CHOICE), 90 (DEDUCED). -/
def State.canStart (s : State) (i c : Nat) (d : Bytes) : Bool :=
  let x := s.session i
  let k := x.ctx c
  s.power.power = .ps0 && x.working && !(x.held.held) && (!x.isConsignment || x.epochOpen) &&
    x.atHead c && (!dWaitEn d || k.waitMet) && (!dFence d || x.ops.all fun o => o.ctx ≠ c) && !(x.sealHolds c d) &&
    s.accepts x d && (dOpcode d ≠ opSeal || (x.sealing.isNone && x.sealReady (bitsAt d 35 1 3 0)))

/-- The status with which a session state or a run-time check stops a context before its head starts: read-only
(R356), last step (R228), the seal's own fence (R222), quarantine (R360). Assumption log 90 (DEDUCED). -/
def Session.startCheck (x : Session) (c : Nat) (d : Bytes) : Status :=
  let code := dOpcode d
  if x.mem.quarantined then stIntegrity
  else if x.mem.readOnly ∧ code ≠ opExport then stLocked
  else if x.exhausted ∧ code ≠ opExport ∧ code ≠ opFarMove then stLocked
  else if code = opSeal ∧ ¬ bitOf (bitsAt d 35 1 3 0) c then stRefused
  else stOk

/-- R374: a CKPT_EXPORT takes its CKPT_ID and a fresh OBJECT_SALT at its launch; they stand in its `sizes`.
Assumption log 78 (DEDUCED). -/
def State.takeObjectId (s : State) (i : Nat) (o : Op) : State × Op :=
  if o.code = opExport then
    let (salt, s) := s.random 32
    let n := (s.session i).mem.exportSeq
    (s.onMem i fun m => { m with exportSeq := m.exportSeq + 1 }, { o with sizes := [[n.toNat], salt.map BitVec.toNat] })
  else (s, o)

/-- The ARR clocks, of 1.2 GHz, that `t` units of postmark time hold. -/
def arrClocks (t : Nat) : Nat := t * 6 / (5 * 65536)

/-- R79, R81, R92: the array operations that the piece accepted before this one have issued their last tile, and none is
a scrub still in progress. -/
def Session.pieceTurn (x : Session) (p : Op) : Bool :=
  (x.ops.takeWhile fun o => !(o.ctx = p.ctx ∧ o.seq = p.seq)).all fun o =>
    !(x.unissued o) && !(o.isArray && o.code = opScrub)

/-- The clock on which a piece could take its next tile's operands, whatever drains (the first bound of R52). -/
def Piece.operandsAt (p : Piece) : Nat :=
  match p.last with
  | some (s, k, _) => max p.clock (s + k)
  | none => p.clock

/-- Advance slot counters of one quarter, each by a number of slots (R556). -/
def State.addSlots (s : State) (q : Nat) (l : List (Nat × Nat)) : State :=
  let v := vget (Vector.replicate 16 0) s.perf.slots q
  let v := l.foldl (fun v kn => vset v kn.1 (satAdd (vget 0 v kn.1) kn.2)) v
  { s with perf := { s.perf with slots := vset s.perf.slots q v } }

/-- ARR clocks at 1.2 GHz since a piece came to hold no array operation. Assumption log 77 (DESIGN CHOICE). -/
def State.idleClocks (s : State) (x : Session) : Nat := arrClocks (s.now - x.piece.quietSince.toNat)

/-- The ARR clock of now on a piece whose last tile has issued. -/
def State.pieceClock (s : State) (x : Session) : Nat :=
  max x.piece.operandsAt (x.piece.clock + arrClocks (s.now - x.piece.idleSince.toNat))

/-- R82, R83, R555, R556: an array operation launches. An idle piece becomes busy, its idle clocks counted and its clock
moved past them. One that drains behind its last tile takes no operand before now: the clocks since are fill, and a timed
operation presents its first operands 64 clocks later, as on an idle piece. Assumption log 77 (DESIGN CHOICE). -/
def State.wakePiece (s : State) (i : Nat) (o : Op) : State :=
  let x := s.session i
  if o.isArray ∧ x.piece.quiet then
    let n := s.idleClocks x
    (x.dieList.foldl (fun s q => s.addSlots q [(11, n)]) s).onSession i fun x =>
      { x with piece := { x.piece with quiet := false, wake := true, clock := x.piece.clock + n } }
  else if o.isArray ∧ o.code ≠ opScrub ∧ x.piece.opened.isEmpty ∧ x.pieceTurn o then
    let t := s.pieceClock x
    let n := t - x.piece.operandsAt
    (x.dieList.foldl (fun s q => s.addSlots q [(2, 512 * n), (10, n)]) s).onSession i fun x =>
      { x with piece := { x.piece with wake := dTimed o.desc, clock := t } }
  else s

/-- R149: the WORK_SCALE of each record an operation names, as it stands; a collective's source table may name any.
Assumption log 93 (DESIGN CHOICE). -/
def Session.workScales (x : Session) (d : Bytes) : List (Nat × W32) :=
  (if opClass (dOpcode d) = 5 then x.scales.map (·.1) else scaleRecs d).map fun r =>
    (r, (Table.get ScaleRec.reset x.scales r).workScale)

/-- R84, R149, R214: a descriptor launches: it reads its working scales, resolves its pages and takes the step in whose
number its stochastic rounding is drawn (R76). Assumption log 11 and 91 (DESIGN CHOICE), 90 (DEDUCED). -/
def State.launch (s : State) (i : Nat) (o : Op) : State :=
  let (s, o) := s.takeObjectId i o
  (s.wakePiece i o).onSession i fun x =>
    x.setOp { o with stage := .launched, launchedAt := s.time.now, step := x.sealRec.step, attempt := x.sealRec.attempt,
                     copies := x.resolution,
                     scales := x.workScales o.desc }

/-- The state of a live context at a head: waiting for a tally, or running. Assumption log 55 (DEDUCED). -/
def headState (d : Option Bytes) : CtxState :=
  match d with
  | some d => if dWaitEn d then .waiting else .running
  | none => .running

/-- Move a context's head to a descriptor. -/
def Session.moveHead (x : Session) (c slot index : Nat) : Session :=
  x.onCtx c fun k =>
    { k with slot := BitVec.ofNat 8 slot, index := BitVec.ofNat 17 index, waitMet := false,
             state := headState (x.descAt? slot index) }

/-- R223: a STEP_SEAL starts. Assumption log 73 (DESIGN CHOICE). -/
def Session.beginSeal (x : Session) (o : Op) : Session :=
  let d := o.desc
  { x with
    sealing := some
      { ctx := o.ctx, seq := o.seq, launch := if dTimed d then dLaunch d else o.readyAt, decideNs := fieldAt d 36 4,
        flipNs := fieldAt d 40 4, fenceMask := BitVec.ofNat 4 (fieldAt d 35 1), replaySlot := fieldAt d 34 1,
        replayIndex := fieldAt d 32 2, voteSent := false, ownReasons := 0 }
    sealRec := { x.sealRec with sealing := true }
    decision := none }

/-- R93: the head array descriptor of a lower-numbered context is ready for the piece as well. Heads that could start at
one command are taken as ready on one CTRL clock, and the piece accepts the lower context's first.
Assumption log 91 (DESIGN CHOICE). -/
def State.lowerReady (s : State) (i c : Nat) : Bool :=
  let x := s.session i
  (List.range c).any fun b =>
    let k := x.ctx b
    match x.descAt? k.slot.toNat k.index.toNat with
    | some d => k.live && opClass (dOpcode d) = 1 && x.startCheck b d = stOk && s.canStart i b d
    | none => false

/-- R91: the head of a context starts; an untimed descriptor launches at once. END and LINK hold the head until their
own row moves it. Assumption log 90 (DEDUCED). -/
def State.startOp (s : State) (i c : Nat) (d : Bytes) : State :=
  let x := s.session i
  let k := x.ctx c
  let slot := k.slot.toNat
  let index := k.index.toNat
  let o : Op :=
    { ctx := c, seq := k.nextSeq, slot := slot, index := index, desc := d, stage := .started, readyAt := s.time.now,
      launchedAt := s.time.now, status := stOk, step := x.sealRec.step, attempt := x.sealRec.attempt, scales := [], copies := [], sources := [],
      sizes := [], progress := 0, dropped := false, taint := false, feeds := none }
  let x := (x.onCtx c fun k => { k with nextSeq := k.nextSeq + 1 })
  let x := { x with ops := x.ops ++ [o] }
  let x := if dOpcode d = opSeal then x.beginSeal o else x
  let x := if dOpcode d = opEnd ∨ dOpcode d = opLink then x else x.moveHead c slot (index + 1)
  let s := s.setSession i x
  let s := if opClass (dOpcode d) = 2 then
      let die := x.top + bitsAt d 42 1 1 0
      let q := vget Die.reset s.dies die
      { s with dies := vset s.dies die { q with phQueue := q.phQueue ++ [⟨i, c, k.nextSeq⟩] } }
    else s
  let s := { s with power := { s.power with idleSince := s.time.now } }
  if dTimed d then s else s.launch i o

/-- DESCRIPTOR_START. Assumption log 91 (DESIGN CHOICE). -/
def execDescriptorStart (i c : Nat) (s : State) : Out :=
  let x := s.session i
  let k := x.ctx c
  .next <|
    if k.live then
      match x.descAt? k.slot.toNat k.index.toNat with
      | none =>
        if x.atHead c ∧ ¬ x.sealHolds c [] then
          s.setSession i (x.stopCtx c stRefused)
        else s
      | some d =>
        if x.startCheck c d ≠ stOk then s.setSession i (x.stopCtx c (x.startCheck c d))
        else if s.canStart i c d ∧ ¬ (opClass (dOpcode d) = 1 ∧ s.lowerReady i c) then s.startOp i c d
        else s
    else s

/-- R83: the postmark since which a started descriptor's launch conditions hold; an array operation's piece must also
be idle or have issued its last tile. -/
def Session.readySince (x : Session) (o : Op) : Nat :=
  if o.isArray then max o.readyAt.toNat x.piece.idleSince.toNat else o.readyAt.toNat

/-- R83: an array operation's piece is idle or has issued its last tile. -/
def Session.pieceFree (x : Session) (o : Op) : Bool := !o.isArray || x.pieceTurn o

/-- R84: a context's head that has not started when its launch postmark comes stops the context where LATE_FAIL is set. -/
def State.failHead (s : State) (o : OpRef) : State :=
  let x := s.session o.session
  let k := x.ctx o.ctx
  match x.descAt? k.slot.toNat k.index.toNat with
  | some d =>
    if k.live ∧ o.seq = k.nextSeq ∧ x.atHead o.ctx ∧ dTimed d ∧ dLateFail d ∧ (dLaunch d).toNat ≤ s.now then
      s.setSession o.session (x.stopCtx o.ctx stTimeout)
    else s
  | none => s

/-- Level in force on a piece (R536, R537). Assumption log 77 (DESIGN CHOICE). -/
def State.pieceThrottle (s : State) (x : Session) : Nat := max (vget 0 s.watch.pieceLevel x.top) s.watch.powerLevel

/-- R537: a hold of the engine's level delays a timed launch where the launch falls on one of the held clocks, the last L of
every 16; which clock it falls on is free. Assumption log 77 (DESIGN CHOICE). -/
def State.launchHeld (s : State) (x : Session) (d : Bytes) : Bool × State :=
  let l := s.pieceThrottle x
  let c := opClass (dOpcode d)
  if l ≠ 0 ∧ (c = 1 ∨ c = 2 ∨ c = 3 ∨ dOpcode d = opReckon) then
    let (n, s) := s.draw
    (decide (16 - l ≤ (Config.freeWord n).toNat % 16), s)
  else (false, s)

/-- LAUNCH_COMPARATOR_FIRE: at or after its postmark a timed descriptor launches, late or not; a late one with LATE_FAIL
set stops its context at once, even behind an operation that still issues, or before it has started (R83, R84). -/
def execLaunchComparatorFire (o : OpRef) (s : State) : Out :=
  let i := o.session
  let x := s.session i
  .next <|
    match s.op? o with
    | some p =>
      if p.stage = .started ∧ (dLaunch p.desc).toNat ≤ s.now then
        let (held, s) := s.launchHeld x p.desc
        if ¬ held ∧ x.pieceFree p ∧ x.readySince p + ns 1000 ≤ (dLaunch p.desc).toNat then s.launch i p
        else if dLateFail p.desc then s.stopOp i p stTimeout
        else if !(x.pieceFree p) then s
        else
          (s.onSession i fun x => x.onCtx p.ctx fun k => { k with lateCount := satAdd k.lateCount 1 }).launch i p
      else s
    | none => s.failHead o

/-- COMMAND_CORE_POLL: the waits of every context head that a command core runs. -/
def execCommandCorePoll (core : Nat) (s : State) : Out :=
  .next <| (List.range 4).foldl (fun s i =>
    let x := s.session i
    if x.working ∧ x.top = core then
      s.setSession i <| (List.range 4).foldl (fun x c =>
        let k := x.ctx c
        match x.descAt? k.slot.toNat k.index.toNat with
        | some d =>
          if k.live ∧ dWaitEn d ∧ s.waitHolds x d then
            x.onCtx c fun k => { k with waitMet := true, state := .running }
          else x
        | none => x) x
    else s) s

/-! ### List control -/

/-- NOP: does nothing and completes. -/
def execNop (o : OpRef) (s : State) : Out :=
  .next <| match s.launched o opNop with
    | some p => s.completeOp o.session p stOk
    | none => s

/-- END: completes the list and leaves the context idle. -/
def execEndList (o : OpRef) (s : State) : Out :=
  .next <| match s.launched o opEnd with
    | some p =>
      (s.completeOp o.session p stOk).onSession o.session fun x =>
        x.onCtx p.ctx fun k => if k.live then { k with state := .idle, waitMet := false } else k
    | none => s

/-- R97: the head moves to a target, or the context stops with ST_REFUSED where there is none. -/
def Session.jump (x : Session) (c slot index : Nat) : Session :=
  match x.descAt? slot index with
  | some _ => if (x.ctx c).live then x.moveHead c slot index else x
  | none => x.stopCtx c stRefused

/-- LINK: the context continues at a slot and index. -/
def execLink (o : OpRef) (s : State) : Out :=
  .next <| match s.launched o opLink with
    | some p =>
      let slot := fieldAt p.desc 32 2
      let index := fieldAt p.desc 36 4
      match (s.session o.session).descAt? slot index with
      | some _ => (s.completeOp o.session p stOk).onSession o.session fun x => x.jump p.ctx slot index
      | none => s.stopOp o.session p stRefused
    | none => s

/-! ### Tallies -/

/-- The tally a tally descriptor names. -/
def State.dTally (s : State) (i : Nat) (d : Bytes) : Nat := (s.session i).tallyBase + fieldAt d 32 2

/-- TALLY_ADD. -/
def execTallyAdd (o : OpRef) (s : State) : Out :=
  .next <| match s.launched o opTallyAdd with
    | some p => (s.tallyAdd (s.dTally o.session p.desc) (u32 p.desc 36)).completeOp o.session p stOk
    | none => s

/-- TALLY_SET. -/
def execTallySet (o : OpRef) (s : State) : Out :=
  .next <| match s.launched o opTallySet with
    | some p =>
      let n := s.dTally o.session p.desc
      (s.setTally n ((s.tally n).set s.time.now p.ctx (u32 p.desc 36))).completeOp o.session p stOk
    | none => s

/-- TALLY_ARM (R314). -/
def execTallyArm (o : OpRef) (s : State) : Out :=
  .next <| match s.launched o opTallyArm with
    | some p =>
      let n := s.dTally o.session p.desc
      let v := u32 p.desc 36
      let at_ := u64 p.desc 40
      if (s.tally n).arm.isSome then s.stopOp o.session p stNoResource
      else if at_.toNat < s.now then
        if dLateFail p.desc then s.stopOp o.session p stTimeout
        else
          ((s.tallyAdd n v).onSession o.session fun x =>
            x.onCtx p.ctx fun k => { k with lateCount := satAdd k.lateCount 1 }).completeOp o.session p stOk
      else (s.setTally n { s.tally n with arm := some (at_, v, o.session, p.ctx) }).completeOp o.session p stOk
    | none => s

/-- ARM_FIRE: a recorded arm adds its increment at its postmark. -/
def execArmFire (n : Nat) (s : State) : Out :=
  .next <| match (s.tally n).arm with
    | some (t, v, _, _) =>
      if t.toNat ≤ s.now then (s.setTally n { s.tally n with arm := none }).tallyAdd n v else s
    | none => s

/-! ### Completion -/

/-- DESCRIPTOR_COMPLETE: any descriptor but an array operation, a collective and a STEP_SEAL completes with the status
its work ended with. Assumption log 3 and 80 (DESIGN CHOICE). -/
def execDescriptorComplete (o : OpRef) (s : State) : Out :=
  .next <| match s.op? o with
    | some p =>
      if p.stage = .finished ∧ ¬ p.isArray ∧ ¬ p.isCollective ∧ p.code ≠ opSeal then s.completeOp o.session p p.status
      else s
    | none => s

end Sys2Proof.Machine
end

