-- ==== Sys2Proof/Machine/Drain.lean ====
section
/-! DEFINITION. The fused drain and Counting Board kernels: conversion of FP32 rows to a stored tensor (R73, R140, R145
to R147, R181 to R186), the programs of the kernel table (R193 to R206) and RUN_KERNEL. -/

namespace Sys2Proof.Machine

/-! ### Conversion to a stored tensor -/

/-- Where and how a producer writes its rows. -/
structure OutSpec where
  fmt : Nat
  srec : Nat
  rnd : Nat
  sigma : Nat
  theta : Nat
  width : Nat          -- elements of a whole output row
  addr : Nat
  pitch : Nat
  dual : Bool
  dualAddr : Nat
  deriving DecidableEq, Repr

/-- The scale record of a session. -/
def Session.scaleRec (x : Session) (r : Nat) : ScaleRec := Table.get ScaleRec.reset x.scales r

/-- R147, R180: whether an output under a record is block-scaled. -/
def Session.blockScaled (x : Session) (fmt srec : Nat) : Bool :=
  if 4 ≤ fmt ∧ fmt ≤ 6 then true
  else if fmt = 2 ∨ fmt = 3 then srec ≠ 0xFFFF && (x.scaleRec srec).blockEn
  else false

/-- Local row index of R71: 512·t + (u mod 512). -/
def Session.localRow (x : Session) (r : Nat) : Nat := 512 * (r / (512 * x.dies)) + r % 512

/-- The elements of one row with their canonical indices (R130). -/
def rowElems (width r c0 : Nat) (accs : List Acc) : List Elem :=
  (accs.zip (List.range accs.length)).map fun ak => Elem.ofAcc ak.1 (r * width + c0 + ak.2)

/-- Write one row of codes, and its scales when it has any. -/
def Job.putRow (j : Job) (sp : OutSpec) (r c0 : Nat) (codes scales : List Nat) : Job :=
  let x := j.st.session j.sess
  let p := x.rowPlace sp.addr r sp.pitch
  let w := (Fmt.ofCode sp.fmt).widthIn p.isStore
  let j := j.writeCodes (p.plus (w * c0 / 8)) w codes
  if scales.isEmpty then j
  else
    let sa := (x.scaleRec sp.srec).scaleAddr.toNat
    j.write ((x.rowPlace sa r ((sp.width + 31) / 32)).plus (c0 / 32)) (scales.map (BitVec.ofNat 8))

/-- R76, R140, R145, R147: convert and write one row from column `c0`. -/
def Job.convertRow (j : Job) (o : Op) (sp : OutSpec) (c0 : Nat) (row : Nat × List Acc) : Job :=
  let x := j.st.session j.sess
  let f := Fmt.ofCode sp.fmt
  let blk := x.blockScaled sp.fmt sp.srec
  let rnd := rndOf sp.rnd x.seed sp.sigma o.step.toNat sp.theta
  let qs := (blocks32 (rowElems sp.width row.1 c0 row.2)).map (quantise f blk 1 (o.scaleOf sp.srec) rnd)
  let j := j.count sp.srec (Counts.sum (qs.map (·.counts)))
  if addrClass sp.addr = 2 then j
  else j.putRow sp row.1 c0 (qs.map (·.codes)).flatten (if blk then qs.map (·.scale) else [])

/-- Columns `32·k` onwards of rows, as the rows' parts. -/
def tilePart (k : Nat) (rows : List (List Elem)) : List (List Elem) := rows.map fun r => (r.drop (32 * k)).take 32

/-- R185: elements that dual posting flushed and the row block alone would have written non-zero. -/
def dualFlush (f : Fmt) (s : Val) (rnd : Nat → Rnd) (part : List (List Elem)) (q : QBlock) : Nat :=
  let alone := part.map fun r => quantise f true 1 s rnd r
  ((q.flushed.zip (alone.map fun a => a.codes.zip a.flushed).flatten).filter fun p =>
    p.1 && !p.2.2 && p.2.1 % 2 ^ (f.width - 1) ≠ 0).length

/-- R181 to R183: convert and write up to 32 aligned rows in tiles of 32 by 32, one scale a tile in both blockings. -/
def Job.convertDual (j : Job) (o : Op) (sp : OutSpec) (c0 : Nat) (rows : List (Nat × List Acc)) : Job :=
  let x := j.st.session j.sess
  let f := Fmt.ofCode sp.fmt
  let s := o.scaleOf sp.srec
  let rnd := rndOf sp.rnd x.seed sp.sigma o.step.toNat sp.theta
  let es := rows.map fun r => rowElems sp.width r.1 c0 r.2
  let n := (es.map List.length).foldl max 0
  let parts := (List.range ((n + 31) / 32)).map fun k => tilePart k es
  let qs := parts.map fun p => (p, quantise f true 32 s rnd p.flatten)
  let j := j.count sp.srec (Counts.sum (qs.map (·.2.counts)))
  let df := (qs.map fun pq => dualFlush f s rnd pq.1 pq.2).sum
  let j := { j with st := j.st.onSession j.sess fun x =>
    { x with reblock := { x.reblock with dualFlush := satAdd x.reblock.dualFlush df } } }
  let rowCodes := fun k => (qs.map fun pq => ((pq.2.codes.drop (k * (pq.1.headD []).length)).take
    (pq.1.headD []).length)).flatten
  let j := (rows.zip (List.range rows.length)).foldl
    (fun j rk => j.putRow sp rk.1.1 c0 (rowCodes rk.2) (qs.map (·.2.scale))) j
  match rows with
  | [] => j
  | (r, _) :: _ =>
    let line := (qs.map fun pq => List.replicate (pq.1.headD []).length (BitVec.ofNat 8 pq.2.scale)).flatten
    let off := (if addrClass sp.dualAddr = 0 then x.localRow r else r) / 32 * sp.width + c0
    j.write (diePlace sp.dualAddr (x.top + r / 512 % x.dies) off) line

/-- Convert and write rows in ascending order. -/
def Job.convertRows (j : Job) (o : Op) (sp : OutSpec) (c0 : Nat) (rows : List (Nat × List Acc)) : Job :=
  if sp.dual then (blocks32 rows).foldl (fun j g => j.convertDual o sp c0 g) j
  else rows.foldl (fun j r => j.convertRow o sp c0 r) j

/-! ### Kernel table entries -/

/-- Entry 0: PLAIN (R193). -/
def plainEntry : Bytes := zeros 16 ++ ((List.replicate 6 (le 8 noAddr)).flatten)

/-- A kernel table entry. -/
def Session.entry (x : Session) (n : Nat) : Bytes :=
  if n = 0 then plainEntry
  else match x.kernel with
    | some k => k.entries.getD (n - 1) plainEntry
    | none => plainEntry

def kProg (e : Bytes) : Nat := fieldAt e 0 2
def kAct (e : Bytes) : Nat := bitsAt e 2 1 3 0
def kBias (e : Bytes) : Bool := bitOf (fieldAt e 2 1) 4
def kDual (e : Bytes) : Bool := bitOf (fieldAt e 2 1) 5
def kColred (e : Bytes) : Bool := bitOf (fieldAt e 2 1) 6
def kP0 (e : Bytes) : W32 := u32 e 4
def kAltPitch (e : Bytes) : Nat := fieldAt e 12 4
def kStats (e : Bytes) : Nat := fieldAt e 16 8
def kColvec (e : Bytes) : Nat := fieldAt e 24 8
def kRowvec (e : Bytes) : Nat := fieldAt e 32 8
def kColredAddr (e : Bytes) : Nat := fieldAt e 40 8
def kDualAddr (e : Bytes) : Nat := fieldAt e 48 8
def kAltSide (e : Bytes) : Nat := fieldAt e 56 8

/-- Row passes after the drain (R195). -/
def rowPasses (prog : Nat) : Nat :=
  match prog with
  | 0x10 => 2 | 0x11 => 1 | 0x12 => 1 | 0x13 => 1 | 0x14 => 2 | 0x15 => 1 | 0x16 => 2
  | _ => 0

/-- Output columns of `n` input columns (R195). -/
def progWidth (prog n : Nat) : Nat := if prog = 2 then n / 2 else if prog = 4 then 2 * n else n

/-- The program reads a side input. -/
def progSideIn (prog : Nat) : Bool := prog = 3 ∨ prog = 4 ∨ prog = 0x11 ∨ prog = 0x13 ∨ prog = 0x15

/-- The program writes a side output. -/
def progSideOut (prog : Nat) : Bool := prog = 1 ∨ prog = 2 ∨ prog = 0x10 ∨ prog = 0x12

/-! ### Reading a program's inputs -/

/-- R107, R108: an FP32 field read as an operand. -/
def takeF32 (x : W32) : Acc × Counts :=
  let (v, inf) := Fmt.fp32.takeIn x.toNat
  (⟨(toAcc v).value, v.isNan, false⟩, if v.isNan then { inNan := 1 } else if inf then { inSat := 1 } else {})

/-- BF16 elements taken in. -/
def takeBf16 (codes : List Nat) : List Acc × Counts :=
  let vs := codes.map fun c => takeElem .bf16 c false
  (vs.map fun v => ⟨(toAcc v.1).value, v.1.isNan, false⟩, Counts.sum (vs.map (·.2)))

/-- Read `n` BF16 elements from a place. -/
def Job.readBf16 (j : Job) (p : Place) (n : Nat) : Job × List Acc :=
  let (j, b) := j.read p (2 * n)
  let (l, c) := takeBf16 (unpack 16 n b)
  (j.intake c, l)

/-- Side input, per-column vector, statistics and label of one row, as far as its program reads them. -/
structure RowIn where
  side : List Acc
  colvec : List Acc
  stat : Acc × Acc
  label : Nat
  deriving DecidableEq, Repr

/-- The die that holds row `r` of a tensor of rows (R589). -/
def Session.rowDie (x : Session) (r : Nat) : Nat := x.top + r / 512 % x.dies

/-- R195, R589: the per-column vector that a program reads for columns `c0` to `c0 + n − 1`, from the copy of one die:
every element of it but the β of LN_FWD's pairs that LN_BWD does not take. Assumption log 92 (DESIGN CHOICE). -/
def Job.colvec (j : Job) (e : Bytes) (die c0 n : Nat) : Job × List Acc :=
  let prog := kProg e
  if (prog = 1 ∧ kBias e) ∨ prog = 0x12 ∨ prog = 0x13 then j.readBf16 (diePlace (kColvec e) die (2 * c0)) n
  else if prog = 0x10 then j.readBf16 (diePlace (kColvec e) die (4 * c0)) (2 * n)
  else if prog = 0x11 then
    let (j, b) := j.read (diePlace (kColvec e) die (4 * c0)) (4 * n)
    let (l, c) := takeBf16 ((unpack 32 n b).map fun w => w % 65536)
    (j.intake c, l)
  else (j, [])

/-- R108: each die reads its copy of the per-column vector once for the rows that it runs through a program together. -/
def Job.colvecs (j : Job) (e : Bytes) (c0 n : Nat) (rows : List Nat) : Job × Table (List Acc) :=
  let x := j.st.session j.sess
  ((rows.map x.rowDie).eraseDups).foldl (fun (acc : Job × Table (List Acc)) die =>
    let (j, l) := acc.1.colvec e die c0 n
    (j, acc.2 ++ [(die, l)])) (j, [])

/-- R195, R204, R589: read what a program reads for row `r`, columns `c0` to `c0 + n − 1`, beside its die's per-column
vector `cv`. Assumption log 92 (DESIGN CHOICE). -/
def Job.rowInputs (j : Job) (e : Bytes) (cv : List Acc) (side sidePitch r c0 n : Nat) : Job × RowIn :=
  let x := j.st.session j.sess
  let prog := kProg e
  let wide := if prog = 4 then 2 else 1
  let (j, z) :=
    if progSideIn prog then j.readBf16 ((x.rowPlace side r sidePitch).plus (2 * wide * c0)) (wide * n) else (j, [])
  let (j, st) :=
    if prog = 0x11 then
      let (j, b) := j.read (x.rowPlace (kStats e) r 8) 8
      let (m, cm) := takeF32 (u32 b 0)
      let (q, cq) := takeF32 (u32 b 4)
      (j.intake (cm.add cq), (m, q))
    else if prog = 0x13 then
      let (j, b) := j.read ((x.rowPlace (kStats e) r 8).plus 4) 4
      let (q, cq) := takeF32 (u32 b 0)
      (j.intake cq, (Acc.zero, q))
    else (j, (Acc.zero, Acc.zero))
  let (j, lab) :=
    if prog = 0x16 then
      let (j, b) := j.read (x.rowPlace (kRowvec e) r 4) 4
      (j, leNat b)
    else (j, 0)
  (j, ⟨z, cv, st, lab⟩)

/-! ### The programs, R195 to R203 -/

/-- What a program yields for a row: outputs, side output values, statistics entry, and column-reduction terms. -/
structure RowOut where
  out : List Acc
  side : List Acc
  stat : Option (Acc × Acc)
  red : List (Acc × Acc)
  deriving DecidableEq, Repr

/-- Running sum of fused multiply-adds from +0. -/
def sumFma (us vs : List Acc) : Acc := (us.zip vs).foldl (fun s uv => Acc.fma uv.1 uv.2 s) Acc.zero

/-- Running sum from +0. -/
def sumAcc (xs : List Acc) : Acc := xs.foldl Acc.add Acc.zero

/-- Maximum in column order (R119). -/
def maxAcc (xs : List Acc) : Acc :=
  match xs with
  | [] => Acc.zero
  | x :: xs => xs.foldl Acc.max x

/-- An integer as an FP32 element. -/
def accInt (n : Nat) : Acc := toAcc (Val.ofInt n)

/-- Even and odd elements of a list. -/
def evens (l : List Acc) : List Acc := ((l.zip (List.range l.length)).filter fun p => p.2 % 2 = 0).map (·.1)
@[inherit_doc evens] def odds (l : List Acc) : List Acc :=
  ((l.zip (List.range l.length)).filter fun p => p.2 % 2 = 1).map (·.1)

/-- Alternate two lists. -/
def weave (a b : List Acc) : List Acc := ((a.zip b).map fun p => [p.1, p.2]).flatten

/-- One row through a program. Assumption log 92 (DESIGN CHOICE). -/
def runProgram (e : Bytes) (inp : RowIn) (xs : List Acc) : RowOut :=
  let act := kAct e
  let p0 := Acc.const (kP0 e)
  let len := accInt xs.length
  match kProg e with
  | 0x0001 =>
    let zs := if kBias e then List.zipWith Acc.add xs inp.colvec else xs
    ⟨zs.map (activation act), zs, none, []⟩
  | 0x0002 => ⟨List.zipWith (fun g v => Acc.mul (activation act g) v) (evens xs) (odds xs), xs, none, []⟩
  | 0x0003 => ⟨List.zipWith (fun dy z => Acc.mul dy (activationDeriv act z)) xs inp.side, [], none, []⟩
  | 0x0004 =>
    let g := evens inp.side
    let v := odds inp.side
    let a := List.zipWith (fun dyv gz => Acc.mul dyv (activationDeriv act gz)) (List.zipWith Acc.mul xs v) g
    let b := List.zipWith (fun dy gz => Acc.mul dy (activation act gz)) xs g
    ⟨weave a b, [], none, []⟩
  | 0x0010 =>
    let mu := Acc.div (sumAcc xs) len
    let d := xs.map fun x => Acc.sub x mu
    let v := Acc.div (sumFma d d) len
    let r := Acc.div Acc.one (Acc.sqrt (Acc.add v p0))
    let y := List.zipWith (fun x gb => Acc.fma (Acc.mul x r) gb.1 gb.2) d ((evens inp.colvec).zip (odds inp.colvec))
    ⟨y, xs, some (mu, r), []⟩
  | 0x0011 =>
    let r := inp.stat.2
    let xh := inp.side.map fun x => Acc.mul (Acc.sub x inp.stat.1) r
    let g := List.zipWith Acc.mul xs inp.colvec
    let a := Acc.div (sumAcc g) len
    let b := Acc.div (sumFma g xh) len
    let dx := List.zipWith (fun gi h => Acc.mul r (Acc.fma h.neg b (Acc.sub gi a))) g xh
    ⟨dx, [], none, List.zipWith (fun dy h => (Acc.mul dy h, dy)) xs xh⟩
  | 0x0012 =>
    let r := Acc.div Acc.one (Acc.sqrt (Acc.add (Acc.div (sumFma xs xs) len) p0))
    ⟨List.zipWith (fun x g => Acc.mul (Acc.mul x r) g) xs inp.colvec, xs, some (Acc.zero, r), []⟩
  | 0x0013 =>
    let r := inp.stat.2
    let xh := inp.side.map fun x => Acc.mul x r
    let g := List.zipWith Acc.mul xs inp.colvec
    let b := Acc.div (sumFma g xh) len
    let dx := List.zipWith (fun gi h => Acc.mul r (Acc.fma h.neg b gi)) g xh
    ⟨dx, [], none, List.zipWith (fun dy h => (Acc.mul dy h, Acc.zero)) xs xh⟩
  | 0x0014 =>
    let zs := xs.map fun x => Acc.mul x p0
    let m := maxAcc zs
    let es := zs.map fun x => Acc.exp (Acc.sub x m)
    let s := sumAcc es
    ⟨es.map fun v => Acc.div v s, [], some (m, s), []⟩
  | 0x0015 =>
    let c := sumFma xs inp.side
    ⟨List.zipWith (fun dy y => Acc.mul p0 (Acc.mul y (Acc.sub dy c))) xs inp.side, [], none, []⟩
  | 0x0016 =>
    let m := maxAcc xs
    let es := xs.map fun x => Acc.exp (Acc.sub x m)
    let s := sumAcc es
    let lse := Acc.add m (Acc.ln s)
    let nan : Acc := Acc.const 0x7FC00000
    if inp.label = 0xFFFFFFFF then ⟨xs.map fun _ => Acc.zero, [], some (lse, Acc.zero), []⟩
    else if xs.length ≤ inp.label then ⟨xs.map fun _ => nan, [], some (lse, nan), []⟩
    else
      let loss := Acc.sub lse (xs.getD inp.label Acc.zero)
      let dz := (es.zip (List.range es.length)).map fun en =>
        Acc.mul (Acc.sub (Acc.div en.1 s) (if en.2 = inp.label then Acc.one else Acc.zero)) p0
      ⟨dz, [], some (lse, loss), []⟩
  | _ => ⟨xs, [], none, []⟩

/-! ### Column reductions, R202 and R204 -/

/-- One level of the pairwise tree. -/
def pairLevel : List Acc → List Acc
  | a :: b :: rest => Acc.add a b :: pairLevel rest
  | rest => rest

/-- The 9-level tree over a group of 512 rows, rows beyond the tensor contributing +0. -/
def groupTree (xs : List Acc) : Acc :=
  let l := xs ++ List.replicate (512 - xs.length) Acc.zero
  ((List.range 9).foldl (fun l _ => pairLevel l) l).headD Acc.zero

/-- Add the sums of one group of rows into the column-reduction record. -/
def Job.addColred (j : Job) (e : Bytes) (rows : List (List (Acc × Acc))) : Job :=
  let x := j.st.session j.sess
  let n := (rows.map List.length).foldl max 0
  (List.range n).foldl (fun j c =>
    let col := rows.map fun r => r.getD c (Acc.zero, Acc.zero)
    let s0 := groupTree (col.map (·.1))
    let s1 := groupTree (col.map (·.2))
    let p := x.topPlace (kColredAddr e) (8 * c)
    let (j, b) := j.read p 8
    let (a0, c0) := takeF32 (u32 b 0)
    let (a1, c1) := takeF32 (u32 b 4)
    let j := j.intake (c0.add c1)
    j.write p (w32 (Acc.add a0 s0).value ++ w32 (Acc.add a1 s1).value)) j

/-- Rows of one group of 512 (row numbers r with r / 512 equal), in order; `fuel` bounds the groups. -/
def groupRows {α : Type} : Nat → List (Nat × α) → List (List (Nat × α))
  | 0, _ => []
  | fuel + 1, l =>
    match l with
    | [] => []
    | (r, a) :: rest =>
      let g := ((r, a) :: rest).takeWhile fun q => q.1 / 512 = r / 512
      g :: groupRows fuel (((r, a) :: rest).drop g.length)

/-- Side tables of a program run (R66, R200, R188): side input and side output with their pitches. -/
structure SideSpec where
  inAddr : Nat
  inPitch : Nat
  outAddr : Nat
  outPitch : Nat
  deriving DecidableEq, Repr

/-- R134, R198: one row of a side output, converted to BF16 to nearest, its events counted.
Assumption log 74 (DEDUCED). -/
def Job.sideOut (j : Job) (p : Place) (row : List Acc) : Job :=
  let rs := row.map fun a => (a, Fmt.bf16.round .nearest a.val)
  let j := j.count 0xFFFF (Counts.sum (rs.map fun r => Counts.ofElem r.1.val r.1.ovf r.2))
  j.writeCodes p 16 (rs.map (·.2.code))

/-- Run a program over rows of FP32 elements that start at input column `c0`, and write everything it writes.
Assumption log 74 (DEDUCED). -/
def Job.runRows (j : Job) (o : Op) (e : Bytes) (sd : SideSpec) (sp : OutSpec) (c0 : Nat)
    (rows : List (Nat × List Acc)) : Job :=
  let (j, cvs) := j.colvecs e c0 ((rows.head?.map fun r => r.2.length).getD 0) (rows.map (·.1))
  let (j, outs) := rows.foldl (fun (acc : Job × List (Nat × RowOut)) row =>
    let cv := Table.get [] cvs ((acc.1.st.session acc.1.sess).rowDie row.1)
    let (j, inp) := acc.1.rowInputs e cv sd.inAddr sd.inPitch row.1 c0 row.2.length
    let ro := runProgram e inp row.2
    let x := j.st.session j.sess
    let j :=
      if progSideOut (kProg e) ∧ addrClass sd.outAddr ≠ 2 then
        j.sideOut ((x.rowPlace sd.outAddr row.1 sd.outPitch).plus (2 * c0)) ro.side
      else j
    let j := match ro.stat with
      | some (a, b) => j.write (x.rowPlace (kStats e) row.1 8) (w32 a.value ++ w32 b.value)
      | none => j
    (j, (row.1, ro) :: acc.2)) (j, [])
  let outs := outs.reverse
  let j := j.convertRows o sp (progWidth (kProg e) c0) (outs.map fun q => (q.1, q.2.out))
  if kColred e ∧ (kProg e = 0x11 ∨ kProg e = 0x13) then
    (groupRows (outs.length + 1) outs).foldl (fun j g => j.addColred e (g.map fun q => q.2.red)) j
  else j

/-- R404: a Counting Board that works for another owner next clears its storage first. -/
def Die.boardClears (d : Die) (party : Nat) : Bool := !(d.cbParty = none || d.cbParty = some party)

/-- R404: the tiles a row buffer holds once it has been cleared. Assumption log 77 (DESIGN CHOICE). -/
def Tile.cleared (t : Tile) : Tile := { t with accs := t.accs.map fun r => r.map fun _ => Acc.zero }

/-- R404: the Counting Boards of a session's piece work for an owner; a change of owner clears them, the row buffer
included, for 2,048 clocks. -/
def State.useBoards (s : State) (i party : Nat) : State :=
  let dies := (s.session i).dieList
  let s := if dies.any fun q => (vget Die.reset s.dies q).boardClears party then
      s.onSession i fun x => { x with piece := { x.piece with rowBuffer := x.piece.rowBuffer.map Tile.cleared } }
    else s
  dies.foldl (fun s q =>
    let d := vget Die.reset s.dies q
    let d := { d with cbParty := some party, clear := if d.boardClears party then d.clear + 2048 else d.clear }
    { s with dies := vset s.dies q d }) s

/-- R200: the rows of a stored tensor in a format without block scales, taken in. -/
def Job.readTensorRow (j : Job) (fmt addr pitch r cols : Nat) : Job × List Acc :=
  let x := j.st.session j.sess
  let f := Fmt.ofCode fmt
  let p := x.rowPlace addr r pitch
  let w := f.widthIn p.isStore
  let (j, b) := j.read p ((w * cols + 7) / 8)
  let vs := (unpack w cols b).map fun c => takeElem f (f.codeOf c) false
  (j.intake (Counts.sum (vs.map (·.2))), vs.map fun v => ⟨(toAcc v.1).value, v.1.isNan, false⟩)

/-- The owner code in bits [7:3] of a byte, as PH_MOVE, PH_STREAM and RUN_KERNEL hold PARTY. -/
def dPartyHi (d : Bytes) (off : Nat) : Nat := bitsAt d off 1 7 3

/-- R201, R554: event 0x030 of `passes` passes of a kernel over `cols` columns of `rows` rows: one clock for each column and
each group of 512 rows that a Counting Board holds, group g on die g mod n_d of the piece. -/
def State.boardPasses (s : State) (i passes cols rows : Nat) : State :=
  let x := s.session i
  (List.range x.dies).foldl (fun s k =>
    let runs := passes * (((rows + 511) / 512 + x.dies - 1 - k) / x.dies)
    s.perfRuns i (x.top + k) 0x030 (cols * runs) runs) s

/-- The run of a RUN_KERNEL: its job after every row. -/
def State.kernelJob (s : State) (i : Nat) (p : Op) : Job :=
  let d := p.desc
  let party := dPartyHi d 43
  let rows := bitsAt d 32 4 23 0
  let cols := bitsAt d 36 4 23 0
  let e := (s.session i).entry (fieldAt d 40 2)
  let s := (s.useBoards i party).boardPasses i (rowPasses (kProg e) + 1) cols rows
  let sd : SideSpec := ⟨fieldAt d 72 8, fieldAt d 80 4, fieldAt d 88 8, fieldAt d 84 4⟩
  let sp : OutSpec :=
    { fmt := bitsAt d 42 1 7 4, srec := fieldAt d 44 2, rnd := bitsAt d 43 1 1 0, sigma := fieldAt d 46 2,
      theta := (dTensor d).toNat, width := progWidth (kProg e) cols, addr := fieldAt d 64 8, pitch := fieldAt d 60 4,
      dual := kDual e, dualAddr := kDualAddr e }
  (runsOf 512 (rows / 512 + 1) (List.range rows)).foldl (fun j g =>
    let (j, xs) := g.foldl (fun (acc : Job × List (Nat × List Acc)) r =>
      let (j, l) := acc.1.readTensorRow (bitsAt d 42 1 3 0) (fieldAt d 48 8) (fieldAt d 56 4) r cols
      (j, (r, l) :: acc.2)) (j, [])
    j.runRows p e sd sp 0 xs.reverse) (s.job i p party)

/-- RUN_KERNEL. -/
def execRunKernel (o : OpRef) (s : State) : Out :=
  .next <| match s.launched o opKernel with
    | some p =>
      let j := s.kernelJob o.session p
      j.st.finishOp o.session p j.status
    | none => s

end Sys2Proof.Machine
end

