-- ==== Sys2Proof/Machine/Pigeonhole.lean ====
section
/-! DEFINITION. The Pigeonhole: moves and streams in COPY, QUANTISE and REBLOCK mode (R170 to R186). -/

namespace Sys2Proof.Machine

def phRows (d : Bytes) : Nat := bitsAt d 32 4 23 0
def phCols (d : Bytes) : Nat := bitsAt d 36 4 23 0
def phSrcFmt (d : Bytes) : Nat := bitsAt d 40 1 3 0
def phDstFmt (d : Bytes) : Nat := bitsAt d 40 1 7 4
def phMode (d : Bytes) : Nat := bitsAt d 41 1 1 0
def phTranspose (d : Bytes) : Bool := bitOf (fieldAt d 41 1) 2
def phSrcBlk (d : Bytes) : Bool := bitOf (fieldAt d 41 1) 3
def phSrcColb (d : Bytes) : Bool := bitOf (fieldAt d 41 1) 4
def phDstColb (d : Bytes) : Bool := bitOf (fieldAt d 41 1) 5
def phRnd (d : Bytes) : Nat := bitsAt d 41 1 7 6
def phDie (d : Bytes) : Nat := bitsAt d 42 1 1 0
def phTopCopy (d : Bytes) : Bool := bitOf (fieldAt d 42 1) 2
def phParty (d : Bytes) : Nat := dPartyHi d 42
def phStreamNo (d : Bytes) : Nat := bitsAt d 43 1 3 0
def phStreamB (d : Bytes) : Bool := bitOf (fieldAt d 43 1) 4
def phSrec (d : Bytes) : Nat := fieldAt d 44 2

/-- Destination dimensions (R178). -/
def phDims (d : Bytes) : Nat × Nat := if phTranspose d then (phCols d, phRows d) else (phRows d, phCols d)

/-- R180: whether the destination is block-scaled. -/
def Session.phScaled (x : Session) (d : Bytes) : Bool :=
  match phMode d with
  | 0 => phSrcBlk d
  | 1 =>
    let f := phDstFmt d
    if 4 ≤ f ∧ f ≤ 6 then true
    else if f = 2 ∨ f = 3 then
      if phSrec d = 0xFFFF then addrClass (fieldAt d 80 8) ≠ 2 else (x.scaleRec (phSrec d)).blockEn
    else false
  | _ => true

/-- R171, R184: whether the destination is column-blocked. Assumption log 95 (DESIGN CHOICE). -/
def phColb (d : Bytes) : Bool :=
  match phMode d with
  | 0 => phSrcColb d != phTranspose d
  | 1 => phDstColb d
  | _ => if phTranspose d then phSrcColb d else !(phSrcColb d)

/-- Bytes of a scale tensor (R137). -/
def scaleBytes (rows cols : Nat) (colb : Bool) : Nat :=
  if colb then (rows + 31) / 32 * cols else rows * ((cols + 31) / 32)

/-- Byte of a scale tensor that covers element (i, j) (R137). -/
def scaleIndex (cols : Nat) (colb : Bool) (i j : Nat) : Nat :=
  if colb then i / 32 * cols + j else i * ((cols + 31) / 32) + j / 32

/-- Transpose a matrix of `cols` columns. -/
def transposeMat {α : Type} (dflt : α) (cols : Nat) (m : List (List α)) : List (List α) :=
  (List.range cols).map fun j => m.map fun r => r.getD j dflt

/-- A place a Pigeonhole descriptor names: its own die's store, or HBM (R589). -/
def phPlace (die addr off : Nat) : Place := diePlace addr die off

/-- What one line (a row, or a column when blocked by columns) of a conversion adds to the records. -/
structure LineStat where
  counts : Counts
  elem : Nat := 0
  inexact : Nat := 0
  flush : Nat := 0
  deriving DecidableEq, Repr

/-- A converted tensor: destination codes by row, its scale bytes in storage order, and the counts of its lines. -/
structure PhOut where
  codes : List (List Nat)
  scales : List Nat
  colb : Bool
  lines : List LineStat
  deriving DecidableEq, Repr

/-- Read the source tensor: codes by row and scale bytes (R170, R172, R175). -/
def Job.phSource (j : Job) (die : Nat) (d : Bytes) : Job × List (List Nat) × List Nat :=
  let f := Fmt.ofCode (phSrcFmt d)
  let store := addrClass (fieldAt d 48 8) = 0
  let w := f.widthIn store
  let (j, rows) := (List.range (phRows d)).foldl (fun (acc : Job × List (List Nat)) r =>
    let (j, b) := acc.1.read (phPlace die (fieldAt d 48 8) (r * fieldAt d 56 4)) ((w * phCols d + 7) / 8)
    (j, unpack w (phCols d) b :: acc.2)) (j, [])
  let (j, sc) :=
    if phSrcBlk d then
      let (j, b) := j.read (phPlace die (fieldAt d 72 8) 0) (scaleBytes (phRows d) (phCols d) (phSrcColb d))
      (j, b.map BitVec.toNat)
    else (j, [])
  (j, rows.reverse, sc)

/-- R171: COPY. Containers keep their bits between two Sorting stores; between memories FP6 is packed or unpacked. -/
def phCopy (d : Bytes) (rows : List (List Nat)) (sc : List Nat) : PhOut :=
  let keep := addrClass (fieldAt d 48 8) = 0 ∧ addrClass (fieldAt d 64 8) ≠ 1
  let rows := if keep then rows else rows.map fun r => r.map (Fmt.ofCode (phSrcFmt d)).codeOf
  let codes := if phTranspose d then transposeMat 0 (phCols d) rows else rows
  let sc :=
    if phTranspose d then
      let width := if phSrcColb d then phCols d else (phCols d + 31) / 32
      (transposeMat 0 width (runsOf width (sc.length + 1) sc)).flatten
    else sc
  { codes := codes, scales := if phSrcBlk d then sc else [], colb := phColb d, lines := [] }

/-- One source element taken in: its value times its block scale, exact for REBLOCK, and for QUANTISE as an FP32 value
with its overflow flag (R106, R127, R184). Assumption log 95 (DESIGN CHOICE). -/
def phElem (d : Bytes) (sc : List Nat) (i j code : Nat) : (Val × Bool) × Counts :=
  let f := Fmt.ofCode (phSrcFmt d)
  let s := if phSrcBlk d then sc.getD (scaleIndex (phCols d) (phSrcColb d) i j) 0x7F else 0x7F
  let (v, c) := takeElem f (f.codeOf code) (s = 0xFF)
  let v := v.mul (e8m0 s)
  if phMode d = 1 then (((toAcc v).val, (toAcc v).ovf), c) else ((v, false), c)

/-- Two numbers differ. -/
def valDiffers (a b : Val) : Bool := decide (a.compare b ≠ (0 : Int))

/-- R180, R184: QUANTISE and REBLOCK. Lines are the rows or columns that blocks run along; without blocks, the rows, or for
a B stream the columns that a tile takes (R179). -/
def Session.phQuantise (x : Session) (o : Op) (rows : List (List Nat)) (sc : List Nat) : PhOut :=
  let d := o.desc
  let f := Fmt.ofCode (phDstFmt d)
  let (dr, dc) := phDims d
  let vals := (rows.zip (List.range rows.length)).map fun ri =>
    (ri.1.zip (List.range ri.1.length)).map fun cj => phElem d sc ri.2 cj.2 cj.1
  let none_ : (Val × Bool) × Counts := ((Val.nan, false), {})
  let vals := if phTranspose d then transposeMat none_ (phCols d) vals else vals
  let blk := x.phScaled d
  let colb := if blk then phColb d else phStreamB d
  let s := if phMode d = 1 then o.scaleOf (phSrec d) else Val.num false 1 1 0
  let rnd := rndOf (if phMode d = 2 then 2 else phRnd d) x.seed (fieldAt d 46 2) o.step.toNat (dTensor d).toNat
  let lines := if colb then transposeMat none_ dc vals else vals
  let qs := (lines.zip (List.range lines.length)).map fun lk =>
    let es := (lk.1.zip (List.range lk.1.length)).map fun vi =>
      (⟨vi.1.1.1, vi.1.1.2, if colb then vi.2 * dc + lk.2 else lk.2 * dc + vi.2⟩ : Elem)
    let bs := (blocks32 es).map fun b => (b, quantise f blk 1 s rnd b)
    let c := (Counts.sum (bs.map (·.2.counts))).add (Counts.sum (lk.1.map (·.2)))
    let back := (bs.map fun bq => (bq.1.zip bq.2.codes).map fun ec =>
      (ec.1.v, (takeElem f ec.2 (bq.2.scale = 0xFF)).1.mul (e8m0 bq.2.scale))).flatten
    let num := back.filter fun p => !p.1.isNan && !p.2.isNan
    ({ counts := c, elem := es.length, inexact := (num.filter fun p => valDiffers p.1 p.2).length,
       flush := (num.filter fun p => !p.1.isZero && p.2.isZero).length : LineStat }, bs)
  let lineCodes := qs.map fun q => (q.2.map fun b => b.2.codes).flatten
  let lineScales := qs.map fun q => q.2.map fun b => b.2.scale
  let codes := if colb then transposeMat 0 dr lineCodes else lineCodes
  let scales :=
    if !blk then []
    else if colb then (transposeMat 0 ((dr + 31) / 32) lineScales).flatten
    else lineScales.flatten
  { codes := codes, scales := scales, colb := colb, lines := qs.map (·.1) }

/-- The conversion of a Pigeonhole descriptor from its source. -/
def Job.phConvert (j : Job) (o : Op) (die : Nat) : Job × PhOut :=
  let (j, rows, sc) := j.phSource die o.desc
  if phMode o.desc = 0 then (j, phCopy o.desc rows sc)
  else (j, (j.st.session j.sess).phQuantise o rows sc)

/-- R185, R186: the counts of lines on the session's records. QUANTISE advances the scale record it names; REBLOCK
advances the re-blocking record and no scale record. Assumption log 74 (DEDUCED). -/
def Job.phCount (j : Job) (o : Op) (lines : List LineStat) : Job :=
  let d := o.desc
  let j := j.count (if phMode d = 1 then phSrec d else 0xFFFF) (Counts.sum (lines.map (·.counts)))
  if phMode d = 2 then
    { j with st := j.st.onSession j.sess fun x =>
        { x with reblock := { x.reblock with
            elem := satAdd x.reblock.elem (lines.map (·.elem)).sum
            inexact := satAdd x.reblock.inexact (lines.map (·.inexact)).sum
            flush := satAdd x.reblock.flush (lines.map (·.flush)).sum } } }
  else j

/-- Write rows of codes at a pitch, then scale bytes. -/
def Job.phWrite (j : Job) (data : Nat → Place) (scale : Place) (fmt : Nat) (p : PhOut) : Job :=
  let j := (p.codes.zip (List.range p.codes.length)).foldl (fun j ck =>
    j.writeCodes (data ck.2) ((Fmt.ofCode fmt).widthIn (data ck.2).isStore) ck.1) j
  if p.scales.isEmpty then j else j.write scale (p.scales.map (BitVec.ofNat 8))

/-- R404: a die's Pigeonhole works for an owner; a change of owner clears it for 2,048 clocks. -/
def State.usePigeonhole (s : State) (die party : Nat) : State :=
  let d := vget Die.reset s.dies die
  let d := { d with phParty := some party,
                    clear := if d.phParty = none ∨ d.phParty = some party then d.clear else d.clear + 2048 }
  { s with dies := vset s.dies die d }

/-- The descriptor is the one its Pigeonhole runs: first in start order (R176), its die out of reset. -/
def State.phTurn (s : State) (o : OpRef) (die : Nat) : Bool :=
  let d := vget Die.reset s.dies die
  d.phQueue.head? = some o && !d.inReset

/-- The run of a PH_MOVE: its job after the last write (R176, R177). -/
def State.phMoveJob (s : State) (i : Nat) (p : Op) : Job :=
  let d := p.desc
  let die := (s.session i).top + phDie d
  let s := s.usePigeonhole die (phParty d)
  let (j, out) := (s.job i p (phParty d)).phConvert p die
  let j := { j with st := j.st.perfEvent i die 0x020 (((out.codes.map List.length).sum + 31) / 32) }
  let j := if phMode d = 0 then j else j.phCount p out.lines
  let pitch := fieldAt d 60 4
  let j := j.phWrite (fun r => phPlace die (fieldAt d 64 8) (r * pitch)) (phPlace die (fieldAt d 80 8) 0) (phDstFmt d) out
  if phTopCopy d then
    let top := (j.st.session i).top
    j.phWrite (fun r => .store top (fieldAt d 88 4 + r * pitch)) (.store top (fieldAt d 92 4)) (phDstFmt d) out
  else j

/-- PH_MOVE. -/
def execPhMove (o : OpRef) (s : State) : Out :=
  .next <| match s.launched o opPhMove with
    | some p =>
      if s.phTurn o ((s.session o.session).top + phDie p.desc) then
        let j := s.phMoveJob o.session p
        (j.st.finishOp o.session p j.status).phDone o
      else s
    | none => s

/-- PH_STREAM: the stream runs on its Pigeonhole, feeding the array operation that names it (R178, R179). Progress 1
marks it running. -/
def execPhStream (o : OpRef) (s : State) : Out :=
  .next <| match s.launched o opPhStream with
    | some p =>
      let die := (s.session o.session).top + phDie p.desc
      if s.phTurn o die then
        (s.usePigeonhole die (phParty p.desc)).onSession o.session fun x => x.setOp { p with progress := 1 }
      else s
    | none => s

/-- A running stream of a session on one of its dies that serves `user`, or no operation yet (R178, R179). -/
def Session.stream? (x : Session) (die n : Nat) (b : Bool) (user : Option (Nat × Nat)) : Option Op :=
  x.ops.find? fun o =>
    o.code = opPhStream ∧ o.stage = .launched ∧ o.progress = 1 ∧ x.top + phDie o.desc = die ∧ phStreamNo o.desc = n ∧
      phStreamB o.desc = b ∧ o.feeds = user

end Sys2Proof.Machine
end

