-- ==== Sys2Proof/Machine/Array.lean ====
section
/-! DEFINITION. The Frame array: launch, issue, drain and completion of array operations (R39 to R85, R187 to R192)
and the slot counters they advance (R555 to R558). -/

namespace Sys2Proof.Machine

/-! ### The products of an array descriptor -/

/-- One product: the fields of R65, or those R187 to R189 give the companion. -/
structure Product where
  m : Nat
  n : Nat
  k : Nat
  aFmt : Nat
  bFmt : Nat
  outFmt : Nat
  rnd : Nat
  aBlk : Bool
  bBlk : Bool
  aSrc : Nat
  bSrc : Nat
  order : Bool
  aBase : Nat
  aPitch : Nat
  bBase : Nat
  bPitch : Nat
  aSBase : Nat
  bSBase : Nat
  aSrec : Nat
  bSrec : Nat
  outSrec : Nat
  prog : Nat
  cAddr : Nat
  cPitch : Nat
  sigma : Nat
  tensor : Nat
  sideIn : Nat
  sidePitch : Nat
  sideOut : Nat
  sideOutPitch : Nat
  deriving DecidableEq, Repr

def aM (d : Bytes) : Nat := bitsAt d 32 4 23 0
def aN (d : Bytes) : Nat := bitsAt d 36 4 23 0
def aK (d : Bytes) : Nat := bitsAt d 40 4 23 0
def aFlags (d : Bytes) : Nat := fieldAt d 46 2
def aHold (d : Bytes) : Bool := dOpcode d = opMatmul && bitOf (aFlags d) 7
def aContinue (d : Bytes) : Bool := dOpcode d = opMatmul && bitOf (aFlags d) 8
/-- PARTY of an array descriptor; an ARRAY_SCRUB has none. -/
def aParty (d : Bytes) : Nat := bitsOf (aFlags d) 13 9

/-- The product that bytes 32 to 95 describe (R65, R66, R187, R194). -/
def Session.primary (x : Session) (d : Bytes) : Product :=
  let e := x.entry (fieldAt d 78 2)
  let alt := dOpcode d = opMatmulAlt
  { m := aM d, n := aN d, k := aK d, aFmt := bitsAt d 44 1 3 0, bFmt := bitsAt d 44 1 7 4, outFmt := bitsAt d 45 1 3 0,
    rnd := bitsAt d 45 1 5 4, aBlk := bitOf (aFlags d) 0, bBlk := bitOf (aFlags d) 1, aSrc := bitsOf (aFlags d) 3 2,
    bSrc := bitsOf (aFlags d) 5 4, order := bitOf (aFlags d) 6, aBase := fieldAt d 48 4, aPitch := fieldAt d 52 4,
    bBase := fieldAt d 56 4, bPitch := fieldAt d 60 4, aSBase := fieldAt d 64 4, bSBase := fieldAt d 68 4,
    aSrec := fieldAt d 72 2, bSrec := fieldAt d 74 2, outSrec := fieldAt d 76 2, prog := fieldAt d 78 2,
    cAddr := fieldAt d 80 8, cPitch := fieldAt d 88 4, sigma := fieldAt d 92 2, tensor := (dTensor d).toNat,
    sideIn := if alt then kAltSide e else fieldAt d 96 8, sidePitch := if alt then kAltPitch e else fieldAt d 104 4,
    sideOut := if alt then noAddr else fieldAt d 112 8, sideOutPitch := if alt then 0 else fieldAt d 120 4 }

/-- The smallest multiple of 64 bytes that holds `n` elements of `w` bits. -/
def pitchFor (n w : Nat) : Nat := (w * n + 511) / 512 * 64

/-- The companion of a MATMUL_ALT (R187 to R189). -/
def companion (d : Bytes) : Product :=
  let f := bitsAt d 98 1 7 4
  let o := bitsAt d 99 1 3 0
  { m := aN d, n := aK d, k := aM d, aFmt := f, bFmt := bitsAt d 44 1 3 0, outFmt := o, rnd := 2,
    aBlk := bitOf (fieldAt d 98 1) 3, bBlk := bitOf (aFlags d) 0, aSrc := bitsAt d 98 1 2 1, bSrc := 0,
    order := bitOf (fieldAt d 98 1) 0, aBase := fieldAt d 100 4, aPitch := pitchFor (aM d) (Fmt.ofCode f).container,
    bBase := fieldAt d 112 4, bPitch := fieldAt d 52 4, aSBase := fieldAt d 108 4, bSBase := fieldAt d 116 4,
    aSrec := fieldAt d 106 2, bSrec := fieldAt d 72 2, outSrec := fieldAt d 104 2, prog := 0,
    cAddr := fieldAt d 120 8,
    cPitch := pitchFor (aK d) ((Fmt.ofCode o).widthIn (addrClass (fieldAt d 120 8) = 0)),
    sigma := fieldAt d 92 2, tensor := ((dTensor d).toNat + 1) % 2 ^ 32, sideIn := noAddr, sidePitch := 0,
    sideOut := noAddr, sideOutPitch := 0 }

def Session.product (x : Session) (d : Bytes) (comp : Bool) : Product := if comp then companion d else x.primary d

/-- K_c (R42). -/
def Product.clocks (p : Product) : Nat := p.k / (Fmt.ofCode p.aFmt).perClock

def Product.rowTiles (p : Product) (h : Nat) : Nat := (p.m + h - 1) / h
def Product.colTiles (p : Product) : Nat := (p.n + 1023) / 1024
def Product.tiles (p : Product) (h : Nat) : Nat := p.rowTiles h * p.colTiles

/-- Row and column tile of the product's tile `t` (TILE_ORDER). -/
def Product.tileAt (p : Product) (h t : Nat) : Nat × Nat :=
  if p.order then (t % p.rowTiles h, t / p.rowTiles h) else (t / p.colTiles, t % p.colTiles)

/-- R191: primary tiles, companion tiles and place in the group after `n` tiles of an alternation. -/
def altAfter (pRun cRun nP nC : Nat) : Nat → Nat × Nat × Nat
  | 0 => (0, 0, 0)
  | n + 1 =>
    let (p, c, pos) := altAfter pRun cRun nP nC n
    let comp := if p = nP then true else if c = nC then false else decide (pRun ≤ pos)
    (if comp then p else p + 1, if comp then c + 1 else c, (pos + 1) % (pRun + cRun))

/-- Which product tile `t` of a descriptor belongs to, and its number within it. -/
def Session.tileSeq (x : Session) (d : Bytes) (t : Nat) : Bool × Nat :=
  if dOpcode d = opMatmulAlt then
    let nP := (x.primary d).tiles x.height
    let nC := (companion d).tiles x.height
    let pRun := fieldAt d 96 1
    let (p, c, pos) := altAfter pRun (fieldAt d 97 1) nP nC t
    if p = nP then (true, c) else if c = nC then (false, p) else if pRun ≤ pos then (true, c) else (false, p)
  else (false, t)

/-! ### Slots, R555 to R558 -/

/-- Every quarter of a piece spends `n` clocks in one class. -/
def State.pieceSlots (s : State) (x : Session) (cls n : Nat) : State :=
  x.dieList.foldl (fun s q => s.addSlots q [(cls, 512 * n), (10, n)]) s

/-- `n` of an ARR event in every quarter of a session's piece, in at most `runs` runs of clocks (R549, R554). -/
def State.pieceRuns (s : State) (i : Nat) (x : Session) (ev n runs : Nat) : State :=
  x.dieList.foldl (fun s q => s.perfRuns i q ev n runs) s

/-- `n` of an ARR event in every quarter of a session's piece (R554). -/
def State.pieceEvent (s : State) (i : Nat) (x : Session) (ev n : Nat) : State := s.pieceRuns i x ev n n

/-- Bead blocks of die `q`'s sixteen block rows that hold an element of C in a tile of `rows` by `cols` elements. -/
def realBlocks (dieIndex rows cols : Nat) : Nat :=
  min 16 ((rows - 512 * dieIndex + 31) / 32) * ((cols + 31) / 32)

/-- The products of one tile: retired and padding slots of each quarter. Assumption log 77 (DESIGN CHOICE). -/
def State.tileSlots (s : State) (x : Session) (rows cols kc : Nat) : State :=
  (List.range x.dies).foldl (fun s k =>
    let r := realBlocks k rows cols
    let l := [(0, r * kc), (1, (512 - r) * kc), (10, kc), (13, 1)]
    s.addSlots (x.top + k) (if x.sealRec.attempt = 0 then l else (14, r * kc) :: l)) s

/-! ### Launch -/

/-- R79, R81, R92: the piece issues no operation, and this one is the next it takes. -/
def Session.arrayTurn (x : Session) (p : Op) : Bool := x.piece.opened.isEmpty && x.pieceTurn p

/-- R178: the streams a product names run, serving no operation yet, with its dimensions. -/
def Session.streamsOk (x : Session) (p : Product) : Bool :=
  let fits := fun (die n : Nat) (b : Bool) (dim : Nat × Nat) =>
    match x.stream? die n b none with
    | some o => phDims o.desc = dim
    | none => false
  (p.aSrc ≠ 1 || x.dieList.all fun die => fits die (p.aBase % 16) false (p.m, p.k)) &&
    (p.bSrc ≠ 1 || fits x.top (p.bBase % 16) true (p.k, p.n))

/-- The launch checks of R53, R77 and R178. -/
def Session.launchOk (x : Session) (p : Op) : Bool :=
  let d := p.desc
  (x.piece.party = none || x.piece.party = some (aParty d)) && (!aContinue d || x.piece.held.isSome) &&
    x.streamsOk (x.primary d) && (dOpcode d ≠ opMatmulAlt || x.streamsOk (companion d))

/-- The products of an array descriptor. -/
def Session.products (x : Session) (d : Bytes) : List Product :=
  if dOpcode d = opMatmulAlt then [x.primary d, companion d] else [x.primary d]

/-- The streams that an operation's products name, of those that serve `user` (R178, R179). -/
def Session.streamsOf (x : Session) (p : Op) (user : Option (Nat × Nat)) : List Op :=
  ((x.products p.desc).map fun q =>
    (if q.aSrc = 1 then x.dieList.filterMap fun die => x.stream? die (q.aBase % 16) false user else []) ++
      (if q.bSrc = 1 then (x.stream? x.top (q.bBase % 16) true user).toList else [])).flatten

/-- R179: the streams an operation names serve it from its launch on, and no other. -/
def Session.bindStreams (x : Session) (p : Op) : Session :=
  (x.streamsOf p none).foldl (fun x o => x.setOp { o with feeds := some (p.ctx, p.seq) }) x

/-- R82, R54, R555: the 64 clocks from a launch on an idle piece to its first operands: fill, but in the blocks that hold
a discarded tile. -/
def State.launchSlots (s : State) (x : Session) (lost : Option Tile) : State :=
  (List.range x.dies).foldl (fun s k =>
    let r := match lost with | some t => realBlocks k t.rows t.cols | none => 0
    s.addSlots (x.top + k) [(4, 64 * r), (2, 64 * (512 - r)), (10, 64)]) s

/-- R53, R54, R77, R82: the piece takes a launched operation; a held tile that it does not continue is discarded. -/
def State.openArray (s : State) (i : Nat) (p : Op) : State :=
  let x := s.session i
  let lost := if aContinue p.desc then none else x.piece.held
  let s := if x.piece.wake then s.launchSlots x lost else s
  s.onSession i fun x =>
    { x.bindStreams p with piece := { x.piece with
        party := some (aParty p.desc), held := if lost.isSome then none else x.piece.held,
        opened := x.piece.opened ++ [(p.ctx, p.seq)],
        wake := false, clock := if x.piece.wake then x.piece.clock + 64 else x.piece.clock } }

/-- MATMUL and MATMUL_ALT launch alike. -/
def State.launchArray (s : State) (o : OpRef) (code : Nat) : State :=
  match s.launched o code with
  | some p =>
    let x := s.session o.session
    if x.arrayTurn p ∧ p.progress = 0 then
      if x.launchOk p then s.openArray o.session p else s.stopOp o.session p stRefused
    else s
  | none => s

/-- MATMUL. -/
def execMatmul (o : OpRef) (s : State) : Out := .next (s.launchArray o opMatmul)

/-- MATMUL_ALT. -/
def execMatmulAlt (o : OpRef) (s : State) : Out := .next (s.launchArray o opMatmulAlt)

/-- ARRAY_SCRUB: clears the piece in 1,088 clocks, once the piece's previous operation has completed (R78, R79). -/
def execArrayScrub (o : OpRef) (s : State) : Out :=
  .next <| match s.launched o opScrub with
    | some p =>
      let x := s.session o.session
      if (x.ops.takeWhile fun q => !(q.ctx = p.ctx ∧ q.seq = p.seq)).all fun q => !q.isArray then
        ((s.pieceSlots x 4 1088).onSession o.session fun x =>
          { x with piece := { x.piece with party := none, held := none, tiles := [], rowBuffer := [], last := none,
                                           prev := none, lastHeld := false, wake := false, clock := x.piece.clock + 1088 } }).finishOp
          o.session p stOk
      else s
    | none => s

/-! ### Operands of a tile -/

/-- One line of an operand along the reduction: values by block of 32, and the block's scale codes. -/
structure Line where
  vals : List (List Val)
  scales : List Nat
  deriving DecidableEq, Repr

/-- A line from its element codes and block scales, with its intake counts (R106 to R108, R138). -/
def mkLine (f : Fmt) (codes scales : List Nat) : Line × Counts :=
  let bs := (blocks32 codes).zip scales
  let ts := bs.map fun bc => (bc.1.map fun c => takeElem f (f.codeOf c) (bc.2 = 0xFF), bc.2)
  (⟨ts.map fun t => t.1.map (·.1), ts.map (·.2)⟩, Counts.sum (ts.map fun t => Counts.sum (t.1.map (·.2))))

/-- Scale codes of 2^0 for every block (R47). -/
def unitScales (k : Nat) : List Nat := List.replicate (k / 32) 0x7F

/-- A stream's conversion as this tile uses it: it reads its source as the stream sees it (R214), counts the lines it
presents (R108, R179) and the `n` elements it feeds (R554), and writes its scales where DST_SADDR names a place (R180).
Assumption log 74 (DEDUCED). -/
def Job.feed (j : Job) (o : Op) (die n : Nat) (use : Nat → Bool) (byRow : Bool) : Job × PhOut :=
  let (t, out) := (j.as o (phParty o.desc)).phConvert o die
  let t := { t with st := t.st.perfEvent t.sess die 0x020 ((n + 31) / 32) }
  let picked := (out.lines.zip (List.range out.lines.length)).filter fun lk =>
    if byRow != out.colb then use lk.2 else true
  let t := if phMode o.desc = 0 then t else t.phCount o (picked.map (·.1))
  let t := if out.scales.isEmpty then t else t.write (phPlace die (fieldAt o.desc 80 8) 0) (out.scales.map (BitVec.ofNat 8))
  ({ j with st := t.st, status := t.status }, out)

/-- Rows `r0` to `r0 + cnt − 1` of operand A (R71, R138, R143, R178). A stream's codes are read in the operand's format, and a
scale it did not write is 0x7F. Assumption log 92 and 95 (DESIGN CHOICE). -/
def Job.aLines (j : Job) (user : Nat × Nat) (p : Product) (r0 cnt : Nat) : Job × List Line :=
  let x := j.st.session j.sess
  let f := Fmt.ofCode p.aFmt
  if p.aSrc = 1 then
    x.dieList.foldl (fun (acc : Job × List Line) die =>
      let (j, ls) := acc
      match x.stream? die (p.aBase % 16) false (some user) with
      | some o =>
        let mine := fun r => decide (r0 ≤ r ∧ r < r0 + cnt) && decide (x.top + r / 512 % x.dies = die)
        let rs := (List.range cnt).filterMap fun k => if mine (r0 + k) then some (r0 + k) else none
        let (j, out) := j.feed o die (rs.length * p.k) mine true
        let got := rs.map fun r => mkLine f (out.codes.getD r [])
          (if p.aBlk then (List.range (p.k / 32)).map fun kb => out.scales.getD (r * (p.k / 32) + kb) 0x7F
           else unitScales p.k)
        (j.intake (Counts.sum (got.map (·.2))), ls ++ got.map (·.1))
      | none => (j, ls)) (j, [])
  else
    let (j, ls) := (List.range cnt).foldl (fun (acc : Job × List Line) k =>
      let r := r0 + k
      let die := x.top + r / 512 % x.dies
      let (j, b) := acc.1.readStore die (p.aBase + x.localRow r * p.aPitch) ((f.container * p.k + 7) / 8)
      let (j, sc) :=
        if p.aBlk then
          let (j, sb) := j.readStore die (p.aSBase + x.localRow r * (p.k / 32)) (p.k / 32)
          (j, sb.map BitVec.toNat)
        else (j, unitScales p.k)
      let (l, c) := mkLine f (unpack f.container p.k b) sc
      (j.intake c, l :: acc.2)) (j, [])
    (j, ls.reverse)

/-- Columns `n0` to `n0 + cnt − 1` of operand B (R72, R138, R143, R178).
Assumption log 74 (DEDUCED), 92 and 95 (DESIGN CHOICE). -/
def Job.bLines (j : Job) (user : Nat × Nat) (p : Product) (n0 cnt : Nat) : Job × List Line :=
  let x := j.st.session j.sess
  let f := Fmt.ofCode p.bFmt
  if p.bSrc = 1 then
    match x.stream? x.top (p.bBase % 16) true (some user) with
    | some o =>
      let (j, out) := j.feed o x.top (cnt * p.k) (fun n => decide (n0 ≤ n ∧ n < n0 + cnt)) false
      let got := (List.range cnt).map fun c => mkLine f (out.codes.map fun row => row.getD (n0 + c) 0)
        (if p.bBlk then (List.range (p.k / 32)).map fun kb => out.scales.getD (kb * p.n + n0 + c) 0x7F
         else unitScales p.k)
      (j.intake (Counts.sum (got.map (·.2))), got.map (·.1))
    | none => (j, [])
  else
    let (j, rows) := (List.range p.k).foldl (fun (acc : Job × List (List Nat)) k =>
      let (j, b) := acc.1.readStore x.top (p.bBase + k * p.bPitch + f.container * n0 / 8) ((f.container * cnt + 7) / 8)
      (j, unpack f.container cnt b :: acc.2)) (j, [])
    let rows := rows.reverse
    let (j, sc) :=
      if p.bBlk then
        (List.range (p.k / 32)).foldl (fun (acc : Job × List (List Nat)) kb =>
          let (j, b) := acc.1.readStore x.top (p.bSBase + kb * p.n + n0) cnt
          (j, acc.2 ++ [b.map BitVec.toNat])) (j, [])
      else (j, [])
    let got := (List.range cnt).map fun c => mkLine f (rows.map fun row => row.getD c 0)
      (if p.bBlk then sc.map fun row => row.getD c 0x7F else unitScales p.k)
    (j.intake (Counts.sum (got.map (·.2))), got.map (·.1))

/-- R110 to R115: one output element from a start value. -/
def dot (acc : Acc) (a b : Line) : Acc :=
  ((a.vals.zip a.scales).zip (b.vals.zip b.scales)).foldl
    (fun acc q => accumulateBlock acc q.1.1 q.2.1 q.1.2 q.2.2) acc

/-- R50, R53, R74: the elements of a tile, from +0 or from a held tile. -/
def tileAccs (held : Option Tile) (as bs : List Line) : List (List Acc) :=
  (as.zip (List.range as.length)).map fun ai =>
    (bs.zip (List.range bs.length)).map fun bj =>
      let start := match held with
        | some t => (t.accs.getD ai.2 []).getD bj.2 Acc.zero
        | none => Acc.zero
      dot start ai.1 bj.1

/-! ### Issue -/

/-- R52: the clock a piece may issue its next tile on; the clocks its drains were held under R49 are added to the
bounds. -/
def Piece.issueAt (p : Piece) : Nat :=
  let a := match p.last with | some (s, _, h) => s + 1024 + h | none => 0
  let b := match p.prev with | some (s, k, h) => s + k + 1078 + h | none => 0
  max p.operandsAt (max a b)

/-- R49, R51: a drain of the piece's latest tile, or of the tile before it, is held for `n` clocks; one that ends late
holds the next tile's drain until it has ended. Assumption log 77 (DESIGN CHOICE). -/
def Piece.holdDrain (p : Piece) (latest : Bool) (n : Nat) : Piece :=
  match latest, p.prev, p.last with
  | false, some (s, k, h), some (s', k', h') =>
    { p with prev := some (s, k, h + n), last := some (s', k', max h' (s + k + 1024 + h + n - (s' + k'))) }
  | _, _, some (s, k, h) => { p with last := some (s, k, h + n) }
  | _, _, none => p

/-- R537: the clocks that a throttle level holds while `k` clocks of issue pass from clock `s` of a piece: the last `level`
of every 16. Assumption log 77 (DESIGN CHOICE). -/
def throttleHold (level s k : Nat) : Nat :=
  let f := 16 - level
  let n := s / 16 * f + min (s % 16) f + k
  if level = 0 ∨ k = 0 ∨ f = 0 then 0 else 16 * ((n - 1) / f) + (n - 1) % f + 1 - s - k

/-- The tile that the piece issues next: the operation, its product, and the tile's number within it. -/
def Session.nextTile (x : Session) : Option (Op × Bool × Nat) :=
  match x.piece.opened with
  | [] => none
  | (c, q) :: _ =>
    match x.op? c q with
    | some o =>
      if o.progress < x.tileCount o.desc then
        let t := x.tileSeq o.desc o.progress
        some (o, t.1, t.2)
      else none
    | none => none

/-- Add the ends of a tile's row and column ranges. -/
def Product.extent (p : Product) (h rt ct : Nat) : Nat × Nat := (min h (p.m - rt * h), min 1024 (p.n - ct * 1024))

/-- R49, R555: of the `w` clocks on which an issue waited for drains, those on which a drain was held: where in a drain its
held clocks fell is free. Assumption log 77 (DESIGN CHOICE). -/
def State.heldWait (s : State) (p : Piece) (w : Nat) : Nat × State :=
  let h := (match p.last with | some (_, _, h) => h | none => 0) + (match p.prev with | some (_, _, h) => h | none => 0)
  if min w h = 0 then (0, s)
  else
    let (d, s) := s.draw
    ((Config.freeWord d).toNat % (min w h + 1), s)

/-- TILE_ISSUE, R52: the piece issues its next tile, `operandLate` clocks late for operands and `scaleLate` for scales
(R48, R142). The values do not depend on either. -/
def State.issueTile (s : State) (i operandLate scaleLate : Nat) : State :=
  let x := s.session i
  match x.nextTile with
  | none => s
  | some (o, comp, t) =>
    let p := x.product o.desc comp
    let (rt, ct) := p.tileAt x.height t
    let (rows, cols) := p.extent x.height rt ct
    let kc := p.clocks
    let at_ := x.piece.issueAt
    let wait := at_ - x.piece.operandsAt
    let thr := throttleHold (s.pieceThrottle x) (at_ + operandLate + scaleLate) kc
    let (hold, s) := s.heldWait x.piece wait
    let s := s.tileSlots x rows cols kc
    let s := s.pieceSlots x 9 (wait - hold)
    let s := s.pieceSlots x 8 hold
    let s := s.pieceSlots x 5 operandLate
    let s := s.pieceSlots x 6 scaleLate
    let s := s.pieceSlots x 7 thr
    let s := s.pieceEvent i x 0x001 1
    let s := s.pieceEvent i x 0x002 (operandLate + scaleLate + thr)
    let s := s.pieceEvent i x 0x004 scaleLate
    let (j, as) := (s.arrayJob i o (aParty o.desc)).aLines (o.ctx, o.seq) p (rt * x.height) rows
    let (j, bs) := j.bLines (o.ctx, o.seq) p (ct * 1024) cols
    let cont := aContinue o.desc
    let tile : Tile :=
      { ctx := o.ctx, seq := o.seq, companion := comp, rowTile := rt, colTile := ct, rows := rows, cols := cols,
        accs := tileAccs (if cont then x.piece.held else none) as bs }
    let start := at_ + operandLate + scaleLate + thr
    j.st.onSession i fun x =>
      let last := decide (o.progress + 1 = x.tileCount o.desc)
      let x := x.setOp { o with progress := o.progress + 1, status := j.status }
      { x with piece := { x.piece with
          held := if aHold o.desc then some tile else if cont then none else x.piece.held
          tiles := if aHold o.desc then x.piece.tiles else x.piece.tiles ++ [tile]
          bank := if aHold o.desc then x.piece.bank else !x.piece.bank
          prev := x.piece.last, last := some (start, kc, 0), lastHeld := aHold o.desc, clock := start
          retired := (List.range x.dies).map fun k => x.piece.retired.getD k 0 + realBlocks k rows cols * kc
          opened := if last then x.piece.opened.drop 1 else x.piece.opened
          idleSince := if last then s.time.now else x.piece.idleSince } }

/-- TILE_ISSUE: a bank must be free of a tile that waits for its drain (R52), and ARR must run (R502).
Assumption log 3 and 5 (DESIGN CHOICE). -/
def execTileIssue (i operandLate scaleLate : Nat) (s : State) : Out :=
  .next <|
    if s.runsIn 3 ∧ (s.session i).piece.tiles.length < 2 then s.issueTile i operandLate scaleLate else s

/-! ### Drain -/

/-- R75: the tensor scales of A and B multiply each finished element once. -/
def scaleAcc (m : Option Val) (a : Acc) : Acc :=
  match m with
  | none => a
  | some v => Acc.from (a.val.mul v) [a]

/-- The exact product of the tensor scales an operation names, none when it names none (R75). -/
def Op.tensorScale (o : Op) (p : Product) : Option Val :=
  if p.aSrec = 0xFFFF ∧ p.bSrec = 0xFFFF then none
  else some ((o.scaleOf p.aSrec).mul (o.scaleOf p.bSrec))

/-- The output of a product (R73, R76, R195). -/
def Session.outSpec (x : Session) (p : Product) : OutSpec :=
  let e := x.entry p.prog
  { fmt := p.outFmt, srec := p.outSrec, rnd := p.rnd, sigma := p.sigma, theta := p.tensor,
    width := progWidth (kProg e) p.n, addr := p.cAddr, pitch := p.cPitch, dual := kDual e, dualAddr := kDualAddr e }

/-- Drain the rows of a tile (or of a whole row tile, joined from its column tiles) through its program. -/
def Job.drainRows (j : Job) (o : Op) (p : Product) (r0 c0 : Nat) (accs : List (List Acc)) : Job :=
  let x := j.st.session j.sess
  let m := o.tensorScale p
  let rows := (accs.zip (List.range accs.length)).map fun ak => (r0 + ak.2, ak.1.map (scaleAcc m))
  j.runRows o (x.entry p.prog) ⟨p.sideIn, p.sidePitch, p.sideOut, p.sideOutPitch⟩ (x.outSpec p) c0 rows

/-- Join the column tiles of one row tile, in column order. -/
def joinTiles (ts : List Tile) : List (List Acc) :=
  (List.range ((ts.map (·.rows)).foldl max 0)).map fun r => (ts.map fun t => t.accs.getD r []).flatten

/-- TILE_DRAIN, R51: the oldest issued tile drains, its 1,024 columns on every die of the piece, held for `drainHeld` clocks (R49); a program with row passes gathers
a row tile first, and the drain that follows waits while they run (R205). Assumption log 77 (DESIGN CHOICE). -/
def State.drainTile (s : State) (i drainHeld : Nat) : State :=
  let x := s.session i
  match x.piece.tiles with
  | [] => s
  | t :: rest =>
    match x.op? t.ctx t.seq with
    | none => s.onSession i fun x => { x with piece := { x.piece with tiles := rest } }
    | some o =>
      let p := x.product o.desc t.companion
      let s := s.pieceEvent i x 0x003 drainHeld
      let s := s.pieceRuns i x 0x031 1024 (drainHeld + 1)
      let passes := rowPasses (kProg (x.entry p.prog))
      let gather := decide (0 < passes)
      let whole := gather && t.colTile + 1 = p.colTiles
      let s := s.useBoards i (aParty o.desc)
      let buf := (s.session i).piece.rowBuffer ++ [t]
      let s := if whole then s.boardPasses i passes p.n t.rows else s
      let j := s.arrayJob i o (aParty o.desc)
      let j :=
        if gather then
          if whole then j.drainRows o p (t.rowTile * x.height) 0 (joinTiles buf) else j
        else j.drainRows o p (t.rowTile * x.height) (t.colTile * 1024) t.accs
      j.st.onSession i fun x =>
        let x := x.setOp { o with status := j.status }
        let piece := x.piece.holdDrain (rest.isEmpty && !x.piece.lastHeld) (drainHeld + if whole then passes * p.n else 0)
        { x with piece := { piece with tiles := rest
                                       rowBuffer := if gather then (if whole then [] else buf) else x.piece.rowBuffer } }

/-- TILE_DRAIN, while ARR runs (R502). Assumption log 5 (DESIGN CHOICE). -/
def execTileDrain (i drainHeld : Nat) (s : State) : Out := .next (if s.runsIn 3 then s.drainTile i drainHeld else s)

/-! ### Completion -/

/-- Drain start offset F_p of the piece's bottom die (R55). -/
def Session.drainOffset (x : Session) : Nat := if x.dies = 4 then 138 else if x.dies = 2 then 82 else 54

/-- R80, R81: the first array operation of the session is whole: every tile issued, drained and written. -/
def Session.arrayDone (x : Session) (p : Op) : Bool :=
  ((x.ops.find? Op.isArray).map fun o => (o.ctx, o.seq)) = some (p.ctx, p.seq) &&
    (if p.code = opScrub then p.stage = .finished
     else p.stage = .launched && decide (0 < p.progress ∧ p.progress = x.tileCount p.desc) &&
       x.piece.tiles.all fun t => !(t.ctx = p.ctx ∧ t.seq = p.seq))

/-- The program writes a row-statistics record (R195, R204). -/
def progStatsOut (prog : Nat) : Bool := prog = 0x10 ∨ prog = 0x12 ∨ prog = 0x14 ∨ prog = 0x16

/-- Clocks from the end of an operation's last operands to its completion, but those its drain was held: the drain
offset, the drain, and the 48 clocks of its last write, to HBM as to a Sorting store; a held tile does not drain, and an
operation may write nothing (R80). Assumption log 77 (DESIGN CHOICE). -/
def Session.tailClocks (x : Session) (p : Op) : Nat :=
  let q := x.primary p.desc
  let e := x.entry q.prog
  let prog := kProg e
  let silent := dOpcode p.desc = opMatmul ∧ addrClass q.cAddr = 2 ∧ ¬ (progSideOut prog ∧ addrClass q.sideOut ≠ 2) ∧
    ¬ progStatsOut prog ∧ ¬ (kColred e ∧ (prog = 0x11 ∨ prog = 0x13))
  if aHold p.desc then x.drainOffset else x.drainOffset + 1024 + (if silent then 0 else 48)

/-- R80, R555: the tail of the last operation a piece holds is fill, the clocks its drain was held with it, since no next
tile waits. While another operation is launched, the clocks up to its issue are counted as it launches and issues.
Assumption log 77 (DESIGN CHOICE). -/
def State.tail (s : State) (i : Nat) (p : Op) : State :=
  let x := s.session i
  if x.ops.any fun o => o.isArray && o.code ≠ opScrub && o.stage ≠ .started && !(o.ctx = p.ctx && o.seq = p.seq) then s
  else
    match x.piece.last with
    | none => s
    | some (c, k, h) =>
      let h := if aHold p.desc then 0 else h
      let done := max x.piece.operandsAt (c + k + x.tailClocks p + h)
      (s.pieceSlots x 2 (done - x.piece.operandsAt)).onSession i fun x => { x with piece := { x.piece with clock := done } }

/-- R85: the status an array operation completes with. Assumption log 96 (DEDUCED). -/
def Session.arrayStatus (x : Session) (p : Op) : Status :=
  if p.code ≠ opScrub ∧ x.struck (aParty p.desc) ∧ ¬ memoryFailure p.status then stRevoked else p.status

/-- ARRAY_OP_COMPLETE: the operation completes, its streams with it, its signal in issue order. -/
def execArrayOpComplete (o : OpRef) (s : State) : Out :=
  .next <| match s.op? o with
    | some p =>
      let i := o.session
      let x := s.session i
      if s.runsIn 3 ∧ p.isArray ∧ x.arrayDone p then
        let st := x.arrayStatus p
        let s := if p.code = opScrub then s else s.tail i p
        let s := x.dieList.foldl (fun s q => s.addSlots q [(12, 1)]) s
        let s := (if p.code = opScrub then [] else x.streamsOf p (some (p.ctx, p.seq))).foldl
          (fun s q => (s.completeOp i q st).phDone ⟨i, q.ctx, q.seq⟩) s
        (s.completeOp i p st).onSession i fun x =>
          let x := x.settle s.time.now
          if p.code = opScrub then { x with piece := { x.piece with idleSince := s.time.now } } else x
      else s
    | none => s

end Sys2Proof.Machine
end

