-- ==== Sys2Proof/Machine/Reckoner.lean ====
section
/-! DEFINITION. The Reckoner's update (R207 to R220) and privacy noise (R232 to R237, R590). -/

namespace Sys2Proof.Machine

/-! ### RECKON fields, R218 -/

def rkRows (d : Bytes) : Nat := bitsAt d 32 4 23 0
def rkCols (d : Bytes) : Nat := bitsAt d 36 4 23 0
def rkFmt (d : Bytes) : Nat := bitsAt d 40 1 3 0
def rkBlk (d : Bytes) : Bool := bitOf (fieldAt d 40 1) 4
def rkBlockGrain (d : Bytes) : Bool := bitOf (fieldAt d 40 1) 5
def rkSel (d : Bytes) : Bool := bitOf (fieldAt d 40 1) 6
def rkParty (d : Bytes) : Nat := bitsAt d 41 1 4 0

/-- The sign of a value as an FP32 element: +1, −1, 0 or NaN (R207). -/
def signAcc (v : Val) : Acc :=
  match v.sign with
  | none => Acc.const 0x7FC00000
  | some i => if i = 1 then Acc.one else if i = -1 then Acc.one.neg else Acc.zero

/-- The sign as an integer; NaN adds 0 (R209). -/
def signInt (v : Val) : Int := (v.sign).getD 0

/-! ### Gradient rows, R217 -/

/-- Bits of one gradient element in memory or a Sorting store. -/
def gradWidth (fmt : Nat) (store : Bool) : Nat :=
  if fmt = 8 then 16 else if fmt = 9 then 2 else if fmt = 10 then 64 else (Fmt.ofCode fmt).widthIn store

/-- The value whose sign an element's code gives, with its intake count. -/
def gradValue (fmt : Nat) (sel : Bool) (scale code : Nat) : Val × Counts :=
  if fmt = 8 then (Val.ofInt (BitVec.ofNat 16 code).toInt, {})
  else if fmt = 9 then
    (if code = 1 then Val.ofInt 1 else if code = 3 then Val.ofInt (-1) else if code = 2 then Val.nan else Val.ofInt 0,
      if code = 2 then { inNan := 1 } else {})
  else if fmt = 10 then
    let (a, c) := takeF32 (BitVec.ofNat 32 (if sel then code / 2 ^ 32 else code))
    (a.val, c)
  else
    let f := Fmt.ofCode fmt
    let (v, c) := takeElem f (f.codeOf code) (scale = 0xFF)
    (v.mul (e8m0 scale), c)

/-- Row `i` of the gradient. A column-reduction record is one row of 8-byte entries on the top die (R589). -/
def Job.gradRow (j : Job) (d : Bytes) (i : Nat) : Job × List Val :=
  let x := j.st.session j.sess
  let cols := rkCols d
  let addr := fieldAt d 96 8
  let p := if rkFmt d = 10 then x.topPlace addr 0 else x.rowPlace addr i (fieldAt d 112 4)
  let w := gradWidth (rkFmt d) p.isStore
  let (j, b) := j.read p ((w * cols + 7) / 8)
  let (j, sc) :=
    if rkBlk d then
      let (j, sb) := j.read (x.rowPlace (fieldAt d 104 8) i ((cols + 31) / 32)) ((cols + 31) / 32)
      (j, sb.map BitVec.toNat)
    else (j, [])
  let vs := ((unpack w cols b).zip (List.range cols)).map fun ck =>
    gradValue (rkFmt d) (rkSel d) (if rkBlk d then sc.getD (ck.2 / 32) 0x7F else 0x7F) ck.1
  (j.intake (Counts.sum (vs.map (·.2))), vs.map (·.1))

/-! ### The element update, R208 to R210 -/

/-- Next weight, next momentum and sign of one element. -/
structure Upd where
  w : Acc
  m : Acc
  u : Val
  nan : Bool
  deriving DecidableEq, Repr

/-- The scalars of a RECKON. -/
structure Scalars where
  eta : Acc
  lambda : Acc
  beta1 : Acc
  beta2 : Acc
  zeta : Acc
  ob1 : Acc
  ob2 : Acc
  deriving DecidableEq, Repr

def rkScalars (d : Bytes) : Scalars :=
  let b1 := Acc.const (u32 d 52)
  let b2 := Acc.const (u32 d 56)
  { eta := Acc.const (u32 d 44), lambda := Acc.const (u32 d 48), beta1 := b1, beta2 := b2,
    zeta := Acc.const (u32 d 60), ob1 := Acc.sub Acc.one b1, ob2 := Acc.sub Acc.one b2 }

/-- R208 for one element, its scale `s` given (R209). -/
def updateElem (k : Scalars) (s w m : Acc) (g : Val) : Upd :=
  if g.isNan then ⟨w, m, Val.ofInt 0, true⟩
  else
    let gs := signAcc g
    let v := Acc.fma k.beta1 m (Acc.mul k.ob1 gs)
    let u := signAcc v.val
    let t := Acc.fma k.lambda w (Acc.mul s u)
    ⟨Acc.fma k.eta.neg t w, Acc.fma k.beta2 m (Acc.mul k.ob2 gs), v.val, false⟩

/-- R209, block grain: the scale from the block's previous sum. -/
def blockScale (k : Scalars) (db : Int) : Acc :=
  Acc.fma k.zeta.neg (toAcc ((Val.ofInt db.natAbs).scale (-5))) Acc.one

/-- R209, layer grain: the scale from the previous row and column sums. -/
def layerScale (k : Scalars) (rows cols : Nat) (a b : Int) : Acc :=
  let ic := Acc.div Acc.one (accInt cols)
  let ir := Acc.div Acc.one (accInt rows)
  Acc.fma k.zeta.neg (Acc.mul (Acc.mul (accInt a.natAbs) ic) (Acc.mul (accInt b.natAbs) ir)) Acc.one

/-! ### Pages of the parameter region, R213 to R215 -/

/-- The page of copy 0 that an address lies in. -/
def Session.pageOf (x : Session) (a : Nat) : Nat := (a - x.paramBase) / 4096

def Session.pageRec (x : Session) (p : Nat) : Page := Table.get ⟨false, false, 0⟩ x.pages p

/-- Bytes of a page from the ranges an operation writes (start, bytes), where they cover address `a`. -/
def newByte (rs : List (Nat × Bytes)) (a : Nat) : Option Byte :=
  (rs.find? fun r => decide (r.1 ≤ a ∧ a < r.1 + r.2.length)).map fun r => r.2.getD (a - r.1) 0

/-- Read bytes at an address that is already resolved (R213). -/
def Job.readRaw (j : Job) (a len : Nat) : Job × Bytes :=
  let (t, b) := { j with copies := [] }.readHbm a len
  ({ t with copies := j.copies }, b)

/-- R213, R215: write one page's part of the ranges into the pending copy; the first write of an attempt carries the
page's other bytes over from the current copy. -/
def Job.writePage (j : Job) (rs : List (Nat × Bytes)) (page : Nat) : Job :=
  let x := j.st.session j.sess
  let r := x.pageRec page
  let base := x.paramBase + 4096 * page
  let cur := if r.current then base + x.paramSize else base
  let oth := if r.current then base else base + x.paramSize
  let lines := (List.range 64).map fun n => (List.range 64).map fun k => newByte rs (base + 64 * n + k)
  let j := (lines.zip (List.range 64)).foldl (fun j ln =>
    if ln.1.all Option.isNone && r.pending then j
    else if ln.1.all Option.isSome then j.writeHbm (oth + 64 * ln.2) (ln.1.map fun b => b.getD 0)
    else
      let (j, old) := j.readRaw ((if r.pending then oth else cur) + 64 * ln.2) 64
      j.writeHbm (oth + 64 * ln.2) (List.zipWith (fun (b : Option Byte) o => b.getD o) ln.1 old)) j
  { j with st := j.st.onSession j.sess fun x =>
      { x with pages := Table.set ⟨false, false, 0⟩ x.pages page { r with pending := true, step := x.sealRec.step } } }

/-- Write the ranges of an operation, page by page in ascending order. -/
def Job.writeState (j : Job) (rs : List (Nat × Bytes)) : Job :=
  let x := j.st.session j.sess
  let pages := (List.range (x.paramSize / 4096)).filter fun p =>
    rs.any fun r => decide (r.1 < x.paramBase + 4096 * (p + 1) ∧ x.paramBase + 4096 * p < r.1 + r.2.length)
  pages.foldl (fun j p => j.writePage rs p) j

/-! ### The run of a RECKON -/

/-- Signed 32-bit little-endian words. -/
def words32 (n : Nat) (b : Bytes) : List Int := (List.range n).map fun k => (u32 b (4 * k)).toInt

/-- What the state tensors become: updated elements by row and the next sums, from the current tensors. -/
structure RkIn where
  w : List (List Acc)
  m : List (List Acc)
  db : List (List Int)
  a : List Int
  b : List Int
  g : List (List Val)
  deriving DecidableEq, Repr

/-- Read the state tensors and the gradient (R216, R217). -/
def Job.rkRead (j : Job) (d : Bytes) : Job × RkIn :=
  let rows := rkRows d
  let cols := rkCols d
  let nb := (cols + 31) / 32
  let ms := fieldAt d 80 8
  let (j, l) := (List.range rows).foldl (fun (acc : Job × List (List Acc × List Acc × List Int × List Val)) i =>
    let (j, wb) := acc.1.readHbm (fieldAt d 64 8 % 2 ^ 62 + 2 * i * cols) (2 * cols)
    let (ws, cw) := takeBf16 (unpack 16 cols wb)
    let (j, mb) := j.readHbm (fieldAt d 72 8 % 2 ^ 62 + i * cols) cols
    let (j, sb) := if rkBlockGrain d then j.readHbm (ms % 2 ^ 62 + 2 * i * nb) (2 * nb)
      else j.readHbm (ms % 2 ^ 62 + i * nb) nb
    let scaleAt := fun k => (u8 sb (if rkBlockGrain d then 2 * k else k)).toNat
    let mv := ((unpack 8 cols mb).zip (List.range cols)).map fun ck =>
      let (v, c) := takeElem .e4m3 ck.1 (scaleAt (ck.2 / 32) = 0xFF)
      (toAcc (v.mul (e8m0 (scaleAt (ck.2 / 32)))), c)
    let db := (List.range nb).map fun k => if rkBlockGrain d then (u8 sb (2 * k + 1)).toInt else 0
    let j := j.intake (cw.add (Counts.sum (mv.map (·.2))))
    let (j, g) := j.gradRow d i
    (j, (ws, mv.map (·.1), db, g) :: acc.2)) (j, [])
  let l := l.reverse
  let (j, side) :=
    if rkBlockGrain d then (j, []) else j.readHbm (fieldAt d 88 8 % 2 ^ 62) (4 * (rows + cols))
  let sums := words32 (rows + cols) side
  (j, { w := l.map (·.1), m := l.map (·.2.1), db := l.map (·.2.2.1), g := l.map (·.2.2.2),
        a := sums.take rows, b := sums.drop rows })

/-- R208, R209: every element updated. Assumption log 74 (DEDUCED). -/
def rkUpdate (d : Bytes) (t : RkIn) : List (List Upd) :=
  let k := rkScalars d
  (List.range (rkRows d)).map fun i =>
    (List.range (rkCols d)).map fun c =>
      let s :=
        if rkBlockGrain d then blockScale k ((t.db.getD i []).getD (c / 32) 0)
        else layerScale k (rkRows d) (rkCols d) (t.a.getD i 0) (t.b.getD c 0)
      updateElem k s ((t.w.getD i []).getD c Acc.zero) ((t.m.getD i []).getD c Acc.zero)
        ((t.g.getD i []).getD c Val.nan)

/-- Sum of the signs of a list of updates. -/
def sumSigns (l : List Upd) : Int := (l.map fun u => signInt u.u).sum

/-- R211, R216: the bytes of the next copy, as ranges, and the conversion counts. -/
def rkRanges (x : Session) (o : Op) (us : List (List Upd)) : List (Nat × Bytes) × Counts :=
  let d := o.desc
  let cols := rkCols d
  let sigma := fieldAt d 42 2
  let theta := (dTensor d).toNat
  let rw := rndOf 2 x.seed sigma o.step.toNat theta
  let rm := rndOf 2 x.seed sigma o.step.toNat ((theta + 1) % 2 ^ 32)
  let one : Val := .num false 1 1 0
  let rows := us.zip (List.range us.length)
  let wq := rows.map fun ui => quantise .bf16 false 1 one rw (rowElems cols ui.2 0 (ui.1.map (·.w)))
  let mq := rows.map fun ui =>
    (blocks32 (rowElems cols ui.2 0 (ui.1.map (·.m)))).map (quantise .e4m3 true 1 one rm)
  let sums := us.map fun u => (blocks32 u).map sumSigns
  let msb := List.zipWith (fun qs ss => List.zipWith (fun (q : QBlock) (n : Int) =>
    if rkBlockGrain d then [BitVec.ofNat 8 q.scale, BitVec.ofInt 8 n] else [BitVec.ofNat 8 q.scale]) qs ss) mq sums
  let side :=
    (us.map fun u => le 4 (BitVec.ofInt 32 (sumSigns u)).toNat).flatten ++
      ((List.range cols).map fun c =>
        le 4 (BitVec.ofInt 32 (us.map fun u => signInt ((u[c]?.map (·.u)).getD (Val.ofInt 0))).sum).toNat).flatten
  let base := [(fieldAt d 64 8 % 2 ^ 62, (wq.map fun q => pack 16 q.codes).flatten),
    (fieldAt d 72 8 % 2 ^ 62, ((mq.map fun qs => (qs.map fun q => pack 8 q.codes).flatten)).flatten),
    (fieldAt d 80 8 % 2 ^ 62, (msb.map List.flatten).flatten)]
  (if rkBlockGrain d then base else base ++ [(fieldAt d 88 8 % 2 ^ 62, side)],
    (Counts.sum (wq.map (·.counts))).add (Counts.sum (mq.map fun qs => Counts.sum (qs.map (·.counts)))))

/-- The run of a RECKON. It reads each page's current copy as the pages stand and writes pending copies (R214). -/
def State.reckonJob (s : State) (i : Nat) (p : Op) : Job :=
  let d := p.desc
  let j := s.job i p (rkParty d)
  let j := { j with copies := (s.session i).resolution }
  let (j, t) := j.rkRead d
  if j.live then
    let us := rkUpdate d t
    let x := j.st.session i
    let (rs, c) := rkRanges x p us
    let j := (j.count 0xFFFF c).writeState rs
    let j := { j with st := (List.range x.dies).foldl (fun s k =>
      let rows := ((List.range us.length).filter fun r => r / 512 % x.dies = k).length
      s.perfEvent i (x.top + k) 0x040 ((rows * rkCols d + 31) / 32)) j.st }
    let nans := (us.flatten.filter Upd.nan).length
    { j with st := j.st.onSession i fun x =>
        { x with
          upd := { x.upd with updElem := satAdd x.upd.updElem us.flatten.length
                              updNan := satAdd x.upd.updNan nans }
          updNanInAttempt := x.updNanInAttempt || decide (nans ≠ 0) } }
  else j

/-- The first RECKON in start order runs (R220). -/
def Session.reckonTurn (x : Session) (p : Op) : Bool :=
  ((x.ops.find? fun o => o.code = opReckon).map fun o => (o.ctx, o.seq)) = some (p.ctx, p.seq)

/-- RECKON. -/
def execReckon (o : OpRef) (s : State) : Out :=
  .next <| match s.launched o opReckon with
    | some p =>
      if (s.session o.session).reckonTurn p then
        let j := s.reckonJob o.session p
        j.st.finishOp o.session p j.status
      else s
    | none => s

/-! ### Privacy noise -/

def dpRows (d : Bytes) : Nat := bitsAt d 32 4 23 0
def dpCols (d : Bytes) : Nat := bitsAt d 36 4 23 0
def dpParty (d : Bytes) : Nat := bitsAt d 41 1 4 0
def dpInBlk (d : Bytes) : Bool := bitOf (fieldAt d 41 1) 5
def dpSigma (d : Bytes) : W32 := u32 d 52
def dpClip (d : Bytes) : W32 := u32 d 48

/-- R234: every sample lies within ±√(48·ln 2), 0x40B8_9456 rounded to FP32. Assumption log 12 (DESIGN CHOICE). -/
def clampSample (x : W32) : W32 :=
  if (x &&& 0x7FFFFFFF).toNat ≤ 0x40B89456 then x else (x &&& 0x80000000) ||| 0x40B89456

/-! The formula of R234 in binary fixed point: a number stands for that many units of 2^-96. -/

/-- 1.0. -/
def fxOne : Nat := 2 ^ 96

/-- The inverse hyperbolic tangent of `s` from 0 to 1/3, by its series. -/
def fxAtanh (s : Nat) : Nat :=
  let q := s * s / fxOne
  ((List.range 34).foldl (fun (acc : Nat × Nat) j => (acc.1 * q / fxOne, acc.2 + acc.1 / (2 * j + 1))) (s, 0)).2

/-- The natural logarithm of `k` from 1 on: k = 2^e · m with m from 1 below 2, and ln m = 2·atanh((m − 1) / (m + 1)). -/
def fxLn (k : Nat) : Nat :=
  let e := Nat.log2 k
  let m := k * fxOne / 2 ^ e
  e * (2 * fxAtanh (fxOne / 3)) + 2 * fxAtanh ((m - fxOne) * fxOne / (m + fxOne))

/-- A series of terms t, −t·φ²/(d·(d + 1)), and so on, `d` rising by two: the sine from t = φ and d = 2, the cosine from
t = 1 and d = 1. -/
def fxSeries (phi t d : Nat) : Int :=
  ((List.range 24).foldl (fun (acc : Nat × Int) j =>
    (acc.1 * (phi * phi / fxOne) / fxOne / ((d + 2 * j) * (d + 2 * j + 1)), if j % 2 = 0 then acc.2 + acc.1 else acc.2 - acc.1))
    (t, 0)).2

/-- cos(2π · k / 2^24), by quadrants of 2^22. -/
def fxCosTurn (k : Nat) : Int :=
  let phi := 0x3243F6A8885A308D313198A2E * (k % 2 ^ 22) / 2 ^ 23
  match k / 2 ^ 22 % 4 with
  | 0 => fxSeries phi fxOne 1
  | 1 => -(fxSeries phi phi 2)
  | 2 => -(fxSeries phi fxOne 1)
  | _ => fxSeries phi phi 2

/-- R234: √(−2·ln u1)·cos(2π·u2) with u1 := (⌊w1 / 2^8⌋ + 1)·2^-24 and u2 := ⌊w2 / 2^8⌋·2^-24. -/
def fxGauss (w1 w2 : W32) : Int :=
  let neg2ln := 2 * (fxLn (2 ^ 24) - fxLn (w1.toNat / 256 + 1))
  (isqrt 200 (neg2ln * fxOne) : Int) * fxCosTurn (w2.toNat / 256) / (fxOne : Int)

/-- R234: a noise sample of two lane words: the formula as binary64 gives it, rounded once to FP32.
Assumption log 12 (DESIGN CHOICE). -/
def gaussSample (w1 w2 : W32) : W32 :=
  let e := Config.gaussError w1 w2
  let n := fxGauss w1 w2 + ((e % 2 ^ 13 : Nat) - 2 ^ 12 : Int) * 2 ^ 44
  clampSample (toAcc (.num (if n = 0 then e / 2 ^ 13 % 2 = 1 else n < 0) n.natAbs 1 (-96))).value

/-- `n` samples drawn from the lanes from the `k`-th draw on. Assumption log 12 (DESIGN CHOICE). -/
def drawSamples (k n : Nat) : List W32 :=
  (List.range n).map fun i => gaussSample (Config.laneWord (k + 2 * i)) (Config.laneWord (k + 2 * i + 1))

/-- R236: bytes a record of `n` samples takes of a party's noise store. -/
def noiseBytes (n : Nat) : Nat := (4 * n + 4095) / 4096 * 4096 + 4096

def Session.noiseUsed (x : Session) (party : Nat) : Nat :=
  ((x.noise.filter fun r => r.party = party).map fun r => noiseBytes r.samples.length).sum

/-- The held record of a step, party and tensor (R236). -/
def Session.noiseRec? (x : Session) (party : Nat) (tensor : W32) : Option NoiseRec :=
  x.noise.find? fun r => r.party = party ∧ r.tensor = tensor ∧ r.step = x.sealRec.step

/-- Read the input rows with their block scales (R590, R589). -/
def Job.dpRead (j : Job) (d : Bytes) : Job × List (List Acc) :=
  let x := j.st.session j.sess
  let f := Fmt.ofCode (bitsAt d 40 1 3 0)
  let cols := dpCols d
  let (j, l) := (List.range (dpRows d)).foldl (fun (acc : Job × List (List Acc)) r =>
    let p := x.rowPlace (fieldAt d 56 8) r (fieldAt d 72 4)
    let w := f.widthIn p.isStore
    let (j, b) := acc.1.read p ((w * cols + 7) / 8)
    let (j, sb) := if dpInBlk d then j.read (x.rowPlace (fieldAt d 64 8) r ((cols + 31) / 32)) ((cols + 31) / 32)
      else (j, [])
    let vs := ((unpack w cols b).zip (List.range cols)).map fun ck =>
      let sc := if dpInBlk d then (u8 sb (ck.2 / 32)).toNat else 0x7F
      let (v, c) := takeElem f (f.codeOf ck.1) (sc = 0xFF)
      (toAcc (v.mul (e8m0 sc)), c)
    let c := Counts.sum (vs.map (·.2))
    ((j.intake c).intake c, vs.map (·.1) :: acc.2)) (j, [])
  (j, l.reverse)

/-- R233: the sum of squares in its fixed order, and the factor that clips to the norm. Where nothing is clipped the factor is
1, and an overflow of the sum does not reach the outputs. Assumption log 92 (DESIGN CHOICE). -/
def clipFactor (clip : Acc) (rows : List (List Acc)) : Acc :=
  let sums := rows.map fun r => sumFma r r
  let groups := (runsOf 512 (sums.length / 512 + 1) sums).map groupTree
  let nrm := Acc.sqrt (sumAcc groups)
  if nrm.nan then Acc.div clip nrm
  else if nrm.val.compare clip.val ≤ (0 : Int) then Acc.one else Acc.div clip nrm

/-- The byte spans of rows written at an address and pitch (R237, R589). -/
def Session.rowSpans (x : Session) (addr pitch rows len : Nat) : List Span :=
  match addrClass addr with
  | 0 => (List.range x.dies).filterMap fun k =>
      let mine := (List.range rows).filter fun r => r / 512 % x.dies = k
      if mine.isEmpty then none else some ⟨x.top + k, addrOff addr, (mine.length - 1) * pitch + len⟩
  | 1 => [⟨4, addrOff addr, (rows - 1) * pitch + len⟩]
  | _ => []

/-- The output of a DP_NOISE. -/
def dpOut (d : Bytes) : OutSpec :=
  { fmt := bitsAt d 40 1 7 4, srec := fieldAt d 44 2, rnd := 2, sigma := fieldAt d 42 2, theta := (dTensor d).toNat,
    width := dpCols d, addr := fieldAt d 80 8, pitch := fieldAt d 76 4, dual := false, dualAddr := noAddr }

/-- R237: the record of a completed output. -/
def Session.noiseOut (x : Session) (d : Bytes) : NoiseOut :=
  let sp := dpOut d
  let w := (Fmt.ofCode sp.fmt).widthIn (addrClass sp.addr = 0)
  let nb := (dpCols d + 31) / 32
  { party := dpParty d, data := x.rowSpans sp.addr sp.pitch (dpRows d) ((w * dpCols d + 7) / 8),
    scale := if x.blockScaled sp.fmt sp.srec then
        x.rowSpans (x.scaleRec sp.srec).scaleAddr.toNat nb (dpRows d) nb else [] }

/-- R233: what one element becomes. -/
def noisyElem (sigma : W32) (k c g : Acc) (n : W32) : Acc :=
  if sigma = 0 then Acc.mul g c else Acc.fma k (Acc.const n) (Acc.mul g c)

/-- R233, R237: read, clip, add noise, convert and write; the output is recorded when it ends well. -/
def State.noiseJob (s : State) (i : Nat) (p : Op) (samples : List W32) : Job :=
  let d := p.desc
  let s := s.useBoards i (dpParty d)
  let (j, g) := (s.job i p (dpParty d)).dpRead d
  let clip := Acc.const (dpClip d)
  let c := clipFactor clip g
  let k := Acc.mul (Acc.const (dpSigma d)) clip
  let rows := (g.zip (List.range g.length)).map fun rk =>
    (rk.2, (rk.1.zip (List.range rk.1.length)).map fun gc =>
      noisyElem (dpSigma d) k c gc.1 (samples.getD (rk.2 * dpCols d + gc.2) 0))
  let j := j.convertRows p (dpOut d) 0 rows
  { j with st := j.st.onSession i fun x =>
      { x with outputs := if x.noiseEn ∧ j.status = stOk then x.outputs ++ [x.noiseOut d] else x.outputs
               noiseRan := x.noiseRan || decide (dpSigma d ≠ 0) } }

/-- R235, R236: the samples of a DP_NOISE: none for SIGMA +0, held ones on a replay, fresh ones on a first attempt; or
the status with which its context stops. -/
def State.noiseSamples (s : State) (i : Nat) (d : Bytes) : State × Except Status (List W32) :=
  let x := s.session i
  let n := dpRows d * dpCols d
  if dpSigma d = 0 then (s, .ok [])
  else if x.sealRec.attempt ≠ 0 then
    match x.noiseRec? (dpParty d) (dTensor d) with
    | some r => if r.samples.length = n then (s, .ok r.samples) else (s, .error stRefused)
    | none => (s, .error stRefused)
  else if x.noiseUsed (dpParty d) + noiseBytes n > x.cfgField 44 4 * 2 ^ 20 then (s, .error stNoResource)
  else
    let l := drawSamples s.draws n
    let r : NoiseRec := { party := dpParty d, step := x.sealRec.step, tensor := dTensor d, samples := l }
    (({ s with draws := s.draws + 2 * n }).onSession i fun x =>
      { x with noise := x.noise ++ [r]
               upd := { x.upd with noiseElem := satAdd x.upd.noiseElem n } }, .ok l)

/-- Noise lanes in service (R235). -/
def State.laneCount (s : State) : Nat := ((List.range 64).filter fun k => s.lanes.getLsbD k).length

/-- A DP_NOISE that must draw from the lanes. -/
def Session.mustDraw (x : Session) (d : Bytes) : Bool := dpSigma d ≠ 0 && x.sealRec.attempt = 0

/-- DP_NOISE. -/
def execDpNoise (o : OpRef) (s : State) : Out :=
  .next <| match s.launched o opNoise with
    | some p =>
      let i := o.session
      let x := s.session i
      if x.struck (dpParty p.desc) then s.finishOp i p stRevoked
      else if x.noiseEn ∧ 1024 ≤ x.outputs.length then s.stopOp i p stNoResource
      else if x.mustDraw p.desc ∧ s.laneCount < 16 then
        (s.onSession i fun x => x.reason rsNoise).finishOp i p stRefused
      else
        match s.noiseSamples i p.desc with
        | (s, .error st) => s.stopOp i p st
        | (s, .ok l) =>
          let j := s.noiseJob i p l
          j.st.finishOp i p j.status
    | none => s

/-- NOISE_LANE_FAIL: the lane leaves service until the next Cold reset (R235). -/
def execNoiseLaneFail (lane : Nat) (s : State) : Out := .next { s with lanes := clrBit s.lanes lane }

end Sys2Proof.Machine
end

