-- ==== Sys2Proof/Machine/Krelas.lean ====
section
/-! DEFINITION. Krelas ports: keys, flits, control blocks, retry, credits, training and routing (R240 to R261). -/

namespace Sys2Proof.Machine

/-! ### Ports and keys -/

def State.port (s : State) (p : Nat) : Port := vget Port.reset s.ports p
def State.setPort (s : State) (p : Nat) (q : Port) : State := { s with ports := vset s.ports p q }
def State.onPort (s : State) (p : Nat) (f : Port → Port) : State := s.setPort p (f (s.port p))

/-- A port that carries flits. -/
def Port.runs (q : Port) : Bool := q.state = .up ∨ q.state = .degraded

/-- Bits [7:0] of the generation of the session's link slot (R248, R284). -/
def State.linkGen (s : State) (i : Nat) : Nat :=
  match s.slotOf i .link with
  | some n => (vget KeySlot.reset s.slots n).gen.toNat % 256
  | none => 0

/-- The session's link key has been struck and not replaced (R385). Assumption log 94 (DESIGN CHOICE). -/
def State.linkStruck (s : State) (i : Nat) : Bool :=
  match s.slotOf i .link with
  | some n => (vget KeySlot.reset s.slots n).key.isEmpty
  | none => false

/-- This module's consignment rank in a session; 0 outside a consignment. -/
def Session.rank (x : Session) : Nat := match x.consign with | some c => c.rank | none => 0

/-- R251, R253: the key of one port direction. -/
def linkDirKey (info : String) (linkKey : Bytes) (epoch : W64) (srcRank srcPort dstRank dstPort : Nat) : Bytes :=
  Crypto.hkdf linkKey (w64 epoch)
    (ascii info ++ le 2 srcRank ++ le 1 srcPort ++ le 2 dstRank ++ le 1 dstPort) 32

/-- Key of what port `p` sends (`out`) or receives. -/
def State.portKey (s : State) (p : Nat) (info : String) (out : Bool) : Bytes :=
  let q := s.port p
  let i := q.session.toNat
  let r := (s.session i).rank
  let k := s.slotKey i .link
  if out then linkDirKey info k q.keyEpoch r p q.peerRank.toNat q.peerPort.toNat
  else linkDirKey info k q.keyEpoch q.peerRank.toNat q.peerPort.toNat r p

/-- A port goes down with a reason (R247): 1 TRAINING, 2 PEER, 3 TAG_LIMIT, 4 LANES, 5 UNBOUND. -/
def Port.down (q : Port) (reason : Nat) : Port :=
  { q with state := .down, downReason := BitVec.ofNat 4 reason, lanes := 0 }

/-- R247, R252, R288: a tag failure; the eighth in an epoch takes the port down. -/
def Port.tagFailed (q : Port) : Port :=
  let q := { q with tagFail := satAdd q.tagFail 1, epochTagFail := satAdd q.epochTagFail 1 }
  if 8 ≤ q.epochTagFail.toNat then q.down 3 else q

/-- R252, R253: a counter that reaches its last value takes the port down with TAG_LIMIT. -/
def Port.limit (q : Port) : Port :=
  if [q.txSlot, q.rxSlot, q.txCtl, q.rxCtl].contains (BitVec.allOnes 64) then q.down 3 else q

/-! ### Control blocks, R253 -/

/-- A sealed control block. -/
def ctlBlock (key : Bytes) (counter : W64) (ctype : Nat) (body : Bytes) : Bytes :=
  let head := le 1 ctype ++ zeros 3 ++ padTo 12 (body.take 12)
  head ++ Crypto.gcmTag key (le 1 2 ++ zeros 3 ++ w64 counter) head []

/-- Send a control block. -/
def State.sendCtl (s : State) (p ctype : Nat) (body : Bytes) : State :=
  let b := ctlBlock (s.portKey p "KRELAS-CTRL" true) (s.port p).txCtl ctype body
  s.onPort p fun q => Port.limit { q with txCtl := q.txCtl + 1, sentBlocks := b :: q.sentBlocks }

/-- Receive a control block of a type: its body when its tag verifies. -/
def State.takeCtl (s : State) (p ctype : Nat) (block : Bytes) : State × Option Bytes :=
  let q := s.port p
  let head := slice block 0 16
  let tag := Crypto.gcmTag (s.portKey p "KRELAS-CTRL" false) (le 1 2 ++ zeros 3 ++ w64 q.rxCtl) head []
  let s := s.onPort p fun q => Port.limit { q with rxCtl := q.rxCtl + 1 }
  if slice block 16 16 ≠ tag then (s.onPort p Port.tagFailed, none)
  else if (u8 block 0).toNat = ctype ∧ zeroRange block 1 3 then (s, some (slice block 4 12))
  else (s, none)

/-- A bound port in one of the states that exchange control blocks. -/
def State.ctlReady (s : State) (p : Nat) (f : Port → Bool) : Bool := (s.port p).bound && f (s.port p)

/-! ### Flits, R248 to R252 -/

/-- The flit header. -/
def flitHeader (f : OutFlit) (gen seq : Nat) : Bytes :=
  le 8 (f.type + gen % 256 * 2 ^ 4 + f.dst * 2 ^ 12 + f.src * 2 ^ 23 + seq % 4096 * 2 ^ 34 + f.payload.length * 2 ^ 46 +
    boolNat f.first * 2 ^ 54 + boolNat f.last * 2 ^ 55 + (if f.type = 1 then 2 ^ 56 else 0))

/-- The nonce of a slot. -/
def flitNonce (slot : W64) : Bytes := le 1 1 ++ zeros 3 ++ w64 slot

/-- A sealed flit of 256 bytes. -/
def sealFlit (key : Bytes) (slot : W64) (f : OutFlit) (gen seq : Nat) : Bytes :=
  let h := flitHeader f gen seq
  let (ct, tag) := Crypto.gcmSeal key (flitNonce slot) h (padTo 232 f.payload)
  h ++ ct ++ tag

/-- IDLE. -/
def idleFlit : OutFlit := ⟨0, 0, 0, false, false, [], 0, none⟩

/-- What a port puts in its next slot (R249, R254, R255): a retransmission, a control flit, a data flit, or IDLE. -/
inductive Slot where
  | again (seq : BitVec 12) (f : OutFlit)
  | control (f : OutFlit)
  | data (f : OutFlit)
  | idle
  deriving DecidableEq, Repr

/-- The data flit a port sends next: its streams take turns, in ascending destination and then source rank.
Assumption log 67 (DESIGN CHOICE). -/
def Port.nextData (q : Port) : Option OutFlit :=
  let key := fun (f : OutFlit) => f.dst * 2048 + f.src
  let later := q.data.filter fun f => decide (q.lastStream < key f)
  let pool := if later.isEmpty then q.data else later
  pool.foldl (fun best f => match best with
    | none => some f
    | some g => if key f < key g then some f else best) none

def Port.nextSlot (q : Port) : Slot :=
  match q.resend with
  | (n, f) :: _ => .again n f
  | [] =>
    if 2048 ≤ q.window.length then .idle
    else
      match q.control, q.nextData with
      | f :: _, d => if q.ctlCredits ≠ 0 then .control f
                     else match d with
                       | some d => if q.dataCredits ≠ 0 then .data d else .idle
                       | none => .idle
      | [], some d => if q.dataCredits ≠ 0 then .data d else .idle
      | [], none => .idle

/-- A port's queues after a slot. -/
def Port.afterSlot (q : Port) (k : Slot) : Port :=
  let q := Port.limit { q with txSlot := q.txSlot + 1 }
  match k with
  | .again n f => { q with resend := q.resend.drop 1, window := q.window ++ [(n, f)], retry := satAdd q.retry 1 }
  | .control f => { q with control := q.control.drop 1, window := q.window ++ [(q.txSeq, f)], txSeq := q.txSeq + 1,
                           ctlCredits := q.ctlCredits - 1 }
  | .data f => { q with data := q.data.erase f, lastStream := f.dst * 2048 + f.src, window := q.window ++ [(q.txSeq, f)], txSeq := q.txSeq + 1,
                        dataCredits := q.dataCredits - 1, dataTx := satAdd q.dataTx 1 }
  | .idle => q

/-- R250: a RESET flit that is about to leave carries the postmark of its first bit. -/
def Port.stampReset (q : Port) (now : W64) : Port :=
  match q.control with
  | f :: rest => if f.type = 5 then { q with control := { f with payload := zeros 8 ++ w64 now } :: rest } else q
  | [] => q

/-- R284: what a port still held of an earlier generation of the link key leaves its queues and its retry store.
Assumption log 94 (DESIGN CHOICE). -/
def Port.purge (q : Port) (gen : Nat) : Port :=
  let new := fun (f : OutFlit) => f.gen = gen
  { q with window := q.window.filter fun e => new e.2, resend := q.resend.filter fun e => new e.2,
           control := q.control.filter new, data := q.data.filter new }

/-- FLIT_SLOT: a port transmits one sealed flit; without a link key it transmits nothing. -/
def execFlitSlot (p : Nat) (s : State) : Out :=
  .next <|
    let i := (s.port p).session.toNat
    let q := ((s.port p).purge (s.linkGen i)).stampReset s.time.now
    if ¬ q.bound then s
    else if ¬ q.runs ∨ s.linkStruck i then s.setPort p ((s.port p).purge (s.linkGen i))
    else if q.txSlot = BitVec.allOnes 64 then s.setPort p (q.down 3)
    else
      let k := q.nextSlot
      let (n, f) : BitVec 12 × OutFlit := match k with
        | .again n f => (n, f) | .control f => (q.txSeq, f) | .data f => (q.txSeq, f) | .idle => (q.txSeq, idleFlit)
      let b := sealFlit (s.portKey p "KRELAS-FLIT" true) q.txSlot f (s.linkGen i) n.toNat
      let s := match k with
        | .data _ => s.perfEvent i (4 + p / 9) (0x200 + p) 1
        | .again _ _ => s.perfEvent i (4 + p / 9) (0x240 + p) 1
        | _ => s
      s.setPort p { q.afterSlot k with wire := b }

/-- A flit as received. -/
structure InFlit where
  flit : OutFlit
  gen : Nat
  seq : BitVec 12
  deriving DecidableEq, Repr

/-- R251, R252: open a received flit under the receiver's slot counter. -/
def openFlit (key : Bytes) (slot : W64) (b : Bytes) : Option InFlit :=
  let h := fieldAt b 0 8
  match Crypto.gcmOpen key (flitNonce slot) (slice b 0 8) (slice b 8 232) (slice b 240 16) with
  | some pl =>
    some ⟨⟨bitsOf h 3 0, bitsOf h 22 12, bitsOf h 33 23, bitOf h 54, bitOf h 55, pl.take (bitsOf h 53 46), bitsOf h 11 4, none⟩,
      bitsOf h 11 4, BitVec.ofNat 12 (bitsOf h 45 34)⟩
  | none => none

/-- R254: the receiver discards from a SEQ on and asks for it again; it asks at every failure, since the flit sent again
may fail in its turn. Assumption log 94 (DESIGN CHOICE). -/
def State.nak (s : State) (p : Nat) : State :=
  if (s.port p).runs then (s.onPort p fun q => { q with discarding := true }).sendCtl p 2 (le 2 (s.port p).rxSeq.toNat)
  else s

/-- R252: a slot of a running port is counted, with the codewords corrected before it (R247).
Assumption log 94 (DESIGN CHOICE). -/
def State.countSlot (s : State) (p : Nat) : State :=
  if (s.port p).runs then
    ({ s with draws := s.draws + 1 } : State).onPort p fun q =>
      Port.limit { q with rxSlot := q.rxSlot + 1, fecCorrected := satAdd q.fecCorrected (Config.correctedCodewords s.draws) }
  else s

/-- R254, R255: a verified flit in its place in the order is delivered and acknowledged; one delivered before is
acknowledged again, and a later one is discarded. -/
def State.inOrder (s : State) (p : Nat) (f : InFlit) : State × Option InFlit :=
  let n := (s.port p).rxSeq
  if f.flit.type = 0 then (s, none)
  else if f.seq = n then
    let s := s.onPort p fun q => { q with rxSeq := q.rxSeq + 1, discarding := false }
    let s := s.sendCtl p 1 (le 2 f.seq.toNat)
    (if f.flit.type = 1 then s else s.sendCtl p 3 (le 2 0 ++ le 2 1), some f)
  else if (n - f.seq).toNat ≤ 2048 then (s.sendCtl p 1 (le 2 (n - 1).toNat), none)
  else (s, none)

/-- R252 to R255: receive one flit on a running port: the slot is counted, the tag checked and the order kept. Answers
the flit when it is delivered. A port asked to go idle takes none (R513). Assumption log 32 (DEDUCED). -/
def State.takeFlit (s : State) (p : Nat) (b : Bytes) : State × Option InFlit :=
  let q := s.port p
  let key := s.portKey p "KRELAS-FLIT" false
  let struck := s.linkStruck q.session.toNat
  let s := s.countSlot p
  if !(q.runs && (s.port p).runs) || struck then (s, none)
  else
    match openFlit key q.rxSlot b with
    | none => ((s.onPort p Port.tagFailed).nak p, none)
    | some f => if s.blockHeld (.port p) then (s, none) else s.inOrder p f

/-- Return one data credit to a port's peer (R255). -/
def State.creditBack (s : State) (p : Nat) : State := s.sendCtl p 3 (le 2 1 ++ le 2 0)

/-- R257, R258: the running port of the session toward a rank; one asked to go idle takes no new flit (R513).
Assumption log 32 (DEDUCED). -/
def State.route (s : State) (x : Session) (dst : Nat) : Option Nat :=
  let e := (u8 x.routing (2048 * x.rank + dst)).toNat
  let p := e % 32
  if bitOf e 7 ∧ bitOf x.portMask p ∧ (s.port p).runs ∧ ¬ s.blockHeld (.port p) then some p else none

/-- R282: flits that leave the module's queues unacknowledged: the descriptors that sent them cannot complete.
Assumption log 67 (DESIGN CHOICE). -/
def State.neverAcked (s : State) (i : Nat) (fs : List OutFlit) : State :=
  let ws := fs.filterMap (·.work)
  if ws.isEmpty then s else s.onSession i fun x => { x with unsent := x.unsent ++ ws.filter fun w => !x.unsent.contains w }

/-- R258: queue a flit toward its destination, or drop it and count it. -/
def State.forward (s : State) (i : Nat) (f : OutFlit) : State :=
  let f := { f with gen := s.linkGen i }
  match s.route (s.session i) f.dst with
  | some p => s.onPort p fun q => if f.type = 1 then { q with data := q.data ++ [f] } else { q with control := q.control ++ [f] }
  | none => (s.onSession i fun x => { x with coll := { x.coll with routeDrop := satAdd x.coll.routeDrop 1 } }).neverAcked i [f]

/-- UNCORRECTABLE_CODEWORD: the slot is counted and the flit discarded (R252, R254). -/
def execUncorrectableCodeword (p : Nat) (s : State) : Out :=
  .next <|
    if (s.port p).runs then
      ((s.countSlot p).onPort p fun q => { q with fecUncorrectable := satAdd q.fecUncorrectable 1 }).nak p
    else s

/-! ### Retry and credits -/

/-- The flits not acknowledged, in SEQ order: those sent, then those to be sent again. -/
def Port.unacked (q : Port) : List (BitVec 12 × OutFlit) := q.window ++ q.resend

/-- Distance of a SEQ from the oldest flit not acknowledged. -/
def Port.winPos (q : Port) (seq : BitVec 12) : Option Nat :=
  (q.unacked.zip (List.range q.unacked.length)).findSome? fun e => if e.1.1 = seq then some e.2 else none

/-- The oldest `k` flits are acknowledged. -/
def Port.release (q : Port) (k : Nat) : Port :=
  { q with window := q.window.drop k, resend := q.resend.drop (k - q.window.length) }

/-- Every flit not acknowledged is sent again (R254). -/
def Port.again (q : Port) : Port := { q with window := [], resend := q.unacked }

/-- ACK: flits up to the named SEQ are acknowledged. -/
def Port.acked (q : Port) (seq : BitVec 12) : Port :=
  match q.winPos seq with
  | some k => q.release (k + 1)
  | none => q

/-- NAK: flits before the named SEQ are acknowledged, and the others are sent again. -/
def Port.naked (q : Port) (seq : BitVec 12) : Port :=
  match q.winPos seq with
  | some k => (q.release k).again
  | none => q

/-- CREDIT. -/
def execCredit (p : Nat) (block : Bytes) (s : State) : Out :=
  .next <|
    if s.ctlReady p Port.runs then
      match s.takeCtl p 3 block with
      | (s, some b) => s.onPort p fun q =>
          { q with dataCredits := q.dataCredits + u16 b 0, ctlCredits := q.ctlCredits + u16 b 2 }
      | (s, none) => s
    else s

/-! ### Training and keying -/

/-- R256, R324: a port enters KEYING with keys of the session's epoch; counters restart with the keys and HELLO is
sent. PEER_RANK and PEER_PORT lock (R246). Credits stay as they are: a flit sent again holds the buffer it was given. -/
def State.enterKeying (s : State) (p : Nat) : State :=
  let x := s.session (s.port p).session.toNat
  let s := s.onPort p fun q =>
    { q.again with state := .keying, peerLocked := true, keyEpoch := x.epoch, txSlot := 0, rxSlot := 0, txCtl := 0,
                   rxCtl := 0, keyingSince := s.time.now, discarding := false }
  s.sendCtl p 0 (le 2 x.rank ++ le 1 p)

/-- R254, R255: a port that has trained starts afresh: SEQ counts from 0 both ways, no buffer is granted, and what was
not acknowledged goes out again first. Assumption log 94 (DESIGN CHOICE). -/
def Port.afresh (q : Port) : Port :=
  let l := q.unacked.map (·.2)
  { q with txSeq := 0, rxSeq := 0, window := [], resend := [], dataCredits := 0, ctlCredits := 0, owed := 0, granted := false,
           control := l.filter (fun f => f.type ≠ 1) ++ q.control, data := l.filter (fun f => f.type = 1) ++ q.data }

/-- R244: the lanes a port runs on when some have failed: all, or the half that holds none of them. -/
def goodLanes (failed : Byte) : Option Byte :=
  if failed = 0 then some 0xFF
  else if failed &&& 0x0F = 0 then some 0x0F
  else if failed &&& 0xF0 = 0 then some 0xF0
  else none

/-- R316, R256: a trained port of a session goes into KEYING once CONSIGN_CONFIG has been accepted; until then it stays
in TRAINING with its lanes. -/
def State.startKeying (s : State) (p : Nat) : State :=
  let q := s.port p
  if q.state = .training ∧ q.lanes ≠ 0 ∧ (s.session q.session.toNat).consign.isSome then s.enterKeying p else s

/-- PORT_TRAINING_DONE: the delay limit of 100 ns in units of 1/16 ns (R243), then KEYING, which waits for the session's
CONSIGN_CONFIG (R316). A lane that did not train counts as failed (R244). A port in a Block reset does not train (R512).
Assumption log 94 (DESIGN CHOICE). -/
def execPortTrainingDone (p : Nat) (delay : BitVec 16) (lanes : BitVec 8) (s : State) : Out :=
  .next <|
    if (s.port p).state = .training ∧ ¬ s.blockHeld (.port p) then
      let s := s.onPort p fun q => { q.afresh with cableDelay := delay, failedLanes := ~~~lanes }
      if 1600 < delay.toNat then s.onPort p fun q => q.down 1
      else
        match goodLanes (~~~lanes) with
        | none => s.onPort p fun q => q.down 4
        | some l => (s.onPort p fun q => { q with lanes := l }).startKeying p
    else s

/-- HELLO: the port goes UP, or DEGRADED on half its lanes, and grants its buffers (R255, R256). -/
def execHello (p : Nat) (block : Bytes) (s : State) : Out :=
  .next <|
    if s.ctlReady p fun q => q.state = .keying then
      match s.takeCtl p 0 block with
      | (s, some b) =>
        let q := s.port p
        if q.state = .keying ∧ fieldAt b 0 2 = q.peerRank.toNat ∧ (u8 b 2).toNat = q.peerPort.toNat then
          let s := s.onPort p fun q => { q with state := if q.lanes = 0xFF then .up else .degraded, downReason := 0, granted := true }
          if q.granted then s else s.sendCtl p 3 (le 2 1024 ++ le 2 64)
        else s
      | (s, none) => s
    else s

/-- HELLO_TIMEOUT: 1 ms without a valid HELLO (R256). Assumption log 85 (DESIGN CHOICE). -/
def execHelloTimeout (p : Nat) (s : State) : Out :=
  .next <|
    let q := s.port p
    if q.state = .keying ∧ q.keyingSince.toNat + ns 1000000 ≤ s.now then s.setPort p (q.down 2) else s

/-- LANE_FAILURE: a port that has trained retrains on the half that holds no failed lane, or goes down (R244). Flits in
flight are sent again. -/
def execLaneFailure (p lane : Nat) (s : State) : Out :=
  .next <|
    let q := s.port p
    let trained := decide (q.state = .training ∧ q.lanes ≠ 0)
    if q.runs ∨ q.state = .keying ∨ trained then
      let f := setBit q.failedLanes lane
      let q := { q with failedLanes := f }
      match goodLanes f with
      | some l => s.setPort p { q.again with state := if q.runs then .degraded else q.state, lanes := l }
      | none => s.setPort p (q.down 4)
    else s

/-- PEER_LOSS: the port goes DOWN with reason PEER; it trains again when ENABLE is written 0 and then 1 (R246, R250). -/
def execPeerLoss (p : Nat) (s : State) : Out :=
  .next <| if (s.port p).runs then s.onPort p fun q => q.down 2 else s

end Sys2Proof.Machine
end

