-- ==== Sys2Proof/Machine/Collective.lean ====
section
/-! DEFINITION. The Sorting Office: collectives (R262 to R283), their reductions (R270 to R275), chunks and flits that
carry them (R278 to R284), and the residue check (R285 to R289). -/

namespace Sys2Proof.Machine

/-! ### Descriptor fields, R264 -/

def clId (d : Bytes) : Nat := fieldAt d 32 4
def clGroup (d : Bytes) : Nat := bitsAt d 36 1 3 0
def clS (d : Bytes) : Nat := bitsAt d 36 1 7 4 + 1
def clOp (d : Bytes) : Nat := bitsAt d 37 1 1 0
def clPart (d : Bytes) : Fmt := if bitOf (fieldAt d 37 1) 2 then .bf16 else .fp32
def clRnd (d : Bytes) : Nat := bitsAt d 37 1 4 3
def clGrad (d : Bytes) : Bool := bitOf (fieldAt d 37 1) 5
def clInBlk (d : Bytes) : Bool := bitOf (fieldAt d 37 1) 6
def clIn (d : Bytes) : Nat := bitsAt d 38 1 3 0
def clOut (d : Bytes) : Nat := bitsAt d 38 1 7 4
def clElems (d : Bytes) : Nat := fieldAt d 40 5
def clOutParty (d : Bytes) : Nat := bitsAt d 45 1 4 0
def clSrcAddr (d : Bytes) : Nat := fieldAt d 48 8
def clDst (d : Bytes) : Nat := fieldAt d 64 8
def clDstS (d : Bytes) : Nat := fieldAt d 72 8
def clOutSrec (d : Bytes) : Nat := fieldAt d 90 2

def opExchange : Nat := 0x0501
def opExchangeV : Nat := 0x0502
def opReduceScatter : Nat := 0x0503
def opAllGather : Nat := 0x0504
def opAllReduce : Nat := 0x0505

/-- The opcodes that reduce. -/
def clReduces (d : Bytes) : Bool := dOpcode d = opReduceScatter || dOpcode d = opAllReduce

/-! ### Groups and ranges -/

/-- R262: a group's members. Group 0 is every member in rank order. -/
def Session.groupOf (x : Session) (g : Nat) : List Nat :=
  if g = 0 then List.range (match x.consign with | some c => c.members | none => 1) else x.groups.getD (g - 1) []

/-- Position of a rank in a list. -/
def groupRank (l : List Nat) (r : Nat) : Nat := (l.findIdx? (· = r)).getD 0

/-- R277: the output elements that group rank `i` of `g` owns of an ALL_REDUCE of `n`. -/
def ownedRange (n g i : Nat) : Nat × Nat :=
  let nb := n / 32
  (32 * (i * nb / g), 32 * ((i + 1) * nb / g) - 32 * (i * nb / g))

/-- R266: the source elements that group rank `i` reduces: first and number. -/
def reduceRange (d : Bytes) (g i : Nat) : Nat × Nat :=
  if dOpcode d = opReduceScatter then (i * clElems d, clElems d) else ownedRange (clElems d) g i

/-- Elements of each source tensor. -/
def sourceElems (d : Bytes) (g : Nat) : Nat :=
  if dOpcode d = opExchange ∨ dOpcode d = opReduceScatter then g * clElems d else clElems d

/-- Elements of the output tensor. -/
def outputElems (d : Bytes) (g : Nat) : Nat :=
  if dOpcode d = opExchange ∨ dOpcode d = opAllGather then g * clElems d else clElems d

/-- Bits of an element of a flat tensor at an address. Assumption log 65 (DEDUCED). -/
def flatWidth (fmt addr : Nat) : Nat := gradWidth fmt (addrClass addr = 0)

/-- The bytes that `n` elements from element `k` on take at an address. -/
def Session.flatSpan (x : Session) (fmt addr k n : Nat) : Span :=
  let w := flatWidth fmt addr
  ⟨if addrClass addr = 0 then x.top else 4, addrOff addr + w * k / 8, (w * n + 7) / 8⟩

/-- The bytes of the scales of `n` elements from element `k` on. -/
def Session.scaleSpan (x : Session) (addr k n : Nat) : Span :=
  ⟨if addrClass addr = 0 then x.top else 4, addrOff addr + k / 32, (n + 31) / 32⟩

/-- Two runs share a byte. -/
def Span.meets (a b : Span) : Bool := a.space = b.space && decide (a.start < b.start + b.len ∧ b.start < a.start + a.len)

/-- One run lies within another. -/
def Span.within (a b : Span) : Bool :=
  a.space = b.space && decide (b.start ≤ a.start ∧ a.start + a.len ≤ b.start + b.len)

/-- R70: a run lies where an owner may put it. -/
def Session.spanOk (x : Session) (owner : Nat) (q : Span) : Bool :=
  if q.space = 4 then x.hbmOk owner q.start q.len else x.storeOk owner q.space q.start q.len

/-- Runs of the two copies of the parameter region (R212). -/
def Session.copy1 (x : Session) : Span := ⟨4, x.paramBase + x.paramSize, x.paramSize⟩
def Session.params (x : Session) : Span := ⟨4, x.paramBase, 2 * x.paramSize⟩

/-- R70, R212: a run that an owner's descriptor may read, and one that it may write. -/
def Session.mayRead (x : Session) (owner : Nat) (q : Span) : Bool := x.spanOk owner q && !q.meets x.copy1
def Session.mayWrite (x : Session) (owner : Nat) (q : Span) : Bool := x.spanOk owner q && !q.meets x.params

/-! ### Checks at launch -/

/-- R65: an owner a PARTY field may name. Assumption log 73 (DESIGN CHOICE). -/
def Session.partyOk (x : Session) (p : Nat) : Bool := p = 31 || decide (p < x.parties)

/-- R156: a scale-record field that a descriptor may name. Assumption log 73 (DESIGN CHOICE). -/
def Session.srecOk (x : Session) (r : Nat) : Bool :=
  r = 0xFFFF || (decide (r < 4096) && (x.scaleRec r).fmt ≠ 0xF)

/-- A source table entry (R265). -/
def sourceOf (b : Bytes) : Source :=
  { party := bitsAt b 0 1 4 0, addr := u64 b 8, saddr := u64 b 16, srec := u16 b 4 }

/-- The reserved bytes of a source table entry are zero. -/
def entryClean (b : Bytes) : Bool :=
  bitsAt b 0 1 7 5 = 0 && zeroRange b 1 3 && zeroRange b 6 2 && zeroRange b 24 8

/-- The sources of a collective: the body's, or the table's as it now reads. -/
def Job.sources (j : Job) (d : Bytes) : Job × List Source × Bool :=
  if clS d = 1 then
    (j, [{ party := bitsAt d 39 1 4 0, addr := u64 d 48, saddr := u64 d 56, srec := u16 d 88 }], true)
  else
    let (j, b) := j.read ((j.st.session j.sess).topPlace (clSrcAddr d) 0) (32 * clS d)
    let es := (List.range (clS d)).map fun k => slice b (32 * k) 32
    (j, es.map sourceOf, es.all entryClean)

/-- R70, R139, R212, R269: one source's ranges. -/
def Session.sourceOk (x : Session) (d : Bytes) (g : Nat) (q : Source) : Bool :=
  let a := q.addr.toNat
  let n := sourceElems d g
  addrForm [0, 1] a && addrOff a % 64 = 0 && x.partyOk q.party && x.srecOk q.srec.toNat &&
    x.mayRead q.party (x.flatSpan (clIn d) a 0 n) &&
    (if clInBlk d then
      addrForm [addrClass a] q.saddr.toNat && addrOff q.saddr.toNat % 64 = 0 &&
        x.mayRead q.party (x.scaleSpan q.saddr.toNat 0 n)
    else addrForm [2] q.saddr.toNat)

/-- R237: a party's source, its runs of elements given by first element and number, lies wholly in one output that the
party's noise wrote in this attempt. -/
def Session.sourceNoised (x : Session) (d : Bytes) (runs : List (Nat × Nat)) (q : Source) : Bool :=
  !x.noiseEn || decide (16 ≤ q.party) ||
    x.outputs.any fun o => o.party = q.party && runs.all fun kn =>
      kn.2 = 0 || (o.data.any fun r => (x.flatSpan (clIn d) q.addr.toNat kn.1 kn.2).within r) &&
        (!clInBlk d || o.scale.any fun r => (x.scaleSpan q.saddr.toNat kn.1 kn.2).within r)

/-- R269: the output shares no byte with a source, but for an ALL_REDUCE in place, whose scales then lie in one place or
apart. Assumption log 66 (DEDUCED). -/
def Session.sourceApart (x : Session) (d : Bytes) (g : Nat) (q : Source) : Bool :=
  let src := x.flatSpan (clIn d) q.addr.toNat 0 (sourceElems d g)
  let srs := if clInBlk d then [x.scaleSpan q.saddr.toNat 0 (sourceElems d g)] else []
  let out := x.flatSpan (clOut d) (clDst d) 0 (outputElems d g)
  let outs := if addrClass (clDstS d) < 2 then [x.scaleSpan (clDstS d) 0 (outputElems d g)] else []
  let inPlace := dOpcode d = opAllReduce && q.addr.toNat = clDst d
  (inPlace || !src.meets out) && srs.all (fun r => !r.meets out && outs.all fun t => (inPlace && decide (r.start = t.start)) || !r.meets t) &&
    outs.all fun t => !src.meets t

/-- R265, R269: every source together. Assumption log 73 (DESIGN CHOICE). -/
def Session.sourcesOk (x : Session) (d : Bytes) (g : Nat) (l : List Source) : Bool :=
  l.all (fun q => x.sourceOk d g q && x.sourceApart d g q) &&
    (clOutParty d = 31 || l.all fun q => (l.head?.map (·.party)) = some q.party)

/-- R267: the size table as it now reads: SEND_OFF, SEND_CNT, RECV_OFF, RECV_CNT in elements, elements received, and
1 once the sender's last chunk has come. -/
def Job.sizeTable (j : Job) (d : Bytes) (g : Nat) : Job × List (List Nat) :=
  let (j, b) := j.read ((j.st.session j.sess).topPlace (fieldAt d 80 8) 0) (16 * g)
  (j, (List.range g).map fun k =>
    ((List.range 4).map fun m => 32 * fieldAt b (16 * k + 4 * m) 4) ++ [0, 0])

/-- The data and scale runs of an element range of a tensor. -/
def Session.runsAt (x : Session) (d : Bytes) (fmt addr saddr k n : Nat) : List Span :=
  if n = 0 then []
  else x.flatSpan fmt addr k n :: (if clInBlk d then [x.scaleSpan saddr k n] else [])

/-- Every two entries of a list of runs share no byte. -/
def apart : List Span → Bool
  | [] => true
  | a :: l => (l.all fun b => !a.meets b) && apart l

/-- R268, R212: the size table's ranges. -/
def Session.sizesOk (x : Session) (d : Bytes) (t : List (List Nat)) : Bool :=
  let src := bitsAt d 39 1 4 0
  let send := (t.map fun e => x.runsAt d (clIn d) (clSrcAddr d) (fieldAt d 56 8) (e.getD 0 0) (e.getD 1 0)).flatten
  let recv := (t.map fun e => x.runsAt d (clOut d) (clDst d) (clDstS d) (e.getD 2 0) (e.getD 3 0)).flatten
  send.all (x.mayRead src) && recv.all (x.mayWrite (clOutParty d)) && apart recv &&
    recv.all fun r => send.all fun q => !r.meets q

/-! ### Chunks, R278 -/

/-- Elements of a full chunk: the model's firmware cuts at this number, so that a chunk of any element keeps to 16 MiB.
Assumption log 65 (DEDUCED). -/
def chunkElems : Nat := 4194272

/-- A chunk header. -/
def chunkHeader (o : Op) (level index offset count : Nat) (scale : W32) : Bytes :=
  le 4 (clId o.desc) ++ w32 o.step ++ w16 o.attempt ++ le 4 (index + level * 65536) ++ le 2 0 ++ le 8 offset ++
    le 4 count ++ w32 scale

def hdrColl (h : Bytes) : Nat := fieldAt h 0 4
def hdrStep (h : Bytes) : Nat := fieldAt h 4 4
def hdrAttempt (h : Bytes) : Nat := fieldAt h 8 2
def hdrIndex (h : Bytes) : Nat := fieldAt h 10 2
def hdrLevel (h : Bytes) : Nat := bitsAt h 12 2 3 0
def hdrOffset (h : Bytes) : Nat := fieldAt h 16 8
def hdrCount (h : Bytes) : Nat := fieldAt h 24 4
def hdrScale (h : Bytes) : W32 := u32 h 28

/-- The flits of a chunk: header and 200 bytes, then 232 bytes each. -/
def chunkFlits (dst src : Nat) (work : Nat × Nat) (header data : Bytes) : List OutFlit :=
  let ps := chunksOf 232 (header ++ data)
  (ps.zip (List.range ps.length)).map fun pk => ⟨1, dst, src, pk.2 = 0, pk.2 + 1 = ps.length, pk.1, 0, some work⟩

/-- Send a chunk of a collective. -/
def State.sendChunk (s : State) (i dst : Nat) (o : Op) (header data : Bytes) : State :=
  let s := (chunkFlits dst (s.session i).rank (o.ctx, o.seq) header data).foldl (fun s f => s.forward i f) s
  s.onSession i fun x => { x with coll := { x.coll with chunksTx := satAdd x.coll.chunksTx 1 } }

/-- An element range cut into chunks: first element and number. -/
def cutRange : Nat → Nat → Nat → List (Nat × Nat)
  | 0, _, _ => []
  | fuel + 1, k, n =>
    if n = 0 then []
    else let m := min n chunkElems; (k, m) :: cutRange fuel (k + m) (n - m)

/-- The chunks of `n` elements from `k` on. Assumption log 65 (DEDUCED). -/
def chunksAt (k n : Nat) : List (Nat × Nat) := cutRange (n / chunkElems + 1) k n

/-- Elements and scales as they travel: codes at their width in HBM, then the scale bytes. -/
def wireCodes (fmt : Nat) (codes : List Nat) (scales : Bytes) : Bytes := pack (gradWidth fmt false) codes ++ scales

/-- Read an element range of a source: codes and scale bytes. -/
def Job.readFlat (j : Job) (d : Bytes) (q : Source) (k n : Nat) : Job × List Nat × Bytes :=
  let x := j.st.session j.sess
  let a := q.addr.toNat
  let w := flatWidth (clIn d) a
  let (j, b) := { j with owner := q.party }.read (x.topPlace a (w * k / 8)) ((w * n + 7) / 8)
  let codes := (unpack w n b).map fun c => c % 2 ^ gradWidth (clIn d) false
  if clInBlk d then
    let (j, sb) := j.read (x.topPlace q.saddr.toNat (k / 32)) ((n + 31) / 32)
    (j, codes, sb)
  else (j, codes, [])

/-- Write an element range of the output: codes and, where it is block-scaled, scale bytes. -/
def Job.writeFlat (j : Job) (d : Bytes) (k : Nat) (codes : List Nat) (scales : Bytes) : Job :=
  let x := j.st.session j.sess
  let w := flatWidth (clOut d) (clDst d)
  let j := { j with owner := clOutParty d }.write (x.topPlace (clDst d) (w * k / 8)) (pack w codes)
  if scales.isEmpty then j else j.write (x.topPlace (clDstS d) (k / 32)) scales

/-- The element codes and scale bytes of a travelling chunk. Assumption log 65 (DEDUCED). -/
def chunkCodes (fmt : Nat) (blk : Bool) (c : Chunk) : List Nat × Bytes :=
  let n := hdrCount c.header
  let w := gradWidth fmt false
  (unpack w n (slice c.data 0 ((w * n + 7) / 8)),
    if blk then slice c.data ((w * n + 7) / 8) ((n + 31) / 32) else [])

/-! ### Reduction, R270 to R275 -/

/-- Round a leaf or a node to the partial format; what would exceed its largest finite value saturates (R271). -/
def roundPart (f : Fmt) (v : Val) : Val × Nat :=
  if v.isNan then (.nan, 0)
  else
    let r := f.round .nearest v
    ((f.takeIn r.code).1, boolNat r.overflow)

/-- The format a reduction's partials are rounded to: FP32 for MAX. -/
def partFmt (d : Bytes) : Fmt := if clOp d = 0 then clPart d else .fp32

/-- R271 to R273: a leaf from an element code, its block scale code and its tensor scale; with its saturations and what
its intake counts. -/
def leafVal (d : Bytes) (code scale : Nat) (ws : W32) : Val × Counts :=
  let (v, c) := gradValue (clIn d) false scale code
  if clOp d = 1 then (Val.ofInt (v.sign.getD 0), c)
  else
    let (p, n) := roundPart (partFmt d) (v.mul (f32 ws))
    (p, { c with accOvf := n })

/-- R271 to R273: a node. -/
def nodeOf (d : Bytes) (a b : Val) : Val × Nat :=
  if clOp d = 1 then (a.add b, 0)
  else if clOp d = 2 then ((Acc.max (toAcc a) (toAcc b)).val, 0)
  else roundPart (partFmt d) (a.add b)

/-- Nodes at a level over `c` leaves. -/
def levelSize (c : Nat) : Nat → Nat
  | 0 => c
  | l + 1 => (levelSize c l + 1) / 2

/-- The level of the root: the first whose size is one. -/
def rootLevel (c : Nat) : Nat := ((List.range 16).find? fun l => levelSize c l ≤ 1).getD 16

/-- R270: the value of node (`level`, `i`) of the tree over `c` leaves, from what has arrived; its events stand in
`accOvf` (saturations) and the intake counts. -/
def treeVal (d : Bytes) (arrived : Nat → Nat → Option (Val × Counts)) (c : Nat) : Nat → Nat → Option (Val × Counts)
  | 0, i => arrived 0 i
  | l + 1, i =>
    match arrived (l + 1) i with
    | some v => some v
    | none =>
      match treeVal d arrived c l (2 * i) with
      | none => none
      | some (a, ca) =>
        if 2 * i + 1 < levelSize c l then
          match treeVal d arrived c l (2 * i + 1) with
          | none => none
          | some (b, cb) =>
            let (v, n) := nodeOf d a b
            some (v, (ca.add cb).add { accOvf := n })
        else some (a, ca)

/-- The value that a chunk carries for source element `e`. -/
def chunkVal (d : Bytes) (c : Chunk) (e : Nat) : Val × Counts :=
  let k := e - hdrOffset c.header
  let n := hdrCount c.header
  if hdrLevel c.header = 0 then
    let w := gradWidth (clIn d) false
    let data := (w * n + 7) / 8
    let scale := if clInBlk d then (u8 c.data (data + k / 32)).toNat else 0x7F
    leafVal d (fieldAt c.data (w * k / 8) 3 / 2 ^ (w * k % 8) % 2 ^ w) scale (hdrScale c.header)
  else if clOp d = 1 then (Val.ofInt (u16 c.data (2 * k)).toInt, {})
  else
    let f := partFmt d
    ((f.takeIn (fieldAt c.data (f.width / 8 * k) (f.width / 8))).1, {})

/-- The chunks of a collective that cover element `e`, as node values. -/
def arrivedAt (d : Bytes) (l : List Chunk) (e level i : Nat) : Option (Val × Counts) :=
  (l.find? fun c => hdrLevel c.header = level && hdrIndex c.header = i &&
    decide (hdrOffset c.header ≤ e ∧ e < hdrOffset c.header + hdrCount c.header)).map fun c => chunkVal d c e

/-- The reduced values of a range, when every one of them can be formed. -/
def reduceAll (d : Bytes) (l : List Chunk) (c k n : Nat) : Option (List (Val × Counts)) :=
  (List.range n).foldr (fun m acc =>
    match acc, treeVal d (arrivedAt d l (k + m)) c (rootLevel c) 0 with
    | some vs, some v => some (v :: vs)
    | _, _ => none) (some [])

/-- A count as SC16, or its sign as S2 (R274). -/
def signCode (fmt : Nat) (v : Val) : Nat :=
  match v with
  | .nan => 0
  | .num neg n _ _ =>
    if fmt = 8 then (BitVec.ofInt 16 (if neg then -(n : Int) else n)).toNat
    else if n = 0 then 0 else if neg then 3 else 1

/-- R274, R275: reduced values of source elements from `k` on, as output codes, scale bytes and counts. -/
def convertFlat (x : Session) (o : Op) (k : Nat) (vs : List Val) : List Nat × Bytes × Counts :=
  let d := o.desc
  if clOp d = 1 then (vs.map (signCode (clOut d)), [], {})
  else
    let f := Fmt.ofCode (clOut d)
    let blk := x.blockScaled (clOut d) (clOutSrec d)
    let rnd := rndOf (clRnd d) x.seed (fieldAt d 92 2) o.step.toNat (dTensor d).toNat
    let es := (vs.zip (List.range vs.length)).map fun vm => (⟨vm.1, false, k + vm.2⟩ : Elem)
    let qs := (blocks32 es).map (quantise f blk 1 (o.scaleOf (clOutSrec d)) rnd)
    ((qs.map (·.codes)).flatten, if blk then qs.map fun q => BitVec.ofNat 8 q.scale else [],
      Counts.sum (qs.map (·.counts)))

/-- R289: the S2 codes of tainted elements among those from `k` on are 10. Assumption log 68 (DEDUCED). -/
def taintCodes (d : Bytes) (k : Nat) (bad : Nat → Bool) (codes : List Nat) : List Nat :=
  if clOp d = 1 ∧ clOut d = 9 then (codes.zip (List.range codes.length)).map fun c => if bad (k + c.2) then 2 else c.1
  else codes

/-! ### Launch -/

/-- Settle a job into the machine, keeping an operation's first bad status. -/
def State.closeJob (s : State) (i : Nat) (o : Op) (j : Job) : State :=
  if j.status = stOk then s.onSession i fun x => x.setOp o
  else s.finishOp i o j.status

/-- One chunk of source elements to a group member: kept as an own leaf, or sent. -/
def State.postLeaf (s : State) (i dst : Nat) (o : Op) (header data : Bytes) : State :=
  if dst = (s.session i).rank then
    s.onSession i fun x => { x with landing := x.landing ++ [⟨header, x.rank, 0, data, false⟩] }
  else s.sendChunk i dst o header data

/-- What a member sends to group rank `g` from source `k` of `S`: first element and number. -/
def sendRange (d : Bytes) (t : List (List Nat)) (n g : Nat) : Nat × Nat :=
  if dOpcode d = opExchange then (g * clElems d, clElems d)
  else if dOpcode d = opExchangeV then ((t.getD g []).getD 0 0, (t.getD g []).getD 1 0)
  else if dOpcode d = opAllGather then (0, clElems d)
  else reduceRange d n g

/-- Element ranges joined where they touch, in ascending order. -/
def joinRanges (l : List (Nat × Nat)) : List (Nat × Nat) :=
  (((l.filter (·.2 ≠ 0)).insertionSort fun a b => a.1 ≤ b.1).foldl (fun acc r =>
    match acc with
    | (k, n) :: rest => if r.1 ≤ k + n then (k, max n (r.1 + r.2 - k)) :: rest else r :: acc
    | [] => [r]) []).reverse

/-- R276: ranges of a source, each byte read once: first element, codes and scale bytes of each run. -/
def Job.readRanges (j : Job) (d : Bytes) (q : Source) (l : List (Nat × Nat)) : Job × List (Nat × List Nat × Bytes) :=
  (joinRanges l).foldl (fun (j, acc) r => let (j, v) := j.readFlat d q r.1 r.2; (j, acc ++ [(r.1, v)])) (j, [])

/-- A range of what has been read: codes and scale bytes. -/
def partOf (l : List (Nat × List Nat × Bytes)) (k n : Nat) : List Nat × Bytes :=
  match l.find? fun e => decide (e.1 ≤ k ∧ k + n ≤ e.1 + e.2.1.length) with
  | some e => ((e.2.1.drop (k - e.1)).take n, (e.2.2.drop ((k - e.1) / 32)).take ((n + 31) / 32))
  | none => ([], [])

/-- The chunks that one source sends: destination, first element and number; an EXCHANGE_V ends each stream with a short
chunk, empty if need be. -/
def sourceCuts (o : Op) (group : List Nat) : List (Nat × Nat × Nat) :=
  ((group.zip (List.range group.length)).map fun rg =>
    let (k, n) := sendRange o.desc o.sizes group.length rg.2
    let cuts := chunksAt k n
    let cuts := if dOpcode o.desc = opExchangeV ∧ n % chunkElems = 0 then cuts ++ [(k + n, 0)] else cuts
    cuts.map fun c => (rg.1, c)).flatten

/-- Read a source once and post its chunks, as leaf `index`. -/
def Job.post (j : Job) (o : Op) (q : Source) (index : Nat) (cuts : List (Nat × Nat × Nat)) : Job :=
  let (j, l) := j.readRanges o.desc q (cuts.map (·.2))
  let ws : W32 := if clReduces o.desc then (toAcc (o.scaleOf q.srec.toNat)).value else 0x3F800000
  if j.live then
    { j with
      st := cuts.foldl (fun s c =>
        let v := partOf l c.2.1 c.2.2
        s.postLeaf j.sess c.1 o (chunkHeader o 0 index c.2.1 c.2.2 ws) (wireCodes (clIn o.desc) v.1 v.2)) j.st }
  else j

/-- Post everything a member sends. Assumption log 65 (DEDUCED). -/
def Job.postAll (j : Job) (o : Op) (group : List Nat) (i : Nat) : Job :=
  (o.sources.zip (List.range o.sources.length)).foldl (fun j qs =>
    j.post o qs.1 (if clReduces o.desc then i * o.sources.length + qs.2 else 0) (sourceCuts o group)) j

/-! ### Progress -/

/-- The chunks held for a collective. -/
def Session.chunksOf (x : Session) (o : Op) : List Chunk :=
  x.landing.filter fun c => hdrColl c.header = clId o.desc && hdrStep c.header = o.step.toNat &&
    hdrAttempt c.header = o.attempt.toNat

/-- Take chunks out of the landing buffer. -/
def Session.dropChunks (x : Session) (p : Chunk → Bool) : Session :=
  { x with landing := x.landing.filter fun c => !(p c) }

/-- Level of a finished result on its way to the other members of an ALL_REDUCE. Assumption log 65 (DEDUCED). -/
def resultLevel : Nat := 15

/-- Where a copied chunk's elements go in the output, from its offset at the sender (R266, R267). -/
def copyPlace (o : Op) (i sender : Nat) (c : Chunk) : Nat :=
  let d := o.desc
  if dOpcode d = opExchange then sender * clElems d + (hdrOffset c.header - i * clElems d)
  else if dOpcode d = opExchangeV then (o.sizes.getD sender []).getD 2 0 + (o.sizes.getD sender []).getD 4 0
  else if dOpcode d = opAllGather then sender * clElems d + hdrOffset c.header
  else hdrOffset c.header

/-- R281: elements of a chunk of an EXCHANGE_V that are written: never past RECV_CNT. -/
def copyCount (o : Op) (sender : Nat) (c : Chunk) : Nat :=
  if dOpcode o.desc = opExchangeV then
    min (hdrCount c.header) ((o.sizes.getD sender []).getD 3 0 - (o.sizes.getD sender []).getD 4 0)
  else hdrCount c.header

/-- The op after a copied chunk: elements written, and an EXCHANGE_V's account of its sender. -/
def Op.tookCopy (o : Op) (sender : Nat) (c : Chunk) : Op :=
  let o := { o with progress := o.progress + copyCount o sender c }
  if dOpcode o.desc = opExchangeV then
    let e := o.sizes.getD sender []
    let e' := [e.getD 0 0, e.getD 1 0, e.getD 2 0, e.getD 3 0, e.getD 4 0 + hdrCount c.header,
      if hdrCount c.header < chunkElems then 1 else 0]
    { o with sizes := o.sizes.set sender e' }
  else o

/-- Write one copied chunk. -/
def State.copyChunk (s : State) (i : Nat) (o : Op) (c : Chunk) : State :=
  let x := s.session i
  let d := o.desc
  let group := x.groupOf (clGroup d)
  let sender := groupRank group c.src
  let blk := if clReduces d then x.blockScaled (clOut d) (clOutSrec d) else clInBlk d
  let (codes, sb) := chunkCodes (clOut d) blk c
  let n := copyCount o sender c
  let j := s.job i o (clOutParty d)
  let j := j.writeFlat d (copyPlace o (groupRank group x.rank) sender c) (codes.take n) (sb.take ((n + 31) / 32))
  (j.st.onSession i fun x => x.dropChunks (· = c)).closeJob i (o.tookCopy sender c) j

/-- Level and index name an addition of the tree over `c` leaves (R270). -/
def isAddition (c level index : Nat) : Bool :=
  decide (1 ≤ level ∧ level ≤ rootLevel c) && decide (2 * index + 1 < levelSize c (level - 1))

/-- The faults that strike additions of a reduction of elements `k` to `k + n` over `c` leaves. -/
def faultsIn (c k n : Nat) (l : List AddFault) : List AddFault :=
  (l.filter fun f => decide (k ≤ f.element ∧ f.element < k + n) && isAddition c f.level f.index).dedup

/-- The sum of an addition whose check failed for good, by its place among them. -/
def faultySum (d : Bytes) (n : Nat) : Val :=
  let w := (Config.faultySum n).toNat
  if clOp d = 1 then Val.ofInt (BitVec.ofNat 16 w).toInt else ((partFmt d).takeIn (w % 2 ^ (partFmt d).width)).1

/-- What stands at the nodes of element `e` when the sums of some additions are as faulty adders gave them. -/
def faultyAt (d : Bytes) (l : List Chunk) (bad : List AddFault) (draw e level i : Nat) : Option (Val × Counts) :=
  match bad.findIdx? fun f => f.element = e && f.level = level && f.index = i with
  | some n => some (faultySum d (draw + n), {})
  | none => arrivedAt d l e level i

/-- R287, R290: what residue failures do: `fails` additions and repeats failed, `retired` lanes are taken out, and
`taints` chunks or local sums are tainted. Assumption log 66 and 68 (DEDUCED). -/
def State.residue (s : State) (i half fails retired taints : Nat) : State :=
  let s := { s with adders := vset s.adders half (min 40 (vget 0 s.adders half + retired)) }
  s.onSession i fun x =>
    let x := { x with coll := { x.coll with residueFail := satAdd x.coll.residueFail fails,
                                            residueTaint := satAdd x.coll.residueTaint taints } }
    if taints = 0 then x else x.reason rsResidue

/-- An element lies in a chunk. -/
def Chunk.covers (c : Chunk) (e : Nat) : Bool :=
  decide (hdrOffset c.header ≤ e ∧ e < hdrOffset c.header + hdrCount c.header)

/-- Reduce the owned range once every leaf or node it needs is there; write it, and send the result of an ALL_REDUCE to
the other members. A result that leaves enters its flit before the verdict of its last addition, which is not repeated
(R286, R288); another addition is repeated once, and taints its sum when the repeat fails (R287).
Assumption log 65 and 66 and 68 (DEDUCED). -/
def State.reduceOwn (s : State) (i : Nat) (o : Op) (half : Nat) (faults : List AddFault) : State :=
  let x := s.session i
  let d := o.desc
  let group := x.groupOf (clGroup d)
  let (k, n) := reduceRange d group.length (groupRank group x.rank)
  let held := (x.chunksOf o).filter fun c => hdrLevel c.header ≠ resultLevel
  let c := group.length * o.sources.length
  if n = 0 then s
  else
    match reduceAll d held c k n with
    | none => s
    | some vs =>
      let leaves := decide (dOpcode d = opAllReduce ∧ 1 < group.length)
      let cuts := chunksAt k n
      let fs := faultsIn c k n faults
      let late := fun (f : AddFault) => leaves && decide (f.level = rootLevel c)
      let bad := fs.filter fun f => late f || f.again
      let hit := fun (l : List AddFault) (e : Nat) =>
        if leaves then cuts.any fun r => decide (r.1 ≤ e ∧ e < r.1 + r.2) && l.any fun f => decide (r.1 ≤ f.element ∧ f.element < r.1 + r.2)
        else l.any fun f => f.element = e
      let taints := if leaves then (cuts.filter fun r => hit bad r.1).length * (group.length - 1) else bad.length
      let s :=
        if fs.isEmpty then s
        else
          ({ s with draws := s.draws + bad.length } : State).residue i half
            (fs.length + (fs.filter fun f => f.again && !late f).length) (fs.filter fun f => f.again && !late f).length taints
      let vals :=
        if bad.isEmpty then vs.map (·.1)
        else (List.range n).map fun m =>
          ((treeVal d (faultyAt d held bad s.draws (k + m)) c (rootLevel c) 0).map (·.1)).getD .nan
      let all := Counts.sum (vs.map (·.2))
      let (codes, sb, cnt) := convertFlat x o k vals
      let tagged := fun e => held.any fun c => c.tainted && c.covers e
      let sent := taintCodes d k (hit (bad.filter fun f => !late f)) codes
      let s := s.onSession i fun x =>
        let x := { x with coll := { x.coll with sumOvf := satAdd x.coll.sumOvf all.accOvf } }
        x.dropChunks fun c => held.contains c
      let s := s.perfEvent i (4 + half) 0x260 ((n * (c - 1) + 31) / 32)
      let j := s.job i o (clOutParty d)
      let j := (j.intake { all with accOvf := 0 }).count (clOutSrec d) cnt
      let j := j.writeFlat d (if dOpcode d = opReduceScatter then 0 else k) (taintCodes d k (fun e => tagged e || hit bad e) codes) sb
      let s :=
        if dOpcode d = opAllReduce ∧ j.live then
          group.foldl (fun s r =>
            if r = x.rank then s
            else cuts.foldl (fun s c =>
              s.sendChunk i r o (chunkHeader o resultLevel 0 c.1 c.2 0x3F800000)
                (wireCodes (clOut d) ((sent.drop (c.1 - k)).take c.2) ((sb.drop ((c.1 - k) / 32)).take ((c.2 + 31) / 32)))) s)
            j.st
        else j.st
      s.closeJob i { o with progress := o.progress + n, taint := o.taint || decide (taints ≠ 0) } j

/-- R281, R282: what is still to come: nothing, or the status with which the collective ends. -/
def Op.outcome (o : Op) (g : Nat) : Option Status :=
  if dOpcode o.desc = opExchangeV then
    if o.sizes.all fun e => e.getD 5 0 = 1 then
      some (if o.sizes.all fun e => e.getD 4 0 = e.getD 3 0 then stOk else stRefused)
    else none
  else if o.progress = outputElems o.desc g then some stOk
  else none

/-- A launched collective takes what has arrived for it. -/
def State.advanceOne (i half : Nat) (faults : List AddFault) (s : State) (o0 : Op) : State :=
  match (s.session i).op? o0.ctx o0.seq with
  | none => s
  | some o =>
    if o.stage = .launched ∧ o.isCollective ∧ ¬ o.sources.isEmpty then
      let copies := ((s.session i).chunksOf o).filter fun c => !(clReduces o.desc) || hdrLevel c.header = resultLevel
      let s := copies.foldl (fun s c =>
        match (s.session i).op? o.ctx o.seq with
        | some o => if o.stage = .launched then s.copyChunk i o c else s
        | none => s) s
      match (s.session i).op? o.ctx o.seq with
      | none => s
      | some o =>
        let s := if clReduces o.desc ∧ o.stage = .launched then s.reduceOwn i o half faults else s
        match (s.session i).op? o.ctx o.seq with
        | none => s
        | some o =>
          if o.stage = .launched then
            match o.outcome ((s.session i).groupOf (clGroup o.desc)).length with
            | some st => s.finishOp i o st
            | none => s
          else s
    else s

/-- R280: a step and attempt is earlier than the member's. -/
def Session.staleHeader (x : Session) (h : Bytes) : Bool :=
  decide (hdrStep h < x.sealRec.step.toNat) ||
    (decide (hdrStep h = x.sealRec.step.toNat) && decide (hdrAttempt h < x.sealRec.attempt.toNat))

/-- R280: chunks of an earlier step or attempt are dropped and counted. -/
def Session.dropStale (x : Session) : Session :=
  let n := (x.landing.filter fun c => x.staleHeader c.header && c.src ≠ x.rank).length +
    (x.inbound.filter fun e => x.staleHeader e.2.header).length
  let y := x.dropChunks fun c => x.staleHeader c.header
  { y with
    inbound := x.inbound.filter fun e => !(x.staleHeader e.2.header)
    coll := { x.coll with staleDrop := satAdd x.coll.staleDrop n }
    lost := x.lost.filter fun e => !(x.staleHeader (zeros 4 ++ le 4 e.2.1 ++ le 2 e.2.2)) }

/-- The launched collective a chunk is for. -/
def Session.collFor (x : Session) (h : Bytes) : Option Op :=
  x.ops.find? fun o => o.isCollective && o.stage ≠ .started && clId o.desc = hdrColl h && o.step.toNat = hdrStep h &&
    o.attempt.toNat = hdrAttempt h

/-- Bytes of a session's landing quota on a Hub die that chunks of collectives not yet launched hold (R280).
Assumption log 67 (DESIGN CHOICE). -/
def Session.landed (x : Session) (half : Nat) : Nat :=
  let mine := fun (c : Chunk) => c.half = half && c.src ≠ x.rank && (x.collFor c.header).isNone
  ((x.landing.filter mine).map fun c => c.data.length + 32).sum +
    ((x.inbound.filter fun e => mine e.2).map fun e => e.2.data.length + 32).sum

/-- A session's landing quota: 8 MiB on each Hub die (R402). Assumption log 67 (DESIGN CHOICE). -/
def landingQuota : Nat := 8388608

/-- The Hub die of a port (R20). -/
def portHalf (p : Nat) : Nat := if p < 9 then 0 else 1

/-- R255, R280: data credits go back to the peers while the landing buffer has room.
Assumption log 67 (DESIGN CHOICE). -/
def State.settleCredits (s : State) (i : Nat) : State :=
  (List.range 18).foldl (fun s p =>
    let q := s.port p
    if q.bound ∧ q.session.toNat = i ∧ q.owed ≠ 0 ∧ q.runs ∧ (s.session i).landed (portHalf p) < landingQuota then
      let n := min q.owed 65535
      (s.sendCtl p 3 (le 2 n ++ le 2 0)).onPort p fun q => { q with owed := q.owed - n }
    else s) s

/-- Every launched collective of a session takes what has arrived. -/
def State.advanceColl (s : State) (i half : Nat) (faults : List AddFault) : State :=
  let s := s.onSession i Session.dropStale
  ((s.session i).ops.foldl (State.advanceOne i half faults) s).settleCredits i

/-- A collective as its chunks' headers name it: identifier, step and attempt. -/
def Op.collKey (o : Op) : Nat × Nat × Nat := (clId o.desc, o.step.toNat, o.attempt.toNat)

/-- R265 to R269: the checks of a collective's source list and size table at its launch. -/
def Session.sourcesGood (x : Session) (d : Bytes) (g : Nat) (srcs : List Source) (clean : Bool) (t : List (List Nat)) :
    Bool :=
  if dOpcode d = opExchangeV then
    x.sizesOk d t && srcs.all (x.sourceNoised d (t.map fun e => (e.getD 0 0, e.getD 1 0)))
  else clean && x.sourcesOk d g srcs && srcs.all (x.sourceNoised d [(0, sourceElems d g)])

/-- The launch of a collective: its tables are read again and checked, and its data leave. One whose early data were
dropped under R284 ends at once. -/
def State.runCollective (s : State) (i : Nat) (faults : List AddFault) (p : Op) : State :=
  let d := p.desc
  let group := (s.session i).groupOf (clGroup d)
  let j := s.job i p (clOutParty d)
  let (j, srcs, clean) := j.sources d
  let (j, t) := if dOpcode d = opExchangeV then j.sizeTable d group.length else (j, [])
  let x := j.st.session i
  let p := { p with sources := srcs, sizes := t }
  if j.status ≠ stOk then j.st.finishOp i p j.status
  else if ¬ x.sourcesGood d group.length srcs clean t then j.st.finishOp i p stRefused
  else if x.lost.contains p.collKey then j.st.finishOp i p stRevoked
  else
    let j := j.postAll p group (groupRank group x.rank)
    (j.st.closeJob i p j).advanceColl i 0 faults

/-- A launched collective that has not run yet. -/
def State.collAt (s : State) (o : OpRef) (code : Nat) : Option Op :=
  (s.launched o code).filter fun p => p.sources.isEmpty

/-- EXCHANGE. -/
def execExchange (o : OpRef) (s : State) : Out :=
  .next <| match s.collAt o opExchange with
    | some p => s.runCollective o.session [] p
    | none => s

/-- EXCHANGE_V. -/
def execExchangeV (o : OpRef) (s : State) : Out :=
  .next <| match s.collAt o opExchangeV with
    | some p => s.runCollective o.session [] p
    | none => s

/-- REDUCE_SCATTER. -/
def execReduceScatter (o : OpRef) (residueFails : List AddFault) (s : State) : Out :=
  .next <| match s.collAt o opReduceScatter with
    | some p => s.runCollective o.session residueFails p
    | none => s

/-- ALL_GATHER. -/
def execAllGather (o : OpRef) (s : State) : Out :=
  .next <| match s.collAt o opAllGather with
    | some p => s.runCollective o.session [] p
    | none => s

/-- ALL_REDUCE. -/
def execAllReduce (o : OpRef) (residueFails : List AddFault) (s : State) : Out :=
  .next <| match s.collAt o opAllReduce with
    | some p => s.runCollective o.session residueFails p
    | none => s

/-- R282: no flit of a collective of the member's own is queued or unacknowledged on the session's ports. -/
def State.flitsGone (s : State) (i : Nat) (o : Op) : Bool :=
  let own := fun (f : OutFlit) => f.work = some (o.ctx, o.seq)
  !((s.session i).unsent.contains (o.ctx, o.seq)) && (List.range 18).all fun p =>
    let q := s.port p
    !(q.bound && q.session.toNat = i) || !(q.data.any own || q.unacked.any fun e => own e.2)

/-- COLLECTIVE_COMPLETE. -/
def execCollectiveComplete (o : OpRef) (s : State) : Out :=
  .next <| match s.op? o with
    | some p =>
      if s.runsIn 13 ∧ p.stage = .finished ∧ p.isCollective ∧ (p.status ≠ stOk ∨ s.flitsGone o.session p) then
        let s := if p.status = stOk then
            s.onSession o.session fun x => { x with coll := { x.coll with done := satAdd x.coll.done 1 } }
          else s
        ((s.completeOp o.session p p.status).onSession o.session fun x =>
          { x.dropChunks fun c => (x.chunksOf p).contains c with
            unsent := x.unsent.filter fun w => w ≠ (o.ctx, o.seq) }).settleCredits o.session
      else s
    | none => s

/-- COLLECTIVE_TIMEOUT (R283). Assumption log 85 (DESIGN CHOICE). -/
def execCollectiveTimeout (o : OpRef) (s : State) : Out :=
  .next <| match s.op? o with
    | some p =>
      if p.stage ≠ .started ∧ p.isCollective ∧ p.launchedAt.toNat + ns (10000 * fieldAt p.desc 94 2) ≤ s.now then
        s.stopOp o.session p stTimeout
      else s
    | none => s

/-! ### Flits received -/

/-- The session a port belongs to. -/
def State.portSession (s : State) (p : Nat) : Nat := (s.port p).session.toNat

/-- The header of the chunk that a flit belongs to. -/
def Session.chunkOf (x : Session) (f : OutFlit) : Option Bytes :=
  if f.first then some (slice f.payload 0 32) else (x.inbound.find? (·.1 = f.src)).map (·.2.header)

/-- R284: a DATA flit of another generation, with the header of its chunk where that is known: a collective that needs
it ends, now if it is launched and else at its launch. -/
def State.staleFlit (s : State) (i : Nat) (f : OutFlit) (h : Option Bytes) : State :=
  let x := s.session i
  let h := h.filter fun _ => f.dst = x.rank
  let key := fun (h : Bytes) => (hdrColl h, hdrStep h, hdrAttempt h)
  let s := s.setSession i
    { x with coll := { x.coll with staleDrop := satAdd x.coll.staleDrop 1 }
             lost := match h with | some h => (key h) :: x.lost.filter (· ≠ key h) | none => x.lost }
  match (h.bind x.collFor).filter fun o => o.stage = .launched with
  | some o => s.finishOp i o stRevoked
  | none => s

/-- A DATA flit for this member joins its chunk; the last one completes it. -/
def Session.landFlit (x : Session) (half : Nat) (tainted : Bool) (f : OutFlit) : Session :=
  let c : Option Chunk :=
    if f.first then some ⟨slice f.payload 0 32, f.src, half, f.payload.drop 32, tainted⟩
    else (x.inbound.find? (·.1 = f.src)).map fun e => { e.2 with data := e.2.data ++ f.payload, tainted := e.2.tainted || tainted }
  let rest := x.inbound.filter (·.1 ≠ f.src)
  match c with
  | none => x
  | some c =>
    if f.last then
      { x with inbound := rest, landing := x.landing ++ [c],
               coll := { x.coll with chunksRx := satAdd x.coll.chunksRx 1 } }
    else { x with inbound := (f.src, c) :: rest }

/-- R252: the tag of a flit that a running port receives fails. -/
def State.tagFails (s : State) (p : Nat) (b : Bytes) : Bool :=
  let q := s.port p
  q.runs && !s.linkStruck q.session.toNat && (openFlit (s.portKey p "KRELAS-FLIT" false) q.rxSlot b).isNone

/-- A flit as it reaches the adders, ahead of the verdict on its tag. -/
def State.rawFlit (s : State) (p : Nat) (b : Bytes) : InFlit :=
  let h := fieldAt b 0 8
  let pl := Crypto.ctrCrypt (s.portKey p "KRELAS-FLIT" false) (flitNonce (s.port p).rxSlot) (slice b 8 232)
  ⟨⟨bitsOf h 3 0, bitsOf h 22 12, bitsOf h 33 23, bitOf h 54, bitOf h 55, pl.take (bitsOf h 53 46), bitsOf h 11 4, none⟩,
    bitsOf h 11 4, BitVec.ofNat 12 (bitsOf h 45 34)⟩

/-- The launched reduction that a flit which is next in order feeds. -/
def State.feeds (s : State) (p : Nat) (f : InFlit) : Option Op :=
  let i := (s.port p).session.toNat
  let x := s.session i
  if f.flit.type = 1 ∧ f.flit.dst = x.rank ∧ f.seq = (s.port p).rxSeq ∧ f.gen = s.linkGen i then
    ((x.chunkOf f.flit).filter fun h => hdrLevel h ≠ resultLevel).bind fun h =>
      (x.collFor h).filter fun o => clReduces o.desc
  else none

/-- R288: what a flit feeds leaves in a flit of this member before its own verdict: it completes what an ALL_REDUCE waits
for. Every other sum stays here until the verdict. Assumption log 68 (DEDUCED). -/
def State.consumed (s : State) (p : Nat) (f : InFlit) : Bool :=
  let x := s.session (s.port p).session.toNat
  match s.feeds p f with
  | some o =>
    let d := o.desc
    let group := x.groupOf (clGroup d)
    let y := x.landFlit 0 true f.flit
    let held := (y.chunksOf o).filter fun c => hdrLevel c.header ≠ resultLevel
    let (k, n) := reduceRange d group.length (groupRank group x.rank)
    o.stage = .launched && dOpcode d = opAllReduce && decide (1 < group.length ∧ n ≠ 0) && !o.sources.isEmpty && f.flit.last &&
      (reduceAll d held (group.length * o.sources.length) k n).isSome
  | none => false

/-- A DATA flit goes to the Sorting Office or is forwarded (R258, R284). -/
def State.serveFlit (s : State) (p : Nat) (a : Arrived) : State :=
  let i := s.portSession p
  let s := s.perfEvent i (4 + p / 9) (0x220 + p) 1
  let s := s.onPort p fun q => { q with dataRx := satAdd q.dataRx 1, owed := q.owed + 1 }
  if a.gen ≠ s.linkGen i then (s.staleFlit i a.flit ((s.session i).chunkOf a.flit)).settleCredits i
  else if a.flit.dst ≠ (s.session i).rank then (s.forward i a.flit).settleCredits i
  else (s.onSession i fun x => x.landFlit (portHalf p) a.tainted a.flit).advanceColl i (portHalf p) a.faults

/-- R526: a delivered DATA flit is served in PS0; in PS1 it starts the wake and waits for PS0.
Assumption log 45 (DEDUCED). -/
def State.deliver (s : State) (p : Nat) (f : InFlit) (tainted : Bool) (faults : List AddFault) : State :=
  let a : Arrived := ⟨f.flit, f.gen, tainted, faults⟩
  if s.power.power = .ps1 then s.stir.onPort p fun q => { q with arrived := q.arrived ++ [a] } else s.serveFlit p a

/-- R526: at PS0 the flits that waited are served, in the order in which each port took them. -/
def State.serveArrived (s : State) : State :=
  (List.range 18).foldl (fun s p =>
    let l := (s.port p).arrived
    l.foldl (fun s a => s.serveFlit p a) (s.onPort p fun q => { q with arrived := [] })) s

/-- R288, R289: a flit whose sums had left before its tag failed: it is used as it came, its chunk is tainted, and the
member votes LINK_TAG. Assumption log 68 (DEDUCED). -/
def State.taintedFlit (s : State) (p : Nat) (f : InFlit) (faults : List AddFault) : State :=
  let i := s.portSession p
  let op := s.feeds p f
  let s := (s.countSlot p).onPort p Port.tagFailed
  let s := (s.inOrder p f).1
  let s := s.onSession i fun x =>
    let x := { x with coll := { x.coll with tagTaint := satAdd x.coll.tagTaint 1 } }
    let x := match op with | some o => x.setOp { o with taint := true } | none => x
    x.reason rsLinkTag
  s.deliver p f true faults

/-- DATA_FLIT: a data flit, or a flit of no other row, arrives on a port. Without a link key only its generation is
known (R284). Assumption log 5 (DESIGN CHOICE). -/
def execDataFlit (p : Nat) (b : Bytes) (residueFails : List AddFault) (s : State) : Out :=
  .next <|
    let t := bitsAt b 0 1 3 0
    if (s.port p).bound ∧ (s.port p).runs ∧ (t < 2 ∨ 5 < t) then
      let i := s.portSession p
      let raw := s.rawFlit p b
      if s.linkStruck i then
        let s := s.countSlot p
        if t = 1 ∧ raw.gen ≠ s.linkGen i then
          s.staleFlit i raw.flit (if raw.flit.first then none else (s.session i).chunkOf raw.flit)
        else s
      else if s.tagFails p b then
        if s.consumed p raw ∧ ¬ s.blockHeld (.port p) then s.taintedFlit p raw residueFails
        else
          let fed := (s.feeds p raw).isSome
          (s.takeFlit p b).1.onSession i fun x =>
            if fed then { x with coll := { x.coll with retried := satAdd x.coll.retried 1 } } else x
      else
        match s.takeFlit p b with
        | (s, some f) => if f.flit.type ≠ 1 then s else s.deliver p f false residueFails
        | (s, none) => s
    else s

/-- Receive a control flit of one TYPE: delivered to this member, or forwarded. -/
def State.takeTyped (s : State) (p type : Nat) (b : Bytes) : State × Option InFlit :=
  if (s.port p).bound ∧ (s.port p).runs ∧ bitsAt b 0 1 3 0 = type then
    let i := s.portSession p
    match s.takeFlit p b with
    | (s, none) => (s, none)
    | (s, some f) => if f.flit.dst ≠ (s.session i).rank then (s.forward i f.flit, none) else (s, some f)
  else (s, none)

/-- Receive an ACK or a NAK: the SEQ it names. -/
def State.takeAck (s : State) (p ctype : Nat) (block : Bytes) : State × Option (BitVec 12) :=
  if s.ctlReady p Port.runs then
    match s.takeCtl p ctype block with
    | (s, some b) => (s, some (BitVec.ofNat 12 (fieldAt b 0 2)))
    | (s, none) => (s, none)
  else (s, none)

end Sys2Proof.Machine
end

