-- ==== Sys2Proof/Machine/Ring.lean ====
section
/-! DEFINITION. The postal ring and time transfer: ring frames (R296 to R299), hop measurement (R301), time (R293, R302,
R305, R306), the bypass switch (R303, R304), and the transport of messages (R318). -/

namespace Sys2Proof.Machine

/-! ### The ring's session and key -/

/-- The session whose consignment the ring port serves: the lowest-numbered one that has accepted CONSIGN_CONFIG. -/
def State.ringSession (s : State) : Option Nat :=
  (List.range 4).find? fun i => (s.session i).isOpen && (s.session i).consign.isSome

/-- R303: the ring port carries frames. -/
def State.ringUp (s : State) : Bool := s.ringSession.isSome && !s.time.bypassClosed

/-- Ring and position of a rank. -/
def Session.placeOf (x : Session) (r : Nat) : Nat × Nat :=
  match x.consign with | some c => c.places.getD r (0, 0) | none => (0, 0)

/-- This member's ring. -/
def Session.ownRing (x : Session) : Nat := (x.placeOf x.rank).1

/-- Members of the consignment, 1 outside one. -/
def Session.members (x : Session) : Nat := match x.consign with | some c => c.members | none => 1

/-- The ranks of a ring, ascending. -/
def Session.ringRanks (x : Session) (r : Nat) : List Nat :=
  (List.range x.members).filter fun k => (x.placeOf k).1 = r

/-- R304: the ranks of this member's ring whose bypass switch is open. How a member learns of a switch is not stated: a
command tells it. Assumption log 70 (DESIGN CHOICE). -/
def State.activeRanks (s : State) (x : Session) : List Nat :=
  (x.ringRanks x.ownRing).filter fun r =>
    if r = x.rank then !s.time.bypassClosed else !(s.time.bypassed.getLsbD (x.placeOf r).2)

/-- The master of a ring: its lowest rank. -/
def Session.ringMaster (x : Session) (r : Nat) : Nat := (x.ringRanks r).headD 0

/-- Whether this member is the master of its ring. -/
def Session.isMaster (x : Session) : Bool := x.ringMaster x.ownRing = x.rank

/-- Rings of the consignment. -/
def Session.rings (x : Session) : List Nat := (List.range 64).filter fun r => !(x.ringRanks r).isEmpty

/-- R297: the ring key. -/
def State.ringKey (s : State) (i : Nat) : Bytes :=
  let x := s.session i
  Crypto.hkdf (s.slotKey i .link) (w64 x.epoch) (ascii "KRELAS-RING" ++ le 1 x.ownRing) 32

/-- R297: a frame's nonce. -/
def ringNonce (src : Nat) (counter : Nat) : Bytes := [0x03, 0x00] ++ le 2 src ++ le 8 counter

/-! ### Frames -/

/-- One direction of the ring port: the clockwise neighbour's side, or the other's.
Assumption log 70 (DESIGN CHOICE). -/
def State.side (s : State) (cw : Bool) : RingSide := if cw then s.time.cw else s.time.ccw

def State.onSide (s : State) (cw : Bool) (f : RingSide → RingSide) : State :=
  if cw then { s with time := { s.time with cw := f s.time.cw } }
  else { s with time := { s.time with ccw := f s.time.ccw } }

/-- Put a frame on the ring toward a neighbour. Assumption log 69 (DESIGN CHOICE). -/
def State.putFrame (s : State) (cw : Bool) (frame : Bytes) : State :=
  (s.perfEvent (s.ringSession.getD 0) 4 0x290 1).onSide cw fun r => { r with sent := frame :: r.sent }

/-- R296, R297: a frame of a TYPE from a rank in a direction, sealed under the ring key, with 16 hops to go; the sender's
frame counter stands after its 128 bytes. Assumption log 69 (DESIGN CHOICE). -/
def ringFrame (key : Bytes) (rank : Nat) (cw : Bool) (type : Nat) (body : Bytes) (n : W64) : Bytes :=
  let aad := le 1 type ++ [0] ++ le 1 (boolNat (!cw)) ++ [0] ++ le 2 rank ++ zeros 2
  let (ct, tag) := Crypto.gcmSeal key (ringNonce rank n.toNat) aad (padTo 104 (body.take 104))
  le 1 type ++ le 1 16 ++ slice aad 2 6 ++ ct ++ tag ++ w64 n

/-- Send a frame of a TYPE toward a neighbour. -/
def State.sendFrame (s : State) (i : Nat) (cw : Bool) (type : Nat) (body : Bytes) : State :=
  if s.ringUp then
    let n := (s.session i).frameSeq
    let frame := ringFrame (s.ringKey i) (s.session i).rank cw type body n
    (s.onSession i fun x => { x with frameSeq := n + 1 }).putFrame cw frame
  else s

/-- Send in both directions. -/
def State.sendBoth (s : State) (i type : Nat) (body : Bytes) : State :=
  (s.sendFrame i true type body).sendFrame i false type body

/-- R297: a received frame of a TYPE: sender's rank, hops left and body, when its tag verifies.
Assumption log 69 (DESIGN CHOICE). -/
def State.openFrame (s : State) (i type : Nat) (frame : Bytes) : Option (Nat × Nat × Bytes) :=
  let aad := slice frame 0 1 ++ [0] ++ slice frame 2 6
  let src := fieldAt frame 4 2
  if (u8 frame 0).toNat = type then
    match Crypto.gcmOpen (s.ringKey i) (ringNonce src (fieldAt frame 128 8)) aad (slice frame 8 104) (slice frame 112 16) with
    | some b => some (src, (u8 frame 1).toNat, b)
    | none => none
  else none

/-- R298: a frame goes on in its direction with HOPS lowered by one. -/
def State.passOn (s : State) (cw : Bool) (frame : Bytes) : State :=
  let hops := (u8 frame 1).toNat
  if hops ≤ 1 then s else s.putFrame cw (slice frame 0 1 ++ le 1 (hops - 1) ++ frame.drop 2)

/-! ### Delays and the time side -/

/-- Median of a list of measurements (the lower middle of an even number). Assumption log 71 (DEDUCED). -/
def median (l : List Int) : Int :=
  let s := l.insertionSort (· ≤ ·)
  s.getD ((s.length - 1) / 2) 0

/-- R301: a side's one-way delay, in 2^-16 ns. Assumption log 71 (DEDUCED). -/
def RingSide.delay (r : RingSide) : Int := median r.delays

/-- R301: a side whose TIME frames may be used. -/
def RingSide.usable (r : RingSide) : Bool := r.locked && decide (3 ≤ r.delays.length)

/-- Positions from this member to another, clockwise or counter-clockwise. -/
def Session.ringDist (x : Session) (cw : Bool) (p : Nat) : Nat :=
  let here := (x.placeOf x.rank).2
  if cw then (p + 32 - here) % 32 else (here + 32 - p) % 32

/-- Active hops to the ring master, clockwise or counter-clockwise: the active members reached on the way.
Assumption log 70 (DESIGN CHOICE). -/
def State.hopsTo (s : State) (x : Session) (cw : Bool) : Nat :=
  ((s.activeRanks x).filter fun r =>
    r ≠ x.rank && decide (x.ringDist cw (x.placeOf r).2 ≤ x.ringDist cw (x.placeOf (x.ringMaster x.ownRing)).2)).length

/-- R302: the side a member takes time from, clockwise true. -/
def State.timeSide (s : State) (i : Nat) : Option Bool :=
  let x := s.session i
  let first := decide (s.hopsTo x true ≤ s.hopsTo x false)
  if (s.side first).usable then some first
  else if (s.side (!first)).usable then some (!first)
  else none

/-! ### Holding a member, R326 to R328 -/

def rcConfig : Byte := 0x01
def rcVersion : Byte := 0x02
def rcState : Byte := 0x04
def rcTime : Byte := 0x08
def rcAbsent : Byte := 0x10
def rcSealLost : Byte := 0x20
def rcTimeLost : Byte := 0x40
def rcNoVerdict : Byte := 0x80

/-- R326: a member is held for reasons of its own; the session's arms are cleared without firing. -/
def State.hold (s : State) (i : Nat) (own : Byte) : State :=
  let s := s.onSession i fun x =>
    { x with held := { x.held with held := true, ownReasons := x.held.ownReasons ||| own,
                                   heldSince := if x.held.held then x.held.heldSince else s.time.now } }
  { s with tallies := (s.tallies.map fun e =>
      (e.1, match e.2.arm with
        | some (_, _, j, _) => if j = i then { e.2 with arm := none } else e.2
        | none => e.2)).filter fun e => decide (e.2 ≠ Tally.reset) }

/-! ### The servo -/

/-- A rate correction: the manual gives its limit of ±200 ppm and not its value (R292).
Assumption log 71 (DEDUCED). -/
def State.newRate (s : State) : State :=
  let v : Int := ((Config.freeWord s.draws).toNat % 1717987 : Nat)
  { s with draws := s.draws + 1, time := { s.time with rate := BitVec.ofInt 32 (v - 858993) } }

/-- Saturate an offset to 32 bits. Assumption log 71 (DEDUCED). -/
def clampOffset (x : Int) : W32 :=
  if x > (2147483647 : Int) then 0x7FFFFFFF else if x < (-2147483648 : Int) then 0x80000000 else BitVec.ofInt 32 x

/-- Enter HOLDOVER from LOCKED. Assumption log 71 (DEDUCED). -/
def State.enterHoldover (s : State) : State :=
  { s with time := { s.time with sync := .holdover, holdoverSince := s.time.now, holdoverUs := 0, good := 0 } }

/-- R295: microseconds spent in HOLDOVER since LOCKED was last left, as read now. Assumption log 71 (DEDUCED). -/
def TimeBase.holdoverNow (t : TimeBase) : W32 :=
  if t.sync = .holdover then satAdd t.holdoverUs ((t.now.toNat - t.holdoverSince.toNat) / ns 1000) else t.holdoverUs

/-- R292, R293: a step to a postmark, which never goes back. -/
def TimeBase.stepTo (t : TimeBase) (p : W64) : TimeBase :=
  if t.now.toNat < p.toNat then { t with now := p, fraction := 0 } else t

/-- R293, R302, R306: a usable TIME or TIMESTAMP that gives the parent's time. Assumption log 71 (DEDUCED). -/
def State.takeTime (s : State) (i : Nat) (parent : Int) : State :=
  let off : Int := (s.now : Int) - parent
  let inBand := decide (off.natAbs ≤ ns 2)
  let good := if inBand then s.time.good + 1 else 0
  let s := { s with time := { s.time with offset := clampOffset off, good := good, stepNeeded := decide (ns 2000 < off.natAbs) } }
  let s :=
    if s.time.sync = .acquiring ∧ ¬ (s.session i).epochOpen ∧ off < 0 then
      { s with time := { s.time.stepTo (BitVec.ofInt 64 parent) with stepNeeded := false } }
    else s.newRate
  let s := { s with time := { s.time with lastGood := s.time.now } }
  if s.time.sync = .locked then
    if ns 8 < off.natAbs then s.enterHoldover else s
  else if 16 ≤ good ∧ (s.time.sync = .acquiring ∨ s.time.sync = .holdover) then
    { s with time := { s.time with holdoverUs := s.time.holdoverNow, sync := .locked } }
  else s

/-- The TIME frames a member sends: its own postmark, in both directions. -/
def State.sendTime (s : State) (i : Nat) : State := s.sendBoth i 1 (w64 s.time.now)

/-- TIME_FRAME: `cw` is the frame's direction of travel, so it comes from the neighbour on the other side. -/
def execTimeFrame (cw : Bool) (frame : Bytes) (s : State) : Out :=
  .next <|
    match s.ringSession with
    | some i =>
      if s.ringUp ∧ ¬ s.time.grandmaster ∧ ¬ s.time.ringMaster then
        match s.openFrame i 1 frame with
        | some (_, _, b) =>
          if s.timeSide i = some (!cw) then
            let s := s.takeTime i ((fieldAt b 0 8 : Nat) + (s.side (!cw)).delay)
            let s := { s with time := { s.time with ringBroken := decide (16 < s.hopsTo (s.session i) (!cw)) } }
            s.sendTime i
          else s
        | none => s
      else s
    | none => s

/-- TIME_FRAME_TICK: 4,096 ns after the last. -/
def execTimeFrameTick (s : State) : Out :=
  .next <| match s.ringSession with
    | some i =>
      let due : Bool := match s.time.timeSent with | some t => decide (t.toNat + ns 4096 ≤ s.now) | none => true
      if s.time.ringMaster ∧ due then
        let s := s.sendTime i
        { s with time := { s.time with timeSent := some s.time.now } }
      else s
    | none => s

/-! ### Hop measurement -/

/-- A stamp resolves to 1/16 ns. -/
def stamp (t : Nat) : Nat := t / 4096 * 4096

/-- Send MEASURE toward a neighbour when one is due. -/
def State.measure (s : State) (i : Nat) (cw : Bool) : State :=
  let r := s.side cw
  let due := match r.sentAt with
    | some t => decide (t.toNat + ns 131072 ≤ s.now)
    | none => true
  if due then
    (s.sendFrame i cw 2 (w32 r.measSeq)).onSide cw fun r =>
      { r with measSeq := r.measSeq + 1, sentAt := some (BitVec.ofNat 64 (stamp s.now)) }
  else s

/-- MEASURE_TICK. -/
def execMeasureTick (s : State) : Out :=
  .next <| match s.ringSession with
    | some i => if s.ringUp then (s.measure i true).measure i false else s
    | none => s

/-- MEASURE: answered toward the neighbour it came from. -/
def execMeasure (cw : Bool) (frame : Bytes) (s : State) : Out :=
  .next <| match s.ringSession with
    | some i =>
      if s.ringUp then
        match s.openFrame i 2 frame with
        | some (_, _, b) =>
          s.sendFrame i (!cw) 3 (slice b 0 4 ++ zeros 4 ++ le 8 (stamp s.now) ++ le 8 (stamp s.now))
        | none => s
      else s
    | none => s

/-- MEASURE_REPLY. -/
def execMeasureReply (cw : Bool) (frame : Bytes) (s : State) : Out :=
  .next <| match s.ringSession with
    | some i =>
      if s.ringUp then
        match s.openFrame i 3 frame, (s.side (!cw)).sentAt with
        | some (_, _, b), some t1 =>
          let r := s.side (!cw)
          if u32 b 0 + 1 = r.measSeq then
            let d : Int := (((stamp s.now : Nat) : Int) - t1.toNat - ((fieldAt b 16 8 : Nat) - (fieldAt b 8 8 : Nat) : Int)) / 2
            s.onSide (!cw) fun r => { r with delays := (d :: r.delays).take 5 }
          else s
        | _, _ => s
      else s
    | none => s

/-! ### Bypass -/

/-- R295, R304: the ACTIVE figure of the ring that the port serves. -/
def State.countActive (s : State) : State :=
  match s.ringSession with
  | some i => { s with time := { s.time with active := BitVec.ofNat 6 (s.activeRanks (s.session i)).length } }
  | none => s

/-- R303, R304: this module's switch closes, or opens at the boundary of an IDLE frame; either way both sides measure
afresh, and the module leaves ACTIVE or enters it. -/
def State.ownBypass (s : State) (bothLocked idleBoundary : Bool) : State :=
  let warm := match s.resets.inReset with
    | some r => r = .warm || r = .cold || r = .powerOn
    | none => false
  let close := !s.power.converters || warm || s.ringSession.isNone || !bothLocked
  let fresh := fun (r : RingSide) => { r with locked := bothLocked, delays := [], sentAt := none }
  if close then
    { s with time := { s.time with bypassClosed := true, cw := { fresh s.time.cw with locked := false },
                                   ccw := { fresh s.time.ccw with locked := false } } }.countActive
  else if s.time.bypassClosed ∧ idleBoundary then
    { s with time := { s.time with bypassClosed := false, cw := fresh s.time.cw, ccw := fresh s.time.ccw } }.countActive
  else s

/-- No active member lies between this one and a position. -/
def State.besides (s : State) (x : Session) (cw : Bool) (p : Nat) : Bool :=
  (s.activeRanks x).all fun r =>
    let q := (x.placeOf r).2
    r = x.rank || q = p || decide (x.ringDist cw p < x.ringDist cw q)

/-- R304: the switch of another position of the ring closes or opens: it leaves ACTIVE or enters it, and a side on which
it is the neighbour loses lock and measures afresh. Assumption log 70 (DESIGN CHOICE). -/
def State.memberBypass (s : State) (i p : Nat) (closed : Bool) : State :=
  let x := s.session i
  if s.time.bypassed.getLsbD p = closed ∨ ¬ (x.ringRanks x.ownRing).any fun r => r ≠ x.rank ∧ (x.placeOf r).2 = p then s
  else
    let fresh := fun (cw : Bool) (r : RingSide) => if s.besides x cw p then { r with delays := [], sentAt := none } else r
    let b := if closed then s.time.bypassed ||| 1#32 <<< p else s.time.bypassed &&& ~~~(1#32 <<< p)
    let s := { s with time := { s.time with bypassed := b, cw := fresh true s.time.cw, ccw := fresh false s.time.ccw } }
    { s with time := { s.time with active := BitVec.ofNat 6 (s.activeRanks x).length } }

/-- BYPASS_SWITCH_CHANGE (R303, R304): a switch closes at once and opens at the boundary of an IDLE frame. -/
def execBypassSwitchChange (change : BypassChange) (idleBoundary : Bool) (s : State) : Out :=
  .next <| match change with
    | .own bothLocked => s.ownBypass bothLocked idleBoundary
    | .member p closed =>
      match s.ringSession with
      | some i => if closed || idleBoundary then s.memberBypass i p closed else s
      | none => s

/-! ### Krelas timestamps, R305 -/

/-- RESIDENCE: time since the peer's last TIMESTAMP. -/
def State.residence (s : State) (q : Port) : Nat :=
  match q.lastStamp with
  | some (_, at_) => if s.now - at_.toNat ≤ ns 65535 then s.now - at_.toNat else 0xFFFFFFFF
  | none => 0xFFFFFFFF

/-- TIMESTAMP_TICK. -/
def execTimestampTick (p : Nat) (s : State) : Out :=
  .next <|
    let q := s.port p
    if q.runs ∧ (q.lastSentStamp = 0 ∨ q.lastSentStamp.toNat + ns 4096 ≤ s.now) then
      (s.sendCtl p 4 (w64 s.time.now ++ le 4 (s.residence q))).onPort p fun q => { q with lastSentStamp := s.time.now }
    else s

/-- TIMESTAMP: on the gateway's TIME_PORT the block gives the parent's time. Assumption log 71 (DEDUCED). -/
def execTimestamp (p : Nat) (block : Bytes) (s : State) : Out :=
  .next <|
    if s.ctlReady p Port.runs then
      match s.takeCtl p 4 block with
      | (s, none) => s
      | (s, some b) =>
        let i := s.portSession p
        let q := s.port p
        let res := fieldAt b 8 4
        let d : Int := ((s.now : Int) - q.lastSentStamp.toNat - res) / 2
        let q := { q with
          lastStamp := some (u64 b 0, s.time.now)
          stampDelays := if res = 0xFFFFFFFF ∨ q.lastSentStamp = 0 then q.stampDelays else (d :: q.stampDelays).take 5 }
        let s := s.setPort p q
        let gateway : Bool := match (s.session i).consign with
          | some c => c.timePort = some p && (s.session i).isMaster && (s.session i).ownRing ≠ 0 && s.ringSession = some i
          | none => false
        if gateway ∧ 3 ≤ q.stampDelays.length then s.takeTime i ((fieldAt b 0 8 : Nat) + median q.stampDelays)
        else s
    else s

/-! ### Holdover -/

/-- HOLDOVER_TIMEOUT. -/
def execHoldoverTimeout (s : State) : Out :=
  .next <|
    if s.time.sync = .locked ∧ ¬ s.time.grandmaster ∧ s.time.lastGood.toNat + ns 65536 ≤ s.now then s.enterHoldover else s

/-- HOLDOVER_HELD. -/
def execHoldoverHeld (s : State) : Out :=
  .next <| match s.ringSession with
    | some i =>
      if s.time.sync = .holdover ∧ (s.session i).epochOpen ∧
          (s.time.holdoverSince.toNat + ns 10000000 ≤ s.now ∨ s.time.stepNeeded) then s.hold i rcTimeLost
      else s
    | none => s

/-- R295: the timebase words of the session that the ring serves. Assumption log 57 (DEDUCED), 70 (DESIGN CHOICE). -/
def State.joinRing (s : State) (i : Nat) : State :=
  let x := s.session i
  if s.ringSession = some i then
    let s := { s with time := { s.time with bypassed := 0 } }
    { s with time := { s.time with
        sync := if s.time.sync = .free then .acquiring else s.time.sync
        grandmaster := decide (x.rank = 0)
        ringMaster := x.isMaster
        ringPos := BitVec.ofNat 5 (x.placeOf x.rank).2
        ringNo := BitVec.ofNat 6 x.ownRing
        active := BitVec.ofNat 6 (s.activeRanks x).length } }
  else s

/-- The timebase when the ring's session has gone: the next consignment session takes the ring, or none does (R294,
R295). Assumption log 71 (DEDUCED). -/
def State.leaveRing (s : State) : State :=
  match s.ringSession with
  | some j => s.joinRing j
  | none =>
    { s with time := { s.time with sync := .free, holdoverUs := s.time.holdoverNow, grandmaster := false, ringMaster := false, ringPos := 0, ringNo := 0,
                                   active := 0, ringBroken := false, bypassed := 0 } }

/-! ### Messages, R318 -/

/-- A message as its receiver takes it: the session, the sender's rank (0 from a flit's SRC), hops left, the body, and
whether it came by flit. -/
structure Msg where
  sess : Nat
  src : Nat
  hops : Nat
  body : Bytes
  byFlit : Bool
  deriving DecidableEq, Repr

/-- Receive a message of a ring TYPE, carried on the ring or in a flit of a TYPE. Ring frames pass on cut-through. -/
def State.takeMsg (s : State) (rx : Rx) (type flitType : Nat) (m : Bytes) : State × Option Msg :=
  match rx with
  | .ring cw =>
    match s.ringSession with
    | some i =>
      if s.ringUp ∧ (u8 m 0).toNat = type ∧ type ≠ 5 then
        let r := s.openFrame i type m
        (s.passOn cw m, r.map fun q => ⟨i, q.1, q.2.1, q.2.2, false⟩)
      else (s, none)
    | none => (s, none)
  | .port p =>
    match s.takeTyped p flitType m with
    | (s, some f) =>
      if (u8 f.flit.payload 0).toNat = type ∧ zeroRange f.flit.payload 1 7 then
        (s, some ⟨s.portSession p, f.flit.src, 16, f.flit.payload.drop 8, true⟩)
      else (s, none)
    | (s, none) => (s, none)

/-- A message as a flit's payload. -/
def msgPayload (type : Nat) (body : Bytes) : Bytes := le 1 type ++ zeros 7 ++ body

/-- Send a message over Krelas to a rank by the routing table. -/
def State.sendMsg (s : State) (i flitType type dst : Nat) (body : Bytes) : State :=
  s.forward i ⟨flitType, dst, (s.session i).rank, false, false, msgPayload type body, 0, none⟩

/-- Send a message over a gateway's TIME_PORT to rank 0. Assumption log 72 (DESIGN CHOICE). -/
def State.sendUp (s : State) (i flitType type : Nat) (body : Bytes) : State :=
  let x := s.session i
  match x.consign.bind (·.timePort) with
  | some p => s.onPort p fun q =>
      { q with control := q.control ++ [⟨flitType, 0, x.rank, false, false, msgPayload type body, s.linkGen i, none⟩] }
  | none => s

/-- Send a message from rank 0 to every gateway. Assumption log 72 (DESIGN CHOICE). -/
def State.sendGateways (s : State) (i flitType type : Nat) (body : Bytes) : State :=
  let x := s.session i
  (x.rings.filter (· ≠ 0)).foldl (fun s r => s.sendMsg i flitType type (x.ringMaster r) body) s

/-- The GMAC tag of 32 bytes under the session's link key (R225, R323). Assumption log 17 (DESIGN CHOICE). -/
def State.recordTag (s : State) (i : Nat) (b : Bytes) : Bytes :=
  Crypto.gcmTag (s.slotKey i .link) ((List.range 12).map (Config.recordNonce b)) b []

end Sys2Proof.Machine
end

