-- ==== Sys2Proof/Machine/RollCall.lean ====
section
/-! DEFINITION. Roll call and group epochs (R320 to R325) and the SUMMARY of a ring (R319). -/

namespace Sys2Proof.Machine

/-! ### The manifest, R320 -/

/-- Configuration fields of a scale record as the manifest takes them, with its number. -/
def scaleConfigBytes (e : Nat × ScaleRec) : Bytes :=
  let r := e.2
  le 2 e.1 ++ [BitVec.ofNat 8 (r.fmt.toNat + 16 * r.policy.toNat + 64 * boolNat r.blockEn + 128 * boolNat r.voidOnMiss),
    BitVec.ofNat 8 r.margin.toNat, BitVec.ofNat 8 r.satShift.toNat, BitVec.ofNat 8 r.flushShift.toNat,
    BitVec.ofNat 8 r.histLen.toNat] ++ w32 r.staticScale ++ w64 r.scaleAddr

/-- The session configuration that CONFIG_DIGEST covers. Assumption log 72 (DESIGN CHOICE). -/
def Session.configBytes (x : Session) : Bytes :=
  ((x.scales.map scaleConfigBytes).flatten) ++ x.routingDigest ++
    ((x.groups.map fun g => le 2 g.length ++ (g.map (le 2)).flatten).flatten) ++
    slice x.config 3 1 ++ slice x.config 36 8 ++ slice x.config 32 4

/-- Module, half or quarter (R320 PIECE). -/
def Session.pieceSize (x : Session) : Nat := if x.dies = 4 then 0 else if x.dies = 2 then 1 else 2

/-- The manifest. Assumption log 72 (DESIGN CHOICE). -/
def State.manifest (s : State) (i : Nat) (epoch : W64) : Bytes :=
  let x := s.session i
  let places := (List.range x.members).map fun r => le 1 (x.placeOf r).1 ++ le 1 (x.placeOf r).2
  let slots := (x.lists.insertionSort fun a b => a.1 ≤ b.1).map fun l => l.2.digest
  let kernel := match x.kernel with | some k => k.digest | none => zeros 64
  w64 epoch ++ le 2 x.members ++ le 1 x.pieceSize ++ le 1 (boolNat x.noiseEn) ++ w32 x.sealRec.step ++
    w16 x.sealRec.attempt ++ zeros 6 ++ w64 s.fw.version ++ Crypto.sha512 s.fw.digests.flatten ++
    Crypto.sha512 places.flatten ++ Crypto.sha512 x.configBytes ++ Crypto.sha512 (slots.flatten ++ kernel) ++
    Crypto.sha512 (ascii "LSV960-SEED" ++ x.seed)

/-! ### Classification, R322 -/

/-- A member held for SEAL_LOST (R329). -/
def Session.sealLost (x : Session) : Bool := x.held.held && (x.held.ownReasons &&& rcSealLost) ≠ 0

/-- The held flag of a ROLL_CALL: a member held for SEAL_LOST (R329), or quarantined (R360).
Assumption log 58 (DEDUCED). -/
def Session.heldFlag (x : Session) : Bool := x.sealLost || x.mem.quarantined

/-- The body of a member's ROLL_CALL. Assumption log 72 (DESIGN CHOICE). -/
def State.rollBody (s : State) (i : Nat) (epoch : W64) (digest : Bytes) : Bytes :=
  let x := s.session i
  w64 s.time.now ++ w64 s.fw.version ++ w64 epoch ++ w32 x.sealRec.step ++ w16 x.sealRec.attempt ++
    le 1 (boolNat x.heldFlag) ++ [0] ++ digest ++ le 2 x.rank

/-- R322: the reasons of a body against the reference. -/
def classify (ref : Bytes) (b : Bytes) (timeBad : Bool) : Byte :=
  let version := decide (u64 b 8 ≠ u64 ref 8)
  let state := decide (u32 b 24 ≠ u32 ref 24 ∨ u16 b 28 ≠ u16 ref 28 ∨ u64 b 16 ≠ u64 ref 16) || bitOf (fieldAt b 30 1) 0
  let config := decide (slice b 32 64 ≠ slice ref 32 64) && !version && !state
  (if config then rcConfig else 0) ||| (if version then rcVersion else 0) ||| (if state then rcState else 0) |||
    (if timeBad then rcTime else 0)

/-- R322: the reasons of a rank of one's ring: ABSENT when no message of it is held, or no reference is. -/
def RollCall.reasonsOf (r : RollCall) (rank : Nat) : Byte :=
  match r.heard.find? (·.rank = rank), r.reference with
  | some m, some ref => classify ref m.body m.timeBad
  | _, _ => rcAbsent

/-- Keep a message, one a rank. -/
def RollCall.hear (r : RollCall) (m : RollMsg) : RollCall :=
  if r.heard.any (·.rank = m.rank) then r else { r with heard := r.heard ++ [m] }

/-! ### Summaries, R319 -/

/-- The reason map of a summary: bitmap `b` has bit `n` set when position `n` carried reason bit `b`. -/
def reasonMap (l : List (Nat × Nat)) : Bytes :=
  ((List.range 10).map fun b =>
    le 4 (((l.filter fun e => bitOf e.2 b).map fun e => 2 ^ e.1).eraseDups.sum)).flatten

/-- Positions as a bitmap. -/
def positions (l : List Nat) : Nat := (l.eraseDups.map fun p => 2 ^ p).sum

/-- OR of a list of reasons. -/
def orAll (l : List Nat) : Nat := l.foldl (· ||| ·) 0

/-- A SUMMARY body. Assumption log 72 (DESIGN CHOICE). -/
def summaryBody (kind ring : Nat) (l : List (Nat × Nat)) (heard : List Nat) (ref step attempt : Nat) (digest : Bytes)
    (epoch : Nat) : Bytes :=
  le 1 kind ++ le 1 ring ++ le 2 (orAll (l.map (·.2))) ++ le 4 (positions heard) ++ le 8 ref ++ le 4 step ++
    le 2 attempt ++ zeros 2 ++ reasonMap l ++ padTo 64 (digest.take 64) ++ le 8 epoch

/-- The roll-call SUMMARY of a ring master. -/
def Session.rollSummary (x : Session) (r : RollCall) : Bytes :=
  let ranks := x.ringRanks x.ownRing
  summaryBody 2 x.ownRing (ranks.map fun k => ((x.placeOf k).2, (r.reasonsOf k).toNat))
    ((ranks.filter fun k => r.heard.any (·.rank = k)).map fun k => (x.placeOf k).2) r.p.toNat 0 0 (slice r.body 32 64)
    r.epoch.toNat

/-- The seal SUMMARY of a ring master. -/
def Session.sealSummary (x : Session) (q : Sealing) : Bytes :=
  let ranks := x.ringRanks x.ownRing
  let mine := x.votes.filter fun v => ranks.contains v.rank && v.step = x.sealRec.step && v.attempt = x.sealRec.attempt
  summaryBody 1 x.ownRing (mine.map fun v => ((x.placeOf v.rank).2, v.reasons.toNat))
    (mine.map fun v => (x.placeOf v.rank).2) q.launch.toNat x.sealRec.step.toNat x.sealRec.attempt.toNat (zeros 64) 0

/-- R318: every active member of the ring has been heard from. -/
def State.ringHeard (s : State) (x : Session) (heard : Nat → Bool) : Bool := (s.activeRanks x).all heard

/-- The seal summary of a ring other than ring 0 leaves, when its ring is complete or its deadline has come. -/
def State.sealSummaryDue (s : State) (i : Nat) : State :=
  let x := s.session i
  match x.sealing with
  | some q =>
    if x.isMaster ∧ x.ownRing ≠ 0 ∧ ¬ x.sealSummarySent ∧
        (s.ringHeard x (fun k => x.votes.any fun v => v.rank = k ∧ v.step = x.sealRec.step ∧ v.attempt = x.sealRec.attempt) ∨
          q.launch.toNat + ns q.decideNs ≤ s.now + ns 1400) then
      (s.sendUp i 2 5 (x.sealSummary q)).onSession i fun x => { x with sealSummarySent := true }
    else s
  | none => s

/-- The roll-call summary likewise. -/
def State.rollSummaryDue (s : State) (i : Nat) : State :=
  let x := s.session i
  match x.roll with
  | some r =>
    if x.isMaster ∧ x.ownRing ≠ 0 ∧ r.sent ∧ ¬ r.summarySent ∧
        ((s.ringHeard x (fun k => r.heard.any (·.rank = k)) ∧ r.reference.isSome) ∨ r.p.toNat + ns 48000 ≤ s.now) then
      (s.sendUp i 4 5 (x.rollSummary r)).onSession i fun x => { x with roll := some { r with summarySent := true } }
    else s
  | none => s

/-- SUMMARY_DEADLINE. -/
def execSummaryDeadline (i : Nat) (s : State) : Out := .next ((s.sealSummaryDue i).rollSummaryDue i)

/-- SUMMARY: held by rank 0 until it decides. -/
def execSummary (p : Nat) (m : Bytes) (s : State) : Out :=
  .next <|
    let kind := if bitsAt m 0 1 3 0 = 4 then 4 else 2
    match s.takeMsg (.port p) 5 kind m with
    | (s, some g) =>
      s.onSession g.sess fun x =>
        if x.rank ≠ 0 ∨ x.consign.isNone then x
        else if (u8 g.body 0).toNat = 1 then { x with ringSummaries := x.ringSummaries ++ [g.body] }
        else
          match x.roll with
          | some r => if u64 g.body 8 = r.p then { x with roll := some { r with summaries := r.summaries ++ [g.body] } } else x
          | none => x
    | (s, none) => s

/-! ### Roll call -/

/-- ROLL_CALL_POSTMARK. -/
def execRollCallPostmark (i : Nat) (s : State) : Out :=
  .next <|
    let x := s.session i
    match x.roll with
    | some r =>
      if r.sent ∨ s.now < r.p.toNat then s
      else
        let digest := Crypto.sha512 (s.manifest i r.epoch)
        let body := s.rollBody i r.epoch digest
        let own : RollMsg := ⟨x.rank, body, s.time.sync ≠ .locked⟩
        let r := { r with sent := true, body := body, reference := if x.rank = 0 then some body else r.reference }
        let s := s.onSession i fun x => { x with manifest := digest, roll := some (r.hear own) }
        let s := s.sendBoth i 7 body
        if x.rank = 0 then s.sendGateways i 4 7 body else s
    | none => s

/-- R318: a gateway sends a message that came to it by flit around its own ring, where `fit` holds of it. -/
def State.relay (s : State) (g : Msg) (type : Nat) (fit : Bool) : State :=
  let x := s.session g.sess
  if g.byFlit ∧ fit ∧ x.isMaster ∧ x.ownRing ≠ 0 then s.sendBoth g.sess type g.body else s

/-- R322: the time of a message from the ring is out: its arrival less the path delay, this member's own hop and the
`rest` of the hops on the way, differs from SEND_POSTMARK by more than 100 ns. -/
def State.rollTimeBad (s : State) (cw : Bool) (rest : Nat) (g : Msg) : Bool :=
  let path : Int := (s.side (!cw)).delay + rest
  decide (ns 100 < ((s.now : Int) - path - (fieldAt g.body 0 8 : Nat)).natAbs)

/-- ROLL_CALL_MESSAGE. R322 makes a sender that is not LOCKED a case of TIME, and its message says nothing of it, nor of the
delays that other members measured on its path: the command does. A gateway sends rank 0's message around its ring (R318).
Assumption log 58 (DEDUCED). -/
def execRollCallMessage (sender : RollSender) (m : Bytes) (s : State) : Out :=
  .next <|
    match s.takeMsg sender.rx 7 4 m with
    | (s, some g) =>
      let x := s.session g.sess
      let rank := fieldAt g.body 96 2
      match x.roll with
      | some r =>
        let r := if rank = 0 ∧ r.reference.isNone then { r with reference := some g.body } else r
        let bad := !sender.locked || match sender.rx with | .ring cw => s.rollTimeBad cw sender.path g | .port _ => false
        let r := if x.isMaster ∧ ¬ r.summarySent ∧ (x.ringRanks x.ownRing).contains rank then
            r.hear ⟨rank, g.body, bad⟩ else r
        let s := s.onSession g.sess fun x => { x with roll := some r }
        s.relay g 7 (rank = 0)
      | none => s.relay g 7 (rank = 0)
    | (s, none) => s

/-- Reasons of every rank as rank 0 gathers them (R322). -/
def Session.rollReasons (x : Session) (r : RollCall) : List (Nat × Byte) :=
  (List.range x.members).map fun k =>
    let (ring, pos) := x.placeOf k
    if ring = 0 then (k, r.reasonsOf k)
    else
      match r.summaries.find? fun b => (u8 b 1).toNat = ring with
      | none => (k, rcAbsent)
      | some b =>
        let own : Byte := (List.range 8).foldl (fun a n => if bitOf (fieldAt b (24 + 4 * n) 4) pos then setBit a n else a) 0
        let head : Byte :=
          if k ≠ x.ringMaster ring then 0
          else if u64 b 128 ≠ r.epoch then rcState
          else if slice b 64 64 ≠ slice r.body 32 64 ∧ own &&& (rcVersion ||| rcState) = 0 then rcConfig
          else 0
        (k, own ||| head)

/-- ROLL_CALL_DECIDE. -/
def execRollCallDecide (i : Nat) (s : State) : Out :=
  .next <|
    let x := s.session i
    match x.roll with
    | some r =>
      let all := ((x.ringRanks x.ownRing).all fun k => r.heard.any (·.rank = k)) &&
        (x.rings.filter (· ≠ 0)).all fun g => r.summaries.any fun b => (u8 b 1).toNat = g
      if x.rank ≠ 0 ∨ ¬ r.sent ∨ r.verdict.isSome ∨ ¬ (all ∨ r.p.toNat + ns 50000 ≤ s.now) then s
      else
        let rs := x.rollReasons r
        let reasons := orAll (rs.map fun e => e.2.toNat)
        let d : Byte := if reasons = 0 then 1 else 2
        let head := w64 r.epoch ++ [d, 0] ++ le 2 reasons ++ zeros 4 ++ le 8 (r.p.toNat + ns 100000) ++ w64 r.p
        let body := head ++ s.recordTag i head
        let s := s.onSession i fun x =>
          { x with
            roll := some { r with verdict := some (d, BitVec.ofNat 16 reasons) }
            held := { x.held with reasonOf := (rs.filter fun e => e.2 ≠ 0) } }
        (s.sendBoth i 8 body).sendGateways i 4 8 body
    | none => s

/-- VERDICT: a member holds it, and a gateway sends it around its ring (R318, R323). -/
def execVerdict (rx : Rx) (m : Bytes) (s : State) : Out :=
  .next <|
    match s.takeMsg rx 8 4 m with
    | (s, some g) =>
      let x := s.session g.sess
      match x.roll with
      | some r =>
        let s := if slice g.body 32 16 = s.recordTag g.sess (slice g.body 0 32) ∧ u64 g.body 0 = r.epoch ∧ r.verdict.isNone then
            s.onSession g.sess fun x => { x with roll := some { r with verdict := some (u8 g.body 8, u16 g.body 10) } }
          else s
        s.relay g 8 true
      | none => s.relay g 8 true
    | (s, none) => s

/-- R324: an epoch opens. -/
def State.openEpoch (s : State) (i : Nat) (e : W64) : State :=
  let s := s.onSession i fun x =>
    { x with epoch := e, epochOpen := true, roll := none, frameSeq := 0,
             held := { x.held with held := false, ownReasons := 0, groupReasons := 0, epoch := e } }
  (List.range 18).foldl (fun s p =>
    let q := s.port p
    if q.bound ∧ q.session.toNat = i then
      let s := s.onPort p fun q => { q with epochTagFail := 0 }
      if q.runs ∨ q.state = .keying then s.enterKeying p else s
    else s) s

/-- R324, R327: at OPEN_POSTMARK an epoch opens, or the member is held for the reasons its own roll call gave.
Assumption log 58 (DEDUCED). -/
def State.epochDue (s : State) (i : Nat) : State :=
  match (s.session i).roll with
  | some r =>
    if s.now < r.p.toNat + ns 100000 then s
    else
      let own : Byte := match r.reference with
        | some ref => classify ref r.body ((r.heard.find? (·.rank = (s.session i).rank)).any (·.timeBad))
        | none => 0
      match r.verdict with
      | some (d, reasons) =>
        if d = 1 then s.openEpoch i r.epoch
        else
          (s.hold i own).onSession i fun x =>
            { x with roll := none, held := { x.held with groupReasons := BitVec.ofNat 8 reasons.toNat, epoch := r.epoch } }
      | none =>
        (s.hold i (own ||| rcNoVerdict)).onSession i fun x =>
          { x with roll := none, held := { x.held with epoch := r.epoch } }
  | none => s

/-- EPOCH_OPEN. -/
def execEpochOpen (i : Nat) (s : State) : Out := .next (s.epochDue i)

end Sys2Proof.Machine
end

