-- ==== Sys2Proof/Machine/Seal.lean ====
section
/-! DEFINITION. The step seal: the close of a step (R159 to R164, R223, R224), the decision (R225, R230) and its
application (R226 to R229, R557, R592). -/

namespace Sys2Proof.Machine

/-! ### Scale records together -/

/-- Change every one of the 4,096 scale records of a session alike (R154). -/
def mapScales (f : ScaleRec → ScaleRec) (t : Table ScaleRec) : Table ScaleRec :=
  let l := if f ScaleRec.reset = ScaleRec.reset then t.map fun e => (e.1, f e.2)
    else (List.range 4096).map fun r => (r, f (Table.get ScaleRec.reset t r))
  l.filter fun e => decide (e.2 ≠ ScaleRec.reset)

/-- R592: a step, or a replay of one, starts: scales (R150, R157), the reasons gathered and the recorded noise outputs
(R237). -/
def Session.startAttempt (x : Session) : Session :=
  { x with scales := mapScales ScaleRec.startStep x.scales, voteReasons := 0, updNanInAttempt := false, outputs := [],
           piece := { x.piece with retired := [] } }

/-! ### The close and the vote -/

/-- R161: the attempt is already a scale replay. -/
def Session.isReplay (x : Session) : Bool := x.scales.any fun e => e.2.replay

/-- R224: the reasons of this member's vote, its records evaluated. -/
def Session.sealReasons (x : Session) (d : Bytes) : BitVec 16 :=
  let miss := x.scales.any fun e => e.2.miss && e.2.voidOnMiss
  x.voteReasons ||| (if x.mem.quarantined then rsContextStop else 0) ||| (if miss && !x.isReplay then rsScaleMiss else 0) |||
    (if bitOf (fieldAt d 35 1) 4 && x.updNanInAttempt then rsUpdateNan else 0) |||
    (if bitOf (fieldAt d 35 1) 5 then rsSoftware else 0)

/-- STEP_SEAL: the close of the step. -/
def execStepSeal (o : OpRef) (s : State) : Out :=
  let i := o.session
  .next <| match s.launched o opSeal, (s.session i).sealing with
    | some p, some q =>
      if q.voteSent ∨ ¬ (q.ctx = p.ctx ∧ q.seq = p.seq) then s
      else
        let s := s.onSession i fun x => { x with scales := mapScales ScaleRec.evaluate x.scales }
        let x := s.session i
        let r := x.sealReasons p.desc
        let v : Vote := ⟨x.rank, x.sealRec.step, x.sealRec.attempt, r, q.launch⟩
        let s := s.setSession i { x with sealing := some { q with voteSent := true, ownReasons := r }, votes := x.votes ++ [v] }
        if x.isConsignment then
          s.sendBoth i 4 (w32 x.sealRec.step ++ w16 x.sealRec.attempt ++ w16 r ++ w64 q.launch)
        else s
    | _, _ => s

/-- R318: a vote of a ring counts until the SUMMARY of its step and attempt has left; one of a later step is kept for
it. -/
def Session.voteLate (x : Session) (v : Vote) : Bool :=
  x.sealSummarySent && v.step = x.sealRec.step && v.attempt = x.sealRec.attempt

/-- Votes and summaries of a step and attempt after the one that ends, kept for their own. -/
def Session.laterThan (x : Session) (step : W32) (attempt : BitVec 16) : Bool :=
  decide (x.sealRec.step.toNat < step.toNat ∨ (x.sealRec.step = step ∧ x.sealRec.attempt.toNat < attempt.toNat))

/-- What the vote of the attempt that ends leaves behind. -/
def Session.clearVotes (x : Session) : Session :=
  { x with
    sealing := none, sealSummarySent := false, votes := x.votes.filter fun v => x.laterThan v.step v.attempt
    ringSummaries := x.ringSummaries.filter fun b => x.laterThan (u32 b 16) (u16 b 20) }

/-- VOTE: counted by the master of the ring until its summary has left. -/
def execVote (rx : Rx) (m : Bytes) (s : State) : Out :=
  .next <|
    match s.takeMsg rx 4 2 m with
    | (s, some g) =>
      let v : Vote := ⟨g.src, u32 g.body 0, u16 g.body 4, u16 g.body 6, u64 g.body 8⟩
      s.onSession g.sess fun x =>
        if x.isMaster ∧ ¬ x.voteLate v ∧ (x.ringRanks x.ownRing).contains g.src ∧
            ¬ (x.votes.any fun w => w.rank = g.src && w.step = v.step && w.attempt = v.attempt) then
          { x with votes := x.votes ++ [v] }
        else x
    | (s, none) => s

/-! ### The decision -/

/-- R225: what the decider holds of a rank for the step and attempt: its reasons, if a vote of it was heard. -/
def Session.voteOf (x : Session) (rank : Nat) : Option Nat :=
  let (ring, pos) := x.placeOf rank
  if x.consign.isNone ∨ ring = 0 then
    (x.votes.find? fun v => v.rank = rank && v.step = x.sealRec.step && v.attempt = x.sealRec.attempt).map
      fun v => v.reasons.toNat
  else
    match x.ringSummaries.find? fun b => (u8 b 1).toNat = ring && u32 b 16 = x.sealRec.step && u16 b 20 = x.sealRec.attempt with
    | some b =>
      if bitOf (fieldAt b 4 4) pos then
        some (orAll ((List.range 10).map fun n => if bitOf (fieldAt b (24 + 4 * n) 4) pos then 2 ^ n else 0))
      else none
    | none => none

/-- The first 32 bytes of a decision record. -/
def recordHead (step : W32) (attempt : BitVec 16) (commit : Bool) (voters : Nat) (reasons : BitVec 16) (flip : Nat) : Bytes :=
  w32 step ++ w16 attempt ++ le 1 (if commit then 1 else 2) ++ [0] ++ le 2 voters ++ w16 reasons ++ zeros 4 ++
    le 8 flip ++ zeros 8

/-- R225: the decider's record. -/
def State.decisionRecord (s : State) (i : Nat) (q : Sealing) : Bytes :=
  let x := s.session i
  let vs := (List.range x.members).map x.voteOf
  let heard := vs.filterMap id
  let missing : Bool := heard.length < vs.length
  let reasons := BitVec.ofNat 16 (orAll heard) ||| (if missing then rsMissing else 0)
  let head := recordHead x.sealRec.step x.sealRec.attempt (!missing && reasons = 0) heard.length reasons
    (q.launch.toNat + ns q.flipNs)
  head ++ s.recordTag i head

/-- SEAL_COLLECTION_CLOSE. -/
def execSealCollectionClose (i : Nat) (s : State) : Out :=
  .next <|
    let x := s.session i
    match x.sealing with
    | some q =>
      if x.rank = 0 ∧ q.voteSent ∧ x.decision.isNone ∧
          (x.consign.isNone ∨ q.launch.toNat + ns q.decideNs ≤ s.now) then
        let r := s.decisionRecord i q
        let s := s.setSession i { x with decision := some r }
        if x.consign.isSome then (s.sendBoth i 6 r).sendGateways i 3 6 r else s
      else s
    | none => s

/-- A decision record that fits the member's step and attempt and whose tag verifies. -/
def State.recordFits (s : State) (i : Nat) (r : Bytes) : Bool :=
  let x := s.session i
  slice r 32 16 = s.recordTag i (slice r 0 32) && u32 r 0 = x.sealRec.step && u16 r 4 = x.sealRec.attempt

/-- DECISION. -/
def execDecision (rx : Rx) (m : Bytes) (s : State) : Out :=
  .next <|
    match s.takeMsg rx 6 3 m with
    | (s, some g) =>
      let x := s.session g.sess
      let r := slice g.body 0 48
      let s := if s.recordFits g.sess r ∧ x.decision.isNone then s.setSession g.sess { x with decision := some r } else s
      if g.byFlit ∧ x.isMaster ∧ x.ownRing ≠ 0 then s.sendBoth g.sess 6 r else s
    | (s, none) => s

/-! ### Applying it -/

/-- Change every page record alike. -/
def mapPages (f : Page → Page) (t : Table Page) : Table Page :=
  (t.map fun e => (e.1, f e.2)).filter fun e => decide (e.2 ≠ ⟨false, false, 0⟩)

/-- R213: a pending page's other copy becomes current. -/
def Page.flip (p : Page) : Page := if p.pending then { p with current := !p.current, pending := false } else p

/-- R226, R152, R163, R236: the commit of a step on the session's state. -/
def Session.commitStep (x : Session) (flip : W64) : Session :=
  let step := x.sealRec.step
  let last : Bool := step = BitVec.allOnes 32
  let x := x.clearVotes
  let x := { x with
    pages := mapPages Page.flip x.pages
    scales := mapScales (ScaleRec.commit step) x.scales
    noise := x.noise.filter fun r => r.step ≠ step
    upd := { x.upd with noiseSteps := satAdd x.upd.noiseSteps (boolNat x.noiseRan) }
    noiseRan := false
    exhausted := x.exhausted || last
    sealRec := { x.sealRec with
      step := if last then step else step + 1
      attempt := 0
      lastDecision := 1
      sealing := false
      lastFlip := flip
      commitCount := satAdd x.sealRec.commitCount 1 } }
  x.startAttempt

/-- R227, R162: the void of an attempt on the session's state. Assumption log 73 (DESIGN CHOICE). -/
def Session.voidStep (x : Session) (flip : W64) (reasons : BitVec 16) : Session :=
  let x := { x.clearVotes with
    pages := mapPages (fun p => { p with pending := false }) x.pages
    scales := if reasons &&& rsScaleMiss ≠ 0 then mapScales ScaleRec.voidMiss x.scales else x.scales
    sealRec := { x.sealRec with
      attempt := if x.sealRec.attempt = BitVec.allOnes 16 then x.sealRec.attempt else x.sealRec.attempt + 1
      lastDecision := 2
      sealing := false
      lastReasons := reasons
      lastFlip := flip
      voidCount := satAdd x.sealRec.voidCount 1 } }
  x.startAttempt

/-- R557: each quarter's retired slots of the attempt become void. -/
def State.voidSlots (s : State) (x : Session) : State :=
  (List.range x.dies).foldl (fun s k =>
    let q := x.top + k
    let n := x.piece.retired.getD k 0
    let v := vget (Vector.replicate 16 0) s.perf.slots q
    let v := vset (vset v 0 (vget 0 v 0 - BitVec.ofNat 64 n)) 3 (satAdd (vget 0 v 3) n)
    { s with perf := { s.perf with slots := vset s.perf.slots q v } }) s

/-- R226, R227: apply a decision record to a session whose STEP_SEAL is in progress.
Assumption log 73 (DESIGN CHOICE). -/
def State.applyRecord (s : State) (i : Nat) (r : Bytes) : State :=
  let x := s.session i
  match x.sealing with
  | none => s
  | some q =>
    match x.op? q.ctx q.seq with
    | none => s
    | some o =>
      if u8 r 6 = 1 then (s.setSession i (x.commitStep (u64 r 16))).completeOp i o stOk
      else
        let spent : Bool := x.sealRec.attempt = BitVec.allOnes 16
        let s := (s.voidSlots x).setSession i (x.voidStep (u64 r 16) (u16 r 10))
        let s := s.completeOp i o stVoided
        s.onSession i fun x =>
          if spent then x.stopCtxAt o.ctx stVoided o.slot o.index
          else if ¬ (x.ctx o.ctx).live then x
          else if (x.descAt? q.replaySlot q.replayIndex).isNone then x.stopCtxAt o.ctx stRefused o.slot o.index
          else x.jump o.ctx q.replaySlot q.replayIndex

/-- SEAL_FLIP: a member with a record applies it; one without is held for SEAL_LOST (R229).
Assumption log 3 (DESIGN CHOICE). -/
def execSealFlip (i : Nat) (s : State) : Out :=
  .next <|
    let x := s.session i
    match x.sealing with
    | some q =>
      if ¬ q.voteSent ∨ (x.consign.isSome ∧ s.now < q.launch.toNat + ns q.flipNs) ∨ x.sealLost then s
      else
        match x.decision with
        | some r => s.applyRecord i r
        | none =>
          if x.consign.isNone then s
          else
            (s.hold i rcSealLost).onSession i fun x =>
              { x with sealRec := { x.sealRec with lastDecision := 3 }, held := { x.held with epoch := x.epoch } }
    | none => s

end Sys2Proof.Machine
end

