-- ==== Sys2Proof/Machine/Objects.lean ====
section
/-! DEFINITION. Memory-class descriptors: the far tier (R365 to R370, R455 to R457), sealed checkpoints (R371 to R375),
their timeouts (R451), and the key-epoch sweep (R355). -/

namespace Sys2Proof.Machine

/-! ### The host port as a requester -/

/-- R451, R458, R462: the module may issue CXL.cache requests. -/
def State.cacheReady (s : State) : Bool := s.host.linkUp && s.fw.state = .running && s.host.ideMem ≠ .lost

/-- R456, R462: the module may issue UIO requests. -/
def State.uioReady (s : State) : Bool := s.host.linkUp && s.fw.state = .running && s.host.uioEnable

/-! ### The far range -/

/-- R359: a run of far data read, line by line. -/
def Job.readFar (j : Job) (off len : Nat) : Job × Bytes :=
  let r := (linesOf off len).foldl
    (fun (acc : Job × List Bytes) q =>
      let j := acc.1
      if j.live then
        let x := j.st.session j.sess
        if x.struck (x.lineOwner (.far j.sess) q.1) then (j.meet j.st stRevoked, zeros q.2.2 :: acc.2)
        else
          let (s, st, b) := j.st.readLine j.sess (.far j.sess) q.1 false
          (j.meet s st, slice b q.2.1 q.2.2 :: acc.2)
      else (j, zeros q.2.2 :: acc.2)) (j, [])
  (r.1, r.2.reverse.flatten)

/-- A run of far data written, line by line. -/
def Job.writeFar (j : Job) (off : Nat) (b : Bytes) : Job :=
  (linesOf off b.length).foldl (fun j q =>
    if j.live then
      let x := j.st.session j.sess
      if x.struck (x.lineOwner (.far j.sess) q.1) then j.meet j.st stRevoked
      else
        let (s, st) := j.st.writeLine j.sess (.far j.sess) q.1 q.2.1 (slice b (64 * q.1 + q.2.1 - off) q.2.2)
        j.meet s st
    else j) j

/-! ### FAR_MOVE -/

def fmLength (d : Bytes) : Nat := fieldAt d 32 8
def fmOut (d : Bytes) : Bool := bitOf (fieldAt d 40 1) 0
def fmParty (d : Bytes) : Nat := bitsAt d 40 1 5 1
def fmHbm (d : Bytes) : Nat := fieldAt d 48 8 % 2 ^ 62
def fmFar (d : Bytes) : Nat := fieldAt d 56 8

/-- A page, verified at the source and franked anew at the destination (R369); of a page that goes out, the first `n`
bytes. -/
def Job.movePage (j : Job) (d : Bytes) (n k : Nat) : Job :=
  if fmOut d then
    let (j, b) := j.readHbm (fmHbm d + 4096 * k) 4096
    if j.live then j.writeFar (fmFar d + 4096 * k) (b.take n) else j
  else
    let (j, b) := j.readFar (fmFar d + 4096 * k) 4096
    if j.live then j.writeHbm (fmHbm d + 4096 * k) b else j

/-- The first `n` pages in ascending order (R369). -/
def Job.movePages (j : Job) (d : Bytes) (n : Nat) : Job := (List.range n).foldl (fun j k => j.movePage d 4096 k) j

/-- Pages of a FAR_MOVE. -/
def fmPages (d : Bytes) : Nat := fmLength d / 4096

/-- R370: the first FAR_MOVE in start order runs. -/
def Session.farTurn (x : Session) (p : Op) : Bool :=
  ((x.ops.find? fun o => o.code = opFarMove && o.stage ≠ .finished).map fun o => (o.ctx, o.seq)) = some (p.ctx, p.seq)

/-- FAR_MOVE. Assumption log 78 (DEDUCED). -/
def execFarMove (o : OpRef) (s : State) : Out :=
  .next <| match s.launched o opFarMove with
    | some p =>
      if (s.session o.session).farTurn p ∧ s.uioReady then
        let j := (s.job o.session p (fmParty p.desc)).movePages p.desc (fmPages p.desc)
        j.st.finishOp o.session p j.status
      else s
    | none => s

/-- Stored lines of the far range that a failed read may be for: a group or node, a tag line, a line.
Assumption log 78 (DEDUCED). -/
inductive FarFault where
  | item (q : Item)
  | tag (t : Nat)
  | line (l : Nat)
  deriving DecidableEq, Repr

/-- What an access of a far line reads: the items that its walk fetches and, where the far tier is the source, the tag line
and the line of one that is not fresh. Assumption log 78 (DEDUCED). -/
def State.farReads (s : State) (i line : Nat) (source : Bool) : List FarFault :=
  let sp := Space.far i
  let ch := s.chan sp
  (((s.path sp (groupItem line)).reverse.takeWhile fun q => !ch.resident q).filter fun q => ch.version q ≠ 0).map .item ++
    if source ∧ ch.pair line ≠ (0, 0) then [.tag (line / 8), .line line] else []

/-- The condition of a stored line of the far range. -/
def Channel.condAt (ch : Channel) : FarFault → LineCond
  | .item q => if q.1 = 0 then Table.get .good ch.groups (8 * q.2) else Table.get .good ch.nodes q.key
  | .tag t => Table.get .good ch.tagLines t
  | .line l => Table.get .good ch.lines l

@[inherit_doc Channel.condAt] def Channel.setCondAt (ch : Channel) (c : LineCond) : FarFault → Channel
  | .item q =>
    if q.1 = 0 then { ch with groups := Table.set .good ch.groups (8 * q.2) c }
    else { ch with nodes := Table.set .good ch.nodes q.key c }
  | .tag t => { ch with tagLines := Table.set .good ch.tagLines t c }
  | .line l => { ch with lines := Table.set .good ch.lines l c }

/-- R358, R370, R457: the page of far line `line` of a move meets an error completion on that line, `pick` choosing among
what its access reads: that is uncorrectable while the page runs, and every rule of R358 follows. Where the access reads
nothing, the page's bytes up to the line have gone out and the write is what failed. Assumption log 78 (DEDUCED). -/
def Job.failPage (j : Job) (d : Bytes) (line pick : Nat) : Job :=
  let sp := Space.far j.sess
  let choices := j.st.farReads j.sess (fmFar d / 64 + line) (!fmOut d)
  let k := line / 64
  let j := match choices[pick % choices.length]? with
    | some f =>
      let was := (j.st.chan sp).condAt f
      let j := ({ j with st := j.st.onChan sp fun ch => ch.setCondAt LineCond.uncorrectable f }).movePage d 4096 k
      { j with st := j.st.onChan sp fun ch => if ch.condAt f = LineCond.uncorrectable then ch.setCondAt was f else ch }
    | none => if fmOut d then j.movePage d (64 * (line % 64 + 1)) k else j
  if j.live then j.meet (j.st.onMem j.sess fun m => { m with uncorrectable := satAdd m.uncorrectable 1 }) stUncorrectable
  else j

/-- UIO_COMPLETION: a completion for the far request of the session's running FAR_MOVE; an error or poison is an
uncorrectable error (R358, R457). Which of the move's far lines it is for is open; the pages before it have moved.
Assumption log 78 (DEDUCED). -/
def execUioCompletion (i : Nat) (st : UioStatus) (s : State) : Out :=
  .next <| match (s.session i).ops.find? fun o => o.code = opFarMove && o.stage ≠ .finished with
    | some p =>
      if p.stage ≠ .launched ∨ st = .success ∨ ¬ s.uioReady then s
      else
        let d := p.desc
        let (n, s) := s.draw
        let line := (Config.freeWord n).toNat % (64 * fmPages d)
        let j := (s.job i p (fmParty d)).movePages d (line / 64)
        let j := if j.live then j.failPage d line ((Config.freeWord n).toNat / 2 ^ 48) else j
        j.st.finishOp i p j.status
    | none => s

/-- R370, R451: a launched operation's limit of `n` tens of microseconds has passed.
Assumption log 85 (DESIGN CHOICE). -/
def State.overdue (s : State) (p : Op) (n : Nat) : Bool := decide (p.launchedAt.toNat + ns (10000 * n) ≤ s.now)

/-- FAR_MOVE_TIMEOUT. -/
def execFarMoveTimeout (o : OpRef) (s : State) : Out :=
  .next <| match s.launched o opFarMove with
    | some p => if s.overdue p (fieldAt p.desc 44 2) then s.stopOp o.session p stTimeout else s
    | none => s

/-! ### Checkpoints -/

def ckLength (d : Bytes) : Nat := fieldAt d 32 8
def ckParty (d : Bytes) : Nat := bitsAt d 40 1 4 0
def ckMem (d : Bytes) : Nat := fieldAt d 48 8 % 2 ^ 62
def ckHost (d : Bytes) : Nat := fieldAt d 56 8

/-- Chunks of an object of `n` bytes. -/
def ckChunks (n : Nat) : Nat := (n + 1048575) / 1048576

/-- Payload bytes of chunk `k`. -/
def ckPayload (n k : Nat) : Nat := min 1048576 (n - 1048576 * k)

/-- Stride of a chunk in host memory. -/
def ckStride : Nat := 1052672

/-- R373: an object's chunk key. -/
def State.chunkKey (s : State) (i party : Nat) (salt : Bytes) : Bytes :=
  Crypto.hkdf (s.slotKey i .exportKey) salt (ascii "LSV960-CKPT" ++ le 1 party) 32

/-- The chunk header of R372. -/
def State.chunkHead (s : State) (i : Nat) (d : Bytes) (id : Nat) (step : W32) (salt : Bytes) (k : Nat) : Bytes :=
  let n := ckLength d
  ascii "LSVCKPT1" ++ le 2 1 ++ le 1 (ckParty d) ++ [0] ++ le 4 k ++ le 4 (ckChunks n) ++ le 4 (ckPayload n k) ++
    le 8 id ++ w32 step ++ zeros 4 ++ le 8 n ++ slice (Crypto.fingerprint (s.slotKey i .exportKey)) 0 16 ++ salt ++ zeros 32

/-- R373: the nonce of a chunk. -/
def chunkNonce (id k : Nat) : Bytes := le 8 id ++ le 4 k

/-- Export chunk `k`. -/
def Job.exportChunk (j : Job) (p : Op) (id : Nat) (salt : Bytes) (k : Nat) : Job :=
  let d := p.desc
  let (j, b) := j.readHbm (ckMem d + 1048576 * k) (ckPayload (ckLength d) k)
  if j.live then
    let h := j.st.chunkHead j.sess d id p.step salt k
    let (ct, tag) := Crypto.gcmSeal (j.st.chunkKey j.sess (ckParty d) salt) (chunkNonce id k) h b
    { j with st := j.st.hostStore (ckHost d + ckStride * k) (padTo ckStride (h ++ ct ++ tag)) }
  else j

/-- CKPT_EXPORT. -/
def execCkptExport (o : OpRef) (s : State) : Out :=
  .next <| match s.launched o opExport with
    | some p =>
      let d := p.desc
      let n := ckChunks (ckLength d)
      if ¬ s.windowOk true (some o.session) (ckHost d) (ckStride * n) then s.finishOp o.session p stRefused
      else if s.cacheReady then
        let id := (p.sizes.getD 0 []).getD 0 0
        let salt := (p.sizes.getD 1 []).map (BitVec.ofNat 8)
        let j := (List.range n).foldl (fun j k => j.exportChunk p id salt k) (s.job o.session p (ckParty d))
        j.st.finishOp o.session p j.status
      else s
    | none => s

/-- R375: the checks of a chunk's header against the descriptor and chunk 0's salt. -/
def State.headerOk (s : State) (i : Nat) (d : Bytes) (salt : Bytes) (k : Nat) (h : Bytes) : Bool :=
  let want := s.chunkHead i d (fieldAt d 64 8) (u32 h 32) salt k
  slice h 0 11 = slice want 0 11 && slice h 12 20 = slice want 12 20 && slice h 40 56 = slice want 40 56

/-- Import chunk `k`. -/
def Job.importChunk (j : Job) (p : Op) (salt : Bytes) (k : Nat) : Job :=
  if j.live then
    let d := p.desc
    let at_ := ckHost d + ckStride * k
    let n := ckPayload (ckLength d) k
    let h := j.st.hostLoad at_ 128
    if ¬ j.st.headerOk j.sess d salt k h then j.meet j.st stBadEnvelope
    else
      match Crypto.gcmOpen (j.st.chunkKey j.sess (ckParty d) salt) (chunkNonce (fieldAt d 64 8) k) h
          (j.st.hostLoad (at_ + 128) n) (j.st.hostLoad (at_ + 128 + n) 16) with
      | some b => j.writeHbm (ckMem d + 1048576 * k) b
      | none => j.meet j.st stBadEnvelope
  else j

/-- CKPT_IMPORT. -/
def execCkptImport (o : OpRef) (s : State) : Out :=
  .next <| match s.launched o opImport with
    | some p =>
      let d := p.desc
      let n := ckChunks (ckLength d)
      if ¬ s.windowOk true (some o.session) (ckHost d) (ckStride * n) then s.finishOp o.session p stRefused
      else if s.cacheReady then
        let salt := s.hostLoad (ckHost d + 64) 32
        let j := (List.range n).foldl (fun j k => j.importChunk p salt k) (s.job o.session p (ckParty d))
        j.st.finishOp o.session p j.status
      else s
    | none => s

/-! ### The sweep, R355 -/

/-- SWEEP_STEP: channels 0 to 63, and 64 + i the far range of session i. -/
def execSweepStep (c : Nat) (s : State) : Out :=
  .next <|
    let sp : Space := if c < 64 then .hbm c else .far (c - 64)
    match s.holderOf sp, (s.chan sp).sweep with
    | some i, some g => if s.runsIn 8 then (s.sweepGroup i sp g (·.sweptTo (g + 1))).endSweep i sp else s
    | _, _ => s

end Sys2Proof.Machine
end

