-- ==== Sys2Proof/Machine/Checks.lean ====
section
/-! DEFINITION. The checks a dispatch-list load makes of every descriptor (R60, R61, R63, R68 to R70, R87, R96, R139,
R156, R174, R183, R190, R193, R195, R205, R212, R215, R217, R219, R222, R237, R264, R269, R311, R369, R371, R405, R590). -/

namespace Sys2Proof.Machine

/-! ### Fields -/

/-- An address of class 0 or 1 (or 2 where `none` allows it), at a multiple of 64 bytes (R70). -/
def addrOk (none : Bool) (a : Nat) : Bool :=
  addrForm (if none then [0, 1, 2] else [0, 1]) a && addrOff a % 64 = 0

/-- R60, R61, R58, R59: the header. Assumption log 91 (DESIGN CHOICE). -/
def Session.headerOk (x : Session) (d : Bytes) : Bool :=
  let f := dFlags d
  d.length = 128 && decide (f < 64) && zeroRange d 28 4 &&
    (dWaitEn d || (zeroRange d 16 6 && !dWaitEq d)) && (dSignalEn d || zeroRange d 22 6) &&
    (dTimed d || (zeroRange d 8 8 && !dLateFail d)) &&
    (!dWaitEn d || decide (dWaitTally d < x.tallyCount)) && (!dSignalEn d || decide (dSignalTally d < x.tallyCount))

/-- R156: an OUT_SREC against the output's format and address. -/
def Session.outSrecOk (x : Session) (r fmt cAddr : Nat) : Bool :=
  x.srecOk r &&
    (if r = 0xFFFF then !(decide (4 ≤ fmt ∧ fmt ≤ 6))
     else (x.scaleRec r).fmt.toNat = fmt &&
       (!(x.scaleRec r).blockEn || addrClass (x.scaleRec r).scaleAddr.toNat = addrClass cAddr))

/-! ### Ranges -/

/-- Rows of bytes a descriptor reads or writes: its owner, and where the rows lie: by the placement of rows on the
piece's dies, or on one die at one base. -/
structure Ref where
  owner : Nat
  write : Bool
  addr : Nat
  pitch : Nat
  rows : Nat
  len : Nat
  die : Option Nat
  deriving DecidableEq, Repr

/-- The run from the first byte to the last on each die, or in HBM. -/
def Session.refCoarse (x : Session) (r : Ref) : List Span :=
  match r.die with
  | none => x.rowSpans r.addr r.pitch r.rows r.len
  | some q =>
    match addrClass r.addr with
    | 0 => [⟨q, addrOff r.addr, (r.rows - 1) * r.pitch + r.len⟩]
    | 1 => [⟨4, addrOff r.addr, (r.rows - 1) * r.pitch + r.len⟩]
    | _ => []

/-- The runs of each row. -/
def Session.refFine (x : Session) (r : Ref) : List Span :=
  if addrClass r.addr = 2 then []
  else (List.range r.rows).map fun k =>
    match addrClass r.addr, r.die with
    | 0, none => ⟨x.top + k / 512 % x.dies, addrOff r.addr + x.localRow k * r.pitch, r.len⟩
    | 0, some q => ⟨q, addrOff r.addr + k * r.pitch, r.len⟩
    | _, _ => ⟨4, addrOff r.addr + k * r.pitch, r.len⟩

/-- A property of runs holds of every byte named (of the whole runs, or row by row). -/
def Session.refAll (x : Session) (p : Span → Bool) (r : Ref) : Bool := (x.refCoarse r).all p || (x.refFine r).all p

/-- R70, R139: the bytes lie where the owner may put them. -/
def Session.refOwned (x : Session) (r : Ref) : Bool := x.refAll (x.spanOk r.owner) r

/-- R212: no byte in copy 1, and no write to the region unless it is a RECKON's state. -/
def Session.refClear (x : Session) (state : Bool) (r : Ref) : Bool :=
  x.refAll (fun q => !q.meets x.copy1) r && (state || !r.write || x.refAll (fun q => !q.meets x.params) r)

/-- Every reference of a descriptor. -/
def Session.refsOk (x : Session) (l : List Ref) : Bool := l.all fun r => x.refOwned r && x.refClear false r

/-- Runs that share no byte. -/
def spansApart (ps qs : List Span) : Bool := ps.all fun p => qs.all fun q => !p.meets q

/-- Two references share no byte: their whole runs are apart, or each row of the one is apart from each of the other. -/
def Session.refsApart (x : Session) (a b : Ref) : Bool :=
  spansApart (x.refCoarse a) (x.refCoarse b) || spansApart (x.refFine a) (x.refFine b)

/-- No two references of a list share a byte. -/
def Session.allApart (x : Session) : List Ref → Bool
  | [] => true
  | r :: rs => rs.all (x.refsApart r) && x.allApart rs

/-- R70: a pitch of whole lines that spans a row. -/
def pitchOk (pitch len : Nat) : Bool := pitch % 64 = 0 && decide (len ≤ pitch)

/-- Bytes of a row of `n` elements of `w` bits. -/
def rowBytes (w n : Nat) : Nat := (w * n + 7) / 8

/-- Blocks of a row of `n`. -/
def blocksOf (n : Nat) : Nat := (n + 31) / 32

/-- An output tensor of rows, its data and, where it is block-scaled, its scales. -/
def Session.outRefs (x : Session) (owner fmt srec addr pitch rows n : Nat) : List Ref :=
  let w := (Fmt.ofCode fmt).widthIn (addrClass addr = 0)
  ⟨owner, true, addr, pitch, rows, rowBytes w n, none⟩ ::
    (if x.blockScaled fmt srec ∧ addrClass addr < 2 then
      [⟨owner, true, (x.scaleRec srec).scaleAddr.toNat, blocksOf n, rows, blocksOf n, none⟩] else [])

/-- The scale tensor of an output starts on a line, too. -/
def Session.outScaleOk (x : Session) (fmt srec : Nat) : Bool :=
  !(x.blockScaled fmt srec) || srec = 0xFFFF || addrOk true (x.scaleRec srec).scaleAddr.toNat

/-! ### Programs, R193 to R195, R205 -/

/-- What a program reads and writes beside its input and output, over `rows` rows and `n` columns. -/
def progRefs (e : Bytes) (owner rows n side sidePitch sideOut sideOutPitch top : Nat) (dies : List Nat) : List Ref :=
  let p := kProg e
  let wide := if p = 4 then 2 * n else n
  (if progSideIn p then [⟨owner, false, side, sidePitch, rows, 2 * wide, none⟩] else []) ++
    (if progSideOut p ∧ addrClass sideOut < 2 then [⟨owner, true, sideOut, sideOutPitch, rows, 2 * n, none⟩] else []) ++
    (if p = 0x10 ∨ p = 0x12 ∨ p = 0x14 ∨ p = 0x16 then [⟨owner, true, kStats e, 8, rows, 8, none⟩] else []) ++
    (if p = 0x11 ∨ p = 0x13 then [⟨owner, false, kStats e, 8, rows, 8, none⟩] else []) ++
    (if p = 0x16 then [⟨owner, false, kRowvec e, 4, rows, 4, none⟩] else []) ++
    (if (p = 1 ∧ kBias e) ∨ p = 0x12 ∨ p = 0x13 then
      dies.map fun q => ⟨owner, false, kColvec e, 0, 1, 2 * n, some q⟩ else []) ++
    (if p = 0x10 ∨ p = 0x11 then dies.map fun q => ⟨owner, false, kColvec e, 0, 1, 4 * n, some q⟩ else []) ++
    (if kColred e then [⟨owner, true, kColredAddr e, 0, 1, 8 * n, some top⟩] else [])

/-- The addresses a program uses name memory, and the side fields it does not use are class 2 and zero, pitches too.
Assumption log 95 (DESIGN CHOICE). -/
def progAddrsOk (e : Bytes) (n side sidePitch sideOut sideOutPitch : Nat) : Bool :=
  let p := kProg e
  let wide := if p = 4 then 2 * n else n
  (if progSideIn p then addrOk false side && pitchOk sidePitch (2 * wide) else addrForm [2] side && sidePitch = 0) &&
    (if progSideOut p then
      addrOk true sideOut && (if addrClass sideOut = 2 then sideOutPitch = 0 else pitchOk sideOutPitch (2 * n))
     else addrForm [2] sideOut && sideOutPitch = 0) &&
    (!(p = 0x10 || p = 0x11 || p = 0x12 || p = 0x13 || p = 0x14 || p = 0x16) || addrOk false (kStats e)) &&
    (!(p = 0x16) || addrOk false (kRowvec e)) &&
    (!((p = 1 && kBias e) || (decide (0x10 ≤ p) && decide (p ≤ 0x13))) || addrOk false (kColvec e)) &&
    (!(kColred e) || addrOk false (kColredAddr e))

/-- R193: the entry is loaded. -/
def Session.entryLoaded (x : Session) (n : Nat) : Bool :=
  n = 0 || (match x.kernel with | some k => decide (n ≤ k.entries.length) | none => false)

/-- R183: what dual posting needs of an output. -/
def Session.dualOk (x : Session) (e : Bytes) (srec cAddr : Nat) : Bool :=
  !(kDual e) || (srec ≠ 0xFFFF && (x.scaleRec srec).blockEn && addrOk false (kDualAddr e) &&
    addrClass (kDualAddr e) = addrClass cAddr)

/-- Rows of a tensor of rows that the `k`-th die of the piece holds (R589). -/
def Session.localRows (x : Session) (k rows : Nat) : Nat :=
  512 * (rows / (512 * x.dies)) + min 512 (rows % (512 * x.dies) - 512 * k)

/-- R183: the column-blocked scales of a dual-posted output, on each die those of the rows it holds. -/
def Session.dualRefs (x : Session) (e : Bytes) (owner rows n : Nat) : List Ref :=
  if kDual e then
    if addrClass (kDualAddr e) = 0 then
      ((List.range x.dies).filter fun k => x.localRows k rows ≠ 0).map fun k =>
        ⟨owner, true, kDualAddr e, 0, 1, blocksOf (x.localRows k rows) * n, some (x.top + k)⟩
    else [⟨owner, true, kDualAddr e, 0, 1, blocksOf rows * n, some x.top⟩]
  else []

/-! ### Array operations -/

/-- Element class of a format: 16, 8 or 4 bits at the edge (R67). -/
def fmtClass (f : Nat) : Nat := if f ≤ 1 then 16 else if f ≤ 5 then 8 else 4

/-- R67, R68: the formats of a product. -/
def fmtsOk (a b out : Nat) (aBlk bBlk : Bool) : Bool :=
  decide (a ≤ 6 ∧ b ≤ 6 ∧ out ≤ 6) && fmtClass a = fmtClass b && (!(fmtClass a = 16) || a = b) &&
    (!(decide (4 ≤ a)) || aBlk) && (!(decide (4 ≤ b)) || bBlk)

/-- An operand of a product. -/
structure Operand where
  src : Nat
  base : Nat
  sbase : Nat
  blk : Bool
  deriving DecidableEq, Repr

/-- R65, R70, R143: source, base and scale base of an operand. -/
def Operand.ok (q : Operand) : Bool :=
  if q.src = 0 then
    addrForm [0] q.base && q.base % 64 = 0 && (if q.blk then addrForm [0] q.sbase && q.sbase % 64 = 0 else q.sbase = 0)
  else q.src = 1 && decide (q.base < 16) && q.sbase = 0

/-- The references of a product's operands. -/
def Session.operandRefs (x : Session) (p : Product) (owner : Nat) : List Ref :=
  let wa := (Fmt.ofCode p.aFmt).container
  let wb := (Fmt.ofCode p.bFmt).container
  (if p.aSrc = 0 then
    ⟨owner, false, p.aBase, p.aPitch, p.m, rowBytes wa p.k, none⟩ ::
      (if p.aBlk then [⟨owner, false, p.aSBase, p.k / 32, p.m, p.k / 32, none⟩] else []) else []) ++
    (if p.bSrc = 0 then
      ⟨owner, false, p.bBase, p.bPitch, p.k, rowBytes wb p.n, some x.top⟩ ::
        (if p.bBlk then [⟨owner, false, p.bSBase, 0, 1, p.k / 32 * p.n, some x.top⟩] else []) else [])

/-- R68 to R70, R156, R193 to R195, R205 for one product with its program's entry `e`. -/
def Session.productOk (x : Session) (p : Product) (grad : Bool) (owner : Nat) (e : Bytes) : Bool :=
  let wa := (Fmt.ofCode p.aFmt).container
  let wb := (Fmt.ofCode p.bFmt).container
  let n' := progWidth (kProg e) p.n
  decide (1 ≤ p.m ∧ 1 ≤ p.n ∧ p.k % 32 = 0 ∧ 32 ≤ p.k ∧ p.k ≤ 1048576 ∧ p.rnd < 3) &&
    fmtsOk p.aFmt p.bFmt p.outFmt p.aBlk p.bBlk && (!grad || p.rnd = 2) &&
    Operand.ok ⟨p.aSrc, p.aBase, p.aSBase, p.aBlk⟩ && Operand.ok ⟨p.bSrc, p.bBase, p.bSBase, p.bBlk⟩ &&
    pitchOk p.aPitch (if p.aSrc = 1 then 0 else rowBytes wa p.k) &&
    pitchOk p.bPitch (if p.bSrc = 1 then 0 else rowBytes wb p.n) &&
    addrOk true p.cAddr &&
    (addrClass p.cAddr = 2 ||
      pitchOk p.cPitch (rowBytes ((Fmt.ofCode p.outFmt).widthIn (addrClass p.cAddr = 0)) n')) &&
    (!(p.cPitch ≠ 0) || p.cPitch % 64 = 0) &&
    x.srecOk p.aSrec && x.srecOk p.bSrec && x.outSrecOk p.outSrec p.outFmt p.cAddr && x.outScaleOk p.outFmt p.outSrec &&
    (rowPasses (kProg e) = 0 || (decide (p.n ≤ 8192) && !p.order)) && (!(kProg e = 2) || p.n % 2 = 0) &&
    progAddrsOk e p.n p.sideIn p.sidePitch p.sideOut p.sideOutPitch && x.dualOk e p.outSrec p.cAddr &&
    x.refsOk (x.operandRefs p owner ++ x.outRefs owner p.outFmt p.outSrec p.cAddr p.cPitch p.m n' ++
      progRefs e owner p.m p.n p.sideIn p.sidePitch p.sideOut p.sideOutPitch x.top x.dieList ++
      x.dualRefs e owner p.m n')

/-- R405: with more than one party, a party's work is timed and fails when late. -/
def Session.slotOk (x : Session) (party : Nat) (d : Bytes) : Bool :=
  decide (x.parties ≤ 1) || party = 31 || (dTimed d && dLateFail d)

/-- MATMUL at load. -/
def Session.matmulOk (x : Session) (d : Bytes) : Bool :=
  let p := x.primary d
  let held := aHold d || aContinue d
  x.partyOk (aParty d) && x.slotOk (aParty d) d && bitsOf (aFlags d) 15 14 = 0 && bitsAt d 32 4 31 24 = 0 &&
    bitsAt d 36 4 31 24 = 0 && bitsAt d 40 4 31 24 = 0 && !(bitOf (fieldAt d 45 1) 7) && zeroRange d 94 2 &&
    zeroRange d 108 4 && zeroRange d 124 4 && x.entryLoaded p.prog && !(aHold d && aContinue d) &&
    (!held || decide (p.m ≤ x.height ∧ p.n ≤ 1024)) && (!(aHold d) || addrClass p.cAddr = 2) &&
    x.productOk p (bitOf (fieldAt d 45 1) 6) (aParty d) (x.entry p.prog)

/-- MATMUL_ALT at load (R190). -/
def Session.matmulAltOk (x : Session) (d : Bytes) : Bool :=
  let p := x.primary d
  let c := companion d
  let e := x.entry p.prog
  let owner := aParty d
  let n' := progWidth (kProg e) p.n
  let outs := x.outRefs owner p.outFmt p.outSrec p.cAddr p.cPitch p.m n' ++ x.dualRefs e owner p.m n' ++
    ((progRefs e owner p.m p.n p.sideIn p.sidePitch p.sideOut p.sideOutPitch x.top x.dieList).filter (·.write)) ++
    x.outRefs owner c.outFmt c.outSrec c.cAddr c.cPitch c.m c.n
  x.partyOk owner && x.slotOk owner d && bitsOf (aFlags d) 15 14 = 0 && bitsAt d 32 4 31 24 = 0 &&
    bitsAt d 36 4 31 24 = 0 && bitsAt d 40 4 31 24 = 0 && !(bitOf (fieldAt d 45 1) 7) && zeroRange d 94 2 &&
    bitsAt d 99 1 7 4 = 0 && fieldAt d 96 1 ≠ 0 && fieldAt d 97 1 ≠ 0 && bitsOf (aFlags d) 8 7 = 0 && p.aSrc = 0 &&
    p.m % 32 = 0 && decide (p.m ≤ 1048576) && addrClass c.cAddr ≠ 2 && x.entryLoaded p.prog && !(progSideOut (kProg e)) &&
    x.productOk p (bitOf (fieldAt d 45 1) 6) owner e && x.productOk c true owner plainEntry &&
    x.allApart outs

/-! ### Pigeonhole -/

/-- R170: the pair of formats a mode allows. Assumption log 95 (DESIGN CHOICE). -/
def phPairOk (d : Bytes) : Bool :=
  let s := phSrcFmt d
  let f := phDstFmt d
  if phMode d = 0 then s = f
  else if phMode d = 1 then decide (s ≤ 1) && (decide (2 ≤ f) || f ≠ s)
  else phMode d = 2 && s = f && phSrcBlk d && decide (2 ≤ s)

/-- PH_MOVE and PH_STREAM at load (R174). COPY and REBLOCK into a block-scaled destination with DST_SADDR of class 2 load,
and write no scales. Assumption log 95 (DESIGN CHOICE). -/
def Session.phOk (x : Session) (stream : Bool) (d : Bytes) : Bool :=
  let party := phParty d
  let die := x.top + phDie d
  let (dr, dc) := phDims d
  let src := fieldAt d 48 8
  let dst := fieldAt d 64 8
  let ssa := fieldAt d 72 8
  let dsa := fieldAt d 80 8
  let ws := (Fmt.ofCode (phSrcFmt d)).widthIn (addrClass src = 0)
  let wd := (Fmt.ofCode (phDstFmt d)).widthIn (addrClass dst = 0)
  let slen := rowBytes ws (phCols d)
  let dlen := rowBytes wd dc
  let dn := scaleBytes dr dc (phColb d)
  let srcs : List Ref := ⟨party, false, src, fieldAt d 56 4, phRows d, slen, some die⟩ ::
    (if phSrcBlk d then [⟨party, false, ssa, 0, 1, scaleBytes (phRows d) (phCols d) (phSrcColb d), some die⟩] else [])
  let dsts : List Ref := (if stream then [] else [⟨party, true, dst, fieldAt d 60 4, dr, dlen, some die⟩]) ++
    (if x.phScaled d ∧ addrClass dsa < 2 then [⟨party, true, dsa, 0, 1, dn, some die⟩] else [])
  let tops : List Ref := if phTopCopy d ∧ ¬ stream then
    ⟨party, true, fieldAt d 88 4, fieldAt d 60 4, dr, dlen, some x.top⟩ ::
      (if x.phScaled d then [⟨party, true, fieldAt d 92 4, 0, 1, dn, some x.top⟩] else []) else []
  x.partyOk party && x.slotOk party d && bitsAt d 32 4 31 24 = 0 && bitsAt d 36 4 31 24 = 0 &&
    decide (1 ≤ phRows d ∧ 1 ≤ phCols d ∧ phRnd d < 3 ∧ phSrcFmt d ≤ 6 ∧ phDstFmt d ≤ 6 ∧ phDie d < x.dies) &&
    bitsAt d 43 1 7 5 = 0 && zeroRange d 96 32 && phPairOk d && (phMode d ≠ 2 || phRnd d = 2) &&
    (phMode d ≠ 0 || !(phDstColb d)) && (phSrcBlk d || !(decide (4 ≤ phSrcFmt d)) || phMode d = 0) &&
    addrOk false src && pitchOk (fieldAt d 56 4) slen &&
    (if phSrcBlk d then addrOk false ssa && addrClass ssa = addrClass src else addrForm [2] ssa) &&
    x.srecOk (phSrec d) &&
    (phMode d ≠ 1 || ((phSrec d = 0xFFFF || (x.scaleRec (phSrec d)).fmt.toNat = phDstFmt d) &&
      !(phSrec d = 0xFFFF && decide (4 ≤ phDstFmt d)))) &&
    (if x.phScaled d then
      addrOk (phMode d ≠ 1) dsa && (stream || addrClass dsa = 2 || addrClass dsa = addrClass dst)
     else addrForm [2] dsa) &&
    (if stream then
      addrForm [2] dst && fieldAt d 60 4 = 0 && !(phTopCopy d) && zeroRange d 88 8
     else
      fieldAt d 43 1 = 0 && addrOk false dst && pitchOk (fieldAt d 60 4) dlen &&
        (if phTopCopy d then
          phMode d = 0 && addrClass dst = 0 && fieldAt d 88 4 % 64 = 0 && fieldAt d 92 4 % 64 = 0 &&
            (phDie d ≠ 0 || tops.all fun a => dsts.all fun b => x.refsApart a b)
         else zeroRange d 88 8)) &&
    x.refsOk (srcs ++ dsts ++ tops)

/-! ### Kernels, Reckoner, noise and seal -/

/-- RUN_KERNEL at load (R195, R200). -/
def Session.kernelOk (x : Session) (d : Bytes) : Bool :=
  let rows := bitsAt d 32 4 23 0
  let n := bitsAt d 36 4 23 0
  let inF := bitsAt d 42 1 3 0
  let outF := bitsAt d 42 1 7 4
  let rnd := bitsAt d 43 1 1 0
  let party := bitsAt d 43 1 7 3
  let e := x.entry (fieldAt d 40 2)
  let n' := progWidth (kProg e) n
  let out := fieldAt d 64 8
  let inp := fieldAt d 48 8
  let srec := fieldAt d 44 2
  let inLen := rowBytes (Fmt.ofCode inF).width n
  x.partyOk party && x.slotOk party d && bitsAt d 32 4 31 24 = 0 && bitsAt d 36 4 31 24 = 0 &&
    decide (1 ≤ rows ∧ 1 ≤ n ∧ inF ≤ 3 ∧ outF ≤ 6 ∧ rnd < 3) && (!(bitOf (fieldAt d 43 1) 2) || rnd = 2) &&
    x.entryLoaded (fieldAt d 40 2) && zeroRange d 96 32 && (kProg e ≠ 2 || n % 2 = 0) && addrOk false inp &&
    pitchOk (fieldAt d 56 4) inLen && addrOk false out &&
    pitchOk (fieldAt d 60 4) (rowBytes ((Fmt.ofCode outF).widthIn (addrClass out = 0)) n') && x.outSrecOk srec outF out &&
    x.outScaleOk outF srec && x.dualOk e srec out &&
    progAddrsOk e n (fieldAt d 72 8) (fieldAt d 80 4) (fieldAt d 88 8) (fieldAt d 84 4) &&
    x.refsOk (⟨party, false, inp, fieldAt d 56 4, rows, inLen, none⟩ ::
      (x.outRefs party outF srec out (fieldAt d 60 4) rows n' ++
        progRefs e party rows n (fieldAt d 72 8) (fieldAt d 80 4) (fieldAt d 88 8) (fieldAt d 84 4) x.top x.dieList ++
        x.dualRefs e party rows n'))

/-- R219: an FP32 scalar lies in 0 to 1, and below 1 where asked. -/
def unitOk (strict : Bool) (w : W32) : Bool :=
  let v := f32 w
  !v.isNan && (v.isZero || !(w.getLsbD 31)) && decide (w.toNat ≤ 0x3F800000 ∨ v.isZero) && (!strict || w ≠ 0x3F800000)

/-- R30: block grain in a whole piece and in a consignment. -/
def Session.blockGrain (x : Session) : Bool := x.isConsignment || x.dies = 4

/-- A state tensor: class 1, page-aligned, wholly in copy 0 (R212, R215). -/
def Session.stateOk (x : Session) (a len : Nat) : Bool :=
  addrForm [1] a && addrOff a % 4096 = 0 && decide (x.paramBase ≤ addrOff a ∧ addrOff a + len ≤ x.paramBase + x.paramSize)

/-- RECKON at load (R215, R217 to R219). -/
def Session.reckonOk (x : Session) (d : Bytes) : Bool :=
  let rows := rkRows d
  let cols := rkCols d
  let nb := blocksOf cols
  let f := rkFmt d
  let ga := fieldAt d 96 8
  let gs := fieldAt d 104 8
  let party := rkParty d
  let len := rowBytes (gradWidth f (addrClass ga = 0)) cols
  let grad : Ref := if f = 10 then ⟨party, false, ga, 0, 1, 8 * cols, some x.top⟩
    else ⟨party, false, ga, fieldAt d 112 4, rows, len, none⟩
  x.partyOk party && decide (1 ≤ rows ∧ 1 ≤ cols) && bitsAt d 32 4 31 24 = 0 && bitsAt d 36 4 31 24 = 0 &&
    !(bitOf (fieldAt d 40 1) 7) && bitsAt d 41 1 7 5 = 0 && zeroRange d 116 12 && (f ≤ 6 || f = 8 || f = 9 || f = 10) &&
    rkBlockGrain d = x.blockGrain && unitOk false (u32 d 44) && unitOk false (u32 d 48) && unitOk true (u32 d 52) &&
    unitOk true (u32 d 56) && unitOk false (u32 d 60) && (!(decide (4 ≤ f ∧ f ≤ 6)) || rkBlk d) &&
    (!(rkBlk d) || decide (2 ≤ f ∧ f ≤ 6)) && (if rkBlk d then addrOk false gs && addrClass gs = addrClass ga else addrForm [2] gs) &&
    (f ≠ 10 || rows = 1) && (!x.noiseEn || party = 31) && addrOk false ga && pitchOk (fieldAt d 112 4) (if f = 10 then 8 * cols else len) &&
    x.stateOk (fieldAt d 64 8) (2 * rows * cols) && x.stateOk (fieldAt d 72 8) (rows * cols) &&
    x.stateOk (fieldAt d 80 8) (if rkBlockGrain d then 2 * rows * nb else rows * nb) &&
    (if rkBlockGrain d then addrForm [2] (fieldAt d 88 8) else x.stateOk (fieldAt d 88 8) (4 * (rows + cols))) &&
    x.refsOk (grad :: (if rkBlk d then [⟨party, false, gs, nb, rows, nb, none⟩] else []))

/-- DP_NOISE at load (R232, R237, R590). -/
def Session.noiseOk (x : Session) (d : Bytes) : Bool :=
  let rows := dpRows d
  let cols := dpCols d
  let inF := bitsAt d 40 1 3 0
  let outF := bitsAt d 40 1 7 4
  let party := dpParty d
  let inp := fieldAt d 56 8
  let sc := fieldAt d 64 8
  let out := fieldAt d 80 8
  let srec := fieldAt d 44 2
  let len := rowBytes ((Fmt.ofCode inF).widthIn (addrClass inp = 0)) cols
  decide (party < x.parties) && x.slotOk party d && decide (1 ≤ rows ∧ 1 ≤ cols ∧ inF ≤ 6 ∧ outF ≤ 6) &&
    bitsAt d 32 4 31 24 = 0 && bitsAt d 36 4 31 24 = 0 && bitsAt d 41 1 7 6 = 0 && zeroRange d 46 2 && zeroRange d 88 40 &&
    posNormal (dpClip d) && (dpSigma d = 0 || posNormal (dpSigma d)) &&
    (if x.noiseEn then decide (x.cfgField 36 4 ≤ (dpSigma d).toNat ∧ (dpClip d).toNat ≤ x.cfgField 40 4) else dpSigma d = 0) &&
    (!(decide (4 ≤ inF)) || dpInBlk d) && (if dpInBlk d then addrOk false sc && addrClass sc = addrClass inp else addrForm [2] sc) &&
    addrOk false inp && pitchOk (fieldAt d 72 4) len && addrOk false out &&
    pitchOk (fieldAt d 76 4) (rowBytes ((Fmt.ofCode outF).widthIn (addrClass out = 0)) cols) &&
    x.outSrecOk srec outF out && x.outScaleOk outF srec &&
    x.refsOk (⟨party, false, inp, fieldAt d 72 4, rows, len, none⟩ ::
      ((if dpInBlk d then [⟨party, false, sc, blocksOf cols, rows, blocksOf cols, none⟩] else []) ++
        x.outRefs party outF srec out (fieldAt d 76 4) rows cols))

/-- STEP_SEAL at load (R221, R222). -/
def Session.sealOk (x : Session) (d : Bytes) : Bool :=
  let decide' := fieldAt d 36 4
  let flip := fieldAt d 40 4
  bitsAt d 35 1 7 6 = 0 && zeroRange d 44 84 && bitsAt d 35 1 3 0 ≠ 0 &&
    (if x.isConsignment then
      dTimed d && decide (1000 ≤ decide' ∧ decide' + 1000 ≤ flip ∧ flip ≤ 10000000)
     else !(dTimed d) && decide' = 0 && flip = 0)

/-! ### Collectives, R269 -/

/-- A collective's flat ranges: its source tensors (or the table of them), its output and its size table; an EXCHANGE_V's
ranges are known at launch, so its addresses alone are held to R212 at load. -/
def Session.collRangesOk (x : Session) (s : State) (i : Nat) (d : Bytes) : Bool :=
  let g := (x.groupOf (clGroup d)).length
  let src := bitsAt d 39 1 4 0
  let outP := clOutParty d
  let blk := if clReduces d then x.blockScaled (clOut d) (clOutSrec d) else clInBlk d
  let outs : List Ref :=
    if dOpcode d = opExchangeV then []
    else ⟨outP, true, clDst d, 0, 1, (x.flatSpan (clOut d) (clDst d) 0 (outputElems d g)).len, some x.top⟩ ::
      (if blk then [⟨outP, true, clDstS d, 0, 1, (outputElems d g + 31) / 32, some x.top⟩] else [])
  let o : Op :=
    { ctx := 0, seq := 0, slot := 0, index := 0, desc := d, stage := .started, readyAt := 0, launchedAt := 0,
      status := stOk, step := 0, attempt := 0, scales := [], copies := x.resolution, sources := [], sizes := [],
      progress := 0, dropped := false, taint := false, feeds := none }
  let (_, srcs, clean) := (s.job i o outP).sources d
  let table : List Ref := if clS d = 1 then [] else [⟨outP, false, clSrcAddr d, 0, 1, 32 * clS d, some x.top⟩]
  let sizes : List Ref := if dOpcode d = opExchangeV then [⟨src, false, fieldAt d 80 8, 0, 1, 16 * g, some x.top⟩] else []
  let named : List Ref := if dOpcode d = opExchangeV then
      [⟨src, false, clSrcAddr d, 0, 1, 1, some x.top⟩, ⟨src, false, fieldAt d 56 8, 0, 1, 1, some x.top⟩,
       ⟨outP, true, clDst d, 0, 1, 1, some x.top⟩, ⟨outP, true, clDstS d, 0, 1, 1, some x.top⟩] else []
  clean && x.refsOk (outs ++ table ++ sizes) && named.all (x.refClear false) &&
    (dOpcode d = opAllReduce || (clSrcAddr d ≠ clDst d && srcs.all fun q => q.addr.toNat ≠ clDst d)) && addrOk false (clSrcAddr d) && addrOk false (clDst d) &&
    (if blk then addrOk false (clDstS d) && addrClass (clDstS d) = addrClass (clDst d) else addrForm [2] (clDstS d)) &&
    (if dOpcode d = opExchangeV then addrOk false (fieldAt d 80 8) else addrForm [2] (fieldAt d 80 8)) &&
    (if clS d = 1 ∧ clInBlk d then addrOk false (fieldAt d 56 8) && addrClass (fieldAt d 56 8) = addrClass (clSrcAddr d)
     else addrForm [2] (fieldAt d 56 8)) &&
    (srcs.all fun q => x.partyOk q.party && x.srecOk q.srec.toNat) &&
    (dOpcode d = opExchangeV || x.sourcesOk d g srcs)

/-- R156 for a collective, whose output scales lie at DST_SADDR. -/
def Session.clSrecOk (x : Session) (d : Bytes) : Bool :=
  let r := clOutSrec d
  x.srecOk r && (r = 0xFFFF || (x.scaleRec r).fmt.toNat = clOut d) &&
    (r ≠ 0xFFFF || !(decide (4 ≤ clOut d ∧ clOut d ≤ 6)))

/-- A collective at load. -/
def Session.collOk (x : Session) (s : State) (i : Nat) (d : Bytes) : Bool :=
  let group := x.groupOf (clGroup d)
  let c := dOpcode d
  let copies := !(clReduces d)
  let inF := clIn d
  let outF := clOut d
  decide (opExchange ≤ c ∧ c ≤ opAllReduce) && group.contains x.rank && !(bitOf (fieldAt d 37 1) 7) && clOp d ≠ 3 &&
    decide (clRnd d < 3) && bitsAt d 39 1 7 5 = 0 && bitsAt d 45 1 7 5 = 0 && zeroRange d 46 2 && zeroRange d 96 32 &&
    (if clS d = 1 then x.partyOk (bitsAt d 39 1 4 0) else bitsAt d 39 1 4 0 = 0 && fieldAt d 88 2 = 0xFFFF) &&
    x.partyOk (clOutParty d) &&
    (if c = opExchangeV then clElems d = 0 else decide (1 ≤ clElems d) && clElems d % 32 = 0) &&
    (if copies then
      clS d = 1 && clOp d = 0 && inF = outF && clOutParty d = bitsAt d 39 1 4 0 && (inF ≤ 6 || inF = 8 || inF = 9)
     else if clOp d = 1 then
      (inF ≤ 6 || inF = 9) && (outF = 8 || outF = 9) && decide (group.length * clS d ≤ 32767)
     else decide (inF ≤ 6 ∧ outF ≤ 6)) &&
    x.clSrecOk d &&
    (!(decide (c = opAllReduce ∧ clOutSrec d ≠ 0xFFFF)) || (x.scaleRec (clOutSrec d)).policy = 0) &&
    (!(clGrad d) || clRnd d = 2) && fieldAt d 94 2 ≠ 0 && x.collRangesOk s i d

/-! ### Memory class, tallies and list control -/

/-- FAR_MOVE at load (R368, R369). -/
def Session.farOk (x : Session) (d : Bytes) : Bool :=
  let n := fmLength d
  let r := x.farRegion (fmParty d)
  x.partyOk (fmParty d) && bitsAt d 40 1 7 6 = 0 && zeroRange d 41 3 && zeroRange d 46 2 && zeroRange d 64 64 &&
    decide (4096 ≤ n) && n % 4096 = 0 && fieldAt d 44 2 ≠ 0 && addrForm [1] (fieldAt d 48 8) && fmHbm d % 4096 = 0 &&
    decide (fmFar d < 2 ^ 44) && fmFar d % 4096 = 0 && decide (r.1 ≤ fmFar d ∧ fmFar d + n ≤ r.1 + r.2) &&
    x.hbmOk (fmParty d) (fmHbm d) n && !((⟨4, fmHbm d, n⟩ : Span).meets x.params)

/-- CKPT_EXPORT and CKPT_IMPORT at load (R212, R371). -/
def Session.ckptOk (x : Session) (imp : Bool) (d : Bytes) : Bool :=
  let n := ckLength d
  x.partyOk (ckParty d) && bitsAt d 40 1 7 5 = 0 && zeroRange d 41 3 && zeroRange d 46 2 && zeroRange d 72 56 &&
    n % 64 = 0 && decide (64 ≤ n ∧ n ≤ 2 ^ 40) && fieldAt d 44 2 ≠ 0 && addrForm [1] (fieldAt d 48 8) && ckMem d % 64 = 0 &&
    ckHost d % 4096 = 0 && (imp || zeroRange d 64 8) && x.hbmOk (ckParty d) (ckMem d) n &&
    !((⟨4, ckMem d, n⟩ : Span).meets x.copy1) && (!imp || !((⟨4, ckMem d, n⟩ : Span).meets x.params))

/-- Tally descriptors at load (R311). -/
def Session.tallyOk (x : Session) (d : Bytes) : Bool :=
  decide (fieldAt d 32 2 < x.tallyCount) && zeroRange d 34 2 && zeroRange d 48 80 &&
    (dOpcode d = opTallyArm || zeroRange d 40 8)

/-- Every static check of one descriptor. -/
def State.descOk (s : State) (i : Nat) (d : Bytes) : Bool :=
  let x := s.session i
  let c := dOpcode d
  x.headerOk d &&
    (if c = opNop ∨ c = opEnd then zeroRange d 32 96
     else if c = opLink then zeroRange d 34 2 && zeroRange d 40 88
     else if c = opMatmul then x.matmulOk d
     else if c = opMatmulAlt then x.matmulAltOk d
     else if c = opScrub then zeroRange d 32 96
     else if c = opPhMove then x.phOk false d
     else if c = opPhStream then x.phOk true d
     else if c = opKernel then x.kernelOk d
     else if c = opReckon then x.reckonOk d
     else if c = opNoise then x.noiseOk d
     else if c = opSeal then x.sealOk d
     else if opClass c = 5 then x.collOk s i d
     else if c = opTallyAdd ∨ c = opTallySet ∨ c = opTallyArm then x.tallyOk d
     else if c = opFarMove then x.farOk d
     else if c = opExport then x.ckptOk false d
     else if c = opImport then x.ckptOk true d
     else false)

/-- The scale records a descriptor names, which lock at load (R154). -/
def namedRecs (d : Bytes) : List Nat :=
  let c := dOpcode d
  let l :=
    if opClass c = 5 then [fieldAt d 88 2, fieldAt d 90 2] else scaleRecs d
  l.filter fun r => decide (r < 4096)

/-- R194: a kernel table entry without a reserved code or reserved byte. -/
def entryOk (e : Bytes) : Bool :=
  let p := kProg e
  let act := kAct e
  ([0, 1, 2, 3, 4, 0x10, 0x11, 0x12, 0x13, 0x14, 0x15, 0x16].contains p) && !(bitOf (fieldAt e 2 1) 7) &&
    zeroRange e 3 1 && zeroRange e 8 4 && decide (act ≤ 5) &&
    (if p = 1 ∨ p = 2 ∨ p = 3 ∨ p = 4 then act ≠ 0 else act = 0) && (!(kBias e) || p = 1) &&
    [kStats e, kColvec e, kRowvec e, kColredAddr e, kDualAddr e, kAltSide e].all (addrForm [0, 1, 2])

end Sys2Proof.Machine
end

