-- ==== Sys2Proof/Machine/Cloari.lean ====
section
/-! DEFINITION. Cloari mailboxes: who serves them and in what order (R465 to R472), the framing and carriage of requests
(R473 to R476, R392 to R395), the pending tables (R477), and what a session's state admits (R326, R360, R387). -/

namespace Sys2Proof.Machine

/-! ### Life-cycle state, R419, R420, R424, R426 -/

/-- The state code of a codeword. -/
def lcCode (c : W64) : Nat :=
  if c = 0 then 0 else if c = 0xFFFF then 1 else if c = 0xFFFFFFFF then 2 else if c = 0xFFFFFFFFFFFF then 3
  else if c = BitVec.allOnes 64 then 4 else 0xFF

/-- The life-cycle state code. -/
def State.lcState (s : State) : Nat := lcCode s.lc.codeword

/-- A mark of a transition record at its lower bit: set only with both bits. -/
def markSet (r : W32) (i : Nat) : Bool := r.getLsbD i && r.getLsbD (i + 1)

/-- TARGET of a transition record. -/
def recTarget (r : W32) : Nat := r.toNat % 256

/-- A transition record's word (R424). -/
def LifeCycle.record (l : LifeCycle) (n : Nat) : W32 := vget 0 l.records n

/-- The open transition record: the highest-numbered one with a TARGET and no CLOSED mark. -/
def LifeCycle.openRec (l : LifeCycle) : Option Nat :=
  (List.range 8).reverse.find? fun n => recTarget (vget 0 l.records n) ≠ 0 && !markSet (vget 0 l.records n) 22

/-- Records whose bits are all zero. -/
def LifeCycle.free (l : LifeCycle) : Nat := ((List.range 8).filter fun n => vget 0 l.records n = 0).length

/-- R424: the module is locked. -/
def State.locked (s : State) : Bool := s.lcState = 0xFF && s.lc.openRec.isNone

/-- R422: states that bar firmware load: Blank, End of Life and invalid. -/
def State.loadBarred (s : State) : Bool := s.lcState = 0 || s.lcState = 4 || s.lcState = 0xFF

/-! ### Mailboxes -/

def State.mailbox (s : State) (n : Nat) : Mailbox := vget Mailbox.reset s.mailboxes n

def State.setMailbox (s : State) (n : Nat) (m : Mailbox) : State := { s with mailboxes := vset s.mailboxes n m }

/-- The request in a mailbox. -/
def Mailbox.request (m : Mailbox) : Bytes := memLoad m.buffer 0 m.reqLen.toNat

/-- Session of a mailbox; 0xFF for the physical function's (R465). -/
def mbSession (n : Nat) : Nat := if n < 16 then 0xFF else (n - 16) / 12

/-- Mailboxes whose requests are taken one at a time (R471): mailbox 0, 1 to 15, and each session's. -/
def mbGroup (n : Nat) : Nat := if n = 0 then 0 else if n < 16 then 1 else 2 + (n - 16) / 12

/-- R471: a SUBMIT came before another, or on the same clock in a lower mailbox. -/
def State.submittedBefore (s : State) (a b : Nat) : Bool :=
  if (s.mailbox a).at_ = (s.mailbox b).at_ then decide (a < b) else decide ((s.mailbox a).order < (s.mailbox b).order)

/-- R471: it is a mailbox's turn. Assumption log 6 (DESIGN CHOICE). -/
def State.turn (s : State) (mb : Nat) : Bool :=
  (s.mailbox mb).state = .submitted &&
    (List.range 64).all fun n =>
      n = mb || mbGroup n ≠ mbGroup mb ||
        (match (s.mailbox n).state with
         | .serving => false
         | .submitted => s.submittedBefore mb n
         | _ => true)

/-- R466, R467, R495, R529: a core polls a mailbox: in PS0 and PS1 the boot-and-security core mailbox 0, and from RUNNING on
the other cores the rest. -/
def State.mbPolled (s : State) (n : Nat) : Bool :=
  s.resets.inReset.isNone && (s.power.power = .ps0 || s.power.power = .ps1) && (n = 0 || s.fw.state = .running)

/-- R466, R529: some core, or the host port in PS3, serves mailboxes. -/
def State.mbServed (s : State) : Bool :=
  s.resets.inReset.isNone && (s.power.power = .ps0 || s.power.power = .ps1 || s.power.power = .ps3)

/-- The header of a response (R474). -/
def respHead (raw : Bytes) (st : Status) (len detail : Nat) : Bytes :=
  slice raw 0 2 ++ w16 st ++ le 4 len ++ slice raw 8 4 ++ le 4 detail

/-- R469: the response is written, and STATE becomes DONE. -/
def Mailbox.answer (m : Mailbox) (now : W64) (st : Status) (detail : Nat) (body : Bytes) : Mailbox :=
  let r := respHead m.request st body.length detail ++ body
  { m with buffer := memStore m.buffer 0 r, respLen := BitVec.ofNat 13 r.length, donePostmark := now, state := .done }

/-- Complete a mailbox with a header status, DETAIL and body. -/
def State.done (s : State) (mb : Nat) (st : Status) (detail : Nat) (body : Bytes) : State :=
  let s := s.setMailbox mb ((s.mailbox mb).answer s.time.now st detail body)
  { s with power := { s.power with idleSince := s.time.now } }

/-! ### Envelopes, R389, R392 to R394 -/

/-- The command key of SPDM session `n` for a party of a session. -/
def cmdKeyOf (master : Bytes) (i p : Nat) : Bytes :=
  Crypto.hkdfExpand master (ascii "LSV960-CMD" ++ le 1 i ++ le 1 p) 32

/-- The export master secret of the SPDM session with a number. -/
def State.spdmMaster (s : State) (n : Nat) : Bytes :=
  ((s.host.spdm.find? fun q => q.number = n).map SpdmSession.exportMaster).getD []

/-- The header of an envelope. -/
def envHead (party i dir : Nat) (seq : W64) (code len : Nat) : Bytes :=
  ascii "LSVE" ++ [1] ++ le 1 party ++ le 1 i ++ le 1 dir ++ w64 seq ++ le 2 code ++ zeros 2 ++ le 4 len ++ zeros 8

/-- The nonce of an envelope. -/
def envNonce (dir : Nat) (seq : W64) : Bytes := le 1 dir ++ zeros 3 ++ w64 seq

/-- Seal an envelope. -/
def sealEnvelope (key : Bytes) (party i dir : Nat) (seq : W64) (code : Nat) (plain : Bytes) : Bytes :=
  let h := envHead party i dir seq code plain.length
  let (ct, tag) := Crypto.gcmSeal key (envNonce dir seq) h plain
  h ++ ct ++ tag

/-- The form of a request envelope for a session and command. -/
def envForm (env : Bytes) (i code : Nat) : Bool :=
  let p := (u8 env 5).toNat
  decide (env.length = fieldAt env 20 4 + 48 ∧ p < 16) &&
    slice env 0 32 = envHead p i 0 (u64 env 8) code (fieldAt env 20 4)

/-- Open a request envelope under a key. -/
def envOpen (key env : Bytes) : Option Bytes :=
  let n := fieldAt env 20 4
  Crypto.gcmOpen key (envNonce 0 (u64 env 8)) (slice env 0 32) (slice env 32 n) (slice env (32 + n) 16)

/-- The SPDM session under whose command key an envelope opens: its number, requester fingerprint, and plaintext. -/
def State.envKey (s : State) (i : Nat) (env : Bytes) : Option (Nat × Bytes × Bytes) :=
  s.host.spdm.findSome? fun q =>
    (envOpen (cmdKeyOf q.exportMaster i (u8 env 5).toNat) env).map fun b => (q.number, q.leaf, b)

/-- Fingerprint of a party in the configuration. Assumption log 64 (PRESUMED). -/
def Session.partyFp (x : Session) (p : Nat) : Bytes := slice x.config (640 + 64 * p) 64

/-- A party that has joined and has not been removed. -/
def Session.isMember (x : Session) (p : Nat) : Bool := x.joined.getLsbD p && !x.removed.getLsbD p

/-! ### Requests and responses -/

/-- A request as its command takes it. `body` is the plaintext of a sealed one. -/
structure Req where
  mb : Nat
  code : Nat
  session : Nat
  tag : W32
  isSealed : Bool
  party : Nat
  seq : W64
  spdm : Nat
  fp : Bytes
  body : Bytes
  deriving DecidableEq, Repr

/-- A response: status, DETAIL and body. -/
structure Resp where
  status : Status
  detail : Nat
  body : Bytes
  deriving DecidableEq, Repr

/-- A status alone. -/
def Resp.of (st : Status) : Option Resp := some ⟨st, 0, []⟩

/-- ST_OK with a body. -/
def Resp.ok (body : Bytes) : Option Resp := some ⟨stOk, 0, body⟩

/-- How a command is carried and in which mailboxes (R395, R479, R480, R542, R560). -/
inductive Carriage where
  | boot        -- mailbox 0, unsealed
  | host        -- mailboxes 1 to 15, unsealed
  | sessionOpen -- mailboxes 1 to 15, naming no session
  | either      -- unsealed or sealed
  | sealed      -- sealed only
  | mixed       -- sealed, or unsealed in mailboxes 1 to 15
  | link        -- of the port that its body names: sealed when it is bound, unsealed in mailboxes 1 to 15 when it is not
  deriving DecidableEq, Repr

/-- What a session's state makes of a command (R326, R360, R387, R410). -/
inductive Access where
  | reads | close | remove | join | resolve | roll | work
  deriving DecidableEq, Repr

/-- R473, R17: the form of a request header. -/
def headForm (raw : Bytes) : Bool :=
  decide ((u8 raw 2).toNat < 2 ∧ fieldAt raw 4 4 + 16 = raw.length) && zeroRange raw 12 4

/-- R529: POWER_SET 0 as R542 lays it out, which the host port answers in PS3. -/
def wakesPs3 (raw : Bytes) : Bool := headForm raw && slice raw 0 4 = [0x00, 0x08, 0x00, 0xFF] && raw.drop 16 = [0]

/-- R424, R462, R529: what bars a request before it is looked at. Assumption log 43 (DEDUCED). -/
def State.gate (s : State) (mb code : Nat) : Status :=
  if s.locked then (if code = 0x0032 then stOk else stLocked)
  else if s.power.power = .ps3 then (if wakesPs3 (s.mailbox mb).request ∧ 1 ≤ mb ∧ mb < 16 then stOk else stNotReady)
  else if s.fw.state = .running then stOk
  else if mb = 0 ∧ (code = 0x0001 ∨ (code = 0x0032 ∧ s.loadBarred)) then stOk
  else stNotReady

/-- R476, R395, R479, R480: the mailbox, session and carriage of a request. Assumption log 43 (DEDUCED). -/
def State.carried (s : State) (mb session : Nat) (isSealed : Bool) (c : Carriage) : Status :=
  let live := decide (session < 4) && (s.session session).isOpen
  let sealedOnly := if mb = 0 then stRefused else if isSealed ∧ live then stOk else if isSealed ∨ live then stBadEnvelope else stRefused
  if 16 ≤ mb ∧ session ≠ mbSession mb then stRefused
  else if session ≠ 0xFF ∧ ¬ live then stRefused
  else
    match c with
    | .boot => if mb = 0 ∧ ¬ isSealed then stOk else stRefused
    | .host => if 1 ≤ mb ∧ mb < 16 ∧ ¬ isSealed then stOk else stRefused
    | .sessionOpen => if mb = 0 ∨ 16 ≤ mb ∨ live then stRefused else stOk
    | .either => if mb = 0 then stRefused else if live then stOk else if isSealed then stBadEnvelope else stRefused
    | .sealed => sealedOnly
    | .link =>
      if isSealed ∨ (s.port (u8 (s.mailbox mb).request 16).toNat).bound then sealedOnly
      else if 1 ≤ mb ∧ mb < 16 then stOk
      else stRefused
    | .mixed =>
      if mb = 0 then stRefused
      else if isSealed then (if live then stOk else stBadEnvelope)
      else if mb < 16 then stOk
      else stBadEnvelope

/-- R394, R389, R390: whether a session accepts an envelope that opened under SPDM session `n` with fingerprint `fp`. A
joining party has no command key yet; its fingerprint is judged by its command. -/
def Session.admits (x : Session) (join : Bool) (p : Nat) (seq : W64) (n : Nat) (fp : Bytes) : Bool :=
  (if join then decide (p < x.parties) else x.isMember p && fp = x.partyFp p) && seq ≠ 0 &&
    (match x.cmdKeys.find? (·.party = p) with
     | some k => decide (k.spdm < n) || (k.spdm = n && decide (k.seq.toNat < seq.toNat))
     | none => true)

/-- The command key a party's accepted request leaves in force. -/
def Session.keepKey (x : Session) (p : Nat) (seq : W64) (n : Nat) : Session :=
  { x with cmdKeys := ⟨p, n, seq⟩ :: x.cmdKeys.filter fun k => k.party ≠ p }

/-- Take the request of a mailbox: the header status that refuses it, or the request. A sealed SESSION_OPEN names no
session in its header (R480), and is judged as its sender's envelope names it (R395). Assumption log 43 (DEDUCED). -/
def State.take (s : State) (mb code : Nat) (c : Carriage) : Status × Option Req :=
  let raw := (s.mailbox mb).request
  let named := (u8 raw 3).toNat
  let isSealed := bitOf (fieldAt raw 2 1) 0
  let tag := u32 raw 8
  let body := raw.drop 16
  let i := if c = .sessionOpen ∧ isSealed then (u8 body 6).toNat else named
  if s.gate mb code ≠ stOk then (s.gate mb code, none)
  else if ¬ headForm raw then (stRefused, none)
  else if s.carried mb named isSealed c ≠ stOk then (s.carried mb named isSealed c, none)
  else if isSealed then
    let p := (u8 body 5).toNat
    match s.envKey i body with
    | some (n, fp, plain) =>
      if envForm body i code ∧ (s.session i).admits (code = 0x0102) p (u64 body 8) n fp then
        (stOk, some ⟨mb, code, i, tag, true, p, u64 body 8, n, fp, plain⟩)
      else (stBadEnvelope, none)
    | none => (stBadEnvelope, none)
  else (stOk, some ⟨mb, code, i, tag, false, 0, 0, 0, [], body⟩)

/-- R387, R360, R326: what the session's state answers. -/
def State.allowed (s : State) (r : Req) (c : Carriage) (a : Access) : Status :=
  if 4 ≤ r.session ∨ c = .boot ∨ c = .host ∨ c = .sessionOpen ∨ ((c = .mixed ∨ c = .link) ∧ ¬ r.isSealed) ∨ a = .reads then stOk
  else
    let x := s.session r.session
    if x.state = .closing then stRefused
    else if x.state = .opening ∧ a ≠ .close ∧ a ≠ .remove ∧ a ≠ .join then stRefused
    else if x.mem.quarantined ∧ a ≠ .close ∧ a ≠ .remove then stIntegrity
    else if x.held.held ∧ a ≠ .close ∧ a ≠ .resolve ∧ a ≠ .roll then stHeld
    else stOk

/-! ### Service -/

/-- Every command code of R479, R480, R542 and R560. -/
def knownCodes : List Nat :=
  [0x0001, 0x0002, 0x0010, 0x0011, 0x0020, 0x0021, 0x0022, 0x0023, 0x0030, 0x0031, 0x0032, 0x0040, 0x0100, 0x0101, 0x0102,
    0x0103, 0x0104, 0x0105, 0x0200, 0x0201, 0x0202, 0x0210, 0x0211, 0x0300, 0x0301, 0x0302, 0x0400, 0x0401, 0x0402, 0x0403,
    0x0500, 0x0501, 0x0800, 0x0801, 0x0802, 0x0803, 0x0804, 0x0805, 0x0806, 0x0900, 0x0901, 0x0902, 0x0903]

/-- R481: a mailbox holds a request with an unknown code, and it is its turn. Assumption log 6 (DESIGN CHOICE). -/
def State.unknownTurn (s : State) (n : Nat) : Bool :=
  s.mbServed && s.turn n && !knownCodes.contains (fieldAt (s.mailbox n).request 0 2)

/-- R471, R481: while a request with an unknown code is the next to be taken, it is refused; `fuel` bounds them. -/
def State.passTurns : Nat → State → State
  | 0, s => s
  | fuel + 1, s =>
    match (List.range 64).find? s.unknownTurn with
    | some n =>
      let st := s.gate n (fieldAt (s.mailbox n).request 0 2)
      passTurns fuel (s.done n (if st = stOk then stRefused else st) 0 [])
    | none => s

/-- The turn passes on. Assumption log 6 (DESIGN CHOICE). -/
def State.passTurn (s : State) : State := State.passTurns 64 s

/-- R475: complete a mailbox with a command's response; the turn passes on. -/
def State.respond (s : State) (r : Req) (p : Resp) : State :=
  State.passTurn <| if r.isSealed then
    let plain := w16 p.status ++ zeros 2 ++ le 4 p.detail ++ p.body
    s.done r.mb stOk 0 (sealEnvelope (cmdKeyOf (s.spdmMaster r.spdm) r.session r.party) r.party r.session 1 r.seq r.code plain)
  else s.done r.mb p.status p.detail p.body

/-- A request accepted under its party's command key (R389, R394). A join under a fingerprint that is not the party's
leaves no key in force. -/
def State.acceptKey (s : State) (r : Req) : State :=
  if r.isSealed ∧ r.fp = (s.session r.session).partyFp r.party then
    s.onSession r.session fun x => x.keepKey r.party r.seq r.spdm
  else s

/-- Serve the request waiting in a mailbox, when it is its turn and it is the command's. `pick` chooses between commands
that share a code; `effect` answers no response while the command is not complete.
Assumption log 6 (DESIGN CHOICE). -/
def State.serve (s : State) (mb code : Nat) (c : Carriage) (a : Access) (pick : Bytes → Bool)
    (effect : State → Req → State × Option Resp) : State :=
  if s.mbServed ∧ s.turn mb ∧ fieldAt (s.mailbox mb).request 0 2 = code then
    match s.take mb code c with
    | (st, none) => (s.done mb st 0 []).passTurn
    | (_, some r) =>
      if pick r.body then
        let s := s.acceptKey r
        let st := s.allowed r c a
        if st ≠ stOk then s.respond r ⟨st, 0, []⟩
        else
          match effect s r with
          | (s, some p) => s.respond r p
          | (s, none) => s.setMailbox mb { s.mailbox mb with state := .serving }
      else s
  else s

/-- Every body. -/
def anyBody : Bytes → Bool := fun _ => true

/-- A body of exactly `n` bytes whose listed ranges are zero. -/
def bodyForm (b : Bytes) (n : Nat) (z : List (Nat × Nat)) : Bool := b.length = n && z.all fun q => zeroRange b q.1 q.2

/-- Complete a request that its command left in service (R250, R412). Assumption log 87 (DEDUCED). -/
def State.respondLate (s : State) (mb : Nat) (p : Resp) : State :=
  let raw := (s.mailbox mb).request
  let i := (u8 raw 3).toNat
  let body := raw.drop 16
  if (s.mailbox mb).state = .serving then
    let sealedBit := bitOf (fieldAt raw 2 1) 0
    let n := match s.envKey i body with | some q => q.1 | none => 0
    s.respond ⟨mb, fieldAt raw 0 2, i, u32 raw 8, sealedBit, (u8 body 5).toNat, u64 body 8, n, [], []⟩ p
  else s

/-! ### Pending tables, R477 -/

/-- An entry for a request. -/
def Req.entry (r : Req) (party : Nat) (key : Bytes) : Pending :=
  { command := r.code, status := stPending, session := BitVec.ofNat 8 r.session, party := BitVec.ofNat 8 party,
    tag := r.tag, seq := r.seq, key := key }

/-- An entry of a request that names no party: what its PARTY byte holds is open (R487). -/
def State.entryFor (s : State) (r : Req) (key : Bytes) : Pending × State :=
  let (d, s) := s.draw
  (r.entry (Config.freeWord d).toNat key, s)

/-- Replace the first ended entry. -/
def pendReplace : List Pending → Pending → Option (List Pending)
  | [], _ => none
  | q :: t, e => if q.status ≠ stPending then some (e :: t) else (pendReplace t e).map (q :: ·)

/-- Record a pending command: in a free place if there is one, else over an ended entry; none when all eight are
pending. -/
def pendAdd (l : List Pending) (e : Pending) : Option (List Pending) :=
  if l.length < 8 then some (l ++ [e]) else pendReplace l e

/-- The pending table a request uses. -/
def State.pendOf (s : State) (r : Req) : List Pending :=
  if r.isSealed then (s.session r.session).pend else s.modulePend

def State.setPend (s : State) (r : Req) (l : List Pending) : State :=
  if r.isSealed then s.onSession r.session fun x => { x with pend := l } else { s with modulePend := l }

/-- A pending command with the same arguments. -/
def State.isRepeat (s : State) (r : Req) (key : Bytes) : Bool :=
  (s.pendOf r).any fun e => e.command = r.code && e.session.toNat = r.session && e.key = key && e.status = stPending

/-- End an entry. -/
def pendEnd (l : List Pending) (p : Pending → Bool) (st : Status) : List Pending :=
  l.map fun e => if e.status = stPending && p e then { e with status := st } else e

/-- End the entries of a session's command in both tables. -/
def State.endPending (s : State) (i code : Nat) (p : Pending → Bool) (st : Status) : State :=
  let q := fun (e : Pending) => e.command = code && e.session.toNat = i && p e
  let s := { s with modulePend := pendEnd s.modulePend q st }
  s.onSession i fun x => { x with pend := pendEnd x.pend q st }

end Sys2Proof.Machine
end

