-- ==== Sys2Proof/Machine/Sessions.lean ====
section
/-! DEFINITION. Sessions, parties and keys: opening (R380 to R383, R482), joining (R384, R389 to R391), removal (R406 to
R410), closing (R411, R412), strikes and quiescence (R385, R386, R407, R408). -/

namespace Sys2Proof.Machine

/-! ### Key slots, R383, R385 -/

def State.keySlot (s : State) (n : Nat) : KeySlot := vget KeySlot.reset s.slots n

def State.setSlot (s : State) (n : Nat) (k : KeySlot) : State := { s with slots := vset s.slots n k }

/-- A slot that may be bound. -/
def KeySlot.free (k : KeySlot) : Bool := k.binding.isNone && !k.draining && k.gen ≠ BitVec.allOnes 32

/-- The kinds of slot of a session, in the order of R383. -/
def slotKinds (parties : Nat) : List SlotKind :=
  (List.range parties).map SlotKind.party ++ [.joint, .reserve, .link, .exportKey]

/-- The slots of a session. -/
def State.slotsOf (s : State) (i : Nat) : List Nat :=
  (List.range 64).filter fun n => ((s.keySlot n).binding.map (·.1)) = some i

/-- Strike a slot: its key is erased everywhere and its generation advances, to at most its last value. -/
def KeySlot.strike (k : KeySlot) : KeySlot := { k with key := [], gen := satAdd k.gen 1, draining := true }

/-- A slot of a session is struck; the stored bits it accounted for stay in memory (R362). -/
def State.strikeSlot (s : State) (n : Nat) : State :=
  let s := match (s.keySlot n).binding with | some q => s.keepStored q.1 | none => s
  s.setSlot n (s.keySlot n).strike

/-- Release a slot; its generation stays. -/
def State.releaseSlot (s : State) (n : Nat) : State :=
  s.setSlot n { s.keySlot n with key := [], binding := none, draining := false }

/-- R386: every engine has reported quiescent on a slot's strike. -/
def State.settleSlot (s : State) (n : Nat) : State := s.setSlot n { s.keySlot n with draining := false }

/-- Put a key into a session's slot of a kind. -/
def State.keySession (s : State) (i : Nat) (k : SlotKind) (key : Bytes) : State :=
  match s.slotOf i k with
  | some n => s.setSlot n { s.keySlot n with key := key }
  | none => s

/-- Assign the lowest-numbered free slots in order; random kinds draw their key, and the derived ones hold none yet.
Assumption log 11 (DESIGN CHOICE). -/
def State.bindSlots (s : State) (i : Nat) : List SlotKind → State
  | [] => s
  | k :: ks =>
    match (List.range 64).find? fun n => (s.keySlot n).free with
    | some n =>
      let (key, s) := if k = .link ∨ k = .exportKey then (([] : Bytes), s) else s.random 32
      (s.setSlot n { s.keySlot n with key := key, binding := some (i, k) }).bindSlots i ks
    | none => s

/-! ### The configuration record, R380 to R382 -/

def cfgDies (c : Bytes) : List Nat := let q := pieceDies (u8 c 1).toNat; (List.range q.2).map (q.1 + ·)
def cfgParties (c : Bytes) : Nat := (u8 c 2).toNat
def cfgFp (c : Bytes) (p : Nat) : Bytes := slice c (640 + 64 * p) 64
def cfgChannel (c : Bytes) (k : Nat) : Nat := (u8 c (64 + k)).toNat
def cfgBank (c : Bytes) (d b : Nat) : Nat := (u8 c (128 + 64 * d + b)).toNat
def cfgWay (c : Bytes) (d w : Nat) : Nat := (u8 c (384 + 16 * d + w)).toNat
def cfgFarWay (c : Bytes) (w : Nat) : Nat := (u8 c (448 + w)).toNat
def cfgFarMib (c : Bytes) (k : Nat) : Nat := fieldAt c (464 + 4 * k) 4

/-- Reserved codes and bytes (R380, R381). Assumption log 64 (PRESUMED). -/
def cfgCodes (c : Bytes) : Bool :=
  let owner := fun (reserve : Bool) (o : Nat) => decide (o < cfgParties c ∨ o = 31 ∨ o = 0xFF ∨ (reserve ∧ o = 30))
  u8 c 0 = 1 && decide ((u8 c 1).toNat < 8 ∧ (u8 c 1).toNat ≠ 3 ∧ (u8 c 3).toNat < 4 ∧ fieldAt c 8 4 < 2 ^ 18) && zeroRange c 14 2 &&
    zeroRange c 52 12 && zeroRange c 532 44 && zeroRange c 1664 384 &&
    ((List.range 64).all fun k => owner false (cfgChannel c k)) &&
    ((List.range 256).all fun k => owner false (u8 c (128 + k)).toNat) &&
    ((List.range 64).all fun k => owner true (u8 c (384 + k)).toNat) &&
    ((List.range 16).all fun w => owner true (cfgFarWay c w))

/-- PARTIES and fingerprints. -/
def cfgPartiesOk (c : Bytes) : Bool :=
  let n := cfgParties c
  decide (1 ≤ n ∧ n ≤ 16) && ((List.range 16).all fun p => decide (p < n) || zeroRange c (640 + 64 * p) 64) &&
    decide ((List.range n).map (cfgFp c)).Nodup

/-- Channels an owner has. -/
def cfgChannels (c : Bytes) (o : Nat) : Nat := ((List.range 64).filter fun k => cfgChannel c k = o).length

/-- Every owner with lines in a die's channels, the reserve among them, holds a way there (R351), and every owner with
far data a far way (R367). -/
def cfgWaysOk (c : Bytes) : Bool :=
  ((List.range 4).all fun d =>
    let owners := (((List.range 16).map fun k => cfgChannel c (16 * d + k)).filter (· ≠ 0xFF)).eraseDups
    owners.isEmpty || (30 :: owners).all fun o => (List.range 16).any fun w => cfgWay c d w = o) &&
    (List.range 17).all fun k =>
      cfgFarMib c k = 0 || (List.range 16).any fun w => cfgFarWay c w = if k = 16 then 31 else k

/-- The parameter region lies in the joint region (R212, R382). -/
def cfgParamsOk (c : Bytes) : Bool :=
  let base := fieldAt c 16 8
  let size := fieldAt c 24 8
  let before := ((List.range 16).map fun p => cfgChannels c p * userBytes).sum
  size ≠ 0 && size % 4096 = 0 && base % 4096 = 0 &&
    decide (before ≤ base ∧ base + 2 * size ≤ before + cfgChannels c 31 * userBytes)

/-- R382: a record that is not refused with ST_REFUSED; `lists` is the number of list digests. -/
def cfgOk (c : Bytes) (lists : Nat) : Bool :=
  let n := cfgParties c
  let owned := (List.range n).map (cfgChannels c)
  cfgCodes c && cfgPartiesOk c && owned.all (· ≠ 0) && (lists = 0 || cfgChannels c 31 ≠ 0) &&
    ((List.range 4).all fun d => (cfgDies c).contains d || (List.range 64).all fun b => cfgBank c d b = 0xFF) &&
    cfgWaysOk c && fieldAt c 4 2 % 64 = 0 && fieldAt c 6 2 % 64 = 0 &&
    decide (64 ≤ fieldAt c 6 2 ∧ fieldAt c 4 2 + fieldAt c 6 2 ≤ 4096) &&
    (fieldAt c 8 4 = 0 || bitOf (fieldAt c 3 1) 0) && decide (1 ≤ (u8 c 12).toNat ∧ (u8 c 12).toNat ≤ 4) &&
    cfgParamsOk c &&
    (if bitOf (fieldAt c 3 1) 1 then posNormal (u32 c 36) && posNormal (u32 c 40) else zeroRange c 36 8) &&
    owned.all (fun k => decide (fieldAt c 44 4 ≤ 192 * k)) && decide ((u8 c 13).toNat < n) &&
    decide (((List.range 17).map (cfgFarMib c)).sum ≤ 896 * fieldAt c 48 4)

/-! ### What sessions hold, R402 -/

/-- A party of a session whose removal is complete: its channels, banks and ways are released (R409). -/
def Session.gone (x : Session) (o : Nat) : Bool :=
  decide (o < 16) && x.removed.getLsbD o && !(x.removals.any (·.party = o))

/-- Whether an owner code still holds its resource. -/
def Session.holds (x : Session) (o : Nat) : Bool := x.isOpen && o ≠ 0xFF && !x.gone o

/-- Some open session. -/
def State.anySession (s : State) (f : Session → Bool) : Bool := (List.range 4).any fun i => (s.session i).isOpen && f (s.session i)

/-- R382, R402, R29: a resource the record names is held by another session. -/
def State.cfgTaken (s : State) (c : Bytes) : Bool :=
  let lo := fieldAt c 4 2
  let hi := lo + fieldAt c 6 2
  ((List.range 64).any fun k => cfgChannel c k ≠ 0xFF && (vget Channel.reset s.channels k).holder.isSome) ||
    ((List.range 18).any fun p => bitOf (fieldAt c 8 4) p && (s.port p).bound) ||
    s.anySession fun x =>
      (x.dieList.any fun d => (cfgDies c).contains d) ||
        ((List.range 4).any fun d =>
          ((List.range 64).any fun b => cfgBank c d b ≠ 0xFF && x.holds (x.bankOwner d b)) ||
            (List.range 16).any fun w => cfgWay c d w ≠ 0xFF && x.holds (x.wayOwner d w)) ||
        ((List.range 16).any fun w => cfgFarWay c w ≠ 0xFF && x.holds (x.cfg (448 + w))) ||
        ((List.range 18).any fun p => bitOf (fieldAt c 8 4) p && bitOf x.portMask p) ||
        decide (lo < x.tallyBase + x.tallyCount ∧ x.tallyBase < hi) || x.vf = (u8 c 12).toNat

/-- The dies a record touches: its piece, its channels, banks and ways. -/
def cfgTouches (c : Bytes) (d : Nat) : Bool :=
  (cfgDies c).contains d || ((List.range 16).any fun k => cfgChannel c (16 * d + k) ≠ 0xFF) ||
    ((List.range 64).any fun b => cfgBank c d b ≠ 0xFF) || (List.range 16).any fun w => cfgWay c d w ≠ 0xFF

/-- R501: a unit the record names is unavailable. -/
def State.cfgMissing (s : State) (c : Bytes) : Bool :=
  ((List.range 4).any fun d => s.resets.unavailQuarter.getLsbD d && cfgTouches c d) ||
    ((List.range 64).any fun k => cfgChannel c k ≠ 0xFF && s.resets.unavailStack.getLsbD (k / 8)) ||
    (List.range 18).any fun p => bitOf (fieldAt c 8 4) p && s.resets.unavailLnk.getLsbD (p / 9)

/-- R519: a quarter the record names has been released and is not yet available. -/
def State.cfgReadying (s : State) (c : Bytes) : Bool :=
  (List.range 4).any fun d => ((vget Die.reset s.dies d).readying || (vget Die.reset s.dies d).inReset) && cfgTouches c d

/-- Free units of 1 GiB of the far tier: far target and unit (R365, R455, R456). -/
def State.farFree (s : State) : List (Nat × Nat) :=
  if s.host.uioEnable then
    let units := (s.host.targets.map fun t => (List.range (t.2.2 / 2 ^ 30)).map fun k => (t.1, k)).flatten
    units.filter fun u => !(s.anySession fun x => x.farParts.contains u)
  else []

/-- R382, R442, R456, R501: nothing the record names is held elsewhere, exhausted or absent. -/
def State.cfgAvailable (s : State) (c : Bytes) : Bool :=
  !s.cfgTaken c && !s.cfgMissing c && s.host.vfEnable && decide ((u8 c 12).toNat ≤ s.host.numVfs.toNat) &&
    decide (cfgParties c + 4 ≤ ((List.range 64).filter fun n => (s.keySlot n).free).length) &&
    decide (fieldAt c 48 4 ≤ s.farFree.length)

/-! ### SESSION_OPEN -/

/-- Bind what a session holds (R309, R361, R402, R556). -/
def State.bindAll (s : State) (i : Nat) (x : Session) : State :=
  let s := { s with
    channels := Vector.ofFn fun (k : Fin 64) =>
      (if x.channelOwner k = 0xFF then vget Channel.reset s.channels k
       else (vget Channel.reset s.channels k).emptied (some (i, x.channelOwner k)))
    far := vset s.far i Channel.reset
    tallies := s.tallies.filter fun e => !(decide (x.tallyBase ≤ e.1 ∧ e.1 < x.tallyBase + x.tallyCount))
    ports := Vector.ofFn fun (p : Fin 18) =>
      let q := vget Port.reset s.ports p
      if bitOf x.portMask p then
        { q with bound := true, session := BitVec.ofNat 2 i, state := if q.enable then .training else .disabled }
      else q }
  let slots := Vector.ofFn fun (q : Fin 4) =>
    if x.dieList.contains q.val then Vector.replicate 16 0 else vget (Vector.replicate 16 0) s.perf.slots q
  { s with perf := { s.perf with slots := slots } }

/-- The session a configuration opens. -/
def newSession (c : Bytes) (digests : List Bytes) (kernel : Bytes) (statusKey nonce : Bytes) (far : List (Nat × Nat)) : Session :=
  let x : Session := { Session.reset with
    state := .opening, config := c, configDigest := Crypto.sha512 c, programs := digests, kernelAllowed := kernel,
    statusKey := statusKey, memberNonce := nonce, linkSalt := nonce, farParts := far,
    sealRec := { SealRec.reset with step := u32 c 32 } }
  { x with piece := { Piece.reset with top := x.top, dies := x.dies } }

/-- Digests in strictly ascending byte order (R482). -/
def ascending : List Bytes → Bool
  | a :: b :: t => decide (beNat a < beNat b) && ascending (b :: t)
  | _ => true

/-- SESSION_OPEN's effect. Assumption log 11 (DESIGN CHOICE). -/
def State.openSession (s : State) (r : Req) : State × Option Resp :=
  let b := r.body
  let n := fieldAt b 16 2
  let ca := fieldAt b 0 8
  let pa := fieldAt b 8 8
  if s.lcState ≠ 2 ∨ s.lc.openRec.isSome then (s, Resp.of stLocked)
  else if ¬ bodyForm b 24 [(18, 6)] ∨ 256 < n ∨ ¬ s.windowOk true none ca 2048 ∨ ¬ s.windowOk true none pa (64 * (n + 1)) then
    (s, Resp.of stRefused)
  else if ¬ s.cacheReady then (s, Resp.of stNotReady)
  else
    let c := s.hostLoad ca 2048
    let ps := s.hostLoad pa (64 * (n + 1))
    let digests := (chunksOf 64 ps).take n
    if ¬ cfgOk c n ∨ ¬ ascending digests then (s, Resp.of stRefused)
    else if Crypto.sha512 ps ≠ slice c 576 64 then (s, Resp.of stBadEnvelope)
    else if s.cfgReadying c then (s, Resp.of stNotReady)
    else
      match (List.range 4).find? fun i => !(s.session i).isOpen with
      | none => (s, Resp.of stNoResource)
      | some i =>
        if ¬ s.cfgAvailable c then (s, Resp.of stNoResource)
        else
          let far := s.farFree.take (fieldAt c 48 4)
          let s := s.bindSlots i (slotKinds (cfgParties c))
          let now := s.time.now
          let (key, s) := s.random 32
          let (nonce, s) := s.random 32
          let x := newSession c digests (slice ps (64 * n) 64) key nonce far
          let x := { x with piece := { x.piece with quietSince := now, quiet := true } }
          ((s.setSession i x).bindAll i x, Resp.ok (le 1 i))

/-- SESSION_OPEN. -/
def execSessionOpen (mb : Nat) (s : State) : Out :=
  .next (s.serve mb 0x0100 .sessionOpen .work anyBody State.openSession)

/-! ### PARTY_JOIN -/

/-- R384: the session's values derived from every share. -/
def Session.allShares (x : Session) : Bytes := ((List.range x.parties).map fun p => Table.get [] x.shares p).flatten

/-- R384: the link key under a salt. -/
def Session.linkKey (x : Session) (salt : Bytes) : Bytes := Crypto.hkdf x.allShares salt (ascii "LSV960-LINK") 32

/-- R384, R391: the last party has joined. The shares are erased once nothing more is derived from them: a consignment
keeps them for the link key that CONSIGN_CONFIG derives afresh (R316). -/
def State.becomeReady (s : State) (i : Nat) : State :=
  let x := s.session i
  let s := s.keySession i .link (x.linkKey x.linkSalt)
  let s := s.keySession i .exportKey (Crypto.hkdf x.allShares [] (ascii "LSV960-EXPORT") 32)
  s.setSession i { x with
    state := .ready, seed := Crypto.hkdf x.allShares [] (ascii "LSV960-SEED") 16,
    shares := if x.isConsignment then x.shares else [], sealRec := { x.sealRec with step := u32 x.config 32 } }

/-- PARTY_JOIN's effect (R390). -/
def State.join (s : State) (r : Req) : State × Option Resp :=
  let x := s.session r.session
  let p := r.party
  if ¬ bodyForm r.body 96 [] then (s, Resp.of stRefused)
  else if r.fp ≠ x.partyFp p then (s, Resp.of stBadSignature)
  else if slice r.body 0 64 ≠ x.configDigest then (s, Resp.of stRefused)
  else if x.joined.getLsbD p then (s, Resp.of stRefused)
  else if x.removed.getLsbD p then (s, Resp.of stRevoked)
  else
    let share := slice r.body 64 32
    let x := { x with
      joined := setBit x.joined p, shares := Table.set [] x.shares p share,
      ingestKeys := Table.set [] x.ingestKeys p (Crypto.hkdf share [] (ascii "LSV960-INGEST") 32) }
    let s := s.setSession r.session x
    let s := if (List.range x.parties).all fun k => x.joined.getLsbD k then s.becomeReady r.session else s
    (s, Resp.ok (le 1 r.session ++ zeros 7 ++ x.statusKey ++ x.memberNonce))

/-- PARTY_JOIN. -/
def execPartyJoin (mb : Nat) (s : State) : Out := .next (s.serve mb 0x0102 .sealed .join anyBody State.join)

/-! ### Strikes -/

/-- The owner an operation works for. -/
def opParty (d : Bytes) : Nat :=
  let c := dOpcode d
  if opClass c = 1 then aParty d
  else if opClass c = 2 then phParty d
  else if c = opKernel then bitsAt d 43 1 7 3
  else if c = opReckon then rkParty d
  else if c = opNoise then dpParty d
  else if opClass c = 5 then clOutParty d
  else if c = opFarMove then fmParty d
  else if c = opExport ∨ c = opImport then ckParty d
  else 31

/-- Whether an operation is in the hands of an engine. -/
def opUses (e : Engine) (d : Bytes) : Bool :=
  let k := opClass (dOpcode d)
  match e with
  | .onDie _ => decide (1 ≤ k ∧ k ≤ 4)
  | .memory => decide (1 ≤ k)
  | .farTier => dOpcode d = opFarMove
  | .sortingOffice => k = 5
  | .ports => false

/-- R408, R411: an engine holds an item of a struck generation: an operation of a struck owner that is launched and not
done, or at a close one that has started. Assumption log 89 (DEDUCED). -/
def Session.engineHolds (x : Session) (e : Engine) : Bool :=
  let closing := match x.closing with | some c => c.struck | none => false
  x.ops.any fun o => opUses e o.desc &&
    (o.stage = .launched && (closing || x.struck (opParty o.desc)) || o.stage = .started && closing)

/-- R284: a port of the session holds a flit of an earlier generation in its buffers or its retry store. -/
def State.portsHold (s : State) (i : Nat) : Bool :=
  (List.range 18).any fun p =>
    let q := s.port p
    q.bound && q.session.toNat = i && (q.unacked.map (·.2) ++ q.control ++ q.data).any fun f => f.gen ≠ s.linkGen i

/-- Engines that have to report after a strike; the far-tier engine reports at once (R408). -/
def Session.strikeEngines (x : Session) (all : Bool) : List Engine :=
  x.dieList.map Engine.onDie ++ [.memory, .sortingOffice] ++ (if all then [.ports] else [])

/-- Two lists of engines together. -/
def joinEngines (a b : List Engine) : List Engine := a ++ b.filter fun e => !a.contains e

/-- A port unbound from its session (R245, R246). -/
def Port.unbind (q : Port) : Port :=
  { q with bound := false, session := 0, peerRank := 0, peerPort := 0, peerLocked := false, state := .disabled, lanes := 0, failedLanes := 0,
           downReason := if q.runs ∨ q.state = .keying ∨ q.state = .training then 5 else q.downReason,
           window := [], resend := [], control := [], data := [], arrived := [], resetMbs := [], owed := 0, granted := false }

/-- The LINK_RESETs of a port that can no longer be acknowledged complete with a status.
Assumption log 32 (DEDUCED). -/
def State.dropResets (s : State) (p : Nat) (st : Status) : State :=
  let l := (s.port p).resetMbs
  (l.foldl (fun s mb => s.respondLate mb ⟨st, 0, []⟩) s).onPort p fun q => { q with resetMbs := [] }

/-- The waiting ingests of a party end with a status (R410). -/
def State.endIngests (s : State) (i : Nat) (p : Ingest → Bool) (st : Status) : State :=
  let l := (s.session i).ingests.filter p
  let s := l.foldl (fun s g => s.onSession i fun x =>
    { x with pend := pendEnd x.pend (fun e => e.command = 0x0105 && e.key = le 8 g.id) st }) s
  s.onSession i fun x => { x with ingests := x.ingests.filter fun g => !p g }

/-- Close a session: acceptance (R411). Assumption log 47 (DEDUCED). -/
def State.acceptClose (s : State) (i : Nat) (mailbox : Option Nat) : State :=
  s.onSession i fun x =>
    { x with state := .closing, closing := some ⟨BitVec.ofNat 64 (s.now + ns 20000), false, mailbox⟩ }

/-- R408: the strike from which each engine's limit counts: its first since it was last quiescent.
Assumption log 89 (DEDUCED). -/
def Session.deadlines (x : Session) (l : List Engine) (now : W64) : List (Engine × W64) :=
  (x.struckAt.filter fun e => x.quiesce.contains e.1) ++
    (l.filter fun e => !x.quiesce.contains e).map fun e => (e, now)

/-- R408: the engines that have not reported 1,600 µs after their strike. -/
def Session.laggards (x : Session) (now : Nat) : List Engine :=
  x.quiesce.filter fun e => x.struckAt.any fun k => k.1 = e && decide (k.2.toNat + ns 1600000 ≤ now)

/-- The owner of a held leaf chunk of a collective, by its source (R265); partial sums and results have none. -/
def leafOwner (o : Op) (c : Chunk) : Option Nat :=
  if hdrLevel c.header = 0 ∧ o.sources ≠ [] then
    (o.sources[if clReduces o.desc then hdrIndex c.header % o.sources.length else 0]?).map (·.party)
  else none

/-- R407, R409: the leaf chunks of a struck party that the Sorting Office holds are dropped, and the collectives that meet
them end with ST_REVOKED. -/
def State.dropLeaves (s : State) (i p : Nat) : State :=
  let x := s.session i
  let l := x.ops.filter fun o => o.isCollective && o.stage = .launched
  let leaf := fun (o : Op) (c : Chunk) => (x.collFor c.header).map (fun q => (q.ctx, q.seq)) = some (o.ctx, o.seq) && leafOwner o c = some p
  l.foldl (fun s o =>
    if x.landing.any (leaf o) ∨ x.inbound.any (fun e => leaf o e.2) then
      ((s.onSession i fun x =>
        { x with landing := x.landing.filter fun c => !leaf o c, inbound := x.inbound.filter fun e => !leaf o e.2 }).finishOp
          i o stRevoked)
    else s) s

/-- PARTY_STRIKE: R407, R410. Assumption log 47 (DEDUCED). -/
def State.strikeParty (s : State) (i p : Nat) : State :=
  let s := match s.slotOf i (.party p) with | some n => s.strikeSlot n | none => s
  let s := s.endIngests i (fun g => g.party = p) stRevoked
  let s := s.onSession i fun x =>
    { x with
      removed := setBit x.removed p
      noise := x.noise.filter fun r => r.party ≠ p
      ingestKeys := Table.set [] x.ingestKeys p []
      removals := x.removals.map fun r => if r.party = p then { r with struck := true } else r
      quiesce := joinEngines x.quiesce (x.strikeEngines false)
      struckAt := x.deadlines (x.strikeEngines false) s.time.now }
  let s := s.dropLeaves i p
  let x := s.session i
  if (List.range x.parties).all fun k => x.removed.getLsbD k then s.acceptClose i none else s

/-- PARTY_STRIKE. -/
def execPartyStrike (i p : Nat) (s : State) : Out :=
  .next <|
    let x := s.session i
    match x.removals.find? (·.party = p) with
    | some r => if r.struck ∨ x.state = .closing ∨ s.now < r.strikeAt.toNat then s else s.strikeParty i p
    | none => s

/-- R411: the strike of a session close: every slot is struck, every live context stops, and its ports are unbound. -/
def State.strikeSession (s : State) (i : Nat) : State :=
  let s := (s.slotsOf i).foldl (fun s n => if (s.keySlot n).draining then s else s.strikeSlot n) s
  let s := s.endIngests i (fun _ => true) stRevoked
  let s := (List.range 18).foldl (fun s p =>
    if (s.port p).bound ∧ (s.port p).session.toNat = i then s.dropResets p stRevoked else s) s
  let ports := s.ports.map fun (q : Port) => if q.bound ∧ q.session.toNat = i then q.unbind else q
  let s := { s with ports := ports }
  s.onSession i fun x =>
    let x := x.stopAll stRevoked
    { x with
      closing := x.closing.map fun c => { c with struck := true }
      noise := [], ingestKeys := []
      quiesce := joinEngines x.quiesce (x.strikeEngines true)
      struckAt := x.deadlines (x.strikeEngines true) s.time.now }

/-- SESSION_CLOSE_STRIKE. -/
def execSessionCloseStrike (i : Nat) (s : State) : Out :=
  .next <| match (s.session i).closing with
    | some c => if c.struck ∨ s.now < c.strikeAt.toNat then s else s.strikeSession i
    | none => s

/-! ### Release -/

/-- Clear the Sorting store banks of a session that `f` picks by owner (R409, R411). -/
def State.clearBanks (s : State) (x : Session) (f : Nat → Bool) : State :=
  { s with dies := Vector.ofFn fun (d : Fin 4) =>
      let q := vget Die.reset s.dies d
      { q with store := q.store.filter fun e =>
          let b := e.1 / bankBytes
          let o := x.bankOwner d b
          !(decide (b < 64 ∧ o ≠ 0xFF) && f o) } }

/-- Unbind the channels of a session that `f` picks by owner: their metadata is discarded, and each then reads as zero
(R361). -/
def State.clearChannels (s : State) (i : Nat) (f : Nat → Bool) : State :=
  let cs := s.channels.map fun (ch : Channel) =>
    match ch.holder with | some (j, o) => if j = i ∧ f o then ch.emptied none else ch | none => ch
  { s with channels := cs }

/-- Clear an owner's region of the far range: its items go back to version 0, and what is resident above them is dirty
(R366, R409). -/
def State.clearFar (s : State) (i o : Nat) : State :=
  let x := s.session i
  let r := x.farRegion o
  let inside := fun (a : Nat) => decide (r.1 ≤ a ∧ a < r.1 + r.2)
  let within := fun (k : Nat) =>
    let q := (Item.ofKey k).pages
    decide (r.1 ≤ 4096 * q.1 ∧ 4096 * q.2 ≤ r.1 + r.2)
  let above := fun (k : Nat) =>
    let q := (Item.ofKey k).pages
    decide (4096 * q.1 < r.1 + r.2 ∧ r.1 < 4096 * q.2)
  s.onChan (.far i) fun ch =>
    { ch with data := ch.data.filter fun e => !inside e.1
              counters := ch.counters.filter fun e => !inside (4096 * e.1)
              lines := ch.lines.filter fun e => !inside (64 * e.1)
              tagLines := ch.tagLines.filter fun e => !inside (512 * e.1)
              versions := ch.versions.filter fun e => !within e.1
              cache := (ch.cache.filter fun e => !within e.1).map fun e => if above e.1 then (e.1, some true) else e
              failed := ch.failed.filter fun e => !within e.1 }

/-- R409: the removals that have been struck are complete; the session keeps the slots, with no key, until it closes
(R383). -/
def State.finishRemovals (s : State) (i : Nat) : State :=
  let l := ((s.session i).removals.filter (·.struck)).map (·.party)
  l.foldl (fun s p =>
    let s := match s.slotOf i (.party p) with | some n => s.settleSlot n | none => s
    let s := ((s.clearChannels i (· = p)).clearBanks (s.session i) (· = p)).clearFar i p
    ((s.onSession i fun x => { x with removals := x.removals.filter (·.party ≠ p) }).endPending i 0x0103
      (fun e => e.party.toNat = p) stOk).endSweep i (.far i)) s

/-- A session's counters return to unassigned (R546). -/
def Perf.releaseSession (p : Perf) (i : Nat) : Perf :=
  { p with counters := p.counters.filter fun e => !(decide (e.2.owner = 1 ∧ e.2.session.toNat = i)) }

/-- The mailboxes of a session return to their reset values when its close completes, but for the one that carried the
SESSION_CLOSE (R467). Assumption log 87 (DEDUCED). -/
def State.clearMailboxes (s : State) (i : Nat) (keep : Option Nat) : State :=
  { s with mailboxes := Vector.ofFn fun (n : Fin 64) =>
      if mbSession n = i ∧ keep ≠ some n.val then Mailbox.reset else vget Mailbox.reset s.mailboxes n }

/-- A function-level reset: a function's configuration registers are as before any write, and it is in D0.
Assumption log 40 (PRESUMED). -/
def HostPort.resetFn (h : HostPort) (fn : Nat) : HostPort :=
  { h with
    d3 := vset h.d3 fn false
    config := h.config.filter fun e => e.1 / 1024 ≠ fn
    uioEnable := h.uioEnable && decide (fn ≠ 0) }

/-- R411, R412: a close completes: every resource is rebound and every record returns to its reset value.
Assumption log 87 (DEDUCED). -/
def State.finishClose (s : State) (i : Nat) : State :=
  let x := s.session i
  let served := s.ringSession
  let mailbox := x.closing.bind (·.mailbox)
  let s := match mailbox with | some mb => s.respondLate mb ⟨stOk, 0, []⟩ | none => s
  let s := (s.slotsOf i).foldl State.releaseSlot s
  let s := (s.clearChannels i fun _ => true).clearBanks x fun _ => true
  let s := s.clearMailboxes i mailbox
  let s := { s with
    far := vset s.far i Channel.reset
    tallies := s.tallies.filter fun e => !(decide (x.tallyBase ≤ e.1 ∧ e.1 < x.tallyBase + x.tallyCount))
    perf := s.perf.releaseSession i
    dies := Vector.ofFn fun (d : Fin 4) =>
      let q := vget Die.reset s.dies d
      if x.dieList.contains d then { q with phParty := none, cbParty := none, phQueue := [], clear := 0 } else q
    host := s.host.resetFn x.vf
    modulePend := pendEnd s.modulePend (fun e => e.command = 0x0103 && e.session.toNat = i) stOk }
  let s := s.setSession i Session.reset
  if served = some i then s.leaveRing else s

/-- Every engine is quiescent on the strikes: removals or the close complete (R408 to R412). -/
def State.quiesced (s : State) (i : Nat) : State :=
  let x := s.session i
  if ¬ x.quiesce.isEmpty then s
  else
    match x.closing with
    | some c => if c.struck then s.finishClose i else s
    | none => s.finishRemovals i

/-- ENGINE_QUIESCENT. Assumption log 89 (DEDUCED). -/
def execEngineQuiescent (i : Nat) (e : Engine) (s : State) : Out :=
  .next <|
    let x := s.session i
    if x.quiesce.contains e ∧ ¬ x.engineHolds e ∧ ¬ (e = .ports ∧ s.portsHold i) then
      (s.setSession i { x with quiesce := x.quiesce.filter (· ≠ e) }).quiesced i
    else s

/-- A laggard's operations of struck owners end, and its units are cleared (R408). Assumption log 89 (DEDUCED). -/
def State.forceQuiet (s : State) (i : Nat) (e : Engine) : State :=
  let x := s.session i
  let closing := match x.closing with | some c => c.struck | none => false
  let l := x.ops.filter fun o => o.stage ≠ .finished && opUses e o.desc && (closing || x.struck (opParty o.desc))
  let s := l.foldl (fun s o => s.completeOp i o stRevoked) s
  match e with
  | .onDie d =>
    let q := vget Die.reset s.dies d
    let q := { q with phParty := none, cbParty := none, phQueue := q.phQueue.filter fun r => (s.op? r).isSome }
    { s with dies := vset s.dies d q }
  | .sortingOffice => (List.range 4).foldl (fun s i => s.onSession i fun x => { x with landing := [], inbound := [] }) s
  | .ports =>
    (List.range 18).foldl (fun s p =>
      if (s.port p).bound ∧ (s.port p).session.toNat = i then s.onPort p fun q => q.purge (s.linkGen i) else s) s
  | _ => s

/-- QUIESCE_DEADLINE: 1,600 µs after the strike. Assumption log 85 (DESIGN CHOICE), 89 (DEDUCED). -/
def execQuiesceDeadline (i : Nat) (s : State) : Out :=
  .next <|
    let x := s.session i
    let late := x.laggards s.now
    if ¬ late.isEmpty then
      ((late.foldl (fun s e => s.forceQuiet i e) s).onSession i fun x =>
        { x with quiesce := x.quiesce.filter fun e => !late.contains e }).quiesced i
    else s

/-! ### PARTY_REMOVE and SESSION_CLOSE -/

/-- PARTY_REMOVE's effect (R406, R477). -/
def State.removeParty (s : State) (r : Req) : State × Option Resp :=
  let x := s.session r.session
  let p := (u8 r.body 0).toNat
  if ¬ bodyForm r.body 16 [(1, 7)] ∨ x.parties ≤ p ∨ (r.isSealed ∧ r.party ≠ p) then (s, Resp.of stRefused)
  else if x.removals.any (·.party = p) then (s, Resp.of stPending)
  else if x.removed.getLsbD p then (s, Resp.of stOk)
  else
    match pendAdd (s.pendOf r) (r.entry p r.body) with
    | none => (s, Resp.of stNoResource)
    | some l =>
      let at_ := max (fieldAt r.body 8 8) (s.now + ns 20000)
      ((s.setPend r l).onSession r.session fun x => { x with removals := x.removals ++ [⟨p, BitVec.ofNat 64 at_, false⟩] },
        Resp.of stPending)

/-- PARTY_REMOVE. -/
def execPartyRemove (mb : Nat) (s : State) : Out := .next (s.serve mb 0x0103 .either .remove anyBody State.removeParty)

/-- SESSION_CLOSE: accepted; its mailbox completes with the close (R412). Assumption log 47 (DEDUCED). -/
def execSessionClose (mb : Nat) (s : State) : Out :=
  .next <| s.serve mb 0x0101 .either .close anyBody fun s r =>
    if ¬ bodyForm r.body 0 [] then (s, Resp.of stRefused) else (s.acceptClose r.session (some mb), none)

end Sys2Proof.Machine
end

