-- ==== Sys2Proof/Machine/Reset.lean ====
section
/-! DEFINITION. Resets and starts: the boot ledger (R497 to R500) and the reset log (R514, R515), the sources and their
reaches (R508 to R512), what each reach clears (R506, R507, R532), management pins (R521, R522, R577), and the phases of
bring-up (R516 to R518). -/

namespace Sys2Proof.Machine

/-! ### Reaches, R13, R509 -/

/-- The code of a reach. -/
def Reach.code : Reach → Nat
  | .block => 1
  | .quarter => 2
  | .warm => 3
  | .cold => 4
  | .powerOn => 5

/-- The reach of a code. -/
def Reach.ofCode (c : Nat) : Reach :=
  match c with
  | 1 => .block
  | 2 => .quarter
  | 3 => .warm
  | 4 => .cold
  | _ => .powerOn

/-- The wider of two reaches. -/
def Reach.wider (a b : Reach) : Reach := if a.code < b.code then b else a

/-- R508: narrowest, widest and default reach of a source. -/
def sourceRange (n : Nat) : Nat × Nat × Nat :=
  match n with
  | 0 => (4, 5, 4)
  | 1 => (3, 4, 4)
  | 2 => (3, 5, 4)
  | 3 => (1, 4, 3)
  | 4 => (1, 1, 1)
  | 5 => (2, 4, 3)
  | 6 => (4, 5, 4)
  | 7 => (4, 5, 4)
  | 8 => (4, 5, 4)
  | 9 => (4, 5, 4)
  | 10 => (1, 3, 3)
  | 11 => (2, 3, 2)
  | 12 => (1, 3, 1)
  | _ => (1, 1, 1)

/-- R509: the reach the fuses give a source. Assumption log 28 (DEDUCED). -/
def State.fuseReach (s : State) (n : Nat) : Nat :=
  let c := if s.fuses.latched then (vget 0 s.fuses.reach n).toNat else 0
  let r := sourceRange n
  if r.1 ≤ c ∧ c ≤ r.2.1 then c else r.2.2

/-- R530: in PS4 a source that may act at Cold acts at Cold, or wider where it is fused so.
Assumption log 28 (DEDUCED). -/
def State.sourceReach (s : State) (n : Nat) : Nat :=
  let r := sourceRange n
  if s.power.power = .ps4 ∧ r.1 ≤ 4 ∧ 4 ≤ r.2.1 then max 4 (s.fuseReach n) else s.fuseReach n

/-- Sources whose assertion is an event and not a level; they last until what they reset has been reset.
Assumption log 27 (DEDUCED). -/
def pulseSource (n : Nat) : Bool := n = 4 || n = 5 || n = 9 || n = 10 || n = 12 || n = 14

/-- The source still holds what it covers. -/
def Hold.holds (h : Hold) : Bool := h.on && !pulseSource h.source

/-! ### The boot ledger -/

def LedgerEntry.blank : LedgerEntry := ⟨0, 0, false, 0, 0, 0, 0⟩

/-- The phase a step belongs to (R516). -/
def stepPhase (key : Nat) : Nat :=
  if key = 0x10 then 0 else if key = 0x11 ∨ key = 0x01 then 1 else if key = 0x02 then 2
  else if key < 0x30 then 3 else if key = 0x50 then 4 else if key < 0x40 then 5 else if key = 0x61 then 7 else 6

/-- The steps of a phase, in order. -/
def phaseSteps (p : Nat) : List Nat :=
  match p with
  | 1 => [0x11, 0x01]
  | 2 => [0x02]
  | 3 => (List.range 16).map (0x12 + ·)
  | 4 => [0x50]
  | 5 => (List.range 4).map (0x30 + ·)
  | 6 => (List.range 8).map (0x40 + ·) ++ [0x60]
  | 7 => [0x61]
  | _ => []

/-- Outcomes of R498. -/
def oDone : Nat := 0
def oFailed : Nat := 1
def oTimeout : Nat := 2
def oSkipped : Nat := 3
def oResumed : Nat := 4
def oAbandoned : Nat := 5
def oRejected : Nat := 6

/-- R497, R498: write an entry at HEAD. -/
def State.ledgerWrite (s : State) (key : Nat) (method : Bool) (outcome elapsed : Nat) (detail : W32) : State :=
  let a := s.aon
  let e : LedgerEntry :=
    { step := BitVec.ofNat 8 key, phase := BitVec.ofNat 3 (stepPhase key), method := method,
      outcome := BitVec.ofNat 4 outcome, start := a.startCount, elapsed := BitVec.ofNat 32 elapsed, detail := detail }
  { s with aon := { a with
      ledger := Table.set LedgerEntry.blank a.ledger a.head.toNat e
      head := a.head + 1
      wrapped := a.wrapped || decide (Table.get LedgerEntry.blank a.ledger a.head.toNat ≠ LedgerEntry.blank) } }

/-- R500: the FALLBACK bit of a step after it has ended. Assumption log 33 (DEDUCED). -/
def State.settleFallback (s : State) (key : Nat) (method good : Bool) : State :=
  if key = 0x60 ∨ key = 0x61 ∨ good then s
  else
    let f := if method then clrBit s.aon.fallback key else setBit s.aon.fallback key
    { s with aon := { s.aon with fallback := f } }

/-- The method a step runs by in this start. -/
def State.stepMethod (s : State) (key : Nat) : Bool := s.aon.fallback.getLsbD key

/-! ### The reset log -/

/-- The sources as a CAUSE field. -/
def causeBits (l : List Nat) : BitVec 14 := l.foldl setBit 0

/-- R514: the lowest-numbered source of the widest reach. -/
def primaryOf (l : List (Nat × Reach)) : Nat :=
  let w := l.foldl (fun w e => max w e.2.code) 0
  ((List.range 14).find? fun n => l.any fun e => e.1 = n ∧ e.2.code = w).getD 0

/-- R515: write a reset log entry in ring order. Assumption log 88 (DEDUCED). -/
def State.logReset (s : State) (l : List (Nat × Reach)) (reach : Nat) (timedOut : Bool) (target : Nat) : State :=
  let e : ResetEntry :=
    { postmark := if s.timeRuns then s.time.now else 0, cause := causeBits (l.map (·.1)),
      primary := BitVec.ofNat 4 (primaryOf l), reach := BitVec.ofNat 3 reach, idleTimeout := timedOut,
      target := BitVec.ofNat 8 target, aonMs := BitVec.ofNat 24 s.aon.ms.toNat }
  let log := s.aon.resetLog ++ [e]
  { s with aon := { s.aon with resetLog := log.drop (log.length - 32) } }

/-- TARGET of a block (R515, R543). -/
def blockTargetCode : BlockTarget → Nat
  | .port p => p
  | .farTier => 32
  | .pigeonhole d => 64 + d
  | .countingBoard d => 96 + d
  | .reckoner d => 128 + d
  | .dma d => 160 + d
  | .sortingOffice h => 192 + h
  | .hostPort => 224
  | .physicalFunction => 225
  | .tap => 226

/-- R540: write a log entry; the management pointer follows an entry it had not passed when that entry is overwritten. -/
def State.logWatch (s : State) (event sensor : Nat) (median : Int) : State :=
  let e : WatchEntry :=
    { aonMs := s.aon.ms, postmark := if s.timeRuns then s.time.now else 0, event := BitVec.ofNat 8 event,
      sensor := BitVec.ofNat 8 sensor, median := BitVec.ofInt 16 median }
  let log := s.aon.watchLog ++ [e]
  { s with aon := { s.aon with watchLog := log.drop (log.length - 64), watchUnread := min 64 (s.aon.watchUnread + 1) } }

/-! ### Management pins -/

/-- R521: the state a fuse code gives a pin. -/
def Pin.fuse (code : Nat) (pushPull : Bool) : Pin :=
  match code with
  | 1 => .low
  | 2 => if pushPull then .high else .hiZ
  | 3 => .pullUp
  | _ => .hiZ

/-- R488: some unit is unavailable. -/
def State.degraded (s : State) : Bool :=
  s.resets.unavailQuarter ≠ 0 || s.resets.unavailStack ≠ 0 || s.resets.unavailLnk ≠ 0

/-- R522, R577: every management pin as its drivers leave it. -/
def State.settlePins (s : State) : State :=
  let fuse := fun (i : Nat) (pp : Bool) =>
    if s.fuses.latched then Pin.fuse (bitsOf s.fuses.pinLatch.toNat (2 * i + 1) (2 * i)) pp else .hiZ
  let fw := decide (s.fw.state = .running ∧ s.resets.inReset = none ∧ s.power.power ≠ .ps4)
  let post := fun (low : Bool) (p : Pin) => if s.fuses.latched && low then Pin.low else p
  let awake := decide (s.power.power = .ps0 ∨ s.power.power = .ps1 ∨ s.power.power = .ps2)
  let tamper := s.resets.holds.any fun h => h.source = 8 && h.on
  { s with power := { s.power with
      wakeN := post s.power.wakeLow (fuse 0 false)
      alertN := if fw then (if s.aon.watchUnread ≠ 0 then .low else .hiZ) else fuse 1 false
      thermN := post s.watch.tripHeld (fuse 2 false)
      faultN := post (s.watch.supplyHeld || tamper) (fuse 3 false)
      modReady := if fw then (if awake then .high else .low) else fuse 4 true
      ledN := if fw then (if s.degraded ∨ s.locked then .low else .hiZ) else fuse 5 false } }

/-! ### What each reach clears, R506, R507, R532 -/

/-- R507: a session that a quarter's reset closes: what a removed party has released (R409) it no longer holds. -/
def Session.touches (x : Session) (q : Nat) : Bool :=
  x.dieList.contains q || ((List.range 16).any fun k => x.holds (x.channelOwner (16 * q + k))) ||
    ((List.range 64).any fun b => x.holds (x.bankOwner q b)) || (List.range 16).any fun w => x.holds (x.wayOwner q w)

/-- A session struck and closed at once, with every engine quiescent (R507 at Warm reach and wider). -/
def State.loseSession (s : State) (i : Nat) : State :=
  if (s.session i).isOpen then
    let s := s.onSession i fun x => { x with state := .closing, closing := some ⟨s.time.now, false, none⟩ }
    (s.strikeSession i).finishClose i
  else s

/-- The host port as a reset of Warm reach leaves it (R463, R532): its Cold counters and the host's memory stand. -/
def HostPort.warm (h : HostPort) : HostPort :=
  { HostPort.reset with
    powered := h.powered, linkDowns := if h.linkUp then satAdd h.linkDowns 1 else h.linkDowns, wrDrop := h.wrDrop,
    ideFail := h.ideFail, biSent := h.biSent, memory := h.memory, spdmNext := h.spdmNext }

/-- Domains that a Warm reset leaves running: AON, TIME and, reset only by TRST_N or Power-on, TAP (R502). -/
def warmKeeps : BitVec 18 := 0x28001

/-- A block's hold outlasts a reset of the whole module where its own source still asserts at Block reach (R512). -/
def Resets.keepsBlock (r : Resets) (e : BlockHold) : Bool :=
  decide (e.target = .tap) || r.holds.any fun h => h.target = .block e.target && h.holds

/-- The blocks a reset of the whole module leaves held; all of them have been reset with it. -/
def Resets.heldBlocks (r : Resets) : List BlockHold :=
  (r.blocks.filter r.keepsBlock).map fun (e : BlockHold) => if e.target = .tap then e else { e with done := true }

/-- The effect of Warm reach. -/
def State.warmReset (s : State) : State :=
  let s := (List.range 4).foldl State.loseSession s
  let r := s.resets
  { s with
    time := { s.time with bypassClosed := true }
    host := s.host.warm
    mailboxes := Vector.replicate 64 Mailbox.reset
    modulePend := []
    statusSeq := 0
    shown := none
    written := 0
    lc := { s.lc with challenge := none, running := none }
    resets := { r with
      released := r.released &&& warmKeeps, phase := 0, requested := [], blocks := r.heldBlocks, quarterSteps := [],
      unavailQuarter := 0, unavailStack := 0, unavailLnk := 0 }
    power := { s.power with
      power := if s.power.power = .ps4 then .ps4 else .ps0, waking := false, waking2 := false, waking3 := false,
      offDue := false }
    dies := Vector.replicate 4 Die.reset
    ports := Vector.replicate 18 Port.reset
    tallies := []
    adders := Vector.replicate 2 0
    perf := Perf.reset }

/-- The effect of Cold reach beyond Warm. -/
def State.coldReset (s : State) : State :=
  let r := s.resets
  { s with
    time := TimeBase.reset
    fw := Firmware.reset
    host := { s.host with linkDowns := 0, wrDrop := 0, ideFail := 0, biSent := 0 }
    lanes := BitVec.allOnes 64
    resets := { r with pll := r.pll &&& 0x20001, clockGood := r.clockGood &&& 0x20001, released := r.released &&& 0x20001 } }

/-- The effect of Power-on reach beyond Cold: AON is cleared, generations included, and the fuses are unread. The Watch Post
restarts (R532), so that it asserts no trip and no supply fault any longer. Assumption log 27 (DEDUCED). -/
def State.powerOnReset (s : State) : State :=
  let holds := s.resets.holds.map fun (h : Hold) => if h.source = 6 ∨ h.source = 7 then { h with on := false } else h
  { s.loseHbm with
    aon := { Aon.reset with running := s.aon.running, mgmtI3c := s.aon.mgmtI3c, mgmtAddr := s.aon.mgmtAddr }
    watch := Watch.reset
    slots := Vector.replicate 64 KeySlot.reset
    fuses := { s.fuses with latched := false, pinLatch := 0 }
    options := Options.reset
    lc := { s.lc with tapCapture := 0, tapPreset := 0, tapLanes := [] }
    resets := { s.resets with holds := holds, pll := 0, clockGood := 0x20000, released := 0, atP0 := false, starting := false } }

/-- Put the whole module in reset at a reach (R506, R512). -/
def State.enterReset (s : State) (r : Reach) : State :=
  let wider : Bool := match s.resets.inReset with | some q => decide (q.code < r.code) | none => true
  if wider then
    let s := s.warmReset
    let s := if 4 ≤ r.code then s.coldReset else s
    let s := if r = .powerOn then s.powerOnReset else s
    { s with resets := { s.resets with inReset := some r } }
  else s

/-! ### Assertion and deassertion of sources, R508 to R512 -/

/-- A source joins those asserted since the last start. -/
def noteSince (l : List (Nat × Reach)) (n : Nat) (r : Reach) : List (Nat × Reach) :=
  match l.find? (·.1 = n) with
  | some e => (n, e.2.wider r) :: l.filter fun e => e.1 ≠ n
  | none => (n, r) :: l

/-- Blocks of a Frame die. -/
def blockDie : BlockTarget → Option Nat
  | .pigeonhole d => some d
  | .countingBoard d => some d
  | .reckoner d => some d
  | .dma d => some d
  | _ => none

/-- The block lies in a quarter that is in reset. -/
def State.inQuarterReset (s : State) (b : BlockTarget) : Bool :=
  match blockDie b with
  | some d => (vget Die.reset s.dies d).inReset
  | none => false

/-- Ask a block to go idle (R513). A quarter in reset absorbs the Block reset of a block inside it (R512).
Assumption log 88 (DEDUCED). -/
def State.askIdle (s : State) (b : BlockTarget) : State :=
  if (s.resets.inReset.isSome ∧ b ≠ .tap) ∨ s.resets.blocks.any (·.target = b) ∨ s.inQuarterReset b then s
  else { s with resets := { s.resets with blocks := s.resets.blocks ++ [⟨b, s.time.now, false, false⟩] } }

/-- A source asserts at a reach over a target. Assumption log 88 (DEDUCED). -/
def State.assertAt (s : State) (n : Nat) (r : Reach) (t : ResetTarget) : State :=
  let h : Hold := ⟨n, r, t, true⟩
  let rest := s.resets.holds.filter fun k => !(k.source = n ∧ k.target = t)
  let since := if n < 14 then noteSince s.resets.since n r else s.resets.since
  let s := { s with resets := { s.resets with holds := rest ++ [h], since := since } }
  match t with
  | .module => (s.enterReset r).settlePins
  | .quarter _ => s
  | .block b => s.askIdle b

/-- A source asserts at the reach its fuse gives, over the quarter or block it names (R508 to R510).
Assumption log 27 (DEDUCED). -/
def State.assertSource (s : State) (n : Nat) (t : ResetTarget) : State :=
  let c := s.sourceReach n
  if 3 ≤ c then s.assertAt n (Reach.ofCode c) .module
  else if c = 2 then
    match t with
    | .quarter q => s.assertAt n .quarter (.quarter q)
    | _ => s.assertAt n .warm .module
  else
    match t with
    | .block b => s.assertAt n .block (.block b)
    | _ => s

/-- A source deasserts over what `f` picks. Assumption log 27 (DEDUCED). -/
def State.deassert (s : State) (n : Nat) (f : ResetTarget → Bool) : State :=
  let holds := s.resets.holds.map fun (h : Hold) => if h.source = n ∧ f h.target then { h with on := false } else h
  { s with resets := { s.resets with holds := holds } }

/-- A source is asserted. -/
def State.asserted (s : State) (n : Nat) : Bool := s.resets.holds.any fun h => h.source = n && h.on

/-! ### Blocks, R513 -/

/-- Descriptors whose flits a port still holds. -/
def Port.works (q : Port) : List (Nat × Nat) := (q.control ++ q.data ++ q.unacked.map (·.2)).filterMap (·.work)

/-- A descriptor in progress that a block works on. -/
def Session.blockOp (x : Session) (b : BlockTarget) (o : Op) : Bool :=
  let k := opClass o.code
  match b with
  | .farTier => o.code = opFarMove
  | .pigeonhole d => k = 2 && x.top + bitsAt o.desc 42 1 1 0 = d
  | .dma d => k = 2 && x.top + bitsAt o.desc 42 1 1 0 = d
  | .countingBoard d => (k = 3 || o.code = opNoise) && x.dieList.contains d
  | .reckoner d => o.code = opReckon && x.dieList.contains d
  | .sortingOffice _ => k = 5
  | .hostPort => o.stage = .launched && (o.code = opFarMove || o.code = opExport || o.code = opImport)
  | _ => false

/-- Work a block still holds: session and descriptor. A port holds a collective until its flits have left.
Assumption log 32 (DEDUCED). -/
def State.blockWork (s : State) (b : BlockTarget) : List (Nat × Op) :=
  ((List.range 4).map fun i =>
    ((s.session i).ops.filter fun o =>
      (o.stage ≠ .finished && (s.session i).blockOp b o) ||
        (match b with
         | .port p => (s.port p).bound && (s.port p).session.toNat = i && (s.port p).works.contains (o.ctx, o.seq)
         | _ => false)).map fun o => (i, o)).flatten

/-- The block holds no operation in progress and no queued transfer. -/
def State.blockIdle (s : State) (b : BlockTarget) : Bool :=
  (s.blockWork b).isEmpty &&
    (match b with
     | .port p => (s.port p).control.isEmpty && (s.port p).data.isEmpty && (s.port p).window.isEmpty && (s.port p).resend.isEmpty
     | .sortingOffice h => (List.range 4).all fun i => (s.session i).landing.all fun c => c.half ≠ h
     | .hostPort => (List.range 4).all fun i => (s.session i).ingests.isEmpty
     | _ => true)

/-- A port after a Block reset: its queues are empty and it retrains (R532). Assumption log 32 (DEDUCED). -/
def Port.restart (q : Port) : Port :=
  { q with state := if q.bound ∧ q.enable then .training else .disabled, lanes := 0, failedLanes := 0, window := [],
           resend := [], control := [], data := [], arrived := [], discarding := false, wire := [], owed := 0, granted := false }

/-- The host link goes down (R440, R451, R461). -/
def State.linkDown (s : State) : State :=
  if s.host.linkUp then
    { s with host := { s.host with linkUp := false, width := 0, rate := 0, linkDowns := satAdd s.host.linkDowns 1,
                                   filter := [], dirty := [] } }
  else s

/-- A block's logic, queues and on-die storage are reset (R506). Assumption log 32 (DEDUCED). -/
def State.clearBlock (s : State) (b : BlockTarget) : State :=
  match b with
  | .port p =>
    let q := s.port p
    ((s.dropResets p stIdleTimeout).neverAcked q.session.toNat (q.unacked.map (·.2) ++ q.data)).onPort p Port.restart
  | .pigeonhole d =>
    let q := vget Die.reset s.dies d
    let q := { q with phParty := none, phQueue := q.phQueue.filter fun r => (s.op? r).isSome }
    { s with dies := vset s.dies d q }
  | .countingBoard d =>
    let q := vget Die.reset s.dies d
    { s with dies := vset s.dies d { q with cbParty := none } }
  | .sortingOffice h => (List.range 4).foldl (fun s i => s.onSession i fun x =>
      { x with landing := x.landing.filter fun c => c.half ≠ h, inbound := x.inbound.filter fun e => e.2.half ≠ h }) s
  | .farTier => (List.range 4).foldl (fun s i => s.flush i (.far i)) s
  | .hostPort => ((List.range 4).foldl (fun s i => s.endIngests i (fun _ => true) stIdleTimeout) s).linkDown
  | .physicalFunction => { s with host := { s.host with d3 := vset s.host.d3 0 false } }
  | .tap => { s with lc := { s.lc with tapCapture := 0, tapPreset := 0, tapLanes := [] } }
  | _ => s

/-- A release may pass to a block: a Krelas port's waits for the clock-good of its Hub die (R504). -/
def State.blockClock (s : State) (b : BlockTarget) : Bool :=
  match b with
  | .port p => s.resets.clockGood.getLsbD (13 + p / 9)
  | _ => true

/-- Release a block that has been reset and that no source covers any longer; the release is logged (R512, R514).
Assumption log 88 (DEDUCED). -/
def State.releaseBlock (s : State) (b : BlockTarget) : State :=
  match s.resets.blocks.find? (·.target = b) with
  | some e =>
    let mine := s.resets.holds.filter fun h => h.target = .block b
    if e.done ∧ ¬ mine.any Hold.holds ∧ s.blockClock b then
      let l := (mine.filter fun h => h.source < 14).map fun h => (h.source, h.reach)
      let s := s.logReset l 1 e.timedOut (blockTargetCode b)
      { s with resets := { s.resets with
          blocks := s.resets.blocks.filter fun k => k.target ≠ b
          holds := s.resets.holds.filter fun h => h.target ≠ .block b } }
    else s
  | none => s

/-- Mark a block reset. -/
def State.markBlock (s : State) (b : BlockTarget) (late : Bool) : State :=
  let blocks := s.resets.blocks.map fun (e : BlockHold) => if e.target = b then { e with done := true, timedOut := late } else e
  { s with resets := { s.resets with blocks := blocks } }

/-! ### Starts and phases, R514, R516, R517 -/

/-- A domain's reset release may pass: clock-good is there, and no reset covers it. -/
def State.mayRelease (s : State) (d : Nat) : Bool :=
  let q := if 3 ≤ d ∧ d ≤ 6 then some (d - 3) else if 8 ≤ d ∧ d ≤ 11 then some (d - 8) else none
  s.resets.inReset.isNone && s.resets.clockGood.getLsbD d &&
    (match q with | some q => !(vget Die.reset s.dies q).inReset | none => true)

/-- Release a domain. -/
def State.releaseDomain (s : State) (d : Nat) : State :=
  if s.mayRelease d then { s with resets := { s.resets with released := setBit s.resets.released d } } else s

/-- A step has ended in this start. -/
def State.markStep (s : State) (key : Nat) (bad : Bool) : State :=
  { s with resets := { s.resets with
      stepsDone := key :: s.resets.stepsDone
      failed := if bad then key :: s.resets.failed else s.resets.failed } }

/-- R501: the steps a step depends on. -/
def stepNeeds (key : Nat) : List Nat :=
  if 0x30 ≤ key ∧ key < 0x34 then [0x13 + (key - 0x30), 0x18 + (key - 0x30)]
  else if 0x40 ≤ key ∧ key < 0x48 then [0x18 + (key - 0x40) / 2]
  else []

/-- R499: the unit that a failed step makes unavailable. Assumption log 34 (DEDUCED). -/
def State.loseUnit (s : State) (key : Nat) : State :=
  let quarter := fun (q : Nat) => { s with resets := { s.resets with unavailQuarter := setBit s.resets.unavailQuarter q } }
  if 0x13 ≤ key ∧ key ≤ 0x16 then quarter (key - 0x13)
  else if 0x18 ≤ key ∧ key ≤ 0x1B then quarter (key - 0x18)
  else if 0x30 ≤ key ∧ key ≤ 0x33 then quarter (key - 0x30)
  else if key = 0x1D ∨ key = 0x1E then
    { s with resets := { s.resets with unavailLnk := setBit s.resets.unavailLnk (key - 0x1D) } }
  else if 0x40 ≤ key ∧ key ≤ 0x47 then
    { s with resets := { s.resets with unavailStack := setBit s.resets.unavailStack (key - 0x40) } }
  else s

/-- R499: steps whose failure halts bring-up. -/
def haltsOn (key : Nat) : Bool :=
  key = 0x01 || [0x10, 0x11, 0x12, 0x17, 0x1C, 0x1F].contains key

/-- A clock domain whose clock-good is present at a phase's entry: its step ends at once. -/
def State.lockedStep (s : State) (elapsed : Nat) (key : Nat) : State :=
  if 0x10 ≤ key ∧ key < 0x22 ∧ s.resets.clockGood.getLsbD (key - 0x10) then
    ((s.ledgerWrite key (s.stepMethod key) oDone elapsed 0).markStep key false).releaseDomain (key - 0x10)
  else s

/-- R501: a step that depends on a failed one is skipped. A stack that is not trained is unavailable.
Assumption log 34 (DEDUCED). -/
def State.skipStep (s : State) (elapsed : Nat) (key : Nat) : State :=
  if (stepNeeds key).any s.resets.failed.contains then
    ((s.ledgerWrite key (s.stepMethod key) oSkipped elapsed 0).markStep key true).loseUnit key
  else s

/-- Enter a phase: PHASE shows it, and what it begins with is done. -/
def State.openPhase (s : State) (p elapsed : Nat) : State :=
  let r := s.resets
  let pll := if p = 1 then setBit r.pll 1 else if p = 3 then BitVec.allOnes 18 else r.pll
  let s := { s with resets := { r with phase := BitVec.ofNat 3 p, inPhase := p, phaseUs := elapsed, pll := pll } }
  let s := if p = 4 then { s with host := { s.host with powered := true } } else s
  (phaseSteps p).foldl (fun s k => (s.lockedStep elapsed k).skipStep elapsed k) s

/-- Every step of the phase in progress has ended. -/
def State.phaseEnded (s : State) : Bool := (phaseSteps s.resets.inPhase).all s.resets.stepsDone.contains

/-- The phase after the one in progress; the wake from PS3 runs no P4 (R529). -/
def State.nextPhase (s : State) : Nat := if s.power.waking3 ∧ s.resets.inPhase = 3 then 5 else s.resets.inPhase + 1

/-- Pass through the phases whose steps have all ended. -/
def State.settlePhase : Nat → State → Nat → State
  | 0, s, _ => s
  | fuel + 1, s, elapsed =>
    if s.resets.inPhase < 7 ∧ ¬ s.resets.halted ∧ s.phaseEnded then
      State.settlePhase fuel (s.openPhase s.nextPhase elapsed) elapsed
    else s

/-- R518: bring-up stops in its phase. -/
def State.halt (s : State) : State := { s with resets := { s.resets with halted := true } }

/-- A step of the start in progress ends: its entry, FALLBACK bit, and what its failure loses. -/
def State.endStep (s : State) (key : Nat) (method : Bool) (outcome elapsed : Nat) (detail : W32) : State :=
  let good := outcome = oDone
  let s := ((s.ledgerWrite key method outcome elapsed detail).settleFallback key method good).markStep key !good
  if good then s else if haltsOn key then s.halt else s.loseUnit key

/-- R514: count a start, and write CAUSE and PRIMARY. Assumption log 26 (DEDUCED). -/
def State.countStart (s : State) : State :=
  let l := s.resets.since
  { s with
    aon := { s.aon with startCount := satAdd s.aon.startCount 1, cause := causeBits (l.map (·.1)),
                        primary := BitVec.ofNat 4 (primaryOf l) }
    resets := { s.resets with since := [] } }

/-- P0 clears poste restante (R514, R516) and samples the straps of the management bus (R581); the endpoint ID goes where
the mode changes (R582). -/
def State.clearPoste (s : State) : State :=
  { s with
    aon := { Aon.reset with
      running := s.aon.running, mgmtI3c := s.power.modePin, mgmtAddr := s.power.addrPins
      eid := if s.aon.mgmtI3c = s.power.modePin then s.aon.eid else 0 } }

/-- P0 of a start of Power-on reach (R514, R516, R539, R569): poste restante is cleared, the count reads 1, the release is
logged, AON's clock is entered, and the supply fault source is asserted, so that bring-up waits in PS4. That assertion
belongs to this start and is no source of the next one's CAUSE. Assumption log 26 and 38 (DEDUCED). -/
def State.phase0 (s : State) : State :=
  let l := s.resets.since
  let s := (s.clearPoste.countStart).logReset l 5 false 0xFF
  let r := s.resets
  let s := { s with resets := { r with
      holds := r.holds.filter Hold.holds
      pll := setBit r.pll 0, clockGood := r.clockGood ||| 0x20001, released := r.released ||| 0x20001, atP0 := true,
      starting := true, inPhase := 0, phase := 0, stepsDone := [0x10], failed := [], halted := false,
      inReset := some .cold } }
  let s := s.ledgerWrite 0x10 false oDone 0 0
  let s := { s with watch := { s.watch with supplyHeld := true }, power := { s.power with power := .ps4 } }
  let s := ((s.logWatch 3 0xFF 0).assertSource 7 .module).settlePins
  { s with resets := { s.resets with since := [] } }

/-- Quarters that a reset still covers stay in reset (R512). -/
def State.keepQuarters (s : State) : State :=
  let dies := Vector.ofFn fun (d : Fin 4) =>
    let q := vget Die.reset s.dies d
    { q with inReset := s.resets.holds.any fun h => h.target = .quarter d.val && h.holds }
  { s with dies := dies }

/-- The start that a release of Warm reach or wider begins, or the rest of a Power-on start that waited after P0.
Assumption log 26 and 36 and 37 (DEDUCED). -/
def State.beginStart (s : State) (r : Reach) : State :=
  let resume := s.resets.atP0
  let own := if resume then 1 else if r = .warm then 3 else 1
  let p := if resume ∨ ¬ s.resets.starting ∨ 8 ≤ s.resets.inPhase then own else min own (max 1 s.resets.inPhase)
  let l := s.resets.since
  let s := if resume then s else (s.countStart).logReset l r.code false 0xFF
  let k := s.resets
  let s := { s with
    resets := { k with
      holds := k.holds.filter Hold.holds, inReset := none, blocks := k.heldBlocks, atP0 := false, starting := true,
      halted := false, stepsDone := [], failed := [],
      trainMethod := Vector.ofFn fun (n : Fin 12) => s.stepMethod (if n.val < 4 then 0x30 + n.val else 0x40 + (n.val - 4))
      hostMethod := s.stepMethod 0x50 }
    power := { s.power with power := Power.ps0, wakeLow := s.power.wakeLow || decide (s.power.power = Power.ps4), idleSince := s.time.now }
    fw := { s.fw with state := if s.fw.state = FwState.running then FwState.verifying else s.fw.state }
    lc := if r = Reach.warm then s.lc
      else { s.lc with attestGen := s.lc.attestGen + 1, attestKeys := s.lcState = 2 && !(s.lc.openRec.any fun n => markSet (s.lc.record n) 10) } }
  let s := s.keepQuarters
  let s := if p = 1 then s else s.releaseDomain 1
  ((s.openPhase p 0).settlePhase 8 0).settlePins

/-- RESET_RELEASE: every source of Warm reach or wider has deasserted, and the supply is there (R504, R512, R514, R569).
Assumption log 26 (DEDUCED). -/
def execResetRelease (s : State) : Out :=
  .next <|
    match s.resets.inReset with
    | some r =>
      if s.aon.running ∧ s.power.sb12 ∧ ¬ (s.resets.holds.any fun h => h.target = .module && h.holds) then
        if r = .powerOn ∧ ¬ s.resets.atP0 then s.phase0
        else if s.power.powerGood then s.beginStart r
        else s
      else s
    | none => s

end Sys2Proof.Machine
end

