-- ==== Sys2Proof/Machine/LifeCycle.lean ====
section
/-! DEFINITION. Life-cycle states: the transition engine (R421, R425 to R432), the challenge and the token (R433 to R435),
resumption (R430), and the test access port (R422, R436). -/

namespace Sys2Proof.Machine

/-- State code of a TARGET value; none for a torn one. -/
def targetState (t : Nat) : Option Nat :=
  if t = 0x0F then some 1 else if t = 0x33 then some 2 else if t = 0x55 then some 3 else if t = 0xF0 then some 4 else none

/-- TARGET value of a state code. -/
def stateTarget (c : Nat) : Nat := if c = 1 then 0x0F else if c = 2 then 0x33 else if c = 3 then 0x55 else 0xF0

/-- The codeword of a state code. -/
def codewordOf (c : Nat) : W64 := BitVec.ofNat 64 (2 ^ (16 * c) - 1)

/-- R430: the highest valid codeword that a codeword contains. -/
def codewordSource (w : W64) : Nat := ((List.range 5).reverse.find? fun c => w &&& codewordOf c = codewordOf c).getD 0

/-- Lower bit of each mark of R426. -/
def mkAuth : Nat := 8
def mkKeys : Nat := 10
def mkSram : Nat := 12
def mkFlash : Nat := 14
def mkSecrets : Nat := 16
def mkIdent : Nat := 18
def mkCodeword : Nat := 20
def mkClosed : Nat := 22

/-- R427: the steps of a transition, in order. A codeword that already holds its target has only to be marked and closed. -/
def lcSteps (source target : Nat) : List Nat :=
  match source, target with
  | 0, 1 => [mkCodeword, mkClosed]
  | 1, 2 => [mkAuth, mkIdent, mkCodeword, mkClosed]
  | 1, 4 => [mkAuth, mkKeys, mkSram, mkSecrets, mkCodeword, mkClosed]
  | 2, 3 => [mkAuth, mkKeys, mkSram, mkFlash, mkSecrets, mkCodeword, mkClosed]
  | 2, 4 => [mkAuth, mkKeys, mkSram, mkFlash, mkSecrets, mkCodeword, mkClosed]
  | 3, 4 => [mkAuth, mkCodeword, mkClosed]
  | _, _ => [mkCodeword, mkClosed]

/-- R421: transitions that require a token. -/
def tokenRow (source target : Nat) : Bool :=
  (source = 1 && target = 2) || (source = 1 && target = 4) || (source = 2 && target = 3) || (source = 2 && target = 4) ||
    (source = 3 && target = 4)

/-- Both bits of a mark. -/
def withMark (r : W32) (k : Nat) : W32 := setBit (setBit r k) (k + 1)

def LifeCycle.mark (l : LifeCycle) (n k : Nat) : LifeCycle :=
  { l with records := vset l.records n (withMark (l.record n) k) }

/-- The first step of a record whose mark is not set. -/
def LifeCycle.nextMark (l : LifeCycle) (n : Nat) : Option Nat :=
  (targetState (recTarget (l.record n))).bind fun t =>
    (lcSteps (codewordSource l.codeword) t).find? fun k => !markSet (l.record n) k

/-- Open a record for a target, with the DEBUG_SCOPE stored beside it: the lowest-numbered one whose bits are all zero.
Assumption log 37 (DEDUCED). -/
def LifeCycle.openFor (l : LifeCycle) (target : Nat) (auth : Bool) (scope : W32) : LifeCycle :=
  match (List.range 8).find? fun n => l.record n = 0 with
  | some n =>
    let l := { l with
      records := vset l.records n (BitVec.ofNat 32 (stateTarget target)), scopes := vset l.scopes n scope, running := some n }
    if auth then l.mark n mkAuth else l
  | none => l

/-- R432: what a wipe step destroys. Assumption log 37 (DEDUCED). -/
def State.wipe (s : State) (k : Nat) : State :=
  if k = mkKeys then
    let slots := s.slots.map fun (q : KeySlot) => { q with key := [], gen := satAdd q.gen 1 }
    let s := (List.range 4).foldl State.keepStored s
    { s with slots := slots, lc := { s.lc with attestKeys := false }, host := { s.host with spdm := [], spdmPending := [] } }
  else if k = mkSram then
    { s with
      dies := s.dies.map fun (d : Die) => { Die.reset with inReset := d.inReset, readying := d.readying }
      aon := { s.aon with resetLog := [], watchLog := [], watchUnread := 0, retained := [],
                          fwBackup := Vector.replicate 8 0, hostBackup := Vector.replicate 8 0 } }
  else if k = mkFlash then { s with fuses := { s.fuses with sector0 := [], sector1 := [] } }
  else if k = mkSecrets then { s with lc := { s.lc with secretBurned := true } }
  else if k = mkIdent then
    { s with lc := { s.lc with identityDerived := true }, fuses := { s.fuses with vendorLocked := true } }
  else s

/-- The facilities that R436 opens, by their DEBUG_SCOPE bit. -/
inductive Facility where
  | tap | coreDebug | vendorTest
  deriving DecidableEq, Repr

def Facility.bit : Facility → Nat
  | .tap => 0
  | .coreDebug => 1
  | .vendorTest => 2

/-- R435, R436: the DEBUG_SCOPE of the token whose record reached Analysis. Assumption log 37 (DEDUCED). -/
def LifeCycle.debugScope (l : LifeCycle) : W32 :=
  ((List.range 8).find? fun n => recTarget (l.record n) = 0x55 && markSet (l.record n) mkCodeword).elim 0 (vget 0 l.scopes)

/-- R422, R436: a facility is open in Test, and in Analysis as the token's DEBUG_SCOPE allows. -/
def State.facilityOpen (s : State) (f : Facility) : Bool :=
  s.lcState = 1 || (s.lcState = 3 && s.lc.debugScope.getLsbD f.bit)

/-- R422, R433: the identity key, with which challenge responses are signed: there from Test on and until Analysis or End of
Life, and no longer once the device secret is burned. -/
def State.identityKey (s : State) : Bool := (s.lcState = 1 || s.lcState = 2) && !s.lc.secretBurned

/-- R428: a step of an open record ends: its effect, then its mark.
Assumption log 11 (DESIGN CHOICE), 37 (DEDUCED). -/
def State.lcStep (s : State) (n k : Nat) : State :=
  let t := (targetState (recTarget (s.lc.record n))).getD 0
  if k = mkCodeword then
    { s with lc := ({ s.lc with codeword := s.lc.codeword ||| codewordOf t } : LifeCycle).mark n k }
  else if k = mkClosed then
    let s := { s with lc := ({ s.lc with challenge := none, running := none } : LifeCycle).mark n k }
    s.assertSource 9 .module
  else
    let s := s.wipe k
    { s with lc := s.lc.mark n k }

/-- The SEC domain runs (R432, R525). -/
def State.secRuns (s : State) : Bool := s.resets.inReset.isNone && s.resets.released.getLsbD 1

/-- TRANSITION_STEP_DONE. -/
def execTransitionStepDone (s : State) : Out :=
  .next <|
    match s.lc.running with
    | some n =>
      if s.secRuns then
        match s.lc.nextMark n with
        | some k => (s.lcStep n k).settlePins
        | none => s
      else s
    | none => s

/-- R430: the life-cycle step of bring-up: an open record is abandoned or resumed. Assumption log 37 (DEDUCED). -/
def State.lcResume (s : State) (elapsed : Nat) : State :=
  match s.lc.openRec with
  | none => (s.ledgerWrite 0x60 false oDone elapsed 0).markStep 0x60 false
  | some n =>
    let r := s.lc.record n
    let need := match targetState (recTarget r) with
      | some t => (lcSteps (codewordSource s.lc.codeword) t).contains mkAuth && !markSet r mkAuth
      | none => true
    if need then
      let s := { s with lc := s.lc.mark n mkClosed }
      (s.ledgerWrite 0x60 false oAbandoned elapsed (BitVec.ofNat 32 n)).markStep 0x60 false
    else
      let s := { s with lc := { s.lc with running := some n } }
      s.ledgerWrite 0x60 false oResumed elapsed (BitVec.ofNat 32 n)

/-! ### Commands -/

/-- The module serial number. -/
def serialBytes : Bytes := (List.range 16).map Config.serial

/-- The LC_STATUS response (R479). -/
def State.lcStatusBytes (s : State) : Bytes :=
  le 1 s.lcState ++ le 1 s.lc.free ++ zeros 2 ++
    (match s.lc.openRec with | some n => w32 (s.lc.record n) | none => zeros 4)

/-- LC_STATUS. -/
def execLcStatus (mb : Nat) (s : State) : Out :=
  .next <| s.serve mb 0x0032 .boot .work anyBody fun s r =>
    if ¬ bodyForm r.body 0 [] then (s, Resp.of stRefused) else (s, Resp.ok s.lcStatusBytes)

/-- Bytes 0 to 103 of a challenge response (R433). -/
def State.challengeHead (s : State) (c : Bytes) : Bytes :=
  ascii "LSVLCCH1" ++ le 1 s.lcState ++ le 1 s.lc.free ++ zeros 2 ++ w32 s.fuses.rootRev ++ serialBytes ++ c ++ zeros 8

/-- LC_CHALLENGE. Assumption log 11 (DESIGN CHOICE). -/
def execLcChallenge (mb : Nat) (s : State) : Out :=
  .next <| s.serve mb 0x0030 .boot .work anyBody fun s r =>
    if ¬ bodyForm r.body 0 [] then (s, Resp.of stRefused)
    else
      let (c, s) := s.random 64
      let h := s.challengeHead c
      let (salt, s) := s.random 64
      let sig := if s.identityKey then Crypto.pssSign Config.identityModulus Config.identityExponent h salt else zeros 512
      ({ s with lc := { s.lc with challenge := some (c, s.time.now) } }, Resp.ok (h ++ sig))

/-- CHALLENGE_EXPIRY: 3,600 s after the challenge was drawn. -/
def execChallengeExpiry (s : State) : Out :=
  .next <|
    match s.lc.challenge with
    | some (_, t) =>
      if t.toNat + ns 3600000000000 ≤ s.now then { s with lc := { s.lc with challenge := none } } else s
    | none => s

/-- SHA-512 of the life-cycle key fused for a revision. -/
def lifeCycleKey (rev : W32) : Bytes := (List.range 64).map (Config.lifeCycleKeyDigest rev.toNat)

/-- R435: the checks of a token, in order. -/
def State.tokenCheck (s : State) (t : Bytes) : Status :=
  let dst := (u8 t 11).toNat
  let scope := u32 t 12
  if t.length ≠ 1136 ∨ slice t 0 8 ≠ ascii "LSVLCTK1" ∨ fieldAt t 8 2 ≠ 1 ∨ ¬ zeroRange t 100 12 ∨
      ¬ (if dst = 3 then scope.toNat < 8 else scope.toNat = 0) then stRefused
  else if (u8 t 10).toNat ≠ s.lcState ∨ ¬ tokenRow s.lcState dst then stRefused
  else if slice t 16 16 ≠ serialBytes then stRefused
  else if s.lc.challenge.map (·.1) ≠ some (slice t 32 64) then stRefused
  else if u32 t 96 ≠ s.fuses.rootRev then stRefused
  else if Crypto.sha512 (slice t 112 512) ≠ lifeCycleKey s.fuses.rootRev then stBadSignature
  else if ¬ Crypto.pssVerify (slice t 112 512) (slice t 0 624) (slice t 624 512) then stBadSignature
  else stOk

/-- LC_TRANSITION's effect (R425, R435, R477). A token that is submitted erases the challenge, whatever comes of it
(R433). Assumption log 37 (DEDUCED). -/
def State.requestTransition (s : State) (r : Req) : State × Option Resp :=
  let key := r.body
  if s.isRepeat r key then (s, Resp.of stPending)
  else
    let st := if ((List.range 4).any fun i => (s.session i).isOpen) ∨ s.lc.openRec.isSome ∨ s.lc.challenge.isNone then stRefused
      else if s.lc.free = 0 then stNoResource
      else s.tokenCheck r.body
    let s := { s with lc := { s.lc with challenge := none } }
    if st ≠ stOk then (s, Resp.of st)
    else
      let (e, s) := s.entryFor r key
      match pendAdd (s.pendOf r) e with
      | none => (s, Resp.of stNoResource)
      | some l =>
        (({ s with lc := s.lc.openFor (u8 r.body 11).toNat true (u32 r.body 12) } : State).setPend r l, Resp.of stPending)

/-- LC_TRANSITION. -/
def execLcTransition (mb : Nat) (s : State) : Out :=
  .next (s.serve mb 0x0031 .boot .work anyBody State.requestTransition)

/-! ### Test access port -/

/-- The TAP controller is out of reset. -/
def State.tapRuns (s : State) : Bool := s.power.trst && s.resets.released.getLsbD 17

/-- TEST_ENTRY_INSTRUCTION: a Blank module opens a record for Test, with no token. -/
def execTestEntryInstruction (s : State) : Out :=
  .next <|
    if s.tapRuns ∧ s.secRuns ∧ s.lcState = 0 ∧ s.lc.openRec.isNone then { s with lc := s.lc.openFor 1 false 0 } else s

/-- SAMPLE_PRELOAD: open in Test, in Production for the sideband and management pins alone, and in Analysis as the
token's DEBUG_SCOPE allows. -/
def execSamplePreload (pinLevels : BitVec 16) (laneLevels : Bytes) (preset : BitVec 16) (s : State) : Out :=
  .next <|
    if s.tapRuns ∧ (s.lcState = 2 ∨ s.facilityOpen .tap) then
      { s with lc := { s.lc with tapCapture := pinLevels, tapPreset := preset,
                                 tapLanes := if s.lcState = 2 then zeros laneLevels.length else laneLevels } }
    else s

end Sys2Proof.Machine
end

