-- ==== Sys2Proof/Machine/Sources.lean ====
section
/-! DEFINITION. What asserts and releases resets: supplies and pins (R510, R511, R565 to R571), host-side resets (R463,
R464), watchdog, tamper, quarter faults and clock loss (R505, R508), and Block and Quarter resets themselves (R507, R513,
R519). -/

namespace Sys2Proof.Machine

/-! ### Supplies, R539, R563, R566 to R568 -/

/-- The voltage of the absolute maximum ratings (R563), in millivolts. Assumption log 82 (DESIGN CHOICE). -/
def maxIn48 : Nat := 65000

/-- A source asserts when its detector runs. -/
def State.whenAwake (s : State) (f : State → State) : State := if s.aon.running then f s else s

/-- The operating range of SB12 (R564), in millivolts. Assumption log 82 (DESIGN CHOICE). -/
def standbyRange (mV : Nat) : Bool := decide (11400 ≤ mV ∧ mV ≤ 12600)

/-- The rating of SB12 (R563), in millivolts. Assumption log 82 (DESIGN CHOICE). -/
def maxSb12 : Nat := 14000

/-- STANDBY_POWER_GOOD: SB12 enters its range, AON starts, the sources whose pins stand asserted assert, and P0 runs, which
samples the straps. Assumption log 25 (DEDUCED). -/
def execStandbyPowerGood (grounded : Bool) (addr : BitVec 2) (s : State) : Out :=
  .next <|
    if s.aon.running then s
    else
      let s := { s with
        power := { s.power with sb12 := true, sb12Ms := 0, modePin := grounded, addrPins := addr }
        aon := { s.aon with running := true } }
      let s := s.deassert 0 fun _ => true
      let s := if s.power.powerGood then s else s.assertSource 0 .module
      let s := if s.power.perst then s else s.assertSource 1 .module
      let s := if s.power.sysReset then s else s.assertSource 2 .module
      let s := if s.power.trst then s else (s.assertSource 13 (.block .tap)).markBlock .tap false
      s.phase0

/-- Everything lost with standby power (R510, R571): a Power-on reset reported as source 0.
Assumption log 29 (DEDUCED). -/
def State.loseStandby (s : State) : State :=
  let s := { s with aon := { s.aon with running := false } }
  let s := if s.resets.inReset = some .powerOn then s.powerOnReset else s
  let s := s.assertAt 0 .powerOn .module
  { s with
    resets := { s.resets with holds := [⟨0, .powerOn, .module, true⟩], since := [(0, .powerOn)], blocks := [] }
    power := { s.power with power := .ps4, powerGood := false, converters := false, wakeLow := false }
    host := { s.host with powered := false } }

/-- SB12 has left its range: IN48 has no effect, and the time in range begins anew (R566). -/
def State.standbyOut (s : State) : State := { s with power := { s.power with sb12 := false, sb12Ms := 0 } }

/-- SB12_LOSS. -/
def execSb12Loss (s : State) : Out := .next s.standbyOut.loseStandby.settlePins

/-- R566, R568: the converters start once SB12 has been in range for 20 ms and IN48 is in range.
Assumption log 82 (DESIGN CHOICE). -/
def State.softStart (s : State) : State :=
  if s.power.sb12 ∧ 20 ≤ s.power.sb12Ms ∧ 40000 ≤ s.power.in48 ∧ s.power.in48 ≤ 60000 then
    { s with power := { s.power with converters := true } }
  else s

/-- IN48_RISE: once SB12 has been good for 20 ms, the converters soft-start. Assumption log 82 (DESIGN CHOICE). -/
def execIn48Rise (mV : Nat) (s : State) : Out :=
  if maxIn48 < mV then .refused .beyondRatings
  else .next ({ s with power := { s.power with in48 := mV } } : State).softStart

/-- Module power-good goes; the converters stop, and source 0 asserts (R508, R567). -/
def State.losePowerGood (s : State) : State :=
  let s := { s with power := { s.power with powerGood := false, converters := false } }
  s.whenAwake fun s => if s.asserted 0 then s else s.assertSource 0 .module

/-- MODULE_POWER_GOOD: the input monitor's verdict on SB12 and on IN48, which has stood at a voltage for a time (R567). SB12
that is out of its range, though not lost, takes power-good away. Assumption log 82 (DESIGN CHOICE). -/
def execModulePowerGood (inputs : Inputs) (heldUs : Nat) (s : State) : Out :=
  if maxIn48 < inputs.in48mV ∨ maxSb12 < inputs.sb12mV then .refused .beyondRatings
  else
    .next <|
      let s := { s with power := { s.power with in48 := inputs.in48mV } }
      if ¬ s.aon.running then s
      else if ¬ standbyRange inputs.sb12mV then s.standbyOut.losePowerGood
      else
      let s := { s with power := { s.power with sb12 := true } }
      if 40000 ≤ inputs.in48mV ∧ 10000 ≤ heldUs then
        ({ s with power := { s.power with powerGood := true } } : State).deassert 0 fun _ => true
      else if inputs.in48mV < 36000 ∧ 20 ≤ heldUs then
        s.losePowerGood
      else s

/-! ### Reset pins, R511 -/

/-- PERST_N. -/
def execPerstN (level : Bool) (widthNs : Nat) (s : State) : Out :=
  .next <|
    if level then ({ s with power := { s.power with perst := true } } : State).deassert 1 fun _ => true
    else if widthNs < 1000 then s
    else ({ s with power := { s.power with perst := false } } : State).whenAwake fun s => s.assertSource 1 .module

/-- SYS_RESET_N. -/
def execSysResetN (level : Bool) (widthNs : Nat) (s : State) : Out :=
  .next <|
    if level then ({ s with power := { s.power with sysReset := true } } : State).deassert 2 fun _ => true
    else if widthNs < 1000 then s
    else ({ s with power := { s.power with sysReset := false } } : State).whenAwake fun s => s.assertSource 2 .module

/-- TRST_N: the TAP controller holds no work, and is reset at once. Assumption log 29 (DEDUCED). -/
def execTrstN (level : Bool) (widthNs : Nat) (s : State) : Out :=
  .next <|
    if level then
      (({ s with power := { s.power with trst := true } } : State).deassert 13 fun _ => true).releaseBlock .tap
    else if widthNs < 1000 then s
    else
      ({ s with power := { s.power with trst := false } } : State).whenAwake fun s =>
        ((s.assertSource 13 (.block .tap)).clearBlock .tap).markBlock .tap false

/-! ### Host-side resets, R463, R464 -/

/-- A source that cannot assert in PS4 (R530), nor where its detector is unpowered. -/
def State.coreAwake (s : State) : Bool := s.aon.running && s.power.power ≠ .ps4

/-- CXL_HOT_RESET. -/
def execCxlHotReset (assert : Bool) (s : State) : Out :=
  .next <|
    if assert then (if s.coreAwake ∧ s.host.powered then s.assertSource 3 (.block .hostPort) else s)
    else (s.deassert 3 fun _ => true).releaseBlock .hostPort

/-- An FLR of the physical function is in progress, or the module is in reset. -/
def State.flrRuns (s : State) : Bool := s.resets.inReset.isSome || s.resets.blocks.any (·.target = .physicalFunction)

/-- A session close accepted without a command. -/
def State.closeQuietly (s : State) (i : Nat) : State :=
  if (s.session i).isOpen ∧ (s.session i).state ≠ .closing then s.acceptClose i none else s

/-- CXL_FUNCTION_LEVEL_RESET. -/
def execCxlFunctionLevelReset (s : State) : Out :=
  .next <|
    if s.coreAwake ∧ s.resets.inReset.isNone then
      let s := (List.range 4).foldl State.closeQuietly s
      let s := { s with host := { (List.range 5).foldl HostPort.resetFn s.host with vfEnable := false, numVfs := 0 } }
      s.assertSource 4 (.block .physicalFunction)
    else s

/-- VF_FLR: a close of the session that names the function, whose registers are reset when the close completes, or at once
where no session names it. -/
def execVfFlr (vf : Nat) (s : State) : Out :=
  .next <|
    if s.flrRuns then s
    else
      match (List.range 4).filter fun i => (s.session i).isOpen ∧ (s.session i).vf = vf with
      | [] => { s with host := s.host.resetFn vf }
      | l => l.foldl State.closeQuietly s

/-! ### Faults inside the module -/

/-- CONTROL_WATCHDOG: command cores 0 to 3 have a quarter; the boot-and-security core (4) and the management core (5) have
none (R510). -/
def execControlWatchdog (core : Nat) (s : State) : Out :=
  .next <|
    if s.coreAwake ∧ s.resets.inReset.isNone then
      s.assertSource 5 (if core < 4 then .quarter core else .module)
    else s

/-- TAMPER. -/
def execTamper (assert : Bool) (s : State) : Out :=
  .next <|
    if assert then (s.whenAwake fun s => s.assertSource 8 .module).settlePins
    else (s.deassert 8 fun _ => true).settlePins

/-- Which quarters' fault sources stand asserted. Assumption log 30 (DEDUCED). -/
def State.setFaults (s : State) (f : BitVec 4) : State := { s with resets := { s.resets with faults := f } }

/-- The quarter fault source asserts for a quarter. Assumption log 30 (DEDUCED). -/
def State.faultQuarter (s : State) (q : Nat) : State :=
  (s.setFaults (setBit s.resets.faults q)).assertSource 11 (.quarter q)

/-- QUARTER_FAULT. Assumption log 30 (DEDUCED). -/
def execQuarterFault (q : Nat) (assert : Bool) (s : State) : Out :=
  .next <|
    if assert then (if s.coreAwake then s.faultQuarter q else s)
    else
      let s := s.setFaults (clrBit s.resets.faults q)
      s.deassert 11 fun t => t = .quarter q || (t = .module && s.resets.faults = 0)

/-- FIRMWARE_REQUEST_ASSERT: 100 µs after RESET_REQUEST completed. -/
def execFirmwareRequestAssert (s : State) : Out :=
  .next <|
    match s.resets.requested with
    | (r, t, due) :: rest =>
      if due.toNat ≤ s.now ∧ s.coreAwake then
        ({ s with resets := { s.resets with requested := rest } } : State).assertAt 10 r t
      else s
    | [] => s

/-- The thermal trip or the supply fault asserts, and the module enters PS4 (R525). -/
def State.tripSource (s : State) (n : Nat) : State :=
  let s := (s.assertSource n .module).loseHbm
  { s with power := { s.power with power := .ps4, offDue := false }, host := { s.host with powered := false } }

/-- CLOCK_GOOD_LOSS of a released domain (R502, R505): the domain whose loss is a reset stops; HOST's loss takes the link
down, and MGMT's or TAP's is logged, with no reset; TAP's clock-good stands all the same (R503).
Assumption log 29 and 38 (DEDUCED). -/
def execClockGoodLoss (d : Nat) (s : State) : Out :=
  .next <|
    if s.resets.clockGood.getLsbD d ∧ s.resets.released.getLsbD d ∧ s.aon.running then
      let s := if d = 17 then s else { s with resets := { s.resets with clockGood := clrBit s.resets.clockGood d } }
      let stop := fun (s : State) => { s with resets := { s.resets with released := clrBit s.resets.released d } }
      if d = 0 then (stop s).loseStandby.settlePins
      else if 3 ≤ d ∧ d ≤ 6 then (stop s).faultQuarter (d - 3)
      else if 8 ≤ d ∧ d ≤ 11 then (stop s).faultQuarter (d - 8)
      else if d = 12 then s.linkDown
      else if d = 13 ∨ d = 14 then
        (List.range 9).foldl (fun s k => s.assertAt 14 .block (.block (.port (9 * (d - 13) + k)))) (stop s)
      else if d = 16 ∨ d = 17 then s.logReset [] 0 false 0xFF
      else
        let s := stop { s with watch := { s.watch with supplyHeld := true, supplyMs := 0 } }
        (s.logWatch 3 0xFF 0).tripSource 7
    else s

/-! ### Quarter resets, R507, R519 -/

/-- R472: requests of a session in service by a core that stops read DONE with ST_NOT_READY; a session close goes on.
Assumption log 31 and 87 (DEDUCED). -/
def State.stopServing (s : State) (i : Nat) : State :=
  (List.range 64).foldl (fun s n =>
    if mbSession n = i ∧ (s.mailbox n).state = .serving ∧ fieldAt (s.mailbox n).request 0 2 ≠ 0x0101 then
      s.done n stNotReady 0 [] else s) s

/-- R507: a session that touches the quarter is struck at once and closes; the quarter's engine counts as quiescent. -/
def State.strikeTouching (s : State) (q i : Nat) : State :=
  let x := s.session i
  if x.isOpen ∧ x.touches q then
    let s := s.stopServing i
    let s := s.closeQuietly i
    let struck := match (s.session i).closing with | some c => c.struck | none => false
    let s := if struck then s else s.strikeSession i
    let gone := (s.session i).ops.filter fun o => (s.session i).blockOp (.pigeonhole q) o || o.isArray || opClass o.code = 3 ||
      opClass o.code = 4
    let s := if x.dieList = [q] then gone.foldl (fun s o => s.completeOp i o stRevoked) s else s
    (s.onSession i fun x => { x with quiesce := x.quiesce.filter (· ≠ Engine.onDie q) }).quiesced i
  else s

/-- The logic and storage of a quarter are reset. -/
def State.clearQuarter (s : State) (q : Nat) : State :=
  let r := s.resets
  { s with
    dies := vset s.dies q { Die.reset with inReset := true }
    resets := { r with
      released := clrBit (clrBit r.released (3 + q)) (8 + q)
      blocks := r.blocks.filter fun e => blockDie e.target ≠ some q
      quarterSteps := r.quarterSteps.filter fun k => k ≠ 0x30 + q ∧ k ≠ 0x40 + 2 * q ∧ k ≠ 0x41 + 2 * q }
    perf := { s.perf with
      counters := s.perf.counters.filter fun e => e.1 / 64 ≠ q
      slots := vset s.perf.slots q (Vector.replicate 16 0) } }

/-- The quarters are powered (R531). -/
def State.quartersPowered (s : State) : Bool := s.power.power = .ps0 || s.power.power = .ps1

/-- QUARTER_RESET. Assumption log 30 and 31 (DEDUCED). -/
def execQuarterReset (q : Nat) (s : State) : Out :=
  .next <|
    if (s.resets.holds.any fun h => h.target = .quarter q) ∧ ¬ (vget Die.reset s.dies q).inReset ∧
        s.resets.inReset.isNone ∧ s.quartersPowered then
      ((List.range 4).foldl (fun s i => s.strikeTouching q i) s).clearQuarter q
    else s

/-- The target is a quarter, or a block inside it whose reset the quarter's absorbs (R512).
Assumption log 88 (DEDUCED). -/
def ResetTarget.inQuarter (t : ResetTarget) (q : Nat) : Bool :=
  match t with
  | .quarter k => k = q
  | .block b => blockDie b = some q
  | .module => false

/-- QUARTER_RESET_RELEASE: the quarter is repaired and trained again by the method of the last start.
Assumption log 30 (DEDUCED). -/
def execQuarterResetRelease (q : Nat) (s : State) : Out :=
  .next <|
    let mine := s.resets.holds.filter fun h => h.target.inQuarter q
    if (vget Die.reset s.dies q).inReset ∧ ¬ mine.any Hold.holds ∧ s.resets.inReset.isNone ∧ s.quartersPowered then
      let s := s.logReset (mine.map fun h => (h.source, h.reach)) 2 false q
      let d := { vget Die.reset s.dies q with inReset := false, readying := true }
      let s := { s with
        dies := vset s.dies q d
        resets := { s.resets with
          holds := s.resets.holds.filter fun h => !h.target.inQuarter q
          quarterSteps := s.resets.quarterSteps ++ [0x30 + q, 0x40 + 2 * q, 0x41 + 2 * q] } }
      (s.releaseDomain (3 + q)).releaseDomain (8 + q)
    else s

/-! ### Block resets, R513 -/

/-- The block is powered (R531). -/
def State.blockPowered (s : State) (b : BlockTarget) : Bool :=
  match b with
  | .tap => true
  | .hostPort | .physicalFunction => s.power.power ≠ .ps4
  | _ => s.power.power = .ps0 || s.power.power = .ps1

/-- BLOCK_RESET: a block asked to go idle is idle, or its IDLE_TIMEOUT has expired. -/
def execBlockReset (b : BlockTarget) (s : State) : Out :=
  .next <|
    match s.resets.blocks.find? (·.target = b) with
    | some e =>
      if ¬ e.done ∧ s.resets.inReset.isNone ∧ s.blockPowered b ∧
          (s.blockIdle b ∨ e.since.toNat + ns (1000 * s.options.idleTimeout.toNat) ≤ s.now) then
        let late := !s.blockIdle b
        let s := (s.blockWork b).foldl (fun s w => s.completeOp w.1 w.2 stIdleTimeout) s
        ((s.clearBlock b).markBlock b late).releaseBlock b
      else s
    | none => s

/-- RESET_FLIT: a verified RESET flit with TARGET 0 asserts the Krelas in-band reset source (R250). -/
def execResetFlit (p : Nat) (b : Bytes) (s : State) : Out :=
  .next <|
    match s.takeTyped p 5 b with
    | (s, some f) => if u8 f.flit.payload 0 = 0 then s.assertSource 12 (.block (.port p)) else s
    | (s, none) => s

end Sys2Proof.Machine
end

