-- ==== Sys2Proof/Machine/Watch.lean ====
section
/-! DEFINITION. The Watch Post: sampling and filtering (R533, R534), levels (R535, R536), trips and supply faults (R538,
R539), and its log and record (R540, R541). -/

namespace Sys2Proof.Machine

/-- The median of five samples. -/
def medianOf (l : List Int) : Int := (l.insertionSort (· ≤ ·)).getD 2 0

/-- R534: a sensor's filter after a new median. -/
def filterStep (shift : Nat) (y m : Int) : Int := y + (m - y) / (2 ^ shift : Nat)

/-- A sensor's window of five, newest first, after a sample. -/
def pushSample (w : List Int) (x : Int) : List Int := (x :: w).take 5

/-- R533: sensor 62 is the product of sensors 51 and 52, in whole watts: their units are 1/64 V and 1/16 A.
Assumption log 38 (DEDUCED). -/
def withPower (l : List Int) : List Int := l.set 62 (l.getD 51 0 * l.getD 52 0 / 1024)

/-- Take a set of samples into the windows, and the medians and filtered values of those that hold five. -/
def Watch.take (w : Watch) (shift : Nat) (l : List Int) : Watch :=
  let windows := Vector.ofFn fun (i : Fin 64) => pushSample (vget [] w.windows i) (l.getD i 0)
  let full := fun (i : Nat) => decide ((vget [] windows i).length = 5)
  let first := fun (i : Nat) => decide ((vget [] w.windows i).length < 5)
  let median := Vector.ofFn fun (i : Fin 64) => if full i then medianOf (vget [] windows i) else vget 0 w.median i
  let filtered := Vector.ofFn fun (i : Fin 64) =>
    if ¬ full i then vget 0 w.filtered i
    else if first i then vget 0 median i
    else filterStep shift (vget 0 w.filtered i) (vget 0 median i)
  { w with windows := windows, median := median, filtered := filtered }

/-- Five samples exist. -/
def Watch.ready (w : Watch) : Bool := (vget [] w.windows 0).length = 5

def Watch.med (w : Watch) (i : Nat) : Int := vget 0 w.median i
def Watch.fil (w : Watch) (i : Nat) : Int := vget 0 w.filtered i

/-- A level after a millisecond in which its reading is at or above the upper point, or below the lower one. -/
def stepLevel (up down : Bool) (n : Nat) : Nat := if up then min 15 (n + 1) else if down then n - 1 else n

/-- R535: sensors of a Frame die and of its stacks. -/
def dieSensors (d : Nat) : List Nat := (List.range 8).map (8 * d + ·) ++ [40 + 2 * d, 41 + 2 * d]

/-- Dies that share a piece with a die; a die that no session holds stands alone.
Assumption log 39 (DESIGN CHOICE). -/
def State.pieceOf (s : State) (d : Nat) : List Nat :=
  match (List.range 4).find? fun i => (s.session i).isOpen && (s.session i).dieList.contains d with
  | some i => (s.session i).dieList
  | none => [d]

/-- The largest of a list of readings. -/
def maxOf (l : List Int) : Int := l.foldl max (l.headD 0)

/-- R535: the thermal level of the piece that holds a die. Assumption log 39 (DESIGN CHOICE). -/
def State.pieceStep (s : State) (w : Watch) (d : Nat) : Nat :=
  let p := s.pieceOf d
  let t := maxOf ((p.map dieSensors).flatten.map w.fil)
  let n := (p.map fun q => vget 0 w.pieceLevel q).foldl max 0
  stepLevel (decide ((s.options.throttleOn.toNat : Int) ≤ t)) (decide (t < (s.options.throttleOff.toNat : Int))) n

/-- R535: the level of a half of the Sorting Office. -/
def State.hubStep (s : State) (w : Watch) (h : Nat) : Nat :=
  let t := maxOf ((List.range 4).map fun k => w.fil (32 + 4 * h + k))
  stepLevel (decide ((s.options.throttleOn.toNat : Int) ≤ t)) (decide (t < (s.options.throttleOff.toNat : Int)))
    (vget 0 w.hubLevel h)

/-- R536: the power limit. -/
def Watch.limit (w : Watch) (powerLimit : Nat) : Nat :=
  if w.fil 50 < 768 then 1500 else powerLimit - 150 * ((w.fil 48 - 720) / 16).toNat

/-- R536: the clamp at 88 A, held until 80 A. Assumption log 38 (DEDUCED). -/
def Watch.clampNow (w : Watch) : Bool := if 1408 ≤ w.med 52 then true else if w.med 52 < 1280 then false else w.clamp

/-- R535, R536: every level after a millisecond. Assumption log 38 (DEDUCED). -/
def State.levels (s : State) (w : Watch) : Watch :=
  let limit := w.limit s.options.powerLimit.toNat
  let clamp := w.clampNow
  let piece := Vector.ofFn fun (d : Fin 4) => if clamp then 15 else s.pieceStep w d
  let hub := Vector.ofFn fun (h : Fin 2) => if clamp then 15 else s.hubStep w h
  let power := stepLevel (decide ((limit : Int) < w.fil 62)) (decide (w.fil 62 < (limit : Int) - 100)) w.powerLevel
  { w with pieceLevel := piece, hubLevel := hub, powerLevel := if clamp then 15 else power, clamp := clamp,
           limitW := BitVec.ofNat 32 limit }

/-- R540: an entry for each level that left 0 or returned to it: of each piece, named by its lowest die, of each half of the
Sorting Office, and of the input power. Assumption log 38 (DEDUCED). -/
def State.logLevels (s : State) (a b : Watch) : State :=
  let tops := (List.range 4).filter fun d => (s.pieceOf d).all fun q => decide (d ≤ q)
  let pairs := tops.map (fun d => (vget 0 a.pieceLevel d, vget 0 b.pieceLevel d)) ++
    (List.range 2).map (fun h => (vget 0 a.hubLevel h, vget 0 b.hubLevel h)) ++ [(a.powerLevel, b.powerLevel)]
  pairs.foldl (fun s p =>
    if p.1 = 0 ∧ p.2 ≠ 0 then s.logWatch 5 0xFF 0 else if p.1 ≠ 0 ∧ p.2 = 0 then s.logWatch 6 0xFF 0 else s) s

/-- R538: the sensor whose median trips. -/
def Watch.trip (w : Watch) : Option Nat :=
  (List.range 64).find? fun i =>
    decide ((i < 40 ∧ 1760 ≤ w.med i) ∨ (40 ≤ i ∧ i < 48 ∧ 1680 ≤ w.med i) ∨ (i = 48 ∧ 800 ≤ w.med i) ∨
      (i = 50 ∧ w.med i < 384) ∨ (i = 63 ∧ w.med i = 1))

/-- R538: the medians under which a trip is released. -/
def Watch.safe (w : Watch) : Bool :=
  ((List.range 48).all fun i => decide (w.med i ≤ 1440)) && decide (w.med 48 ≤ 720 ∧ 768 ≤ w.med 50)

/-- R539: the sensor whose median is a supply fault. -/
def Watch.supplyBad (w : Watch) : Option Nat :=
  if w.med 51 < 2432 ∨ 3968 < w.med 51 then some 51 else if w.med 53 * 10 < 27648 then some 53 else none

/-- R539: the medians under which a supply fault is released. -/
def Watch.supplyGood (w : Watch) : Bool := decide (2560 ≤ w.med 51 ∧ w.med 51 ≤ 3840 ∧ 29184 ≤ w.med 53 * 10)

/-- Enter PS4: everything but AON stops (R525, R530). -/
def State.enterPs4 (s : State) : State :=
  let s := s.linkDown.warmReset.coldReset.loseHbm
  { s with
    power := { s.power with power := .ps4, offDue := false }
    host := { s.host with powered := false }
    resets := { s.resets with inPhase := 8 } }

/-- R538: declare a trip. A leak that appears while a trip is held makes it a leak trip (R573).
Assumption log 38 (DEDUCED). -/
def State.declareTrip (s : State) (w : Watch) : State :=
  match w.trip with
  | some i =>
    if s.watch.tripHeld then { s with watch := { s.watch with leakLatched := s.watch.leakLatched || decide (w.med 63 = 1) } }
    else
      let s := s.logWatch 1 i (w.med i)
      let v := s.watch
      ({ s with watch := { v with tripHeld := true, leakLatched := v.leakLatched || decide (i = 63 ∨ w.med 63 = 1),
                                  trips := satAdd v.trips 1, safeMs := 0 } } : State).tripSource 6
  | none => s

/-- R539: declare a supply fault. -/
def State.declareSupply (s : State) (w : Watch) : State :=
  match w.supplyBad with
  | some i =>
    if s.watch.supplyHeld then s
    else
      let s := s.logWatch 3 i (w.med i)
      ({ s with watch := { s.watch with supplyHeld := true, supplyMs := 0 } } : State).tripSource 7
  | none => s

/-- R566, R568: a millisecond of SB12 in its range; from the twentieth on the converters may start.
Assumption log 82 (DESIGN CHOICE). -/
def State.standbyMs (s : State) : State :=
  if s.power.sb12 then ({ s with power := { s.power with sb12Ms := s.power.sb12Ms + 1 } } : State).softStart else s

/-- WATCH_POST_SAMPLE: one millisecond of the Watch Post, which samples from P0 on (R516).
Assumption log 5 (DESIGN CHOICE). -/
def execWatchPostSample (l : List Int) (s : State) : Out :=
  .next <|
    let s := s.standbyMs
    if s.aon.running ∧ s.resets.inReset ≠ some Reach.powerOn then
      let s := { s with aon := { s.aon with ms := s.aon.ms + 1 } }
      let w := s.watch.take s.options.filterShift.toNat (withPower l)
      if w.ready then
        let v := s.levels w
        let v := { v with safeMs := if v.safe then v.safeMs + 1 else 0, supplyMs := if v.supplyGood then v.supplyMs + 1 else 0 }
        let old := s.watch
        let s := ({ s with watch := v } : State).logLevels old v
        ((s.declareTrip v).declareSupply v).settlePins
      else { s with watch := w }
    else s

/-- THERMAL_TRIP_RELEASE: 10 s of safe medians, and no leak. -/
def execThermalTripRelease (s : State) : Out :=
  .next <|
    if s.watch.tripHeld ∧ ¬ s.watch.leakLatched ∧ 10000 ≤ s.watch.safeMs then
      let s := s.logWatch 2 0xFF 0
      (({ s with watch := { s.watch with tripHeld := false } } : State).deassert 6 fun _ => true).settlePins
    else s

/-- SUPPLY_FAULT_RELEASE: 100 ms of medians in range. -/
def execSupplyFaultRelease (s : State) : Out :=
  .next <|
    if s.watch.supplyHeld ∧ 100 ≤ s.watch.supplyMs then
      let s := s.logWatch 4 0xFF 0
      (({ s with watch := { s.watch with supplyHeld := false } } : State).deassert 7 fun _ => true).settlePins
    else s

/-! ### The record and the logs -/

/-- A level in force: the larger of the thermal and the power level (R535). -/
def Watch.inForce (w : Watch) (n : Nat) : Nat := max n w.powerLevel

/-- R541: the Watch Post record. -/
def Watch.record (w : Watch) : Bytes :=
  let sensor := fun (i : Nat) => w16 (BitVec.ofInt 16 (w.med i)) ++ w16 (BitVec.ofInt 16 (w.fil i))
  let dies := (List.range 4).map fun d => w.inForce (vget 0 w.pieceLevel d) * 16 ^ d
  let hubs := (List.range 2).map fun h => w.inForce (vget 0 w.hubLevel h) * 16 ^ h
  let flags := boolNat w.tripHeld + 2 * boolNat w.supplyHeld + 4 * boolNat w.leakLatched +
    8 * boolNat (decide (720 < w.fil 48)) + 16 * boolNat (w.ready && decide (w.fil 50 < 768))
  ((List.range 64).map sensor).flatten ++ le 4 (dies.sum + hubs.sum * 2 ^ 16 + w.powerLevel * 2 ^ 24) ++ le 4 flags ++
    w32 w.trips ++ w32 w.limitW

/-- R540: an entry of the Watch Post log. Assumption log 38 (DEDUCED). -/
def WatchEntry.bytes (e : WatchEntry) : Bytes :=
  w32 e.aonMs ++ w64 e.postmark ++ [e.event, e.sensor] ++ w16 e.median

/-- R515: an entry of the reset log. -/
def ResetEntry.bytes (e : ResetEntry) : Bytes :=
  w64 e.postmark ++
    le 4 (e.cause.toNat + e.primary.toNat * 2 ^ 14 + e.reach.toNat * 2 ^ 18 + boolNat e.idleTimeout * 2 ^ 21) ++
    [e.target] ++ le 3 e.aonMs.toNat

/-- R498: an entry of the boot ledger. -/
def LedgerEntry.bytes (e : LedgerEntry) : Bytes :=
  le 4 (e.step.toNat + e.phase.toNat * 2 ^ 8 + boolNat e.method * 2 ^ 11 + e.outcome.toNat * 2 ^ 12) ++ w32 e.start ++
    w32 e.elapsed ++ w32 e.detail ++ zeros 16

/-- R497: the boot ledger, 8,256 bytes. -/
def Aon.ledgerBytes (a : Aon) : Bytes :=
  w32 a.startCount ++ le 4 (a.head.toNat + boolNat a.wrapped * 2 ^ 8) ++
    le 4 (a.cause.toNat + a.primary.toNat * 2 ^ 14) ++ zeros 4 ++ le 32 a.fallback.toNat ++ zeros 16 ++
    ((List.range 256).map fun i => (Table.get LedgerEntry.blank a.ledger i).bytes).flatten

/-- R542: the logs as a command returns them: every place of the log, oldest entry first.
Assumption log 38 (DEDUCED). -/
def Aon.resetLogBytes (a : Aon) : Bytes := padTo 512 (a.resetLog.map ResetEntry.bytes).flatten

@[inherit_doc Aon.resetLogBytes] def Aon.watchLogBytes (a : Aon) : Bytes :=
  padTo 1024 (a.watchLog.map WatchEntry.bytes).flatten

end Sys2Proof.Machine
end

