-- ==== Sys2Proof/Machine/Boot.lean ====
section
/-! DEFINITION. Bring-up step by step (R499 to R504, R516 to R520), the host link (R438, R451, R500), and the firmware image
(R492 to R496). -/

namespace Sys2Proof.Machine

/-! ### Clock domains, R503, R504 -/

/-- The bring-up, or the wake from PS3, waits for a step. Assumption log 3 (DESIGN CHOICE). -/
def State.awaits (s : State) (key : Nat) : Bool :=
  s.resets.inReset.isNone && !s.resets.halted && (phaseSteps s.resets.inPhase).contains key && !s.resets.stepsDone.contains key

/-- R503: nanoseconds of the stability count: 4,096 or, by the fallback, 16,384 cycles of the 25 MHz reference, for HOST
of the 100 MHz one. Assumption log 35 (DESIGN CHOICE). -/
def stability (d : Nat) (method : Bool) : Nat := (if method then 16384 else 4096) * (if d = 12 then 10 else 40)

/-- R504: how long a method waits for clock-good, in microseconds. -/
def lockLimit (method : Bool) : Nat := if method then 40000 else 10000

/-- R504: a domain's clock-good has not come in time. -/
def State.lockLate (s : State) (d : Nat) : State :=
  let method := s.stepMethod (0x10 + d)
  let us := s.resets.phaseUs + lockLimit method
  ((s.endStep (0x10 + d) method oTimeout us 0).settlePhase 8 us).settlePins

/-- The release of a domain, and of the ports that waited for a Hub die's clock-good (R504). -/
def State.releaseClock (s : State) (d : Nat) : State :=
  let s := s.releaseDomain d
  if d = 13 ∨ d = 14 then (List.range 9).foldl (fun s k => s.releaseBlock (.port (9 * (d - 13) + k))) s else s

/-- CLOCK_GOOD: a PLL has held lock for its stability count, `lockUs` whole microseconds after it was enabled; past the
limit of R504 it comes too late. Assumption log 5 and 35 (DESIGN CHOICE). -/
def execClockGood (d lockUs : Nat) (s : State) : Out :=
  .next <|
    let key := 0x10 + d
    let method := s.stepMethod key
    if ¬ (s.resets.pll.getLsbD d ∧ ¬ s.resets.clockGood.getLsbD d ∧ ¬ s.resets.failed.contains key) ∨
        1000 * (lockUs + 1) ≤ stability d method then s
    else if s.awaits key ∧ lockLimit method < lockUs then s.lockLate d
    else
      let s := { s with resets := { s.resets with clockGood := setBit s.resets.clockGood d } }
      if s.awaits key then
        let us := s.resets.phaseUs + lockUs
        (((s.endStep key method oDone us (BitVec.ofNat 32 lockUs)).releaseClock d).settlePhase 8 us).settlePins
      else s.releaseClock d

/-- CLOCK_GOOD_TIMEOUT. -/
def execClockGoodTimeout (d : Nat) (s : State) : Out :=
  .next <| if s.awaits (0x10 + d) ∧ s.resets.pll.getLsbD d ∧ ¬ s.resets.clockGood.getLsbD d then s.lockLate d else s

/-! ### Options, R520 -/

/-- The stored option block. -/
def Fuses.block (f : Fuses) : Bytes := if f.currentSector then f.sector1 else f.sector0

/-- MAGIC and CRC of an option block. -/
def optionOk (b : Bytes) : Bool := b.length = 64 && slice b 0 4 = ascii "LSVO" && u32 b 60 = Crypto.crc32 (b.take 60)

/-- A field in its range, or its default. -/
def inRange (v lo hi d : Nat) : Nat := if lo ≤ v ∧ v ≤ hi then v else d

/-- The options of a block. -/
def optionsOf (b : Bytes) : Options :=
  let on := inRange (fieldAt b 12 2) 1280 1520 1520
  { idleTimeout := BitVec.ofNat 32 (inRange (fieldAt b 4 4) 10 100000 1000)
    watchdogMs := BitVec.ofNat 16 (inRange (fieldAt b 8 2) 10 1000 100)
    powerLimit := BitVec.ofNat 16 (inRange (fieldAt b 10 2) 1000 3000 3000)
    throttleOn := BitVec.ofNat 16 on
    throttleOff := BitVec.ofNat 16 (inRange (fieldAt b 14 2) 1248 (on - 16) 1488)
    filterShift := BitVec.ofNat 8 (inRange (fieldAt b 16 1) 1 6 3) }

/-! ### Steps, R499, R500 -/

/-- A step that a released quarter repeats (R519). Assumption log 30 (DEDUCED). -/
def State.quarterStep (s : State) (key : Nat) (r : StepEnd) (elapsed : Nat) (detail : W32) : State :=
  let q := if key < 0x40 then key - 0x30 else (key - 0x40) / 2
  let method := vget false s.resets.trainMethod (if key < 0x40 then key - 0x30 else key - 0x40 + 4)
  let good := r = .done
  let s := (s.ledgerWrite key method (if good then oDone else oFailed) elapsed detail).settleFallback key method good
  let s := if good then s
    else { s with resets := { s.resets with unavailQuarter := setBit s.resets.unavailQuarter q } }
  let left := s.resets.quarterSteps.filter (· ≠ key)
  let busy := left.any fun k => k = 0x30 + q || k = 0x40 + 2 * q || k = 0x41 + 2 * q
  let d := { vget Die.reset s.dies q with readying := busy }
  ({ s with resets := { s.resets with quarterSteps := left }, dies := vset s.dies q d } : State).settlePins

/-- P1: the fuses are read, and the pins take their fuse states (R509, R522). -/
def State.readFuses (s : State) : State := { s with fuses := { s.fuses with latched := true, pinLatch := s.fuses.pins } }

/-- A step of the start in progress ends, other than a clock's, the life-cycle step or the image.
Assumption log 33 (DEDUCED). -/
def State.bringupStep (s : State) (key : Nat) (r : StepEnd) (elapsed : Nat) (detail : W32) : State :=
  let method := s.stepMethod key
  let out := if r = .done then oDone else oFailed
  if key = 0x01 then
    let s := if r = .done then s.readFuses else s
    s.endStep key method out elapsed detail
  else if key = 0x02 then
    let own := !method && r = .done && optionOk s.fuses.block
    let s := { s with options := if own then optionsOf s.fuses.block else Options.reset }
    s.endStep key (method || (r = .done && !own)) out elapsed detail
  else if key = 0x50 then
    let s := s.endStep key method out elapsed detail
    if r = .done then { s with host := { s.host with configDone := true } }
    else { s with resets := { s.resets with hostMethod := !method } }
  else s.endStep key method out elapsed detail

/-- BRINGUP_STEP_END. The host link's step succeeds only with the link in L0; the life-cycle step follows every training. -/
def execBringupStepEnd (key : Nat) (r : StepEnd) (elapsed : Nat) (detail : W32) (s : State) : Out :=
  .next <|
    if s.resets.quarterSteps.contains key ∧ s.resets.inReset.isNone then s.quarterStep key r elapsed detail
    else if ¬ s.awaits key ∨ (0x10 ≤ key ∧ key < 0x22) ∨ key = 0x61 then s
    else if key = 0x60 then
      if (List.range 8).all fun k => s.resets.stepsDone.contains (0x40 + k) then
        ((s.lcResume elapsed).settlePhase 8 elapsed).settlePins
      else s
    else if key = 0x50 ∧ r = .done ∧ ¬ s.host.linkUp then s
    else ((s.bringupStep key r elapsed detail).settlePhase 8 elapsed).settlePins

/-! ### The host link -/

/-- The link reaches L0 (R461, R530), and WAKE_N is let go. -/
def State.linkUp (s : State) (width rate : Nat) : State :=
  { s with
    host := { s.host with linkUp := true, width := BitVec.ofNat 5 width, rate := BitVec.ofNat 2 rate }
    power := { s.power with wakeLow := false } }

/-- The port can train. Assumption log 29 (DEDUCED). -/
def State.linkTrains (s : State) : Bool :=
  s.resets.inReset.isNone && s.host.powered && s.resets.released.getLsbD 12 && s.resets.clockGood.getLsbD 12 && !s.host.linkUp &&
    !(s.resets.blocks.any (·.target = .hostPort)) && decide (4 ≤ s.resets.inPhase)

/-- HOST_LINK_UP. -/
def execHostLinkUp (width : Nat) (full : Bool) (s : State) : Out :=
  .next <|
    if s.linkTrains ∧ (width = 4 ∨ width = 8 ∨ width = 16) then (s.linkUp width (if full then 2 else 1)).settlePins else s

/-- HOST_LINK_DOWN. -/
def execHostLinkDown (s : State) : Out := .next s.linkDown

/-- HOST_LINK_RETRY: host link training that failed in this start is tried again, by the other method (R500). The width at
which it comes up, where HOST_LINK_UP has not said it, is a free one of R438's. Assumption log 35 (DESIGN CHOICE). -/
def execHostLinkRetry (success : Bool) (elapsed : Nat) (s : State) : Out :=
  .next <|
    if s.resets.failed.contains 0x50 ∧ ¬ s.host.configDone ∧ (s.linkTrains ∨ (success ∧ s.host.linkUp)) then
      let m := s.resets.hostMethod
      if success then
        let s := s.ledgerWrite 0x50 m oDone elapsed 0
        let (d, s) := s.draw
        let s := if s.host.linkUp then s
          else s.linkUp (4 * 2 ^ ((Config.freeWord d).toNat % 3)) (if m then 1 else 2)
        ({ s with host := { s.host with configDone := true } } : State).settlePins
      else
        let s := s.settleFallback 0x50 m false
        { s with resets := { s.resets with hostMethod := !m } }
    else s

/-! ### Firmware, R492 to R496 -/

/-- An entry of the component table. -/
def fwEntry (b : Bytes) (k : Nat) : Bytes := slice b (544 + 80 * k) 80

/-- A component's bytes. -/
def fwPart (b : Bytes) (k : Nat) : Bytes := slice b (fieldAt (fwEntry b k) 4 4) (fieldAt (fwEntry b k) 8 4)

/-- Check 1: the layout. R492 gives the table its identifiers, 1 to 7 in order, and a component no place in the header.
Assumption log 98 (DEDUCED). -/
def fwLayout (b : Bytes) (total : Nat) : Bool :=
  let n := fieldAt b 24 4
  let part := fun (k : Nat) => (fieldAt (fwEntry b k) 4 4, fieldAt (fwEntry b k) 8 4)
  slice b 0 8 = ascii "LSVFWIM1" && fieldAt b 8 2 = 1 && fieldAt b 10 2 = 7 && fieldAt b 12 4 = 1104 && n = total &&
    ((List.range 7).all fun k =>
      (u8 (fwEntry b k) 0).toNat = k + 1 && zeroRange (fwEntry b k) 1 3 && zeroRange (fwEntry b k) 12 4 &&
        decide (1104 ≤ (part k).1 ∧ (part k).1 + (part k).2 + 512 ≤ n)) &&
    (List.range 7).all fun k => (List.range 7).all fun j =>
      j ≤ k || decide ((part k).1 + (part k).2 ≤ (part j).1 ∨ (part j).1 + (part j).2 ≤ (part k).1)

/-- Check 4: each component's digest. -/
def fwDigests (b : Bytes) : Bool := (List.range 7).all fun k => Crypto.sha512 (fwPart b k) = slice (fwEntry b k) 16 64

/-- Check 5: the version floor. -/
def State.fwFloorOk (s : State) (b : Bytes) : Bool := decide (s.fuses.fwFloor.toNat ≤ fieldAt b 16 8)

/-- Checks 2 and 3: the key and the signature. -/
def State.fwKeyOk (s : State) (b : Bytes) : Bool :=
  u32 b 28 = s.fuses.rootRev &&
    Crypto.sha512 (slice b 32 512) = (List.range 64).map (Config.firmwareKeyDigest s.fuses.rootRev.toNat)

@[inherit_doc State.fwKeyOk] def fwSigned (b : Bytes) : Bool :=
  let n := fieldAt b 24 4
  Crypto.pssVerify (slice b 32 512) (slice b 0 (n - 512)) (slice b (n - 512) 512)

/-- R494: the number of the first check that fails, or 0. -/
def State.fwReason (s : State) (b : Bytes) (total : Nat) : Nat :=
  if ¬ fwLayout b total then 1
  else if ¬ s.fwKeyOk b then 2
  else if ¬ fwSigned b then 3
  else if ¬ fwDigests b then 4
  else if ¬ s.fwFloorOk b then 5
  else 0

/-- R496: the checks repeated on the stored image. Assumption log 36 (DEDUCED). -/
def State.fwRestart (s : State) (b : Bytes) : Nat := if ¬ fwDigests b then 4 else if ¬ s.fwFloorOk b then 5 else 0

/-- R495: the status a failed check gives. -/
def fwStatus (reason : Nat) : Status :=
  match reason with
  | 0 => stOk
  | 1 => stBadEnvelope
  | 4 => stBadEnvelope
  | 5 => stRefused
  | _ => stBadSignature

/-- R415: the digests recorded for attestation. -/
def fwDigestList (b : Bytes) : List Bytes :=
  (List.range 64).map Config.bootRomDigest :: (List.range 7).map fun k => slice (fwEntry b k) 16 64

/-- R495: the end of a verification. The ledger's ELAPSED_US is a measured time, not before the phase began.
Assumption log 19 (DESIGN CHOICE). -/
def State.fwDecide (s : State) (reason : Nat) : State :=
  let b := s.fw.image
  let (d, s) := s.draw
  let us := s.resets.phaseUs + (Config.freeWord d).toNat % (2 ^ 32 - min s.resets.phaseUs (2 ^ 32 - 1))
  if reason = 0 then
    let s := (s.ledgerWrite 0x61 false oDone us 0).markStep 0x61 false
    { s with fw := { s.fw with state := .running, rejectReason := 0, version := u64 b 16, digests := fwDigestList b } }
  else
    let s := s.ledgerWrite 0x61 false oRejected us (BitVec.ofNat 32 reason)
    { s with fw := { Firmware.reset with state := .rejected, rejectReason := BitVec.ofNat 8 reason } }

/-- FW_VERIFY_DONE: in P7, the image supplied or the one in the store has been checked.
Assumption log 36 (DEDUCED). -/
def execFwVerifyDone (s : State) : Out :=
  .next <|
    if s.fw.state = .verifying ∧ s.resets.inReset.isNone ∧ s.resets.inPhase = 7 ∧ ¬ s.power.waking3 then
      let reason := if s.fw.digests.isEmpty then s.fwReason s.fw.image s.fw.totalLen else s.fwRestart s.fw.image
      let s := s.fwDecide reason
      let s := { s with modulePend := pendEnd s.modulePend (fun e => e.command = 0x0001) (fwStatus reason) }
      if reason = 0 then
        ({ s with host := { s.host with memActive := true }, resets := { s.resets with inPhase := 8 } } : State).settlePins
      else s.settlePins
    else s

/-- R493: the form of a chunk. Assumption log 42 (DEDUCED). -/
def State.chunkOk (s : State) (b : Bytes) : Bool :=
  let off := fieldAt b 0 8
  let total := fieldAt b 8 4
  let n := b.length - 16
  decide (16 ≤ b.length ∧ fieldAt b 12 4 < 2 ∧ total ≤ 16777216) &&
    (if fieldAt b 12 4 = 1 then decide (1 ≤ n ∧ n ≤ 8064 ∧ off + n = total)
     else decide (64 ≤ n ∧ n ≤ 8064 ∧ n % 64 = 0 ∧ off + n ≤ total)) &&
    (off = 0 || decide (off = s.fw.received ∧ total = s.fw.totalLen))

/-- FW_SUPPLY's effect; DETAIL is the bytes held. Assumption log 42 (DEDUCED). -/
def State.supply (s : State) (r : Req) : State × Option Resp :=
  let b := r.body
  let answer := fun (s : State) (st : Status) => (s, some (⟨st, s.fw.received, []⟩ : Resp))
  if s.loadBarred then answer s stLocked
  else if s.fw.state = .running ∨ s.fw.state = .verifying ∨ ¬ s.chunkOk b then answer s stRefused
  else
    let final := fieldAt b 12 4 = 1
    let image := (if fieldAt b 0 8 = 0 then [] else s.fw.image) ++ b.drop 16
    let fw := { s.fw with
      state := if final then FwState.verifying else FwState.receiving, image := image, totalLen := fieldAt b 8 4,
      received := image.length, digests := [] }
    if final then
      let (e, s) := s.entryFor r (b.take 16)
      match pendAdd s.modulePend e with
      | none => answer s stNoResource
      | some l => answer { s with fw := fw, modulePend := l } stPending
    else answer { s with fw := fw } stOk

/-- FW_SUPPLY. -/
def execFwSupply (mb : Nat) (s : State) : Out := .next (s.serve mb 0x0001 .boot .work anyBody State.supply)

/-- LEDGER_CLEAR. -/
def execLedgerClear (mb : Nat) (s : State) : Out :=
  .next <| s.serve mb 0x0002 .boot .work anyBody fun s r =>
    if ¬ bodyForm r.body 0 [] then (s, Resp.of stRefused)
    else ({ s with aon := { s.aon with fallback := 0 } }, Resp.of stOk)

end Sys2Proof.Machine
end

