-- ==== Sys2Proof/Machine/Status.lean ====
section
/-! DEFINITION. What the module shows: the records of a session (R98, R134, R154, R185, R238, R239, R247, R290, R327, R376),
the status block and its pages (R461, R487 to R491), and what a register read returns (R446, R447, R467, R497, R559). -/

namespace Sys2Proof.Machine

/-! ### Records, R484 -/

def CtxState.code : CtxState → Nat
  | .idle => 0
  | .waiting => 1
  | .running => 2
  | .stopped => 3

def SessState.code : SessState → Nat
  | .free => 0
  | .opening => 1
  | .ready => 2
  | .running => 3
  | .closing => 4

def FwState.code : FwState → Nat
  | .awaiting => 0
  | .receiving => 1
  | .verifying => 2
  | .running => 3
  | .rejected => 4

def Sync.code : Sync → Nat
  | .free => 0
  | .acquiring => 1
  | .locked => 2
  | .holdover => 3

def PortState.code : PortState → Nat
  | .disabled => 0
  | .training => 1
  | .keying => 2
  | .up => 3
  | .degraded => 4
  | .down => 5

def MbState.code : MbState → Nat
  | .idle => 0
  | .submitted => 1
  | .serving => 2
  | .done => 3

/-- R98. STATUS reads ST_OK until the context stops. -/
def Context.bytes (k : Context) : Bytes :=
  le 4 (k.index.toNat % 65536 + k.slot.toNat * 2 ^ 16 + k.state.code * 2 ^ 24) ++
    w16 (if k.state = .stopped then k.status else stOk) ++ w16 k.lateCount ++ w32 k.completed ++ zeros 4

/-- R134. -/
def NumRec.bytes (r : NumRec) : Bytes :=
  w64 r.inSat ++ w64 r.inNan ++ w64 r.nanOut ++ w64 r.accOvf ++ w64 r.outSat ++ w64 r.flush ++ w64 r.nanBlock ++ zeros 8

/-- Word 0 of R154. -/
def ScaleRec.word0 (r : ScaleRec) : Nat :=
  r.fmt.toNat + r.policy.toNat * 2 ^ 4 + boolNat r.blockEn * 2 ^ 6 + boolNat r.voidOnMiss * 2 ^ 7 +
    r.margin.toNat * 2 ^ 8 + r.satShift.toNat * 2 ^ 12 + r.flushShift.toNat * 2 ^ 17 + r.histLen.toNat * 2 ^ 22

/-- Word 10 of R154. -/
def ScaleRec.word10 (r : ScaleRec) : Nat :=
  boolNat r.missSat + boolNat r.missFlush * 2 + boolNat r.replay * 4 + boolNat r.nanSeen * 8 + r.histHead.toNat * 2 ^ 4 +
    r.histValid.toNat * 2 ^ 8

/-- R154. -/
def ScaleRec.bytes (r : ScaleRec) : Bytes :=
  le 4 r.word0 ++ w32 r.staticScale ++ w32 r.workScale ++ w32 r.curAmax ++ w64 r.elemCount ++ w64 r.satCount ++
    w64 r.flushCount ++ le 4 r.word10 ++ w32 r.lastStep ++ w64 r.scaleAddr ++ zeros 8 ++
    (r.history.toList.map w32).flatten

/-- R185. -/
def ReblockRec.bytes (r : ReblockRec) : Bytes := w64 r.elem ++ w64 r.inexact ++ w64 r.flush ++ w64 r.dualFlush

/-- R238. -/
def SealRec.bytes (r : SealRec) : Bytes :=
  w32 r.step ++ le 4 (r.attempt.toNat + r.lastDecision.toNat * 2 ^ 16 + boolNat r.sealing * 2 ^ 18) ++
    le 4 r.lastReasons.toNat ++ w32 r.voidCount ++ w64 r.lastFlip ++ w32 r.commitCount ++ zeros 4

/-- R239. -/
def UpdRec.bytes (r : UpdRec) : Bytes := w64 r.updElem ++ w64 r.updNan ++ w64 r.noiseElem ++ w64 r.noiseSteps

/-- R290. -/
def CollRec.bytes (r : CollRec) : Bytes :=
  w64 r.done ++ w64 r.chunksTx ++ w64 r.chunksRx ++ w64 r.sumOvf ++ w64 r.retried ++ w64 r.tagTaint ++
    w64 r.residueTaint ++ w64 r.residueFail ++ w64 r.staleDrop ++ w64 r.routeDrop ++ zeros 16

/-- R377. -/
def Violation.bytes (v : Violation) : Bytes :=
  le 8 (v.address.toNat + boolNat v.far * 2 ^ 63) ++ w64 v.postmark ++
    le 8 (v.kind.toNat + v.level.toNat * 2 ^ 4 + v.owner.toNat * 2 ^ 8) ++ zeros 8

/-- Word 6 of R376. -/
def MemRec.word6 (r : MemRec) : Nat :=
  r.keyEpoch.toNat + boolNat r.sweeping * 2 ^ 32 + boolNat r.readOnly * 2 ^ 33 + boolNat r.quarantined * 2 ^ 34 +
    r.log.length * 2 ^ 35

/-- R376. -/
def MemRec.bytes (r : MemRec) : Bytes :=
  padTo 576 (w64 r.corrected ++ w64 r.uncorrectable ++ w64 r.integrity ++ w64 r.poisonRead ++ w64 r.refrank ++
    w64 r.metaFetch ++ le 8 r.word6 ++ w64 r.exportSeq ++ (r.log.map Violation.bytes).flatten)

/-- R327. -/
def HeldRec.bytes (r : HeldRec) : Bytes :=
  le 4 (boolNat r.held + r.ownReasons.toNat * 2 ^ 8 + r.groupReasons.toNat * 2 ^ 16) ++ w64 r.epoch ++ w64 r.heldSince ++
    zeros 4

/-- The lanes that carry flits: those of a port that is UP or DEGRADED (R247). -/
def Port.lanesUp (q : Port) : Byte := if q.state = .up ∨ q.state = .degraded then q.lanes else 0

/-- Word 0 of R247. -/
def Port.word0 (q : Port) : Bytes := le 4 (q.state.code + q.lanesUp.toNat * 2 ^ 3 + q.downReason.toNat * 2 ^ 11)

/-- R247. -/
def Port.status (q : Port) : Bytes :=
  q.word0 ++ le 4 (q.cableDelay.toNat + q.epochTagFail.toNat * 2 ^ 16) ++ w64 q.fecCorrected ++ w64 q.fecUncorrectable ++
    w64 q.retry ++ w64 q.tagFail ++ w64 q.dataTx ++ w64 q.dataRx

/-- R246. -/
def Port.config (q : Port) : Bytes :=
  le 4 (boolNat q.enable + q.session.toNat * 2 + boolNat q.bound * 2 ^ 3 + q.peerRank.toNat * 2 ^ 4 +
      q.peerPort.toNat * 2 ^ 15 + boolNat q.loopback * 2 ^ 20) ++
    le 4 (q.txPolarity.toNat + q.rxPolarity.toNat * 2 ^ 8 + q.txPreset.toNat * 2 ^ 16)

/-- A one-way delay of the ring, in units of 1/16 ns, over 16 bits. -/
def RingSide.delayWord (r : RingSide) : Nat := (r.delay / 4096).toNat % 65536

/-- R295: words 0 to 7, with NOW_HI as given. -/
def TimeBase.words (t : TimeBase) (hi : W32) : Bytes :=
  le 4 (t.now.toNat % 2 ^ 32) ++ w32 hi ++
    le 4 (t.sync.code + boolNat t.grandmaster * 2 ^ 3 + boolNat t.ringMaster * 2 ^ 4 + boolNat t.ringBroken * 2 ^ 5 +
      t.ringPos.toNat * 2 ^ 6 + t.ringNo.toNat * 2 ^ 11 + t.active.toNat * 2 ^ 17) ++
    w32 t.offset ++ w32 t.rate ++ le 2 t.cw.delayWord ++ le 2 t.ccw.delayWord ++ w32 t.holdoverNow ++ zeros 4

/-! ### The status block -/

/-- R488: the module words with their STATUS_SEQ and WRITTEN as given. -/
def State.wordsWith (s : State) (seq : W32) (written : W64) : Bytes :=
  let open_ := ((List.range 4).map fun i => boolNat (s.session i).isOpen * 2 ^ i).sum
  let r := s.resets
  padTo 256 <|
    le 4 (s.fw.state.code + r.phase.toNat * 2 ^ 3 + s.lcState * 2 ^ 6 + boolNat s.degraded * 2 ^ 14 +
        boolNat s.locked * 2 ^ 15 + s.fw.rejectReason.toNat * 2 ^ 16) ++
      le 4 (open_ + s.power.power.code * 2 ^ 4) ++ w64 s.fw.version ++
      le 4 (r.unavailQuarter.toNat + r.unavailStack.toNat * 2 ^ 4 + r.unavailLnk.toNat * 2 ^ 12) ++
      w32 seq ++ w64 written ++ le 4 s.fw.received

/-- R461: the host attachment words. -/
def State.hostWords (s : State) : Bytes :=
  let h := s.host
  let sel := ((List.range 8).map fun n => boolNat (vget IdeState.never h.ideSel n = .secure) * 2 ^ n).sum
  le 4 (h.width.toNat + h.rate.toNat * 2 ^ 5 + boolNat h.memActive * 2 ^ 7 + boolNat h.uioEnable * 2 ^ 8 +
      boolNat (h.ideLink = .secure) * 2 ^ 9 + boolNat (h.ideMem = .secure) * 2 ^ 10 + sel * 2 ^ 11) ++
    w32 h.linkDowns ++ w64 h.wrDrop ++ w64 h.ideFail ++ w64 h.biSent

/-- The DONE bitmap over the mailboxes that `f` shows. -/
def State.doneBits (s : State) (f : Nat → Bool) : Bytes :=
  le 8 ((List.range 64).map fun n => boolNat (f n && (s.mailbox n).state = .done) * 2 ^ n).sum

/-- An entry of the module pending table (R487). -/
def Pending.moduleBytes (e : Pending) : Bytes :=
  le 2 e.command ++ w16 e.status ++ [e.session, e.party] ++ zeros 2 ++ w32 e.tag ++ zeros 4

/-- An entry of a session pending table (R489). -/
def Pending.sessionBytes (e : Pending) : Bytes :=
  le 2 e.command ++ w16 e.status ++ [e.party] ++ zeros 3 ++ w64 e.seq

/-- The module portion, bytes 0x0000 to 0x0FFF of the status block, with its STATUS_SEQ and WRITTEN as given. -/
def State.portionWith (s : State) (seq : W32) (written : W64) : Bytes :=
  padTo 4096 (padTo 0x100 (s.wordsWith seq written) ++ padTo 0x100 s.hostWords ++ padTo 0x100 (s.doneBits fun _ => true) ++
    padTo 0x80 (s.modulePend.map Pending.moduleBytes).flatten)

/-- R490: the module portion has been updated since a page write last showed it. Assumption log 97 (DESIGN CHOICE). -/
def State.portionMoved (s : State) : Bool := s.shown.any fun b => b ≠ s.portionWith 0 0

/-- R490: STATUS_SEQ, at the next even value once the portion has been updated. Assumption log 97 (DESIGN CHOICE). -/
def State.seqNow (s : State) : W32 := if s.portionMoved then s.statusSeq + 2 else s.statusSeq

/-- R488: WRITTEN, the postmark of the last update. Assumption log 97 (DESIGN CHOICE). -/
def State.writtenNow (s : State) : W64 := if s.portionMoved then s.time.now else s.written

/-- R488: the module words. -/
def State.moduleWords (s : State) : Bytes := s.wordsWith s.seqNow s.writtenNow

/-- Bytes 0x0000 to 0x0FFF of the status block, as the physical function reads them. -/
def State.modulePage (s : State) : Bytes := s.portionWith s.seqNow s.writtenNow

/-- R401: the weights are complete. -/
def Session.weightsDone (x : Session) : Bool := match x.plan with | some p => !p.digest.isEmpty | none => false

/-- R489: the session status plaintext. -/
def State.statusPlain (s : State) (i : Nat) : Bytes :=
  let x := s.session i
  let flags := boolNat x.mem.quarantined + 2 * boolNat x.mem.readOnly + 4 * boolNat x.held.held + 8 * boolNat x.weightsDone
  w64 s.time.now ++ le 1 x.state.code ++ le 1 flags ++ zeros 6 ++
    ((List.range 4).map fun c => (x.ctx c).bytes).flatten ++ x.sealRec.bytes ++ x.held.bytes ++ le 8 x.mem.word6 ++
    padTo 128 (x.pend.map Pending.sessionBytes).flatten

/-- R396, R489: the status envelope of a session with its next SEQ. -/
def State.statusEnvelope (s : State) (i : Nat) : Bytes :=
  let x := s.session i
  sealEnvelope x.statusKey 0 i 2 (x.statusSeq + 1) 0 (s.statusPlain i)

/-- The base of the status-page window of an owner (R448). -/
def State.pageWindow (s : State) (owner : Option Nat) : Option Nat :=
  (s.host.windows.find? fun w => !w.2.objects && decide (w.2.owner = owner)).map (·.2.base)

/-- R490, R491: write the module page into its window. -/
def State.writeModulePage (s : State) : State :=
  let s := { s with statusSeq := s.seqNow + 2, written := s.time.now, shown := some (s.portionWith 0 0) }
  match s.pageWindow none with
  | some a => if s.cacheReady then s.hostStore a s.modulePage else s
  | none => s

/-- R396, R491: write a session's portion of the status block, and its page into its window. -/
def State.writeSessionPage (s : State) (i : Nat) : State :=
  if (s.session i).isOpen then
    let e := s.statusEnvelope i
    let s := s.onSession i fun x => { x with statusSeq := x.statusSeq + 1, statusEnv := e }
    match s.pageWindow (some i) with
    | some a => if s.cacheReady then s.hostStore a e else s
    | none => s
  else s

/-- STATUS_PAGE_WRITE: page 0 is the module's, page 1 + i that of session i (R450, R451, R529). -/
def execStatusPageWrite (page : Nat) (s : State) : Out :=
  .next <|
    if s.resets.inReset.isNone ∧ s.fw.state = .running ∧
        (s.power.power = .ps0 ∨ s.power.power = .ps1 ∨ s.power.power = .ps2) then
      (if page = 0 then s.writeModulePage else s.writeSessionPage (page - 1))
    else s

/-! ### What a register read returns -/

/-- The session that names a virtual function. -/
def State.vfSession (s : State) (fn : Nat) : Option Nat :=
  (List.range 4).find? fun i => (s.session i).isOpen && (s.session i).vf = fn

/-- R447: a function shows a mailbox. -/
def State.showsMailbox (s : State) (fn n : Nat) : Bool :=
  fn = 0 || (match s.vfSession fn with | some i => mbSession n = i | none => false)

/-- R467: the control registers of a mailbox. -/
def State.mbRegs (s : State) (n : Nat) : Bytes :=
  let m := s.mailbox n
  padTo 64 <|
    le 4 (m.state.code + boolNat m.busyErr * 4 + boolNat (s.mbPolled n) * 8 + n * 2 ^ 8 + mbSession n * 2 ^ 16) ++
      le 4 m.reqLen.toNat ++ zeros 4 ++ le 4 m.respLen.toNat ++ w32 m.submits ++ w64 m.donePostmark

/-- R467, R470: a mailbox's 8 KiB; its buffer reads zero while a request is in it. -/
def State.mbWindow (s : State) (n off len : Nat) : Bytes :=
  let m := s.mailbox n
  if off < 64 then slice (s.mbRegs n) off len
  else if m.state = .submitted ∨ m.state = .serving then zeros len
  else memLoad m.buffer (off - 64) len

/-- R559: the counter window, which shows module-assigned counters alone. -/
def State.counterWord (s : State) (off : Nat) : Bytes :=
  let key := if off < 0x2000 ∧ off % 0x800 < 512 then some (off / 0x800 * 64 + off % 0x800 / 8)
    else if 0x2000 ≤ off ∧ off < 0x2200 ∧ off % 0x100 < 128 then some ((4 + (off - 0x2000) / 0x100) * 64 + off % 0x100 / 8)
    else none
  match key with
  | some k =>
    let c := Table.get Counter.reset s.perf.counters k
    if c.owner = 2 then le 8 (c.value.toNat + boolNat c.sticky * 2 ^ 48) else zeros 8
  | none => zeros 8

/-- What a 32-bit read of the first register window returns to a function (R446, R447, R487, R497, R559). A read of NOW_LO
also latches NOW_HI, which is NOW_LO_READ's effect. -/
def State.registerRead (s : State) (fn off : Nat) : Bytes :=
  let a := off / 4 * 4
  if a < 0x80000 then (if s.showsMailbox fn (a / 0x2000) then s.mbWindow (a / 0x2000) (a % 0x2000) 4 else zeros 4)
  else if a < 0x100000 then zeros 4
  else if a < 0x101000 then
    (if fn = 0 then slice s.modulePage (a - 0x100000) 4
     else if 0x100200 ≤ a ∧ a < 0x100208 then slice (s.doneBits (s.showsMailbox fn)) (a - 0x100200) 4 else zeros 4)
  else if a < 0x105000 then
    let i := (a - 0x101000) / 0x1000
    (if fn = 0 ∨ s.vfSession fn = some i then slice (s.session i).statusEnv (a % 0x1000) 4 else zeros 4)
  else if 0x110000 ≤ a ∧ a < 0x112200 then
    (if fn = 0 then slice (s.counterWord (a - 0x110000)) (a % 8) 4 else zeros 4)
  else if 0x120000 ≤ a ∧ a < 0x120020 then slice (s.time.words (vget 0 s.time.latch fn)) (a - 0x120000) 4
  else if 0x200000 ≤ a ∧ a < 0x202040 then (if fn = 0 then slice s.aon.ledgerBytes (a - 0x200000) 4 else zeros 4)
  else zeros 4

end Sys2Proof.Machine
end

