-- ==== Sys2Proof/Machine/Host.lean ====
section
/-! DEFINITION. The host port: register windows and SUBMIT (R446, R467 to R470, R481), configuration space (R441 to R445,
R462), the HDM window and back-invalidation (R452 to R454, R337 to R340, R363), snoops (R449), IDE and CDAT (R458, R460). -/

namespace Sys2Proof.Machine

/-- Answer on the host port. -/
def State.say (s : State) (r : Reply) : State := { s with host := { s.host with reply := r } }

/-- Power states in which a control core or the host port decodes requests. -/
def State.portAwake (s : State) : Bool := s.host.linkUp && s.resets.inReset.isNone && s.power.power ≠ .ps4

/-- A virtual function that SR-IOV presents (R442). -/
def State.vfThere (s : State) (fn : Nat) : Bool := fn = 0 || (s.host.vfEnable && decide (fn ≤ s.host.numVfs.toNat))

/-- R458: the link stream, or a selective stream by its number, was Secure and is no longer.
Assumption log 41 (DEDUCED). -/
def HostPort.streamLost (h : HostPort) (stream : Option Nat) : Bool :=
  (match stream with
    | none => h.ideLink
    | some n => vget IdeState.never h.ideSel n) = .lost

/-- What bars a configuration request or a DOE object to a function, which neither D3hot nor a lost stream does: none when
it is taken. -/
def State.barredConfig (s : State) (fn : Nat) : Option Reply :=
  if ¬ s.portAwake then some .noLink
  else if ¬ s.host.configDone then some .crs
  else if ¬ s.vfThere fn then some .unsupported
  else none

/-- What bars a memory request to a function on a stream: none when it is taken. Assumption log 41 (DEDUCED). -/
def State.barred (s : State) (fn : Nat) (stream : Option Nat) : Option Reply :=
  if ¬ s.portAwake then some .noLink
  else if ¬ s.host.configDone then some .none
  else if s.host.streamLost stream ∨ ¬ s.vfThere fn ∨ vget false s.host.d3 fn then some .unsupported
  else none

/-! ### Register writes -/

/-- R468, R526, R528: SUBMIT. -/
def State.submit (s : State) (n : Nat) : State :=
  let m := s.mailbox n
  let m := { m with submits := m.submits + 1, respLen := 0, state := .submitted, order := s.submitNo, at_ := s.time.now }
  let s := ({ s with submitNo := s.submitNo + 1 } : State).setMailbox n m
  let s := s.stir
  let s := if s.power.power = .ps2 ∧ ¬ s.power.waking2 then
      { s with power := { s.power with waking2 := true, wakeAt := BitVec.ofNat 64 (s.now + ns 3000000) } }
    else s
  if m.reqLen.toNat < 16 ∨ 8128 < m.reqLen.toNat then s.done n stRefused 0 [] else s.passTurn

/-- R467, R470: a 32-bit write to a mailbox. -/
def State.mbWrite (s : State) (n off : Nat) (v : W32) : State :=
  let m := s.mailbox n
  let busy := m.state = .submitted ∨ m.state = .serving
  if off = 0 then s.setMailbox n (if v.getLsbD 2 then { m with busyErr := false } else m)
  else if off = 4 ∨ off = 8 ∨ 64 ≤ off then
    if busy then s.setMailbox n { m with busyErr := true }
    else if off = 4 then s.setMailbox n { m with reqLen := BitVec.ofNat 13 v.toNat }
    else if off = 8 then (if v.getLsbD 0 then s.submit n else s)
    else s.setMailbox n { m with buffer := memStore m.buffer (off - 64) (w32 v) }
  else s

/-- HDM_DECODER_COMMIT's effect (R452). -/
def State.commitDecoder (s : State) (base size ways : Nat) : State :=
  let good := decide (size = 2 ^ 40 ∧ ways = 1 ∧ base % 2 ^ 28 = 0)
  { s with host := { s.host with decoder := ⟨base, size, ways, good, !good⟩ } }

/-- R444: the component registers' capability structures, by CXL's identifier, and where each stands: RAS, link, HDM decoder
and IDE. Assumption log 99 (PRESUMED). -/
def componentCaps : List (Nat × Nat) := [(2, 0x1100), (4, 0x1200), (5, 0x1300), (7, 0x1400)]

/-- A word of BAR2 as written, else what CXL leaves to the part. -/
def State.bar2Held (s : State) (off : Nat) : W32 :=
  (Table.get none s.host.component (off / 4)).getD (Config.configWord 5 (off / 4))

/-- R444: the registers of BAR2, word by word: the component registers, with the HDM decoder as it stands, and from 0x1_0000
on the device registers, which hold the Device Status capability alone. None where the word is held as written.
Assumption log 99 (PRESUMED). -/
def State.bar2Word (s : State) (off : Nat) : Option W32 :=
  let word := fun (n : Nat) => some (BitVec.ofNat 32 n)
  let d := s.host.decoder
  if off = 0x1000 then word (0x110001 + componentCaps.length * 2 ^ 24)
  else if 0x1004 ≤ off ∧ off < 0x1014 then
    let q := componentCaps.getD ((off - 0x1004) / 4) (0, 0)
    word (q.1 + 2 ^ 16 + (q.2 - 0x1000) * 2 ^ 20)
  else if off = 0x1300 then word 0x10
  else if off = 0x1310 then word (d.base / 2 ^ 28 % 16 * 2 ^ 28)
  else if off = 0x1314 then word (d.base / 2 ^ 32 % 2 ^ 32)
  else if off = 0x1318 then word (d.size / 2 ^ 28 % 16 * 2 ^ 28)
  else if off = 0x131C then word (d.size / 2 ^ 32 % 2 ^ 32)
  else if off = 0x1320 then word ((Nat.log2 d.ways) * 2 ^ 4 + boolNat d.committed * 2 ^ 10 + boolNat d.notCommitted * 2 ^ 11)
  else if off = 0x10000 then word 0x10000
  else if off = 0x10004 then word 1
  else if off = 0x10010 then word 0x010001
  else if off = 0x10014 then word 0x20
  else if off = 0x10018 then word 8
  else if off < 0x1000 ∨ 0x2000 ≤ off ∧ ¬ (0x10020 ≤ off ∧ off < 0x10028) then word 0
  else none

/-- R444, R452: a 32-bit write of BAR2: the HDM decoder's base, size and control with its Commit bit, and whatever is held.
Assumption log 99 (PRESUMED). -/
def State.bar2Write (s : State) (off : Nat) (v : W32) : State :=
  let h := s.host
  let d := h.decoder
  let free := !d.committed
  let low := fun (old : Nat) => old / 2 ^ 32 * 2 ^ 32 + v.toNat / 2 ^ 28 * 2 ^ 28
  let high := fun (old : Nat) => v.toNat * 2 ^ 32 + old % 2 ^ 32
  let put := fun (d : HdmDecoder) => ({ s with host := { h with decoder := d } } : State)
  if off = 0x1310 ∧ free then put { d with base := low d.base }
  else if off = 0x1314 ∧ free then put { d with base := high d.base }
  else if off = 0x1318 ∧ free then put { d with size := low d.size }
  else if off = 0x131C ∧ free then put { d with size := high d.size }
  else if off = 0x1320 then
    if ¬ free then s
    else if v.getLsbD 9 then s.commitDecoder d.base d.size (2 ^ (v.toNat / 2 ^ 4 % 16))
    else put { d with ways := 2 ^ (v.toNat / 2 ^ 4 % 16) }
  else if (s.bar2Word off).isSome then s
  else { s with host := { h with component := Table.set none h.component (off / 4) (some v) } }

/-- REGISTER_WRITE: the first window (R446, R447), of which only mailboxes take writes and every other write is ignored;
offsets from 0x40_0000 on are those of BAR2, which the physical function alone has (R441, R444).
Assumption log 83 (DESIGN CHOICE), 99 (PRESUMED). -/
def execRegisterWrite (o : Origin) (off : Nat) (v : W32) (s : State) : Out :=
  if 0x420000 ≤ off ∨ 0x400000 ≤ off ∧ o.fn ≠ 0 then .fault .noSuchAddress
  else
    .next <|
      match s.barred o.fn o.stream with
      | some r => s.say r
      | none =>
        let a := off / 4 * 4
        let s := s.say .ok
        if 0x400000 ≤ a then s.bar2Write (a - 0x400000) v
        else if a < 0x80000 ∧ s.showsMailbox o.fn (a / 0x2000) then s.mbWrite (a / 0x2000) (a % 0x2000) v
        else s

/-- NOW_LO_READ: bits [31:0], with bits [63:32] latched for the reading function (R295). -/
def execNowLoRead (o : Origin) (s : State) : Out :=
  .next <|
    match s.barred o.fn o.stream with
    | some r => s.say r
    | none =>
      let t := s.time
      let s := { s with time := { t with latch := vset t.latch o.fn (BitVec.ofNat 32 (t.now.toNat / 2 ^ 32)) } }
      s.say (.bytes (le 4 (t.now.toNat % 2 ^ 32)))

/-! ### Configuration space, R441 to R445, R462 -/

/-- R443: the extended capabilities of the physical function in the order of their chain, by offset and capability
identifier. -/
def extCaps : List (Nat × Nat) :=
  [(0x100, 0x01), (0x150, 0x0E), (0x160, 0x10), (0x1A0, 0x19), (0x1E0, 0x25), (0x1F0, 0x26), (0x220, 0x2A), (0x260, 0x31),
    (0x280, 0x27), (0x300, 0x2E), (0x320, 0x30), (0x400, 0x23), (0x440, 0x23), (0x460, 0x23), (0x480, 0x03)]

/-- R443: what of it a virtual function holds, at the same offsets. -/
def vfCaps : List (Nat × Nat) := extCaps.filter fun q => q.1 = 0x150 ∨ q.1 = 0x300 ∨ q.1 = 0x320

/-- The identity of a CXL DVSEC: vendor 0x1E98, and the DVSEC ID that R443 gives. -/
def dvsecId : Nat → Option Nat
  | 0x400 => some 0
  | 0x440 => some 7
  | 0x460 => some 8
  | _ => none

/-- R443: the header of a capability: its identifier and the next of the list, the identity and length of a DVSEC, and what
the table says of one: D0 and D3hot alone, an FLR-capable endpoint that supports flit mode, the streams of R439, what the CXL
device DVSEC says it can do, and the two entries of the Register Locator. The version of an extended capability is free. A virtual function's list starts with an empty entry at 0x100.
Assumption log 40 (PRESUMED). -/
def capHeader (fn off : Nat) : Option W32 :=
  let word := fun (n : Nat) => some (BitVec.ofNat 32 n)
  let free := (Config.configWord fn (off / 4)).toNat
  let caps := if fn = 0 then extCaps else vfCaps
  if off = 0x34 then word (if fn = 0 then 0x40 else 0x50)
  else if off = 0x40 ∧ fn = 0 then word (free / 2 ^ 27 * 2 ^ 27 + free / 2 ^ 16 % 2 ^ 9 * 2 ^ 16 + 0x5001)
  else if off = 0x50 then word (2 ^ 31 + free / 2 ^ 24 % 2 ^ 7 * 2 ^ 24 + 0x020010)
  else if off = 0x54 then word (free / 2 ^ 29 * 2 ^ 29 + 2 ^ 28 + free % 2 ^ 28)
  else if off = 0x324 then word (free / 2 ^ 24 * 2 ^ 24 + 7 * 2 ^ 16 + free / 2 ^ 7 % 2 ^ 6 * 2 ^ 7 + 2 ^ 6 + free / 2 ^ 2 % 2 ^ 4 * 2 ^ 2 + 3)
  else if off = 0x100 ∧ fn ≠ 0 then word (0x150 * 2 ^ 20)
  else
    match caps.find? (·.1 = off), caps.find? (decide <| off < ·.1) with
    | some q, next => word ((next.map (·.1)).getD 0 * 2 ^ 20 + free / 2 ^ 16 % 16 * 2 ^ 16 + q.2)
    | none, _ =>
      if fn ≠ 0 then none
      else
        match dvsecId (off - 4), dvsecId (off - 8) with
        | some n, _ => word ((if n = 0 then 0x03C3 else if n = 7 then 0x0202 else 0x01C0) * 2 ^ 16 + 0x1E98)
        | _, some 0 => word (free / 2 ^ 22 * 2 ^ 22 + free / 2 ^ 19 % 2 * 2 ^ 19 + 0x170000)
        | _, some n => word (free / 2 ^ 16 * 2 ^ 16 + n)
        | _, _ => none

/-- R441: a base address register of the physical function, the low half of a 64-bit one by the log of its size, the high
half by 0. A virtual function's are in SR-IOV. -/
def barSize (register : Nat) : Option Nat :=
  match register with
  | 0x004 => some 22
  | 0x006 => some 17
  | 0x061 => some 22
  | 0x005 => some 0
  | 0x007 => some 0
  | 0x062 => some 0
  | _ => none

/-- Registers of R441 to R443 that the manual fixes, by register number (byte offset / 4).
Assumption log 40 (PRESUMED). -/
def fixedConfig (fn register : Nat) : Option W32 :=
  let device : Nat := if fn = 0 then 0x0960 else 0x0961
  match register with
  | 0x000 => some (BitVec.ofNat 32 (0x1E5D + device * 2 ^ 16))
  | 0x002 => some (BitVec.ofNat 32 (Config.revisionId.toNat + 0x120000 * 2 ^ 8))
  | 0x00B => some (BitVec.ofNat 32 (0x1E5D + device * 2 ^ 16))
  | 0x00F => some 0
  | 0x00C => some 0
  | 0x008 => some 0
  | 0x009 => some 0
  | 0x121 => if fn = 0 then some (Config.configWord 0 0x121) else none
  | 0x122 => if fn = 0 then some (Config.configWord 0 0x122) else none
  | 0x05E => if fn = 0 then some 0x09610000 else capHeader fn (4 * register)
  | 0x106 => if fn = 0 then some 0x100 else capHeader fn (4 * register)
  | 0x11B => if fn = 0 then some 0x0102 else capHeader fn (4 * register)
  | 0x11C => if fn = 0 then some 0 else capHeader fn (4 * register)
  | 0x11D => if fn = 0 then some 0x10302 else capHeader fn (4 * register)
  | 0x11E => if fn = 0 then some 0 else capHeader fn (4 * register)
  | 0x05B => if fn = 0 then some 0x00040004 else capHeader fn (4 * register)
  | 0x05D => if fn = 0 then some 0x00010001 else capHeader fn (4 * register)
  | _ =>
    if fn ≠ 0 ∧ (barSize register).isSome ∧ register < 8 then some 0
    else if fn = 0 ∧ 0x063 ≤ register ∧ register ≤ 0x066 then some 0
    else capHeader fn (4 * register)

/-- Registers that reflect state: PMCSR (0x044), SR-IOV Control (0x168), NumVFs (0x170), UIO Request Enable, and Memory
Active of the memory range, 1 TiB, that the CXL device DVSEC describes. Assumption log 40 (PRESUMED). -/
def State.liveConfig (s : State) (fn register : Nat) : Option W32 :=
  match register with
  | 0x011 => if fn = 0 then some (BitVec.ofNat 32 (8 + 3 * boolNat (vget false s.host.d3 0))) else none
  | 0x05A => if fn = 0 then some (BitVec.ofNat 32 (boolNat s.host.vfEnable)) else none
  | 0x05C => if fn = 0 then some (BitVec.ofNat 32 s.host.numVfs.toNat) else none
  | 0x022 => if fn = 0 then some (BitVec.ofNat 32 (boolNat s.host.uioEnable)) else none
  | 0x107 =>
    if fn = 0 then
      some (BitVec.ofNat 32 ((Config.configWord 0 0x107).toNat / 4 % 2 ^ 26 * 4 + 2 * boolNat s.host.memActive + 1))
    else none
  | _ => none

/-- A configuration read. Assumption log 14 (DESIGN CHOICE), 40 (PRESUMED). -/
def State.configRead (s : State) (fn register : Nat) : W32 :=
  match fixedConfig fn register with
  | some v => v
  | none =>
    match s.liveConfig fn register with
    | some v => v
    | none =>
      let v := (Table.get none s.host.config (fn * 1024 + register)).getD (Config.configWord fn register)
      match (if fn = 0 then barSize register else none) with
      | some n => if n = 0 then v else BitVec.ofNat 32 (v.toNat / 2 ^ n * 2 ^ n + 4)
      | none => v

/-- A configuration write. -/
def State.configWrite (s : State) (fn register : Nat) (v : W32) : State :=
  let h := s.host
  if (fixedConfig fn register).isSome then s
  else if fn = 0 ∧ register = 0x011 then
    { s with host := { h with d3 := vset h.d3 0 (decide (v.toNat % 4 = 3)) } }
  else if fn = 0 ∧ register = 0x05A then { s with host := { h with vfEnable := v.getLsbD 0 } }
  else if fn = 0 ∧ register = 0x05C then
    (if h.vfEnable then s else { s with host := { h with numVfs := BitVec.ofNat 16 (min 4 (v.toNat % 65536)) } })
  else if fn = 0 ∧ register = 0x022 then { s with host := { h with uioEnable := v.getLsbD 0 } }
  else { s with host := { h with config := Table.set none h.config (fn * 1024 + register) (some v) } }

/-- CONFIGURATION_REQUEST. -/
def execConfigurationRequest (fn register : Nat) (access : CfgAccess) (s : State) : Out :=
  .next <|
    match s.barredConfig fn, access with
    | some r, _ => s.say r
    | none, .read => s.say (.bytes (w32 (s.configRead fn register)))
    | none, .write v => (s.configWrite fn register v).say .ok

/-- D3HOT_ENTRY: the function's BARs stop decoding, and nothing else changes (R445). -/
def execD3hotEntry (fn : Nat) (s : State) : Out :=
  .next <| if s.portAwake ∧ s.host.configDone ∧ s.vfThere fn then
      { s with host := { s.host with d3 := vset s.host.d3 fn true } }
    else s

/-- HDM_DECODER_COMMIT, a write of BAR2 (R452). -/
def execHdmDecoderCommit (range : HdmRange) (ways : Nat) (stream : Option Nat) (s : State) : Out :=
  .next <|
    match s.barred 0 stream with
    | some r => s.say r
    | none => s.commitDecoder range.base range.size ways

/-! ### The ciphertext window, R363 -/

/-- Bytes that the manual does not fix, for the `n`-th read. -/
def freeBytes (n a len : Nat) : Bytes := (List.range len).map fun k => Config.metadataByte n (a + k)

/-- R348: the level and index of the node at a channel physical address of the tree region. -/
def nodeAt (a : Nat) : Item :=
  let lv := (treeBase.filter (· ≤ a)).length
  (lv, (a - treeBase.getD (lv - 1) 0) / 64)

/-- R330, R331, R363: the stored line at a channel physical address: none when its code finds it uncorrectable. What the
firmware reserve and its metadata hold is free. Assumption log 15 (DESIGN CHOICE). -/
def State.hdmLine (s : State) (n c a : Nat) : Option Bytes :=
  let sp := Space.hbm c
  let ch := s.chan sp
  let shown := fun (reserve : Bool) (l : LineCond) (b : Bytes) =>
    if l = .uncorrectable then none else some (if reserve then freeBytes n (c * 2 ^ 34 + a) 64 else b)
  if a < 0x380000000 then
    shown (decide (userPages ≤ a / 4096)) (Table.get .good ch.lines (a / 64))
      (((s.storedLine sp (a / 64)).map (·.1)).getD (s.rawBytes sp a 64))
  else if a < 0x3F0000000 then
    let t := (a - 0x380000000) / 64
    shown (decide (userPages ≤ t / 8)) (Table.get .good ch.tagLines t)
      ((taggedBy t).map fun l => ((s.storedLine sp l).map (·.2)).getD (s.rawBytes sp (s.tagAddr sp l) 8)).flatten
  else if a < 0x3FE000000 then
    let p := (a - 0x3F0000000) / 64
    shown (decide (userPages ≤ p)) (Table.get .good ch.groups p) (s.rawBytes sp a 64)
  else
    let q := nodeAt a
    shown (overReserve sp q) (Table.get .good ch.nodes q.key) (s.rawBytes sp a 64)

/-- The host's copy of a line is tracked; a full filter sheds its oldest line first (R453). -/
def State.track (s : State) (a : Nat) : State :=
  let h := s.host
  if h.filter.contains a then s
  else
    let h := if 65536 ≤ h.filter.length then
        { h with dirty := h.dirty.filter (h.filter.head? ≠ some ·), filter := h.filter.drop 1, biSent := satAdd h.biSent 1 }
      else h
    { s with host := { h with filter := h.filter ++ [a] } }

/-- HDM_READ of a 64-byte line of the window. Assumption log 83 (DESIGN CHOICE). -/
def execHdmRead (off : Nat) (s : State) : Out :=
  if 2 ^ 40 ≤ off then .fault .noSuchAddress
  else
    .next <|
      if ¬ s.portAwake then s.say .noLink
      else if ¬ s.host.configDone then s.say .none
      else if ¬ s.host.decoder.committed then s.say .unsupported
      else if ¬ s.host.memActive ∨ s.host.ideMem = .lost then s.say .poison
      else
        let a := off / 64 * 64
        let (n, s) := s.draw
        match s.hdmLine n (a / 2 ^ 34) (a % 2 ^ 34) with
        | some b => (s.track a).say (.bytes b)
        | none => (s.track a).say .poison

/-- R454: a write that carries data changes nothing but HDM_WR_DROP. -/
def State.dropWrite (s : State) : State := ({ s with host := { s.host with wrDrop := satAdd s.host.wrDrop 1 } } : State).say .ok

/-- HDM_WRITE. Assumption log 83 (DESIGN CHOICE). -/
def execHdmWrite (off : Nat) (data : Bytes) (s : State) : Out :=
  if 2 ^ 40 ≤ off then .fault .noSuchAddress
  else
    .next <|
      if ¬ s.portAwake then s.say .noLink
      else if ¬ s.host.configDone then s.say .none
      else if ¬ s.host.decoder.committed then s.say .unsupported
      else if data.isEmpty then s.say .ok
      else s.dropWrite

/-- BIRSP: an answer to a back-invalidation; data it carries are dropped. Assumption log 83 (DESIGN CHOICE). -/
def execBirsp (off : Nat) (data : Bytes) (s : State) : Out :=
  if 2 ^ 40 ≤ off then .fault .noSuchAddress
  else 
    .next <|
      if ¬ s.portAwake then s.say .noLink
      else if ¬ s.host.configDone then s.say .none
      else if data.isEmpty then s.say .ok
      else s.dropWrite

/-- BISNPINV: the oldest tracked line that the module has written is back-invalidated. -/
def execBisnpinv (s : State) : Out :=
  .next <|
    match s.host.dirty with
    | a :: rest =>
      if s.portAwake then
        { s with host := { s.host with dirty := rest, filter := s.host.filter.filter (· ≠ a), biSent := satAdd s.host.biSent 1 } }
      else s
    | [] => s

/-- H2D_SNOOP: the device holds no host line, and answers RspIHitI (R449). -/
def execH2dSnoop (_address : Nat) (s : State) : Out := 
  .next (s.say (if ¬ s.portAwake then .noLink else if ¬ s.host.configDone then .none else .snoopMiss))

/-! ### IDE and CDAT -/

/-- A stream's state, replaced. -/
def HostPort.setIde (h : HostPort) (st : IdeStream) (x : IdeState) : HostPort :=
  match st with
  | .link => { h with ideLink := x }
  | .selective n => { h with ideSel := vset h.ideSel n x }
  | .cachemem => { h with ideMem := x }

def HostPort.ide (h : HostPort) : IdeStream → IdeState
  | .link => h.ideLink
  | .selective n => vget .never h.ideSel n
  | .cachemem => h.ideMem

/-- IDE_KM makes a stream Secure. -/
def execIdeKm (st : IdeStream) (s : State) : Out :=
  .next <|
    if s.portAwake ∧ s.host.configDone ∧ (s.host.spdm.any fun q => q.fn = 0) then
      { s with host := s.host.setIde st .secure }
    else s

/-- IDE_SECURE_LOST: an integrity failure takes a Secure stream out of that state. Assumption log 41 (DEDUCED). -/
def execIdeSecureLost (st : IdeStream) (s : State) : Out :=
  .next <|
    if s.host.ide st = .secure then
      { s with host := { s.host.setIde st .lost with ideFail := satAdd s.host.ideFail 1 } }
    else s

/-- R460: one device memory range of 1,024 GiB, read at 112 GB/s and never written. -/
def cdatBody : Bytes :=
  let bandwidth := fun (kind value : Nat) =>
    le 1 1 ++ zeros 1 ++ le 2 24 ++ le 1 0 ++ zeros 1 ++ le 1 kind ++ zeros 1 ++ le 8 1000 ++ le 2 value ++ zeros 6
  le 1 0 ++ zeros 1 ++ le 2 24 ++ zeros 4 ++ le 8 0 ++ le 8 (2 ^ 40) ++ bandwidth 4 112 ++ bandwidth 5 0

/-- CDAT_READ: a header, then the structures. -/
def execCdatRead (s : State) : Out :=
  .next <|
    if s.portAwake ∧ s.host.configDone then
      let h := le 4 (16 + cdatBody.length) ++ [1]
      let sum := ((h ++ cdatBody).map BitVec.toNat).sum
      s.say (.bytes (h ++ le 1 (256 - sum % 256) ++ zeros 10 ++ cdatBody))
    else s.say (if s.portAwake then .none else .noLink)

end Sys2Proof.Machine
end

