-- ==== Sys2Proof/Machine/Module.lean ====
section
/-! DEFINITION. Module commands and the commands any party may send: host windows (R448, R483), far targets (R455, R483),
port configuration (R245, R246), port and time reads (R247, R295), LINK_RESET (R250) and the attestation report (R413 to
R418). -/

namespace Sys2Proof.Machine

/-! ### Host windows -/

/-- Two byte ranges share a byte. -/
def rangesMeet (a n b m : Nat) : Bool := decide (a < b + m ∧ b < a + n)

/-- OWNER of a window: a session, or the module. -/
def windowOwner (o : Nat) : Option Nat := if o < 4 then some o else none

/-- The form of a HOST_WINDOW request. A withdrawal names its window alone. -/
def windowForm (b : Bytes) : Bool :=
  bodyForm b 24 [(4, 4)] && decide ((u8 b 0).toNat < 2 ∧ (u8 b 1).toNat < 32 ∧ (u8 b 2).toNat < 2) &&
    (decide ((u8 b 3).toNat < 4) || u8 b 3 = 0xFF)

/-- R483, R448: a grant. -/
def State.grantWindow (s : State) (b : Bytes) : State × Option Resp :=
  let n := (u8 b 1).toNat
  let w : HostWindow := ⟨u8 b 2 = 1, windowOwner (u8 b 3).toNat, fieldAt b 8 8, fieldAt b 16 8⟩
  if ¬ windowForm b ∨ w.base % 4096 ≠ 0 ∨ w.size % 4096 ≠ 0 ∨ w.size = 0 ∨ 2 ^ 64 < w.base + w.size ∨
      (s.host.windows.any fun e =>
        e.1 = n || rangesMeet e.2.base e.2.size w.base w.size || (!w.objects && !e.2.objects && decide (e.2.owner = w.owner)))
  then (s, Resp.of stRefused)
  else ({ s with host := { s.host with windows := s.host.windows ++ [(n, w)] } }, Resp.of stOk)

/-- R483, R450: a withdrawal. -/
def State.withdrawWindow (s : State) (b : Bytes) : State × Option Resp :=
  let n := (u8 b 1).toNat
  if ¬ bodyForm b 24 [(4, 4)] ∨ ¬ s.host.windows.any (·.1 = n) then (s, Resp.of stRefused)
  else ({ s with host := { s.host with windows := s.host.windows.filter (·.1 ≠ n) } }, Resp.of stOk)

/-- HOST_WINDOW, OP 0 (or malformed). -/
def execHostWindowGrant (mb : Nat) (s : State) : Out :=
  .next <| s.serve mb 0x0010 .host .work (fun b => u8 b 0 ≠ 1) fun s r => s.grantWindow r.body

/-- HOST_WINDOW, OP 1. -/
def execHostWindowWithdraw (mb : Nat) (s : State) : Out :=
  .next <| s.serve mb 0x0010 .host .work (fun b => u8 b 0 = 1) fun s r => s.withdrawWindow r.body

/-! ### Far targets -/

/-- R455: bytes of all far targets. -/
def State.farBytes (s : State) : Nat := (s.host.targets.map fun t => t.2.2).sum

/-- R483, R455: a grant. -/
def State.grantTarget (s : State) (b : Bytes) : State × Option Resp :=
  let n := (u8 b 1).toNat
  let base := fieldAt b 8 8
  let size := fieldAt b 16 8
  if ¬ bodyForm b 24 [(2, 6)] ∨ u8 b 0 ≠ 0 ∨ 16 ≤ n ∨ base % 2 ^ 30 ≠ 0 ∨ size % 2 ^ 30 ≠ 0 ∨ size = 0 ∨
      2 ^ 64 < base + size ∨ 2 ^ 44 < s.farBytes + size ∨
      (s.host.targets.any fun t => t.1 = n || rangesMeet t.2.1 t.2.2 base size)
  then (s, Resp.of stRefused)
  else ({ s with host := { s.host with targets := s.host.targets ++ [(n, base, size)] } }, Resp.of stOk)

/-- R483: a withdrawal, refused while an open session's far range lies in the target. -/
def State.withdrawTarget (s : State) (b : Bytes) : State × Option Resp :=
  let n := (u8 b 1).toNat
  if ¬ bodyForm b 24 [(2, 6)] ∨ ¬ s.host.targets.any (·.1 = n) ∨ (s.anySession fun x => x.farParts.any (·.1 = n)) then
    (s, Resp.of stRefused)
  else ({ s with host := { s.host with targets := s.host.targets.filter (·.1 ≠ n) } }, Resp.of stOk)

/-- FAR_TARGET, OP 0 (or malformed). -/
def execFarTargetGrant (mb : Nat) (s : State) : Out :=
  .next <| s.serve mb 0x0011 .host .work (fun b => u8 b 0 ≠ 1) fun s r => s.grantTarget r.body

/-- FAR_TARGET, OP 1. -/
def execFarTargetWithdraw (mb : Nat) (s : State) : Out :=
  .next <| s.serve mb 0x0011 .host .work (fun b => u8 b 0 = 1) fun s r => s.withdrawTarget r.body

/-! ### Ports -/

/-- R246: write a port's configuration. BOUND and SESSION are read-only; PEER_RANK and PEER_PORT keep their values once
locked. ENABLE trains a bound port that did not run, and clearing it disables the port. -/
def Port.configure (q : Port) (rec_ : Bytes) : Port :=
  let w0 := fieldAt rec_ 0 4
  let w1 := fieldAt rec_ 4 4
  let en := bitOf w0 0
  let r : Port := { q with
    enable := en
    peerRank := if q.peerLocked then q.peerRank else BitVec.ofNat 11 (bitsOf w0 14 4)
    peerPort := if q.peerLocked then q.peerPort else BitVec.ofNat 5 (bitsOf w0 19 15)
    loopback := bitOf w0 20
    txPolarity := BitVec.ofNat 8 (bitsOf w1 7 0)
    rxPolarity := BitVec.ofNat 8 (bitsOf w1 15 8)
    txPreset := BitVec.ofNat 3 (bitsOf w1 18 16) }
  if ¬ q.bound ∨ en = q.enable then r
  else if en then { r with state := .training, lanes := 0 }
  else { r with state := .disabled, lanes := 0 }

/-- The form of a LINK_CONFIG request. Reserved bits of the record are zero (R17).
Assumption log 48 and 49 (DEDUCED). -/
def linkForm (b : Bytes) : Bool :=
  bodyForm b 16 [(2, 6)] && decide ((u8 b 0).toNat < 18 ∧ (u8 b 1).toNat < 2) &&
    bitsAt b 8 4 31 21 = 0 && bitsAt b 12 4 31 19 = 0

/-- R395, R479, R480: an unbound port is configured by host software, a bound one by its session's parties.
Assumption log 48 (DEDUCED). -/
def State.linkRight (s : State) (r : Req) (p : Nat) : Status :=
  let q := s.port p
  if q.bound then
    (if ¬ r.isSealed then stBadEnvelope else if q.session.toNat = r.session then stOk else stRefused)
  else if r.isSealed then stRefused else stOk

/-- LINK_CONFIG's effect. Assumption log 48 (DEDUCED). -/
def State.linkConfig (s : State) (write : Bool) (r : Req) : State × Option Resp :=
  let p := (u8 r.body 0).toNat
  if ¬ linkForm r.body then (s, Resp.of stRefused)
  else if s.linkRight r p ≠ stOk then (s, Resp.of (s.linkRight r p))
  else
    let s := if write then s.onPort p fun q => q.configure (slice r.body 8 8) else s
    (s, Resp.ok (s.port p).config)

/-- LINK_CONFIG, OP 0 (or malformed). Assumption log 60 (DEDUCED). -/
def execLinkConfigRead (mb : Nat) (s : State) : Out :=
  .next <| s.serve mb 0x0020 .link .reads (fun b => u8 b 1 ≠ 1) fun s r => s.linkConfig false r

/-- LINK_CONFIG, OP 1. -/
def execLinkConfigWrite (mb : Nat) (s : State) : Out :=
  .next <| s.serve mb 0x0020 .link .work (fun b => u8 b 1 = 1) fun s r => s.linkConfig true r

/-- PORT_STATUS0: word 0 of a port's status record. -/
def execPortStatus0 (mb : Nat) (s : State) : Out :=
  .next <| s.serve mb 0x0021 .either .reads anyBody fun s r =>
    if r.body.length ≠ 1 ∨ 18 ≤ (u8 r.body 0).toNat then (s, Resp.of stRefused)
    else (s, Resp.ok (s.port (u8 r.body 0).toNat).word0)

/-- TIME_READ: words 0 to 7 of the timebase registers, both halves of NOW of one instant. -/
def execTimeRead (mb : Nat) (s : State) : Out :=
  .next <| s.serve mb 0x0022 .either .reads anyBody fun s r =>
    if r.body ≠ [] then (s, Resp.of stRefused)
    else (s, Resp.ok (slice (s.time.words (BitVec.ofNat 32 (s.now / 2 ^ 32))) 0 32))

/-- LINK_RESET: a RESET flit to the far end of a port; the mailbox completes with the flit's acknowledgement.
Assumption log 51 (DEDUCED). -/
def execLinkReset (mb : Nat) (s : State) : Out :=
  .next <| s.serve mb 0x0023 .sealed .work anyBody fun s r =>
    let p := (u8 r.body 0).toNat
    let q := s.port p
    if ¬ bodyForm r.body 4 [(1, 3)] ∨ 18 ≤ p ∨ ¬ q.bound ∨ q.session.toNat ≠ r.session ∨ ¬ q.runs then
      (s, Resp.of stRefused)
    else
      let f : OutFlit := ⟨5, q.peerRank.toNat, (s.session r.session).rank, false, false, zeros 8 ++ w64 s.time.now,
        s.linkGen r.session, none⟩
      (s.setPort p { q with control := q.control ++ [f], resetMbs := q.resetMbs ++ [r.mb] }, none)

/-- RESET flits of this member among the oldest `k` flits not acknowledged. Assumption log 51 (DEDUCED). -/
def Port.resetsIn (q : Port) (rank k : Nat) : Nat := ((q.unacked.take k).filter fun e => e.2.type = 5 && e.2.src = rank).length

/-- R250: LINK_RESETs whose flits the far end has acknowledged complete, and the port treats its peer as lost. -/
def State.resetsDone (s : State) (p n : Nat) : State :=
  if n = 0 then s
  else
    let l := (s.port p).resetMbs
    ((l.take n).foldl (fun s mb => s.respondLate mb ⟨stOk, 0, []⟩) s).onPort p fun q =>
      { q.down 2 with resetMbs := q.resetMbs.drop n }

/-- R250, R254: an ACK or a NAK that names a SEQ acknowledges the flits before it, and an ACK that flit too. -/
def State.acknowledged (s : State) (p : Nat) (nak : Bool) (seq : BitVec 12) : State :=
  let q := s.port p
  match q.winPos seq with
  | some k =>
    (s.setPort p (if nak then q.naked seq else q.acked seq)).resetsDone p
      (q.resetsIn (s.session q.session.toNat).rank (if nak then k else k + 1))
  | none => s

/-- ACK. Assumption log 51 (DEDUCED). -/
def execAck (p : Nat) (block : Bytes) (s : State) : Out :=
  .next <| match s.takeAck p 1 block with
    | (s, some seq) => s.acknowledged p false seq
    | (s, none) => s

/-- NAK. -/
def execNak (p : Nat) (block : Bytes) (s : State) : Out :=
  .next <| match s.takeAck p 2 block with
    | (s, some seq) => s.acknowledged p true seq
    | (s, none) => s

/-! ### The attestation report -/

/-- DER: a length. -/
def derLength (n : Nat) : Bytes :=
  if n < 128 then le 1 n else if n < 256 then 0x81 :: le 1 n else if n < 65536 then 0x82 :: be 2 n else 0x83 :: be 3 n

/-- DER: an element. -/
def der (tag : Byte) (b : Bytes) : Bytes := tag :: derLength b.length ++ b

/-- A field of a certificate that the manual leaves to X.509 and the authority. -/
def certField (gen k f : Nat) : Bytes := (List.range (Config.certLength k f)).map (Config.certByte gen k f)

/-- The ML-DSA-87 public key (R418). -/
def pqKey (gen : Nat) : Bytes := (List.range 2592).map (Config.pqPublic gen)

/-- R418: the attestation certificate's subject key: the RSA-4096 attestation public key. -/
def attestSpki (gen : Nat) : Bytes :=
  der 0x30 (der 0x30 ([0x06, 0x09, 0x2A, 0x86, 0x48, 0x86, 0xF7, 0x0D, 0x01, 0x01, 0x01, 0x05, 0x00]) ++
    der 0x03 (0 :: der 0x30 (der 0x02 (0 :: be 512 (2 ^ 4095 + (Config.attestModulus gen).toNat)) ++
      der 0x02 (certField gen 3 8))))

/-- R418: a DER X.509 v3 certificate: 0 the root, 1 the product authority, 2 the device identity, 3 the attestation key's,
which carries its ML-DSA-87 public key in an extension. -/
def certificate (gen k : Nat) : Bytes :=
  let algorithm := der 0x30 (certField 0 k 3)
  let name := fun (k : Nat) => der 0x30 (certField 0 k 0)
  let key := if k = 3 then attestSpki gen else der 0x30 (certField 0 k 4)
  let pq := if k = 3 then der 0x30 (der 0x06 (certField 0 3 6) ++ der 0x04 (pqKey gen)) else []
  der 0x30
    (der 0x30 (der 0xA0 (der 0x02 [2]) ++ der 0x02 (certField gen k 2) ++ algorithm ++ name (k - 1) ++
        der 0x30 (certField gen k 1) ++ name k ++ key ++ der 0xA3 (der 0x30 (certField gen k 5 ++ pq))) ++
      algorithm ++ der 0x03 (0 :: certField gen k 7))

/-- R418, R423: the certificate chain, root first: three certificates that stand and the attestation certificate, issued
anew with its key. Assumption log 13 (DESIGN CHOICE). -/
def State.chain (s : State) : Bytes := certificate 0 0 ++ certificate 0 1 ++ certificate 0 2 ++ certificate s.lc.attestGen 3

/-- R416: a signature under the attestation key. -/
def State.attestSign (s : State) (m salt : Bytes) : Bytes :=
  Crypto.pssSign (Config.attestModulus s.lc.attestGen) (Config.attestExponent s.lc.attestGen) m salt

/-- R417: an ML-DSA-87 signature in the pure form: FIPS 204 prefixes the message with 0 and the length, 0, of its context.
Assumption log 13 (DESIGN CHOICE). -/
def State.pqSign (s : State) (m hedge : Bytes) : Bytes :=
  (List.range 4627).map (Config.pqSignature s.lc.attestGen hedge (0 :: 0 :: m))

/-- Bytes 0 to 639 but for FLAGS and REPORT_LEN's values as given. -/
def State.reportHead (s : State) (flags len : Nat) (nonce : Bytes) : Bytes :=
  ascii "LSVATST1" ++ le 2 1 ++ le 2 flags ++ le 4 len ++ slice nonce 0 64 ++ w64 s.time.now ++
    (List.range 16).map Config.serial ++ le 1 s.lcState ++ zeros 3 ++ w32 s.fuses.fwFloor ++ w32 s.fuses.rootRev ++
    zeros 4 ++ w64 s.fw.version ++ padTo 512 s.fw.digests.flatten

/-- Bytes 640 to 2,119 for a session. -/
def State.reportSession (s : State) (i : Nat) : Bytes :=
  let x := s.session i
  let flags := boolNat x.isConsignment + 2 * boolNat x.noiseEn + 4 * boolNat x.mem.quarantined + 8 * boolNat x.mem.readOnly +
    16 * boolNat x.weightsDone
  let kernel := match x.kernel with | some k => k.digest | none => zeros 64
  let plan := match x.plan with | some p => padTo 64 p.digest ++ le 8 p.bytes | none => zeros 72
  let exportFp := if (s.slotKey i .exportKey).isEmpty then zeros 64 else Crypto.fingerprint (s.slotKey i .exportKey)
  le 1 i ++ le 1 x.state.code ++ le 1 x.parties ++ le 1 flags ++ w16 x.joined ++ w16 x.removed ++ w32 x.sealRec.step ++
    w32 x.mem.keyEpoch ++ padTo 64 x.configDigest ++ slice x.config 576 64 ++ kernel ++ plan ++ w64 x.epoch ++ exportFp ++
    padTo 64 x.manifest ++ le 1 ((List.range 64).filter fun n => s.lanes.getLsbD n).length ++ zeros 3 ++
    slice x.config 36 8 ++ zeros 4 ++ w64 x.upd.noiseElem ++ w64 x.upd.noiseSteps ++ zeros 8 ++ slice x.config 640 1024

/-- The session section, or SESSION 0xFF and zeros. -/
def State.reportMiddle (s : State) : Option Nat → Bytes
  | some i => s.reportSession i
  | none => padTo 1480 [0xFF]

/-- The loaded lists of a session in ascending slot, 68 bytes each. -/
def State.reportLists (s : State) : Option Nat → Bytes
  | some i =>
    let l := (s.session i).lists.insertionSort fun a b => a.1 ≤ b.1
    (l.map fun e => le 1 e.1 ++ zeros 3 ++ padTo 64 e.2.digest).flatten
  | none => []

/-- SIGNED_LEN: the next multiple of 8. -/
def roundUp8 (n : Nat) : Nat := (n + 7) / 8 * 8

/-- R414: the signed part of a report. -/
def State.reportSigned (s : State) (named : Option Nat) (pq : Bool) (nonce : Bytes) : Bytes :=
  let lists := s.reportLists named
  let chain := s.chain
  let chainOff := 2144 + lists.length
  let signed := roundUp8 (chainOff + chain.length)
  let len := signed + (if pq then 5139 else 512)
  padTo signed <|
    s.reportHead (boolNat pq + 2 * boolNat named.isSome) len nonce ++ s.reportMiddle named ++ le 2 (lists.length / 68) ++
      zeros 2 ++ le 4 2144 ++ le 4 chainOff ++ le 4 chain.length ++ le 4 signed ++ zeros 4 ++ lists ++ chain

/-- R414, R416, R417: a report with its signatures, for a salt and a hedge. Assumption log 50 (DEDUCED). -/
def State.report (s : State) (named : Option Nat) (pq : Bool) (nonce salt hedge : Bytes) : Bytes :=
  let m := s.reportSigned named pq nonce
  m ++ s.attestSign m salt ++ (if pq then s.pqSign m hedge else [])

/-- Whole lines of 64 bytes (R449). Assumption log 50 (DEDUCED). -/
def wholeLines (b : Bytes) : Bytes := padTo ((b.length + 63) / 64 * 64) b

/-- ATTEST_REPORT's effect (R413, R422, R423, R482). Assumption log 50 (DEDUCED). -/
def State.attest (s : State) (r : Req) : State × Option Resp :=
  let b := r.body
  let named := windowOwner (u8 b 64).toNat
  let addr := fieldAt b 72 8
  if ¬ bodyForm b 80 [(66, 6)] ∨ ¬ ((u8 b 64).toNat < 4 ∨ u8 b 64 = 0xFF) ∨ 2 ≤ (u8 b 65).toNat ∨ addr % 64 ≠ 0 then
    (s, Resp.of stRefused)
  else if s.lcState ≠ 2 ∨ ¬ s.lc.attestKeys then (s, Resp.of stLocked)
  else
    let (salt, t) := s.random 64
    let (hedge, t) := t.random 32
    let out := s.report named (u8 b 65 = 1) (slice b 0 64) salt hedge
    let lines := wholeLines out
    if ¬ s.windowOk true (if r.isSealed then some r.session else none) addr lines.length then (s, Resp.of stRefused)
    else if ¬ s.cacheReady then (s, Resp.of stNotReady)
    else (t.hostStore addr lines, Resp.ok (le 4 out.length))

/-- ATTEST_REPORT. Assumption log 50 (DEDUCED). -/
def execAttestReport (mb : Nat) (s : State) : Out := .next (s.serve mb 0x0040 .either .reads anyBody State.attest)

end Sys2Proof.Machine
end

