-- ==== Sys2Proof/Machine/Weights.lean ====
section
/-! DEFINITION. The weight plan and its digest (R399 to R401), ingestion (R398, R450, R451) and the timeouts of transfers
that wait on the host (R451). -/

namespace Sys2Proof.Machine

/-! ### The weight plan -/

/-- Ranges that start in ascending order reach from `lo` without a gap up to the answer. -/
def coverFrom (l : List (Nat × Nat)) (lo : Nat) : Nat :=
  (l.insertionSort fun a b => a.1 ≤ b.1).foldl (fun e r => if r.1 ≤ e then max e r.2 else e) lo

/-- The ranges cover `lo` to `hi`. -/
def covers (l : List (Nat × Nat)) (lo hi : Nat) : Bool := decide (hi ≤ coverFrom l lo)

/-- Address range of a tensor. -/
def PlanTensor.range (t : PlanTensor) : Nat × Nat := (t.addr.toNat, t.addr.toNat + t.length.toNat)

/-- The entries of a WEIGHT_PLAN request. -/
def planTensors (b : Bytes) : List PlanTensor :=
  (List.range (fieldAt b 0 4)).map fun k => ⟨u32 b (8 + 32 * k), u64 b (16 + 32 * k), u64 b (24 + 32 * k)⟩

/-- R399: no two of a list of tensors share an identifier or a byte. -/
def tensorsApart : List PlanTensor → Bool
  | [] => true
  | t :: ts =>
    (ts.all fun u => t.id ≠ u.id && (t.length = 0 || u.length = 0 ||
      !rangesMeet t.addr.toNat t.length.toNat u.addr.toNat u.length.toNat)) && tensorsApart ts

/-- The form of a WEIGHT_PLAN request. Assumption log 53 (DEDUCED). -/
def planForm (b : Bytes) : Bool :=
  let n := fieldAt b 0 4
  decide (1 ≤ n ∧ n ≤ 250) && zeroRange b 4 4 && b.length = 8 + 32 * n &&
    (List.range n).all fun k => zeroRange b (12 + 32 * k) 4 && zeroRange b (32 + 32 * k) 8

/-- R399: every tensor lies in copy 0 of the parameter region. -/
def Session.planFits (x : Session) (l : List PlanTensor) : Bool :=
  l.all fun t => decide (x.paramBase ≤ t.range.1 ∧ t.range.2 ≤ x.paramBase + x.paramSize)

/-- WEIGHT_PLAN's effect. Assumption log 53 (DEDUCED). -/
def State.planWeights (s : State) (r : Req) : State × Option Resp :=
  let x := s.session r.session
  let l := (if planForm r.body then planTensors r.body else []).insertionSort fun a b => a.id.toNat ≤ b.id.toNat
  if r.party ≠ x.weightParty ∨ ¬ planForm r.body ∨ x.state ≠ .ready ∨ x.plan.isSome ∨ ¬ x.planFits l ∨ ¬ tensorsApart l then
    (s, Resp.of stRefused)
  else
    let n := (l.map fun t => t.length.toNat).sum
    (s.onSession r.session fun x => { x with plan := some ⟨l, n, [], [], []⟩ }, Resp.ok (le 8 n))

/-- WEIGHT_PLAN. -/
def execWeightPlan (mb : Nat) (s : State) : Out := .next (s.serve mb 0x0104 .sealed .work anyBody State.planWeights)

/-! ### The digest, R400, R401 -/

/-- One level of the pairwise tree: an odd last entry rises unchanged. -/
def digestLevel : List Bytes → List Bytes
  | a :: b :: t => Crypto.sha512 ([1] ++ a ++ b) :: digestLevel t
  | l => l

/-- Fold the leaves; `fuel` bounds the levels. -/
def digestRoot : Nat → List Bytes → Bytes
  | 0, l => l.headD []
  | fuel + 1, l => if l.length ≤ 1 then l.headD [] else digestRoot fuel (digestLevel l)

/-- R400: the root over the leaves of a stream. -/
def leafRoot (leaves : List Bytes) : Bytes := digestRoot leaves.length leaves

/-- R400: the leaf of a chunk. -/
def leafOf (chunk : Bytes) : Bytes := Crypto.sha512 (0 :: chunk)

/-- Address ranges of the bytes `lo` to `hi` of the stream of some tensors. -/
def streamRanges : List PlanTensor → Nat → Nat → List (Nat × Nat)
  | [], _, _ => []
  | t :: ts, lo, hi =>
    let n := t.length.toNat
    (if lo < min hi n then [(t.addr.toNat + lo, t.addr.toNat + min hi n)] else []) ++ streamRanges ts (lo - n) (hi - n)

/-- Chunks of the weight stream. -/
def WeightPlan.chunks (p : WeightPlan) : Nat := (p.bytes + 1048575) / 1048576

/-- Address ranges of chunk `k` of the stream. -/
def WeightPlan.chunkAt (p : WeightPlan) (k : Nat) : List (Nat × Nat) :=
  streamRanges p.tensors (1048576 * k) (1048576 * (k + 1))

/-- Plaintext of session HBM as the hash engines saw it written. -/
def State.plainHbm (s : State) (i a len : Nat) : Bytes :=
  ((linesOf a len).map fun q =>
    match (s.session i).locate (64 * q.1 + q.2.1) with
    | some (_, c, cpa) => memLoad (s.chan (.hbm c)).data cpa q.2.2
    | none => zeros q.2.2).flatten

/-- R401: a chunk whose last byte has just been written is hashed. Assumption log 53 (DEDUCED). -/
def State.hashChunks (s : State) (i : Nat) : State :=
  s.onSession i fun x =>
    { x with plan := x.plan.map fun p =>
        let new := (List.range p.chunks).filter fun k =>
          !(p.leaves.any fun e => e.1 = k) && (p.chunkAt k).all fun r => covers p.received r.1 r.2
        { p with leaves := p.leaves ++ new.map fun k =>
            (k, leafOf ((p.chunkAt k).map fun r => s.plainHbm i r.1 (r.2 - r.1)).flatten) } }

/-- Every byte of the plan has been ingested. -/
def WeightPlan.complete (p : WeightPlan) : Bool := p.tensors.all fun t => covers p.received t.range.1 t.range.2

/-- The leaves in the order of the stream. -/
def WeightPlan.leafList (p : WeightPlan) : List Bytes := (p.leaves.insertionSort fun a b => a.1 ≤ b.1).map (·.2)

/-- WEIGHT_DIGEST_ROOT. A stream of no bytes has no leaf, and the manual states no root of it: a free value.
Assumption log 53 (DEDUCED). -/
def execWeightDigestRoot (i : Nat) (s : State) : Out :=
  .next <|
    match (s.session i).plan with
    | some p =>
      if p.complete ∧ p.leaves.length = p.chunks ∧ p.digest.isEmpty then
        let set := fun (s : State) (d : Bytes) => s.onSession i fun x => { x with plan := some { p with digest := d } }
        if p.bytes = 0 then
          let (n, s) := s.draw
          set s ((List.range 8).map fun k => w64 (Config.freeWord (8 * n + k))).flatten
        else set s (leafRoot p.leafList)
      else s
    | none => s

/-! ### INGEST -/

/-- KEY_ID of an ingested object. -/
def Session.ingestKeyId (x : Session) (party : Nat) : Bytes :=
  slice (Crypto.fingerprint (Table.get [] x.ingestKeys party)) 0 16

/-- The header an ingested chunk must carry, with its own STEP and salt. -/
def Session.ingestHead (x : Session) (g : Ingest) (step : W32) (salt : Bytes) (k : Nat) : Bytes :=
  ascii "LSVINGT1" ++ le 2 1 ++ le 1 g.owner ++ [0] ++ le 4 k ++ le 4 (ckChunks g.length) ++
    le 4 (ckPayload g.length k) ++ w64 g.ingestId ++ w32 step ++ zeros 4 ++ le 8 g.length ++ x.ingestKeyId g.party ++ salt ++
    zeros 32

/-- R398, R375: chunk `k` is verified and written; what it wrote of the weight plan is noted. -/
def Job.ingestChunk (j : Job) (g : Ingest) (salt : Bytes) (k : Nat) : Job :=
  if j.live then
    let x := j.st.session j.sess
    let at_ := g.hostAddr + ckStride * k
    let n := ckPayload g.length k
    let a := g.memAddr + 1048576 * k
    let h := j.st.hostLoad at_ 128
    let want := x.ingestHead g (u32 h 32) salt k
    let good := slice h 0 11 = slice want 0 11 && slice h 12 20 = slice want 12 20 && slice h 40 56 = slice want 40 56
    let key := Crypto.hkdf (Table.get [] x.ingestKeys g.party) salt (ascii "LSV960-CKPT" ++ le 1 g.owner) 32
    if ¬ good then j.meet j.st stBadEnvelope
    else
      match Crypto.gcmOpen key (chunkNonce g.ingestId.toNat k) h (j.st.hostLoad (at_ + 128) n)
          (j.st.hostLoad (at_ + 128 + n) 16) with
      | some b =>
        let j := j.writeHbm a b
        if j.live then
          { j with st := (j.st.onSession j.sess fun x =>
              { x with plan := x.plan.map fun p => { p with received := (a, a + n) :: p.received } }).hashChunks j.sess }
        else j
      | none => j.meet j.st stBadEnvelope
  else j

/-- A job of the session outside any descriptor. -/
def State.plainJob (s : State) (i owner : Nat) : Job :=
  { st := s, sess := i, owner := owner, copies := (s.session i).resolution, inStep := false, through := false,
    status := stOk }

/-- R398, R450: a waiting ingest runs. Assumption log 52 (DEDUCED). -/
def State.runIngest (s : State) (i : Nat) (g : Ingest) : State :=
  let n := ckChunks g.length
  if ¬ s.windowOk true (some i) g.hostAddr (ckStride * n) then s.endIngests i (fun q => q.id = g.id) stRefused
  else
    let salt := s.hostLoad (g.hostAddr + 64) 32
    let j := (List.range n).foldl (fun j k => j.ingestChunk g salt k) (s.plainJob i g.owner)
    j.st.endIngests i (fun q => q.id = g.id) j.status

/-- R451: while the link is down an ingest waits. Assumption log 52 (DEDUCED). -/
def State.runIngests (s : State) : State :=
  if s.cacheReady then
    (List.range 4).foldl (fun s i => (s.session i).ingests.foldl (fun s g => s.runIngest i g) s) s
  else s

/-- An ingest as its request names it. -/
def ingestOf (r : Req) (id : Nat) (now : W64) : Ingest :=
  let b := r.body
  { id := id, party := r.party, owner := (u8 b 0).toNat, memAddr := fieldAt b 8 8, length := fieldAt b 16 8,
    hostAddr := fieldAt b 24 8, ingestId := u64 b 32, timeout := fieldAt b 4 2, acceptedAt := now }

/-- R398, R371: the form of an ingest. -/
def Session.ingestForm (x : Session) (b : Bytes) : Bool :=
  let o := (u8 b 0).toNat
  let a := fieldAt b 8 8
  let n := fieldAt b 16 8
  let r := x.region o
  bodyForm b 40 [(1, 3), (6, 2)] && (o = 31 || decide (o < x.parties)) && fieldAt b 4 2 ≠ 0 && n % 64 = 0 &&
    decide (64 ≤ n ∧ n ≤ 2 ^ 40) && a % 64 = 0 && fieldAt b 24 8 % 4096 = 0 && decide (r.1 ≤ a ∧ a + n ≤ r.1 + r.2)

/-- R387, R398: an ingest that touches the parameter region lies within the weight plan, in READY. -/
def Session.ingestPlanned (x : Session) (a n : Nat) : Bool :=
  !rangesMeet a n x.paramBase (2 * x.paramSize) ||
    (x.state = .ready &&
      match x.plan with
      | some p => covers (p.tensors.map PlanTensor.range) a (a + n)
      | none => false)

/-- R395: who may ingest for an owner. -/
def Session.ingestRight (x : Session) (party owner : Nat) : Bool :=
  if owner = 31 then party = x.weightParty else party = owner

/-- The same ingest, waiting already (R477). -/
def Ingest.repeats (g q : Ingest) : Bool := { g with id := 0, acceptedAt := 0 } = { q with id := 0, acceptedAt := 0 }

/-- R398: the identifier is greater than every one already accepted from the party. -/
def Session.ingestFresh (x : Session) (party : Nat) (id : W64) : Bool :=
  match Table.get none x.ingestIds party with
  | some last => decide (last.toNat < id.toNat)
  | none => true

/-- INGEST's effect: its acceptance. Assumption log 52 (DEDUCED). -/
def State.acceptIngest (s : State) (r : Req) : State × Option Resp :=
  let x := s.session r.session
  let b := r.body
  let id := (x.ingests.map fun g => g.id + 1).foldl max 0
  let g := ingestOf r id s.time.now
  if ¬ x.ingestForm b ∨ ¬ x.ingestRight r.party g.owner then (s, Resp.of stRefused)
  else if x.ingests.any g.repeats then (s, Resp.of stPending)
  else if ¬ x.ingestPlanned g.memAddr g.length then (s, Resp.of stRefused)
  else if ¬ x.ingestFresh r.party g.ingestId then (s, Resp.of stBadEnvelope)
  else
    match pendAdd x.pend (r.entry r.party (le 8 id)) with
    | none => (s, Resp.of stNoResource)
    | some l =>
      (s.setSession r.session
        { x with pend := l, ingests := x.ingests ++ [g], ingestIds := Table.set none x.ingestIds r.party (some g.ingestId) },
        Resp.of stPending)

/-- INGEST: a request is accepted, and whatever waits runs while the host can be reached.
Assumption log 52 (DEDUCED). -/
def execIngest (mb : Nat) (s : State) : Out :=
  .next (s.serve mb 0x0105 .sealed .work anyBody State.acceptIngest).runIngests

/-- OBJECT_TIMEOUT: object 2k is ingest k of the session; object 2k + 1 is the checkpoint transfer of context k mod 4 with
number k / 4. Assumption log 78 (DEDUCED). -/
def execObjectTimeout (i id : Nat) (s : State) : Out :=
  .next <|
    let x := s.session i
    let k := id / 2
    if id % 2 = 0 then
      match x.ingests.find? (·.id = k) with
      | some g =>
        if g.acceptedAt.toNat + ns (10000 * g.timeout) ≤ s.now then s.endIngests i (fun q => q.id = k) stTimeout else s
      | none => s
    else
      match x.op? (k % 4) (k / 4) with
      | some p =>
        if p.stage = .launched ∧ (p.code = opExport ∨ p.code = opImport) ∧ s.overdue p (fieldAt p.desc 44 2) then
          s.stopOp i p stTimeout
        else s
      | none => s

end Sys2Proof.Machine
end

