-- ==== Sys2Proof/Machine/Programs.lean ====
section
/-! DEFINITION. Session commands on programs and records: list and kernel loads (R86 to R88, R193, R194, R397), context start
and stop (R90, R97, R401, R592), scale records (R154, R155), the step seal's commands (R229, R486), and reads of session
records and tallies (R484). -/

namespace Sys2Proof.Machine

/-! ### Loads -/

/-- Bytes of session HBM. -/
def Session.hbmBytes (x : Session) : Nat := ((ownerOrder.map fun o => (x.region o).2)).sum

/-- R334, R88: descriptors the list store holds. -/
def Session.listRoom (x : Session) : Nat := min 1048576 ((268435456 * (x.channelsOf 31).length - 1048576) / 128)

/-- Descriptors loaded. -/
def Session.loaded (x : Session) : Nat := (x.lists.map fun l => l.2.descs.length).sum

/-- The number of the first entry that fails a check. Assumption log 54 (DEDUCED). -/
def firstBad {α : Type} (f : α → Bool) (l : List α) : Option Nat :=
  let n := (l.takeWhile f).length
  if n < l.length then some n else none

/-- R154: records that a loaded list names lock. -/
def Session.lockRecords (x : Session) (l : List Bytes) : Session :=
  let names := (l.map namedRecs).flatten.eraseDups
  { x with scales := names.foldl (fun t r =>
      Table.set ScaleRec.reset t r { Table.get ScaleRec.reset t r with fmtLocked := true }) x.scales }

/-- Firmware reads session HBM for a load: status and bytes. Assumption log 54 (DEDUCED). -/
def State.readFor (s : State) (i a n : Nat) : State × Status × Bytes :=
  let (j, b) := (s.plainJob i 31).readHbm a n
  (j.st, j.status, b)

/-- LIST_LOAD's effect; a request that fails both its form (R87) and the slot and limit checks of R88 ends with the form's
status. Assumption log 54 (DEDUCED). -/
def State.loadList (s : State) (r : Req) : State × Option Resp :=
  let i := r.session
  let x := s.session i
  let b := r.body
  let slot := (u8 b 0).toNat
  let n := fieldAt b 4 4
  let a := fieldAt b 8 8
  if ¬ bodyForm b 16 [(1, 3)] ∨ n = 0 ∨ 65536 < n ∨ a % 128 ≠ 0 then (s, Resp.of stRefused)
  else if (x.list? slot).isSome ∨ x.listRoom < x.loaded + n then (s, Resp.of stNoResource)
  else if x.hbmBytes < a + 128 * n then (s, Resp.of stRefused)
  else
    let (s, st, raw) := s.readFor i a (128 * n)
    let descs := chunksOf 128 raw
    let digest := Crypto.sha512 raw
    if st ≠ stOk then (s, Resp.of st)
    else
      match firstBad (s.descOk i) descs with
      | some k => (s, some ⟨stRefused, k, []⟩)
      | none =>
        if ¬ (s.session i).programs.contains digest then (s, Resp.of stRefused)
        else
          (s.onSession i fun x => { x.lockRecords descs with lists := x.lists ++ [(slot, ⟨descs, digest⟩)] }, Resp.ok digest)

/-- LIST_LOAD. -/
def execListLoad (mb : Nat) (s : State) : Out := .next (s.serve mb 0x0200 .sealed .work anyBody State.loadList)

/-- LIST_UNLOAD (R485). -/
def execListUnload (mb : Nat) (s : State) : Out :=
  .next <| s.serve mb 0x0201 .sealed .work anyBody fun s r =>
    let x := s.session r.session
    let slot := (u8 r.body 0).toNat
    if r.body.length ≠ 1 ∨ ((List.range 4).any fun c => (x.ctx c).live) ∨ (x.list? slot).isNone then (s, Resp.of stRefused)
    else (s.setSession r.session { x with lists := x.lists.filter (·.1 ≠ slot) }, Resp.of stOk)

/-- KERNEL_LOAD's effect (R193, R194, R397, R485); entries count from 1. Assumption log 54 (DEDUCED). -/
def State.loadKernel (s : State) (r : Req) : State × Option Resp :=
  let i := r.session
  let b := r.body
  let n := fieldAt b 0 4
  let a := fieldAt b 8 8
  if ¬ bodyForm b 16 [(4, 4)] ∨ n = 0 ∨ 1023 < n ∨ (s.session i).kernel.isSome ∨
      (s.session i).hbmBytes < a + 64 * n then (s, Resp.of stRefused)
  else
    let (s, st, raw) := s.readFor i a (64 * n)
    let entries := chunksOf 64 raw
    let digest := Crypto.sha512 raw
    if st ≠ stOk then (s, Resp.of st)
    else
      match firstBad entryOk entries with
      | some k => (s, some ⟨stRefused, k + 1, []⟩)
      | none =>
        if (s.session i).kernelAllowed ≠ digest then (s, Resp.of stRefused)
        else (s.onSession i fun x => { x with kernel := some ⟨entries, digest⟩ }, Resp.ok digest)

/-- KERNEL_LOAD. -/
def execKernelLoad (mb : Nat) (s : State) : Out := .next (s.serve mb 0x0202 .sealed .work anyBody State.loadKernel)

/-! ### Contexts -/

/-- R592, R150, R151: the first step starts; before it WORK_SCALE holds STATIC_SCALE. A void that the host requested
before it (R224) counts in its first attempt. Assumption log 73 and 93 (DESIGN CHOICE). -/
def Session.firstStep (x : Session) : Session :=
  if x.state = .ready then
    { { x with scales := mapScales (fun r => { r with workScale := r.staticScale }) x.scales }.startAttempt with
      state := .running, voteReasons := x.voteReasons }
  else x

/-- CONTEXT_START's effect (R90, R98, R99, R485). Assumption log 55 (DEDUCED), 91 (DESIGN CHOICE). -/
def State.startContext (s : State) (r : Req) : State × Option Resp :=
  let x := s.session r.session
  let b := r.body
  let c := (u8 b 0).toNat
  let slot := (u8 b 1).toNat
  let index := fieldAt b 2 2
  if b.length ≠ 4 ∨ 4 ≤ c ∨ (x.ctx c).live ∨ (x.descAt? slot index).isNone then (s, Resp.of stRefused)
  else if ¬ x.weightsDone then (s, Resp.of stNotReady)
  else
    let x := x.firstStep.onCtx c fun k => { k with status := stOk, lateCount := 0, completed := 0 }
    (s.setSession r.session (x.moveHead c slot index), Resp.of stOk)

/-- CONTEXT_START. -/
def execContextStart (mb : Nat) (s : State) : Out := .next (s.serve mb 0x0210 .sealed .work anyBody State.startContext)

/-- CONTEXT_STOP: the context stops at its head with ST_OK (R97). Assumption log 55 (DEDUCED). -/
def execContextStop (mb : Nat) (s : State) : Out :=
  .next <| s.serve mb 0x0211 .sealed .work anyBody fun s r =>
    let c := (u8 r.body 0).toNat
    if r.body.length ≠ 1 ∨ 4 ≤ c then (s, Resp.of stRefused)
    else (s.onSession r.session fun x => x.stopCtx c stOk, Resp.of stOk)

/-! ### Scale records -/

/-- R12, R154: a scale record as a write leaves it. Assumption log 49 (DEDUCED). -/
def ScaleRec.written (q : ScaleRec) (w0 : Nat) (static : W32) (addr : W64) : ScaleRec :=
  let q := { q with staticScale := static }
  if q.fmtLocked then q
  else
    { q with
      fmt := BitVec.ofNat 4 (bitsOf w0 3 0)
      policy := BitVec.ofNat 2 (bitsOf w0 5 4)
      blockEn := bitOf w0 6
      voidOnMiss := bitOf w0 7
      margin := BitVec.ofNat 4 (bitsOf w0 11 8)
      satShift := BitVec.ofNat 5 (bitsOf w0 16 12)
      flushShift := BitVec.ofNat 5 (bitsOf w0 21 17)
      histLen := BitVec.ofNat 5 (bitsOf w0 26 22)
      scaleAddr := addr }

/-- R155: a configuration that may stand. -/
def ScaleRec.allowed (q : ScaleRec) : Bool :=
  let f := q.fmt.toNat
  decide ((f < 7 ∨ f = 15) ∧ q.policy.toNat < 3 ∧ 1 ≤ q.histLen.toNat ∧ q.histLen.toNat ≤ 16) && posNormal q.staticScale &&
    !(q.blockEn && decide (f < 2)) && !(!q.blockEn && decide (4 ≤ f ∧ f ≤ 6)) &&
    addrForm (if q.blockEn then [0, 1] else [2]) q.scaleAddr.toNat

/-- SCALE_WRITE. -/
def execScaleWrite (mb : Nat) (s : State) : Out :=
  .next <| s.serve mb 0x0300 .sealed .work anyBody fun s r =>
    let x := s.session r.session
    let b := r.body
    let n := fieldAt b 0 2
    let q := (Table.get ScaleRec.reset x.scales n).written (fieldAt b 4 4) (u32 b 8) (u64 b 16)
    if ¬ bodyForm b 24 [(2, 2), (12, 4)] ∨ 4096 ≤ n ∨ bitsAt b 4 4 31 27 ≠ 0 ∨ ¬ q.allowed then (s, Resp.of stRefused)
    else (s.setSession r.session { x with scales := Table.set ScaleRec.reset x.scales n q }, Resp.of stOk)

/-! ### The step seal's commands, R486 -/

/-- R329: a member held for SEAL_LOST alone leaves the held state. -/
def HeldRec.unseal (h : HeldRec) : HeldRec :=
  let own := h.ownReasons &&& ~~~rcSealLost
  if own = 0 ∧ h.groupReasons = 0 then { h with held := false, ownReasons := 0 } else { h with ownReasons := own }

/-- SEAL_RESOLVE. -/
def execSealResolve (mb : Nat) (s : State) : Out :=
  .next <| s.serve mb 0x0402 .sealed .resolve anyBody fun s r =>
    let i := r.session
    let x := s.session i
    let b := r.body
    if ¬ bodyForm b 48 [(7, 1), (12, 4), (24, 8)] ∨ ¬ x.sealLost then (s, Resp.of stRefused)
    else if slice b 32 16 ≠ s.recordTag i (slice b 0 32) then (s, Resp.of stBadSignature)
    else if ¬ s.recordFits i b then (s, Resp.of stRefused)
    else
      let s := s.onSession i fun x => { x with decision := some b, held := x.held.unseal }
      (s.applyRecord i b, Resp.of stOk)

/-- The member's vote for the attempt is sent, or outside a consignment its STEP_SEAL has started. -/
def Session.voteGone (x : Session) : Bool :=
  match x.sealing with
  | some q => q.voteSent || !x.isConsignment
  | none => false

/-- VOID_REQUEST. -/
def execVoidRequest (mb : Nat) (s : State) : Out :=
  .next <| s.serve mb 0x0403 .sealed .work anyBody fun s r =>
    if r.body ≠ [] ∨ (s.session r.session).voteGone then (s, Resp.of stRefused)
    else (s.onSession r.session fun x => x.reason rsSoftware, Resp.of stOk)

/-! ### Reads, R484 -/

/-- The record of a kind and an index. -/
def State.record (s : State) (i kind n : Nat) : Option Bytes :=
  let x := s.session i
  match kind with
  | 1 => if n < 4 then some (x.ctx n).bytes else none
  | 2 => if n = 0 then some x.num.bytes else none
  | 3 => if n < 4096 then some (Table.get ScaleRec.reset x.scales n).bytes else none
  | 4 => if n = 0 then some x.reblock.bytes else none
  | 5 => if n = 0 then some x.sealRec.bytes else none
  | 6 => if n = 0 then some x.upd.bytes else none
  | 7 => if n = 0 then some x.coll.bytes else none
  | 8 => if n = 0 then some x.mem.bytes else none
  | 9 => if n = 0 then some x.held.bytes else none
  | 10 => if n = 0 then some ((List.range 2048).map fun k => Table.get 0 x.held.reasonOf k) else none
  | 11 => if n < 18 ∧ (s.port n).bound ∧ (s.port n).session.toNat = i then some (s.port n).status else none
  | _ => none

/-- RECORD_READ. -/
def execRecordRead (mb : Nat) (s : State) : Out :=
  .next <| s.serve mb 0x0500 .sealed .reads anyBody fun s r =>
    if ¬ bodyForm r.body 4 [(1, 1)] then (s, Resp.of stRefused)
    else
      match s.record r.session (u8 r.body 0).toNat (fieldAt r.body 2 2) with
      | some b => (s, Resp.ok b)
      | none => (s, Resp.of stRefused)

/-- TALLY_READ. -/
def execTallyRead (mb : Nat) (s : State) : Out :=
  .next <| s.serve mb 0x0501 .sealed .reads anyBody fun s r =>
    let x := s.session r.session
    let f := fieldAt r.body 0 2
    let n := fieldAt r.body 2 2
    if r.body.length ≠ 4 ∨ n = 0 ∨ 1024 < n ∨ x.tallyCount < f + n then (s, Resp.of stRefused)
    else (s, Resp.ok ((List.range n).map fun k => w32 (s.tally (x.tallyBase + f + k)).value).flatten)

end Sys2Proof.Machine
end

