-- ==== Sys2Proof/Machine/Members.lean ====
section
/-! DEFINITION. Session commands on a consignment: CONSIGN_CONFIG (R315, R316), ROUTING_LOAD (R257, R262, R317, R482), TIME_SET
(R293, R294, R486) and ROLL_CALL (R321, R486). -/

namespace Sys2Proof.Machine

/-! ### CONSIGN_CONFIG -/

/-- The consignment a request describes. -/
def consignOf (b : Bytes) : Consign :=
  let port := (u8 b 4).toNat
  { rank := fieldAt b 0 2, members := fieldAt b 2 2, timePort := if port = 0xFF then none else some port,
    places := (List.range (fieldAt b 2 2)).map fun r => (bitsAt b (80 + 2 * r) 2 5 0, bitsAt b (80 + 2 * r) 2 10 6),
    nonceDigest := slice b 16 64 }

/-- The form of a CONSIGN_CONFIG request. -/
def consignForm (b : Bytes) : Bool :=
  let n := fieldAt b 2 2
  decide (1 ≤ n ∧ n ≤ 2048 ∧ fieldAt b 0 2 < n) && b.length = 80 + 2 * n && zeroRange b 5 3 &&
    (List.range n).all fun r => bitsAt b (80 + 2 * r) 2 15 11 = 0

/-- R315: rank 0 lies in ring 0, and no two ranks share a place of a ring (so none holds more than 32). -/
def Consign.ringsOk (c : Consign) : Bool :=
  (c.places.headD (1, 0)).1 = 0 && decide c.places.Nodup

/-- R315: a rank that is the master of a ring other than 0. -/
def Consign.gateway (c : Consign) : Bool :=
  let ring := fun (r : Nat) => (c.places.getD r (0, 0)).1
  ring c.rank ≠ 0 && (List.range c.rank).all fun r => ring r ≠ ring c.rank

/-- R315: the master of a ring other than 0 has a TIME_PORT, and TIME_PORT is bound to the session, its peer in ring 0. -/
def State.timePortOk (s : State) (i : Nat) (c : Consign) : Bool :=
  match c.timePort with
  | none => !c.gateway
  | some p =>
    let q := s.port p
    decide (p < 18) && q.bound && q.session.toNat = i && decide (q.peerRank.toNat < c.members) &&
      (c.places.getD q.peerRank.toNat (1, 0)).1 = 0

/-- R316, R384: the link key is derived afresh under NONCE_DIGEST, the earlier one is struck, and the shares are erased.
No port has been keyed and no ring frame sent under the earlier key, so every engine is quiescent on its strike at once
(R386). -/
def State.rekeyLink (s : State) (i : Nat) (salt : Bytes) : State :=
  match s.slotOf i .link with
  | some n =>
    let k := s.keySlot n
    (s.setSlot n { k with key := (s.session i).linkKey salt, gen := satAdd k.gen 1 }).onSession i fun x => { x with shares := [] }
  | none => s

/-- R385: the link slot may be bound again after one more strike. -/
def State.linkRebinds (s : State) (i : Nat) : Bool :=
  match s.slotOf i .link with
  | some n => decide ((s.keySlot n).gen.toNat + 1 < 2 ^ 32 - 1)
  | none => false

/-- R257: the valid entries of the member's own table name ports of the session; reserved bits are zero. -/
def Session.tableOk (x : Session) (table : Bytes) : Bool :=
  table.all fun e => bitsOf e.toNat 6 5 = 0 && (!(bitOf e.toNat 7) || bitOf x.portMask (e.toNat % 32))

/-- R257, R317: a routing set loaded before CONSIGN_CONFIG gives its ranks tables, this member's naming its own ports.
Assumption log 56 (DEDUCED). -/
def Session.routingFits (x : Session) (c : Consign) : Bool :=
  x.routing.isEmpty || (x.routing.length = 2048 * c.members && x.tableOk (slice x.routing (2048 * c.rank) 2048))

/-- R316: trained ports that waited for CONSIGN_CONFIG enter KEYING. -/
def State.keyPorts (s : State) (i : Nat) : State :=
  (List.range 18).foldl (fun s p => if (s.port p).bound ∧ (s.port p).session.toNat = i then s.startKeying p else s) s

/-- CONSIGN_CONFIG's effect. Assumption log 56 (DEDUCED). -/
def State.configConsign (s : State) (r : Req) : State × Option Resp :=
  let i := r.session
  let x := s.session i
  let b := r.body
  let c := consignOf b
  let a := fieldAt b 8 8
  if ¬ x.isConsignment ∨ ¬ consignForm b ∨ ¬ c.ringsOk ∨ ¬ s.timePortOk i c ∨ ¬ x.routingFits c ∨
      ¬ s.windowOk true (some i) a (32 * c.members) then
    (s, Resp.of stRefused)
  else if ¬ s.cacheReady then (s, Resp.of stNotReady)
  else
    let nonces := s.hostLoad a (32 * c.members)
    if Crypto.sha512 nonces ≠ c.nonceDigest then (s, Resp.of stBadEnvelope)
    else if slice nonces (32 * c.rank) 32 ≠ x.memberNonce ∨ x.consign.isSome then (s, Resp.of stRefused)
    else if ¬ s.linkRebinds i then (s, Resp.of stNoResource)
    else
      let s := s.rekeyLink i c.nonceDigest
      (((s.onSession i fun x => { x with consign := some c, linkSalt := c.nonceDigest, frameSeq := 0 }).joinRing i).keyPorts i,
        Resp.of stOk)

/-- CONSIGN_CONFIG. Assumption log 56 (DEDUCED). -/
def execConsignConfig (mb : Nat) (s : State) : Out := .next (s.serve mb 0x0302 .sealed .work anyBody State.configConsign)

/-! ### ROUTING_LOAD -/

/-- R262, R482: a group entry's ranks. -/
def groupRanks (b : Bytes) : List Nat := (List.range (fieldAt b 0 2)).map fun k => fieldAt b (2 + 2 * k) 2

/-- R262: a group of 1 to 2,048 distinct consignment ranks. -/
def groupOk (ranks : Nat) (b : Bytes) : Bool :=
  let n := fieldAt b 0 2
  decide (1 ≤ n ∧ n ≤ 2048) && (groupRanks b).all (fun r => decide (r < ranks)) && decide (groupRanks b).Nodup

/-- R257, R262, R317: an object that may be loaded. -/
def Session.routingOk (x : Session) (b : Bytes) (ranks groups : Nat) : Bool :=
  (b.take (2048 * ranks)).all (fun e => bitsOf e.toNat 6 5 = 0) &&
    (x.consign.isNone && x.isConsignment || x.tableOk (slice b (2048 * x.rank) 2048)) &&
    (List.range groups).all fun g => groupOk ranks (slice b (2048 * ranks + 4160 * g) 4160)

/-- R317: the ranks a routing set has a table for. Assumption log 56 (DEDUCED). -/
def Session.rankCountOk (x : Session) (ranks : Nat) : Bool :=
  match x.consign with
  | some c => ranks = c.members
  | none => if x.isConsignment then decide (1 ≤ ranks ∧ ranks ≤ 2048) else ranks = 1

/-- ROUTING_LOAD's effect. Assumption log 56 (DEDUCED). -/
def State.loadRouting (s : State) (r : Req) : State × Option Resp :=
  let i := r.session
  let x := s.session i
  let b := r.body
  let a := fieldAt b 0 8
  let ranks := fieldAt b 8 2
  let groups := (u8 b 10).toNat
  let n := 2048 * ranks + 4160 * groups
  if ¬ bodyForm b 80 [(11, 5)] ∨ ¬ x.rankCountOk ranks ∨ 15 < groups ∨ (groups ≠ 0 ∧ ¬ x.isConsignment) ∨
      ¬ s.windowOk true (some i) a n then (s, Resp.of stRefused)
  else if ¬ s.cacheReady then (s, Resp.of stNotReady)
  else
    let o := s.hostLoad a n
    if Crypto.sha512 o ≠ slice b 16 64 then (s, Resp.of stBadEnvelope)
    else if ¬ x.routingOk o ranks groups then (s, Resp.of stRefused)
    else
      (s.setSession i
        { x with
          routing := o.take (2048 * ranks)
          routingDigest := Crypto.sha512 (o.take (2048 * ranks))
          groups := (List.range groups).map fun g => groupRanks (slice o (2048 * ranks + 4160 * g) 4160) },
        Resp.of stOk)

/-- ROUTING_LOAD. -/
def execRoutingLoad (mb : Nat) (s : State) : Out := .next (s.serve mb 0x0301 .sealed .work anyBody State.loadRouting)

/-! ### Time and roll call -/

/-- TIME_SET: rank 0 sets the origin of consignment time and is LOCKED to itself. A step is made only in ACQUIRING, and
never back (R292, R293); elsewhere the rate corrects. Assumption log 57 (DEDUCED). -/
def execTimeSet (mb : Nat) (s : State) : Out :=
  .next <| s.serve mb 0x0400 .sealed .work anyBody fun s r =>
    let x := s.session r.session
    if r.body.length ≠ 8 ∨ x.consign.isNone ∨ x.rank ≠ 0 ∨ (s.anySession fun y => y.epochOpen) then (s, Resp.of stRefused)
    else
      let s := if s.time.sync = .acquiring then { s with time := s.time.stepTo (u64 r.body 0) } else s.newRate
      let lock := decide (s.ringSession = some r.session)
      ({ s with time := { s.time with sync := if lock then Sync.locked else s.time.sync } }, Resp.of stOk)

/-- R321: a roll call as its command gives it. -/
def RollCall.new (p e : W64) : RollCall :=
  { p := p, epoch := e, sent := false, body := [], reference := none, heard := [], summaries := [], summarySent := false,
    verdict := none }

/-- ROLL_CALL. An earlier roll call whose OPEN_POSTMARK has passed takes effect first. Assumption log 58 (DEDUCED). -/
def execRollCall (mb : Nat) (s : State) : Out :=
  .next <| s.serve mb 0x0401 .sealed .roll anyBody fun s r =>
    let i := r.session
    let s := s.epochDue i
    let x := s.session i
    let p := u64 r.body 0
    let e := u64 r.body 8
    if r.body.length ≠ 16 ∨ x.consign.isNone ∨ x.roll.isSome ∨ e.toNat ≠ x.epoch.toNat + 1 ∨ p.toNat < s.now + ns 1000000 then
      (s, Resp.of stRefused)
    else (s.setSession i { x with roll := some (RollCall.new p e) }, Resp.of stOk)

end Sys2Proof.Machine
end

