-- ==== Sys2Proof/Machine/Power.lean ====
section
/-! DEFINITION. Power states (R525 to R531) and the power, reset and Watch Post commands of mailboxes 1 to 15 (R542 to
R544). -/

namespace Sys2Proof.Machine

/-! ### Work in progress, R526, R527 -/

/-- Some context of some session is waiting or running. -/
def State.anyContext (s : State) : Bool := s.anySession fun x => (List.range 4).any fun c => (x.ctx c).live

/-- Some arm is set. -/
def State.anyArm (s : State) : Bool := s.tallies.any fun e => e.2.arm.isSome

/-- A life-cycle transition is open. -/
def State.transitionOpen (s : State) : Bool := s.lc.openRec.isSome

/-- R526: nothing keeps the module from PS1. -/
def State.quiet (s : State) : Bool :=
  !s.anyContext && !s.anyArm && !(s.anySession fun x => !x.ops.isEmpty || !x.ingests.isEmpty || x.mem.sweeping) &&
    (List.range 64).all fun n => (s.mailbox n).state ≠ .submitted && (s.mailbox n).state ≠ .serving

/-- R527: what bars PS2. Assumption log 45 (DEDUCED). -/
def State.napBarred (s : State) : Bool :=
  s.anyContext || s.anyArm || s.transitionOpen ||
    s.anySession fun x => x.isConsignment || !x.ingests.isEmpty || x.mem.sweeping ||
      x.ops.any fun o => opClass o.code = 5 || o.code = opFarMove || o.code = opExport

/-- R527: what bars PS3 and PS4. Assumption log 45 (DEDUCED). -/
def State.sleepBarred (s : State) : Bool := s.transitionOpen || s.anySession fun _ => true

/-! ### Entering and leaving -/

/-- R525, R532: PS2: the Krelas ports are disabled. Assumption log 44 (DEDUCED). -/
def State.enterPs2 (s : State) : State :=
  ({ s with
    power := { s.power with power := .ps2, waking := false }
    time := { s.time with bypassClosed := true }
    ports := s.ports.map fun (q : Port) => { q with state := .disabled, lanes := 0 } } : State).settlePins

/-- Domains that keep their clock-good in PS3: AON, HOST, TIME, MGMT and TAP, and SEC, which no phase of the wake locks.
Assumption log 44 (DEDUCED). -/
def standbyClocks : BitVec 18 := 0x39003

/-- Domains released in PS3 (R525), and TAP. Assumption log 44 (DEDUCED). -/
def standbyDomains : BitVec 18 := 0x39001

/-- R529, R532: PS3: the module page is written once, and every on-die memory is cleared.
Assumption log 44 (DEDUCED). -/
def State.enterPs3 (s : State) : State :=
  let s := { s with power := { s.power with power := .ps3, waking := false } }
  let s := s.writeModulePage
  let r := s.resets
  ({ s with
    dies := Vector.replicate 4 Die.reset
    time := { s.time with bypassClosed := true }
    resets := { r with pll := r.pll &&& standbyClocks, clockGood := r.clockGood &&& standbyClocks,
                       released := r.released &&& standbyDomains } } : State).settlePins

/-- R529: the wake from PS3 begins with P3. -/
def State.wakePs3 (s : State) : State :=
  let r := s.resets
  let s := { s with power := { s.power with waking3 := true }, resets := { r with stepsDone := [], failed := [], halted := false } }
  (((s.releaseDomain 1).openPhase 3 0).settlePhase 8 0).settlePins

/-- The power state as POWER_SET names it; PS1 counts as PS0, to which the request's own SUBMIT wakes it. -/
def State.powerName (s : State) : Nat := if s.power.power = .ps1 then 0 else s.power.power.code

/-- POWER_SET's effect. Assumption log 45 (DEDUCED). -/
def State.setPower (s : State) (r : Req) : State × Option Resp :=
  let n := (u8 r.body 0).toNat
  if r.body.length ≠ 1 then (s, Resp.of stRefused)
  else if s.power.power = .ps3 then
    if n ≠ 0 then (s, Resp.of stNotReady)
    else if s.isRepeat r r.body then (s, Resp.of stPending)
    else
      let (e, s) := s.entryFor r r.body
      match pendAdd s.modulePend e with
      | some l => (({ s with modulePend := l } : State).wakePs3, Resp.of stPending)
      | none => (s, Resp.of stNoResource)
  else if n = s.powerName then (s, Resp.of stOk)
  else if n = 2 then
    if s.napBarred then (s, Resp.of stRefused) else (s.enterPs2, Resp.of stOk)
  else if n = 3 then
    if s.sleepBarred then (s, Resp.of stRefused) else (s.enterPs3, Resp.of stOk)
  else if n = 4 then
    if s.sleepBarred then (s, Resp.of stRefused)
    else
      let p := { s.power with offDue := true, offAt := BitVec.ofNat 64 (s.now + ns 1000000) }
      ({ s with power := p }, Resp.of stOk)
  else (s, Resp.of stRefused)

/-- POWER_SET. -/
def execPowerSet (mb : Nat) (s : State) : Out := .next (s.serve mb 0x0800 .host .work anyBody State.setPower)

/-- PS1_ENTRY: 100 µs with nothing to do. Assumption log 45 (DEDUCED). -/
def execPs1Entry (s : State) : Out :=
  .next <|
    if s.power.power = .ps0 ∧ s.resets.inReset.isNone ∧ s.fw.state = .running ∧ s.quiet ∧
        s.power.idleSince.toNat + ns 100000 ≤ s.now then
      { s with power := { s.power with power := .ps1, waking := false } }
    else s

/-- PS0_WAKE_DONE: 20 µs after work arrived in PS1; the chunks that waited are served. -/
def execPs0WakeDone (s : State) : Out :=
  .next <|
    if s.power.power = .ps1 ∧ s.power.waking ∧ s.power.wakeAt.toNat ≤ s.now then
      ({ s with power := { s.power with power := .ps0, waking := false, idleSince := s.time.now } } : State).serveArrived
    else s

/-- PS2_WAKE_DONE: 3 ms after a SUBMIT in PS2; requests are taken from here on, and the wake goes on to PS0. A port that is
enabled trains afresh. Assumption log 44 (DEDUCED). -/
def execPs2WakeDone (s : State) : Out :=
  .next <|
    if s.power.power = .ps2 ∧ s.power.waking2 ∧ s.power.wakeAt.toNat ≤ s.now then
      let s := { s with
        power := { s.power with power := .ps1, waking2 := false, waking := true,
                                wakeAt := BitVec.ofNat 64 (s.now + ns 20000) }
        ports := s.ports.map Port.restart }
      s.passTurn.settlePins
    else s

/-- PS3_WAKE_DONE: the wake's last phase has repeated the checks of R496. Assumption log 45 (DEDUCED). -/
def execPs3WakeDone (s : State) : Out :=
  .next <|
    if s.power.power = .ps3 ∧ s.power.waking3 ∧ s.resets.inPhase = 7 ∧ ¬ s.resets.halted then
      let reason := s.fwRestart s.fw.image
      let s := s.fwDecide reason
      let s := { s with
        modulePend := pendEnd s.modulePend (fun e => e.command = 0x0800) (fwStatus reason)
        resets := { s.resets with inPhase := if reason = 0 then 8 else 7 }
        power := { s.power with power := .ps0, waking3 := false, idleSince := s.time.now } }
      s.settlePins
    else s

/-- HOST_PORT_POWER_OFF: 1 ms after POWER_SET 4. -/
def execHostPortPowerOff (s : State) : Out :=
  .next <| if s.power.offDue ∧ s.power.offAt.toNat ≤ s.now then s.enterPs4.settlePins else s

/-! ### RESET_REQUEST, R543 -/

/-- The block that BLOCK and INDEX name. Assumption log 46 (DEDUCED). -/
def blockOf (b i : Nat) : Option BlockTarget :=
  match b with
  | 0 => if i < 18 then some (.port i) else none
  | 1 => if i = 0 then some .farTier else none
  | 2 => if i < 4 then some (.pigeonhole i) else none
  | 3 => if i < 4 then some (.countingBoard i) else none
  | 4 => if i < 4 then some (.reckoner i) else none
  | 5 => if i < 4 then some (.dma i) else none
  | 6 => if i < 2 then some (.sortingOffice i) else none
  | _ => none

/-- The target of a request. Assumption log 46 (DEDUCED). -/
def requestTarget (reach b i : Nat) : Option ResetTarget :=
  if reach = 1 then (blockOf b i).map ResetTarget.block
  else if reach = 2 then (if i < 4 then some (.quarter i) else none)
  else if reach = 3 then some .module
  else none

/-- A session holds the target, or touches the quarter. Assumption log 46 (DEDUCED). -/
def State.targetHeld (s : State) : ResetTarget → Bool
  | .module => false
  | .quarter q => s.anySession fun x => x.touches q
  | .block b =>
    match b with
    | .port p => (s.port p).bound
    | .farTier => s.anySession fun x => x.farGib ≠ 0
    | .sortingOffice _ => s.anySession fun _ => true
    | _ => match blockDie b with
      | some d => s.anySession fun x => x.dieList.contains d
      | none => false

/-- RESET_REQUEST. Assumption log 46 (DEDUCED). -/
def execResetRequest (mb : Nat) (s : State) : Out :=
  .next <| s.serve mb 0x0801 .host .work anyBody fun s r =>
    let b := r.body
    let reach := (u8 b 0).toNat
    match requestTarget reach (u8 b 1).toNat (u8 b 2).toNat with
    | some t =>
      if ¬ bodyForm b 4 [(3, 1)] ∨ s.fuseReach 10 < reach ∨ s.targetHeld t then (s, Resp.of stRefused)
      else
        let due := BitVec.ofNat 64 (s.now + ns 100000)
        ({ s with resets := { s.resets with requested := s.resets.requested ++ [(Reach.ofCode reach, t, due)] } },
          Resp.of stOk)
    | none => (s, Resp.of stRefused)

/-! ### Reads and backup registers -/

/-- A command with an empty body that returns bytes. -/
def State.readOut (s : State) (mb code : Nat) (f : State → Bytes) : State :=
  s.serve mb code .host .work anyBody fun s r => if r.body ≠ [] then (s, Resp.of stRefused) else (s, Resp.ok (f s))

/-- RESET_LOG_READ. -/
def execResetLogRead (mb : Nat) (s : State) : Out := .next (s.readOut mb 0x0802 fun s => s.aon.resetLogBytes)

/-- WATCH_READ. -/
def execWatchRead (mb : Nat) (s : State) : Out := .next (s.readOut mb 0x0803 fun s => s.watch.record)

/-- WATCH_LOG_READ. -/
def execWatchLogRead (mb : Nat) (s : State) : Out := .next (s.readOut mb 0x0804 fun s => s.aon.watchLogBytes)

/-- R524: the sixteen words. -/
def Aon.backupBytes (a : Aon) : Bytes := (a.fwBackup.toList.map w32).flatten ++ (a.hostBackup.toList.map w32).flatten

/-- BACKUP_READ. -/
def execBackupRead (mb : Nat) (s : State) : Out := .next (s.readOut mb 0x0805 fun s => s.aon.backupBytes)

/-- BACKUP_WRITE. -/
def execBackupWrite (mb : Nat) (s : State) : Out :=
  .next <| s.serve mb 0x0806 .host .work anyBody fun s r =>
    let n := (u8 r.body 0).toNat
    if ¬ bodyForm r.body 8 [(1, 3)] ∨ n < 8 ∨ 15 < n then (s, Resp.of stRefused)
    else
      let a := { s.aon with hostBackup := vset s.aon.hostBackup (n - 8) (u32 r.body 4) }
      ({ s with aon := a }, Resp.of stOk)

end Sys2Proof.Machine
end

