-- ==== Sys2Proof/Machine/Perf.lean ====
section
/-! DEFINITION. Counter commands (R546 to R550, R552, R559 to R561), the writing of sample records (R552), and the
events that count clocks (R554). Every other event is counted by the row that does the work. -/

namespace Sys2Proof.Machine

/-! ### Counters by unit and number, R545, R553 -/

/-- Programmable counters of a unit. -/
def counterCount (unit : Nat) : Nat := if unit < 4 then 64 else if unit < 6 then 16 else 0

/-- Its place in the table. -/
def counterKey (unit number : Nat) : Nat := 64 * unit + number

def State.counter (s : State) (unit number : Nat) : Counter :=
  Table.get Counter.reset s.perf.counters (counterKey unit number)

/-- Replace the counter at a key. -/
def State.putCounter (s : State) (key : Nat) (c : Counter) : State :=
  { s with perf := { s.perf with counters := Table.set Counter.reset s.perf.counters key c } }

def State.setCounter (s : State) (unit number : Nat) (c : Counter) : State := s.putCounter (counterKey unit number) c

/-- The control record of R548 as five words. -/
def Counter.bytes (c : Counter) : Bytes :=
  le 4 (c.event.toNat + 2 ^ 10 * boolNat c.enable + 2 ^ 11 * boolNat c.edge + 2 ^ 12 * boolNat c.ovfSample +
    2 ^ 13 * boolNat c.sticky + 2 ^ 14 * c.owner.toNat + 2 ^ 16 * c.session.toNat) ++
    le 8 c.value.toNat ++ le 8 c.reload.toNat

/-- A counter value as PERF_READ and the counter window show it (R559, R560). -/
def Counter.shown (c : Counter) : Bytes := le 8 (c.value.toNat + 2 ^ 48 * boolNat c.sticky)

/-- R548, R550: a control record is written; OWNER and SESSION are read-only and STICKY is cleared by a one (R11).
Assumption log 59 (DEDUCED). -/
def Counter.written (c : Counter) (rec_ : Bytes) : Counter :=
  let w := fieldAt rec_ 0 4
  { c with
    event := BitVec.ofNat 10 w
    enable := bitOf w 10
    edge := bitOf w 11
    ovfSample := bitOf w 12
    sticky := c.sticky && !bitOf w 13
    value := BitVec.ofNat 48 (fieldAt rec_ 4 8)
    reload := BitVec.ofNat 48 (fieldAt rec_ 12 8) }

/-- R554: the events a unit has: a quarter those up to 0x060, a Hub die the rest, a port's on the die that holds it.
Assumption log 86 (DESIGN CHOICE). -/
def eventOk (unit ev : Nat) : Bool :=
  if ev = 0 then true
  else if unit < 4 then
    decide ((1 ≤ ev ∧ ev ≤ 5) ∨ ev = 0x010 ∨ ev = 0x011 ∨ ev = 0x020 ∨ ev = 0x030 ∨ ev = 0x031 ∨ ev = 0x040 ∨
      (0x050 ≤ ev ∧ ev ≤ 0x053) ∨ ev = 0x060)
  else
    let p := ev % 32
    decide ((0x200 ≤ ev ∧ ev < 0x260 ∧ p < 18 ∧ p / 9 = unit - 4) ∨ ev = 0x260 ∨ ev = 0x261 ∨ ev = 0x270 ∨ ev = 0x271 ∨
      ev = 0x280 ∨ ev = 0x281 ∨ ev = 0x290)

/-- The record of a write that a counter of the module (`visible`) or of a session may take; its reserved bits are zero
(R17, R547, R554). Assumption log 49 and 59 (DEDUCED). -/
def recordOk (unit : Nat) (visible : Bool) (rec_ : Bytes) : Bool :=
  let ev := fieldAt rec_ 0 4 % 1024
  bitsOf (fieldAt rec_ 0 4) 31 18 = 0 && zeroRange rec_ 10 2 && zeroRange rec_ 18 2 && eventOk unit ev &&
    (!visible || ev = 0 || eventVisible ev)

/-- R546: a session holds a resource on a unit. Assumption log 88 (DEDUCED). -/
def State.holdsOn (s : State) (i unit : Nat) : Bool :=
  let x := s.session i
  if unit < 4 then x.touches unit
  else x.farGib ≠ 0 || (List.range 18).any fun p => p / 9 = unit - 4 && (s.port p).bound && (s.port p).session.toNat = i

/-- The counter belongs to the session. -/
def Counter.ownedBy (c : Counter) (i : Nat) : Bool := c.owner = 1 && c.session.toNat = i

/-- R560, R561: whether a request may address a counter: sealed its session's own, unsealed one of no session. -/
def Counter.right (c : Counter) (r : Req) : Status :=
  if r.isSealed then (if c.ownedBy r.session then stOk else stRefused)
  else if c.owner = 1 then stBadEnvelope else stOk

/-! ### What a clock gives, R554 -/

/-- R280: the ports of the session whose credits are withheld for want of landing room.
Assumption log 86 (DESIGN CHOICE). -/
def State.withholds (s : State) (i : Nat) : List Nat :=
  (List.range 18).filter fun p =>
    (s.port p).bound && (s.port p).session.toNat = i && (s.port p).owed ≠ 0 && decide (landingQuota ≤ (s.session i).landed (portHalf p))

/-- R554: what an event that counts clocks adds in one TIME clock, which holds one or two clocks of ARR, MEM or NOC. The
level in force and the ports that withhold credits are exact; refreshes and host port flits are free within what each
clock may give. Assumption log 86 (DESIGN CHOICE). -/
def State.clockValue (s : State) (i unit ev free : Nat) : Nat :=
  let clocks := 1 + free % 2
  let x := s.session i
  let some_ := fun (runs : Bool) (most : Nat) => if runs then free / 2 % (most + 1) else 0
  if ev = 0x005 then (if s.power.power = .ps0 ∧ x.dieList.contains unit then clocks * s.pieceThrottle x else 0)
  else if ev = 0x060 then some_ s.quartersPowered (16 * clocks)
  else if ev = 0x261 then (if s.quartersPowered then clocks * (s.withholds i).length else 0)
  else if ev = 0x280 ∨ ev = 0x281 then some_ s.host.linkUp 1
  else 0

/-! ### PERF_CONFIG -/

/-- The form of a PERF_CONFIG request. Assumption log 59 (DEDUCED). -/
def perfForm (b : Bytes) : Bool := bodyForm b 28 [(3, 5), (18, 2), (26, 2)] && bitsAt b 8 4 31 18 = 0 &&
  decide ((u8 b 1).toNat < counterCount (u8 b 0).toNat)

/-- The OP byte chooses the command; a body of any other form is answered by the first of them. -/
def perfPick (op : Nat) (b : Bytes) : Bool :=
  if b.length = 28 ∧ (u8 b 2).toNat < 4 then (u8 b 2).toNat = op else op = 0

/-- One operation on the counter that a PERF_CONFIG names: its own checks, then the record it leaves.
Assumption log 59 (DEDUCED). -/
def State.perfConfig (s : State) (r : Req) (act : Nat → Bytes → Counter → Status × Counter) : State × Option Resp :=
  let b := r.body
  let unit := (u8 b 0).toNat
  let n := (u8 b 1).toNat
  if ¬ perfForm b ∨ 4 ≤ (u8 b 2).toNat then (s, Resp.of stRefused)
  else
    let (st, c) := act unit (b.drop 8) (s.counter unit n)
    let c := { c with high := decide (s.clockValue c.session.toNat unit c.event.toNat 0 ≠ 0) }
    if st = stOk then (s.setCounter unit n c, Resp.ok c.bytes) else (s, Resp.of st)

/-- PERF_CONFIG, OP 0: the record is read. Assumption log 59 (DEDUCED). -/
def execPerfConfigRead (mb : Nat) (s : State) : Out :=
  .next <| s.serve mb 0x0900 .mixed .reads (perfPick 0) fun s r =>
    s.perfConfig r fun _ _ c => (c.right r, c)

/-- PERF_CONFIG, OP 1: the record is written. -/
def execPerfConfigWrite (mb : Nat) (s : State) : Out :=
  .next <| s.serve mb 0x0900 .mixed .work (perfPick 1) fun s r =>
    s.perfConfig r fun unit rec_ c =>
      if c.right r ≠ stOk then (c.right r, c)
      else if ¬ recordOk unit (c.owner = 2) rec_ then (stRefused, c)
      else (stOk, c.written rec_)

/-- PERF_CONFIG, OP 2: an unassigned counter is claimed and its record written. Assumption log 59 (DEDUCED). -/
def execPerfConfigClaim (mb : Nat) (s : State) : Out :=
  .next <| s.serve mb 0x0900 .mixed .work (perfPick 2) fun s r =>
    s.perfConfig r fun unit rec_ c =>
      let own : Counter :=
        if r.isSealed then { c with owner := 1, session := BitVec.ofNat 2 r.session } else { c with owner := 2, session := 0 }
      if c.owner ≠ 0 ∧ own ≠ c then (stNoResource, c)
      else if (r.isSealed ∧ ¬ s.holdsOn r.session unit) ∨ ¬ recordOk unit (¬ r.isSealed) rec_ then (stRefused, c)
      else (stOk, own.written rec_)

/-- PERF_CONFIG, OP 3: the counter returns to unassigned with every field at its reset value. -/
def execPerfConfigRelease (mb : Nat) (s : State) : Out :=
  .next <| s.serve mb 0x0900 .mixed .work (perfPick 3) fun s r =>
    s.perfConfig r fun _ _ c => (c.right r, Counter.reset)

/-! ### PERF_READ -/

/-- The slot counter `k` of a quarter as a read latches it: IDLE_CLOCKS counts up to now while the piece is idle (R556). -/
def State.slotNow (s : State) (i q k : Nat) : W64 :=
  let x := s.session i
  let v := vget 0 (vget (Vector.replicate 16 0) s.perf.slots q) k
  if k = 11 ∧ x.piece.quiet then satAdd v (s.idleClocks x) else v

/-- PERF_READ. -/
def execPerfRead (mb : Nat) (s : State) : Out :=
  .next <| s.serve mb 0x0901 .mixed .reads anyBody fun s r =>
    let b := r.body
    let unit := (u8 b 0).toNat
    let fixed := (u8 b 1).toNat
    let first := (u8 b 2).toNat
    let count := (u8 b 3).toNat
    let room := if fixed = 1 then (if unit < 4 then 16 else 0) else counterCount unit
    if b.length ≠ 4 ∨ 2 ≤ fixed ∨ count = 0 ∨ 64 < count ∨ room < first + count then (s, Resp.of stRefused)
    else if fixed = 1 then
      if ¬ r.isSealed then (s, Resp.of stBadEnvelope)
      else if ¬ (s.session r.session).dieList.contains unit then (s, Resp.of stRefused)
      else (s, Resp.ok ((List.range count).map fun k => w64 (s.slotNow r.session unit (first + k))).flatten)
    else
      let l := (List.range count).map fun k => s.counter unit (first + k)
      match l.find? fun c => c.right r ≠ stOk with
      | some c => (s, Resp.of (c.right r))
      | none => (s, Resp.ok (l.map Counter.shown).flatten)

/-! ### The sample ring, R552, R553 -/

/-- Sizes a ring may have: powers of two from 4 KiB to 64 MiB. -/
def ringSizes : List Nat := (List.range 15).map fun k => 4096 * 2 ^ k

/-- The ring of a PERF_RING request; SEQ goes on from the ring before it. Assumption log 60 (DEDUCED). -/
def Session.newRing (x : Session) (owner base size : Nat) : SampleRing :=
  { owner := owner, base := base, size := size, head := 0, tail := 0, lost := 0,
    seq := match x.ring with | some r => r.seq | none => 0, queue := [] }

/-- PERF_RING. Assumption log 60 (DEDUCED). -/
def execPerfRing (mb : Nat) (s : State) : Out :=
  .next <| s.serve mb 0x0902 .sealed .work anyBody fun s r =>
    let b := r.body
    let x := s.session r.session
    let owner := (u8 b 0).toNat
    let base := fieldAt b 8 8
    let size := fieldAt b 16 8
    let area := x.region owner
    if ¬ bodyForm b 24 [(1, 7)] ∨ ¬ x.partyOk owner ∨ addrClass base ≠ 1 ∨ base % 64 ≠ 0 ∨ ¬ ringSizes.contains size ∨
        addrOff base < area.1 ∨ area.1 + area.2 < addrOff base + size then (s, Resp.of stRefused)
    else (s.setSession r.session { x with ring := some (x.newRing owner (addrOff base) size) }, Resp.of stOk)

/-- Records a ring holds. -/
def SampleRing.held (r : SampleRing) : Nat := (r.head + r.size - r.tail) % r.size / 64

/-- PERF_RING_READ: up to MAX records from the tail, which advances past them. Assumption log 60 (DEDUCED). -/
def execPerfRingRead (mb : Nat) (s : State) : Out :=
  .next <| s.serve mb 0x0903 .sealed .reads anyBody fun s r =>
    let i := r.session
    let n := fieldAt r.body 0 2
    match (s.session i).ring with
    | none => (s, Resp.of stRefused)
    | some g =>
      if r.body.length ≠ 2 ∨ n = 0 ∨ 120 < n then (s, Resp.of stRefused)
      else
        let m := min n g.held
        let (j, l) := (List.range m).foldl
          (fun (acc : Job × List Bytes) k =>
            let (j, b) := acc.1.readHbm (g.base + (g.tail + 64 * k) % g.size) 64
            (j, acc.2 ++ [b])) (s.plainJob i g.owner, [])
        if j.status ≠ stOk then (j.st, Resp.of j.status)
        else
          let s := j.st.onSession i fun x => { x with ring := x.ring.map fun g => { g with tail := (g.tail + 64 * m) % g.size } }
          (s, Resp.ok (le 2 m ++ zeros 2 ++ w32 g.lost ++ l.flatten))

/-- SAMPLE_RECORD_WRITE: the first record queued is written at the head, or counted in LOST while the ring is full. -/
def execSampleRecordWrite (i : Nat) (s : State) : Out :=
  let x := s.session i
  match x.ring with
  | none => .next s
  | some g =>
    match g.queue with
    | [] => .next s
    | q :: rest =>
      if g.size / 64 - 1 ≤ g.held then
        .next (s.setSession i { x with ring := some { g with queue := rest, lost := satAdd g.lost 1 } })
      else
        let g' := { g with queue := rest, head := (g.head + 64) % g.size }
        .next (((s.setSession i { x with ring := some g' }).plainJob i g.owner).writeHbm (g.base + g.head) q.bytes).st

/-! ### Events of every clock, R554 -/

/-- R547, R549: one counter over one TIME clock. An event that stands at a level, as 0x005 and 0x261 do, rises once where the
clock before had a zero; the others may rise on each clock. Assumption log 86 (DESIGN CHOICE). -/
def State.clockCount (s : State) (key : Nat) (c : Counter) : State :=
  let i := c.session.toNat
  let ev := c.event.toNat
  if [0x005, 0x060, 0x261, 0x280, 0x281].contains ev ∧ c.counts i ev then
    let n := s.clockValue i (key / 64) ev (Config.freeWord s.draws).toNat
    let s := { s with draws := s.draws + 1 }
    let s := if (ev = 0x005 ∨ ev = 0x261) ∧ c.edge then
        (if n = 0 ∨ c.high then s
         else
           let (c, r) := c.advance 1
           let s := s.putCounter key c
           if r ∧ c.owner = 1 then s.sample i key ev else s)
      else if n = 0 then s else s.bump i key n n
    s.putCounter key { Table.get Counter.reset s.perf.counters key with high := decide (n ≠ 0) }
  else s

/-- Every counter over one TIME clock. -/
def State.clockEvents (s : State) : State := s.perf.counters.foldl (fun s e => s.clockCount e.1 e.2) s

/-- A tick of an idle module: time moves on, clocks are counted, and the time since which R526's conditions hold moves on
while they do not. -/
def State.idleStep (s : State) : State :=
  let s := if s.timeRuns then s.tick.clockEvents else s
  if s.quiet then s else { s with power := { s.power with idleSince := s.time.now } }

end Sys2Proof.Machine
end

