-- ==== Sys2Proof/Machine/Mgmt.lean ====
section
/-! DEFINITION. SPDM (R388, R389, R585) and the management bus (R581 to R587). Answers whose bytes the manual leaves to the
DMTF standards come from Config.standardAnswer; the manual's own values in them are written out. -/

namespace Sys2Proof.Machine

/-! ### When a service is available, R583 -/

/-- MCTP control, PLDM and vendor messages: from AON in SMBus mode; in I3C mode from the MGMT domain (16), after P3 and in
PS0 to PS3, a P3 that the wake from PS3 repeats with it. Assumption log 62 (PRESUMED). -/
def State.mgmtReady (s : State) : Bool :=
  if s.aon.mgmtI3c then
    s.aon.running && (decide (3 < s.resets.inPhase) || s.power.waking3) && s.resets.released.getLsbD 16 && s.power.power ≠ .ps4
  else s.aon.running

/-- R581: the static address, from the straps. -/
def Aon.staticAddr (a : Aon) : BitVec 7 := 0x30 + a.mgmtAddr.zeroExtend 7

/-- R581, R583: the address the module answers at: the static one in SMBus mode, and in I3C mode until a dynamic one has been
given. -/
def Aon.busAddr (a : Aon) : BitVec 7 := if a.mgmtI3c then a.dynAddr.getD a.staticAddr else a.staticAddr

/-- SPDM: Production, FW_STATE RUNNING, PS0 to PS2, and an attestation key to answer with, which the KEYS step of a
transition destroys (R432). Assumption log 61 (PRESUMED). -/
def State.spdmReady (s : State) : Bool :=
  s.lcState = 2 && s.lc.attestKeys && s.fw.state = .running && s.resets.inReset.isNone &&
    (s.power.power = .ps0 || s.power.power = .ps1 || s.power.power = .ps2)

/-- Error codes of the bindings the manual names: MCTP and PLDM completion codes, SPDM errors (DMTF's numbers).
Assumption log 61 (PRESUMED). -/
def errInvalidData : Nat := 0x02
@[inherit_doc errInvalidData] def errNotReady : Nat := 0x04
@[inherit_doc errInvalidData] def errUnsupportedCmd : Nat := 0x05
@[inherit_doc errInvalidData] def errPldmType : Nat := 0x20
@[inherit_doc errInvalidData] def errSensorId : Nat := 0x80
@[inherit_doc errInvalidData] def spdmInvalidRequest : Nat := 0x01
@[inherit_doc errInvalidData] def spdmBusy : Nat := 0x03
@[inherit_doc errInvalidData] def spdmUnexpected : Nat := 0x04
@[inherit_doc errInvalidData] def spdmDecryptError : Nat := 0x06
@[inherit_doc errInvalidData] def spdmUnsupported : Nat := 0x07

/-- The bytes a standard fixes. Assumption log 14 (DESIGN CHOICE). -/
def standardBytes (service item : Nat) : Bytes := (List.range (Config.standardLength service item)).map (Config.standardAnswer service item)

/-- The answer on the management bus; without standby power nothing answers. Assumption log 62 (PRESUMED). -/
def State.mgmtAnswer (s : State) (f : State → State × Reply) : State :=
  if ¬ s.aon.running then { s with mgmtReply := .none }
  else if ¬ s.mgmtReady then { s with mgmtReply := .error errNotReady }
  else { (f s).1 with mgmtReply := (f s).2 }

/-- An answer with no effect. -/
def State.mgmtSay (s : State) (r : Reply) : State := s.mgmtAnswer fun s => (s, r)

/-! ### SPDM -/

/-- The answer of the SPDM responder, on the transport of its request (R388, R583). Assumption log 61 (PRESUMED). -/
def State.spdmAnswer (s : State) (v : Via) (f : State → State × Reply) : State :=
  let (s, r) := if s.spdmReady then f s else (s, .error spdmBusy)
  match v with
  | .mctp => if s.aon.running then { s with mgmtReply := r } else { s with mgmtReply := .none }
  | .doe _ => { s with host := { s.host with reply := r } }

/-- R388, R585: the requests that the responder serves on a transport, by their code: over MCTP no KEY_EXCHANGE, no FINISH
and no secured message; on neither PSK_EXCHANGE nor PSK_FINISH. Assumption log 61 (PRESUMED). -/
def spdmServes (v : Via) (code : Nat) (secured : Bool) : Bool :=
  match v with
  | .mctp => !secured && [0x81, 0x82, 0x83, 0x84, 0xE0, 0xE1, 0xE3].contains code
  | .doe _ => [0x81, 0x82, 0x83, 0x84, 0xE0, 0xE1, 0xE3, 0xE4, 0xE5].contains code

/-- A request reaches the responder: a DOE mailbox, which is configuration space, answers where its function does (R445,
R458, R462). One that is not served is answered with UnsupportedRequest. Assumption log 61 (PRESUMED). -/
def State.spdmRequest (s : State) (v : Via) (code : Nat) (secured : Bool) (f : State → State × Reply) : State :=
  let f := fun (s : State) => if spdmServes v code secured then f s else (s, .error spdmUnsupported)
  match v with
  | .mctp => s.spdmAnswer v f
  | .doe fn =>
    match s.barredConfig fn with
    | some r => { s with host := { s.host with reply := r } }
    | none => s.spdmAnswer v f

/-- The header of an SPDM 1.3 answer. -/
def spdmHead (code : Byte) : Bytes := [0x13, code, 0, 0]

/-- R388: one SPDM version, 1.3. Assumption log 61 (PRESUMED). -/
def spdmVersions : Bytes := [0x10, 0x04, 0, 0, 0, 1, 0x00, 0x13]

/-- R388, R585: what the responder can do on a transport: certificates, challenge and signed measurements, and on a DOE
mailbox also encryption, MACs, mutual authentication and key exchange; never PSK. -/
def spdmFlags (v : Via) : Nat :=
  let always := 2 ^ 1 + 2 ^ 2 + 2 * 2 ^ 3
  match v with
  | .mctp => always
  | .doe _ => always + 2 ^ 6 + 2 ^ 7 + 2 ^ 8 + 2 ^ 9

/-- The CAPABILITIES answer; its times and sizes are the standard's to leave open. Assumption log 61 (PRESUMED). -/
def spdmCapabilities (v : Via) : Bytes :=
  spdmHead 0x61 ++ [0, Config.standardAnswer 0xE1 0 0, 0, 0] ++ le 4 (spdmFlags v) ++
    (List.range 8).map fun k => Config.standardAnswer 0xE1 0 (k + 1)

/-- R388: the ALGORITHMS answer: RSASSA-PSS with a 4,096-bit key, SHA-512, ECDHE over secp384r1 and AES-256-GCM; the
requester's own signature algorithm is left open. Assumption log 61 (PRESUMED). -/
def spdmAlgorithms (v : Via) : Bytes :=
  let entry := fun (kind chosen : Nat) => le 1 kind ++ [0x20] ++ le 2 chosen
  let exchange : Bytes := match v with
    | .mctp => []
    | .doe _ => entry 2 (2 ^ 4) ++ entry 3 (2 ^ 1) ++ le 1 4 ++ [0x20, Config.standardAnswer 0xE3 0 0, Config.standardAnswer 0xE3 0 1] ++
        entry 5 1
  [0x13, 0x63] ++ le 1 (exchange.length / 4) ++ [0] ++ le 2 (36 + exchange.length) ++ [1, 0] ++ le 4 (2 ^ 3) ++ le 4 (2 ^ 6) ++
    le 4 (2 ^ 2) ++ zeros 16 ++ exchange

/-- The message that an SPDM signature covers, of which the manual's part is `known`: a prefix of 100 bytes and a hash.
Assumption log 61 (PRESUMED). -/
def State.spdmSign (s : State) (known : Bytes) : Bytes × State :=
  let (d, s) := s.draw
  let (salt, s) := s.random 64
  (s.attestSign ((List.range 164).map (Config.transcript d known)) salt, s)

/-- R388: an ephemeral key of the ECDHE exchange: its private number. -/
def ephemeral (b : Bytes) : Nat := beNat b % (Crypto.order384 - 1) + 1

/-- DMTF's labelled input of a key derivation. -/
def spdmLabel (label : String) (context : Bytes) : Bytes := le 2 64 ++ ascii "spdm1.3 " ++ ascii label ++ context

/-- The export master secret of a session (R389), by DMTF's key schedule from the secret that ECDHE agreed and the hash of
the transcript. -/
def exportMasterOf (shared transcript : Bytes) : Bytes :=
  let handshake := Crypto.hmac (zeros 64) shared
  let master := Crypto.hmac (Crypto.hkdfExpand handshake (spdmLabel "derived" []) 64) (zeros 64)
  Crypto.hkdfExpand master (spdmLabel "exp master" transcript) 64

/-- KEY_EXCHANGE with mutual authentication: the SHA-512 fingerprint of the requester's leaf key (R380) and the secret that
the two ephemeral secp384r1 keys agree are kept until FINISH, and the answer, with random data and the responder's own
ephemeral key, is signed under the attestation key; over MCTP it is refused (R585). Assumption log 61 (PRESUMED). -/
def execKeyExchange (v : Via) (requester : Requester) (s : State) : Out :=
  .next <| s.spdmRequest v 0xE4 false fun s =>
    match v with
    | .mctp => (s, .error spdmUnsupported)
    | .doe fn =>
      let peer := (beNat (slice requester.exchange 0 48), beNat (slice requester.exchange 48 48))
      if ¬ Crypto.onCurve peer then (s, .error spdmInvalidRequest)
      else
        let (own, s) := s.random 32
        let (secret, s) := s.random 48
        let k := ephemeral secret
        let shared := slice (Crypto.pointBytes (Crypto.curveMul k peer)) 0 48
        let body := spdmHead 0x64 ++ standardBytes 0xE4 0 ++ [1, 0] ++ own ++
          Crypto.pointBytes (Crypto.curveMul k Crypto.base384) ++ standardBytes 0xE4 1
        let (sig, s) := s.spdmSign body
        let h := s.host
        ({ s with host := { h with
            spdmPending := ⟨fn, Crypto.sha512 requester.leafKey, shared⟩ :: h.spdmPending.filter fun q => q.fn ≠ fn } },
          .bytes (body ++ sig ++ standardBytes 0xE4 2))

/-- FINISH: an authenticated requester has an SPDM session. Assumption log 61 (PRESUMED). -/
def execFinish (v : Via) (authenticated : Bool) (s : State) : Out :=
  .next <| s.spdmRequest v 0xE5 true fun s =>
    match v with
    | .mctp => (s, .error spdmUnsupported)
    | .doe fn =>
      let h := s.host
      let rest := h.spdmPending.filter fun q => q.fn ≠ fn
      match h.spdmPending.find? fun q => q.fn = fn with
      | none => (s, .error spdmUnexpected)
      | some q =>
        if authenticated then
          let (d, s) := s.draw
          let master := exportMasterOf q.shared ((List.range 64).map (Config.transcript d q.leaf))
          ({ s with host := { h with
              spdmPending := rest, spdm := h.spdm ++ [⟨h.spdmNext, fn, q.leaf, master⟩], spdmNext := h.spdmNext + 1 } },
            .bytes (spdmHead 0x65 ++ standardBytes 0xE5 0))
        else ({ s with host := { h with spdmPending := rest } }, .error spdmDecryptError)

/-- GET_VERSION. -/
def execGetVersion (v : Via) (s : State) : Out :=
  .next <| s.spdmRequest v 0x84 false fun s => (s, .bytes spdmVersions)

/-- GET_CAPABILITIES. -/
def execGetCapabilities (v : Via) (s : State) : Out :=
  .next <| s.spdmRequest v 0xE1 false fun s => (s, .bytes (spdmCapabilities v))

/-- NEGOTIATE_ALGORITHMS. -/
def execNegotiateAlgorithms (v : Via) (s : State) : Out :=
  .next <| s.spdmRequest v 0xE3 false fun s => (s, .bytes (spdmAlgorithms v))

/-- GET_DIGESTS: the digest of the chain in slot 0. Assumption log 61 (PRESUMED). -/
def execGetDigests (v : Via) (s : State) : Out :=
  .next <| s.spdmRequest v 0x81 false fun s => (s, .bytes (standardBytes 0x81 0 ++ Crypto.sha512 s.chain))

/-- GET_CERTIFICATE: a portion of the chain in slot 0 and how much of it remains. -/
def execGetCertificate (v : Via) (slot offset length : Nat) (s : State) : Out :=
  .next <| s.spdmRequest v 0x82 false fun s =>
    if slot ≠ 0 ∨ s.chain.length ≤ offset then (s, .error spdmInvalidRequest)
    else
      let part := (s.chain.drop offset).take length
      (s, .bytes (standardBytes 0x82 0 ++ le 2 part.length ++ le 2 (s.chain.length - offset - part.length) ++ part))

/-- CHALLENGE: signed under the attestation key (R388). -/
def execChallenge (v : Via) (slot : Nat) (nonce : Bytes) (s : State) : Out :=
  .next <| s.spdmRequest v 0x83 false fun s =>
    if slot ≠ 0 then (s, .error spdmInvalidRequest)
    else
      let (own, s) := s.random 32
      let head := standardBytes 0x83 0 ++ Crypto.sha512 s.chain ++ own
      let (sig, s) := s.spdmSign (nonce ++ head)
      (s, .bytes (head ++ sig))

/-- R585: measurement blocks 1 to 8, the firmware digests in the order of R415, and block 9, the life-cycle state code.
Assumption log 61 (PRESUMED). -/
def State.measurement (s : State) (k : Nat) : Option Bytes :=
  if 1 ≤ k ∧ k ≤ 8 then some (s.fw.digests.getD (k - 1) (zeros 64))
  else if k = 9 then some (le 1 s.lcState)
  else none

/-- GET_MEASUREMENTS: the number of blocks (index 0), one block, or all of them (index 0xFF).
Assumption log 61 (PRESUMED). -/
def execGetMeasurements (v : Via) (index : Nat) (s : State) : Out :=
  .next <| s.spdmRequest v 0xE0 false fun s =>
    if index = 0 then (s, .bytes [9])
    else if index = 0xFF then
      (s, .bytes ((List.range 9).map fun k => le 1 (k + 1) ++ (s.measurement (k + 1)).getD []).flatten)
    else
      match s.measurement index with
      | some b => (s, .bytes (le 1 index ++ b))
      | none => (s, .error spdmInvalidRequest)

/-! ### MCTP control, R582 -/

/-- The MCTP control command of a code, the five of R582; any other is answered with the error of the binding. Get Message
Type Support names MCTP control, PLDM, SPDM and vendor-defined PCI, and Get Vendor Defined Message Support PCI Vendor ID
0x1E5D; the null and broadcast IDs are no endpoint's. Assumption log 62 (PRESUMED). -/
def State.mctpControl (s : State) (command : Nat) (data : Bytes) : State × Reply :=
  match command with
  | 0x01 =>
    let eid := u8 data 0
    if eid = 0 ∨ eid = 0xFF then (s, .error errInvalidData)
    else ({ s with aon := { s.aon with eid := eid } }, .bytes [0, eid])
  | 0x02 => (s, .bytes [0, s.aon.eid])
  | 0x04 => (s, .bytes (0 :: standardBytes 0x00 0x04))
  | 0x05 => (s, .bytes [0, 4, 0x00, 0x01, 0x05, 0x7E])
  | 0x06 => (s, .bytes [0, 0xFF, 0x00, 0x1E, 0x5D])
  | _ => (s, .error errUnsupportedCmd)

/-- Set Endpoint ID. -/
def execSetEndpointId (eid : Byte) (s : State) : Out := .next <| s.mgmtAnswer fun s => s.mctpControl 0x01 [eid]

/-- Get Endpoint ID. -/
def execGetEndpointId (s : State) : Out := .next <| s.mgmtAnswer fun s => s.mctpControl 0x02 []

/-- Get MCTP Version Support. -/
def execGetMctpVersionSupport (s : State) : Out := .next <| s.mgmtAnswer fun s => s.mctpControl 0x04 []

/-- Get Message Type Support. -/
def execGetMessageTypeSupport (s : State) : Out := .next <| s.mgmtAnswer fun s => s.mctpControl 0x05 []

/-- Get Vendor Defined Message Support. -/
def execGetVendorDefinedMessageSupport (s : State) : Out := .next <| s.mgmtAnswer fun s => s.mctpControl 0x06 []

/-- R581: in I3C mode the module accepts a dynamic address; its provisioned ID is the low 48 bits of its serial number.
Assumption log 62 (PRESUMED). -/
def execEntdaa (address : BitVec 7) (s : State) : Out :=
  .next <|
    if s.aon.mgmtI3c ∧ s.mgmtReady then
      { s with
        aon := { s.aon with dynAddr := some address }
        mgmtReply := .bytes (le 4 (s.configRead 0 0x121).toNat ++ le 2 (s.configRead 0 0x122).toNat) }
    else { s with mgmtReply := .none }

/-! ### PLDM, R584 -/

/-- The reading of a sensor of R584. -/
def State.sensorReading (s : State) (n : Nat) : Option Bytes :=
  if 1 ≤ n ∧ n ≤ 64 then some (w16 (BitVec.ofInt 16 (s.watch.fil (n - 1))))
  else if n = 100 then some (le 1 s.power.power.code)
  else if n = 101 then some (le 1 s.lcState)
  else if n = 102 then some (le 1 s.fw.state.code)
  else if n = 103 then some (le 1 s.resets.phase.toNat)
  else none

/-- The thresholds of a sensor in the PDR repository, in its unit: lower fatal, lower warning, upper warning, upper fatal. -/
structure Thresholds where
  lowFatal : Option Nat
  lowWarning : Option Nat
  highWarning : Option Nat
  highFatal : Option Nat
  deriving DecidableEq, Repr

/-- R584: the thresholds of sensor `n`, which reads Watch Post sensor `n - 1`. -/
def State.thresholds (s : State) (n : Nat) : Thresholds :=
  if 1 ≤ n ∧ n ≤ 40 then ⟨none, none, some s.options.throttleOn.toNat, some 1760⟩
  else if 41 ≤ n ∧ n ≤ 48 then ⟨none, none, none, some 1680⟩
  else if n = 49 then ⟨none, none, some 720, some 800⟩
  else if n = 51 then ⟨some 384, some 768, none, none⟩
  else ⟨none, none, none, none⟩

/-- The state of a numeric sensor against its thresholds, as a type 2 reading reports it: normal, warning or fatal, low or
high (DMTF's numbers). Assumption log 62 (PRESUMED). -/
def Thresholds.state (t : Thresholds) (v : Int) : Nat :=
  if t.lowFatal.any fun k => v < k then 7
  else if t.highFatal.any fun k => (k : Int) ≤ v then 10
  else if t.lowWarning.any fun k => v < k then 5
  else if t.highWarning.any fun k => (k : Int) ≤ v then 8
  else 1

/-- A PDR of the repository: sensor, whether it is numeric, and its thresholds. -/
def State.pdr (s : State) (n : Nat) : Option (Bool × Thresholds) :=
  (s.sensorReading n).map fun _ => (decide (n ≤ 64), s.thresholds n)

/-- R584: a type 2 reading: the present state of a numeric sensor against the thresholds of its PDR, and its value; or the
value of a state sensor. Assumption log 62 (PRESUMED). -/
def State.pldmReading (s : State) (n : Nat) : Reply :=
  match s.sensorReading n, s.pdr n with
  | some b, some (numeric, t) =>
    if numeric then .bytes (0 :: le 1 (t.state (s.watch.fil (n - 1))) ++ b) else .bytes (0 :: b)
  | _, _ => .error errSensorId

/-- R582, R584: a PLDM request of a type and command. Type 0 discovery: SetTID, GetTID, GetPLDMVersion, GetPLDMTypes (0 and
2) and GetPLDMCommands; type 2: GetSensorReading, GetStateSensorReadings and PollForPlatformEventMessage, which has no event
queued. Any other type or command is answered with its error. Assumption log 62 (PRESUMED). -/
def State.pldm (s : State) (type command sensor : Nat) : Reply :=
  if type = 0 then
    if command = 0x04 then .bytes (0 :: 0x05 :: zeros 7)
    else if 1 ≤ command ∧ command ≤ 5 then .bytes (0 :: standardBytes 0x01 command)
    else .error errUnsupportedCmd
  else if type = 2 then
    if command = 0x11 ∨ command = 0x21 then s.pldmReading sensor
    else if command = 0x0B then .bytes [0, 0, 0]
    else .error errUnsupportedCmd
  else .error errPldmType

/-- Type 0 discovery. -/
def execPldmDiscovery (command : Byte) (s : State) : Out := .next <| s.mgmtSay (s.pldm 0 command.toNat 0)

/-- A type 2 sensor reading. -/
def execPldmSensorRead (sensor : Nat) (s : State) : Out :=
  .next <| s.mgmtSay (s.pldm 2 (if sensor ≤ 64 then 0x11 else 0x21) sensor)

/-- PollForPlatformEventMessage. -/
def execPollForPlatformEventMessage (s : State) : Out := .next <| s.mgmtSay (s.pldm 2 0x0B 0)

/-! ### Vendor messages, R586, R587 -/

/-- A vendor response: COMMAND, STATUS and data. -/
def vendorAnswer (command : Nat) (st : Status) (data : Bytes) : Reply := .bytes (le 1 command ++ w16 st ++ data)

/-- R587: the new block goes into the other sector, which becomes current. Assumption log 63 (DEDUCED). -/
def Fuses.storeBlock (f : Fuses) (b : Bytes) : Fuses :=
  if f.currentSector then { f with sector0 := b, currentSector := false } else { f with sector1 := b, currentSector := true }

/-- The vendor command of a code, with its request from byte 2: ledger bytes, of which those beyond 8,255 are not returned;
a reset log entry, 0 the oldest, a place never written reading zero; up to three Watch Post entries that the management
read pointer has not passed, past which it advances; the life-cycle status; the option block read and written. Any other
code is refused (R586). Assumption log 63 (DEDUCED). -/
def State.vendorServe (s : State) (command : Nat) (b : Bytes) : State × Status × Bytes :=
  match command with
  | 0x01 =>
    if 8255 < fieldAt b 0 2 ∨ fieldAt b 2 1 = 0 ∨ 48 < fieldAt b 2 1 then (s, stRefused, [])
    else (s, stOk, (s.aon.ledgerBytes.drop (fieldAt b 0 2)).take (fieldAt b 2 1))
  | 0x02 =>
    if 31 < fieldAt b 0 1 then (s, stRefused, [])
    else (s, stOk, match s.aon.resetLog[fieldAt b 0 1]? with | some e => e.bytes | none => zeros 16)
  | 0x03 =>
    let n := min 3 s.aon.watchUnread
    let l := (s.aon.watchLog.drop (s.aon.watchLog.length - s.aon.watchUnread)).take n
    (({ s with aon := { s.aon with watchUnread := s.aon.watchUnread - n } } : State).settlePins, stOk,
      le 1 n ++ (l.map WatchEntry.bytes).flatten)
  | 0x04 => (s, stOk, s.lcStatusBytes)
  | 0x05 => (s, stOk, if s.fuses.block.isEmpty then zeros 64 else s.fuses.block)
  | 0x06 =>
    if ¬ optionOk b then (s, stRefused, [])
    else if s.lcState = 4 ∨ s.lcState = 0xFF ∨ s.lc.openRec.isSome then (s, stLocked, [])
    else ({ s with fuses := s.fuses.storeBlock b }, stOk, [])
  | _ => (s, stRefused, [])

/-- R586: a vendor request: COMMAND, a zero byte, and the rest; outside its state it reads ST_NOT_READY (R583).
Assumption log 63 (DEDUCED). -/
def State.vendor (s : State) (request : Bytes) : State :=
  let command := (u8 request 0).toNat
  if ¬ s.aon.running then { s with mgmtReply := .none }
  else if ¬ s.mgmtReady then { s with mgmtReply := vendorAnswer command stNotReady [] }
  else if u8 request 1 ≠ 0 then { s with mgmtReply := vendorAnswer command stRefused [] }
  else
    let r := s.vendorServe command (request.drop 2)
    { r.1 with mgmtReply := vendorAnswer command r.2.1 r.2.2 }

/-- A vendor request of a command. -/
def vendorRequest (command : Byte) (b : Bytes) : Bytes := command :: 0 :: b

/-- LEDGER_READ. -/
def execLedgerRead (offset length : Nat) (s : State) : Out :=
  .next <| s.vendor (vendorRequest 0x01 (le 2 offset ++ le 1 length))

/-- RESET_LOG_READ. -/
def execVendorResetLogRead (entry : Nat) (s : State) : Out := .next <| s.vendor (vendorRequest 0x02 (le 1 entry))

/-- WATCH_LOG_READ. -/
def execVendorWatchLogRead (s : State) : Out := .next <| s.vendor (vendorRequest 0x03 [])

/-- LC_STATUS. -/
def execVendorLcStatus (s : State) : Out := .next <| s.vendor (vendorRequest 0x04 [])

/-- OPTION_READ. -/
def execOptionRead (s : State) : Out := .next <| s.vendor (vendorRequest 0x05 [])

/-- OPTION_WRITE. -/
def execOptionWrite (block : Bytes) (s : State) : Out := .next <| s.vendor (vendorRequest 0x06 block)

end Sys2Proof.Machine
end

