-- ==== Sys2Proof/Machine/Dispatch.lean ====
section
/-! DEFINITION. Which meaning each command has. -/

namespace Sys2Proof.Machine

def exec (i : Instr) (s : State) : Host.Outcome State Fault Refusal :=
  match i with
  | .nop o => Sys2Proof.Machine.execNop o s
  | .endList o => Sys2Proof.Machine.execEndList o s
  | .link o => Sys2Proof.Machine.execLink o s
  | .matmul o => Sys2Proof.Machine.execMatmul o s
  | .matmulAlt o => Sys2Proof.Machine.execMatmulAlt o s
  | .arrayScrub o => Sys2Proof.Machine.execArrayScrub o s
  | .phMove o => Sys2Proof.Machine.execPhMove o s
  | .phStream o => Sys2Proof.Machine.execPhStream o s
  | .runKernel o => Sys2Proof.Machine.execRunKernel o s
  | .reckon o => Sys2Proof.Machine.execReckon o s
  | .dpNoise o => Sys2Proof.Machine.execDpNoise o s
  | .stepSeal o => Sys2Proof.Machine.execStepSeal o s
  | .exchange o => Sys2Proof.Machine.execExchange o s
  | .exchangeV o => Sys2Proof.Machine.execExchangeV o s
  | .reduceScatter o residueFails => Sys2Proof.Machine.execReduceScatter o residueFails s
  | .allGather o => Sys2Proof.Machine.execAllGather o s
  | .allReduce o residueFails => Sys2Proof.Machine.execAllReduce o residueFails s
  | .tallyAdd o => Sys2Proof.Machine.execTallyAdd o s
  | .tallySet o => Sys2Proof.Machine.execTallySet o s
  | .tallyArm o => Sys2Proof.Machine.execTallyArm o s
  | .farMove o => Sys2Proof.Machine.execFarMove o s
  | .ckptExport o => Sys2Proof.Machine.execCkptExport o s
  | .ckptImport o => Sys2Proof.Machine.execCkptImport o s
  | .descriptorStart session ctx => Sys2Proof.Machine.execDescriptorStart session ctx s
  | .tileIssue session operandLate scaleLate => Sys2Proof.Machine.execTileIssue session operandLate scaleLate s
  | .tileDrain session drainHeld => Sys2Proof.Machine.execTileDrain session drainHeld s
  | .arrayOpComplete o => Sys2Proof.Machine.execArrayOpComplete o s
  | .collectiveComplete o => Sys2Proof.Machine.execCollectiveComplete o s
  | .descriptorComplete o => Sys2Proof.Machine.execDescriptorComplete o s
  | .launchComparatorFire o => Sys2Proof.Machine.execLaunchComparatorFire o s
  | .armFire tally => Sys2Proof.Machine.execArmFire tally s
  | .commandCorePoll core => Sys2Proof.Machine.execCommandCorePoll core s
  | .sampleRecordWrite session => Sys2Proof.Machine.execSampleRecordWrite session s
  | .sweepStep channel => Sys2Proof.Machine.execSweepStep channel s
  | .fwSupply mb => Sys2Proof.Machine.execFwSupply mb s
  | .fwVerifyDone => Sys2Proof.Machine.execFwVerifyDone s
  | .ledgerClear mb => Sys2Proof.Machine.execLedgerClear mb s
  | .hostWindowGrant mb => Sys2Proof.Machine.execHostWindowGrant mb s
  | .hostWindowWithdraw mb => Sys2Proof.Machine.execHostWindowWithdraw mb s
  | .farTargetGrant mb => Sys2Proof.Machine.execFarTargetGrant mb s
  | .farTargetWithdraw mb => Sys2Proof.Machine.execFarTargetWithdraw mb s
  | .linkConfigRead mb => Sys2Proof.Machine.execLinkConfigRead mb s
  | .linkConfigWrite mb => Sys2Proof.Machine.execLinkConfigWrite mb s
  | .lcChallenge mb => Sys2Proof.Machine.execLcChallenge mb s
  | .lcTransition mb => Sys2Proof.Machine.execLcTransition mb s
  | .lcStatus mb => Sys2Proof.Machine.execLcStatus mb s
  | .transitionStepDone => Sys2Proof.Machine.execTransitionStepDone s
  | .challengeExpiry => Sys2Proof.Machine.execChallengeExpiry s
  | .portStatus0 mb => Sys2Proof.Machine.execPortStatus0 mb s
  | .timeRead mb => Sys2Proof.Machine.execTimeRead mb s
  | .linkReset mb => Sys2Proof.Machine.execLinkReset mb s
  | .attestReport mb => Sys2Proof.Machine.execAttestReport mb s
  | .sessionOpen mb => Sys2Proof.Machine.execSessionOpen mb s
  | .sessionClose mb => Sys2Proof.Machine.execSessionClose mb s
  | .partyJoin mb => Sys2Proof.Machine.execPartyJoin mb s
  | .partyRemove mb => Sys2Proof.Machine.execPartyRemove mb s
  | .weightPlan mb => Sys2Proof.Machine.execWeightPlan mb s
  | .ingest mb => Sys2Proof.Machine.execIngest mb s
  | .weightDigestRoot session => Sys2Proof.Machine.execWeightDigestRoot session s
  | .listLoad mb => Sys2Proof.Machine.execListLoad mb s
  | .listUnload mb => Sys2Proof.Machine.execListUnload mb s
  | .kernelLoad mb => Sys2Proof.Machine.execKernelLoad mb s
  | .contextStart mb => Sys2Proof.Machine.execContextStart mb s
  | .contextStop mb => Sys2Proof.Machine.execContextStop mb s
  | .scaleWrite mb => Sys2Proof.Machine.execScaleWrite mb s
  | .routingLoad mb => Sys2Proof.Machine.execRoutingLoad mb s
  | .consignConfig mb => Sys2Proof.Machine.execConsignConfig mb s
  | .timeSet mb => Sys2Proof.Machine.execTimeSet mb s
  | .rollCall mb => Sys2Proof.Machine.execRollCall mb s
  | .sealResolve mb => Sys2Proof.Machine.execSealResolve mb s
  | .voidRequest mb => Sys2Proof.Machine.execVoidRequest mb s
  | .recordRead mb => Sys2Proof.Machine.execRecordRead mb s
  | .tallyRead mb => Sys2Proof.Machine.execTallyRead mb s
  | .powerSet mb => Sys2Proof.Machine.execPowerSet mb s
  | .resetRequest mb => Sys2Proof.Machine.execResetRequest mb s
  | .firmwareRequestAssert => Sys2Proof.Machine.execFirmwareRequestAssert s
  | .resetLogRead mb => Sys2Proof.Machine.execResetLogRead mb s
  | .watchRead mb => Sys2Proof.Machine.execWatchRead mb s
  | .watchLogRead mb => Sys2Proof.Machine.execWatchLogRead mb s
  | .backupRead mb => Sys2Proof.Machine.execBackupRead mb s
  | .backupWrite mb => Sys2Proof.Machine.execBackupWrite mb s
  | .perfConfigRead mb => Sys2Proof.Machine.execPerfConfigRead mb s
  | .perfConfigWrite mb => Sys2Proof.Machine.execPerfConfigWrite mb s
  | .perfConfigClaim mb => Sys2Proof.Machine.execPerfConfigClaim mb s
  | .perfConfigRelease mb => Sys2Proof.Machine.execPerfConfigRelease mb s
  | .perfRead mb => Sys2Proof.Machine.execPerfRead mb s
  | .perfRing mb => Sys2Proof.Machine.execPerfRing mb s
  | .perfRingRead mb => Sys2Proof.Machine.execPerfRingRead mb s
  | .registerWrite origin offset value => Sys2Proof.Machine.execRegisterWrite origin offset value s
  | .nowLoRead origin => Sys2Proof.Machine.execNowLoRead origin s
  | .statusPageWrite page => Sys2Proof.Machine.execStatusPageWrite page s
  | .hdmRead offset => Sys2Proof.Machine.execHdmRead offset s
  | .hdmWrite offset data => Sys2Proof.Machine.execHdmWrite offset data s
  | .birsp offset data => Sys2Proof.Machine.execBirsp offset data s
  | .bisnpinv => Sys2Proof.Machine.execBisnpinv s
  | .h2dSnoop address => Sys2Proof.Machine.execH2dSnoop address s
  | .uioCompletion session status => Sys2Proof.Machine.execUioCompletion session status s
  | .configurationRequest fn register access => Sys2Proof.Machine.execConfigurationRequest fn register access s
  | .hdmDecoderCommit range ways stream => Sys2Proof.Machine.execHdmDecoderCommit range ways stream s
  | .d3hotEntry fn => Sys2Proof.Machine.execD3hotEntry fn s
  | .ideKm stream => Sys2Proof.Machine.execIdeKm stream s
  | .ideSecureLost stream => Sys2Proof.Machine.execIdeSecureLost stream s
  | .cdatRead => Sys2Proof.Machine.execCdatRead s
  | .hostLinkDown => Sys2Proof.Machine.execHostLinkDown s
  | .hostLinkUp width fullRate => Sys2Proof.Machine.execHostLinkUp width fullRate s
  | .hostLinkRetry success elapsedUs => Sys2Proof.Machine.execHostLinkRetry success elapsedUs s
  | .keyExchange via requester => Sys2Proof.Machine.execKeyExchange via requester s
  | .finish via authenticated => Sys2Proof.Machine.execFinish via authenticated s
  | .getVersion via => Sys2Proof.Machine.execGetVersion via s
  | .getCapabilities via => Sys2Proof.Machine.execGetCapabilities via s
  | .negotiateAlgorithms via => Sys2Proof.Machine.execNegotiateAlgorithms via s
  | .getDigests via => Sys2Proof.Machine.execGetDigests via s
  | .getCertificate via slot offset length => Sys2Proof.Machine.execGetCertificate via slot offset length s
  | .challenge via slot nonce => Sys2Proof.Machine.execChallenge via slot nonce s
  | .getMeasurements via index => Sys2Proof.Machine.execGetMeasurements via index s
  | .setEndpointId eid => Sys2Proof.Machine.execSetEndpointId eid s
  | .getEndpointId => Sys2Proof.Machine.execGetEndpointId s
  | .getMctpVersionSupport => Sys2Proof.Machine.execGetMctpVersionSupport s
  | .getMessageTypeSupport => Sys2Proof.Machine.execGetMessageTypeSupport s
  | .getVendorDefinedMessageSupport => Sys2Proof.Machine.execGetVendorDefinedMessageSupport s
  | .entdaa address => Sys2Proof.Machine.execEntdaa address s
  | .pldmDiscovery command => Sys2Proof.Machine.execPldmDiscovery command s
  | .pldmSensorRead sensor => Sys2Proof.Machine.execPldmSensorRead sensor s
  | .pollForPlatformEventMessage => Sys2Proof.Machine.execPollForPlatformEventMessage s
  | .ledgerRead offset length => Sys2Proof.Machine.execLedgerRead offset length s
  | .vendorResetLogRead entry => Sys2Proof.Machine.execVendorResetLogRead entry s
  | .vendorWatchLogRead => Sys2Proof.Machine.execVendorWatchLogRead s
  | .vendorLcStatus => Sys2Proof.Machine.execVendorLcStatus s
  | .optionRead => Sys2Proof.Machine.execOptionRead s
  | .optionWrite block => Sys2Proof.Machine.execOptionWrite block s
  | .flitSlot port => Sys2Proof.Machine.execFlitSlot port s
  | .dataFlit port flit residueFails => Sys2Proof.Machine.execDataFlit port flit residueFails s
  | .resetFlit port flit => Sys2Proof.Machine.execResetFlit port flit s
  | .uncorrectableCodeword port => Sys2Proof.Machine.execUncorrectableCodeword port s
  | .hello port block => Sys2Proof.Machine.execHello port block s
  | .ack port block => Sys2Proof.Machine.execAck port block s
  | .nak port block => Sys2Proof.Machine.execNak port block s
  | .credit port block => Sys2Proof.Machine.execCredit port block s
  | .timestamp port block => Sys2Proof.Machine.execTimestamp port block s
  | .timestampTick port => Sys2Proof.Machine.execTimestampTick port s
  | .portTrainingDone port cableDelay lanes => Sys2Proof.Machine.execPortTrainingDone port cableDelay lanes s
  | .helloTimeout port => Sys2Proof.Machine.execHelloTimeout port s
  | .laneFailure port lane => Sys2Proof.Machine.execLaneFailure port lane s
  | .collectiveTimeout o => Sys2Proof.Machine.execCollectiveTimeout o s
  | .farMoveTimeout o => Sys2Proof.Machine.execFarMoveTimeout o s
  | .objectTimeout session id => Sys2Proof.Machine.execObjectTimeout session id s
  | .timeFrame clockwise frame => Sys2Proof.Machine.execTimeFrame clockwise frame s
  | .timeFrameTick => Sys2Proof.Machine.execTimeFrameTick s
  | .measureTick => Sys2Proof.Machine.execMeasureTick s
  | .measure clockwise frame => Sys2Proof.Machine.execMeasure clockwise frame s
  | .measureReply clockwise frame => Sys2Proof.Machine.execMeasureReply clockwise frame s
  | .holdoverTimeout => Sys2Proof.Machine.execHoldoverTimeout s
  | .holdoverHeld => Sys2Proof.Machine.execHoldoverHeld s
  | .bypassSwitchChange change idleBoundary => Sys2Proof.Machine.execBypassSwitchChange change idleBoundary s
  | .vote rx message => Sys2Proof.Machine.execVote rx message s
  | .summary port message => Sys2Proof.Machine.execSummary port message s
  | .summaryDeadline session => Sys2Proof.Machine.execSummaryDeadline session s
  | .decision rx message => Sys2Proof.Machine.execDecision rx message s
  | .sealCollectionClose session => Sys2Proof.Machine.execSealCollectionClose session s
  | .sealFlip session => Sys2Proof.Machine.execSealFlip session s
  | .rollCallPostmark session => Sys2Proof.Machine.execRollCallPostmark session s
  | .rollCallMessage sender message => Sys2Proof.Machine.execRollCallMessage sender message s
  | .rollCallDecide session => Sys2Proof.Machine.execRollCallDecide session s
  | .verdict rx message => Sys2Proof.Machine.execVerdict rx message s
  | .epochOpen session => Sys2Proof.Machine.execEpochOpen session s
  | .partyStrike session party => Sys2Proof.Machine.execPartyStrike session party s
  | .sessionCloseStrike session => Sys2Proof.Machine.execSessionCloseStrike session s
  | .engineQuiescent session engine => Sys2Proof.Machine.execEngineQuiescent session engine s
  | .quiesceDeadline session => Sys2Proof.Machine.execQuiesceDeadline session s
  | .noiseLaneFail lane => Sys2Proof.Machine.execNoiseLaneFail lane s
  | .modulePowerGood inputs heldUs => Sys2Proof.Machine.execModulePowerGood inputs heldUs s
  | .in48Rise mV => Sys2Proof.Machine.execIn48Rise mV s
  | .sb12Loss => Sys2Proof.Machine.execSb12Loss s
  | .perstN level widthNs => Sys2Proof.Machine.execPerstN level widthNs s
  | .sysResetN level widthNs => Sys2Proof.Machine.execSysResetN level widthNs s
  | .trstN level widthNs => Sys2Proof.Machine.execTrstN level widthNs s
  | .cxlHotReset assert => Sys2Proof.Machine.execCxlHotReset assert s
  | .cxlFunctionLevelReset => Sys2Proof.Machine.execCxlFunctionLevelReset s
  | .vfFlr vf => Sys2Proof.Machine.execVfFlr vf s
  | .controlWatchdog core => Sys2Proof.Machine.execControlWatchdog core s
  | .tamper assert => Sys2Proof.Machine.execTamper assert s
  | .quarterFault quarter assert => Sys2Proof.Machine.execQuarterFault quarter assert s
  | .quarterReset quarter => Sys2Proof.Machine.execQuarterReset quarter s
  | .quarterResetRelease quarter => Sys2Proof.Machine.execQuarterResetRelease quarter s
  | .blockReset target => Sys2Proof.Machine.execBlockReset target s
  | .resetRelease => Sys2Proof.Machine.execResetRelease s
  | .bringupStepEnd key result elapsedUs detail => Sys2Proof.Machine.execBringupStepEnd key result elapsedUs detail s
  | .clockGood domain lockUs => Sys2Proof.Machine.execClockGood domain lockUs s
  | .clockGoodTimeout domain => Sys2Proof.Machine.execClockGoodTimeout domain s
  | .clockGoodLoss domain => Sys2Proof.Machine.execClockGoodLoss domain s
  | .watchPostSample samples => Sys2Proof.Machine.execWatchPostSample samples s
  | .thermalTripRelease => Sys2Proof.Machine.execThermalTripRelease s
  | .supplyFaultRelease => Sys2Proof.Machine.execSupplyFaultRelease s
  | .ps1Entry => Sys2Proof.Machine.execPs1Entry s
  | .ps0WakeDone => Sys2Proof.Machine.execPs0WakeDone s
  | .ps2WakeDone => Sys2Proof.Machine.execPs2WakeDone s
  | .ps3WakeDone => Sys2Proof.Machine.execPs3WakeDone s
  | .hostPortPowerOff => Sys2Proof.Machine.execHostPortPowerOff s
  | .peerLoss port => Sys2Proof.Machine.execPeerLoss port s
  | .standbyPowerGood mgmtModeGrounded mgmtAddr => Sys2Proof.Machine.execStandbyPowerGood mgmtModeGrounded mgmtAddr s
  | .testEntryInstruction => Sys2Proof.Machine.execTestEntryInstruction s
  | .samplePreload pinLevels laneLevels preset => Sys2Proof.Machine.execSamplePreload pinLevels laneLevels preset s

end Sys2Proof.Machine
end

