-- ==== Sys2Proof/Machine/Step.lean ====
section
/-! DEFINITION. One step: the command at the front of the queue, or one TIME clock of idling when nothing waits. -/

namespace Sys2Proof.Machine

/-- A state without its queue's front. -/
def State.withPending (s : State) (q : List Instr) : State := { s with pending := q }

/-- One step. An empty queue idles for one TIME clock (R292; DESIGN CHOICE, see the assumption log).
Assumption log 1 and 4 (DESIGN CHOICE). -/
def step (s : State) : Host.Outcome State Fault Refusal :=
  match s.pending with
  | [] => .next s.idleStep
  | c :: rest => exec c (s.withPending rest)

/-- The state with the command that a word spells in front of its queue. Assumption log 2 (DESIGN CHOICE). -/
def State.withFetchWord (s : State) (nbits w : Nat) : State :=
  match decodeTableWord nbits w with
  | some c => { s with pending := c :: s.pending }
  | none => s

end Sys2Proof.Machine
end

