-- ==== Sys2Proof/WellFormed.lean ====
section
/-! DEFINITION. Well-formed commands: the numbers a command carries name things the module has. -/

namespace Sys2Proof

/-- Sessions (R55) and their dispatch contexts (R90). -/
def OpRef.wf (o : OpRef) : Bool := decide (o.session < 4 ∧ o.ctx < 4)

/-- The eighteen Krelas ports (R20). -/
def portOk (p : Nat) : Bool := decide (p < 18)

/-- A CXL function: the physical function or one of four virtual functions (R439). -/
def fnOk (f : Nat) : Bool := decide (f < 5)

/-- Cloari mailboxes (R466). -/
def mbOk (m : Nat) : Bool := decide (m < 64)

def Rx.wf : Rx → Bool
  | .ring _ => true
  | .port p => portOk p

def Via.wf : Via → Bool
  | .doe f => fnOk f
  | .mctp => true

/-- A function and one of the eight selective streams of the module (R458). -/
def Origin.wf (o : Origin) : Bool := fnOk o.fn && o.stream.all fun n => decide (n < 8)

def IdeStream.wf : IdeStream → Bool
  | .selective n => decide (n < 8)
  | _ => true

def BlockTarget.wf : BlockTarget → Bool
  | .port p => portOk p
  | .pigeonhole d | .countingBoard d | .reckoner d | .dma d => decide (d < 4)
  | .sortingOffice h => decide (h < 2)
  | _ => true

/-- Every number of the command is in its range. Assumption log 79 (DESIGN CHOICE). -/
def Instr.wf : Instr → Bool
  | .nop o | .endList o | .link o | .matmul o | .matmulAlt o | .arrayScrub o | .phMove o | .phStream o | .runKernel o
  | .reckon o | .dpNoise o | .stepSeal o | .exchange o | .exchangeV o | .reduceScatter o _ | .allGather o
  | .allReduce o _ | .tallyAdd o | .tallySet o | .tallyArm o | .farMove o | .ckptExport o | .ckptImport o
  | .arrayOpComplete o | .collectiveComplete o | .descriptorComplete o | .launchComparatorFire o
  | .collectiveTimeout o | .farMoveTimeout o => o.wf
  | .descriptorStart i c => decide (i < 4 ∧ c < 4)
  | .tileIssue i _ _ | .tileDrain i _ | .sampleRecordWrite i | .weightDigestRoot i | .summaryDeadline i
  | .sealCollectionClose i | .sealFlip i | .rollCallPostmark i | .rollCallDecide i | .epochOpen i | .partyStrike i _
  | .sessionCloseStrike i | .engineQuiescent i _ | .quiesceDeadline i | .objectTimeout i _
  | .uioCompletion i _ => decide (i < 4)
  | .armFire n => decide (n < 4096)
  | .commandCorePoll c => decide (c < 4)
  | .controlWatchdog c => decide (c < 6)
  | .sweepStep c => decide (c < 68)
  | .fwSupply m | .ledgerClear m | .hostWindowGrant m | .hostWindowWithdraw m | .farTargetGrant m
  | .farTargetWithdraw m | .linkConfigRead m | .linkConfigWrite m | .lcChallenge m | .lcTransition m | .lcStatus m
  | .portStatus0 m | .timeRead m | .linkReset m | .attestReport m | .sessionOpen m | .sessionClose m | .partyJoin m
  | .partyRemove m | .weightPlan m | .ingest m | .listLoad m | .listUnload m | .kernelLoad m | .contextStart m
  | .contextStop m | .scaleWrite m | .routingLoad m | .consignConfig m | .timeSet m | .rollCall m | .sealResolve m
  | .voidRequest m | .recordRead m | .tallyRead m | .powerSet m | .resetRequest m | .resetLogRead m | .watchRead m
  | .watchLogRead m | .backupRead m | .backupWrite m | .perfConfigRead m | .perfConfigWrite m | .perfConfigClaim m
  | .perfConfigRelease m | .perfRead m | .perfRing m | .perfRingRead m => mbOk m
  | .registerWrite o _ _ | .nowLoRead o => o.wf
  | .configurationRequest f _ _ | .d3hotEntry f => fnOk f
  | .statusPageWrite p => decide (p < 5)
  | .hdmRead _ | .hdmWrite _ _ | .birsp _ _ | .bisnpinv | .h2dSnoop _ | .cdatRead
  | .hostLinkDown | .hostLinkUp _ _ | .hostLinkRetry _ _ => true
  | .hdmDecoderCommit _ _ st => st.all fun n => decide (n < 8)
  | .ideKm st | .ideSecureLost st => st.wf
  | .keyExchange v r => v.wf && decide (r.exchange.length = 96)
  | .finish v _ | .getVersion v | .getCapabilities v | .negotiateAlgorithms v | .getDigests v
  | .getCertificate v _ _ _ | .challenge v _ _ | .getMeasurements v _ => v.wf
  | .setEndpointId _ | .getEndpointId | .getMctpVersionSupport | .getMessageTypeSupport
  | .getVendorDefinedMessageSupport | .entdaa _ | .pldmDiscovery _ | .pldmSensorRead _ | .pollForPlatformEventMessage => true
  | .ledgerRead o l => decide (o < 65536 ∧ l < 256)
  | .vendorResetLogRead e => decide (e < 256)
  | .vendorWatchLogRead | .vendorLcStatus | .optionRead => true
  | .optionWrite b => decide (b.length = 64)
  | .flitSlot p | .uncorrectableCodeword p | .timestampTick p | .helloTimeout p | .peerLoss p
  | .portTrainingDone p _ _ => portOk p
  | .dataFlit p b _ | .resetFlit p b => portOk p && decide (b.length = 256)
  | .hello p b | .ack p b | .nak p b | .credit p b | .timestamp p b => portOk p && decide (b.length = 32)
  | .laneFailure p l => portOk p && decide (l < 8)
  | .timeFrame _ _ | .timeFrameTick | .measureTick | .measure _ _ | .measureReply _ _ | .holdoverTimeout
  | .holdoverHeld | .bypassSwitchChange (.own _) _ => true
  | .bypassSwitchChange (.member p _) _ => decide (p < 32)
  | .vote rx _ | .decision rx _ | .verdict rx _ => rx.wf
  | .rollCallMessage sender _ => sender.rx.wf
  | .summary p _ => portOk p
  | .noiseLaneFail l => decide (l < 64)
  | .quarterFault q _ | .quarterReset q | .quarterResetRelease q => decide (q < 4)
  | .blockReset t => t.wf
  | .vfFlr v => decide (1 ≤ v ∧ v ≤ 4)
  | .clockGood d _ | .clockGoodTimeout d | .clockGoodLoss d => decide (d < 18)
  | .watchPostSample l => decide (l.length = 64)
  | .fwVerifyDone | .transitionStepDone | .challengeExpiry | .firmwareRequestAssert | .modulePowerGood _ _ | .in48Rise _
  | .sb12Loss | .perstN _ _ | .sysResetN _ _ | .trstN _ _ | .cxlHotReset _ | .cxlFunctionLevelReset | .tamper _
  | .resetRelease | .bringupStepEnd _ _ _ _ | .thermalTripRelease | .supplyFaultRelease | .ps1Entry | .ps0WakeDone
  | .ps2WakeDone | .ps3WakeDone | .hostPortPowerOff | .standbyPowerGood _ _ | .testEntryInstruction
  | .samplePreload _ _ _ => true

end Sys2Proof
end

