-- ==== Sys2Proof/Safety.lean ====
section
/-! DEFINITION. What counts as a safe step and a safe run, and the words the claims are stated in: a request that is
accepted, a command answered with ST_OK, the memories of the module, and its clock domains. -/

namespace Sys2Proof.Machine

/-- The step answers a next state. -/
def Safe (s : State) : Prop := ∃ t, step s = .next t

/-- A run of `n` steps in which every step is safe, ending in `t`. -/
def SafeRun : Nat → State → State → Prop
  | 0, s, t => s = t
  | n + 1, s, t => ∃ u, step s = .next u ∧ SafeRun n u t

/-! ### Mailbox requests -/

/-- The request waiting in mailbox `mb` is one of a command of code `code`, it is its turn, and everything that R466, R471,
R473, R476, R387 and R392 to R395 check before a command looks at its body lets it through as request `r`. -/
def State.Accepts (s : State) (mb code : Nat) (c : Carriage) (a : Access) (r : Req) : Prop :=
  s.mbServed = true ∧ s.turn mb = true ∧ fieldAt (s.mailbox mb).request 0 2 = code ∧
    s.take mb code c = (stOk, some r) ∧ (s.acceptKey r).allowed r c a = stOk

/-- The command answered with a next state in which its request is completed with ST_OK and a body. -/
def answered (s : State) (r : Req) (body : Bytes) : Out := .next (s.respond r ⟨stOk, 0, body⟩)

/-- The command answered with a next state in which its request is completed with ST_PENDING. -/
def accepted (s : State) (r : Req) : Out := .next (s.respond r ⟨stPending, 0, []⟩)

/-! ### Mailbox commands -/

/-- The commands that take a request from a mailbox, with their code and their carriage (R479 to R486, R542, R560); INGEST,
which also runs the ingests that wait, stands apart. -/
def mailboxCommands (mb : Nat) : List (Instr × Nat × Carriage) :=
  [(.fwSupply mb, 0x0001, .boot), (.ledgerClear mb, 0x0002, .boot), (.hostWindowGrant mb, 0x0010, .host),
   (.hostWindowWithdraw mb, 0x0010, .host), (.farTargetGrant mb, 0x0011, .host), (.farTargetWithdraw mb, 0x0011, .host),
   (.linkConfigRead mb, 0x0020, .link), (.linkConfigWrite mb, 0x0020, .link), (.portStatus0 mb, 0x0021, .either),
   (.timeRead mb, 0x0022, .either), (.linkReset mb, 0x0023, .sealed), (.lcChallenge mb, 0x0030, .boot),
   (.lcTransition mb, 0x0031, .boot), (.lcStatus mb, 0x0032, .boot), (.attestReport mb, 0x0040, .either),
   (.sessionOpen mb, 0x0100, .sessionOpen), (.sessionClose mb, 0x0101, .either), (.partyJoin mb, 0x0102, .sealed),
   (.partyRemove mb, 0x0103, .either), (.weightPlan mb, 0x0104, .sealed)] ++
  [(.listLoad mb, 0x0200, .sealed), (.listUnload mb, 0x0201, .sealed), (.kernelLoad mb, 0x0202, .sealed),
   (.contextStart mb, 0x0210, .sealed), (.contextStop mb, 0x0211, .sealed), (.scaleWrite mb, 0x0300, .sealed),
   (.routingLoad mb, 0x0301, .sealed), (.consignConfig mb, 0x0302, .sealed), (.timeSet mb, 0x0400, .sealed),
   (.rollCall mb, 0x0401, .sealed), (.sealResolve mb, 0x0402, .sealed), (.voidRequest mb, 0x0403, .sealed),
   (.recordRead mb, 0x0500, .sealed), (.tallyRead mb, 0x0501, .sealed)] ++
  [(.powerSet mb, 0x0800, .host), (.resetRequest mb, 0x0801, .host), (.resetLogRead mb, 0x0802, .host),
   (.watchRead mb, 0x0803, .host), (.watchLogRead mb, 0x0804, .host), (.backupRead mb, 0x0805, .host),
   (.backupWrite mb, 0x0806, .host), (.perfConfigRead mb, 0x0900, .mixed), (.perfConfigWrite mb, 0x0900, .mixed),
   (.perfConfigClaim mb, 0x0900, .mixed), (.perfConfigRelease mb, 0x0900, .mixed), (.perfRead mb, 0x0901, .mixed),
   (.perfRing mb, 0x0902, .sealed), (.perfRingRead mb, 0x0903, .sealed)]

/-! ### Formats -/

/-- The formats that values are stored in (R102). -/
def Fmt.stored : List Fmt := [.bf16, .fp16, .e4m3, .e5m2, .e2m3, .e3m2, .e2m1, .fp32]

/-! ### Descriptors -/

/-- R95, R97, R591: descriptor `p` of session `i` leaves progress with a status. `counted` says that it completes: then it
is counted, and with ST_OK or as a voided seal its signal tally advances; a descriptor stopped at its launch is not. A
status other than those two stops its context where the descriptor stands, unless something has stopped it before, and
CONTEXT_STOP, and REVOKED for ST_REVOKED, is gathered for the vote (R224). Nothing else changes. -/
def State.ended (s : State) (i : Nat) (p : Op) (st : Status) (counted : Bool) : State :=
  let x := s.session i
  let k := x.ctx p.ctx
  let good : Bool := st = stOk ∨ st = stVoided
  let k' : Context := if counted then { k with completed := k.completed + 1 } else k
  let k'' : Context :=
    if good ∨ k.state = .stopped then k'
    else { k' with state := .stopped, status := st, slot := BitVec.ofNat 8 p.slot, index := BitVec.ofNat 17 p.index,
                   waitMet := false }
  let n := x.tallyBase + dSignalTally p.desc
  { s with
    sessions := vset s.sessions i { x with
      ops := x.ops.filter fun o => !(o.ctx = p.ctx ∧ o.seq = p.seq)
      piece := { x.piece with opened := x.piece.opened.filter fun o => !(o.1 = p.ctx ∧ o.2 = p.seq) }
      ctxs := vset x.ctxs p.ctx k''
      voteReasons := x.voteReasons ||| (if counted ∧ st = stRevoked then rsRevoked else 0) |||
        (if good ∨ k.state = .stopped then 0 else rsContextStop) }
    tallies :=
      if counted ∧ good ∧ dSignalEn p.desc then
        Table.set Tally.reset s.tallies n ((s.tally n).add s.time.now (dSignalInc p.desc))
      else s.tallies }

/-- R95, R176, R556: descriptor `p` of session `i` is stopped at its launch: it leaves progress uncounted, the engine it
waits for, and its piece, which is idle when no array operation is left. -/
def State.stopped (s : State) (i : Nat) (p : Op) (st : Status) : State :=
  let t := s.ended i p st false
  let x := ((t.session i).dropSeal p).settle s.time.now
  { t with
    sessions := vset t.sessions i
      (if p.isArray then { x with piece := { x.piece with idleSince := s.time.now } } else x)
    dies := s.dies.map fun d => { d with phQueue := d.phQueue.filter fun q => q ≠ ⟨i, p.ctx, p.seq⟩ } }

/-- What an engine's work on a descriptor of session `i` may change: that session, memories, units, counters, the lines to
be back-invalidated and the free values taken; no other session, key, tally, mailbox, port, pin or reset. -/
def State.OwnWork (s t : State) (i : Nat) : Prop :=
  t = { s with
    sessions := t.sessions, dies := t.dies, channels := t.channels, far := t.far, perf := t.perf, draws := t.draws
    host := { s.host with dirty := t.host.dirty } } ∧
  (∀ j < 4, j ≠ i → t.session j = s.session j) ∧ (t.session i).config = (s.session i).config ∧
  (t.session i).lists = (s.session i).lists ∧ (t.session i).cmdKeys = (s.session i).cmdKeys

/-- The tables of a space are in canonical form: keys rising, and no entry equal to what an unlisted key reads as. -/
def Channel.wf (ch : Channel) : Bool :=
  Memory.wf ch.data && Table.wf ⟨0, []⟩ ch.counters && (ch.counters.all fun e => Table.wf 0 e.2.minors) &&
    Table.wf 0 ch.versions && Table.wf none ch.cache && Table.wf none ch.stored && Table.wf .good ch.lines &&
    Table.wf .good ch.tagLines && Table.wf .good ch.groups && Table.wf .good ch.nodes

/-- Every memory of the module, and the host's, is in canonical form. -/
def State.memoryWf (s : State) : Prop :=
  (∀ sp, (s.chan sp).wf = true) ∧ (∀ d, Memory.wf (vget Die.reset s.dies d).store = true) ∧
    Memory.wf s.host.memory = true

/-- No stored line, tag or metadata line of a space has a fault, and none of its metadata has been found faulty. -/
def Channel.Sound (ch : Channel) : Prop :=
  ch.failed = [] ∧ ch.groups = [] ∧ ch.nodes = [] ∧ ch.lines = [] ∧ ch.tagLines = []

/-- No stored line, tag or metadata line of a space has a fault, and nothing in the metadata cache waits to be written
back. -/
def Channel.Settled (ch : Channel) : Prop :=
  ch.failed = [] ∧ ch.groups = [] ∧ ch.nodes = [] ∧ ch.lines = [] ∧ ch.tagLines = [] ∧ ∀ e ∈ ch.cache, e.2 ≠ some true

/-- Every memory space is settled. -/
def State.Settled (s : State) : Prop := ∀ sp, (s.chan sp).Settled

/-- What reads of settled memory by session `i` may change: which metadata is resident, the session's count of fetches and
its sample ring, counters, and the free values taken. -/
def State.Looks (s t : State) (i : Nat) : Prop :=
  t = { s with sessions := t.sessions, channels := t.channels, far := t.far, perf := t.perf, draws := t.draws } ∧
  (∀ sp, ∃ c, t.chan sp = { s.chan sp with cache := c } ∧
    ((∀ e ∈ (s.chan sp).cache, e.2 ≠ some true) → ∀ e ∈ c, e.2 ≠ some true)) ∧
  ∃ f r, t.sessions = vset s.sessions i
    { s.session i with mem := { (s.session i).mem with metaFetch := f }, ring := r }

/-! ### Operands of array tiles -/

/-- Rows `r0` to `r0 + cnt - 1` of A as the Sorting stores hold them, with their block scales (R41, R43, R71). -/
def State.storedA (s : State) (x : Session) (p : Product) (r0 cnt : Nat) : List Line :=
  let f := Fmt.ofCode p.aFmt
  (List.range cnt).map fun k =>
    let r := r0 + k
    let m := (vget Die.reset s.dies (x.top + r / 512 % x.dies)).store
    let codes := unpack f.container p.k (memLoad m (p.aBase + x.localRow r * p.aPitch) ((f.container * p.k + 7) / 8))
    (mkLine f codes
      (if p.aBlk then (memLoad m (p.aSBase + x.localRow r * (p.k / 32)) (p.k / 32)).map BitVec.toNat
       else unitScales p.k)).1

/-- Columns `n0` to `n0 + cnt - 1` of B as the top Sorting store holds them, with their block scales (R41, R43, R72). -/
def State.storedB (s : State) (x : Session) (p : Product) (n0 cnt : Nat) : List Line :=
  let f := Fmt.ofCode p.bFmt
  let m := (vget Die.reset s.dies x.top).store
  let rows := (List.range p.k).map fun k =>
    unpack f.container cnt (memLoad m (p.bBase + k * p.bPitch + f.container * n0 / 8) ((f.container * cnt + 7) / 8))
  let scales := (List.range (p.k / 32)).map fun kb => (memLoad m (p.bSBase + kb * p.n + n0) cnt).map BitVec.toNat
  (List.range cnt).map fun c =>
    (mkLine f (rows.map fun row => row.getD c 0)
      (if p.bBlk then scales.map fun row => row.getD c 0x7F else unitScales p.k)).1

/-! ### Work that ends -/

/-- The descriptor that a command names is finished with a status, its completion to follow. -/
def State.Ends (t : State) (o : OpRef) (p : Op) (st : Status) : Prop :=
  t.op? o = some { p with stage := .finished, status := st }

/-- The descriptor that a command names is finished, its completion to follow. -/
def State.Finished (t : State) (o : OpRef) (p : Op) : Prop :=
  ∃ q, t.op? o = some q ∧ q.stage = .finished ∧ q.desc = p.desc ∧ q.slot = p.slot ∧ q.index = p.index

/-! ### Resets of the whole module -/

/-- What a reset of the whole module at a reach of Warm or wider leaves of a state `s` (R502, R506, R507, R532): no session,
request, pending command, tally or counter; the dies and ports as after reset; the host link down and the host's memory
as it was; the life cycle as it was, its challenge gone; the bypass closed; no domain released but AON, TIME and TAP. Warm
reach leaves firmware, postmark time and clocks; Cold reach clears them; all but Power-on leave AON and the fuses. -/
def State.UnderReset (s t : State) (r : Reach) : Prop :=
  t.resets.inReset = some r ∧ (∀ i < 4, (t.session i).isOpen = false) ∧
    t.mailboxes = Vector.replicate 64 Mailbox.reset ∧ t.modulePend = [] ∧ t.tallies = [] ∧ t.perf = Perf.reset ∧
    t.dies = Vector.replicate 4 Die.reset ∧ t.ports = Vector.replicate 18 Port.reset ∧ t.host.linkUp = false ∧
    t.host.memory = s.host.memory ∧ t.lc.codeword = s.lc.codeword ∧ t.lc.records = s.lc.records ∧ t.lc.challenge = none ∧
    t.time.bypassClosed = true ∧ t.resets.phase = 0 ∧
    (r = .warm → t.fw = s.fw ∧ t.time.now = s.time.now ∧ t.resets.clockGood = s.resets.clockGood ∧
      t.resets.released = s.resets.released &&& warmKeeps) ∧
    (r = .cold → t.resets.clockGood = s.resets.clockGood &&& 0x20001 ∧
      t.resets.released = s.resets.released &&& 0x20001) ∧
    (r ≠ .warm → t.fw = Firmware.reset ∧ t.time = TimeBase.reset ∧ t.lanes = BitVec.allOnes 64 ∧ t.host.linkDowns = 0 ∧
      t.host.wrDrop = 0 ∧ t.host.ideFail = 0 ∧ t.host.biSent = 0) ∧
    (r ≠ .powerOn → t.aon = s.aon ∧ t.fuses = s.fuses ∧ t.options = s.options) ∧
    (r = .powerOn → t.aon.ledger = [] ∧ t.aon.resetLog = [] ∧ t.aon.watchLog = [] ∧ t.aon.fallback = 0 ∧
      t.slots = Vector.replicate 64 KeySlot.reset ∧ t.fuses.latched = false ∧ t.resets.clockGood = 0x20000 ∧
      t.resets.released = 0)

/-- What P0 of a Power-on start leaves (R514, R516, R539, R569): the start counted as the first and its step and release
logged, AON running, and the supply fault source holding the module in PS4, its entry logged (assumption log 26 and 38). -/
def State.RanP0 (t : State) : Prop :=
  t.aon.running = true ∧ t.power.power = .ps4 ∧ t.watch.supplyHeld = true ∧ t.asserted 7 = true ∧
    t.resets.inReset = some .cold ∧ t.resets.atP0 = true ∧ t.aon.startCount = 1 ∧
    (Table.get LedgerEntry.blank t.aon.ledger 0).step = 0x10 ∧ (∃ e, t.aon.resetLog = [e] ∧ e.reach = 5) ∧
    ∃ e, t.aon.watchLog = [e] ∧ e.event = 3

/-- No reset of the whole module is in force that is as wide as a reach. -/
def State.Narrower (s : State) (r : Reach) : Prop := ∀ q, s.resets.inReset = some q → q.code < r.code

end Sys2Proof.Machine

/-! ### Key slots -/

namespace Sys2Proof

/-- The commands that may put a key into a key slot (R383, R384). -/
def Instr.givesKeys : Instr → Bool
  | .sessionOpen _ | .partyJoin _ | .consignConfig _ => true
  | _ => false

/-- The commands that may change a key slot: those, strikes and closes, life-cycle steps, and what resets the module or a
quarter of it. -/
def Instr.movesKeys : Instr → Bool
  | .partyStrike _ _ | .sessionCloseStrike _ | .engineQuiescent _ _ | .quiesceDeadline _ | .transitionStepDone => true
  | .cxlFunctionLevelReset | .cxlHotReset _ | .resetFlit _ _ | .firmwareRequestAssert | .hostPortPowerOff => true
  | .perstN _ _ | .sysResetN _ _ | .trstN _ _ | .controlWatchdog _ | .tamper _ | .watchPostSample _ => true
  | .quarterFault _ _ | .quarterReset _ | .clockGoodLoss _ | .modulePowerGood _ _ | .sb12Loss => true
  | .standbyPowerGood _ _ | .resetRelease => true
  | c => c.givesKeys

end Sys2Proof
end

