-- ==== Sys2Proof/Certificates/Slice0/Obligations.lean ====
section
/-! DEFINITION. The statements put to the provers. Rule numbers are those of spec/; a clause that rests on a choice of the
model says so and names its entry of the assumption log. `s.Accepts mb code c a r` and `answered` are in Safety.lean. -/

open Sys2Proof Sys2Proof.Machine

/-! ### Reads through mailboxes -/

/-- R98, R247, R295, R479, R484, R515, R524, R540 to R544: an accepted TIME_READ, PORT_STATUS0, LC_STATUS, RECORD_READ,
TALLY_READ, or read of a log, of the Watch Post record or of the backup registers is answered ST_OK with what it reads,
and changes nothing else; a BACKUP_WRITE changes one host backup register, and LEDGER_CLEAR the FALLBACK bits. -/
def Obligations.StateAndLogsRead : Prop :=
  (∀ (s : State) (mb : Nat) (r : Req),
     (s.Accepts mb 0x0022 .either .reads r → r.body = [] →
       exec (.timeRead mb) s =
         answered (s.acceptKey r) r (slice (s.time.words (BitVec.ofNat 32 (s.time.now.toNat / 2 ^ 32))) 0 32)) ∧
     (s.Accepts mb 0x0021 .either .reads r → r.body.length = 1 → (u8 r.body 0).toNat < 18 →
       exec (.portStatus0 mb) s = answered (s.acceptKey r) r (s.port (u8 r.body 0).toNat).word0) ∧
     (s.Accepts mb 0x0032 .boot .work r → r.body = [] →
       exec (.lcStatus mb) s = answered (s.acceptKey r) r s.lcStatusBytes) ∧
     (∀ b, s.Accepts mb 0x0500 .sealed .reads r → r.body.length = 4 → u8 r.body 1 = 0 →
       s.record r.session (u8 r.body 0).toNat (fieldAt r.body 2 2) = some b →
       exec (.recordRead mb) s = answered (s.acceptKey r) r b) ∧
     (s.Accepts mb 0x0501 .sealed .reads r → r.body.length = 4 → 1 ≤ fieldAt r.body 2 2 → fieldAt r.body 2 2 ≤ 1024 →
       fieldAt r.body 0 2 + fieldAt r.body 2 2 ≤ (s.session r.session).tallyCount →
       exec (.tallyRead mb) s =
         answered (s.acceptKey r) r
           ((List.range (fieldAt r.body 2 2)).map fun k =>
             w32 (s.tally ((s.session r.session).tallyBase + fieldAt r.body 0 2 + k)).value).flatten)) ∧
  (∀ (s : State) (mb : Nat) (r : Req),
     (s.Accepts mb 0x0802 .host .work r → r.body = [] →
       exec (.resetLogRead mb) s = answered (s.acceptKey r) r s.aon.resetLogBytes) ∧
     (s.Accepts mb 0x0803 .host .work r → r.body = [] →
       exec (.watchRead mb) s = answered (s.acceptKey r) r s.watch.record) ∧
     (s.Accepts mb 0x0804 .host .work r → r.body = [] →
       exec (.watchLogRead mb) s = answered (s.acceptKey r) r s.aon.watchLogBytes) ∧
     (s.Accepts mb 0x0805 .host .work r → r.body = [] →
       exec (.backupRead mb) s =
         answered (s.acceptKey r) r
           ((s.aon.fwBackup.toList.map w32).flatten ++ (s.aon.hostBackup.toList.map w32).flatten)) ∧
     (s.Accepts mb 0x0806 .host .work r → r.body.length = 8 → zeroRange r.body 1 3 = true →
       8 ≤ (u8 r.body 0).toNat → (u8 r.body 0).toNat ≤ 15 →
       exec (.backupWrite mb) s =
         answered { s.acceptKey r with aon := { s.aon with
           hostBackup := vset s.aon.hostBackup ((u8 r.body 0).toNat - 8) (u32 r.body 4) } } r []) ∧
     (s.Accepts mb 0x0002 .boot .work r → r.body = [] →
       exec (.ledgerClear mb) s =
         answered { s.acceptKey r with aon := { s.aon with fallback := 0 } } r []))

/-! ### Host windows, far targets, ports -/

/-- R246, R250, R448, R450, R455, R479, R480, R483: a host window or far target that meets no other and has its form is
granted, one that is granted is withdrawn, and nothing else changes. LINK_CONFIG reads or writes the configuration of a
port that the sender may configure; LINK_RESET queues a RESET flit on a running port of the session and leaves its mailbox
in service. -/
def Obligations.GrantsAndPortsAreCommanded : Prop :=
  (∀ (s : State) (mb : Nat) (r : Req),
     (let w : HostWindow := ⟨u8 r.body 2 = 1, windowOwner (u8 r.body 3).toNat, fieldAt r.body 8 8, fieldAt r.body 16 8⟩;
       s.Accepts mb 0x0010 .host .work r → windowForm r.body = true → u8 r.body 0 = 0 → w.base % 4096 = 0 →
       w.size % 4096 = 0 → 0 < w.size → w.base + w.size ≤ 2 ^ 64 →
       (∀ e ∈ s.host.windows, e.1 ≠ (u8 r.body 1).toNat ∧ ¬ (e.2.base < w.base + w.size ∧ w.base < e.2.base + e.2.size) ∧
         (w.objects = false → e.2.objects = false → e.2.owner ≠ w.owner)) →
       exec (.hostWindowGrant mb) s =
         answered { s.acceptKey r with
           host := { s.host with windows := s.host.windows ++ [((u8 r.body 1).toNat, w)] } } r []) ∧
     (s.Accepts mb 0x0010 .host .work r → bodyForm r.body 24 [(4, 4)] = true → u8 r.body 0 = 1 →
       (∃ w, ((u8 r.body 1).toNat, w) ∈ s.host.windows) →
       exec (.hostWindowWithdraw mb) s =
         answered { s.acceptKey r with
           host := { s.host with windows := s.host.windows.filter fun e => e.1 ≠ (u8 r.body 1).toNat } } r []) ∧
     (s.Accepts mb 0x0011 .host .work r → r.body.length = 24 → zeroRange r.body 2 6 = true → u8 r.body 0 = 0 →
       (u8 r.body 1).toNat < 16 → fieldAt r.body 8 8 % 2 ^ 30 = 0 → fieldAt r.body 16 8 % 2 ^ 30 = 0 →
       0 < fieldAt r.body 16 8 → fieldAt r.body 8 8 + fieldAt r.body 16 8 ≤ 2 ^ 64 →
       s.farBytes + fieldAt r.body 16 8 ≤ 2 ^ 44 →
       (∀ t ∈ s.host.targets, t.1 ≠ (u8 r.body 1).toNat ∧
         ¬ (t.2.1 < fieldAt r.body 8 8 + fieldAt r.body 16 8 ∧ fieldAt r.body 8 8 < t.2.1 + t.2.2)) →
       exec (.farTargetGrant mb) s =
         answered { s.acceptKey r with
           host := { s.host with
             targets := s.host.targets ++ [((u8 r.body 1).toNat, fieldAt r.body 8 8, fieldAt r.body 16 8)] } } r []) ∧
     (s.Accepts mb 0x0011 .host .work r → bodyForm r.body 24 [(2, 6)] = true → u8 r.body 0 = 1 →
       (∃ b, ((u8 r.body 1).toNat, b) ∈ s.host.targets) →
       (∀ i < 4, (s.session i).isOpen = true → ∀ u ∈ (s.session i).farParts, u.1 ≠ (u8 r.body 1).toNat) →
       exec (.farTargetWithdraw mb) s =
         answered { s.acceptKey r with
           host := { s.host with targets := s.host.targets.filter fun t => t.1 ≠ (u8 r.body 1).toNat } } r [])) ∧
  (∀ (s : State) (mb : Nat) (r : Req),
     (let p := (u8 r.body 0).toNat;
       s.Accepts mb 0x0020 .link .reads r → linkForm r.body = true → (s.acceptKey r).linkRight r p = stOk → u8 r.body 1 = 0 →
       exec (.linkConfigRead mb) s = answered (s.acceptKey r) r (s.port p).config) ∧
     (let p := (u8 r.body 0).toNat;
       let q := (s.port p).configure (slice r.body 8 8);
       s.Accepts mb 0x0020 .link .work r → linkForm r.body = true → (s.acceptKey r).linkRight r p = stOk → u8 r.body 1 = 1 →
       exec (.linkConfigWrite mb) s = answered ((s.acceptKey r).setPort p q) r q.config) ∧
     (let p := (u8 r.body 0).toNat;
       let q := s.port p;
       s.Accepts mb 0x0023 .sealed .work r → r.mb = mb → r.body.length = 4 → zeroRange r.body 1 3 = true → p < 18 →
       q.bound = true → q.session.toNat = r.session → q.runs = true →
       ∃ f : OutFlit, f.type = 5 ∧ f.dst = q.peerRank.toNat ∧ f.src = (s.session r.session).rank ∧
         f.payload = zeros 8 ++ w64 s.time.now ∧ f.gen = s.linkGen r.session ∧
         exec (.linkReset mb) s =
           .next (((s.acceptKey r).setPort p
             { q with control := q.control ++ [f], resetMbs := q.resetMbs ++ [mb] }).setMailbox mb
               { s.mailbox mb with state := .serving })))

/-! ### Firmware and life cycle -/

/-- R493 to R495: a chunk of the right form is held; the final one starts the verification, its request pending; and the
verification ends in RUNNING when every check passes, or in REJECTED with the number of the first that fails, the
image discarded. The ledger's ELAPSED_US of that step is free (log entry 19). -/
def Obligations.FirmwareLoads : Prop :=
  ∀ (s : State),
    (∀ (mb : Nat) (r : Req) (st : FwState),
      let image := (if fieldAt r.body 0 8 = 0 then [] else s.fw.image) ++ r.body.drop 16;
      let fw := { s.fw with state := st, image := image, totalLen := fieldAt r.body 8 4, received := image.length, digests := [] };
      s.Accepts mb 0x0001 .boot .work r → s.loadBarred = false → s.fw.state ≠ .running → s.fw.state ≠ .verifying →
      s.chunkOk r.body = true →
      (st = .receiving → fieldAt r.body 12 4 = 0 →
        exec (.fwSupply mb) s = .next (({ s.acceptKey r with fw := fw } : State).respond r ⟨stOk, image.length, []⟩)) ∧
      (st = .verifying → fieldAt r.body 12 4 = 1 → s.modulePend.length < 8 →
        ∃ e : Pending, e.command = r.code ∧ e.status = stPending ∧ e.tag = r.tag ∧
          exec (.fwSupply mb) s =
            .next (({ s.acceptKey r with fw := fw, modulePend := s.modulePend ++ [e], draws := s.draws + 1 } : State).respond r
              ⟨stPending, image.length, []⟩))) ∧
    (s.fw.state = .verifying → s.resets.inReset = none → s.resets.inPhase = 7 → s.power.waking3 = false → s.fw.digests = [] →
      ∃ t, exec .fwVerifyDone s = .next t ∧
        (s.fwReason s.fw.image s.fw.totalLen = 0 →
          t.fw.state = .running ∧ t.fw.version = u64 s.fw.image 16 ∧ t.fw.image = s.fw.image ∧ t.host.memActive = true) ∧
        (s.fwReason s.fw.image s.fw.totalLen ≠ 0 →
          t.fw.state = .rejected ∧ t.fw.image = [] ∧
            t.fw.rejectReason = BitVec.ofNat 8 (s.fwReason s.fw.image s.fw.totalLen)) ∧
        ∀ e ∈ t.modulePend, e.command = 0x0001 → e.status ≠ stPending)

/-- R422, R427, R428, R432 to R436: LC_CHALLENGE draws 64 random bytes, keeps them with the postmark and answers the
challenge response, signed in Test and Production; a challenge lapses after 3,600 s; LC_TRANSITION with a token that
passes every check uses the challenge up and opens the lowest-numbered free record for its target, AUTH marked, with its
DEBUG_SCOPE. A step of an open record ends with both bits of its mark set, after its effect: the codeword takes the
target's bits, the keys are erased in every slot, the memories of KEYS and SRAM are cleared, the flash is erased, the
secrets are burned. The test-entry instruction of a Blank module opens a record for Test with no token; SAMPLE/PRELOAD
captures the pins where the life cycle leaves it open, the lanes only outside Production. That KEYS drops the SPDM
sessions and moves every slot on by one generation is the model's reading (log entry 37); the bytes drawn are free (log
entry 11), and the key that signs is the part's (log entry 13). -/
def Obligations.TransitionsRun : Prop :=
  (∀ (s : State),
     (∀ (mb : Nat) (r : Req),
       let c := (List.range 64).map (Config.drbg s.draws);
       let h := s.challengeHead c;
       let salt := (List.range 64).map (Config.drbg (s.draws + 1));
       let sig := if s.identityKey = true then Crypto.pssSign Config.identityModulus Config.identityExponent h salt else zeros 512;
       s.Accepts mb 0x0030 .boot .work r → r.body = [] →
       exec (.lcChallenge mb) s =
         answered { s.acceptKey r with draws := s.draws + 2, lc := { s.lc with challenge := some (c, s.time.now) } } r
           (h ++ sig)) ∧
     (∀ c t, s.lc.challenge = some (c, t) → t.toNat + ns 3600000000000 ≤ s.time.now.toNat →
       exec .challengeExpiry s = .next { s with lc := { s.lc with challenge := none } }) ∧
     (∀ (mb : Nat) (r : Req) (n : Nat),
       s.Accepts mb 0x0031 .boot .work r → r.isSealed = false → s.isRepeat r r.body = false →
       (∀ i < 4, (s.session i).isOpen = false) → s.lc.openRec = none → s.lc.challenge.isSome = true →
       (List.range 8).find? (fun k => s.lc.record k = 0) = some n → s.modulePend.length < 8 →
       s.tokenCheck r.body = stOk →
       ∃ e : Pending, e.command = r.code ∧ e.status = stPending ∧
         exec (.lcTransition mb) s =
           accepted { s.acceptKey r with
             draws := s.draws + 1
             modulePend := s.modulePend ++ [e]
             lc := { s.lc with
               challenge := none, running := some n, scopes := vset s.lc.scopes n (u32 r.body 12)
               records := vset s.lc.records n
                 (withMark (BitVec.ofNat 32 (stateTarget (u8 r.body 11).toNat)) mkAuth) } } r)) ∧
  (∀ (s : State) (n k t : Nat), s.lc.running = some n → s.secRuns = true → s.lc.nextMark n = some k →
     targetState (recTarget (s.lc.record n)) = some t →
     ∃ u, exec .transitionStepDone s = .next u ∧ markSet (u.lc.record n) k = true ∧
       (k = mkCodeword → u.lc.codeword = s.lc.codeword ||| codewordOf t) ∧
       (k ≠ mkCodeword → u.lc.codeword = s.lc.codeword) ∧
       (k = mkKeys → (∀ j < 64, (u.keySlot j).key = []) ∧ u.lc.attestKeys = false ∧ u.host.spdm = [] ∧ u.host.spdmPending = []) ∧
       (k = mkSram → u.aon.retained = [] ∧ u.aon.resetLog = [] ∧ u.aon.watchLog = [] ∧ ∀ d < 4, (vget Die.reset u.dies d).store = []) ∧
       (k = mkFlash → u.fuses.sector0 = [] ∧ u.fuses.sector1 = []) ∧
       (k = mkSecrets → u.lc.secretBurned = true) ∧
       (k = mkClosed → u.lc.running = none ∧ u.resets.inReset ≠ none)) ∧
  (∀ (s : State), s.tapRuns = true →
     (∀ n, s.secRuns = true → s.lc.codeword = 0 → s.lc.openRec = none →
       (List.range 8).find? (fun k => s.lc.record k = 0) = some n →
       exec .testEntryInstruction s =
         .next { s with lc := { s.lc with records := vset s.lc.records n 0x0F, scopes := vset s.lc.scopes n 0, running := some n } }) ∧
     (∀ (pins preset : BitVec 16) (lanes : Bytes),
       (s.lcState = 1 ∨ (s.lcState = 3 ∧ s.lc.debugScope.getLsbD 0 = true) →
         exec (.samplePreload pins lanes preset) s =
           .next { s with lc := { s.lc with tapCapture := pins, tapPreset := preset, tapLanes := lanes } }) ∧
       (s.lcState = 2 →
         exec (.samplePreload pins lanes preset) s =
           .next { s with lc := { s.lc with tapCapture := pins, tapPreset := preset, tapLanes := zeros lanes.length } })))

/-- R413 to R417, R422, R449, R482: in Production, with its keys, the module writes the report in whole lines into the
window named and answers its length. That the report is padded to whole lines and its other corners are log entry 50;
its signatures are computed from keys of the part that are opaque (log entry 13). -/
def Obligations.AttestationReports : Prop :=
  ∀ (s : State) (mb : Nat) (r : Req),
    let named := windowOwner (u8 r.body 64).toNat;
    let salt := (List.range 64).map (Config.drbg s.draws);
    let hedge := (List.range 32).map (Config.drbg (s.draws + 1));
    let out := (s.acceptKey r).report named (u8 r.body 65 = 1) (slice r.body 0 64) salt hedge;
    s.Accepts mb 0x0040 .either .reads r → r.body.length = 80 → zeroRange r.body 66 6 = true →
    ((u8 r.body 64).toNat < 4 ∨ u8 r.body 64 = 0xFF) → (u8 r.body 65).toNat < 2 → fieldAt r.body 72 8 % 64 = 0 →
    s.lcState = 2 → s.lc.attestKeys = true → s.cacheReady = true →
    s.windowOk true (if r.isSealed then some r.session else none) (fieldAt r.body 72 8) (wholeLines out).length = true →
    exec (.attestReport mb) s =
      answered (({ s.acceptKey r with draws := s.draws + 2 } : State).hostStore (fieldAt r.body 72 8) (wholeLines out)) r
        (le 4 out.length)

/-! ### Sessions and parties -/

/-- R380 to R383, R402, R482: SESSION_OPEN, unsealed or sealed by a party of another session, of a record that passes
the checks of R382, with every resource free, opens the lowest-numbered FREE session in OPENING: configuration and
digests kept, STEP at START_STEP, its channels and ports bound and its tallies zero; every other session stands but for
the number kept of the request accepted. What a channel holds when it is bound is no plaintext and no counter of any
earlier holder (R361). The bytes drawn for keys are free (log entry 11), and the order of its checks is log entry 43. -/
def Obligations.SessionOpens : Prop :=
  ∀ (s : State) (mb i : Nat) (r : Req),
    let u := s.acceptKey r;
    let n := fieldAt r.body 16 2;
    let c := s.hostLoad (fieldAt r.body 0 8) 2048;
    let ps := s.hostLoad (fieldAt r.body 8 8) (64 * (n + 1));
    s.Accepts mb 0x0100 .sessionOpen .work r → s.lcState = 2 → s.lc.openRec = none →
    r.body.length = 24 → zeroRange r.body 18 6 = true → n ≤ 256 →
    s.windowOk true none (fieldAt r.body 0 8) 2048 = true →
    s.windowOk true none (fieldAt r.body 8 8) (64 * (n + 1)) = true → s.cacheReady = true → cfgOk c n = true →
    ascending ((chunksOf 64 ps).take n) = true → Crypto.sha512 ps = slice c 576 64 → s.cfgReadying c = false →
    (List.range 4).find? (fun k => !(s.session k).isOpen) = some i → s.cfgAvailable c = true →
    ∃ t, exec (.sessionOpen mb) s = answered t r (le 1 i) ∧
      (t.session i).state = .opening ∧ (t.session i).config = c ∧ (t.session i).configDigest = Crypto.sha512 c ∧
      (t.session i).programs = (chunksOf 64 ps).take n ∧ (t.session i).kernelAllowed = slice ps (64 * n) 64 ∧
      (t.session i).sealRec = { SealRec.reset with step := u32 c 32 } ∧ (t.session i).joined = 0 ∧
      (t.session i).statusKey = (List.range 32).map (Config.drbg (s.draws + cfgParties c + 2)) ∧
      (∀ k < 64, cfgChannel c k ≠ 0xFF → t.chan (.hbm k) = (s.chan (.hbm k)).emptied (some (i, cfgChannel c k)) ∧
        (t.chan (.hbm k)).data = [] ∧ (t.chan (.hbm k)).counters = []) ∧
      (∀ k < 64, cfgChannel c k = 0xFF → t.chan (.hbm k) = s.chan (.hbm k)) ∧
      (∀ p < 18, bitOf (fieldAt c 8 4) p = true → (t.port p).bound = true ∧ (t.port p).session = BitVec.ofNat 2 i) ∧
      (∀ k, fieldAt c 4 2 ≤ k → k < fieldAt c 4 2 + fieldAt c 6 2 → (t.tally k).value = 0) ∧
      (∀ j < 4, j ≠ i → t.session j = u.session j) ∧ t.host = s.host ∧ t.lc = s.lc ∧ t.resets = s.resets ∧ t.fw = s.fw

/-- R384, R390, R391: a party that joins with its own key and the digest of the configuration is recorded with its
share, and answered the status key and the member nonce; with the last of them the session is READY, its seed derived
from every share, and outside a consignment the shares are kept no longer. The nonce and the ephemeral key drawn are
free (log entry 11). -/
def Obligations.PartyJoins : Prop :=
  ∀ (s : State) (mb : Nat) (r : Req),
    let x := s.session r.session;
    let p := r.party;
    s.Accepts mb 0x0102 .sealed .join r → r.session < 4 → p < 16 → r.body.length = 96 → r.fp = x.partyFp p →
    slice r.body 0 64 = x.configDigest → x.joined.getLsbD p = false → x.removed.getLsbD p = false →
    ∃ t, exec (.partyJoin mb) s = answered t r (le 1 r.session ++ zeros 7 ++ x.statusKey ++ x.memberNonce) ∧
      (t.session r.session).joined = x.joined ||| BitVec.ofNat 16 (2 ^ p) ∧
      (t.session r.session).config = x.config ∧
      Table.get [] (t.session r.session).ingestKeys p =
        Crypto.hkdf (slice r.body 64 32) [] (ascii "LSV960-INGEST") 32 ∧
      (((List.range x.parties).all fun k => k = p || x.joined.getLsbD k) = true →
        (t.session r.session).state = .ready ∧
        (t.session r.session).seed =
          Crypto.hkdf ((List.range x.parties).map fun k =>
            Table.get [] (Table.set [] x.shares p (slice r.body 64 32)) k).flatten [] (ascii "LSV960-SEED") 16 ∧
        (x.isConsignment = false → (t.session r.session).shares = [])) ∧
      (((List.range x.parties).all fun k => k = p || x.joined.getLsbD k) = false →
        (t.session r.session).state = x.state ∧ t.slots = s.slots ∧
        Table.get [] (t.session r.session).shares p = slice r.body 64 32)

/-- R385, R406 to R412, R477: a removal is held for its postmark, at least 20 µs ahead, its request pending; a close is
accepted, strikes 20 µs later and leaves its mailbox in service. The strike of a removal erases the party's key, removes
the party, ends its waiting ingests and asks the engines; the strike of a close erases every key of the session, stops its
live contexts with ST_REVOKED and unbinds its ports. An engine that holds nothing of a struck owner reports; when the last
one has, a struck close completes and the session is FREE with every record at its reset value; the deadline makes the
laggards report, each 1,600 µs after the strike that found it quiet (log entry 89). -/
def Obligations.RemovalsAndClosesRun : Prop :=
  (∀ (s : State) (mb : Nat) (r : Req), r.session < 4 →
     (let x := s.session r.session;
       let p := (u8 r.body 0).toNat;
       s.Accepts mb 0x0103 .either .remove r → r.body.length = 16 → zeroRange r.body 1 7 = true → p < x.parties →
       (r.isSealed = true → r.party = p) → (∀ q ∈ x.removals, q.party ≠ p) → x.removed.getLsbD p = false →
       (s.pendOf r).length < 8 →
       ∃ t, exec (.partyRemove mb) s = accepted t r ∧
         (t.session r.session).removals =
           x.removals ++ [⟨p, BitVec.ofNat 64 (max (fieldAt r.body 8 8) (s.time.now.toNat + ns 20000)), false⟩] ∧
         t.pendOf r = s.pendOf r ++ [r.entry p r.body] ∧ (t.session r.session).removed = x.removed ∧ t.slots = s.slots) ∧
     (s.Accepts mb 0x0101 .either .close r → r.body = [] →
       ∃ t, exec (.sessionClose mb) s = .next t ∧ (t.mailbox mb).state = .serving ∧
         (t.session r.session).state = .closing ∧
         (t.session r.session).closing = some ⟨BitVec.ofNat 64 (s.time.now.toNat + ns 20000), false, some mb⟩ ∧
         t.slots = s.slots ∧ t.channels = s.channels ∧ t.ports = s.ports)) ∧
  (∀ (s : State) (i : Nat), i < 4 →
     (∀ (p : Nat) (q : Removal) (n : Nat), p < 16 → (s.session i).removals.find? (·.party = p) = some q → q.struck = false →
       (s.session i).state ≠ .closing → q.strikeAt.toNat ≤ s.time.now.toNat → s.slotOf i (.party p) = some n →
       ∃ t, exec (.partyStrike i p) s = .next t ∧ (t.session i).removed.getLsbD p = true ∧ (t.keySlot n).key = [] ∧
         (t.keySlot n).gen = satAdd (s.keySlot n).gen 1 ∧ (∀ g ∈ (t.session i).ingests, g.party ≠ p) ∧
         (∀ e ∈ (s.session i).strikeEngines false, e ∈ (t.session i).quiesce) ∧
         (∀ m, m ≠ n → t.keySlot m = s.keySlot m)) ∧
     (∀ (c : Closing), (s.session i).closing = some c → c.struck = false → c.strikeAt.toNat ≤ s.time.now.toNat →
       ∃ t, exec (.sessionCloseStrike i) s = .next t ∧ (t.session i).closing = some { c with struck := true } ∧
         (∀ n < 64, (s.keySlot n).binding.map (·.1) = some i → (s.keySlot n).draining = false →
           (t.keySlot n).key = [] ∧ (t.keySlot n).gen = satAdd (s.keySlot n).gen 1) ∧
         (∀ k < 4, ((t.session i).ctx k).live = false) ∧
         (∀ k < 4, ((s.session i).ctx k).live = true → ((t.session i).ctx k).status = stRevoked) ∧
         (∀ p < 18, (s.port p).bound = true → (s.port p).session.toNat = i → (t.port p).bound = false) ∧
         (t.session i).ingests = [])) ∧
  (∀ (s : State) (i : Nat) (c : Closing), i < 4 → (s.session i).closing = some c →
     (∀ e, e ∈ (s.session i).quiesce → (s.session i).engineHolds e = false → (e = .ports → s.portsHold i = false) →
       ∃ t, exec (.engineQuiescent i e) s = .next t ∧
         ((∃ f ∈ (s.session i).quiesce, f ≠ e) → t = s.setSession i { s.session i with
           quiesce := (s.session i).quiesce.filter fun f => f ≠ e }) ∧
         ((∀ f ∈ (s.session i).quiesce, f = e) → c.struck = true → t.session i = Session.reset)) ∧
     (let late := fun e => ∃ k ∈ (s.session i).struckAt, k.1 = e ∧ k.2.toNat + ns 1600000 ≤ s.time.now.toNat;
       ∃ t, exec (.quiesceDeadline i) s = .next t ∧
         (∀ e ∈ (s.session i).quiesce, late e → e ∉ (t.session i).quiesce) ∧
         ((s.session i).quiesce ≠ [] → (∀ e ∈ (s.session i).quiesce, late e) → c.struck = true → t.session i = Session.reset)))

/-! ### Weights and ingestion -/

/-- R398, R399, R401, R451, R477, R485: WEIGHT_PLAN keeps the tensors in ascending identifier and answers their bytes; a
chunk of the stream is hashed as it stands when its last byte has been written, and no other; when every byte of the plan
has been ingested and hashed the digest of its stream is kept. An INGEST of the right form, by the party that may ingest
for the owner, with an identifier above its party's last, waits with its pending entry; while the host cannot be reached
nothing else happens; while it can no ingest is left waiting: the only one that waits takes its chunks in turn, each
opened and written, and ends its pending entry with their status, or with ST_REFUSED where no object window holds them.
What a plan may name, and the digest of an empty stream, are log entry 53; when the window is looked at and whose entry
an ingest is are log entry 52. -/
def Obligations.WeightsComeIn : Prop :=
  ((∀ (s : State) (mb : Nat) (r : Req),
     let u := s.acceptKey r;
     let x := u.session r.session;
     let l := (planTensors r.body).insertionSort fun a b => a.id.toNat ≤ b.id.toNat;
     let n := (l.map fun t => t.length.toNat).sum;
     s.Accepts mb 0x0104 .sealed .work r → planForm r.body = true → r.party = x.weightParty → x.state = .ready →
     x.plan = none → x.planFits l = true → tensorsApart l = true →
     exec (.weightPlan mb) s = answered (u.setSession r.session { x with plan := some ⟨l, n, [], [], []⟩ }) r (le 8 n)) ∧
   (∀ (s : State) (i : Nat) (p : WeightPlan), i < 4 → (s.session i).plan = some p →
     ∃ q, ((s.hashChunks i).session i).plan = some q ∧ q.tensors = p.tensors ∧ q.received = p.received ∧ q.digest = p.digest ∧
       (∀ e ∈ p.leaves, e ∈ q.leaves) ∧
       ∀ k < p.chunks, (∀ e ∈ p.leaves, e.1 ≠ k) →
         if ((p.chunkAt k).all fun r => covers p.received r.1 r.2) = true then
           (k, Crypto.sha512 (0 :: ((p.chunkAt k).map fun r => s.plainHbm i r.1 (r.2 - r.1)).flatten)) ∈ q.leaves
         else ∀ e ∈ q.leaves, e.1 ≠ k) ∧
   (∀ (s : State) (i : Nat) (p : WeightPlan), (s.session i).plan = some p → p.complete = true → p.leaves.length = p.chunks →
     p.digest = [] →
     (p.bytes ≠ 0 →
       exec (.weightDigestRoot i) s =
         .next (s.setSession i { s.session i with plan := some { p with digest := leafRoot p.leafList } })) ∧
     (p.bytes = 0 → i < 4 →
       ∃ d : Bytes, d.length = 64 ∧
         exec (.weightDigestRoot i) s =
           .next { s.setSession i { s.session i with plan := some { p with digest := d } } with draws := s.draws + 1 }))) ∧
  (∀ (s : State) (mb : Nat) (r : Req),
     let u := s.acceptKey r;
     let x := u.session r.session;
     let id := (x.ingests.map fun g => g.id + 1).foldl max 0;
     let g := ingestOf r id s.time.now;
     let v := u.setSession r.session { x with
       pend := x.pend ++ [r.entry r.party (le 8 id)]
       ingests := x.ingests ++ [g]
       ingestIds := Table.set none x.ingestIds r.party (some g.ingestId) };
     s.Accepts mb 0x0105 .sealed .work r → r.session < 4 → x.ingestForm r.body = true → x.ingestRight r.party g.owner = true →
     (∀ q ∈ x.ingests, g.repeats q = false) → x.ingestPlanned g.memAddr g.length = true →
     x.ingestFresh r.party g.ingestId = true → x.pend.length < 8 →
     (s.cacheReady = false → exec (.ingest mb) s = accepted v r) ∧
     (s.cacheReady = true →
       ∃ t, exec (.ingest mb) s = .next t ∧ (∀ j < 4, (t.session j).ingests = []) ∧
         Table.get none (t.session r.session).ingestIds r.party = some g.ingestId ∧
         ((∀ j < 4, (u.session j).ingests = []) →
           let w := v.respond r ⟨stPending, 0, []⟩;
           let n := ckChunks g.length;
           (s.windowOk true (some r.session) g.hostAddr (ckStride * n) = false →
             t = w.endIngests r.session (fun q => q.id = g.id) stRefused) ∧
           (s.windowOk true (some r.session) g.hostAddr (ckStride * n) = true →
             let j := (List.range n).foldl (fun j k => j.ingestChunk g (s.hostLoad (g.hostAddr + 64) 32) k)
               (w.plainJob r.session g.owner);
             t = j.st.endIngests r.session (fun q => q.id = g.id) j.status ∧
             ∃ e ∈ (t.session r.session).pend, e.command = 0x0105 ∧ e.key = le 8 id ∧ e.status = j.status))))

/-! ### Programs, contexts and records -/

/-- R86 to R88, R154, R193, R194, R397, R485: a list or kernel table whose entries pass their checks and whose digest is
approved is kept as it was read, and its digest answered; the first entry that fails its check is named in DETAIL and
nothing is kept. LIST_UNLOAD frees a slot of a session none of whose contexts is live. -/
def Obligations.ProgramsLoad : Prop :=
  ∀ (s : State) (mb : Nat) (r : Req),
    let u := s.acceptKey r;
    let x := u.session r.session;
    (let n := fieldAt r.body 4 4;
      let a := fieldAt r.body 8 8;
      let slot := (u8 r.body 0).toNat;
      let q := u.readFor r.session a (128 * n);
      let y := q.1.session r.session;
      let ds := chunksOf 128 q.2.2;
      s.Accepts mb 0x0200 .sealed .work r → bodyForm r.body 16 [(1, 3)] = true → 1 ≤ n → n ≤ 65536 → a % 128 = 0 →
      x.list? slot = none → x.loaded + n ≤ x.listRoom → a + 128 * n ≤ x.hbmBytes → q.2.1 = stOk →
      ((∀ d ∈ ds, q.1.descOk r.session d = true) → Crypto.sha512 q.2.2 ∈ y.programs →
        exec (.listLoad mb) s =
          answered (q.1.setSession r.session
            { y.lockRecords ds with lists := y.lists ++ [(slot, ⟨ds, Crypto.sha512 q.2.2⟩)] }) r (Crypto.sha512 q.2.2)) ∧
      (∀ k, k < ds.length → (∀ j < k, q.1.descOk r.session (ds.getD j []) = true) →
        q.1.descOk r.session (ds.getD k []) = false →
        exec (.listLoad mb) s = .next (q.1.respond r ⟨stRefused, k, []⟩))) ∧
    (let slot := (u8 r.body 0).toNat;
      s.Accepts mb 0x0201 .sealed .work r → r.body.length = 1 → (∀ c < 4, (x.ctx c).live = false) →
      x.list? slot ≠ none →
      exec (.listUnload mb) s =
        answered (u.setSession r.session { x with lists := x.lists.filter fun l => l.1 ≠ slot }) r []) ∧
    (let n := fieldAt r.body 0 4;
      let a := fieldAt r.body 8 8;
      let q := u.readFor r.session a (64 * n);
      let y := q.1.session r.session;
      s.Accepts mb 0x0202 .sealed .work r → bodyForm r.body 16 [(4, 4)] = true → 1 ≤ n → n ≤ 1023 → x.kernel = none →
      a + 64 * n ≤ x.hbmBytes → q.2.1 = stOk → (∀ e ∈ chunksOf 64 q.2.2, entryOk e = true) →
      y.kernelAllowed = Crypto.sha512 q.2.2 →
      exec (.kernelLoad mb) s =
        answered (q.1.setSession r.session { y with kernel := some ⟨chunksOf 64 q.2.2, Crypto.sha512 q.2.2⟩ }) r
          (Crypto.sha512 q.2.2))

/-- R90, R97 to R99, R150, R151, R485, R592: CONTEXT_START of a context that is not live, once the weight digest
stands, puts its head on the descriptor named with its record cleared; the first start of a READY session starts step
and attempt, WORK_SCALE of every record at STATIC_SCALE. CONTEXT_STOP stops a live context at its head with ST_OK and
gathers CONTEXT_STOP for the vote; nothing else of the session changes. That a stop of a context that is not live
answers ST_OK is log entry 55, that a context may start while descriptors of its earlier run are in progress is log
entry 91, and that WORK_SCALE is copied at the first start is log entry 93. -/
def Obligations.ContextsStartAndStop : Prop :=
  ∀ (s : State) (mb : Nat) (r : Req),
    let u := s.acceptKey r;
    let x := u.session r.session;
    let c := (u8 r.body 0).toNat;
    let k := x.ctx c;
    (∀ d : Bytes,
      let k' : Context := { k with
        slot := u8 r.body 1, index := BitVec.ofNat 17 (fieldAt r.body 2 2), state := if dWaitEn d then .waiting else .running,
        status := stOk, lateCount := 0, completed := 0, waitMet := false };
      s.Accepts mb 0x0210 .sealed .work r → r.body.length = 4 → c < 4 → k.live = false → x.weightsDone = true →
      x.descAt? (u8 r.body 1).toNat (fieldAt r.body 2 2) = some d →
      (x.state ≠ .ready →
        exec (.contextStart mb) s = answered (u.setSession r.session (x.setCtx c k')) r []) ∧
      (x.state = .ready →
        exec (.contextStart mb) s =
          answered (u.setSession r.session { x.setCtx c k' with
            state := .running
            scales := mapScales ScaleRec.startStep (mapScales (fun q => { q with workScale := q.staticScale }) x.scales)
            updNanInAttempt := false, outputs := [], piece := { x.piece with retired := [] } }) r [])) ∧
    (s.Accepts mb 0x0211 .sealed .work r → r.body.length = 1 → c < 4 →
      (k.live = true →
        exec (.contextStop mb) s =
          answered (u.setSession r.session
            { x.setCtx c { k with state := .stopped, status := stOk, waitMet := false } with
              voteReasons := x.voteReasons ||| rsContextStop }) r []) ∧
      (k.live = false → exec (.contextStop mb) s = answered (u.setSession r.session x) r []))

/-- R12, R154, R155, R224, R292 to R294, R321, R486: SCALE_WRITE of a configuration that may stand writes the record's RW
fields, and its RWL fields while they are not locked; VOID_REQUEST gathers SOFTWARE for the attempt's vote; nothing else
changes. Rank 0 of a consignment none of whose module's sessions has an epoch open sets postmark time, which steps, and
never back, while it is ACQUIRING, and is otherwise approached at a rate within ±200 ppm; it is LOCKED to itself when the
ring serves it. A ROLL_CALL for the next epoch, at least a millisecond ahead, is held. When rank 0 may set the time and
that it is then LOCKED to itself are log entry 57, the rate within its bounds is free (log entry 71), and that an epoch
that is due opens before the command is looked at is log entry 58. -/
def Obligations.RecordsTimeAndRollCallAreCommanded : Prop :=
  (∀ (s : State) (mb : Nat) (r : Req),
     let u := s.acceptKey r;
     let x := u.session r.session;
     (let n := fieldAt r.body 0 2;
       let q := Table.get ScaleRec.reset x.scales n;
       let w := q.written (fieldAt r.body 4 4) (u32 r.body 8) (u64 r.body 16);
       s.Accepts mb 0x0300 .sealed .work r → bodyForm r.body 24 [(2, 2), (12, 4)] = true → n < 4096 →
       bitsAt r.body 4 4 31 27 = 0 → w.allowed = true →
       exec (.scaleWrite mb) s =
         answered (u.setSession r.session { x with scales := Table.set ScaleRec.reset x.scales n w }) r [] ∧
       w.staticScale = u32 r.body 8 ∧
       (q.fmtLocked = true → w = { q with staticScale := u32 r.body 8 }) ∧
       (q.fmtLocked = false → w.scaleAddr = u64 r.body 16 ∧ w.fmt.toNat = (u8 r.body 4).toNat % 16)) ∧
     (s.Accepts mb 0x0403 .sealed .work r → r.body = [] → x.voteGone = false →
       exec (.voidRequest mb) s =
         answered (u.setSession r.session { x with voteReasons := x.voteReasons ||| rsSoftware }) r [])) ∧
  (∀ (s : State) (mb : Nat) (r : Req),
     let u := s.acceptKey r;
     let x := u.session r.session;
     (s.Accepts mb 0x0400 .sealed .work r → r.body.length = 8 → x.consign ≠ none → x.rank = 0 →
       (∀ j < 4, (s.session j).isOpen = true → (s.session j).epochOpen = false) →
       let sync := if u.ringSession = some r.session then .locked else s.time.sync;
       (s.time.sync = .acquiring →
         exec (.timeSet mb) s =
           answered { u with time :=
             if s.time.now.toNat < (u64 r.body 0).toNat then { s.time with now := u64 r.body 0, fraction := 0, sync := sync }
             else { s.time with sync := sync } } r []) ∧
       (s.time.sync ≠ .acquiring →
         ∃ rate : W32, -858993 ≤ rate.toInt ∧ rate.toInt ≤ 858993 ∧
           exec (.timeSet mb) s =
             answered { u with draws := s.draws + 1, time := { s.time with rate := rate, sync := sync } } r [])) ∧
     (let p := u64 r.body 0;
       let e := u64 r.body 8;
       s.Accepts mb 0x0401 .sealed .roll r → r.body.length = 16 → x.consign ≠ none → x.roll = none →
       e.toNat = x.epoch.toNat + 1 → s.time.now.toNat + ns 1000000 ≤ p.toNat →
       exec (.rollCall mb) s = answered (u.setSession r.session { x with roll := some (RollCall.new p e) }) r []))

/-! ### Consignments -/

/-- R257, R262, R315 to R317, R384, R482: a session's first consignment whose nonces have the digest named and hold
this member's own is kept, and the link key derived afresh under that digest, its slot a generation on and the shares
kept no longer; a port of the session that has trained enters KEYING; a routing set whose digest is the one named and
whose tables and groups may stand is kept. Nothing else changes but the timebase words of a session that the ring
serves. That a second configuration is refused, that RANKS is checked once the member is configured and that trained
ports wait for it in TRAINING are log entry 56. -/
def Obligations.ConsignmentsConfigure : Prop :=
  ∀ (s : State) (mb : Nat) (r : Req),
    let u := s.acceptKey r;
    let x := u.session r.session;
    (∀ n, let c := consignOf r.body;
      let a := fieldAt r.body 8 8;
      let nonces := s.hostLoad a (32 * c.members);
      s.Accepts mb 0x0302 .sealed .work r → r.session < 4 → x.isConsignment = true → consignForm r.body = true →
      c.ringsOk = true → u.timePortOk r.session c = true → x.routingFits c = true → x.consign = none →
      s.windowOk true (some r.session) a (32 * c.members) = true → s.cacheReady = true →
      Crypto.sha512 nonces = c.nonceDigest → slice nonces (32 * c.rank) 32 = x.memberNonce →
      s.slotOf r.session .link = some n → (s.keySlot n).gen.toNat + 1 < 2 ^ 32 - 1 →
      ∃ t, exec (.consignConfig mb) s = answered t r [] ∧
        t = { u.setSession r.session { x with consign := some c, linkSalt := c.nonceDigest, frameSeq := 0, shares := [] } with
          ports := t.ports
          slots := vset s.slots n { s.keySlot n with
            key := x.linkKey c.nonceDigest, gen := satAdd (s.keySlot n).gen 1 }
          time := t.time } ∧
        (∀ k < 18,
          let q := s.port k;
          if q.bound = true ∧ q.session.toNat = r.session ∧ q.state = .training ∧ q.lanes ≠ 0 then
            (t.port k).state = .keying ∧ (t.port k).peerLocked = true ∧ (t.port k).keyEpoch = x.epoch
          else t.port k = q) ∧
        t.time.now = s.time.now ∧ (t.ringSession ≠ some r.session → t.time = s.time) ∧
        (t.ringSession = some r.session → t.time.grandmaster = decide (c.rank = 0) ∧
          (s.time.sync = .free → t.time.sync = .acquiring))) ∧
    (let a := fieldAt r.body 0 8;
      let ranks := fieldAt r.body 8 2;
      let groups := (u8 r.body 10).toNat;
      let o := s.hostLoad a (2048 * ranks + 4160 * groups);
      s.Accepts mb 0x0301 .sealed .work r → bodyForm r.body 80 [(11, 5)] = true → x.rankCountOk ranks = true →
      groups ≤ 15 → (groups ≠ 0 → x.isConsignment = true) →
      s.windowOk true (some r.session) a (2048 * ranks + 4160 * groups) = true → s.cacheReady = true →
      Crypto.sha512 o = slice r.body 16 64 → x.routingOk o ranks groups = true →
      exec (.routingLoad mb) s =
        answered (u.setSession r.session { x with
          routing := o.take (2048 * ranks)
          routingDigest := Crypto.sha512 (o.take (2048 * ranks))
          groups := (List.range groups).map fun g => groupRanks (slice o (2048 * ranks + 4160 * g) 4160) }) r [])

/-! ### Power states -/

/-- R525 to R530, R542: POWER_SET answers ST_OK for the present state; PS2 and PS3 are entered when nothing bars them, PS2
with the sessions standing, the ports disabled and the bypass closed, PS3 with every on-die memory cleared; PS4 comes a
millisecond later; in PS3 a request for PS0 starts the wake and is pending. A quiet module whose firmware runs enters PS1
after 100 µs; a wake ends 20 µs after its work arrived, in PS0, and serves the chunks that came meanwhile; the wake from
PS2 trains the ports afresh and goes on from PS1; the wake from PS3 ends in PS0 with firmware running, or rejected by a
check repeated on it, and answers the POWER_SET that began it; POWER_SET 4 ends in PS4, the host port unpowered. Which
domains PS2 and PS3 keep released, and what PS2 does with the ports, are the model's reading (log entry 44), as are the
requests for the present state, the firmware that PS1 needs and the order of the chunks served (log entry 45). -/
def Obligations.PowerStatesAreEnteredAndLeft : Prop :=
  (∀ (s : State) (mb : Nat) (r : Req),
     let u := s.acceptKey r;
     let n := (u8 r.body 0).toNat;
     s.Accepts mb 0x0800 .host .work r → r.body.length = 1 →
     (s.power.power ≠ .ps3 →
       (n = s.powerName → exec (.powerSet mb) s = answered u r []) ∧
       (n = 2 → u.napBarred = false →
         ∃ t, exec (.powerSet mb) s = answered t r [] ∧
           t = { u with
             power := t.power
             time := { u.time with bypassClosed := true }
             ports := s.ports.map fun q => { q with state := .disabled, lanes := 0 } } ∧ t.power.power = .ps2) ∧
       (n = 3 → u.sleepBarred = false →
         ∃ t, exec (.powerSet mb) s = answered t r [] ∧ t.power.power = .ps3 ∧ t.dies = Vector.replicate 4 Die.reset ∧
           t.time = { s.time with bypassClosed := true } ∧ t.resets.released = s.resets.released &&& 0x39001 ∧
           t.fw = s.fw ∧ t.aon = s.aon ∧ t.lc = s.lc ∧ t.slots = s.slots ∧ t.channels = s.channels ∧
           t.sessions = u.sessions ∧ t.mailboxes = s.mailboxes) ∧
       (n = 4 → u.sleepBarred = false →
         exec (.powerSet mb) s =
           answered { u with power := { s.power with
             offDue := true, offAt := BitVec.ofNat 64 (s.time.now.toNat + ns 1000000) } } r [])) ∧
     (s.power.power = .ps3 → n = 0 → u.isRepeat r r.body = false → s.modulePend.length < 8 →
       ∃ t e, exec (.powerSet mb) s = accepted t r ∧ t.power.waking3 = true ∧ t.power.power = .ps3 ∧
         t.modulePend = s.modulePend ++ [e] ∧ e.command = r.code ∧ e.status = stPending ∧ t.sessions = u.sessions)) ∧
  (∀ (s : State),
     (s.power.power = .ps0 → s.resets.inReset = none → s.fw.state = .running → s.quiet = true →
       s.power.idleSince.toNat + ns 100000 ≤ s.time.now.toNat →
       exec .ps1Entry s = .next { s with power := { s.power with power := .ps1, waking := false } }) ∧
     (s.power.power = .ps1 → s.power.waking = true → s.power.wakeAt.toNat ≤ s.time.now.toNat →
       let u : State := { s with power := { s.power with power := .ps0, waking := false, idleSince := s.time.now } };
       exec .ps0WakeDone s = .next u.serveArrived ∧
         ((∀ p < 18, (s.port p).arrived = []) → exec .ps0WakeDone s = .next u)) ∧
     (s.power.power = .ps2 → s.power.waking2 = true → s.power.wakeAt.toNat ≤ s.time.now.toNat →
       ∃ t, exec .ps2WakeDone s = .next t ∧ t = { s with
           power := t.power, mailboxes := t.mailboxes, ports := s.ports.map Port.restart } ∧
         t.power.power = .ps1 ∧ t.power.waking2 = false ∧ t.power.waking = true ∧
         t.power.wakeAt = BitVec.ofNat 64 (s.time.now.toNat + ns 20000)) ∧
     (s.power.power = .ps3 → s.power.waking3 = true → s.resets.inPhase = 7 → s.resets.halted = false →
       ∃ t, exec .ps3WakeDone s = .next t ∧ t.power.power = .ps0 ∧ t.power.waking3 = false ∧
         t.modulePend = pendEnd s.modulePend (fun e => e.command = 0x0800) (fwStatus (s.fwRestart s.fw.image)) ∧
         (s.fwRestart s.fw.image = 0 → t.fw.state = .running ∧ t.resets.inPhase = 8) ∧
         (s.fwRestart s.fw.image ≠ 0 → t.fw.state = .rejected ∧ t.fw.image = []) ∧
         t.sessions = s.sessions ∧ t.lc = s.lc ∧ t.slots = s.slots ∧ t.host = s.host) ∧
     (s.power.offDue = true → s.power.offAt.toNat ≤ s.time.now.toNat →
       ∃ t, exec .hostPortPowerOff s = .next t ∧ t.power.power = .ps4 ∧ t.power.offDue = false ∧ t.host.powered = false ∧
         t.host.linkUp = false ∧ (∀ i < 4, (t.session i).isOpen = false) ∧ t.tallies = [] ∧ t.fw = Firmware.reset ∧
         t.time = TimeBase.reset ∧ t.aon = s.aon ∧ t.lc.codeword = s.lc.codeword ∧
         t.resets.released = s.resets.released &&& 0x20001))

/-! ### Resets asked for -/

/-- R509, R512, R543: a RESET_REQUEST for a target that no session holds, at a reach that its source's fuse allows, is due
100 µs later; then the firmware request source asserts over its target: a block is asked to go idle, unless it lies in a
quarter that is in reset, a quarter's source stands, or the whole module is in reset. -/
def Obligations.ResetRequestsAssert : Prop :=
  (∀ (s : State) (mb : Nat) (r : Req) (g : ResetTarget),
    let u := s.acceptKey r;
    let reach := (u8 r.body 0).toNat;
    s.Accepts mb 0x0801 .host .work r → requestTarget reach (u8 r.body 1).toNat (u8 r.body 2).toNat = some g →
    bodyForm r.body 4 [(3, 1)] = true → reach ≤ s.fuseReach 10 → u.targetHeld g = false →
    exec (.resetRequest mb) s =
      answered { u with resets := { s.resets with
        requested := s.resets.requested ++
          [(Reach.ofCode reach, g, BitVec.ofNat 64 (s.time.now.toNat + ns 100000))] } } r []) ∧
  (∀ (s : State) (r : Reach) (g : ResetTarget) (due : W64) (rest : List (Reach × ResetTarget × W64)),
    s.resets.requested = (r, g, due) :: rest → due.toNat ≤ s.time.now.toNat → s.coreAwake = true →
    s.resets.inReset = none →
    ∃ t, exec .firmwareRequestAssert s = .next t ∧ (⟨10, r, g, true⟩ : Hold) ∈ t.resets.holds ∧
      (∀ b, g = .block b → (∀ e ∈ s.resets.blocks, e.target ≠ b) → s.inQuarterReset b = false →
        t = { s with resets := { s.resets with
          requested := rest, holds := t.resets.holds, since := t.resets.since,
          blocks := s.resets.blocks ++ [⟨b, s.time.now, false, false⟩] } }) ∧
      ((∃ b, g = .block b ∧ s.inQuarterReset b = true) →
        t = { s with resets := { s.resets with
          requested := rest, holds := t.resets.holds, since := t.resets.since } }) ∧
      (∀ q, g = .quarter q →
        t = { s with resets := { s.resets with
          requested := rest, holds := t.resets.holds, since := t.resets.since } }) ∧
      (g = .module → 3 ≤ r.code → s.UnderReset t r))

/-! ### Supplies, pins and sources -/

/-- R510, R514, R516, R563 to R569, R571: IN48 starts the converters once the standby supply has been in range for 20 ms;
module power good stands after 10 ms at 40 V or more, and is lost below 36 V or with SB12 out of its range, which resets the
module; beyond the ratings no rule binds the module and the model refuses; the loss of the standby supply is a Power-on
reset whose one source is the lost power good, and one during a Power-on reset clears poste restante again. That SB12 acts at
once is the model's choice (log entry 82). -/
def Obligations.SuppliesAct : Prop :=
  ∀ (s : State) (mV sb us : Nat),
    (65000 < mV → exec (.in48Rise mV) s = .refused .beyondRatings) ∧
    (65000 < mV ∨ 14000 < sb → exec (.modulePowerGood ⟨mV, sb⟩ us) s = .refused .beyondRatings) ∧
    (mV ≤ 65000 →
      exec (.in48Rise mV) s =
        .next { s with power := { s.power with
          in48 := mV
          converters := s.power.converters ||
            (s.power.sb12 && decide (20 ≤ s.power.sb12Ms ∧ 40000 ≤ mV ∧ mV ≤ 60000)) } }) ∧
    (s.aon.running = true → 11400 ≤ sb → sb ≤ 12600 → 40000 ≤ mV → mV ≤ 65000 → 10000 ≤ us →
      exec (.modulePowerGood ⟨mV, sb⟩ us) s =
        .next { s with
          power := { s.power with in48 := mV, sb12 := true, powerGood := true }
          resets := { s.resets with holds := s.resets.holds.map fun h => if h.source = 0 then { h with on := false } else h } }) ∧
    (s.aon.running = true → s.asserted 0 = false → s.Narrower (Reach.ofCode (s.sourceReach 0)) →
      (11400 ≤ sb → sb ≤ 12600 → mV < 36000 → 20 ≤ us →
        ∃ t, exec (.modulePowerGood ⟨mV, sb⟩ us) s = .next t ∧ s.UnderReset t (Reach.ofCode (s.sourceReach 0)) ∧
          t.power.powerGood = false ∧ t.power.converters = false ∧ t.asserted 0 = true) ∧
      (sb < 11400 ∨ 12600 < sb → sb ≤ 14000 → mV ≤ 65000 →
        ∃ t, exec (.modulePowerGood ⟨mV, sb⟩ us) s = .next t ∧ s.UnderReset t (Reach.ofCode (s.sourceReach 0)) ∧
          t.power.sb12 = false ∧ t.power.powerGood = false ∧ t.power.converters = false ∧ t.asserted 0 = true)) ∧
    (s.Narrower .powerOn →
      ∃ t, exec .sb12Loss s = .next t ∧ s.UnderReset t .powerOn ∧ t.power.sb12 = false ∧ t.power.power = .ps4 ∧
        t.aon.running = false ∧ t.resets.holds = [⟨0, .powerOn, .module, true⟩]) ∧
    (s.resets.inReset = some .powerOn →
      ∃ t, exec .sb12Loss s = .next t ∧ t.resets.inReset = some .powerOn ∧ t.power.sb12 = false ∧ t.aon.running = false ∧
        t.aon.ms = 0 ∧ t.aon.resetLog = [] ∧ t.aon.watchLog = [] ∧ t.aon.eid = 0 ∧ t.watch = Watch.reset ∧
        t.resets.holds = [⟨0, .powerOn, .module, true⟩])

/-- R463, R464, R508, R510, R511: a low pulse of a reset pin shorter than 1 µs does nothing; a longer one asserts the pin's
source at the reach its fuse gives; the rise deasserts it; TRST_N resets the TAP block at once. A CXL hot reset asserts
its source over the host port, or over the module where its fuse is wider; a function-level reset closes every session,
returns the functions' registers and asks the physical function's block to go idle; a reset of a virtual function closes
the sessions that name it, and returns its registers at once where none does. That the function-level reset is a pulse,
and reaches before the fuses are read, are log entries 27 and 28. -/
def Obligations.PinsAndHostResetsAct : Prop :=
  (∀ (s : State) (w : Nat),
     (exec (.perstN true w) s =
       .next { s with
         power := { s.power with perst := true }
         resets := { s.resets with holds := s.resets.holds.map fun h => if h.source = 1 then { h with on := false } else h } }) ∧
     (exec (.sysResetN true w) s =
       .next { s with
         power := { s.power with sysReset := true }
         resets := { s.resets with holds := s.resets.holds.map fun h => if h.source = 2 then { h with on := false } else h } }) ∧
     (w < 1000 → exec (.perstN false w) s = .next s ∧ exec (.sysResetN false w) s = .next s ∧
       exec (.trstN false w) s = .next s) ∧
     (1000 ≤ w → s.aon.running = true → s.Narrower (Reach.ofCode (s.sourceReach 1)) →
       ∃ t, exec (.perstN false w) s = .next t ∧ s.UnderReset t (Reach.ofCode (s.sourceReach 1)) ∧
         t.power.perst = false ∧ t.asserted 1 = true) ∧
     (1000 ≤ w → s.aon.running = true → s.Narrower (Reach.ofCode (s.sourceReach 2)) →
       ∃ t, exec (.sysResetN false w) s = .next t ∧ s.UnderReset t (Reach.ofCode (s.sourceReach 2)) ∧
         t.power.sysReset = false ∧ t.asserted 2 = true) ∧
     (1000 ≤ w → s.aon.running = true → (∀ e ∈ s.resets.blocks, e.target ≠ .tap) →
       ∃ t, exec (.trstN false w) s = .next t ∧ t.power.trst = false ∧ t.asserted 13 = true ∧ t.lc.tapCapture = 0 ∧
         t.lc.tapPreset = 0 ∧ t.lc.tapLanes = [] ∧ (⟨.tap, s.time.now, true, false⟩ : BlockHold) ∈ t.resets.blocks ∧
         t = { s with power := t.power, lc := t.lc, resets := t.resets } ∧ t.resets.inReset = s.resets.inReset) ∧
     ((∀ e ∈ s.resets.blocks, e.target = .tap → e.done = true) →
       ∃ t, exec (.trstN true w) s = .next t ∧ t.power.trst = true ∧
         ((∀ h ∈ s.resets.holds, h.target = .block .tap → h.source = 13) → ∀ k ∈ t.resets.blocks, k.target ≠ .tap))) ∧
  (∀ (s : State) (vf : Nat),
     (s.coreAwake = true → s.host.powered = true → s.resets.inReset = none →
       ∃ t, exec (.cxlHotReset true) s = .next t ∧ t.asserted 3 = true ∧
         (s.sourceReach 3 = 1 → (∀ e ∈ s.resets.blocks, e.target ≠ .hostPort) →
           t = { s with resets := { s.resets with
             holds := t.resets.holds, since := t.resets.since,
             blocks := s.resets.blocks ++ [⟨.hostPort, s.time.now, false, false⟩] } }) ∧
         (s.sourceReach 3 = 2 → s.UnderReset t .warm) ∧
         (3 ≤ s.sourceReach 3 → s.UnderReset t (Reach.ofCode (s.sourceReach 3)))) ∧
     ((∀ e ∈ s.resets.blocks, e.target ≠ .hostPort) →
       exec (.cxlHotReset false) s =
         .next { s with resets := { s.resets with
           holds := s.resets.holds.map fun h => if h.source = 3 then { h with on := false } else h } }) ∧
     (s.coreAwake = true → s.resets.inReset = none → (∀ e ∈ s.resets.blocks, e.target ≠ .physicalFunction) →
       ∃ t, exec .cxlFunctionLevelReset s = .next t ∧
         t = { s with
           sessions := t.sessions
           host := { (List.range 5).foldl HostPort.resetFn s.host with vfEnable := false, numVfs := 0 }
           resets := { s.resets with
             holds := t.resets.holds, since := t.resets.since,
             blocks := s.resets.blocks ++ [⟨.physicalFunction, s.time.now, false, false⟩] } } ∧
         (∀ i < 4, (s.session i).isOpen = true → (t.session i).state = .closing)) ∧
     (s.flrRuns = false →
       ∃ t, exec (.vfFlr vf) s = .next t ∧ t = { s with sessions := t.sessions, host := t.host } ∧
         ((∃ i, i < 4 ∧ (s.session i).isOpen = true ∧ (s.session i).vf = vf) → t.host = s.host) ∧
         ((∀ i < 4, (s.session i).isOpen = true → (s.session i).vf ≠ vf) → t.host = s.host.resetFn vf ∧ t.sessions = s.sessions) ∧
         ∀ i < 4,
           ((s.session i).isOpen = true → (s.session i).vf = vf → (s.session i).state ≠ .closing →
             t.session i = { s.session i with
               state := .closing, closing := some ⟨BitVec.ofNat 64 (s.time.now.toNat + ns 20000), false, none⟩ }) ∧
           ((s.session i).vf ≠ vf → t.session i = s.session i)))

/-- R502, R505, R508, R510: a control watchdog asserts its source over its core's quarter, or over the module; a tamper
event asserts its source over the module, until it ends; a quarter's fault is recorded and asserts over the quarter, or
the module where its fuse says so. A released domain that loses clock-good stops: AON's loss is a loss of standby power,
a quarter's domain is a quarter fault, a Krelas domain's asks its nine ports to go idle, HOST's takes the host link down,
MGMT's and TAP's is logged, TAP's clock-good standing all the same, and any other's is a logged supply fault that resets
the module. Which sources are pulses is log entry 27, how quarter faults join is log entry 30, and what each loss is
reported as is log entry 29. -/
def Obligations.FaultSourcesAct : Prop :=
  (∀ (s : State) (n : Nat),
     (s.coreAwake = true → s.resets.inReset = none →
       ∃ t, exec (.controlWatchdog n) s = .next t ∧ t.asserted 5 = true ∧
         (s.sourceReach 5 = 2 → n < 4 →
           t = { s with resets := { s.resets with holds := t.resets.holds, since := t.resets.since } } ∧
             (⟨5, .quarter, .quarter n, true⟩ : Hold) ∈ t.resets.holds) ∧
         (s.sourceReach 5 = 2 → 4 ≤ n → s.UnderReset t .warm) ∧
         (3 ≤ s.sourceReach 5 → s.UnderReset t (Reach.ofCode (s.sourceReach 5)))) ∧
     (s.aon.running = true → s.Narrower (Reach.ofCode (s.sourceReach 8)) →
       ∃ t, exec (.tamper true) s = .next t ∧ t.asserted 8 = true ∧ s.UnderReset t (Reach.ofCode (s.sourceReach 8))) ∧
     (∃ t, exec (.tamper false) s = .next t ∧ t.asserted 8 = false ∧
       t = { s with power := t.power, resets := { s.resets with holds := t.resets.holds } }) ∧
     (s.coreAwake = true → s.resets.inReset = none →
       ∃ t, exec (.quarterFault n true) s = .next t ∧ t.asserted 11 = true ∧
         t.resets.faults = s.resets.faults ||| BitVec.ofNat 4 (2 ^ n) ∧
         (s.sourceReach 11 = 2 → t = { s with resets := { s.resets with
             faults := t.resets.faults, holds := t.resets.holds, since := t.resets.since } } ∧
           (⟨11, .quarter, .quarter n, true⟩ : Hold) ∈ t.resets.holds) ∧
         (3 ≤ s.sourceReach 11 → s.UnderReset t (Reach.ofCode (s.sourceReach 11)))) ∧
     (∃ t, exec (.quarterFault n false) s = .next t ∧
       t = { s with resets := { s.resets with faults := t.resets.faults, holds := t.resets.holds } } ∧
       t.resets.faults = s.resets.faults &&& ~~~ BitVec.ofNat 4 (2 ^ n) ∧
       ∀ h ∈ t.resets.holds, h.source = 11 → h.target = .quarter n → h.on = false)) ∧
  (∀ (s : State) (d : Nat), d < 18 → s.resets.clockGood.getLsbD d = true → s.resets.released.getLsbD d = true →
     s.aon.running = true →
     ∃ t, exec (.clockGoodLoss d) s = .next t ∧ (d ≠ 17 → t.resets.clockGood.getLsbD d = false) ∧
       (d = 17 → t.resets.clockGood = s.resets.clockGood) ∧
       (d ≠ 12 → d ≠ 16 → d ≠ 17 → t.resets.released.getLsbD d = false) ∧
       (d = 0 → s.Narrower .powerOn → s.UnderReset t .powerOn) ∧
       (((3 ≤ d ∧ d ≤ 6) ∨ (8 ≤ d ∧ d ≤ 11)) → t.asserted 11 = true) ∧
       (d = 12 → t.host.linkUp = false ∧ t.sessions = s.sessions) ∧
       ((d = 13 ∨ d = 14) → s.resets.inReset = none → t.sessions = s.sessions ∧ t.host = s.host ∧
         ∀ k < 9, ∃ e ∈ t.resets.blocks, e.target = .port (9 * (d - 13) + k)) ∧
       ((d = 16 ∨ d = 17) → t = { s with aon := t.aon, resets := t.resets } ∧
         t.resets = { s.resets with clockGood := t.resets.clockGood }) ∧
       ((d = 1 ∨ d = 2 ∨ d = 7 ∨ d = 15) → s.Narrower (Reach.ofCode (s.sourceReach 7)) →
         t.resets.inReset = some (Reach.ofCode (s.sourceReach 7)) ∧ t.power.power = .ps4 ∧ t.host.powered = false ∧
           (s.sourceReach 7 = 4 → t.asserted 7 = true ∧ t.watch.supplyHeld = true ∧
             ∃ e, t.aon.watchLog.getLast? = some e ∧ e.event = 3)))

/-- R507, R513, R519: a quarter under its reset source, with no session that touches it, is cleared and its domains stop, and
a session that does is struck; its release is logged, the domains run again and the quarter's repair and trainings
stand to be repeated. A block that is idle is reset, and released at once where no source covers it any longer; one that
stays busy for IDLE_TIMEOUT is reset all the same, its work ended with ST_IDLE_TIMEOUT and its bit logged. Which work a port
and the host port hold is the model's reading (log entry 32), as is the absorption of Block resets (log entry 88). -/
def Obligations.QuarterAndBlockResetsAct : Prop :=
  (∀ (s : State) (q : Nat), q < 4 → (∃ h ∈ s.resets.holds, h.target = .quarter q) →
    (vget Die.reset s.dies q).inReset = false → s.resets.inReset = none → s.quartersPowered = true →
    ∃ t, exec (.quarterReset q) s = .next t ∧
      vget Die.reset t.dies q = { Die.reset with inReset := true } ∧
      t.resets.released.getLsbD (3 + q) = false ∧ t.resets.released.getLsbD (8 + q) = false ∧
      (∀ i < 4, (s.session i).isOpen = true → (s.session i).touches q = true →
        (t.session i).isOpen = false ∨ ∃ c, (t.session i).closing = some c ∧ c.struck = true) ∧
      ((∀ i < 4, (s.session i).isOpen = true → (s.session i).touches q = false) → t = s.clearQuarter q)) ∧
  (∀ (s : State) (q : Nat), q < 4 → (vget Die.reset s.dies q).inReset = true →
    (∀ h ∈ s.resets.holds, h.target.inQuarter q = true → h.holds = false) → s.resets.inReset = none →
    s.quartersPowered = true →
    ∃ t, exec (.quarterResetRelease q) s = .next t ∧
      vget Die.reset t.dies q = { vget Die.reset s.dies q with inReset := false, readying := true } ∧
      t.resets.quarterSteps = s.resets.quarterSteps ++ [0x30 + q, 0x40 + 2 * q, 0x41 + 2 * q] ∧
      (∀ h ∈ t.resets.holds, h.target.inQuarter q = false) ∧
      (s.resets.clockGood.getLsbD (3 + q) = true → t.resets.released.getLsbD (3 + q) = true) ∧
      (s.resets.clockGood.getLsbD (8 + q) = true → t.resets.released.getLsbD (8 + q) = true) ∧
      t = { s with dies := t.dies, aon := t.aon, resets := t.resets }) ∧
  (∀ (s : State) (b : BlockTarget) (e : BlockHold), s.resets.blocks.find? (fun k => k.target = b) = some e →
    e.done = false → s.resets.inReset = none → s.blockPowered b = true →
    (s.blockIdle b = true →
    ∃ t, exec (.blockReset b) s = .next t ∧ (∀ i < 4, (t.session i).ops = (s.session i).ops) ∧
      (b = .hostPort → t.host.linkUp = false) ∧
      (b = .tap → t.lc.tapCapture = 0 ∧ t.lc.tapLanes = []) ∧
      (∀ d, b = .countingBoard d → d < 4 → (vget Die.reset t.dies d).cbParty = none) ∧
      (∀ d, b = .pigeonhole d → d < 4 → (vget Die.reset t.dies d).phParty = none) ∧
      (∀ h, b = .sortingOffice h → ∀ i < 4, ∀ c ∈ (t.session i).landing, c.half ≠ h) ∧
      (∀ p, b = .port p → p < 18 → (t.port p).control = [] ∧ (t.port p).data = [] ∧ (t.port p).window = []) ∧
      ((∃ h ∈ s.resets.holds, h.target = .block b ∧ h.holds = true) →
        ∀ k ∈ t.resets.blocks, k.target = b → k.done = true) ∧
      ((∀ h ∈ s.resets.holds, h.target = .block b → h.holds = false) → s.blockClock b = true →
        ∀ k ∈ t.resets.blocks, k.target ≠ b)) ∧
    (s.blockIdle b = false →
      let limit := e.since.toNat + ns (1000 * s.options.idleTimeout.toNat);
      (s.time.now.toNat < limit → exec (.blockReset b) s = .next s) ∧
      (limit ≤ s.time.now.toNat →
        ∃ t, exec (.blockReset b) s = .next t ∧
          (∀ w ∈ s.blockWork b, (∀ o ∈ (t.session w.1).ops, ¬ (o.ctx = w.2.ctx ∧ o.seq = w.2.seq)) ∧
            (w.2.ctx < 4 → ((t.session w.1).ctx w.2.ctx).state = .stopped)) ∧
          ((∃ h ∈ s.resets.holds, h.target = .block b ∧ h.holds = true) →
            ∀ k ∈ t.resets.blocks, k.target = b → k.done = true ∧ k.timedOut = true) ∧
          ((∀ h ∈ s.resets.holds, h.target = .block b → h.holds = false) → s.blockClock b = true →
            (∀ k ∈ t.resets.blocks, k.target ≠ b) ∧ ∃ l, t.aon.resetLog.getLast? = some l ∧ l.idleTimeout = true))))

/-! ### Starts and bring-up -/

/-- R504, R510, R512, R514, R516, R539, R569, R581: with standby power good the module runs P0 and samples its straps:
poste restante is cleared, the start is the first counted, its step is in the ledger and its release in the log, AON runs,
and the supply fault source holds the module in PS4; the endpoint ID goes where the bus mode changes. When every source of
Warm reach or wider has deasserted and the standby supply is there, a Power-on start runs P0; any other, and one that
waited after P0, begins when the supply stands: the module is out of reset in PS0, the start counted and its release
logged, firmware that was running to be verified afresh. That the first start is one of source 0, that a start goes on
after P0 without being counted again, that the check repeated is that of a start that keeps its image, and the log entry
of the fault at P0 are the model's reading (log entries 25, 26, 36 and 38). -/
def Obligations.StartsBegin : Prop :=
  (∀ (s : State) (g : Bool) (a : BitVec 2), s.aon.running = false → s.resets.inReset = some .powerOn →
     s.fuses.latched = false →
     ∃ t, exec (.standbyPowerGood g a) s = .next t ∧ t.RanP0 ∧ t.aon.mgmtI3c = g ∧ t.aon.mgmtAddr = a ∧
       t.aon.eid = (if s.aon.mgmtI3c = g then s.aon.eid else 0) ∧ t.power.sb12 = true ∧
       t.resets.clockGood = s.resets.clockGood ||| 0x20001 ∧ t.resets.released = s.resets.released ||| 0x20001 ∧
       t.sessions = s.sessions ∧ t.lc = s.lc) ∧
  (∀ (s : State) (r : Reach), s.resets.inReset = some r → s.aon.running = true → s.power.sb12 = true →
     (∀ h ∈ s.resets.holds, h.target = .module → h.holds = false) →
     (r = .powerOn → s.resets.atP0 = false → s.fuses.latched = false →
       ∃ t, exec .resetRelease s = .next t ∧ t.RanP0 ∧ t.aon.mgmtI3c = s.power.modePin ∧ t.aon.mgmtAddr = s.power.addrPins ∧
         t.lc = s.lc ∧ t.sessions = s.sessions) ∧
     (r = .warm ∨ r = .cold → s.power.powerGood = true →
       ∃ t, exec .resetRelease s = .next t ∧ t.resets.inReset = none ∧ t.resets.starting = true ∧ t.resets.atP0 = false ∧
         t.power.power = .ps0 ∧ (s.fw.state = .running → t.fw.state = .verifying) ∧ (s.fw.state ≠ .running → t.fw = s.fw) ∧
         (r = .warm → t.lc = s.lc) ∧ (r = .cold → t.lc.attestGen = s.lc.attestGen + 1) ∧
         (r = .cold → ∀ n, s.lc.openRec = some n → markSet (s.lc.record n) mkKeys = true → t.lc.attestKeys = false) ∧
         (∀ h ∈ t.resets.holds, h.holds = true) ∧ t.lc.codeword = s.lc.codeword ∧ t.slots = s.slots ∧
         (s.resets.atP0 = false →
           t.aon.startCount = satAdd s.aon.startCount 1 ∧ t.aon.cause = causeBits (s.resets.since.map (·.1)) ∧
           t.resets.since = [] ∧ ∃ e, t.aon.resetLog.getLast? = some e ∧ e.reach = BitVec.ofNat 3 r.code) ∧
         (s.resets.atP0 = true →
           t.aon.startCount = s.aon.startCount ∧ t.aon.cause = s.aon.cause ∧ t.aon.resetLog = s.aon.resetLog ∧
           t.resets.since = s.resets.since)))

/-- R499 to R504, R509, R519, R520, R522: a clock domain whose PLL has held lock for its stability count is good, its step
ended, and its domain released; before that it is not; one that has not locked in time has failed, and its unit is lost or
the bring-up halted. A bring-up step ends with the bring-up's own method: the fuse step latches the fuses, the option step
puts the stored options in force when its block is valid, a failed training loses its stack, the host link's step ends the
configuration bring-up, and the life-cycle step ends P6; a step that is not awaited does nothing. A released quarter's
step makes the quarter ready once all three have ended. The elapsed times are log entry 35, how step 0x02 ends without a
valid block is log entry 33, a stack whose training is skipped is log entry 34, and a quarter whose steps fail is log
entry 30. -/
def Obligations.BringupRuns : Prop :=
  (∀ (s : State) (d us : Nat), d < 18 → s.resets.pll.getLsbD d = true → s.resets.clockGood.getLsbD d = false →
     let method := s.stepMethod (0x10 + d);
     (1000 * (us + 1) ≤ stability d method → exec (.clockGood d us) s = .next s) ∧
     (s.resets.failed.contains (0x10 + d) = false → stability d method < 1000 * (us + 1) →
       (s.awaits (0x10 + d) = true → us ≤ lockLimit method) →
       ∃ t, exec (.clockGood d us) s = .next t ∧ t.resets.clockGood = s.resets.clockGood ||| BitVec.ofNat 18 (2 ^ d) ∧
         (s.awaits (0x10 + d) = true → 0x10 + d ∈ t.resets.stepsDone ∧ t.resets.failed.contains (0x10 + d) = false) ∧
         (s.resets.inReset = none → (∀ q < 4, (vget Die.reset s.dies q).inReset = false) →
           t.resets.released.getLsbD d = true) ∧
         t.sessions = s.sessions ∧ t.lc = s.lc) ∧
     (s.awaits (0x10 + d) = true →
       ∃ t, exec (.clockGoodTimeout d) s = .next t ∧ 0x10 + d ∈ t.resets.failed ∧ 0x10 + d ∈ t.resets.stepsDone ∧
         t.resets.clockGood = s.resets.clockGood ∧
         (haltsOn (0x10 + d) = true → t.resets.halted = true) ∧
         (∀ q < 4, d = 3 + q ∨ d = 8 + q → t.resets.unavailQuarter.getLsbD q = true) ∧
         t.sessions = s.sessions ∧ t.lc = s.lc ∧
         (lockLimit method < us → s.resets.failed.contains (0x10 + d) = false → exec (.clockGood d us) s = .next t))) ∧
  (∀ (s : State) (key us : Nat) (r : StepEnd) (x : W32),
     (s.awaits key = true → s.resets.quarterSteps.contains key = false →
       key = 0x01 ∨ key = 0x02 ∨ (0x30 ≤ key ∧ key < 0x34) ∨ (0x40 ≤ key ∧ key < 0x48) →
       ∃ t, exec (.bringupStepEnd key r us x) s = .next t ∧ key ∈ t.resets.stepsDone ∧
         (r = .failed → key ∈ t.resets.failed) ∧
         (key = 0x01 → r = .done → t.fuses = { s.fuses with latched := true, pinLatch := s.fuses.pins }) ∧
         (key = 0x01 → r = .failed → t.resets.halted = true) ∧
         (key = 0x02 → t.options =
           if s.stepMethod key = false ∧ r = .done ∧ optionOk s.fuses.block = true then optionsOf s.fuses.block
           else Options.reset) ∧
         (∀ k < 8, key = 0x40 + k → r = .failed → t.resets.unavailStack.getLsbD k = true) ∧
         t.lc = s.lc ∧ t.sessions = s.sessions) ∧
     (key = 0x50 → s.awaits key = true → s.resets.quarterSteps.contains key = false →
       (r = .done → s.host.linkUp = true →
         ∃ t, exec (.bringupStepEnd key r us x) s = .next t ∧ key ∈ t.resets.stepsDone ∧ t.host.configDone = true ∧
           t.lc = s.lc ∧ t.sessions = s.sessions) ∧
       (r = .failed →
         ∃ t, exec (.bringupStepEnd key r us x) s = .next t ∧ key ∈ t.resets.failed ∧ t.host = s.host ∧
           t.resets.hostMethod = !s.stepMethod key ∧ t.lc = s.lc ∧ t.sessions = s.sessions)) ∧
     (key = 0x60 → s.awaits key = true → s.resets.quarterSteps.contains key = false → s.lc.openRec = none →
       (∀ k < 8, 0x40 + k ∈ s.resets.stepsDone) →
       ∃ t, exec (.bringupStepEnd key r us x) s = .next t ∧ key ∈ t.resets.stepsDone ∧ t.resets.inPhase = 7 ∧
         t.lc = s.lc ∧ t.sessions = s.sessions) ∧
     (s.awaits key = false → s.resets.quarterSteps.contains key = false →
       exec (.bringupStepEnd key r us x) s = .next s) ∧
     (∀ q < 4, key = 0x30 + q ∨ key = 0x40 + 2 * q ∨ key = 0x41 + 2 * q → s.resets.quarterSteps.contains key = true →
       s.resets.inReset = none →
       ∃ t, exec (.bringupStepEnd key r us x) s = .next t ∧
         t.resets.quarterSteps = s.resets.quarterSteps.filter (fun k => k ≠ key) ∧
         ((∀ k ∈ s.resets.quarterSteps, k = key ∨ (k ≠ 0x30 + q ∧ k ≠ 0x40 + 2 * q ∧ k ≠ 0x41 + 2 * q)) →
           (vget Die.reset t.dies q).readying = false) ∧
         (r = .failed → t.resets.unavailQuarter.getLsbD q = true) ∧
         t = { s with aon := t.aon, resets := t.resets, dies := t.dies, power := t.power }))

/-! ### The Watch Post -/

/-- R533 to R541, R566, R573: each millisecond the Watch Post takes a sample of each sensor, the power being the product of
voltage and current; with five of each it has medians and filtered values, moves its levels, and trips, declares a supply
fault, or both, each of which resets the module at its fuse's reach; a leak that appears while a trip is held makes it a leak
trip (log entry 38). A trip is released after 10 s of safe medians with no leak, a supply fault after 100 ms in range. A
Power-on reset restarts the Watch Post itself, so that neither is held after it (log entry 27). -/
def Obligations.WatchPostActs : Prop :=
  ∀ (s : State) (l : List Int),
    let p := s.standbyMs.power;
    let w := s.watch.take s.options.filterShift.toNat (withPower l);
    let v := s.levels w;
    let v' := { v with
      safeMs := if v.safe then v.safeMs + 1 else 0, supplyMs := if v.supplyGood then v.supplyMs + 1 else 0 };
    (s.aon.running = true → s.resets.inReset ≠ some .powerOn →
      (w.ready = false →
        exec (.watchPostSample l) s = .next { s with aon := { s.aon with ms := s.aon.ms + 1 }, watch := w, power := p }) ∧
      (w.ready = true → v.trip = none → v.supplyBad = none →
        ∃ t, exec (.watchPostSample l) s = .next t ∧ t = { s with aon := t.aon, watch := v', power := t.power } ∧
          t.aon.ms = s.aon.ms + 1) ∧
      (∀ i, w.ready = true → v.trip = some i → s.watch.tripHeld = true → v.supplyBad = none →
        ∃ t, exec (.watchPostSample l) s = .next t ∧ t = { s with
          aon := t.aon
          watch := { v' with leakLatched := s.watch.leakLatched || decide (v.med 63 = 1) }
          power := t.power }) ∧
      (∀ i, w.ready = true → v.trip = some i → s.watch.tripHeld = false →
        (s.sourceReach 6 = 4 → s.Narrower .cold → v.supplyBad = none ∨ (s.watch.supplyHeld = false ∧ s.sourceReach 7 = 4) →
          ∃ t, exec (.watchPostSample l) s = .next t ∧ t.watch.tripHeld = true ∧ t.watch.trips = satAdd s.watch.trips 1 ∧
            t.power.power = .ps4 ∧ t.asserted 6 = true ∧ t.resets.inReset = some .cold ∧ t.host.powered = false ∧
            (i = 63 → t.watch.leakLatched = true) ∧
            (v.supplyBad ≠ none → t.watch.supplyHeld = true ∧ t.asserted 7 = true)) ∧
        (s.sourceReach 6 = 5 → s.Narrower .powerOn → v.supplyBad = none →
          ∃ t, exec (.watchPostSample l) s = .next t ∧ t.resets.inReset = some .powerOn ∧ t.power.power = .ps4 ∧
            t.host.powered = false ∧ t.watch = Watch.reset ∧ t.asserted 6 = false)) ∧
      (∀ i, w.ready = true → v.trip = none → v.supplyBad = some i → s.watch.supplyHeld = false →
        (s.sourceReach 7 = 4 → s.Narrower .cold →
          ∃ t, exec (.watchPostSample l) s = .next t ∧ t.watch.supplyHeld = true ∧ t.power.power = .ps4 ∧
            t.asserted 7 = true ∧ t.resets.inReset = some .cold) ∧
        (s.sourceReach 7 = 5 → s.Narrower .powerOn →
          ∃ t, exec (.watchPostSample l) s = .next t ∧ t.resets.inReset = some .powerOn ∧ t.power.power = .ps4 ∧
            t.host.powered = false ∧ t.watch = Watch.reset ∧ t.asserted 7 = false))) ∧
    (s.resets.inReset = some .powerOn → exec (.watchPostSample l) s = .next { s with power := p }) ∧
    (s.watch.tripHeld = true → s.watch.leakLatched = false → 10000 ≤ s.watch.safeMs →
      ∃ t, exec .thermalTripRelease s = .next t ∧ t.watch = { s.watch with tripHeld := false } ∧ t.asserted 6 = false ∧
        t = { s with watch := t.watch, aon := t.aon, power := t.power, resets := { s.resets with holds := t.resets.holds } }) ∧
    (s.watch.supplyHeld = true → 100 ≤ s.watch.supplyMs →
      ∃ t, exec .supplyFaultRelease s = .next t ∧ t.watch = { s.watch with supplyHeld := false } ∧ t.asserted 7 = false ∧
        t = { s with watch := t.watch, aon := t.aon, power := t.power, resets := { s.resets with holds := t.resets.holds } })

/-! ### Counters -/

/-- R546 to R550, R552, R553, R559 to R561: PERF_CONFIG reads a counter its sender may address, writes its control record, claims an
unassigned one and releases one, answering the record, and PERF_READ reads values. PERF_RING gives a session an empty
sample ring in a region of its HBM; a queued record is written at the head, or counted in LOST while the ring is full;
PERF_RING_READ answers up to MAX records from the tail. Who may claim what, and the corners of a record, are log entries
49 and 59. -/
def Obligations.CountersCountAndSample : Prop :=
  (∀ (s : State) (mb : Nat) (r : Req),
     let u := s.acceptKey r;
     let unit := (u8 r.body 0).toNat;
     let n := (u8 r.body 1).toNat;
     let c := s.counter unit n;
     let new := r.body.drop 8;
     let level : Counter → Counter := fun d =>
       { d with high := decide (u.clockValue d.session.toNat unit d.event.toNat 0 ≠ 0) };
     (∀ a, s.Accepts mb 0x0900 .mixed a r → perfForm r.body = true →
       (a = .reads → u8 r.body 2 = 0 → c.right r = stOk → exec (.perfConfigRead mb) s = answered (u.setCounter unit n (level c)) r c.bytes) ∧
       (a = .work → u8 r.body 2 = 1 → c.right r = stOk → recordOk unit (c.owner = 2) new = true →
         exec (.perfConfigWrite mb) s = answered (u.setCounter unit n (level (c.written new))) r (c.written new).bytes) ∧
       (a = .work → u8 r.body 2 = 2 → c.owner = 0 → (r.isSealed = true → s.holdsOn r.session unit = true) →
         recordOk unit (!r.isSealed) new = true →
         ∃ d : Counter, d.owner = (if r.isSealed then 1 else 2) ∧
           (r.isSealed = true → d.session = BitVec.ofNat 2 r.session) ∧ d.enable = bitOf (fieldAt new 0 4) 10 ∧
           d.event = BitVec.ofNat 10 (fieldAt new 0 4) ∧ d.value = BitVec.ofNat 48 (fieldAt new 4 8) ∧
           exec (.perfConfigClaim mb) s = answered (u.setCounter unit n d) r d.bytes) ∧
       (a = .work → u8 r.body 2 = 3 → c.right r = stOk →
         exec (.perfConfigRelease mb) s = answered (u.setCounter unit n (level Counter.reset)) r Counter.reset.bytes)) ∧
     (let first := (u8 r.body 2).toNat;
       let count := (u8 r.body 3).toNat;
       s.Accepts mb 0x0901 .mixed .reads r → r.body.length = 4 → 1 ≤ count → count ≤ 64 →
       (u8 r.body 1 = 0 → first + count ≤ counterCount unit → (∀ k < count, (s.counter unit (first + k)).right r = stOk) →
         exec (.perfRead mb) s =
           answered u r ((List.range count).map fun k => (s.counter unit (first + k)).shown).flatten) ∧
       (u8 r.body 1 = 1 → unit < 4 → first + count ≤ 16 → r.isSealed = true →
         (u.session r.session).dieList.contains unit = true →
         exec (.perfRead mb) s =
           answered u r ((List.range count).map fun k => w64 (u.slotNow r.session unit (first + k))).flatten))) ∧
  (∀ (s : State) (mb : Nat) (r : Req),
     let u := s.acceptKey r;
     let x := u.session r.session;
     (let owner := (u8 r.body 0).toNat;
       let base := fieldAt r.body 8 8;
       let size := fieldAt r.body 16 8;
       s.Accepts mb 0x0902 .sealed .work r → bodyForm r.body 24 [(1, 7)] = true → x.partyOk owner = true →
       addrClass base = 1 → base % 64 = 0 → size ∈ ringSizes → (x.region owner).1 ≤ addrOff base →
       addrOff base + size ≤ (x.region owner).1 + (x.region owner).2 →
       ∃ g : SampleRing, g.owner = owner ∧ g.base = addrOff base ∧ g.size = size ∧ g.head = 0 ∧ g.tail = 0 ∧ g.queue = [] ∧
         g.lost = 0 ∧ exec (.perfRing mb) s = answered (u.setSession r.session { x with ring := some g }) r []) ∧
     (∀ g, s.Accepts mb 0x0903 .sealed .reads r → r.body.length = 2 → 1 ≤ fieldAt r.body 0 2 → fieldAt r.body 0 2 ≤ 120 →
       x.ring = some g →
       let m := min (fieldAt r.body 0 2) g.held;
       let q := (List.range m).foldl (fun (a : Job × List Bytes) k =>
         let b := a.1.readHbm (g.base + (g.tail + 64 * k) % g.size) 64;
         (b.1, a.2 ++ [b.2])) (u.plainJob r.session g.owner, []);
       q.1.status = stOk →
       exec (.perfRingRead mb) s =
         answered (q.1.st.onSession r.session fun y =>
           { y with ring := y.ring.map fun h => { h with tail := (g.tail + 64 * m) % g.size } }) r
           (le 2 m ++ zeros 2 ++ w32 g.lost ++ q.2.flatten)) ∧
     (∀ i g q rest, i < 4 → (s.session i).ring = some g → g.queue = q :: rest →
       (g.size / 64 - 1 ≤ g.held →
         exec (.sampleRecordWrite i) s =
           .next (s.setSession i { s.session i with ring := some { g with queue := rest, lost := satAdd g.lost 1 } })) ∧
       (g.held < g.size / 64 - 1 →
         ∃ t, exec (.sampleRecordWrite i) s = .next t ∧
           t = (((s.setSession i { s.session i with
             ring := some { g with queue := rest, head := (g.head + 64) % g.size } }).plainJob i g.owner).writeHbm
               (g.base + g.head) q.bytes).st ∧
           (∃ h, (t.session i).ring = some h ∧ rest <+: h.queue ∧ h.head = (g.head + 64) % g.size ∧ h.tail = g.tail ∧
             h.base = g.base ∧ h.size = g.size ∧ h.owner = g.owner) ∧
           (∀ j < 4, j ≠ i → t.session j = s.session j) ∧ t.slots = s.slots ∧ t.tallies = s.tallies)))

/-- R551: an addition that carries a counter past its 48 bits sets STICKY and keeps the low 48 bits of the sum, or in
sample-record mode RELOAD plus the part beyond, requesting one record; any other keeps the sum. -/
def Obligations.CountersCountPastTheirWidth : Prop :=
  ∀ (c : Counter) (n : Nat),
   let total := c.value.toNat + n;
   (total < 2 ^ 48 → c.advance n = ({ c with value := BitVec.ofNat 48 total }, false)) ∧
   (2 ^ 48 ≤ total →
     (c.ovfSample = false → c.advance n = ({ c with sticky := true, value := BitVec.ofNat 48 total }, false)) ∧
     (c.ovfSample = true →
       c.advance n =
         ({ c with sticky := true, value := BitVec.ofNat 48 (c.reload.toNat + (total - 2 ^ 48)) }, true)))

/-! ### Register windows and the status block -/

/-- R295, R444, R446, R447, R451, R452, R467 to R470, R481, R490, R491: a write to a mailbox that a function shows takes its
bits while the mailbox is idle or done; a busy mailbox keeps its registers and buffer and notes the error; a SUBMIT of a
length that a request may have starts the request, which is taken when its turn comes; every other write of the window is
ignored. The Commit bit of the HDM decoder in BAR2 commits it if it may stand (its place is log entry 99), and beyond
BAR2, or beyond the window of a virtual function, there is no address (log entry 83). A read of NOW_LO answers the low
word of one instant and latches the high one for its function alone; the module page goes into its window with a new
STATUS_SEQ and postmark; a session's portion is sealed with its next SEQ (what counts as an update of the portion between
two page writes is log entry 97). -/
def Obligations.RegisterWindowsAct : Prop :=
  (∀ (s : State) (fn n off : Nat) (v : W32) (st : Option Nat), s.barred fn st = none → n < 64 → s.showsMailbox fn n = true → off % 4 = 0 →
     let m := s.mailbox n;
     let u := s.say .ok;
     (m.state = .idle ∨ m.state = .done →
       exec (.registerWrite ⟨fn, st⟩ (0x2000 * n + 4) v) s =
         .next (u.setMailbox n { m with reqLen := BitVec.ofNat 13 v.toNat }) ∧
       (64 ≤ off → off < 0x2000 →
         exec (.registerWrite ⟨fn, st⟩ (0x2000 * n + off) v) s =
           .next (u.setMailbox n { m with buffer := memStore m.buffer (off - 64) (w32 v) })) ∧
       (v.getLsbD 0 = true → 16 ≤ m.reqLen.toNat → m.reqLen.toNat ≤ 8128 → fieldAt m.request 0 2 ∈ knownCodes →
         ∃ t, exec (.registerWrite ⟨fn, st⟩ (0x2000 * n + 8) v) s = .next t ∧
           t = { u with submitNo := s.submitNo + 1, mailboxes := t.mailboxes, power := t.power } ∧
           t.mailbox n = { m with
             submits := m.submits + 1, respLen := 0, state := .submitted, order := s.submitNo, at_ := s.time.now } ∧
           ((∀ k < 64, s.unknownTurn k = false) → ∀ k < 64, k ≠ n → t.mailbox k = s.mailbox k) ∧
           t.power.power = s.power.power ∧
           (s.power.power = .ps1 → t.power.waking = true)) ∧
       (v.getLsbD 0 = true → m.reqLen.toNat < 16 ∨ 8128 < m.reqLen.toNat →
         ∃ t, exec (.registerWrite ⟨fn, st⟩ (0x2000 * n + 8) v) s = .next t ∧ (∀ k < 64, k ≠ n → t.mailbox k = s.mailbox k) ∧
           t.mailbox n = ({ m with
             submits := m.submits + 1, respLen := 0, state := .submitted, order := s.submitNo, at_ := s.time.now }
               : Mailbox).answer s.time.now stRefused 0 [])) ∧
     (m.state = .submitted ∨ m.state = .serving → off = 4 ∨ off = 8 ∨ (64 ≤ off ∧ off < 0x2000) →
       exec (.registerWrite ⟨fn, st⟩ (0x2000 * n + off) v) s = .next (u.setMailbox n { m with busyErr := true })) ∧
     (exec (.registerWrite ⟨fn, st⟩ (0x2000 * n) v) s =
       .next (u.setMailbox n { m with busyErr := m.busyErr && !v.getLsbD 2 })) ∧
     (0x80000 ≤ off → off < 0x400000 → exec (.registerWrite ⟨fn, st⟩ off v) s = .next u) ∧
     (fn = 0 → v.getLsbD 9 = true → s.host.decoder.committed = false →
       let d := s.host.decoder;
       let ways := 2 ^ (v.toNat / 2 ^ 4 % 16);
       let good : Bool := d.size = 2 ^ 40 ∧ ways = 1 ∧ d.base % 2 ^ 28 = 0;
       exec (.registerWrite ⟨fn, st⟩ 0x401320 v) s =
         .next { u with host := { u.host with decoder := ⟨d.base, d.size, ways, good, !good⟩ } }) ∧
     (0x400000 ≤ off → 0x420000 ≤ off ∨ fn ≠ 0 → exec (.registerWrite ⟨fn, st⟩ off v) s = .fault .noSuchAddress)) ∧
  ((∀ (s : State) (fn : Nat) (st : Option Nat), s.barred fn st = none → fn < 5 →
     ∃ t, exec (.nowLoRead ⟨fn, st⟩) s = .next t ∧
       t = { s with time := { s.time with latch := t.time.latch }, host := t.host } ∧
       t.host.reply = .bytes (le 4 (s.time.now.toNat % 2 ^ 32)) ∧
       vget 0 t.time.latch fn = BitVec.ofNat 32 (s.time.now.toNat / 2 ^ 32) ∧
       ∀ k < 5, k ≠ fn → vget 0 t.time.latch k = vget 0 s.time.latch k) ∧
   (∀ (s : State) (a : Nat), s.resets.inReset = none → s.fw.state = .running →
     s.power.power = .ps0 ∨ s.power.power = .ps1 ∨ s.power.power = .ps2 → s.cacheReady = true →
     (s.pageWindow none = some a →
       exec (.statusPageWrite 0) s =
         .next (({ s with statusSeq := s.seqNow + 2, written := s.time.now, shown := some (s.portionWith 0 0) }
           : State).hostStore a (s.portionWith (s.seqNow + 2) s.time.now))) ∧
     (∀ i, (s.session i).isOpen = true → s.pageWindow (some i) = some a →
       let e := s.statusEnvelope i;
       let x := s.session i;
       exec (.statusPageWrite (i + 1)) s =
         .next ((s.setSession i { x with statusSeq := x.statusSeq + 1, statusEnv := e }).hostStore a e))))

/-! ### The host port -/

/-- R337 to R340, R363, R452 to R454: a read through the committed HDM window answers the stored line at its address, tracking
the host's copy, or poison where the code finds it uncorrectable or the memory is not active; a write or back-invalidation
answer that carries data changes nothing but HDM_WR_DROP; the oldest line tracked that the module has written is
back-invalidated; a snoop of the host misses. What a stored byte that no live line accounts for shows is log entry 15, and
that beyond 1,024 GiB there is no address is log entry 83. -/
def Obligations.HdmWindowActs : Prop :=
  ∀ (s : State) (off : Nat) (d : Bytes), s.portAwake = true → s.host.configDone = true →
    (off < 2 ^ 40 → s.host.decoder.committed = true →
      let a := off / 64 * 64;
      let u : State := { s with draws := s.draws + 1 };
      (s.host.memActive = true → s.host.ideMem ≠ .lost →
        (∀ b, u.hdmLine s.draws (a / 2 ^ 34) (a % 2 ^ 34) = some b →
          exec (.hdmRead off) s = .next ((u.track a).say (.bytes b))) ∧
        (u.hdmLine s.draws (a / 2 ^ 34) (a % 2 ^ 34) = none →
          exec (.hdmRead off) s = .next ((u.track a).say .poison))) ∧
      (s.host.memActive = false → exec (.hdmRead off) s = .next (s.say .poison)) ∧
      (d ≠ [] →
        exec (.hdmWrite off d) s =
          .next { s with host := { s.host with wrDrop := satAdd s.host.wrDrop 1, reply := .ok } })) ∧
    (off < 2 ^ 40 → d ≠ [] →
      exec (.birsp off d) s =
        .next { s with host := { s.host with wrDrop := satAdd s.host.wrDrop 1, reply := .ok } }) ∧
    (off < 2 ^ 40 → exec (.birsp off []) s = .next (s.say .ok)) ∧
    (∀ a rest, s.host.dirty = a :: rest →
      exec .bisnpinv s =
        .next { s with host := { s.host with
          dirty := rest, filter := s.host.filter.filter (fun b => b ≠ a), biSent := satAdd s.host.biSent 1 } }) ∧
    exec (.h2dSnoop off) s = .next (s.say .snoopMiss) ∧
    (2 ^ 40 ≤ off → exec (.hdmRead off) s = .fault .noSuchAddress ∧ exec (.hdmWrite off d) s = .fault .noSuchAddress ∧
      exec (.birsp off d) s = .fault .noSuchAddress)

/-- R440 to R445, R451, R452, R458, R460 to R462, R500, R530: configuration space answers its registers, the fixed ones
whatever was written; virtual functions exist while SR-IOV presents them; D3hot stops a function's BARs; the decoder
commits one range of the window's size and alignment; IDE_KM under an SPDM session makes a stream Secure, and losing that
state counts; CDAT is read. A trained host link shows its width and rate, and WAKE_N is let go; a link that goes down is
counted, and the host's lines are no longer tracked; a link whose training failed in this start is tried again, and its
success ends the configuration bring-up. Which register is which and how CDAT is laid out are those of PCIe and CXL (log
entries 14 and 40), what a lost stream counts and bars is log entry 41, and the width of a retried link is log entry
35. -/
def Obligations.HostConfigurationAndLinkAct : Prop :=
  (∀ (s : State) (fn reg : Nat) (v : W32), s.portAwake = true → s.host.configDone = true →
     (s.vfThere fn = true →
       exec (.configurationRequest fn reg .read) s = .next (s.say (.bytes (w32 (s.configRead fn reg)))) ∧
       exec (.configurationRequest fn reg (.write v)) s = .next ((s.configWrite fn reg v).say .ok) ∧
       (∀ c, fixedConfig fn reg = some c → s.configRead fn reg = c ∧ s.configWrite fn reg v = s) ∧
       (fixedConfig fn reg = none → (fn ≠ 0 ∨ reg ∉ [0x011, 0x05A, 0x05C, 0x022, 0x107]) →
         (fn ≠ 0 ∨ barSize reg = none → (s.configWrite fn reg v).configRead fn reg = v) ∧
         (fn = 0 → ∀ k, barSize reg = some k →
           ((s.configWrite fn reg v).configRead fn reg).toNat / 2 ^ k = v.toNat / 2 ^ k)) ∧
       exec (.d3hotEntry fn) s = .next { s with host := { s.host with d3 := vset s.host.d3 fn true } }) ∧
     (s.vfThere fn = false → exec (.configurationRequest fn reg .read) s = .next (s.say .unsupported)) ∧
     (∀ base strm, s.barred 0 strm = none →
       (base % 2 ^ 28 = 0 →
         exec (.hdmDecoderCommit ⟨base, 2 ^ 40⟩ 1 strm) s =
           .next { s with host := { s.host with decoder := ⟨base, 2 ^ 40, 1, true, false⟩ } }) ∧
       (∀ size ways, size ≠ 2 ^ 40 ∨ ways ≠ 1 ∨ base % 2 ^ 28 ≠ 0 →
         exec (.hdmDecoderCommit ⟨base, size⟩ ways strm) s =
           .next { s with host := { s.host with decoder := ⟨base, size, ways, false, true⟩ } })) ∧
     (∀ st, ((∃ q ∈ s.host.spdm, q.fn = 0) → exec (.ideKm st) s = .next { s with host := s.host.setIde st .secure }) ∧
       ((∀ q ∈ s.host.spdm, q.fn ≠ 0) → exec (.ideKm st) s = .next s) ∧
       (s.host.ide st = .secure →
         exec (.ideSecureLost st) s =
           .next { s with host := { s.host.setIde st .lost with ideFail := satAdd s.host.ideFail 1 } }) ∧
       (s.host.ide st ≠ .secure → exec (.ideSecureLost st) s = .next s)) ∧
     (∃ b, exec .cdatRead s = .next (s.say (.bytes b)) ∧ b.length = 88 ∧ fieldAt b 0 4 = 88 ∧ fieldAt b 32 8 = 2 ^ 40 ∧
       (b.map BitVec.toNat).sum % 256 = 0)) ∧
  (∀ (s : State) (w us : Nat) (full : Bool),
     (s.linkTrains = true → w = 4 ∨ w = 8 ∨ w = 16 →
       ∃ t, exec (.hostLinkUp w full) s = .next t ∧ t = { s with power := t.power, host := { s.host with
           linkUp := true, width := BitVec.ofNat 5 w, rate := if full then 2 else 1 } } ∧
         t.power.wakeLow = false ∧ t.power.power = s.power.power) ∧
     (s.host.linkUp = true →
       exec .hostLinkDown s =
         .next { s with host := { s.host with
           linkUp := false, width := 0, rate := 0, linkDowns := satAdd s.host.linkDowns 1, filter := [], dirty := [] } }) ∧
     (s.host.linkUp = false → exec .hostLinkDown s = .next s) ∧
     (s.resets.failed.contains 0x50 = true → s.host.configDone = false → s.linkTrains = true →
       (∃ t, exec (.hostLinkRetry true us) s = .next t ∧ t.host.linkUp = true ∧ t.host.configDone = true ∧
         t.host.width ∈ [4, 8, 16] ∧
         (Table.get LedgerEntry.blank t.aon.ledger s.aon.head.toNat).step = 0x50 ∧ t.sessions = s.sessions) ∧
       (∃ t, exec (.hostLinkRetry false us) s = .next t ∧ t = { s with aon := t.aon, resets := t.resets } ∧
         t.resets.hostMethod = !s.resets.hostMethod ∧
         t.aon.fallback.getLsbD 0x50 = !s.resets.hostMethod)))

/-! ### SPDM and the management bus -/

/-- R388, R389, R423, R583, R585: in Production with firmware running and an attestation key, SPDM answers on a DOE mailbox of a
function: KEY_EXCHANGE keeps the requester's fingerprint and the secret that its ephemeral secp384r1 key and the
responder's agree, and an authenticated FINISH opens an SPDM session under them; version 1.3 alone, the algorithms of R388,
the certificate chain, its digest, a signature over a nonce and the measurements are answered. Over MCTP a session is
refused and the answers are the management bus's. The bytes that DMTF fixes and the spec does not are Config.standardAnswer
(log entry 14), and the encodings, errors, order and key schedule are log entry 61. -/
def Obligations.SpdmAnswers : Prop :=
  ∀ (s : State), s.spdmReady = true →
    (∀ fn, s.barredConfig fn = none →
      (∀ leaf exchange,
        let peer := (beNat (slice exchange 0 48), beNat (slice exchange 48 48));
        Crypto.onCurve peer = true →
        ∃ (own sig : Bytes) (k : Nat), own.length = 32 ∧ sig.length = 512 ∧ 1 ≤ k ∧ k < Crypto.order384 ∧
          exec (.keyExchange (.doe fn) ⟨leaf, exchange⟩) s =
            .next { s with draws := s.draws + 4, host := { s.host with
              spdmPending := ⟨fn, Crypto.sha512 leaf, slice (Crypto.pointBytes (Crypto.curveMul k peer)) 0 48⟩ ::
                s.host.spdmPending.filter (fun q => q.fn ≠ fn)
              reply := .bytes (spdmHead 0x64 ++ standardBytes 0xE4 0 ++ [1, 0] ++ own ++
                Crypto.pointBytes (Crypto.curveMul k Crypto.base384) ++ standardBytes 0xE4 1 ++ sig ++
                standardBytes 0xE4 2) } }) ∧
      (∀ q, s.host.spdmPending.find? (fun q => q.fn = fn) = some q →
        (∃ transcript : Bytes, transcript.length = 64 ∧
          exec (.finish (.doe fn) true) s =
            .next { s with draws := s.draws + 1, host := { s.host with
              spdmPending := s.host.spdmPending.filter (fun q => q.fn ≠ fn)
              spdm := s.host.spdm ++ [⟨s.host.spdmNext, fn, q.leaf, exportMasterOf q.shared transcript⟩]
              spdmNext := s.host.spdmNext + 1
              reply := .bytes (spdmHead 0x65 ++ standardBytes 0xE5 0) } }) ∧
        exec (.finish (.doe fn) false) s =
          .next { s with host := { s.host with
            spdmPending := s.host.spdmPending.filter (fun q => q.fn ≠ fn), reply := .error spdmDecryptError } })) ∧
    (∀ via, via = .mctp ∧ s.aon.running = true ∨ (∃ fn, via = .doe fn ∧ s.barredConfig fn = none) →
      let say : State → Reply → State := fun u b =>
        if via = .mctp then { u with mgmtReply := b } else { u with host := { u.host with reply := b } };
      exec (.getVersion via) s = .next (say s (.bytes spdmVersions)) ∧
      exec (.getCapabilities via) s = .next (say s (.bytes (spdmCapabilities via))) ∧
      exec (.negotiateAlgorithms via) s = .next (say s (.bytes (spdmAlgorithms via))) ∧
      exec (.getDigests via) s = .next (say s (.bytes (standardBytes 0x81 0 ++ Crypto.sha512 s.chain))) ∧
      (∀ off len, off < s.chain.length →
        ∃ part rest, part = (s.chain.drop off).take len ∧ rest = s.chain.length - off - part.length ∧
          exec (.getCertificate via 0 off len) s =
            .next (say s (.bytes (standardBytes 0x82 0 ++ le 2 part.length ++ le 2 rest ++ part)))) ∧
      (∀ nonce, ∃ own message salt : Bytes, own.length = 32 ∧ salt.length = 64 ∧ message.length = 164 ∧
        exec (.challenge via 0 nonce) s =
          .next (say { s with draws := s.draws + 3 }
            (.bytes (standardBytes 0x83 0 ++ Crypto.sha512 s.chain ++ own ++
              Crypto.pssSign (Config.attestModulus s.lc.attestGen) (Config.attestExponent s.lc.attestGen) message salt)))) ∧
      (∀ k b, k ≠ 0 → k ≠ 0xFF → s.measurement k = some b →
        exec (.getMeasurements via k) s = .next (say s (.bytes (le 1 k ++ b)))) ∧
      exec (.getMeasurements via 0) s = .next (say s (.bytes [9]))) ∧
    (s.aon.running = true → ∀ leaf exchange,
      exec (.keyExchange .mctp ⟨leaf, exchange⟩) s = .next { s with mgmtReply := .error spdmUnsupported } ∧
      exec (.finish .mctp true) s = .next { s with mgmtReply := .error spdmUnsupported })

/-- R581 to R584, R586, R587: the management endpoint answers MCTP control, takes an endpoint ID and, in I3C mode, a dynamic
address, and answers PLDM discovery and sensor readings, the numeric ones with their state against the thresholds of R584;
no event is ever queued. The vendor messages read the ledger, an entry of the reset log, the Watch Post entries the
management pointer has not passed (which it then has), the life cycle and the stored options; an option block of the right
magic and CRC goes into the sector that is not current, which becomes current. The values the standards fix are
Config.standardAnswer (log entry 14), the numbers of commands, errors and states and when SPDM is served are log entries
61 and 62, and the corners of the vendor messages, with the order of an OPTION_WRITE's checks, are log entry 63. -/
def Obligations.ManagementBusAnswers : Prop :=
  (∀ (s : State), s.aon.running = true → s.mgmtReady = true →
     (∀ e : Byte, e ≠ 0 → e ≠ 0xFF →
       exec (.setEndpointId e) s = .next { s with aon := { s.aon with eid := e }, mgmtReply := .bytes [0, e] }) ∧
     exec .getEndpointId s = .next { s with mgmtReply := .bytes [0, s.aon.eid] } ∧
     exec .getMctpVersionSupport s = .next { s with mgmtReply := .bytes (0 :: standardBytes 0 4) } ∧
     exec .getMessageTypeSupport s = .next { s with mgmtReply := .bytes [0, 4, 0x00, 0x01, 0x05, 0x7E] } ∧
     exec .getVendorDefinedMessageSupport s = .next { s with mgmtReply := .bytes [0, 0xFF, 0x00, 0x1E, 0x5D] } ∧
     (s.aon.mgmtI3c = true → ∀ a,
       exec (.entdaa a) s =
         .next { s with
           aon := { s.aon with dynAddr := some a }
           mgmtReply := .bytes (le 4 (s.configRead 0 0x121).toNat ++ le 2 (s.configRead 0 0x122).toNat) }) ∧
     (∀ c : Byte, c ≠ 4 → 1 ≤ c.toNat → c.toNat ≤ 5 →
       exec (.pldmDiscovery c) s = .next { s with mgmtReply := .bytes (0 :: standardBytes 1 c.toNat) }) ∧
     exec (.pldmDiscovery 4) s = .next { s with mgmtReply := .bytes (0 :: 5 :: zeros 7) } ∧
     (∀ n b, 64 < n → s.sensorReading n = some b →
       exec (.pldmSensorRead n) s = .next { s with mgmtReply := .bytes (0 :: b) }) ∧
     (∀ n, s.sensorReading n = none → exec (.pldmSensorRead n) s = .next { s with mgmtReply := .error errSensorId }) ∧
     (∀ n, 1 ≤ n → n ≤ 64 →
       let v : Int := s.watch.fil (n - 1);
       let on : Int := s.options.throttleOn.toNat;
       ∃ k, exec (.pldmSensorRead n) s = .next { s with mgmtReply := .bytes (0 :: le 1 k ++ w16 (BitVec.ofInt 16 v)) } ∧
         (n ≤ 40 → (k = 10 ↔ 1760 ≤ v) ∧ (k = 8 ↔ on ≤ v ∧ v < 1760) ∧ (k = 1 ↔ v < on ∧ v < 1760)) ∧
         (41 ≤ n ∧ n ≤ 48 → (k = 10 ↔ 1680 ≤ v) ∧ (k = 1 ↔ v < 1680)) ∧
         (n = 49 → (k = 10 ↔ 800 ≤ v) ∧ (k = 8 ↔ 720 ≤ v ∧ v < 800) ∧ (k = 1 ↔ v < 720)) ∧
         (n = 51 → (k = 7 ↔ v < 384) ∧ (k = 5 ↔ 384 ≤ v ∧ v < 768) ∧ (k = 1 ↔ 768 ≤ v)) ∧
         (n = 50 ∨ 52 ≤ n → k = 1)) ∧
     exec .pollForPlatformEventMessage s = .next { s with mgmtReply := .bytes [0, 0, 0] }) ∧
  (∀ (s : State), s.aon.running = true → s.mgmtReady = true →
     (∀ off len, off ≤ 8255 → 1 ≤ len → len ≤ 48 →
       exec (.ledgerRead off len) s =
         .next { s with mgmtReply := vendorAnswer 1 stOk ((s.aon.ledgerBytes.drop off).take len) }) ∧
     (∀ n e, n ≤ 31 → s.aon.resetLog[n]? = some e →
       exec (.vendorResetLogRead n) s = .next { s with mgmtReply := vendorAnswer 2 stOk e.bytes }) ∧
     (let n := min 3 s.aon.watchUnread;
       let l := (s.aon.watchLog.drop (s.aon.watchLog.length - s.aon.watchUnread)).take n;
       ∃ t : State, exec .vendorWatchLogRead s =
         .next { s with
           aon := { s.aon with watchUnread := s.aon.watchUnread - n }
           power := t.power
           mgmtReply := vendorAnswer 3 stOk (le 1 n ++ (l.map WatchEntry.bytes).flatten) } ∧
         t.power.power = s.power.power ∧
         (s.fw.state = .running → s.resets.inReset = none → s.power.power ≠ .ps4 →
           t.power.alertN = if s.aon.watchUnread ≤ 3 then .hiZ else .low)) ∧
     exec .vendorLcStatus s = .next { s with mgmtReply := vendorAnswer 4 stOk s.lcStatusBytes } ∧
     (s.fuses.block ≠ [] → exec .optionRead s = .next { s with mgmtReply := vendorAnswer 5 stOk s.fuses.block }) ∧
     (∀ b, optionOk b = true → s.lcState ≠ 4 → s.lcState ≠ 0xFF → s.lc.openRec = none →
       ∃ f : Fuses, f.block = b ∧ f.currentSector = !s.fuses.currentSector ∧
         (s.fuses.currentSector = true → f = { s.fuses with sector0 := b, currentSector := false }) ∧
         (s.fuses.currentSector = false → f = { s.fuses with sector1 := b, currentSector := true }) ∧
         exec (.optionWrite b) s = .next { s with fuses := f, mgmtReply := vendorAnswer 6 stOk [] }))

/-! ### Dispatch -/

/-- R91 to R93, R83, R84, R356, R360: DESCRIPTOR_START of a live head starts it when every condition of R91 holds: it joins
those in progress with the context's next number, launched at once unless it is timed, and the head moves on but for END
and LINK; a session state that bars it stops the context; otherwise, and for an array operation while one of a lower
context could start, nothing happens. A head past the end of its list that no END, LINK or seal in progress still decides
stops the context with ST_REFUSED. That what a launch takes stands from then on is log entry 90, and that two heads which
may start at one command became ready together is log entry 91. -/
def Obligations.DescriptorsStart : Prop :=
  ∀ (s : State) (i c : Nat), i < 4 → c < 4 → ((s.session i).ctx c).live = true →
    let x := s.session i;
    let k := x.ctx c;
    (∀ d, x.descAt? k.slot.toNat k.index.toNat = some d →
      (x.startCheck c d ≠ stOk →
        ∃ t, exec (.descriptorStart i c) s = .next t ∧ t = s.setSession i (t.session i) ∧
          ((t.session i).ctx c).state = .stopped ∧ ((t.session i).ctx c).status = x.startCheck c d ∧
          (t.session i).ops = x.ops) ∧
      (let waits : Prop := opClass (dOpcode d) = 1 ∧ ∃ b < c, ∃ e, (x.ctx b).live = true ∧
          x.descAt? (x.ctx b).slot.toNat (x.ctx b).index.toNat = some e ∧ opClass (dOpcode e) = 1 ∧
          x.startCheck b e = stOk ∧ s.canStart i b e = true;
       (x.startCheck c d = stOk → s.canStart i c d = false ∨ waits → exec (.descriptorStart i c) s = .next s) ∧
       (x.startCheck c d = stOk → s.canStart i c d = true → ¬ waits →
        ∃ t o, exec (.descriptorStart i c) s = .next t ∧ o ∈ (t.session i).ops ∧ o.ctx = c ∧ o.seq = k.nextSeq ∧
          o.desc = d ∧ o.slot = k.slot.toNat ∧ o.index = k.index.toNat ∧ o.readyAt = s.time.now ∧
          o.stage = (if dTimed d then .started else .launched) ∧
          (dTimed d = false → o.launchedAt = s.time.now ∧ o.step = x.sealRec.step ∧ o.attempt = x.sealRec.attempt ∧
            o.copies = x.resolution ∧ o.scales = x.workScales d) ∧
          (t.session i).ops.length = x.ops.length + 1 ∧ ((t.session i).ctx c).nextSeq = k.nextSeq + 1 ∧
          ((t.session i).ctx c).index = (if dOpcode d = opEnd ∨ dOpcode d = opLink then k.index else k.index + 1) ∧
          (dOpcode d = opSeal → (t.session i).sealRec.sealing = true) ∧
          (∀ j < 4, j ≠ i → t.session j = s.session j) ∧ t.tallies = s.tallies ∧ t.channels = s.channels))) ∧
    (x.descAt? k.slot.toNat k.index.toNat = none → (∀ o ∈ x.ops, o.ctx = c → o.code ≠ opEnd ∧ o.code ≠ opLink) →
      x.sealHolds c [] = false →
      ∃ t, exec (.descriptorStart i c) s = .next t ∧ t = s.setSession i (t.session i) ∧
        ((t.session i).ctx c).state = .stopped ∧ ((t.session i).ctx c).status = stRefused)

/-- R83, R84, R94, R310: the launch comparator launches a timed descriptor at its postmark when it has been ready for 1 µs
and its piece, for an array operation, is free; one that is late fails there, or launches once the piece is free, as its
flag says, and one that would fail and has not started by its postmark stops its context. A launch that a throttle level
may hold is late as a free value says (log entry 77). A command-core poll satisfies the waits that hold of every context
it runs. -/
def Obligations.TimedLaunchesAndWaits : Prop :=
  (∀ (s : State) (o : OpRef) (p : Op), o.session < 4 → s.op? o = some p → p.stage = .started →
    (dLaunch p.desc).toNat ≤ s.time.now.toNat →
    let x := s.session o.session;
    let free : Prop := x.pieceFree p = true;
    let ready : Prop := x.readySince p + ns 1000 ≤ (dLaunch p.desc).toNat;
    let even : Prop := s.pieceThrottle x = 0 ∨ (opClass p.code ∉ [1, 2, 3] ∧ p.code ≠ opReckon);
    (free → even ∧ ready ∨ dLateFail p.desc = false →
      ∃ t q, exec (.launchComparatorFire o) s = .next t ∧ t.op? o = some q ∧ q.stage = .launched ∧ q.desc = p.desc ∧
        q.launchedAt = s.time.now ∧ q.step = x.sealRec.step ∧ q.attempt = x.sealRec.attempt ∧ q.copies = x.resolution ∧
        q.scales = x.workScales p.desc ∧
        (p.ctx < 4 →
          let late := ((t.session o.session).ctx p.ctx).lateCount;
          let was := (x.ctx p.ctx).lateCount;
          (even ∧ ready → late = was) ∧ (¬ ready → late = satAdd was 1) ∧ (late = was ∨ late = satAdd was 1)) ∧
        (∀ j < 4, j ≠ o.session → t.session j = s.session j) ∧ t.tallies = s.tallies) ∧
    (¬ free ∨ ¬ ready → dLateFail p.desc = true →
      ∃ n, exec (.launchComparatorFire o) s = .next (({ s with draws := n } : State).stopped o.session p stTimeout) ∧
        (even → n = s.draws)) ∧
    (¬ free → dLateFail p.desc = false →
      ∃ n, exec (.launchComparatorFire o) s = .next { s with draws := n } ∧ (even → n = s.draws))) ∧
  (∀ (s : State) (o : OpRef) (d : Bytes), o.session < 4 → o.ctx < 4 → s.op? o = none →
    let x := s.session o.session;
    let k := x.ctx o.ctx;
    k.live = true → o.seq = k.nextSeq → x.descAt? k.slot.toNat k.index.toNat = some d → dTimed d = true →
      dLateFail d = true → (dLaunch d).toNat ≤ s.time.now.toNat →
      (∀ q ∈ x.ops, q.ctx = o.ctx → q.code ≠ opEnd ∧ q.code ≠ opLink) →
      ∃ t, exec (.launchComparatorFire o) s = .next t ∧ t = s.setSession o.session (t.session o.session) ∧
        ((t.session o.session).ctx o.ctx).state = .stopped ∧ ((t.session o.session).ctx o.ctx).status = stTimeout ∧
        (t.session o.session).ops = x.ops) ∧
  (∀ (s : State) (core : Nat),
    ∃ t, exec (.commandCorePoll core) s = .next t ∧ t = { s with sessions := t.sessions } ∧
      ∀ i < 4,
        let x := s.session i;
        ((x.working = false ∨ x.top ≠ core) → t.session i = x) ∧
        (x.working = true → x.top = core → ∀ c < 4,
          let k := x.ctx c;
          (∀ d, x.descAt? k.slot.toNat k.index.toNat = some d → k.live = true → dWaitEn d = true →
            s.waitHolds x d = true → (t.session i).ctx c = { k with waitMet := true, state := .running }) ∧
          ((∀ d, x.descAt? k.slot.toNat k.index.toNat = some d →
            k.live = false ∨ dWaitEn d = false ∨ s.waitHolds x d = false) → (t.session i).ctx c = k)))

/-- R59, R95 to R97, R309 to R314, R591: NOP completes; END completes its list and leaves the context idle; LINK moves the head
to its target, or stops the context where there is none; tally descriptors add, set and arm, and an arm fires at its
postmark; the updates of one postmark fall on one CTRL clock (the model's reading, log entry 1), on which the adds of all
and the SET of the highest context hold, whatever their order; a finished descriptor completes with its status. A wait-at-least compares unsigned. -/
def Obligations.ListControlAndTallies : Prop :=
  ∀ (s : State) (o : OpRef) (p : Op),
    let i := o.session;
    let x := s.session i;
    let n := x.tallyBase + fieldAt p.desc 32 2;
    let v := u32 p.desc 36;
    (s.launched o opNop = some p → exec (.nop o) s = .next (s.ended i p stOk true)) ∧
    (s.launched o opEnd = some p →
      exec (.endList o) s =
        .next ((s.ended i p stOk true).onSession i fun y => y.onCtx p.ctx fun k =>
          if k.live then { k with state := .idle, waitMet := false } else k)) ∧
    (s.launched o opLink = some p →
      (∀ d, x.descAt? (fieldAt p.desc 32 2) (fieldAt p.desc 36 4) = some d → p.ctx < 4 → i < 4 →
        exec (.link o) s =
          .next ((s.ended i p stOk true).onSession i fun y => y.onCtx p.ctx fun k =>
            if k.live then
              { k with slot := BitVec.ofNat 8 (fieldAt p.desc 32 2), index := BitVec.ofNat 17 (fieldAt p.desc 36 4),
                       waitMet := false, state := if dWaitEn d then .waiting else .running }
            else k)) ∧
      (x.descAt? (fieldAt p.desc 32 2) (fieldAt p.desc 36 4) = none →
        exec (.link o) s = .next (s.stopped i p stRefused))) ∧
    (s.launched o opTallyAdd = some p →
      exec (.tallyAdd o) s = .next ((s.setTally n ((s.tally n).add s.time.now v)).ended i p stOk true)) ∧
    (s.launched o opTallySet = some p →
      exec (.tallySet o) s = .next ((s.setTally n ((s.tally n).set s.time.now p.ctx v)).ended i p stOk true)) ∧
    (s.launched o opTallyArm = some p →
      ((s.tally n).arm ≠ none → exec (.tallyArm o) s = .next (s.stopped i p stNoResource)) ∧
      ((s.tally n).arm = none → s.time.now.toNat ≤ fieldAt p.desc 40 8 →
        exec (.tallyArm o) s =
          .next ((s.setTally n { s.tally n with arm := some (u64 p.desc 40, v, i, p.ctx) }).ended i p stOk true)) ∧
      ((s.tally n).arm = none → fieldAt p.desc 40 8 < s.time.now.toNat →
        (dLateFail p.desc = true → exec (.tallyArm o) s = .next (s.stopped i p stTimeout)) ∧
        (dLateFail p.desc = false →
          exec (.tallyArm o) s =
            .next (((s.tallyAdd n v).onSession i fun y => y.onCtx p.ctx fun k =>
              { k with lateCount := satAdd k.lateCount 1 }).ended i p stOk true)))) ∧
    (∀ m t w j c, (s.tally m).arm = some (t, w, j, c) → t.toNat ≤ s.time.now.toNat →
      exec (.armFire m) s = .next ((s.setTally m { s.tally m with arm := none }).tallyAdd m w)) ∧
    (s.op? o = some p → p.stage = .finished → p.isArray = false → p.isCollective = false → p.code ≠ opSeal →
      exec (.descriptorComplete o) s = .next (s.ended i p p.status true)) ∧
    (∀ d, dWaitEq d = false →
      (s.waitHolds x d = true ↔
        (dWaitCount d).toNat ≤ ((s.tally (x.tallyBase + dWaitTally d)).seen s.time.now).toNat)) ∧
    (∀ (t : Tally) (now : W64) (c : Nat) (a b w : W32),
      (t.add now a).value = t.value + a ∧ (t.add now a).seen now = t.seen now ∧
      (t.clock ≠ now → (t.set now c w).value = w ∧ t.seen now = t.value) ∧
      ((t.set now c w).add now a).value = ((t.add now a).set now c w).value ∧
      (∀ e, t.clock ≠ now → c ≤ e →
        ((t.set now c a).set now e b).value = b ∧ (c ≠ e → ((t.set now e b).set now c a).value = b)))

/-! ### Array operations -/

/-- R53, R54, R77 to R82, R85, R92, R179, R187, R555: in its turn a MATMUL or MATMUL_ALT whose checks hold is taken by its
piece, which records its PARTY, loses a held tile that it does not continue, and binds the running streams that feed it;
one whose checks fail stops its context with ST_REFUSED. An ARRAY_SCRUB clears the piece and is finished. An array
operation whose tiles have all been issued, drained and written completes with its status, or with ST_REVOKED when its
owner has been struck, in issue order, and the streams that feed it complete with it. Work waits while ARR stands (log
entry 44), and what a strike leaves of an operation is log entry 96. -/
def Obligations.ArrayOperationsRun : Prop :=
  (∀ (s : State) (o : OpRef) (p : Op), o.session < 4 →
     let i := o.session;
     let x := s.session i;
     (∀ c cmd, (c = opMatmul ∧ cmd = Instr.matmul o) ∨ (c = opMatmulAlt ∧ cmd = Instr.matmulAlt o) →
       s.launched o c = some p → x.arrayTurn p = true → p.progress = 0 →
       (x.launchOk p = true →
         ∃ t, exec cmd s = .next t ∧
           t = { s with
             sessions := vset s.sessions i { x.bindStreams p with piece := (t.session i).piece }, perf := t.perf } ∧
           (t.session i).piece.party = some (aParty p.desc) ∧
           (t.session i).piece.opened = x.piece.opened ++ [(p.ctx, p.seq)] ∧
           (t.session i).piece.held = (if aContinue p.desc then x.piece.held else none) ∧
           (t.session i).piece.tiles = x.piece.tiles ∧
           (t.session i).piece.clock = x.piece.clock + (if x.piece.wake then 64 else 0)) ∧
       (x.launchOk p = false → exec cmd s = .next (s.stopped i p stRefused))) ∧
     (s.launched o opScrub = some p →
       (∀ q ∈ x.ops.takeWhile (fun q => !(q.ctx = p.ctx ∧ q.seq = p.seq)), q.isArray = false) →
       ∃ t, exec (.arrayScrub o) s = .next t ∧ t.Ends o p stOk ∧
         t = { s with perf := t.perf, sessions := vset s.sessions i ({ x with piece := { x.piece with
           party := none, held := none, tiles := [], rowBuffer := [], last := none, prev := none, lastHeld := false,
           wake := false, clock := x.piece.clock + 1088 } }.setOp { p with stage := .finished, status := stOk }) })) ∧
  (∀ (s : State) (o : OpRef) (p : Op), o.session < 4 → s.power.power = .ps0 → s.op? o = some p →
     p.isArray = true → (s.session o.session).arrayDone p = true →
     let x := s.session o.session;
     let st := x.arrayStatus p;
     let feeding := x.streamsOf p (some (p.ctx, p.seq));
     ∃ t, exec (.arrayOpComplete o) s = .next t ∧
       (∀ j < 4, j ≠ o.session → t.session j = s.session j) ∧
       (∀ q, q = p ∨ (p.code ≠ opScrub ∧ q ∈ feeding) → (t.session o.session).op? q.ctx q.seq = none) ∧
       (x.struck (aParty p.desc) = false ∨ p.code = opScrub → st = p.status) ∧
       (p.code = opScrub ∨ feeding = [] →
         t = { s.ended o.session p st true with sessions := t.sessions, perf := t.perf } ∧
         t.session o.session =
           { (s.ended o.session p st true).session o.session with piece := (t.session o.session).piece } ∧
         (t.session o.session).piece.held = x.piece.held))

/-- R41 to R54, R71, R72, R74, R187: TILE_ISSUE forms the next tile of the operation that the piece issues: each element the
dot product of its row of A and column of B from +0, or from the held tile that it continues, the operands of an
operation that no stream feeds being those the Sorting stores hold; a HOLD operation keeps the tile, any other puts it in
the free accumulator bank. TILE_DRAIN takes the oldest tile through its program, row by row, or into the row buffer until
its row tile is whole, and the operation keeps the status of that work. Neither touches another session. Both stand in
PS0, where ARR runs; on which dies a drain's columns count, and that a row buffer reads zero once its boards change PARTY,
is log entry 77. -/
def Obligations.TilesIssueAndDrain : Prop :=
  ∀ (s : State) (i a b : Nat), i < 4 → s.power.power = .ps0 →
    let x := s.session i;
    (∀ o comp n, x.piece.tiles.length < 2 → x.nextTile = some (o, comp, n) →
      let p := x.product o.desc comp;
      let rt := (p.tileAt x.height n).1;
      let ct := (p.tileAt x.height n).2;
      ∃ t tile as bs, exec (.tileIssue i a b) s = .next t ∧ s.OwnWork t i ∧ tile.ctx = o.ctx ∧ tile.seq = o.seq ∧
        tile.companion = comp ∧ tile.rowTile = rt ∧ tile.colTile = ct ∧
        (tile.rows, tile.cols) = p.extent x.height rt ct ∧
        tile.accs = tileAccs (if aContinue o.desc then x.piece.held else none) as bs ∧
        (o.status = stOk → p.aSrc ≠ 1 → as = s.storedA x p (rt * x.height) tile.rows) ∧
        (o.status = stOk → p.aSrc ≠ 1 → p.bSrc ≠ 1 → bs = s.storedB x p (ct * 1024) tile.cols) ∧
        (aHold o.desc = true → (t.session i).piece.held = some tile ∧ (t.session i).piece.tiles = x.piece.tiles) ∧
        (aHold o.desc = false → (t.session i).piece.tiles = x.piece.tiles ++ [tile] ∧
          (t.session i).piece.bank = (!x.piece.bank) ∧
          (t.session i).piece.held = if aContinue o.desc then none else x.piece.held) ∧
        ∃ q, (t.session i).op? o.ctx o.seq = some q ∧ q.progress = o.progress + 1 ∧ q.desc = o.desc ∧
          (o.status = stOk → p.aSrc ≠ 1 → p.bSrc ≠ 1 → x.struck (aParty o.desc) = false → q.status = stOk)) ∧
    (∀ tile rest o, x.piece.tiles = tile :: rest → x.op? tile.ctx tile.seq = some o →
      let p := x.product o.desc tile.companion;
      let passes := rowPasses (kProg (x.entry p.prog));
      let whole : Bool := tile.colTile + 1 = p.colTiles;
      let u := ((s.pieceEvent i x 0x003 a).pieceRuns i x 0x031 1024 (a + 1)).useBoards i (aParty o.desc);
      let r0 := tile.rowTile * x.height;
      let before := (u.session i).piece.rowBuffer;
      let buf := before ++ [tile];
      ∃ t, exec (.tileDrain i a) s = .next t ∧ s.OwnWork t i ∧ (t.session i).piece.tiles = rest ∧
        (t.session i).piece.held = x.piece.held ∧ (t.session i).piece.opened = x.piece.opened ∧
        ((∀ k ∈ x.dieList, (vget Die.reset s.dies k).cbParty = some (aParty o.desc)) → before = x.piece.rowBuffer) ∧
        let gives := fun (j : Job) (left : List Tile) =>
          t = { j.st with sessions := t.sessions } ∧ (t.session i).num = (j.st.session i).num ∧
            (t.session i).scales = (j.st.session i).scales ∧ (t.session i).piece.rowBuffer = left ∧
            (t.session i).op? o.ctx o.seq = some { o with status := j.status };
        (passes = 0 →
          gives ((u.arrayJob i o (aParty o.desc)).drainRows o p r0 (tile.colTile * 1024) tile.accs) before) ∧
        (passes ≠ 0 → whole = false → gives (u.arrayJob i o (aParty o.desc)) buf) ∧
        (passes ≠ 0 → whole = true →
          gives (((u.boardPasses i passes p.n tile.rows).arrayJob i o (aParty o.desc)).drainRows o p r0 0
            (joinTiles buf)) []))

/-! ### The other engines of a quarter -/

/-- R74, R106, R170 to R186, R195 to R206, R404: in its turn a PH_MOVE reads, converts and writes, and is finished with the
status of that work: between Sorting stores, its owner not struck, with ST_OK, each destination row holding the codes
that COPY or QUANTISE gives of the source rows. A PH_STREAM starts to run and can be taken by an array operation that
names it. A RUN_KERNEL takes its rows through its program and is finished with the status of that work. The units they
use record their PARTY, and the work touches nothing but its own session's state and memories. -/
def Obligations.PigeonholeAndKernelsRun : Prop :=
  ∀ (s : State) (o : OpRef) (p : Op), o.session < 4 →
    let i := o.session;
    let x := s.session i;
    let d := p.desc;
    let die := x.top + phDie d;
    (s.launched o opPhMove = some p → s.phTurn o die = true →
      let j := s.phMoveJob i p;
      ∃ t, exec (.phMove o) s = .next t ∧ s.OwnWork t i ∧ t.Ends o p j.status ∧
        t = (j.st.finishOp i p j.status).phDone o ∧
        (vget Die.reset t.dies die).phParty = some (phParty d) ∧ o ∉ (vget Die.reset t.dies die).phQueue ∧
        (x.struck (phParty d) = false → addrClass (fieldAt d 48 8) = 0 → addrClass (fieldAt d 64 8) = 0 →
          phSrcBlk d = false → phTopCopy d = false → x.phScaled d = false →
          let w := (Fmt.ofCode (phDstFmt d)).widthIn true;
          let ws := (Fmt.ofCode (phSrcFmt d)).widthIn true;
          let row := fun r => addrOff (fieldAt d 64 8) + r * fieldAt d 60 4;
          let src := (List.range (phRows d)).map fun r =>
            unpack ws (phCols d) (memLoad (vget Die.reset s.dies die).store
              (addrOff (fieldAt d 48 8) + r * fieldAt d 56 4) ((ws * phCols d + 7) / 8));
          let out := if phMode d = 0 then phCopy d src [] else x.phQuantise p src [];
          t.Ends o p stOk ∧
          ((∀ c ∈ out.codes, c ≠ [] ∧ w * c.length % 8 = 0 ∧ w * c.length / 8 ≤ fieldAt d 60 4) →
            ∀ k < out.codes.length,
              memLoad (vget Die.reset t.dies die).store (row k) (w * (out.codes.getD k []).length / 8) =
                pack w (out.codes.getD k [])))) ∧
    (s.launched o opPhStream = some p → s.phTurn o die = true →
      ∃ t, exec (.phStream o) s = .next t ∧ t = { s with dies := t.dies, sessions := t.sessions } ∧
        t.session i = x.setOp { p with progress := 1 } ∧ (∀ j < 4, j ≠ i → t.session j = s.session j) ∧
        (p.feeds = none → ∃ q, (t.session i).stream? die (phStreamNo d) (phStreamB d) none = some q) ∧
        (vget Die.reset t.dies die).phParty = some (phParty d) ∧
        (∀ d < 4, (vget Die.reset t.dies d).store = (vget Die.reset s.dies d).store)) ∧
    (s.launched o opKernel = some p →
      let j := s.kernelJob i p;
      ∃ t, exec (.runKernel o) s = .next t ∧ s.OwnWork t i ∧ t.Ends o p j.status ∧ t = j.st.finishOp i p j.status ∧
        ∀ k ∈ x.dieList, k < 4 → (vget Die.reset t.dies k).cbParty = some (dPartyHi d 43))

/-- R208 to R220, R232 to R237: a RECKON in its turn takes its parameters, gradients and states through the update, counts
its elements and those that are NaN, and marks pending each page that it writes, finished with the status of that work. A
DP_NOISE adds to its tensor the samples it draws, keeps them for replay, or takes again those kept, and is finished with
the status of that work; one whose samples have no room stops with ST_NO_RESOURCE, and one that has to draw with fewer
than sixteen lanes in service is refused and its reason gathered; a lane that fails leaves service until the next Cold
reset. Both stay within their session. Every noise sample that is drawn lies within ±√(48·ln 2), whatever the lanes
supply. The lanes' words and the last bits of a sample are free (log entry 12), UPD_ELEM counts every element (log entry
74), and the overflow of a norm that clips nothing is log entry 92. -/
def Obligations.ReckonerAndNoiseAct : Prop :=
  (∀ (s : State) (o : OpRef) (p : Op), o.session < 4 →
     let i := o.session;
     let x := s.session i;
     let d := p.desc;
     (s.launched o opReckon = some p → x.reckonTurn p = true →
       let j := s.reckonJob i p;
       let r := ({ s.job i p (rkParty d) with copies := x.resolution } : Job).rkRead d;
       ∃ t, exec (.reckon o) s = .next t ∧ s.OwnWork t i ∧ t.Ends o p j.status ∧ t = j.st.finishOp i p j.status ∧
         (t.session i).sealRec = x.sealRec ∧
         (r.1.live = true →
           let us := rkUpdate d r.2;
           let nans := (us.flatten.filter Upd.nan).length;
           (t.session i).upd.updElem = satAdd x.upd.updElem us.flatten.length ∧
           (t.session i).upd.updNan = satAdd x.upd.updNan nans ∧
           (t.session i).updNanInAttempt = (x.updNanInAttempt || decide (nans ≠ 0)) ∧
           ∀ k < x.paramSize / 4096, ∀ q ∈ (rkRanges x p us).1,
             q.1 < x.paramBase + 4096 * (k + 1) → x.paramBase + 4096 * k < q.1 + q.2.length →
               ((t.session i).pageRec k).pending = true ∧ ((t.session i).pageRec k).step = x.sealRec.step)) ∧
     (s.launched o opNoise = some p → x.struck (dpParty d) = false →
       (x.noiseEn = true → x.outputs.length < 1024) →
       let n := dpRows d * dpCols d;
       let runs := fun (u : State) (l : List W32) =>
         let j := u.noiseJob i p l;
         ∃ t, exec (.dpNoise o) s = .next t ∧ s.OwnWork t i ∧ t.Ends o p j.status ∧ t = j.st.finishOp i p j.status ∧
           (dpSigma d ≠ 0 → (t.session i).noiseRan = true);
       (dpSigma d = 0 → runs s []) ∧
       (∀ r, dpSigma d ≠ 0 → x.sealRec.attempt ≠ 0 → x.noiseRec? (dpParty d) (dTensor d) = some r → r.samples.length = n →
         runs s r.samples) ∧
       (x.mustDraw d = true → 16 ≤ s.laneCount → x.noiseUsed (dpParty d) + noiseBytes n ≤ x.cfgField 44 4 * 2 ^ 20 →
         runs ({ s with draws := s.draws + 2 * n }.setSession i { x with
             noise := x.noise ++ [(⟨dpParty d, x.sealRec.step, dTensor d, drawSamples s.draws n⟩ : NoiseRec)]
             upd := { x.upd with noiseElem := satAdd x.upd.noiseElem n } })
           (drawSamples s.draws n)) ∧
       (x.mustDraw d = true → 16 ≤ s.laneCount → x.cfgField 44 4 * 2 ^ 20 < x.noiseUsed (dpParty d) + noiseBytes n →
         exec (.dpNoise o) s = .next (s.stopped i p stNoResource))) ∧
     (s.launched o opNoise = some p → x.struck (dpParty p.desc) = false →
       (x.noiseEn = true → x.outputs.length < 1024) → x.mustDraw p.desc = true → s.laneCount < 16 →
       ∃ t, exec (.dpNoise o) s = .next t ∧ t.Ends o p stRefused ∧
         (t.session i).voteReasons = x.voteReasons ||| rsNoise ∧ t.draws = s.draws) ∧
     (∀ lane, exec (.noiseLaneFail lane) s = .next { s with lanes := s.lanes &&& ~~~ BitVec.ofNat 64 (2 ^ lane) })) ∧
  (∀ (k n : Nat), (drawSamples k n).length = n ∧
     ∀ x ∈ drawSamples k n, (x &&& 0x7FFFFFFF).toNat ≤ 0x40B89456)

/-! ### Collectives -/

/-- R264 to R269, R282 to R284: a collective launched and not yet run reads its source list and checks it: it is
finished with the status of that reading, with ST_REFUSED where a check fails, and with ST_REVOKED where its early data
were dropped as stale; otherwise its data leave for the members of its group, every collective launched takes what has
arrived for it, and it is finished or still in progress. A finished collective completes when none of its own flits
waits any longer; one in progress for its TIMEOUT stops its context with ST_TIMEOUT. -/
def Obligations.CollectivesRun : Prop :=
  ∀ (s : State) (o : OpRef) (p : Op) (f : List AddFault), o.session < 4 →
    let i := o.session;
    let x := s.session i;
    (∀ c cmd, (c = opExchange ∧ cmd = Instr.exchange o) ∨ (c = opExchangeV ∧ cmd = Instr.exchangeV o) ∨
        (c = opReduceScatter ∧ cmd = Instr.reduceScatter o f) ∨ (c = opAllGather ∧ cmd = Instr.allGather o) ∨
        (c = opAllReduce ∧ cmd = Instr.allReduce o f) →
      s.collAt o c = some p →
      let d := p.desc;
      let group := x.groupOf (clGroup d);
      let a := (s.job i p (clOutParty d)).sources d;
      let b := if c = opExchangeV then a.1.sizeTable d group.length else (a.1, []);
      let good := (b.1.st.session i).sourcesGood d group.length a.2.1 a.2.2 b.2;
      let p' : Op := { p with sources := a.2.1, sizes := b.2 };
      ∃ t q, exec cmd s = .next t ∧ t.op? o = some q ∧ q.desc = d ∧ q.slot = p.slot ∧ q.index = p.index ∧
        (q.stage = .launched ∨ q.stage = .finished) ∧ t.tallies = s.tallies ∧ t.slots = s.slots ∧
        t.mailboxes = s.mailboxes ∧ t.resets = s.resets ∧ t.lc = s.lc ∧
        (∀ j < 4, j ≠ i → t.session j = s.session j) ∧
        (b.1.status ≠ stOk → t = b.1.st.finishOp i p' b.1.status ∧ t.Ends o p' b.1.status) ∧
        (b.1.status = stOk → good = false → t = b.1.st.finishOp i p' stRefused ∧ t.Ends o p' stRefused) ∧
        (b.1.status = stOk → good = true → p.collKey ∈ x.lost →
          t = b.1.st.finishOp i p' stRevoked ∧ t.Ends o p' stRevoked) ∧
        (b.1.status = stOk → good = true → p.collKey ∉ x.lost →
          let j := b.1.postAll p' group (groupRank group x.rank);
          t = (j.st.closeJob i p' j).advanceColl i 0 (if c = opReduceScatter ∨ c = opAllReduce then f else []) ∧
          (j.status ≠ stOk → t.Ends o p' j.status) ∧
          (j.status = stOk → q.stage = .finished → q.status = stOk → q.outcome group.length = some stOk))) ∧
    (s.power.power = .ps0 ∨ s.power.power = .ps1 → s.op? o = some p → p.isCollective = true → p.stage = .finished → (p.status ≠ stOk ∨ s.flitsGone i p = true) →
      ∃ t, exec (.collectiveComplete o) s = .next t ∧
        t = { s.ended i p p.status true with sessions := t.sessions, ports := t.ports } ∧
        (∀ j < 4, j ≠ i → t.session j = s.session j) ∧
        (∀ k < 18, (s.port k).bound = false ∨ (s.port k).session.toNat ≠ i ∨ (s.port k).owed = 0 → t.port k = s.port k) ∧
        (∀ q ∈ (t.session i).ops, ¬ (q.ctx = p.ctx ∧ q.seq = p.seq)) ∧
        (p.status = stOk → (t.session i).coll.done = satAdd x.coll.done 1) ∧
        (p.status ≠ stOk → (t.session i).coll = x.coll)) ∧
    (s.op? o = some p → p.isCollective = true → p.stage ≠ .started →
      p.launchedAt.toNat + ns (10000 * fieldAt p.desc 94 2) ≤ s.time.now.toNat →
      exec (.collectiveTimeout o) s = .next (s.stopped i p stTimeout))

/-! ### The far tier, checkpoints and the sweep -/

/-- R365 to R375, R450, R451, R456, R457: in its turn a FAR_MOVE moves its pages, each in turn, while the host takes UIO
requests; a checkpoint goes out chunk by chunk, each sealed, or comes in, each opened and written, through an object
window of its session while the host can be reached, and is refused where no window holds it; each is finished with the
status of that work. A UIO error ends the move that runs, the far line, tag line or metadata item it met failing as an
uncorrectable one does; which of them it met is a free value (log entry 78). What has waited for its limit is stopped with ST_TIMEOUT, and an ingest is dropped. -/
def Obligations.FarMovesAndCheckpointsRun : Prop :=
  ∀ (s : State) (o : OpRef) (p : Op), o.session < 4 →
    let i := o.session;
    let x := s.session i;
    let d := p.desc;
    let chunks := List.range (ckChunks (ckLength d));
    let hostOk := s.windowOk true (some i) (ckHost d) (ckStride * ckChunks (ckLength d));
    (s.launched o opFarMove = some p → x.farTurn p = true → s.uioReady = true →
      let j := (s.job i p (fmParty d)).movePages d (fmPages d);
      ∃ t, exec (.farMove o) s = .next t ∧ s.OwnWork t i ∧ t.Ends o p j.status ∧ t = j.st.finishOp i p j.status) ∧
    (∀ st, st ≠ UioStatus.success → s.uioReady = true →
      x.ops.find? (fun q => q.code = opFarMove && q.stage ≠ .finished) = some p → p.stage = .launched →
      let n := Config.freeWord s.draws;
      let line := n.toNat % (64 * fmPages d);
      let j := (({ s with draws := s.draws + 1 } : State).job i p (fmParty d)).movePages d (line / 64);
      (j.live = true →
        let f := j.failPage d line (n.toNat / 2 ^ 48);
        exec (.uioCompletion i st) s = .next (f.st.finishOp i p f.status) ∧ f.status ≠ stOk) ∧
      (j.live = false → exec (.uioCompletion i st) s = .next (j.st.finishOp i p j.status))) ∧
    (s.launched o opFarMove = some p → s.overdue p (fieldAt d 44 2) = true →
      exec (.farMoveTimeout o) s = .next (s.stopped i p stTimeout)) ∧
    (s.launched o opExport = some p →
      (hostOk = true → s.cacheReady = true →
        let id := (p.sizes.getD 0 []).getD 0 0;
        let salt := (p.sizes.getD 1 []).map (BitVec.ofNat 8);
        let j := chunks.foldl (fun j k => j.exportChunk p id salt k) (s.job i p (ckParty d));
        ∃ t m, exec (.ckptExport o) s = .next t ∧ t.Ends o p j.status ∧ t = j.st.finishOp i p j.status ∧
          s.OwnWork { t with host := { t.host with memory := s.host.memory } } i ∧ t.host.memory = m ∧
          ∀ a, (a < ckHost d ∨ ckHost d + ckStride * ckChunks (ckLength d) ≤ a) →
            Table.get 0 m a = Table.get 0 s.host.memory a) ∧
      (hostOk = false →
        exec (.ckptExport o) s = .next (s.setSession i (x.setOp { p with stage := .finished, status := stRefused })))) ∧
    (s.launched o opImport = some p →
      (hostOk = true → s.cacheReady = true →
        let j := chunks.foldl (fun j k => j.importChunk p (s.hostLoad (ckHost d + 64) 32) k) (s.job i p (ckParty d));
        ∃ t, exec (.ckptImport o) s = .next t ∧ s.OwnWork t i ∧ t.Ends o p j.status ∧ t = j.st.finishOp i p j.status ∧
          t.host.memory = s.host.memory) ∧
      (hostOk = false →
        exec (.ckptImport o) s = .next (s.setSession i (x.setOp { p with stage := .finished, status := stRefused })))) ∧
    (∀ g, x.ingests.find? (fun q => q.id = g.id) = some g →
      g.acceptedAt.toNat + ns (10000 * g.timeout) ≤ s.time.now.toNat →
      ∃ t, exec (.objectTimeout i (2 * g.id)) s = .next t ∧ t = s.setSession i (t.session i) ∧
        (t.session i).ingests = x.ingests.filter (fun q => q.id ≠ g.id) ∧
        ∀ e ∈ (t.session i).pend, e.command = 0x0105 → e.key = le 8 g.id → e.status ≠ stPending) ∧
    (o.ctx < 4 → s.op? o = some p → p.stage = .launched → p.code = opExport ∨ p.code = opImport →
      s.overdue p (fieldAt d 44 2) = true →
      exec (.objectTimeout i (2 * (4 * o.seq + o.ctx) + 1)) s = .next (s.stopped i p stTimeout))

/-- R354, R355: a sweep step takes the counter group at the channel's pointer and stores it anew. The pointer moves on,
past the groups that writes have taken before it, and at the last group of the last channel the session's sweep ends.
When nodes and groups swept ahead are renewed is log entry 75. -/
def Obligations.SweepStepsOn : Prop :=
  ∀ (s : State) (c i g : Nat), c < 68 →
    let sp : Space := if c < 64 then .hbm c else .far (c - 64);
    s.power.power = .ps0 ∨ s.power.power = .ps1 → s.holderOf sp = some i → i < 4 → (s.chan sp).sweep = some g →
    ∃ t e, exec (.sweepStep c) s = .next t ∧ s.OwnWork t i ∧
      t = (s.sweepGroup i sp g (·.sweptTo (g + 1))).endSweep i sp ∧
      ((s.chan sp).sweptTo (g + 1)).sweep = some e ∧ g < e ∧
      (∀ k, g < k → k < e → k ∈ (s.chan sp).ahead) ∧
      (t.chan sp).sweep = (if s.groupsOf sp ≤ e then none else some e) ∧
      ((∀ q ∈ s.spaces i, (t.chan q).sweep = none) → (t.session i).mem.sweeping = false)

/-! ### Krelas -/

/-- R248 to R255, R284, R305: in its slot a running port that holds a link key puts one flit on the lanes, sealed under its
slot counter, which moves on: a retransmission, else with fewer than 2,048 flits unacknowledged a control flit or a data
flit for which it holds a credit, else IDLE; what it held of an earlier generation has left its queues. A port whose
counter runs out goes DOWN, and one without a link key sends nothing (with the queues that lose an earlier generation, log
entry 94; the turns of its streams are log entry 67). A TIMESTAMP leaves a running port each 4,096 ns. -/
def Obligations.FlitsLeave : Prop :=
  (∀ (s : State) (p : Nat) (n : BitVec 12) (f : OutFlit), p < 18 → (s.port p).bound = true →
    let i := (s.port p).session.toNat;
    let r := (s.port p).purge (s.linkGen i);
    let q := r.stampReset s.time.now;
    (r.runs = false ∨ s.linkStruck i = true → exec (.flitSlot p) s = .next (s.setPort p r)) ∧
    (r.runs = true → s.linkStruck i = false → q.txSlot = BitVec.allOnes 64 →
      exec (.flitSlot p) s = .next (s.setPort p (q.down 3))) ∧
    (r.runs = true → s.linkStruck i = false → q.txSlot ≠ BitVec.allOnes 64 →
      (q.nextSlot = .again n f ∨
        (n = q.txSeq ∧ (q.nextSlot = .control f ∨ q.nextSlot = .data f ∨ (q.nextSlot = .idle ∧ f = idleFlit)))) →
      ∃ t, exec (.flitSlot p) s = .next t ∧
        t = { s with ports := t.ports, perf := t.perf, sessions := t.sessions, draws := t.draws } ∧
        t.port p = { q.afterSlot q.nextSlot with
          wire := sealFlit (s.portKey p "KRELAS-FLIT" true) q.txSlot f (s.linkGen i) n.toNat } ∧
        (t.port p).txSlot = q.txSlot + 1 ∧
        (q.txSlot + 1 = BitVec.allOnes 64 → (t.port p).state = .down ∧ (t.port p).downReason = 3) ∧
        (∀ k < 18, k ≠ p → t.port k = s.port k) ∧
        ∀ j < 4, t.session j = { s.session j with ring := (t.session j).ring })) ∧
  (∀ (q : Port) (f : OutFlit) (g : Nat),
    (∀ n rest, q.resend = (n, f) :: rest → q.nextSlot = .again n f) ∧
    (q.resend = [] → 2048 ≤ q.window.length → q.nextSlot = .idle) ∧
    (q.resend = [] → q.window.length < 2048 → ∀ rest, q.control = f :: rest → q.ctlCredits ≠ 0 → q.nextSlot = .control f) ∧
    (q.nextSlot = .control f → q.ctlCredits ≠ 0 ∧ f ∈ q.control ∧
      (q.afterSlot (.control f)).window = q.window ++ [(q.txSeq, f)] ∧
      (q.afterSlot (.control f)).txSeq = q.txSeq + 1 ∧ (q.afterSlot (.control f)).ctlCredits = q.ctlCredits - 1) ∧
    (q.nextSlot = .data f → q.dataCredits ≠ 0 ∧ f ∈ q.data ∧ (q.control = [] ∨ q.ctlCredits = 0) ∧
      (q.afterSlot (.data f)).window = q.window ++ [(q.txSeq, f)] ∧ (q.afterSlot (.data f)).txSeq = q.txSeq + 1 ∧
      (q.afterSlot (.data f)).dataCredits = q.dataCredits - 1 ∧ (q.afterSlot (.data f)).dataTx = satAdd q.dataTx 1) ∧
    (∀ n, q.nextSlot = .again n f →
      (q.afterSlot (.again n f)).window = q.window ++ [(n, f)] ∧ (q.afterSlot (.again n f)).retry = satAdd q.retry 1) ∧
    (q.nextSlot = .idle → q.resend = [] ∧
      (2048 ≤ q.window.length ∨ ((q.control = [] ∨ q.ctlCredits = 0) ∧ (q.data = [] ∨ q.dataCredits = 0)))) ∧
    ((f ∈ (q.purge g).data ↔ f ∈ q.data ∧ f.gen = g) ∧ (f ∈ (q.purge g).control ↔ f ∈ q.control ∧ f.gen = g)) ∧
    ∀ n, ((n, f) ∈ (q.purge g).unacked ↔ (n, f) ∈ q.unacked ∧ f.gen = g)) ∧
  (∀ (s : State) (p : Nat), p < 18 → (s.port p).runs = true →
    let q := s.port p;
    (q.lastSentStamp = 0 ∨ q.lastSentStamp.toNat + ns 4096 ≤ s.time.now.toNat) →
    exec (.timestampTick p) s =
      .next (s.setPort p { Port.limit { q with
        txCtl := q.txCtl + 1
        sentBlocks :=
          ctlBlock (s.portKey p "KRELAS-CTRL" true) q.txCtl 4 (w64 s.time.now ++ le 4 (s.residence q)) :: q.sentBlocks }
        with lastSentStamp := s.time.now }))

/-- R224, R247, R250, R252, R254, R255, R258, R280, R284, R288, R289, R526: a received flit takes a slot. One whose tag fails
counts and makes the port ask again, or at the eighth failure of an epoch takes it DOWN; where what it fed had left
before the verdict, it taints its chunk and the member votes LINK_TAG. IDLE and a flit ahead of its place are dropped,
and one delivered before is acknowledged again; a DATA flit in order is acknowledged and, by its generation and
destination, dropped as stale, landed, or queued on the routed port or dropped, at once or, in PS1, in PS0, to which it
wakes (its order and counting then are log entry 45); a port asked to go idle takes none (log entry 32). A RESET flit with TARGET 0 asserts source
12 over the port. A codeword that is not correctable counts its slot and asks again. The codewords corrected before a
slot are a free number and every failure in order asks again (log entry 94), credits return as log entry 67 says, and which
flits have left before their verdict is log entry 68. -/
def Obligations.FlitsArrive : Prop :=
  ∀ (s : State) (p : Nat) (b : Bytes) (n : List AddFault),
    p < 18 → (s.port p).bound = true → (s.port p).runs = true →
    let q := s.port p;
    let i := q.session.toNat;
    let x := s.session i;
    let u := { s with draws := s.draws + 1 };
    let v := Port.limit { q with
      rxSlot := q.rxSlot + 1, fecCorrected := satAdd q.fecCorrected (Config.correctedCodewords s.draws) };
    let got := openFlit (s.portKey p "KRELAS-FLIT" false) q.rxSlot b;
    let raw := s.rawFlit p b;
    let tx := s.portKey p "KRELAS-CTRL" true;
    let sends := fun (w : Port) (type : Nat) (body : Bytes) => Port.limit { w with
      txCtl := q.txCtl + 1, sentBlocks := ctlBlock tx q.txCtl type body :: q.sentBlocks };
    ((bitsAt b 0 1 3 0 < 2 ∨ 5 < bitsAt b 0 1 3 0) →
      (s.linkStruck i = true →
        (bitsAt b 0 1 3 0 ≠ 1 ∨ raw.gen = s.linkGen i → exec (.dataFlit p b n) s = .next (u.setPort p v)) ∧
        (bitsAt b 0 1 3 0 = 1 → raw.gen ≠ s.linkGen i →
          ∃ t, exec (.dataFlit p b n) s = .next t ∧ t = (u.setPort p v).setSession i (t.session i) ∧
            (t.session i).coll = { x.coll with staleDrop := satAdd x.coll.staleDrop 1 } ∧
            (t.session i).landing = x.landing)) ∧
      (s.linkStruck i = false → v.runs = true →
        (got = none → s.consumed p raw = false →
          let w := { v with tagFail := satAdd q.tagFail 1, epochTagFail := satAdd q.epochTagFail 1 };
          exec (.dataFlit p b n) s =
            .next ((u.setPort p
                (if 8 ≤ (satAdd q.epochTagFail 1).toNat then w.down 3
                 else sends { w with discarding := true } 2 (le 2 q.rxSeq.toNat))).setSession i
              { x with coll := { x.coll with
                  retried := if (s.feeds p raw).isSome then satAdd x.coll.retried 1 else x.coll.retried } })) ∧
        (got = none → s.consumed p raw = true → s.blockHeld (.port p) = false →
          ∃ t, exec (.dataFlit p b n) s = .next t ∧
            (t.port p).tagFail = satAdd q.tagFail 1 ∧ (t.port p).rxSeq = q.rxSeq + 1 ∧
            (t.session i).coll.tagTaint = satAdd x.coll.tagTaint 1 ∧
            (t.session i).voteReasons &&& rsLinkTag = rsLinkTag) ∧
        (∀ f, got = some f → s.blockHeld (.port p) = true ∨ f.flit.type = 0 ∨ (f.seq ≠ q.rxSeq ∧ 2048 < (q.rxSeq - f.seq).toNat) →
          exec (.dataFlit p b n) s = .next (u.setPort p v)) ∧
        (∀ f, got = some f → s.blockHeld (.port p) = false → f.flit.type ≠ 0 → f.seq ≠ q.rxSeq →
            (q.rxSeq - f.seq).toNat ≤ 2048 →
          exec (.dataFlit p b n) s = .next (u.setPort p (sends v 1 (le 2 (q.rxSeq - 1).toNat)))) ∧
        (∀ f, got = some f → s.blockHeld (.port p) = false → s.power.power = .ps1 → f.flit.type = 1 → f.seq = q.rxSeq →
          ∃ t, exec (.dataFlit p b n) s = .next t ∧
            (t.port p).rxSeq = q.rxSeq + 1 ∧ (t.port p).arrived = q.arrived ++ [⟨f.flit, f.gen, false, n⟩] ∧
            t.power.waking = true ∧ t.sessions = s.sessions ∧ (∀ k < 18, k ≠ p → t.port k = s.port k)) ∧
        (∀ f, got = some f → s.blockHeld (.port p) = false → s.power.power ≠ .ps1 → f.flit.type = 1 → f.seq = q.rxSeq →
          q.txCtl + 1 ≠ BitVec.allOnes 64 →
          ∃ t, exec (.dataFlit p b n) s = .next t ∧
            (t.port p).rxSlot = q.rxSlot + 1 ∧ (t.port p).rxSeq = q.rxSeq + 1 ∧ (t.port p).discarding = false ∧
            (t.port p).dataRx = satAdd q.dataRx 1 ∧ ctlBlock tx q.txCtl 1 (le 2 f.seq.toNat) ∈ (t.port p).sentBlocks ∧
            t.tallies = s.tallies ∧ t.mailboxes = s.mailboxes ∧ t.slots = s.slots ∧ t.lc = s.lc ∧ t.resets = s.resets ∧
            (∀ j < 4, j ≠ i → t.session j = s.session j) ∧
            (f.gen ≠ s.linkGen i →
              (t.session i).coll = { x.coll with staleDrop := satAdd x.coll.staleDrop 1 } ∧
              (t.session i).landing = x.landing ∧
              (f.flit.dst = x.rank → ∀ h, x.chunkOf f.flit = some h →
                (hdrColl h, hdrStep h, hdrAttempt h) ∈ (t.session i).lost)) ∧
            (f.gen = s.linkGen i → f.flit.dst = x.rank → f.flit.first = true → f.flit.last = true →
              (t.session i).coll.chunksRx = satAdd x.coll.chunksRx 1) ∧
            (f.gen = s.linkGen i → f.flit.dst ≠ x.rank →
              (t.session i).landing = x.landing ∧
              (∀ k, s.route x f.flit.dst = some k →
                (t.port k).data = (s.port k).data ++ [{ f.flit with gen := s.linkGen i }]) ∧
              (s.route x f.flit.dst = none → (t.session i).coll.routeDrop = satAdd x.coll.routeDrop 1))))) ∧
    (bitsAt b 0 1 3 0 = 5 → s.linkStruck i = false → v.runs = true → s.blockHeld (.port p) = false →
      ∀ f, got = some f → f.flit.type = 5 → f.seq = q.rxSeq → f.flit.dst = x.rank →
      (u8 f.flit.payload 0 ≠ 0 →
        ∃ t, exec (.resetFlit p b) s = .next t ∧ t = u.setPort p (t.port p) ∧ (t.port p).rxSeq = q.rxSeq + 1) ∧
      (u8 f.flit.payload 0 = 0 → s.resets.inReset = none →
        ∃ t, exec (.resetFlit p b) s = .next t ∧ t.asserted 12 = true ∧
          (s.sourceReach 12 = 1 →
            t = { u with
              ports := t.ports
              resets := { s.resets with
                holds := t.resets.holds, since := t.resets.since,
                blocks := s.resets.blocks ++ [⟨.port p, s.time.now, false, false⟩] } } ∧
            (⟨12, .block, .block (.port p), true⟩ : Hold) ∈ t.resets.holds) ∧
          (s.sourceReach 12 = 2 → s.UnderReset t .warm) ∧
          (3 ≤ s.sourceReach 12 → s.UnderReset t (Reach.ofCode (s.sourceReach 12))))) ∧
    (let w := { v with fecUncorrectable := satAdd q.fecUncorrectable 1 };
      exec (.uncorrectableCodeword p) s =
        .next (u.setPort p (if v.runs then sends { w with discarding := true } 2 (le 2 q.rxSeq.toNat) else w)))

/-- R247, R250, R253 to R256, R305: control blocks. One whose tag verifies has its effect: HELLO brings a KEYING port UP, or
DEGRADED on half its lanes, and the first since training grants its buffers; ACK takes the flits up to its SEQ from those
not acknowledged and NAK those before its SEQ, whose others are sent again; either completes each LINK_RESET whose flit it
covers and takes that port DOWN; CREDIT adds credits; TIMESTAMP is kept with its arrival. A block whose tag fails counts,
and at the eighth failure of an epoch the port goes DOWN, as it does when its counter runs out. That a new key keeps the
credits is log entry 94. -/
def Obligations.ControlBlocksAct : Prop :=
  ∀ (s : State) (p : Nat) (b : Bytes), p < 18 → (s.port p).bound = true →
    let q := s.port p;
    let v := Port.limit { q with rxCtl := q.rxCtl + 1 };
    let bad : Prop :=
      slice b 16 16 ≠ Crypto.gcmTag (s.portKey p "KRELAS-CTRL" false) (le 1 2 ++ zeros 3 ++ w64 q.rxCtl) (slice b 0 16) [];
    let good := fun (type : Nat) => ¬ bad ∧ (u8 b 0).toNat = type ∧ zeroRange b 1 3 = true;
    let c := slice b 4 12;
    let seq := BitVec.ofNat 12 (fieldAt c 0 2);
    let rank := (s.session q.session.toNat).rank;
    let settles := fun (e : Instr) (w : Port) (n : Nat) =>
      (n = 0 → exec e s = .next (s.setPort p w)) ∧
      (n ≠ 0 →
        ∃ t, exec e s = .next t ∧
          t = { s.setPort p { w.down 2 with resetMbs := q.resetMbs.drop n } with
            mailboxes := t.mailboxes, power := { s.power with idleSince := t.power.idleSince } } ∧
          (∀ k < 64, k ∉ q.resetMbs.take n → t.mailbox k = s.mailbox k) ∧
          ∀ mb ∈ q.resetMbs.take n, mb < 64 → (s.mailbox mb).state = .serving → (t.mailbox mb).state = .done);
    (q.runs = true → bad → ∀ e, e = Instr.ack p b ∨ e = Instr.nak p b ∨ e = Instr.credit p b ∨ e = Instr.timestamp p b →
      exec e s = .next (s.setPort p v.tagFailed)) ∧
    (q.state = .keying → bad → exec (.hello p b) s = .next (s.setPort p v.tagFailed)) ∧
    (q.state = .keying → good 0 →
      (v.state = .keying → fieldAt c 0 2 = q.peerRank.toNat → (u8 c 2).toNat = q.peerPort.toNat →
        let w := { v with state := if q.lanes = 0xFF then .up else .degraded, downReason := 0, granted := true };
        exec (.hello p b) s =
          .next (s.setPort p (if q.granted then w
            else Port.limit { w with
              txCtl := q.txCtl + 1
              sentBlocks :=
                ctlBlock (s.portKey p "KRELAS-CTRL" true) q.txCtl 3 (le 2 1024 ++ le 2 64) :: q.sentBlocks }))) ∧
      (fieldAt c 0 2 ≠ q.peerRank.toNat ∨ (u8 c 2).toNat ≠ q.peerPort.toNat →
        exec (.hello p b) s = .next (s.setPort p v))) ∧
    (q.runs = true → good 1 →
      (q.winPos seq = none → exec (.ack p b) s = .next (s.setPort p v)) ∧
      (∀ k, q.winPos seq = some k →
        (v.release (k + 1)).unacked = q.unacked.drop (k + 1) ∧
        settles (.ack p b) (v.release (k + 1)) (q.resetsIn rank (k + 1)))) ∧
    (q.runs = true → good 2 →
      (q.winPos seq = none → exec (.nak p b) s = .next (s.setPort p v)) ∧
      (∀ k, q.winPos seq = some k →
        settles (.nak p b) { v with window := [], resend := q.unacked.drop k } (q.resetsIn rank k))) ∧
    (q.runs = true → good 3 →
      exec (.credit p b) s =
        .next (s.setPort p { v with
          dataCredits := q.dataCredits + u16 c 0, ctlCredits := q.ctlCredits + u16 c 2 })) ∧
    (q.runs = true → good 4 →
      ∃ t, exec (.timestamp p b) s = .next t ∧ t = { s with ports := t.ports, time := t.time, draws := t.draws } ∧
        t.port p = { v with
          lastStamp := some (u64 c 0, s.time.now)
          stampDelays := (t.port p).stampDelays } ∧
        ((s.session q.session.toNat).consign = none → t.time = s.time ∧ t.draws = s.draws))

/-- R243, R244, R246, R255, R256: training starts a port afresh. A port whose cable is longer than 100 ns of delay goes
DOWN after it, as does one with a failed lane in each half; else in a consignment it enters KEYING, its peer locked, with
the keys of the session's epoch, its counters at zero, and HELLO its first block. A KEYING port without a valid HELLO for
1 ms, and a running port whose peer is lost, go DOWN with reason PEER; a lane that fails after training leaves the half
that holds no failed lane, or takes the port DOWN with reason LANES. What a new training leaves of sequence numbers, credits
and queues, and that an untrained lane is a failed one, is log entry 94; that a trained port waits for CONSIGN_CONFIG in
TRAINING is log entry 56. -/
def Obligations.PortsChangeState : Prop :=
  ∀ (s : State) (p lane : Nat) (delay : BitVec 16) (lanes : BitVec 8), p < 18 →
    let q := s.port p;
    let x := s.session q.session.toNat;
    let halves := fun (f : BitVec 8) =>
      if f = 0 then some (0xFF : BitVec 8) else if f &&& 0x0F = 0 then some 0x0F else if f &&& 0xF0 = 0 then some 0xF0 else none;
    (q.state = .training → s.blockHeld (.port p) = false →
      let w := { q.afresh with cableDelay := delay, failedLanes := ~~~lanes };
      (1600 < delay.toNat → exec (.portTrainingDone p delay lanes) s = .next (s.setPort p (w.down 1))) ∧
      (delay.toNat ≤ 1600 → halves (~~~lanes) = none →
        exec (.portTrainingDone p delay lanes) s = .next (s.setPort p (w.down 4))) ∧
      (∀ l, delay.toNat ≤ 1600 → halves (~~~lanes) = some l →
        (x.consign = none →
          exec (.portTrainingDone p delay lanes) s = .next (s.setPort p { w with lanes := l })) ∧
        (x.consign ≠ none →
          let v := { w with
            lanes := l, state := .keying, peerLocked := true, keyEpoch := x.epoch, txSlot := 0, rxSlot := 0, txCtl := 0,
            rxCtl := 0, keyingSince := s.time.now, discarding := false };
          exec (.portTrainingDone p delay lanes) s =
            .next (s.setPort p { v with
              txCtl := 1
              sentBlocks :=
                ctlBlock ((s.setPort p v).portKey p "KRELAS-CTRL" true) 0 0 (le 2 x.rank ++ le 1 p) :: q.sentBlocks })))) ∧
    (q.afresh.txSeq = 0 ∧ q.afresh.rxSeq = 0 ∧ q.afresh.unacked = [] ∧ q.afresh.dataCredits = 0 ∧
      q.afresh.ctlCredits = 0 ∧ q.afresh.owed = 0 ∧ q.afresh.granted = false) ∧
    (q.state = .keying → q.keyingSince.toNat + ns 1000000 ≤ s.time.now.toNat →
      exec (.helloTimeout p) s = .next (s.setPort p (q.down 2))) ∧
    (q.runs = true → exec (.peerLoss p) s = .next (s.setPort p (q.down 2))) ∧
    (q.runs = true ∨ q.state = .keying ∨ (q.state = .training ∧ q.lanes ≠ 0) →
      let f := q.failedLanes ||| BitVec.ofNat 8 (2 ^ lane);
      (f &&& 0x0F ≠ 0 → f &&& 0xF0 ≠ 0 →
        exec (.laneFailure p lane) s = .next (s.setPort p ({ q with failedLanes := f }.down 4))) ∧
      (∀ half, halves f = some half →
        exec (.laneFailure p lane) s =
          .next (s.setPort p { q with
            failedLanes := f, state := if q.runs then .degraded else q.state, lanes := half, window := []
            resend := q.window ++ q.resend })))

/-! ### The postal ring and time -/

/-- R296 to R298, R301, R302, R305: a ring master sends its postmark both ways, 4,096 ns after the last; MEASURE leaves toward a neighbour when 131,072 ns
have passed since the last; a MEASURE whose tag verifies is answered toward the neighbour it came from, and the reply to
the outstanding MEASURE gives a delay, the newest of five kept; other frames do nothing here. -/
def Obligations.RingIsMeasured : Prop :=
  ∀ (s : State) (i : Nat) (cw : Bool) (m : Bytes), s.ringSession = some i → i < 4 → s.ringUp = true →
    let n := (s.session i).frameSeq;
    let now := s.time.now.toNat;
    let frame := fun (dir : Bool) (type : Nat) (body : Bytes) (k : W64) =>
      ringFrame (s.ringKey i) (s.session i).rank dir type body k;
    let own := fun (t : State) => t = { s with time := t.time, perf := t.perf, sessions := t.sessions, draws := t.draws } ∧
      ∀ j < 4, t.session j = { s.session j with ring := (t.session j).ring, frameSeq := (t.session j).frameSeq } ∧
        (j ≠ i → (t.session j).frameSeq = (s.session j).frameSeq);
    let due := fun (r : RingSide) => ∀ a, r.sentAt = some a → a.toNat + ns 131072 ≤ now;
    let lapsed : Prop := ∀ a, s.time.timeSent = some a → a.toNat + ns 4096 ≤ now;
    (s.time.ringMaster = false ∨ ¬ lapsed → exec .timeFrameTick s = .next s) ∧
    (s.time.ringMaster = true → lapsed →
      ∃ t, exec .timeFrameTick s = .next t ∧ own t ∧ (t.session i).frameSeq = n + 2 ∧
        t.time = { s.time with
          timeSent := some s.time.now
          cw := { s.time.cw with sent := frame true 1 (w64 s.time.now) n :: s.time.cw.sent }
          ccw := { s.time.ccw with sent := frame false 1 (w64 s.time.now) (n + 1) :: s.time.ccw.sent } }) ∧
    (∃ t, exec .measureTick s = .next t ∧ own t ∧
      (due s.time.cw → t.time.cw = { s.time.cw with
        measSeq := s.time.cw.measSeq + 1, sentAt := some (BitVec.ofNat 64 (stamp now)),
        sent := frame true 2 (w32 s.time.cw.measSeq) n :: s.time.cw.sent }) ∧
      (¬ due s.time.cw → t.time.cw = s.time.cw) ∧
      (due s.time.ccw → ∃ k, t.time.ccw = { s.time.ccw with
        measSeq := s.time.ccw.measSeq + 1, sentAt := some (BitVec.ofNat 64 (stamp now)),
        sent := frame false 2 (w32 s.time.ccw.measSeq) k :: s.time.ccw.sent } ∧ (t.session i).frameSeq = k + 1) ∧
      (¬ due s.time.ccw → t.time.ccw = s.time.ccw)) ∧
    (∀ src hops b, s.openFrame i 2 m = some (src, hops, b) →
      ∃ t, exec (.measure cw m) s = .next t ∧ own t ∧ (t.session i).frameSeq = n + 1 ∧
        (t.side (!cw)).sent =
          frame (!cw) 3 (slice b 0 4 ++ zeros 4 ++ le 8 (stamp now) ++ le 8 (stamp now)) n :: (s.side (!cw)).sent ∧
        t.side cw = s.side cw) ∧
    (s.openFrame i 2 m = none → exec (.measure cw m) s = .next s) ∧
    (∀ src hops b t1, s.openFrame i 3 m = some (src, hops, b) → (s.side (!cw)).sentAt = some t1 →
      let d : Int := (((stamp now : Nat) : Int) - t1.toNat - ((fieldAt b 16 8 : Nat) - (fieldAt b 8 8 : Nat) : Int)) / 2;
      (u32 b 0 + 1 = (s.side (!cw)).measSeq →
        exec (.measureReply cw m) s = .next (s.onSide (!cw) fun r => { r with delays := (d :: r.delays).take 5 })) ∧
      (u32 b 0 + 1 ≠ (s.side (!cw)).measSeq → exec (.measureReply cw m) s = .next s)) ∧
    (s.openFrame i 3 m = none → exec (.measureReply cw m) s = .next s)

/-- R292, R293, R302, R306: a member other than the grandmaster and the masters takes the time of a TIME frame that verifies
from the side it takes time from: its offset is the difference to the parent's postmark plus the delay; while ACQUIRING
with no epoch open and its time behind the parent's it steps, and never back; otherwise its rate, within ±200 ppm, is
corrected (its value is free, log 71) and its time keeps; sixteen intervals in a row within 2 ns lock it, and a locked one
that is out by more than 8 ns enters HOLDOVER. It sends its own TIME on both ways. A frame that fails, or that comes from
the other side, does nothing. The side is the one with fewer active hops to the ring master, clockwise where they are
equal, and the other while that one cannot be used. -/
def Obligations.TimeIsTaken : Prop :=
  ∀ (s : State) (i : Nat) (cw : Bool) (m : Bytes), s.ringSession = some i → i < 4 → s.ringUp = true →
    s.time.grandmaster = false → s.time.ringMaster = false →
    let now := s.time.now.toNat;
    (s.openFrame i 1 m = none ∨ s.timeSide i ≠ some (!cw) → exec (.timeFrame cw m) s = .next s) ∧
    (∀ src hops b, s.openFrame i 1 m = some (src, hops, b) → s.timeSide i = some (!cw) →
      let parent : Int := (fieldAt b 0 8 : Nat) + (s.side (!cw)).delay;
      let off : Int := (now : Int) - parent;
      let good := if off.natAbs ≤ ns 2 then s.time.good + 1 else 0;
      ∃ t, exec (.timeFrame cw m) s = .next t ∧
        t = { s with time := t.time, perf := t.perf, sessions := t.sessions, draws := t.draws } ∧
        (∀ j < 4, t.session j = { s.session j with ring := (t.session j).ring, frameSeq := (t.session j).frameSeq }) ∧
        (∀ j < 4, j ≠ i → (t.session j).frameSeq = (s.session j).frameSeq) ∧ t.time.offset = clampOffset off ∧
        now ≤ t.time.now.toNat ∧
        (s.time.sync = .acquiring → (s.session i).epochOpen = false → (now : Int) < parent → parent < 2 ^ 64 →
          t.time.now = BitVec.ofInt 64 parent ∧ t.time.fraction = 0 ∧ t.time.rate = s.time.rate ∧
          t.time.stepNeeded = false) ∧
        (s.time.sync ≠ .acquiring ∨ (s.session i).epochOpen = true ∨ parent ≤ (now : Int) →
          t.time.now = s.time.now ∧ t.time.fraction = s.time.fraction ∧ -858993 ≤ t.time.rate.toInt ∧
          t.time.rate.toInt ≤ 858993) ∧
        (s.time.sync = .locked → t.time.sync = if ns 8 < off.natAbs then .holdover else .locked) ∧
        (s.time.sync = .acquiring ∨ s.time.sync = .holdover →
          t.time.sync = (if 16 ≤ good then .locked else s.time.sync) ∧
          t.time.holdoverUs = if 16 ≤ good then s.time.holdoverNow else s.time.holdoverUs) ∧
        t.time.ringBroken = decide (16 < s.hopsTo (s.session i) (!cw)) ∧
        (t.session i).frameSeq = (s.session i).frameSeq + 2 ∧
        t.time.cw.sent =
          ringFrame (s.ringKey i) (s.session i).rank true 1 (w64 t.time.now) (s.session i).frameSeq :: s.time.cw.sent) ∧
    (let near := decide (s.hopsTo (s.session i) true ≤ s.hopsTo (s.session i) false);
      let ready := fun (d : Bool) => (s.side d).locked = true ∧ 3 ≤ (s.side d).delays.length;
      (ready near → s.timeSide i = some near) ∧ (¬ ready near → ready (!near) → s.timeSide i = some (!near)) ∧
      (¬ ready near → ¬ ready (!near) → s.timeSide i = none))

/-- R303, R304, R306, R326: a locked member that has had no usable time for 65,536 ns enters HOLDOVER; one that has been in
HOLDOVER for 10 ms, or that would have to step, is held for TIME_LOST while an epoch is open, its session's arms
cleared without firing. HOLDOVER_US counts the microseconds spent in HOLDOVER. The module's own bypass closes without
supply, in a Warm or wider reset, outside a consignment or without both locks, and opens at the boundary of an IDLE frame;
either way both sides measure afresh and the member leaves or enters ACTIVE. The switch of another position of the ring leaves or enters ACTIVE, and a side on
which that member is the neighbour measures afresh while the other keeps its delays (how a member learns of it is the
model's choice, log 70). -/
def Obligations.HoldoverAndBypassAct : Prop :=
  ∀ (s : State),
    (s.time.sync = .locked → s.time.grandmaster = false → s.time.lastGood.toNat + ns 65536 ≤ s.time.now.toNat →
      exec .holdoverTimeout s = .next { s with time := { s.time with
        sync := Sync.holdover, holdoverSince := s.time.now, holdoverUs := 0, good := 0 } }) ∧
    (∀ i < 4, s.ringSession = some i → s.time.sync = .holdover → (s.session i).epochOpen = true →
      (s.time.holdoverSince.toNat + ns 10000000 ≤ s.time.now.toNat ∨ s.time.stepNeeded = true) →
      let h := (s.session i).held;
      ∃ t, exec .holdoverHeld s = .next t ∧
        t = { s.setSession i { s.session i with held := { h with
          held := true, ownReasons := h.ownReasons ||| 0x40, heldSince := if h.held then h.heldSince else s.time.now } } with
          tallies := t.tallies } ∧
        (∀ e ∈ t.tallies, ∀ a, e.2.arm = some a → a.2.2.1 ≠ i) ∧
        (∀ e ∈ s.tallies, { e.2 with arm := none } ≠ Tally.reset →
          ∃ k ∈ t.tallies, k.1 = e.1 ∧ { k.2 with arm := none } = { e.2 with arm := none }) ∧
        (∀ e ∈ s.tallies, ∀ a, e.2.arm = some a → a.2.2.1 ≠ i → e ∈ t.tallies)) ∧
    (s.time.holdoverNow = if s.time.sync = .holdover then
        satAdd s.time.holdoverUs ((s.time.now.toNat - s.time.holdoverSince.toNat) / ns 1000) else s.time.holdoverUs) ∧
    (∀ locked idle : Bool,
      let wide : Prop := ∃ r, s.resets.inReset = some r ∧ 3 ≤ r.code;
      let closes : Prop := s.power.converters = false ∨ wide ∨ s.ringSession = none ∨ locked = false;
      let fresh := fun (r : RingSide) (l : Bool) => { r with locked := l, delays := [], sentAt := none };
      let counted := fun (own : Bool) (a : BitVec 6) =>
        (s.ringSession = none → a = s.time.active) ∧
        ∀ i, s.ringSession = some i →
          let x := s.session i;
          a = BitVec.ofNat 6 ((x.ringRanks x.ownRing).filter fun r =>
            if r = x.rank then own else !(s.time.bypassed.getLsbD (x.placeOf r).2)).length;
      (closes →
        ∃ a, counted false a ∧ exec (.bypassSwitchChange (.own locked) idle) s = .next { s with time := { s.time with
          bypassClosed := true, active := a, cw := fresh s.time.cw false, ccw := fresh s.time.ccw false } }) ∧
      (¬ closes → s.time.bypassClosed = true → idle = true →
        ∃ a, counted true a ∧ exec (.bypassSwitchChange (.own locked) idle) s = .next { s with time := { s.time with
          bypassClosed := false, active := a, cw := fresh s.time.cw true, ccw := fresh s.time.ccw true } }) ∧
      (¬ closes → s.time.bypassClosed = false ∨ idle = false →
        exec (.bypassSwitchChange (.own locked) idle) s = .next s)) ∧
    (∀ (i p : Nat) (closed idle : Bool), s.ringSession = some i →
      let x := s.session i;
      let there : Prop := ∃ r ∈ x.ringRanks x.ownRing, r ≠ x.rank ∧ (x.placeOf r).2 = p;
      let fresh := fun (cw : Bool) (r : RingSide) =>
        if s.besides x cw p then { r with delays := [], sentAt := none } else r;
      (s.time.bypassed.getLsbD p = closed ∨ ¬ there ∨ (closed = false ∧ idle = false) →
        exec (.bypassSwitchChange (.member p closed) idle) s = .next s) ∧
      (s.time.bypassed.getLsbD p ≠ closed → there → closed = true ∨ idle = true → p < 32 →
        ∃ t, exec (.bypassSwitchChange (.member p closed) idle) s = .next t ∧
          t = { s with time := { s.time with
            bypassed := t.time.bypassed, active := t.time.active, cw := fresh true s.time.cw, ccw := fresh false s.time.ccw } } ∧
          (∀ k < 32, t.time.bypassed.getLsbD k = if k = p then closed else s.time.bypassed.getLsbD k) ∧
          t.time.active = BitVec.ofNat 6 (t.activeRanks x).length ∧
          (∀ r, r ∈ t.activeRanks x ↔
            r ∈ x.ringRanks x.ownRing ∧ (r = x.rank → s.time.bypassClosed = false) ∧
              (r ≠ x.rank → t.time.bypassed.getLsbD (x.placeOf r).2 = false))))

/-! ### The step seal -/

/-- R159, R160, R223 to R225, R318, R319: a launched STEP_SEAL closes the step: its session's scale records are evaluated and
its vote, with the reasons gathered, is held and in a consignment sent both ways. The master of a ring holds one vote a
rank of its ring and attempt, until the summary of that attempt has left; a master other than rank 0's sends its summary once, when its ring is whole or at its deadline; rank 0
holds summaries. The decider records its decision when it may; its record commits exactly when every member voted
without a reason; a record that fits is held by a member that holds none. -/
def Obligations.SealVotesAreGathered : Prop :=
  (∀ (s : State) (o : OpRef) (p : Op) (q : Sealing), o.session < 4 → s.launched o opSeal = some p →
    (s.session o.session).sealing = some q → q.voteSent = false → q.ctx = p.ctx → q.seq = p.seq →
    let i := o.session;
    let x := { s.session i with scales := mapScales ScaleRec.evaluate (s.session i).scales };
    let r := x.sealReasons p.desc;
    let y := { x with
      sealing := some { q with voteSent := true, ownReasons := r }
      votes := x.votes ++ [⟨x.rank, x.sealRec.step, x.sealRec.attempt, r, q.launch⟩] };
    (x.isConsignment = false ∨ s.ringUp = false → exec (.stepSeal o) s = .next (s.setSession i y)) ∧
    (x.isConsignment = true → s.ringUp = true →
      let body := w32 x.sealRec.step ++ w16 x.sealRec.attempt ++ w16 r ++ w64 q.launch;
      ∃ t, exec (.stepSeal o) s = .next t ∧
        t = { s with time := t.time, perf := t.perf, sessions := t.sessions, draws := t.draws } ∧
        t.session i = { y with ring := (t.session i).ring, frameSeq := x.frameSeq + 2 } ∧
        t.time.cw.sent = ringFrame (s.ringKey i) x.rank true 4 body x.frameSeq :: s.time.cw.sent ∧
        t.time.ccw.sent = ringFrame (s.ringKey i) x.rank false 4 body (x.frameSeq + 1) :: s.time.ccw.sent)) ∧
  (∀ (s u : State) (rx : Rx) (m : Bytes) (g : Msg), s.takeMsg rx 4 2 m = (u, some g) → g.sess < 4 →
    let x := u.session g.sess;
    let v : Vote := ⟨g.src, u32 g.body 0, u16 g.body 4, u16 g.body 6, u64 g.body 8⟩;
    let left : Prop := x.sealSummarySent = true ∧ v.step = x.sealRec.step ∧ v.attempt = x.sealRec.attempt;
    let counts : Prop := x.isMaster = true ∧ ¬ left ∧ g.src ∈ x.ringRanks x.ownRing ∧
      ∀ w ∈ x.votes, ¬ (w.rank = g.src ∧ w.step = v.step ∧ w.attempt = v.attempt);
    (counts → exec (.vote rx m) s = .next (u.setSession g.sess { x with votes := x.votes ++ [v] })) ∧
    (¬ counts → exec (.vote rx m) s = .next u)) ∧
  (∀ (s u : State) (p : Nat) (m : Bytes) (g : Msg),
    s.takeMsg (.port p) 5 (if bitsAt m 0 1 3 0 = 4 then 4 else 2) m = (u, some g) → g.sess < 4 →
    let x := u.session g.sess;
    x.rank = 0 → x.consign ≠ none →
    ((u8 g.body 0).toNat = 1 →
      exec (.summary p m) s = .next (u.setSession g.sess { x with ringSummaries := x.ringSummaries ++ [g.body] })) ∧
    (∀ r, (u8 g.body 0).toNat ≠ 1 → x.roll = some r → u64 g.body 8 = r.p →
      exec (.summary p m) s =
        .next (u.setSession g.sess { x with roll := some { r with summaries := r.summaries ++ [g.body] } }))) ∧
  (∀ (s : State) (i n : Nat) (q : Sealing) (c : Consign), i < 4 → n < 18 → (s.session i).sealing = some q →
    (s.session i).consign = some c → c.timePort = some n → (s.session i).isMaster = true → (s.session i).ownRing ≠ 0 →
    (s.session i).sealSummarySent = false → (s.session i).roll = none →
    (q.launch.toNat + ns q.decideNs ≤ s.time.now.toNat + ns 1400 ∨
      ∀ k ∈ s.activeRanks (s.session i), ∃ v ∈ (s.session i).votes,
        v.rank = k ∧ v.step = (s.session i).sealRec.step ∧ v.attempt = (s.session i).sealRec.attempt) →
    exec (.summaryDeadline i) s =
      .next ((s.setPort n { s.port n with control := (s.port n).control ++
          [(⟨2, 0, c.rank, false, false, msgPayload 5 ((s.session i).sealSummary q), s.linkGen i, none⟩ : OutFlit)] }).setSession i
        { s.session i with sealSummarySent := true })) ∧
  (∀ (s : State) (i : Nat) (q : Sealing), i < 4 → (s.session i).sealing = some q → (s.session i).rank = 0 →
    q.voteSent = true → (s.session i).decision = none →
    let x := s.session i;
    let b := s.decisionRecord i q;
    (x.consign = none → exec (.sealCollectionClose i) s = .next (s.setSession i { x with decision := some b })) ∧
    (q.launch.toNat + ns q.decideNs ≤ s.time.now.toNat →
      ∃ t, exec (.sealCollectionClose i) s = .next t ∧ (t.session i).decision = some b ∧ t.slots = s.slots ∧
        t.tallies = s.tallies ∧ (t.session i).sealRec = x.sealRec) ∧
    u32 b 0 = x.sealRec.step ∧ u16 b 4 = x.sealRec.attempt ∧
    (u8 b 6 = 1 ↔ ∀ k < x.members, x.voteOf k = some 0) ∧ (u8 b 6 ≠ 1 → u8 b 6 = 2) ∧
    ((∃ k < x.members, x.voteOf k = none) → u16 b 10 &&& rsMissing = rsMissing)) ∧
  (∀ (s u : State) (rx : Rx) (m : Bytes) (g : Msg), s.takeMsg rx 6 3 m = (u, some g) → g.sess < 4 →
    let x := u.session g.sess;
    let r := slice g.body 0 48;
    (u.recordFits g.sess r = true → x.decision = none →
      ∃ t, exec (.decision rx m) s = .next t ∧ (t.session g.sess).decision = some r ∧ t.slots = u.slots ∧
        (t.session g.sess).sealRec = x.sealRec ∧
        (g.byFlit = false → t = u.setSession g.sess { x with decision := some r })) ∧
    (u.recordFits g.sess r = false ∨ x.decision ≠ none → g.byFlit = false → exec (.decision rx m) s = .next u))

/-- R152, R162, R163, R213, R226 to R229, R236, R326, R329, R557: a decision that commits makes pending copies current,
advances the step with attempt 0 and completes the STEP_SEAL with ST_OK; one that voids drops pending copies, advances
the attempt, completes it with ST_VOIDED and moves its context to the replay target, or stops it; a member without a
record is held for SEAL_LOST, until SEAL_RESOLVE brings a record that fits and applies it. -/
def Obligations.SealsApply : Prop :=
  (∀ (s : State) (i : Nat) (q : Sealing) (o : Op) (r : Bytes), i < 4 → (s.session i).sealing = some q →
    (s.session i).op? q.ctx q.seq = some o → q.voteSent = true → (s.session i).decision = some r →
    ((s.session i).consign = none ∨ q.launch.toNat + ns q.flipNs ≤ s.time.now.toNat) → (s.session i).sealLost = false →
    let x := s.session i;
    (u8 r 6 = 1 →
      ∃ y, exec (.sealFlip i) s = .next ((s.setSession i y).ended i o stOk true) ∧
        y = { x with
          pages := y.pages, scales := y.scales, noise := x.noise.filter fun n => n.step ≠ x.sealRec.step,
          upd := { x.upd with noiseSteps := satAdd x.upd.noiseSteps (boolNat x.noiseRan) }, noiseRan := false,
          exhausted := x.exhausted || decide (x.sealRec.step = BitVec.allOnes 32),
          sealRec := { x.sealRec with
            step := if x.sealRec.step = BitVec.allOnes 32 then x.sealRec.step else x.sealRec.step + 1,
            attempt := 0, lastDecision := 1, sealing := false, lastFlip := u64 r 16,
            commitCount := satAdd x.sealRec.commitCount 1 },
          voteReasons := 0, updNanInAttempt := false, outputs := [], piece := { x.piece with retired := [] },
          sealing := none, sealSummarySent := false, votes := y.votes, ringSummaries := y.ringSummaries } ∧
        (∀ v, v ∈ y.votes ↔ v ∈ x.votes ∧ (x.sealRec.step.toNat < v.step.toNat ∨
          (x.sealRec.step = v.step ∧ x.sealRec.attempt.toNat < v.attempt.toNat))) ∧
        ∀ k g, (k, g) ∈ x.pages → g.pending = true →
          (⟨!g.current, false, g.step⟩ : Page) ≠ ⟨false, false, 0⟩ → (k, ⟨!g.current, false, g.step⟩) ∈ y.pages) ∧
    (u8 r 6 ≠ 1 →
      ∃ t, exec (.sealFlip i) s = .next t ∧
        t = { s with sessions := t.sessions, perf := t.perf, tallies := t.tallies } ∧
        (∀ j < 4, j ≠ i → t.session j = s.session j) ∧
        (t.session i).sealRec = { x.sealRec with
          attempt := if x.sealRec.attempt = BitVec.allOnes 16 then x.sealRec.attempt else x.sealRec.attempt + 1,
          lastDecision := 2, sealing := false, lastReasons := u16 r 10, lastFlip := u64 r 16,
          voidCount := satAdd x.sealRec.voidCount 1 } ∧
        (∀ e ∈ (t.session i).pages, e.2.pending = false) ∧ (t.session i).sealing = none ∧ (t.session i).noise = x.noise ∧
        (∀ k ∈ (t.session i).ops, ¬ (k.ctx = o.ctx ∧ k.seq = o.seq)) ∧
        (let n := x.tallyBase + dSignalTally o.desc;
          t.tallies = if dSignalEn o.desc then
            Table.set Tally.reset s.tallies n ((s.tally n).add s.time.now (dSignalInc o.desc))
          else s.tallies) ∧
        (o.ctx < 4 → (x.ctx o.ctx).live = true →
          let k := (t.session i).ctx o.ctx;
          (x.sealRec.attempt = BitVec.allOnes 16 → k.state = .stopped ∧ k.status = stVoided) ∧
          (x.sealRec.attempt ≠ BitVec.allOnes 16 →
            (x.descAt? q.replaySlot q.replayIndex = none → k.state = .stopped ∧ k.status = stRefused) ∧
            (x.descAt? q.replaySlot q.replayIndex ≠ none → k.slot = BitVec.ofNat 8 q.replaySlot ∧
              k.index = BitVec.ofNat 17 q.replayIndex ∧ k.live = true))))) ∧
  (∀ (s : State) (i : Nat) (q : Sealing), i < 4 → (s.session i).sealing = some q → q.voteSent = true →
    (s.session i).decision = none → (s.session i).consign ≠ none → q.launch.toNat + ns q.flipNs ≤ s.time.now.toNat →
    (s.session i).sealLost = false →
    ∃ t, exec (.sealFlip i) s = .next t ∧ t = { s with sessions := t.sessions, tallies := t.tallies } ∧
      (t.session i).sealRec = { (s.session i).sealRec with lastDecision := 3 } ∧ (t.session i).held.held = true ∧
      (t.session i).held.ownReasons = (s.session i).held.ownReasons ||| 0x20 ∧ (t.session i).sealing = some q ∧
      ∀ e ∈ t.tallies, ∀ a, e.2.arm = some a → a.2.2.1 ≠ i) ∧
  (∀ (s : State) (mb : Nat) (r : Req),
    let u := s.acceptKey r;
    let x := u.session r.session;
    s.Accepts mb 0x0402 .sealed .resolve r → r.body.length = 48 → zeroRange r.body 7 1 = true →
    zeroRange r.body 12 4 = true → zeroRange r.body 24 8 = true → x.sealLost = true →
    slice r.body 32 16 = s.recordTag r.session (slice r.body 0 32) → s.recordFits r.session r.body = true →
    ∃ t, exec (.sealResolve mb) s = answered t r [] ∧
      (x.held.ownReasons = 0x20 → x.held.groupReasons = 0 → (t.session r.session).held.held = false) ∧
      (x.held.ownReasons &&& ~~~0x20 ≠ 0 ∨ x.held.groupReasons ≠ 0 → (t.session r.session).held.held = true ∧
        (t.session r.session).held.ownReasons = x.held.ownReasons &&& ~~~0x20) ∧
      ∀ q o, x.sealing = some q → x.op? q.ctx q.seq = some o →
        (u8 r.body 6 = 1 → (t.session r.session).sealRec.attempt = 0 ∧ (t.session r.session).sealRec.lastDecision = 1) ∧
        (u8 r.body 6 ≠ 1 → (t.session r.session).sealRec.lastDecision = 2) ∧ (t.session r.session).sealing = none)

/-! ### Roll call -/

/-- R318, R320 to R327: at its postmark a member sends its roll-call message, whose body holds its versions, step, attempt and
manifest digest (the body's and the manifest's layout where the spec leaves them open are log entry 72); a master keeps one
message a rank, its time out when the sender is not LOCKED or its postmark is out by more than 100 ns on the ring (the
sender's lock and the delays that other members measured are operands of the command, since the message does not say them:
log entry 58); rank 0 decides when it has heard all or 50 µs later, and its verdict opens the epoch exactly when no member
has a reason; a verdict that verifies is held, and a gateway sends one around its ring; 100 µs after the postmark the epoch
opens, with its ports keyed afresh and its ring frames counted from 0, or the member is held for the reasons its own message
gave. -/
def Obligations.RollCallRuns : Prop :=
  (∀ (s : State) (i : Nat) (r : RollCall), i < 4 → (s.session i).roll = some r → r.sent = false →
    r.p.toNat ≤ s.time.now.toNat →
    let digest := Crypto.sha512 (s.manifest i r.epoch);
    let body := s.rollBody i r.epoch digest;
    ∃ t v, exec (.rollCallPostmark i) s = .next t ∧ (t.session i).manifest = digest ∧ (t.session i).roll = some v ∧
      v.sent = true ∧ v.body = body ∧ v.p = r.p ∧ v.epoch = r.epoch ∧
      (∃ m ∈ v.heard, m.rank = (s.session i).rank) ∧ ((s.session i).rank = 0 → v.reference = some body) ∧
      (s.ringUp = true →
        t.time.cw.sent = ringFrame (s.ringKey i) (s.session i).rank true 7 body (s.session i).frameSeq ::
          s.time.cw.sent) ∧
      t.tallies = s.tallies ∧ t.slots = s.slots ∧ (∀ j < 4, j ≠ i → (t.session j).sealRec = (s.session j).sealRec)) ∧
  (∀ (s u : State) (rx : Rx) (m : Bytes) (locked : Bool) (rest : Nat) (g : Msg) (r : RollCall),
    s.takeMsg rx 7 4 m = (u, some g) → g.sess < 4 →
    (u.session g.sess).roll = some r →
    let x := u.session g.sess;
    let rank := fieldAt g.body 96 2;
    ∃ t v, exec (.rollCallMessage ⟨rx, locked, rest⟩ m) s = .next t ∧ (t.session g.sess).roll = some v ∧
      v.reference = (if rank = 0 ∧ r.reference = none then some g.body else r.reference) ∧
      (x.isMaster = true → r.summarySent = false → rank ∈ x.ringRanks x.ownRing → (∀ h ∈ r.heard, h.rank ≠ rank) →
        ∃ bad, v.heard = r.heard ++ [⟨rank, g.body, bad⟩] ∧ (locked = false → bad = true) ∧
          (∀ k, rx = .port k → bad = !locked) ∧
          (∀ cw, rx = .ring cw → locked = true →
            let path : Int := (u.side (!cw)).delay + rest;
            bad = decide (ns 100 < ((u.time.now.toNat : Int) - path - (fieldAt g.body 0 8 : Nat)).natAbs))) ∧
      ((∃ h ∈ r.heard, h.rank = rank) → v.heard = r.heard) ∧
      (g.byFlit = false → t = u.setSession g.sess { x with roll := some v })) ∧
  (∀ (s : State) (i : Nat) (r : RollCall), i < 4 → (s.session i).roll = some r → (s.session i).rank = 0 → r.sent = true →
    r.verdict = none → r.p.toNat + ns 50000 ≤ s.time.now.toNat →
    let rs := (s.session i).rollReasons r;
    ∃ t d reasons v, exec (.rollCallDecide i) s = .next t ∧ (t.session i).roll = some v ∧ v.verdict = some (d, reasons) ∧
      (d = 1 ↔ ∀ e ∈ rs, e.2 = 0) ∧ (d = 1 ∨ d = 2) ∧
      (t.session i).held.reasonOf = rs.filter (fun e => e.2 ≠ 0) ∧ t.tallies = s.tallies ∧ t.slots = s.slots) ∧
  (∀ (s u : State) (rx : Rx) (m : Bytes) (g : Msg) (r : RollCall), s.takeMsg rx 8 4 m = (u, some g) → g.sess < 4 →
    (u.session g.sess).roll = some r →
    (slice g.body 32 16 = u.recordTag g.sess (slice g.body 0 32) → u64 g.body 0 = r.epoch → r.verdict = none →
      ∃ t, exec (.verdict rx m) s = .next t ∧
        (t.session g.sess).roll = some { r with verdict := some (u8 g.body 8, u16 g.body 10) } ∧
        (g.byFlit = false → t = u.setSession g.sess { u.session g.sess with
          roll := some { r with verdict := some (u8 g.body 8, u16 g.body 10) } })) ∧
    (g.byFlit = false → slice g.body 32 16 ≠ u.recordTag g.sess (slice g.body 0 32) →
      exec (.verdict rx m) s = .next u) ∧
    (g.byFlit = true → slice g.body 32 16 ≠ u.recordTag g.sess (slice g.body 0 32) →
      ∃ t, exec (.verdict rx m) s = .next t ∧ (t.session g.sess).roll = some r ∧
        ((u.session g.sess).isMaster = true → (u.session g.sess).ownRing ≠ 0 → u.ringUp = true → u.ringSession = some g.sess →
          t.time.cw.sent = ringFrame (u.ringKey g.sess) (u.session g.sess).rank true 8 g.body (u.session g.sess).frameSeq ::
            u.time.cw.sent))) ∧
  (∀ (s : State) (i : Nat) (r : RollCall), i < 4 → (s.session i).roll = some r →
    r.p.toNat + ns 100000 ≤ s.time.now.toNat →
    let x := s.session i;
    (∀ reasons, r.verdict = some (1, reasons) →
      ∃ t, exec (.epochOpen i) s = .next t ∧
        t = { s with sessions := t.sessions, ports := t.ports } ∧
        t.session i = { x with
          epoch := r.epoch, epochOpen := true, roll := none, frameSeq := 0,
          held := { x.held with held := false, ownReasons := 0, groupReasons := 0, epoch := r.epoch } } ∧
        (∀ p < 18, (s.port p).bound = true → (s.port p).session.toNat = i →
          (t.port p).epochTagFail = 0 ∧
          ((s.port p).runs = true ∨ (s.port p).state = .keying →
            (t.port p).state = .keying ∧ (t.port p).keyEpoch = r.epoch ∧ (t.port p).txSlot = 0 ∧ (t.port p).rxSlot = 0)) ∧
        (∀ p < 18, (s.port p).bound = false ∨ (s.port p).session.toNat ≠ i → t.port p = s.port p)) ∧
    (r.verdict = none ∨ (∃ d reasons, r.verdict = some (d, reasons) ∧ d ≠ 1) →
      ∃ t, exec (.epochOpen i) s = .next t ∧ t = { s with sessions := t.sessions, tallies := t.tallies } ∧
        (t.session i).held.held = true ∧ (t.session i).roll = none ∧ (t.session i).epochOpen = x.epochOpen ∧
        (t.session i).held.epoch = r.epoch ∧
        (r.verdict = none → (t.session i).held.ownReasons &&& 0x80 = 0x80) ∧
        (∀ ref, r.reference = some ref → ∃ bad, (t.session i).held.ownReasons =
          x.held.ownReasons ||| (classify ref r.body bad ||| (if r.verdict = none then 0x80 else 0))) ∧
        ∀ e ∈ t.tallies, ∀ a, e.2.arm = some a → a.2.2.1 ≠ i))

/-! ### Numbers -/

/-- R104, R110, R121, R123 to R125: in every format a value that it holds keeps its code under every rounding, the value
half-way between two neighbours goes to the one away from zero, NaN gives the format's canonical code, a zero keeps its
sign, and any other value gives a code from 1 to the largest finite one with its sign, or overflows to that one, or
flushes to the zero of its sign. A product is exact, its sign the exclusive OR of the signs; with a NaN factor it is
NaN. -/
def Obligations.NumbersRoundAndMultiply : Prop :=
  (∀ f ∈ Fmt.stored, ∀ (mode : Rnd) (neg : Bool) (n d : Nat) (e : Int),
    let sign := if neg then 2 ^ (f.width - 1) else 0;
    let r := f.round mode (.num neg n d e);
    f.round mode .nan = ⟨f.canonNan, false, false⟩ ∧
    (n = 0 → r = ⟨sign, false, false⟩) ∧
    (n ≠ 0 → d ≠ 0 →
      (r.overflow = true → r.code = sign + f.top) ∧ (r.flush = true → r.code = sign) ∧
      (r.overflow = false → r.flush = false → sign < r.code ∧ r.code ≤ sign + f.top)) ∧
    (∀ c ≤ f.top, (∀ k, mode = .stochastic k → k < 65536) →
      f.round mode (f.magnitude neg c) = ⟨sign + c, false, false⟩) ∧
    (∀ c < f.top,
      f.round .nearest (((f.magnitude neg c).add (f.magnitude neg (c + 1))).scale (-1)) = ⟨sign + c + 1, false, false⟩)) ∧
  (∀ (v w : Val), (v.isNan = true ∨ w.isNan = true → v.mul w = .nan) ∧
    ∀ a n d e b n' d' e', v = .num a n d e → w = .num b n' d' e' →
      v.mul w = .num (a != b) (n * n') (d * d') (e + e'))

/-! ### The whole module -/

/-- One step takes the command at the front of the queue and is its effect on the state with the queue's rest; with no
command waiting the module idles for one TIME clock, in which its postmark time moves on by 1 ns and the rate correction
while the TIME domain is released (R292), the counters of the events of every clock count (with the sample records they
request), and nothing else changes. That an empty queue is one TIME clock, and that these counters move there alone, is
the model's choice (log entries 1 and 86). -/
def Obligations.StepRunsTheFront : Prop :=
  (∀ (s : State) (c : Instr) (rest : List Instr), s.pending = c :: rest → step s = exec c { s with pending := rest }) ∧
  (∀ s : State, s.pending = [] →
    ∃ t, step s = .next t ∧
      t = { s with
        time := t.time, power := { s.power with idleSince := t.power.idleSince },
        perf := { s.perf with counters := t.perf.counters }, draws := t.draws, sessions := t.sessions } ∧
      (∀ i < 4, t.session i = { s.session i with ring := (t.session i).ring }) ∧
      (s.timeRuns = false ∨ (∀ e ∈ s.perf.counters, e.2.event.toNat ∉ [0x005, 0x060, 0x261, 0x280, 0x281]) →
        t.perf = s.perf ∧ t.draws = s.draws ∧ t.sessions = s.sessions) ∧
      (s.timeRuns = false → t.time = s.time) ∧
      (s.timeRuns = true → t.time = { s.time with now := t.time.now, fraction := t.time.fraction } ∧
        (t.time.now.toNat : Int) * 2 ^ 32 + t.time.fraction.toNat =
          ((s.time.now.toNat : Int) * 2 ^ 32 + s.time.fraction.toNat + 2 ^ 48 + s.time.rate.toInt * 2 ^ 16) % 2 ^ 96))

/-- R295, R385, R467, R488, R497, R510, R515, R524: after a Power-on reset no command waits, postmark time is 0 and FREE,
every mailbox is IDLE, every key slot at generation 0, no session is open, no tally is set, firmware is awaited, the
module is held in reset by its supply at Power-on reach with no domain released, its logs and backup registers are
empty, and its life-cycle codeword names a state. That the first reset is one of source 0, and the values for which no
rule gives a reset value (DOWN_REASON, the host port's backup registers and memory map, the codeword), are the model's
choice (log entries 23 to 26). -/
def Obligations.ResetIsAsStated : Prop :=
  let s := State.reset;
  s.pending = [] ∧ s.time.now = 0 ∧ s.time.sync = .free ∧ s.time.holdoverUs = 0 ∧
    (∀ n < 64, (s.mailbox n).state = .idle ∧ (s.mailbox n).reqLen = 0 ∧ (s.mailbox n).submits = 0) ∧
    (∀ n < 64, (vget KeySlot.reset s.slots n).gen = 0 ∧ (vget KeySlot.reset s.slots n).binding = none) ∧
    (∀ i < 4, (s.session i).state = .free) ∧ (∀ n, (s.tally n).value = 0) ∧
    (∀ p < 18, (s.port p).state = .disabled ∧ (s.port p).downReason = 0) ∧ s.fw.state = .awaiting ∧
    s.resets.inReset = some .powerOn ∧ s.asserted 0 = true ∧ s.resets.released = 0 ∧ s.aon.resetLog = [] ∧
    s.aon.ledger = [] ∧ s.aon.hostBackup = Vector.replicate 8 0 ∧ s.host.memory = [] ∧ s.lcState ≠ 0xFF

/-- R419 to R421, R427, R429: from a state whose codeword names a life-cycle state, every step leaves such a codeword, with
every bit that was set still set, so that no step goes back to an earlier state or locks the module; and every step
takes one command off the queue. -/
def Obligations.LifeCycleOnlyMovesOn : Prop :=
  ∀ s t : State, step s = .next t → s.lcState ≠ 0xFF →
    t.lcState ≠ 0xFF ∧ s.lc.codeword &&& t.lc.codeword = s.lc.codeword ∧ s.lcState ≤ t.lcState ∧
      t.pending = s.pending.drop 1

/-- R248, R251 to R253, R296, R297: what the module seals, the holder of the same key and counter opens as it was: a flit
with its header's fields, a control block with its body, a ring frame with its sender's rank and body. -/
def Obligations.SealedTrafficOpens : Prop :=
  (∀ (key : Bytes) (slot : W64) (f : OutFlit) (gen : Nat) (seq : BitVec 12), f.type < 16 → f.dst < 2048 → f.src < 2048 →
    f.payload.length ≤ 232 → gen < 256 → openFlit key slot (sealFlit key slot f gen seq.toNat) =
      some ⟨{ f with gen := gen, work := none }, gen, seq⟩) ∧
  (∀ (s : State) (p type : Nat) (body : Bytes), p < 18 → type < 256 → body.length ≤ 12 →
    s.takeCtl p type (ctlBlock (s.portKey p "KRELAS-CTRL" false) (s.port p).rxCtl type body) =
      (s.setPort p (Port.limit { s.port p with rxCtl := (s.port p).rxCtl + 1 }), some (padTo 12 body))) ∧
  (∀ (s : State) (i rank type : Nat) (cw : Bool) (body : Bytes) (n : W64), rank < 65536 → type < 256 →
    body.length ≤ 104 →
    s.openFrame i type (ringFrame (s.ringKey i) rank cw type body n) = some (rank, 16, padTo 104 body))

/-- R424, R462, R466, R469 to R478, R529: a mailbox command does nothing unless mailboxes are served, it is its mailbox's
turn and the request is one of its code; a request refused before its body is looked at completes its mailbox with that
status and an empty body, and the turn passes on: a request of an unknown code whose turn comes is answered, and nothing
else changes; a locked module answers ST_LOCKED to all but LC_STATUS, and one whose firmware does not run answers
ST_NOT_READY to all but the boot commands. The order of the checks, and that the command that brings its turn answers a
request of an unknown code, are the model's reading (log entries 43 and 6). -/
def Obligations.RefusedRequestsChangeNothing : Prop :=
  ∀ (s : State) (mb : Nat), ∀ e ∈ mailboxCommands mb,
    let own := fieldAt (s.mailbox mb).request 0 2 = e.2.1;
    (s.mbServed = false ∨ s.turn mb = false ∨ ¬ own → exec e.1 s = .next s) ∧
    (s.mbServed = true → s.turn mb = true → own → mb < 64 →
      (∀ st, s.take mb e.2.1 e.2.2 = (st, none) →
        let u := s.done mb st 0 [];
        exec e.1 s = .next u.passTurn ∧ u.passTurn.mailbox mb = (s.mailbox mb).answer s.time.now st 0 [] ∧
          ((s.mailbox mb).answer s.time.now st 0 []).state = .done ∧
          ((s.mailbox mb).answer s.time.now st 0 []).respLen = 16 ∧
          (∀ n, n ≠ mb → (s.mailbox n).state ≠ .submitted → u.passTurn.mailbox n = s.mailbox n) ∧
          ((∀ n < 64, u.unknownTurn n = false) → u.passTurn = u ∧ ∀ n, n ≠ mb → u.mailbox n = s.mailbox n) ∧
          u.passTurn = { s with
            mailboxes := u.passTurn.mailboxes, power := { s.power with idleSince := s.time.now } }) ∧
      (s.locked = true → e.2.1 ≠ 0x0032 → exec e.1 s = .next (s.done mb stLocked 0 []).passTurn) ∧
      (s.locked = false → s.power.power ≠ .ps3 → s.fw.state ≠ .running → e.2.1 ≠ 0x0001 → e.2.1 ≠ 0x0032 →
        exec e.1 s = .next (s.done mb stNotReady 0 []).passTurn))

/-! ### Memory protection -/

/-- R343, R344, R346, R349, R352, R356: what a write through the protection engine leaves, a later read returns. In a
session whose spaces have no fault, after a write of bytes within one line that answers ST_OK a read of that line answers
ST_OK with what it held before under the bytes written; every other line of the session's spaces reads as before; every
other channel is as it was; and the line's counter has moved on by one, with a re-frank at 127. Such a write completes
where no re-frank is due and no metadata waits to be written back; read-only memory refuses it. A line never written
reads as zeros and costs no access beyond its walk, and an item of version 0 is not fetched. Within an operation a run of
one line of session HBM that is written reads back the same. -/
def Obligations.WrittenLinesReadBack : Prop :=
  (∀ (s : State) (i : Nat) (sp : Space) (line off : Nat) (b : Bytes),
    i < 4 → sp ∈ s.spaces i → (∀ q ∈ s.spaces i, (s.chan q).wf = true ∧ (s.chan q).Sound) →
    b ≠ [] → off + b.length ≤ 64 →
    let r := s.writeLine i sp line off b;
    let old := (s.readLine i sp line false).2.2;
    let c := (s.chan sp).page (line / 64);
    let minor := ((s.chan sp).pair line).2;
    (r.2 = stOk →
      (∀ q ∈ s.spaces i, ∀ l,
        (r.1.readLine i q l false).2 =
          if q = sp ∧ l = line then (stOk, overlay old off b) else (s.readLine i q l false).2) ∧
      (∀ q, q ∉ s.spaces i → r.1.chan q = s.chan q) ∧
      (r.1.chan sp).pair line =
        (if minor = 127 then ((if c.major = BitVec.allOnes 64 then 1 else c.major + 1).toNat, 1)
         else (c.major.toNat, minor + 1))) ∧
    ((s.session i).mem.readOnly = true → r = (s, stLocked)) ∧
    ((s.session i).mem.readOnly = false → minor ≠ 127 →
      (∀ q ∈ s.spaces i, ∀ e ∈ (s.chan q).cache, e.2 ≠ some true) → r.2 = stOk)) ∧
  (∀ (s : State) (i : Nat) (sp : Space) (line : Nat) (part : Bool) (q : Item),
    let w := s.walk i sp line;
    (w.2 = stOk → (w.1.chan sp).pair line = (0, 0) → s.readLine i sp line part = (w.1, stOk, zeros 64)) ∧
    ((s.chan sp).version q = 0 → s.fetchItem i sp q = (s.onChan sp fun ch => ch.cached q (some false), stOk))) ∧
  (∀ (j : Job) (a o c cpa : Nat) (b : Bytes),
    let x := j.st.session j.sess;
    j.live = true → j.sess < 4 → x.locate a = some (o, c, cpa) → c < 64 → x.resolve j.copies a = a →
    x.struck o = false → x.struck j.owner = false → (j.st.chan (.hbm c)).holder = some (j.sess, o) →
    (∀ q ∈ j.st.spaces j.sess, (j.st.chan q).wf = true ∧ (j.st.chan q).Sound) →
    b ≠ [] → cpa % 64 + b.length ≤ 64 → (j.st.writeLine j.sess (.hbm c) (cpa / 64) (cpa % 64) b).2 = stOk →
    ((j.writeRun a b).readRun a b.length).2 = b ∧ (j.writeRun a b).status = j.status)

/-- R344, R357 to R360: a read of a poisoned line answers ST_POISONED and changes nothing but its count; an uncorrectable
line or tag answers ST_UNCORRECTABLE, a tag that fails ST_INTEGRITY, and zeros come back; the line, or the eight lines of
an uncorrectable tag line, is left poisoned with its counter moved on, and every other line of the space as it was. A tag
that fails is counted and logged, and the session is quarantined, its contexts stopped. A partial write that meets a
failure is not performed; a full-line write over such a line clears it. A metadata item found faulty is counted, logged
and kept, and every access beneath it has its status. The seven other lines of a tag line that a write mends are the
model's reading (log entry 8), and which of a group's counter blocks fails is free (log entry 9). -/
def Obligations.MemoryFailuresAreHandled : Prop :=
  (∀ (s : State) (i : Nat) (sp : Space) (line : Nat) (part : Bool),
    let w := s.walk i sp line;
    let ch := w.1.chan sp;
    let r := s.readLine i sp line part;
    let m := (w.1.session i).mem;
    let u := r.1.chan sp;
    let tag := Table.get .good ch.tagLines (line / 8);
    let cond := Table.get .good ch.lines line;
    let gone := tag = .uncorrectable ∨ tag = .tagLost ∨ cond = .uncorrectable ∨ cond = .tagLost;
    let calm := m.readOnly = false ∧ ch.sweep = none ∧ ∀ l ∈ ch.spoiledWith line, (ch.pair l).2 ≠ 127;
    let spoiled := (∀ l ∈ ch.spoiledWith line, Table.get .good u.lines l = .poisoned ∧ u.lineBytes l = zeros 64 ∧
        u.pair l = ((ch.pair l).1, (ch.pair l).2 + 1)) ∧
      (∀ l, l ∉ ch.spoiledWith line → Table.get .good u.lines l = Table.get .good ch.lines l ∧
        u.lineBytes l = ch.lineBytes l ∧ u.pair l = ch.pair l);
    i < 4 → sp ∈ s.spaces i → w.2 = stOk → ch.wf = true → ch.pair line ≠ (0, 0) →
    (¬ gone → cond = .poisoned →
      r.2 = (stPoisoned, zeros 64) ∧ u = ch ∧
        (r.1.session i).mem = { m with
          poisonRead := satAdd m.poisonRead 1, corrected := satAdd m.corrected (if tag = .correctable then 1 else 0) }) ∧
    (gone → r.2 = (stUncorrectable, zeros 64) ∧
      (calm → spoiled ∧ (r.1.session i).mem.uncorrectable = satAdd m.uncorrectable 1 ∧
        (r.1.session i).mem.quarantined = m.quarantined)) ∧
    (¬ gone → cond = .tagBad → r.2 = (stIntegrity, zeros 64) ∧ (r.1.session i).mem.quarantined = true ∧
      (∀ c < 4, ((w.1.session i).ctx c).live = true →
        ((r.1.session i).ctx c).state = .stopped ∧ ((r.1.session i).ctx c).status = stIntegrity) ∧
      (calm → spoiled ∧ (r.1.session i).mem.integrity = satAdd m.integrity 1 ∧
        (m.log.length < 16 → ∃ v, (r.1.session i).mem.log = m.log ++ [v] ∧ v.postmark = w.1.time.now ∧
          v.kind = (if part then 2 else 1) ∧ v.level = 0 ∧
          v.owner = BitVec.ofNat 5 ((w.1.session i).lineOwner sp line)))) ∧
    (¬ gone → cond = .good ∨ cond = .correctable → r.2 = (stOk, ch.lineBytes line) ∧ u = ch)) ∧
  (∀ (s : State) (i : Nat) (sp : Space) (line off : Nat) (b : Bytes), (s.session i).mem.readOnly = false →
    (b.length ≠ 64 → (s.readLine i sp line true).2.1 ≠ stOk →
      s.writeLine i sp line off b = ((s.readLine i sp line true).1, (s.readLine i sp line true).2.1)) ∧
    (b.length = 64 → i < 4 → sp ∈ s.spaces i →
      let w := s.walk i sp line;
      let ch := w.1.chan sp;
      let r := s.writeLine i sp line 0 b;
      w.2 = stOk → ch.wf = true → (w.1.session i).mem.readOnly = false → ch.sweep = none → (ch.pair line).2 ≠ 127 →
      r.2 = stOk ∧ Table.get .good (r.1.chan sp).lines line = .good ∧
        Table.get .good (r.1.chan sp).tagLines (line / 8) = .good ∧ (r.1.chan sp).lineBytes line = b)) ∧
  (∀ (s : State) (i : Nat) (sp : Space) (q : Item), i < 4 → sp ∈ s.spaces i → (s.chan sp).version q ≠ 0 →
    let r := s.fetchItem i sp q;
    let m := (s.session i).mem;
    ((s.chan sp).conds q).contains .uncorrectable = true →
      r.2 = stUncorrectable ∧ (r.1.chan sp).failed = (s.chan sp).failed ++ [(q.key, .uncorrectable)] ∧
        (r.1.session i).mem.uncorrectable = satAdd m.uncorrectable 1 ∧ (r.1.session i).mem.quarantined = m.quarantined) ∧
  (∀ (s : State) (i : Nat) (sp : Space) (q : Item), i < 4 → sp ∈ s.spaces i → (s.chan sp).version q ≠ 0 →
    let r := s.fetchItem i sp q;
    let m := (s.session i).mem;
    ((s.chan sp).conds q).contains .uncorrectable = false → ((s.chan sp).conds q).contains .tagBad = true →
      r.2 = stIntegrity ∧ (r.1.chan sp).failed = (s.chan sp).failed ++ [(q.key, .tagBad)] ∧
        (r.1.session i).mem.integrity = satAdd m.integrity 1 ∧ (r.1.session i).mem.quarantined = true) ∧
  (∀ (s : State) (i : Nat) (sp : Space) (path : List Item), (∃ q ∈ path, ∃ c, (q.key, c) ∈ (s.chan sp).failed) →
    (s.reach i sp path).1 = s ∧ ((s.reach i sp path).2 = stIntegrity ∨ (s.reach i sp path).2 = stUncorrectable))

/-- R352, R354, R356: a re-frank moves the page's major counter on by one and its minors to 0; each line that was poisoned
stays so, each other keeps its bytes, a fresh one zeros, and the counters of every other page stand. The roll of a key
epoch advances it and starts a sweep of every space the session holds; with no epoch left the memory becomes read-only
and the answer is no. -/
def Obligations.CountersRunOut : Prop :=
  (∀ (s : State) (i : Nat) (sp : Space) (p : Nat),
    let ch := s.chan sp;
    let r := s.refrank i sp p;
    let u := r.1.chan sp;
    i < 4 → sp ∈ s.spaces i → ch.wf = true → (ch.page p).major ≠ BitVec.allOnes 64 →
    (∀ l, l / 64 = p → Table.get .good ch.lines l ∈ [LineCond.good, .correctable, .poisoned] ∧
      Table.get .good ch.tagLines (l / 8) ∈ [LineCond.good, .correctable]) →
    r.2 = true ∧ u.page p = ⟨(ch.page p).major + 1, []⟩ ∧
      (∀ l, l / 64 ≠ p → u.pair l = ch.pair l ∧ u.lineBytes l = ch.lineBytes l ∧
        Table.get .good u.lines l = Table.get .good ch.lines l) ∧
      (∀ l, l / 64 = p → ch.pair l = (0, 0) → u.lineBytes l = zeros 64 ∧ Table.get .good u.lines l = .good) ∧
      (∀ l, l / 64 = p → ch.pair l ≠ (0, 0) →
        (Table.get .good ch.lines l = .poisoned → Table.get .good u.lines l = .poisoned) ∧
        (Table.get .good ch.lines l ≠ .poisoned →
          Table.get .good u.lines l = .good ∧ u.lineBytes l = ch.lineBytes l)) ∧
      (r.1.session i).mem.refrank = satAdd (s.session i).mem.refrank 1 ∧
      (r.1.session i).mem.quarantined = (s.session i).mem.quarantined) ∧
  (∀ (s : State) (i : Nat), i < 4 →
    let m := (s.session i).mem;
    let r := s.rollEpoch i;
    (m.keyEpoch = BitVec.allOnes 32 →
      r.2 = false ∧ r.1 = { s with sessions := r.1.sessions } ∧ (r.1.session i).mem = { m with readOnly := true }) ∧
    (m.keyEpoch ≠ BitVec.allOnes 32 → m.sweeping = false →
      r.2 = true ∧ (r.1.session i).mem = { m with keyEpoch := m.keyEpoch + 1, sweeping := true } ∧
        ∀ q, r.1.chan q = if q ∈ s.spaces i then { s.chan q with sweep := some 0, ahead := [] } else s.chan q))

/-! ### What every step keeps -/

/-- Every step keeps memory in canonical form: the plaintext, counters, versions, metadata cache, stored bytes and line
conditions of every channel and far range, every Sorting store and the host's memory list their keys rising and nothing
that an unlisted key reads as, so that equal memories are equal data; and reset has that form. The form is the model's
own (log entry 7). -/
def Obligations.MemoryStaysCanonical : Prop :=
  (∀ s t : State, step s = .next t → s.memoryWf → t.memoryWf) ∧ State.reset.memoryWf

/-- R383 to R386, R407, R432, R502: a step changes a key slot only where its command opens a session, admits a party,
configures a consignment, strikes or closes, runs a life-cycle step or resets; only the first three put a key into a
slot; and the generation of a slot never falls but at a Power-on reset, which leaves every slot at its reset value. -/
def Obligations.KeySlotsChangeByCommandAlone : Prop :=
  ∀ s t : State, step s = .next t →
    ((∀ c ∈ s.pending.head?, c.movesKeys = false) → t.slots = s.slots) ∧
    ((∀ c ∈ s.pending.head?, c.givesKeys = false) →
      ∀ n, (vget KeySlot.reset t.slots n).key = (vget KeySlot.reset s.slots n).key ∨
        (vget KeySlot.reset t.slots n).key = []) ∧
    (t.slots = Vector.replicate 64 KeySlot.reset ∨
      ∀ n, (vget KeySlot.reset s.slots n).gen ≤ (vget KeySlot.reset t.slots n).gen)
end

