-- ==== Sys2Proof/Laws/Bytes.lean ====
section
/-! SUPPORT. Byte strings and fixed tables: lengths, little-endian round trips, fields, and reading what was written. -/

namespace Sys2Proof.Machine

/-! ### Fixed tables -/

variable {α : Type} {n : Nat}

theorem vget_vset (d : α) (v : Vector α n) (i j : Nat) (a : α) :
    vget d (vset v i a) j = if i = j ∧ i < n then a else vget d v j := by
  unfold vget vset
  by_cases h : i = j
  · subst h
    by_cases hi : i < n <;> simp [hi]
  · simp [h]

@[simp] theorem vget_vset_same (d : α) (v : Vector α n) {i : Nat} (a : α) (h : i < n) : vget d (vset v i a) i = a := by
  rw [vget_vset, if_pos ⟨rfl, h⟩]

theorem vget_vset_other (d : α) (v : Vector α n) {i j : Nat} (a : α) (h : i ≠ j) : vget d (vset v i a) j = vget d v j := by
  rw [vget_vset, if_neg fun c => h c.1]

@[simp] theorem vset_vset (v : Vector α n) (i : Nat) (a b : α) : vset (vset v i a) i b = vset v i b := by
  unfold vset; apply Vector.ext; intro j hj; simp [Vector.getElem_setIfInBounds]

@[simp] theorem vset_vget (d : α) (v : Vector α n) (i : Nat) : vset v i (vget d v i) = v := by
  unfold vget vset; apply Vector.ext; intro j hj; simp only [Vector.getElem_setIfInBounds]; split <;> simp_all

@[simp] theorem vget_replicate (d a : α) {i : Nat} (h : i < n) : vget d (Vector.replicate n a) i = a := by
  simp [vget, h]

theorem vset_beyond (v : Vector α n) {i : Nat} (a : α) (h : n ≤ i) : vset v i a = v := by
  unfold vset; apply Vector.ext; intro j hj; simp only [Vector.getElem_setIfInBounds]; rw [if_neg (by omega)]

theorem vget_beyond (d : α) (v : Vector α n) {i : Nat} (h : n ≤ i) : vget d v i = d := by simp [vget, h]

/-! ### Little-endian -/

@[simp] theorem le_length (k m : Nat) : (le k m).length = k := by
  induction k generalizing m with
  | zero => rfl
  | succ k ih => simp [le, ih]

theorem leNat_le (k m : Nat) : leNat (le k m) = m % 256 ^ k := by
  induction k generalizing m with
  | zero => simp [le, leNat, Nat.mod_one]
  | succ k ih =>
    have h : m % 256 ^ (k + 1) = m % 256 + 256 * (m / 256 % 256 ^ k) := by rw [pow_succ', Nat.mod_mul]
    rw [le, leNat, ih, BitVec.toNat_ofNat, h]

theorem leNat_lt (b : Bytes) : leNat b < 256 ^ b.length := by
  induction b with
  | nil => simp [leNat]
  | cons x b ih => have := x.isLt; simp only [leNat, List.length_cons, pow_succ']; omega

theorem le_leNat (b : Bytes) : le b.length (leNat b) = b := by
  induction b with
  | nil => rfl
  | cons x b ih =>
    have hx := x.isLt
    simp only [List.length_cons, le, leNat]
    rw [show (x.toNat + 256 * leNat b) / 256 = leNat b by omega, ih]
    congr 1
    apply BitVec.eq_of_toNat_eq
    rw [BitVec.toNat_ofNat]; omega

/-- Byte strings of one length with one value are equal. -/
theorem leNat_inj {a b : Bytes} (hl : a.length = b.length) (h : leNat a = leNat b) : a = b := by
  rw [← le_leNat a, ← le_leNat b, hl, h]

@[simp] theorem zeros_length (k : Nat) : (zeros k).length = k := by simp [zeros]

@[simp] theorem w16_length (x : BitVec 16) : (w16 x).length = 2 := le_length _ _

@[simp] theorem w32_length (x : W32) : (w32 x).length = 4 := le_length _ _

@[simp] theorem w64_length (x : W64) : (w64 x).length = 8 := le_length _ _

/-! ### Slices and fields -/

@[simp] theorem slice_length (b : Bytes) (o k : Nat) : (slice b o k).length = k := by
  simp only [slice, List.length_append, List.length_take, List.length_drop, zeros_length]; omega

/-- A slice within a string. -/
theorem slice_eq {b : Bytes} {o k : Nat} (h : o + k ≤ b.length) : slice b o k = (b.drop o).take k := by
  have : ((b.drop o).take k).length = k := by simp; omega
  simp [slice, this, zeros]

/-- The slice that a middle part of a concatenation is. -/
theorem slice_append (a b c : Bytes) : slice (a ++ (b ++ c)) a.length b.length = b := by
  rw [slice_eq (by simp)]; simp

theorem slice_all (b : Bytes) : slice b 0 b.length = b := by rw [slice_eq (by simp)]; simp

/-- A field of a concatenation that is written little-endian. -/
theorem fieldAt_le (a c : Bytes) (k m : Nat) (h : m < 256 ^ k) : fieldAt (a ++ (le k m ++ c)) a.length k = m := by
  have := slice_append a (le k m) c
  rw [le_length] at this
  rw [fieldAt, this, leNat_le, Nat.mod_eq_of_lt h]

theorem fieldAt_lt (b : Bytes) (o k : Nat) : fieldAt b o k < 256 ^ k := by
  have := leNat_lt (slice b o k)
  rwa [slice_length] at this

theorem u16_toNat (b : Bytes) (o : Nat) : (u16 b o).toNat = fieldAt b o 2 := by
  rw [u16, BitVec.toNat_ofNat]; exact Nat.mod_eq_of_lt (fieldAt_lt b o 2)

theorem u32_toNat (b : Bytes) (o : Nat) : (u32 b o).toNat = fieldAt b o 4 := by
  rw [u32, BitVec.toNat_ofNat]; exact Nat.mod_eq_of_lt (fieldAt_lt b o 4)

theorem u64_toNat (b : Bytes) (o : Nat) : (u64 b o).toNat = fieldAt b o 8 := by
  rw [u64, BitVec.toNat_ofNat]; exact Nat.mod_eq_of_lt (fieldAt_lt b o 8)

/-! ### Exclusive OR and counters that hold -/

@[simp] theorem xorBytes_length (a b : Bytes) : (xorBytes a b).length = a.length := by
  induction a generalizing b with
  | nil => cases b <;> rfl
  | cons x a ih => cases b with
    | nil => rfl
    | cons y b => simp [xorBytes, ih]

/-- Exclusive OR with the same string twice gives the first back. -/
@[simp] theorem xorBytes_twice (a b : Bytes) : xorBytes (xorBytes a b) b = a := by
  induction a generalizing b with
  | nil => cases b <;> rfl
  | cons x a ih => cases b with
    | nil => rfl
    | cons y b => simp [xorBytes, ih]

/-- A counter that holds at its largest value never falls (R135). -/
theorem satAdd_toNat {w : Nat} (x : BitVec w) (m : Nat) : (satAdd x m).toNat = min (x.toNat + m) (2 ^ w - 1) := by
  have hx := x.isLt
  unfold satAdd
  split
  · rw [BitVec.toNat_ofNat, Nat.mod_eq_of_lt (by assumption)]; omega
  · rw [BitVec.toNat_allOnes]; omega

end Sys2Proof.Machine
end

