-- ==== Sys2Proof/Laws/Crypto.lean ====
section
/-! SUPPORT. What is sealed opens: counter mode is its own inverse, and GCM decryption gives back what was encrypted. -/

namespace Sys2Proof.Machine.Crypto

@[simp] theorem ctrCrypt_length (key nonce b : Bytes) : (ctrCrypt key nonce b).length = b.length := by simp [ctrCrypt]

@[simp] theorem ctrCrypt_twice (key nonce b : Bytes) : ctrCrypt key nonce (ctrCrypt key nonce b) = b := by
  simp only [ctrCrypt, xorBytes_length, xorBytes_twice]

theorem be_length (k n : Nat) : (be k n).length = k := by simp [be]

@[simp] theorem gcmTag_length (key nonce aad ct : Bytes) : (gcmTag key nonce aad ct).length = 16 := by
  simp [gcmTag, ghash, be_length]

/-- GCM decryption under the same key, nonce and additional data gives the plaintext back. -/
@[simp] theorem gcmOpen_gcmSeal (key nonce aad plain : Bytes) :
    gcmOpen key nonce aad (gcmSeal key nonce aad plain).1 (gcmSeal key nonce aad plain).2 = some plain := by
  simp [gcmOpen, gcmSeal]

end Sys2Proof.Machine.Crypto
end

