-- ==== Sys2Proof/Laws/State.lean ====
section
/-! SUPPORT. What each update of the state changes and what it leaves: one lemma for each update and field. -/

namespace Sys2Proof.Machine

/-! ### Replacing a session -/

@[simp] theorem State.setSession_pending (s : State) (i : Nat) (x : Session) : (s.setSession i x).pending = s.pending := rfl

@[simp] theorem State.setSession_time (s : State) (i : Nat) (x : Session) : (s.setSession i x).time = s.time := rfl

@[simp] theorem State.setSession_host (s : State) (i : Nat) (x : Session) : (s.setSession i x).host = s.host := rfl

@[simp] theorem State.setSession_mailboxes (s : State) (i : Nat) (x : Session) : (s.setSession i x).mailboxes = s.mailboxes := rfl

@[simp] theorem State.setSession_submitNo (s : State) (i : Nat) (x : Session) : (s.setSession i x).submitNo = s.submitNo := rfl

@[simp] theorem State.setSession_modulePend (s : State) (i : Nat) (x : Session) : (s.setSession i x).modulePend = s.modulePend := rfl

@[simp] theorem State.setSession_statusSeq (s : State) (i : Nat) (x : Session) : (s.setSession i x).statusSeq = s.statusSeq := rfl

@[simp] theorem State.setSession_shown (s : State) (i : Nat) (x : Session) : (s.setSession i x).shown = s.shown := rfl

@[simp] theorem State.setSession_written (s : State) (i : Nat) (x : Session) : (s.setSession i x).written = s.written := rfl

@[simp] theorem State.setSession_fw (s : State) (i : Nat) (x : Session) : (s.setSession i x).fw = s.fw := rfl

@[simp] theorem State.setSession_aon (s : State) (i : Nat) (x : Session) : (s.setSession i x).aon = s.aon := rfl

@[simp] theorem State.setSession_fuses (s : State) (i : Nat) (x : Session) : (s.setSession i x).fuses = s.fuses := rfl

@[simp] theorem State.setSession_options (s : State) (i : Nat) (x : Session) : (s.setSession i x).options = s.options := rfl

@[simp] theorem State.setSession_lc (s : State) (i : Nat) (x : Session) : (s.setSession i x).lc = s.lc := rfl

@[simp] theorem State.setSession_resets (s : State) (i : Nat) (x : Session) : (s.setSession i x).resets = s.resets := rfl

@[simp] theorem State.setSession_power (s : State) (i : Nat) (x : Session) : (s.setSession i x).power = s.power := rfl

@[simp] theorem State.setSession_watch (s : State) (i : Nat) (x : Session) : (s.setSession i x).watch = s.watch := rfl

@[simp] theorem State.setSession_slots (s : State) (i : Nat) (x : Session) : (s.setSession i x).slots = s.slots := rfl

@[simp] theorem State.setSession_tallies (s : State) (i : Nat) (x : Session) : (s.setSession i x).tallies = s.tallies := rfl

@[simp] theorem State.setSession_dies (s : State) (i : Nat) (x : Session) : (s.setSession i x).dies = s.dies := rfl

@[simp] theorem State.setSession_channels (s : State) (i : Nat) (x : Session) : (s.setSession i x).channels = s.channels := rfl

@[simp] theorem State.setSession_blank (s : State) (i : Nat) (x : Session) : (s.setSession i x).blank = s.blank := rfl

@[simp] theorem State.setSession_far (s : State) (i : Nat) (x : Session) : (s.setSession i x).far = s.far := rfl

@[simp] theorem State.setSession_ports (s : State) (i : Nat) (x : Session) : (s.setSession i x).ports = s.ports := rfl

@[simp] theorem State.setSession_lanes (s : State) (i : Nat) (x : Session) : (s.setSession i x).lanes = s.lanes := rfl

@[simp] theorem State.setSession_adders (s : State) (i : Nat) (x : Session) : (s.setSession i x).adders = s.adders := rfl

@[simp] theorem State.setSession_perf (s : State) (i : Nat) (x : Session) : (s.setSession i x).perf = s.perf := rfl

@[simp] theorem State.setSession_mgmtReply (s : State) (i : Nat) (x : Session) : (s.setSession i x).mgmtReply = s.mgmtReply := rfl

@[simp] theorem State.setSession_draws (s : State) (i : Nat) (x : Session) : (s.setSession i x).draws = s.draws := rfl

/-! ### Changing a session -/

@[simp] theorem State.onSession_pending (s : State) (i : Nat) (f : Session → Session) : (s.onSession i f).pending = s.pending := rfl

@[simp] theorem State.onSession_time (s : State) (i : Nat) (f : Session → Session) : (s.onSession i f).time = s.time := rfl

@[simp] theorem State.onSession_host (s : State) (i : Nat) (f : Session → Session) : (s.onSession i f).host = s.host := rfl

@[simp] theorem State.onSession_mailboxes (s : State) (i : Nat) (f : Session → Session) : (s.onSession i f).mailboxes = s.mailboxes := rfl

@[simp] theorem State.onSession_submitNo (s : State) (i : Nat) (f : Session → Session) : (s.onSession i f).submitNo = s.submitNo := rfl

@[simp] theorem State.onSession_modulePend (s : State) (i : Nat) (f : Session → Session) : (s.onSession i f).modulePend = s.modulePend := rfl

@[simp] theorem State.onSession_statusSeq (s : State) (i : Nat) (f : Session → Session) : (s.onSession i f).statusSeq = s.statusSeq := rfl

@[simp] theorem State.onSession_shown (s : State) (i : Nat) (f : Session → Session) : (s.onSession i f).shown = s.shown := rfl

@[simp] theorem State.onSession_written (s : State) (i : Nat) (f : Session → Session) : (s.onSession i f).written = s.written := rfl

@[simp] theorem State.onSession_fw (s : State) (i : Nat) (f : Session → Session) : (s.onSession i f).fw = s.fw := rfl

@[simp] theorem State.onSession_aon (s : State) (i : Nat) (f : Session → Session) : (s.onSession i f).aon = s.aon := rfl

@[simp] theorem State.onSession_fuses (s : State) (i : Nat) (f : Session → Session) : (s.onSession i f).fuses = s.fuses := rfl

@[simp] theorem State.onSession_options (s : State) (i : Nat) (f : Session → Session) : (s.onSession i f).options = s.options := rfl

@[simp] theorem State.onSession_lc (s : State) (i : Nat) (f : Session → Session) : (s.onSession i f).lc = s.lc := rfl

@[simp] theorem State.onSession_resets (s : State) (i : Nat) (f : Session → Session) : (s.onSession i f).resets = s.resets := rfl

@[simp] theorem State.onSession_power (s : State) (i : Nat) (f : Session → Session) : (s.onSession i f).power = s.power := rfl

@[simp] theorem State.onSession_watch (s : State) (i : Nat) (f : Session → Session) : (s.onSession i f).watch = s.watch := rfl

@[simp] theorem State.onSession_slots (s : State) (i : Nat) (f : Session → Session) : (s.onSession i f).slots = s.slots := rfl

@[simp] theorem State.onSession_tallies (s : State) (i : Nat) (f : Session → Session) : (s.onSession i f).tallies = s.tallies := rfl

@[simp] theorem State.onSession_dies (s : State) (i : Nat) (f : Session → Session) : (s.onSession i f).dies = s.dies := rfl

@[simp] theorem State.onSession_channels (s : State) (i : Nat) (f : Session → Session) : (s.onSession i f).channels = s.channels := rfl

@[simp] theorem State.onSession_blank (s : State) (i : Nat) (f : Session → Session) : (s.onSession i f).blank = s.blank := rfl

@[simp] theorem State.onSession_far (s : State) (i : Nat) (f : Session → Session) : (s.onSession i f).far = s.far := rfl

@[simp] theorem State.onSession_ports (s : State) (i : Nat) (f : Session → Session) : (s.onSession i f).ports = s.ports := rfl

@[simp] theorem State.onSession_lanes (s : State) (i : Nat) (f : Session → Session) : (s.onSession i f).lanes = s.lanes := rfl

@[simp] theorem State.onSession_adders (s : State) (i : Nat) (f : Session → Session) : (s.onSession i f).adders = s.adders := rfl

@[simp] theorem State.onSession_perf (s : State) (i : Nat) (f : Session → Session) : (s.onSession i f).perf = s.perf := rfl

@[simp] theorem State.onSession_mgmtReply (s : State) (i : Nat) (f : Session → Session) : (s.onSession i f).mgmtReply = s.mgmtReply := rfl

@[simp] theorem State.onSession_draws (s : State) (i : Nat) (f : Session → Session) : (s.onSession i f).draws = s.draws := rfl

/-! ### Changing a memory record -/

@[simp] theorem State.onMem_pending (s : State) (i : Nat) (f : MemRec → MemRec) : (s.onMem i f).pending = s.pending := rfl

@[simp] theorem State.onMem_time (s : State) (i : Nat) (f : MemRec → MemRec) : (s.onMem i f).time = s.time := rfl

@[simp] theorem State.onMem_host (s : State) (i : Nat) (f : MemRec → MemRec) : (s.onMem i f).host = s.host := rfl

@[simp] theorem State.onMem_mailboxes (s : State) (i : Nat) (f : MemRec → MemRec) : (s.onMem i f).mailboxes = s.mailboxes := rfl

@[simp] theorem State.onMem_submitNo (s : State) (i : Nat) (f : MemRec → MemRec) : (s.onMem i f).submitNo = s.submitNo := rfl

@[simp] theorem State.onMem_modulePend (s : State) (i : Nat) (f : MemRec → MemRec) : (s.onMem i f).modulePend = s.modulePend := rfl

@[simp] theorem State.onMem_statusSeq (s : State) (i : Nat) (f : MemRec → MemRec) : (s.onMem i f).statusSeq = s.statusSeq := rfl

@[simp] theorem State.onMem_shown (s : State) (i : Nat) (f : MemRec → MemRec) : (s.onMem i f).shown = s.shown := rfl

@[simp] theorem State.onMem_written (s : State) (i : Nat) (f : MemRec → MemRec) : (s.onMem i f).written = s.written := rfl

@[simp] theorem State.onMem_fw (s : State) (i : Nat) (f : MemRec → MemRec) : (s.onMem i f).fw = s.fw := rfl

@[simp] theorem State.onMem_aon (s : State) (i : Nat) (f : MemRec → MemRec) : (s.onMem i f).aon = s.aon := rfl

@[simp] theorem State.onMem_fuses (s : State) (i : Nat) (f : MemRec → MemRec) : (s.onMem i f).fuses = s.fuses := rfl

@[simp] theorem State.onMem_options (s : State) (i : Nat) (f : MemRec → MemRec) : (s.onMem i f).options = s.options := rfl

@[simp] theorem State.onMem_lc (s : State) (i : Nat) (f : MemRec → MemRec) : (s.onMem i f).lc = s.lc := rfl

@[simp] theorem State.onMem_resets (s : State) (i : Nat) (f : MemRec → MemRec) : (s.onMem i f).resets = s.resets := rfl

@[simp] theorem State.onMem_power (s : State) (i : Nat) (f : MemRec → MemRec) : (s.onMem i f).power = s.power := rfl

@[simp] theorem State.onMem_watch (s : State) (i : Nat) (f : MemRec → MemRec) : (s.onMem i f).watch = s.watch := rfl

@[simp] theorem State.onMem_slots (s : State) (i : Nat) (f : MemRec → MemRec) : (s.onMem i f).slots = s.slots := rfl

@[simp] theorem State.onMem_tallies (s : State) (i : Nat) (f : MemRec → MemRec) : (s.onMem i f).tallies = s.tallies := rfl

@[simp] theorem State.onMem_dies (s : State) (i : Nat) (f : MemRec → MemRec) : (s.onMem i f).dies = s.dies := rfl

@[simp] theorem State.onMem_channels (s : State) (i : Nat) (f : MemRec → MemRec) : (s.onMem i f).channels = s.channels := rfl

@[simp] theorem State.onMem_blank (s : State) (i : Nat) (f : MemRec → MemRec) : (s.onMem i f).blank = s.blank := rfl

@[simp] theorem State.onMem_far (s : State) (i : Nat) (f : MemRec → MemRec) : (s.onMem i f).far = s.far := rfl

@[simp] theorem State.onMem_ports (s : State) (i : Nat) (f : MemRec → MemRec) : (s.onMem i f).ports = s.ports := rfl

@[simp] theorem State.onMem_lanes (s : State) (i : Nat) (f : MemRec → MemRec) : (s.onMem i f).lanes = s.lanes := rfl

@[simp] theorem State.onMem_adders (s : State) (i : Nat) (f : MemRec → MemRec) : (s.onMem i f).adders = s.adders := rfl

@[simp] theorem State.onMem_perf (s : State) (i : Nat) (f : MemRec → MemRec) : (s.onMem i f).perf = s.perf := rfl

@[simp] theorem State.onMem_mgmtReply (s : State) (i : Nat) (f : MemRec → MemRec) : (s.onMem i f).mgmtReply = s.mgmtReply := rfl

@[simp] theorem State.onMem_draws (s : State) (i : Nat) (f : MemRec → MemRec) : (s.onMem i f).draws = s.draws := rfl

/-! ### Replacing a tally -/

@[simp] theorem State.setTally_pending (s : State) (n : Nat) (t : Tally) : (s.setTally n t).pending = s.pending := rfl

@[simp] theorem State.setTally_time (s : State) (n : Nat) (t : Tally) : (s.setTally n t).time = s.time := rfl

@[simp] theorem State.setTally_host (s : State) (n : Nat) (t : Tally) : (s.setTally n t).host = s.host := rfl

@[simp] theorem State.setTally_mailboxes (s : State) (n : Nat) (t : Tally) : (s.setTally n t).mailboxes = s.mailboxes := rfl

@[simp] theorem State.setTally_submitNo (s : State) (n : Nat) (t : Tally) : (s.setTally n t).submitNo = s.submitNo := rfl

@[simp] theorem State.setTally_modulePend (s : State) (n : Nat) (t : Tally) : (s.setTally n t).modulePend = s.modulePend := rfl

@[simp] theorem State.setTally_statusSeq (s : State) (n : Nat) (t : Tally) : (s.setTally n t).statusSeq = s.statusSeq := rfl

@[simp] theorem State.setTally_shown (s : State) (n : Nat) (t : Tally) : (s.setTally n t).shown = s.shown := rfl

@[simp] theorem State.setTally_written (s : State) (n : Nat) (t : Tally) : (s.setTally n t).written = s.written := rfl

@[simp] theorem State.setTally_fw (s : State) (n : Nat) (t : Tally) : (s.setTally n t).fw = s.fw := rfl

@[simp] theorem State.setTally_aon (s : State) (n : Nat) (t : Tally) : (s.setTally n t).aon = s.aon := rfl

@[simp] theorem State.setTally_fuses (s : State) (n : Nat) (t : Tally) : (s.setTally n t).fuses = s.fuses := rfl

@[simp] theorem State.setTally_options (s : State) (n : Nat) (t : Tally) : (s.setTally n t).options = s.options := rfl

@[simp] theorem State.setTally_lc (s : State) (n : Nat) (t : Tally) : (s.setTally n t).lc = s.lc := rfl

@[simp] theorem State.setTally_resets (s : State) (n : Nat) (t : Tally) : (s.setTally n t).resets = s.resets := rfl

@[simp] theorem State.setTally_power (s : State) (n : Nat) (t : Tally) : (s.setTally n t).power = s.power := rfl

@[simp] theorem State.setTally_watch (s : State) (n : Nat) (t : Tally) : (s.setTally n t).watch = s.watch := rfl

@[simp] theorem State.setTally_slots (s : State) (n : Nat) (t : Tally) : (s.setTally n t).slots = s.slots := rfl

@[simp] theorem State.setTally_dies (s : State) (n : Nat) (t : Tally) : (s.setTally n t).dies = s.dies := rfl

@[simp] theorem State.setTally_channels (s : State) (n : Nat) (t : Tally) : (s.setTally n t).channels = s.channels := rfl

@[simp] theorem State.setTally_blank (s : State) (n : Nat) (t : Tally) : (s.setTally n t).blank = s.blank := rfl

@[simp] theorem State.setTally_far (s : State) (n : Nat) (t : Tally) : (s.setTally n t).far = s.far := rfl

@[simp] theorem State.setTally_ports (s : State) (n : Nat) (t : Tally) : (s.setTally n t).ports = s.ports := rfl

@[simp] theorem State.setTally_lanes (s : State) (n : Nat) (t : Tally) : (s.setTally n t).lanes = s.lanes := rfl

@[simp] theorem State.setTally_adders (s : State) (n : Nat) (t : Tally) : (s.setTally n t).adders = s.adders := rfl

@[simp] theorem State.setTally_sessions (s : State) (n : Nat) (t : Tally) : (s.setTally n t).sessions = s.sessions := rfl

@[simp] theorem State.setTally_perf (s : State) (n : Nat) (t : Tally) : (s.setTally n t).perf = s.perf := rfl

@[simp] theorem State.setTally_mgmtReply (s : State) (n : Nat) (t : Tally) : (s.setTally n t).mgmtReply = s.mgmtReply := rfl

@[simp] theorem State.setTally_draws (s : State) (n : Nat) (t : Tally) : (s.setTally n t).draws = s.draws := rfl

/-! ### Adding to a tally -/

@[simp] theorem State.tallyAdd_pending (s : State) (n : Nat) (v : W32) : (s.tallyAdd n v).pending = s.pending := rfl

@[simp] theorem State.tallyAdd_time (s : State) (n : Nat) (v : W32) : (s.tallyAdd n v).time = s.time := rfl

@[simp] theorem State.tallyAdd_host (s : State) (n : Nat) (v : W32) : (s.tallyAdd n v).host = s.host := rfl

@[simp] theorem State.tallyAdd_mailboxes (s : State) (n : Nat) (v : W32) : (s.tallyAdd n v).mailboxes = s.mailboxes := rfl

@[simp] theorem State.tallyAdd_submitNo (s : State) (n : Nat) (v : W32) : (s.tallyAdd n v).submitNo = s.submitNo := rfl

@[simp] theorem State.tallyAdd_modulePend (s : State) (n : Nat) (v : W32) : (s.tallyAdd n v).modulePend = s.modulePend := rfl

@[simp] theorem State.tallyAdd_statusSeq (s : State) (n : Nat) (v : W32) : (s.tallyAdd n v).statusSeq = s.statusSeq := rfl

@[simp] theorem State.tallyAdd_shown (s : State) (n : Nat) (v : W32) : (s.tallyAdd n v).shown = s.shown := rfl

@[simp] theorem State.tallyAdd_written (s : State) (n : Nat) (v : W32) : (s.tallyAdd n v).written = s.written := rfl

@[simp] theorem State.tallyAdd_fw (s : State) (n : Nat) (v : W32) : (s.tallyAdd n v).fw = s.fw := rfl

@[simp] theorem State.tallyAdd_aon (s : State) (n : Nat) (v : W32) : (s.tallyAdd n v).aon = s.aon := rfl

@[simp] theorem State.tallyAdd_fuses (s : State) (n : Nat) (v : W32) : (s.tallyAdd n v).fuses = s.fuses := rfl

@[simp] theorem State.tallyAdd_options (s : State) (n : Nat) (v : W32) : (s.tallyAdd n v).options = s.options := rfl

@[simp] theorem State.tallyAdd_lc (s : State) (n : Nat) (v : W32) : (s.tallyAdd n v).lc = s.lc := rfl

@[simp] theorem State.tallyAdd_resets (s : State) (n : Nat) (v : W32) : (s.tallyAdd n v).resets = s.resets := rfl

@[simp] theorem State.tallyAdd_power (s : State) (n : Nat) (v : W32) : (s.tallyAdd n v).power = s.power := rfl

@[simp] theorem State.tallyAdd_watch (s : State) (n : Nat) (v : W32) : (s.tallyAdd n v).watch = s.watch := rfl

@[simp] theorem State.tallyAdd_slots (s : State) (n : Nat) (v : W32) : (s.tallyAdd n v).slots = s.slots := rfl

@[simp] theorem State.tallyAdd_dies (s : State) (n : Nat) (v : W32) : (s.tallyAdd n v).dies = s.dies := rfl

@[simp] theorem State.tallyAdd_channels (s : State) (n : Nat) (v : W32) : (s.tallyAdd n v).channels = s.channels := rfl

@[simp] theorem State.tallyAdd_blank (s : State) (n : Nat) (v : W32) : (s.tallyAdd n v).blank = s.blank := rfl

@[simp] theorem State.tallyAdd_far (s : State) (n : Nat) (v : W32) : (s.tallyAdd n v).far = s.far := rfl

@[simp] theorem State.tallyAdd_ports (s : State) (n : Nat) (v : W32) : (s.tallyAdd n v).ports = s.ports := rfl

@[simp] theorem State.tallyAdd_lanes (s : State) (n : Nat) (v : W32) : (s.tallyAdd n v).lanes = s.lanes := rfl

@[simp] theorem State.tallyAdd_adders (s : State) (n : Nat) (v : W32) : (s.tallyAdd n v).adders = s.adders := rfl

@[simp] theorem State.tallyAdd_sessions (s : State) (n : Nat) (v : W32) : (s.tallyAdd n v).sessions = s.sessions := rfl

@[simp] theorem State.tallyAdd_perf (s : State) (n : Nat) (v : W32) : (s.tallyAdd n v).perf = s.perf := rfl

@[simp] theorem State.tallyAdd_mgmtReply (s : State) (n : Nat) (v : W32) : (s.tallyAdd n v).mgmtReply = s.mgmtReply := rfl

@[simp] theorem State.tallyAdd_draws (s : State) (n : Nat) (v : W32) : (s.tallyAdd n v).draws = s.draws := rfl

/-! ### Replacing a port -/

@[simp] theorem State.setPort_pending (s : State) (p : Nat) (q : Port) : (s.setPort p q).pending = s.pending := rfl

@[simp] theorem State.setPort_time (s : State) (p : Nat) (q : Port) : (s.setPort p q).time = s.time := rfl

@[simp] theorem State.setPort_host (s : State) (p : Nat) (q : Port) : (s.setPort p q).host = s.host := rfl

@[simp] theorem State.setPort_mailboxes (s : State) (p : Nat) (q : Port) : (s.setPort p q).mailboxes = s.mailboxes := rfl

@[simp] theorem State.setPort_submitNo (s : State) (p : Nat) (q : Port) : (s.setPort p q).submitNo = s.submitNo := rfl

@[simp] theorem State.setPort_modulePend (s : State) (p : Nat) (q : Port) : (s.setPort p q).modulePend = s.modulePend := rfl

@[simp] theorem State.setPort_statusSeq (s : State) (p : Nat) (q : Port) : (s.setPort p q).statusSeq = s.statusSeq := rfl

@[simp] theorem State.setPort_shown (s : State) (p : Nat) (q : Port) : (s.setPort p q).shown = s.shown := rfl

@[simp] theorem State.setPort_written (s : State) (p : Nat) (q : Port) : (s.setPort p q).written = s.written := rfl

@[simp] theorem State.setPort_fw (s : State) (p : Nat) (q : Port) : (s.setPort p q).fw = s.fw := rfl

@[simp] theorem State.setPort_aon (s : State) (p : Nat) (q : Port) : (s.setPort p q).aon = s.aon := rfl

@[simp] theorem State.setPort_fuses (s : State) (p : Nat) (q : Port) : (s.setPort p q).fuses = s.fuses := rfl

@[simp] theorem State.setPort_options (s : State) (p : Nat) (q : Port) : (s.setPort p q).options = s.options := rfl

@[simp] theorem State.setPort_lc (s : State) (p : Nat) (q : Port) : (s.setPort p q).lc = s.lc := rfl

@[simp] theorem State.setPort_resets (s : State) (p : Nat) (q : Port) : (s.setPort p q).resets = s.resets := rfl

@[simp] theorem State.setPort_power (s : State) (p : Nat) (q : Port) : (s.setPort p q).power = s.power := rfl

@[simp] theorem State.setPort_watch (s : State) (p : Nat) (q : Port) : (s.setPort p q).watch = s.watch := rfl

@[simp] theorem State.setPort_slots (s : State) (p : Nat) (q : Port) : (s.setPort p q).slots = s.slots := rfl

@[simp] theorem State.setPort_tallies (s : State) (p : Nat) (q : Port) : (s.setPort p q).tallies = s.tallies := rfl

@[simp] theorem State.setPort_dies (s : State) (p : Nat) (q : Port) : (s.setPort p q).dies = s.dies := rfl

@[simp] theorem State.setPort_channels (s : State) (p : Nat) (q : Port) : (s.setPort p q).channels = s.channels := rfl

@[simp] theorem State.setPort_blank (s : State) (p : Nat) (q : Port) : (s.setPort p q).blank = s.blank := rfl

@[simp] theorem State.setPort_far (s : State) (p : Nat) (q : Port) : (s.setPort p q).far = s.far := rfl

@[simp] theorem State.setPort_lanes (s : State) (p : Nat) (q : Port) : (s.setPort p q).lanes = s.lanes := rfl

@[simp] theorem State.setPort_adders (s : State) (p : Nat) (q : Port) : (s.setPort p q).adders = s.adders := rfl

@[simp] theorem State.setPort_sessions (s : State) (p : Nat) (q : Port) : (s.setPort p q).sessions = s.sessions := rfl

@[simp] theorem State.setPort_perf (s : State) (p : Nat) (q : Port) : (s.setPort p q).perf = s.perf := rfl

@[simp] theorem State.setPort_mgmtReply (s : State) (p : Nat) (q : Port) : (s.setPort p q).mgmtReply = s.mgmtReply := rfl

@[simp] theorem State.setPort_draws (s : State) (p : Nat) (q : Port) : (s.setPort p q).draws = s.draws := rfl

/-! ### Changing a port -/

@[simp] theorem State.onPort_pending (s : State) (p : Nat) (f : Port → Port) : (s.onPort p f).pending = s.pending := rfl

@[simp] theorem State.onPort_time (s : State) (p : Nat) (f : Port → Port) : (s.onPort p f).time = s.time := rfl

@[simp] theorem State.onPort_host (s : State) (p : Nat) (f : Port → Port) : (s.onPort p f).host = s.host := rfl

@[simp] theorem State.onPort_mailboxes (s : State) (p : Nat) (f : Port → Port) : (s.onPort p f).mailboxes = s.mailboxes := rfl

@[simp] theorem State.onPort_submitNo (s : State) (p : Nat) (f : Port → Port) : (s.onPort p f).submitNo = s.submitNo := rfl

@[simp] theorem State.onPort_modulePend (s : State) (p : Nat) (f : Port → Port) : (s.onPort p f).modulePend = s.modulePend := rfl

@[simp] theorem State.onPort_statusSeq (s : State) (p : Nat) (f : Port → Port) : (s.onPort p f).statusSeq = s.statusSeq := rfl

@[simp] theorem State.onPort_shown (s : State) (p : Nat) (f : Port → Port) : (s.onPort p f).shown = s.shown := rfl

@[simp] theorem State.onPort_written (s : State) (p : Nat) (f : Port → Port) : (s.onPort p f).written = s.written := rfl

@[simp] theorem State.onPort_fw (s : State) (p : Nat) (f : Port → Port) : (s.onPort p f).fw = s.fw := rfl

@[simp] theorem State.onPort_aon (s : State) (p : Nat) (f : Port → Port) : (s.onPort p f).aon = s.aon := rfl

@[simp] theorem State.onPort_fuses (s : State) (p : Nat) (f : Port → Port) : (s.onPort p f).fuses = s.fuses := rfl

@[simp] theorem State.onPort_options (s : State) (p : Nat) (f : Port → Port) : (s.onPort p f).options = s.options := rfl

@[simp] theorem State.onPort_lc (s : State) (p : Nat) (f : Port → Port) : (s.onPort p f).lc = s.lc := rfl

@[simp] theorem State.onPort_resets (s : State) (p : Nat) (f : Port → Port) : (s.onPort p f).resets = s.resets := rfl

@[simp] theorem State.onPort_power (s : State) (p : Nat) (f : Port → Port) : (s.onPort p f).power = s.power := rfl

@[simp] theorem State.onPort_watch (s : State) (p : Nat) (f : Port → Port) : (s.onPort p f).watch = s.watch := rfl

@[simp] theorem State.onPort_slots (s : State) (p : Nat) (f : Port → Port) : (s.onPort p f).slots = s.slots := rfl

@[simp] theorem State.onPort_tallies (s : State) (p : Nat) (f : Port → Port) : (s.onPort p f).tallies = s.tallies := rfl

@[simp] theorem State.onPort_dies (s : State) (p : Nat) (f : Port → Port) : (s.onPort p f).dies = s.dies := rfl

@[simp] theorem State.onPort_channels (s : State) (p : Nat) (f : Port → Port) : (s.onPort p f).channels = s.channels := rfl

@[simp] theorem State.onPort_blank (s : State) (p : Nat) (f : Port → Port) : (s.onPort p f).blank = s.blank := rfl

@[simp] theorem State.onPort_far (s : State) (p : Nat) (f : Port → Port) : (s.onPort p f).far = s.far := rfl

@[simp] theorem State.onPort_lanes (s : State) (p : Nat) (f : Port → Port) : (s.onPort p f).lanes = s.lanes := rfl

@[simp] theorem State.onPort_adders (s : State) (p : Nat) (f : Port → Port) : (s.onPort p f).adders = s.adders := rfl

@[simp] theorem State.onPort_sessions (s : State) (p : Nat) (f : Port → Port) : (s.onPort p f).sessions = s.sessions := rfl

@[simp] theorem State.onPort_perf (s : State) (p : Nat) (f : Port → Port) : (s.onPort p f).perf = s.perf := rfl

@[simp] theorem State.onPort_mgmtReply (s : State) (p : Nat) (f : Port → Port) : (s.onPort p f).mgmtReply = s.mgmtReply := rfl

@[simp] theorem State.onPort_draws (s : State) (p : Nat) (f : Port → Port) : (s.onPort p f).draws = s.draws := rfl

/-! ### Replacing a mailbox -/

@[simp] theorem State.setMailbox_pending (s : State) (n : Nat) (m : Mailbox) : (s.setMailbox n m).pending = s.pending := rfl

@[simp] theorem State.setMailbox_time (s : State) (n : Nat) (m : Mailbox) : (s.setMailbox n m).time = s.time := rfl

@[simp] theorem State.setMailbox_host (s : State) (n : Nat) (m : Mailbox) : (s.setMailbox n m).host = s.host := rfl

@[simp] theorem State.setMailbox_submitNo (s : State) (n : Nat) (m : Mailbox) : (s.setMailbox n m).submitNo = s.submitNo := rfl

@[simp] theorem State.setMailbox_modulePend (s : State) (n : Nat) (m : Mailbox) : (s.setMailbox n m).modulePend = s.modulePend := rfl

@[simp] theorem State.setMailbox_statusSeq (s : State) (n : Nat) (m : Mailbox) : (s.setMailbox n m).statusSeq = s.statusSeq := rfl

@[simp] theorem State.setMailbox_shown (s : State) (n : Nat) (m : Mailbox) : (s.setMailbox n m).shown = s.shown := rfl

@[simp] theorem State.setMailbox_written (s : State) (n : Nat) (m : Mailbox) : (s.setMailbox n m).written = s.written := rfl

@[simp] theorem State.setMailbox_fw (s : State) (n : Nat) (m : Mailbox) : (s.setMailbox n m).fw = s.fw := rfl

@[simp] theorem State.setMailbox_aon (s : State) (n : Nat) (m : Mailbox) : (s.setMailbox n m).aon = s.aon := rfl

@[simp] theorem State.setMailbox_fuses (s : State) (n : Nat) (m : Mailbox) : (s.setMailbox n m).fuses = s.fuses := rfl

@[simp] theorem State.setMailbox_options (s : State) (n : Nat) (m : Mailbox) : (s.setMailbox n m).options = s.options := rfl

@[simp] theorem State.setMailbox_lc (s : State) (n : Nat) (m : Mailbox) : (s.setMailbox n m).lc = s.lc := rfl

@[simp] theorem State.setMailbox_resets (s : State) (n : Nat) (m : Mailbox) : (s.setMailbox n m).resets = s.resets := rfl

@[simp] theorem State.setMailbox_power (s : State) (n : Nat) (m : Mailbox) : (s.setMailbox n m).power = s.power := rfl

@[simp] theorem State.setMailbox_watch (s : State) (n : Nat) (m : Mailbox) : (s.setMailbox n m).watch = s.watch := rfl

@[simp] theorem State.setMailbox_slots (s : State) (n : Nat) (m : Mailbox) : (s.setMailbox n m).slots = s.slots := rfl

@[simp] theorem State.setMailbox_tallies (s : State) (n : Nat) (m : Mailbox) : (s.setMailbox n m).tallies = s.tallies := rfl

@[simp] theorem State.setMailbox_dies (s : State) (n : Nat) (m : Mailbox) : (s.setMailbox n m).dies = s.dies := rfl

@[simp] theorem State.setMailbox_channels (s : State) (n : Nat) (m : Mailbox) : (s.setMailbox n m).channels = s.channels := rfl

@[simp] theorem State.setMailbox_blank (s : State) (n : Nat) (m : Mailbox) : (s.setMailbox n m).blank = s.blank := rfl

@[simp] theorem State.setMailbox_far (s : State) (n : Nat) (m : Mailbox) : (s.setMailbox n m).far = s.far := rfl

@[simp] theorem State.setMailbox_ports (s : State) (n : Nat) (m : Mailbox) : (s.setMailbox n m).ports = s.ports := rfl

@[simp] theorem State.setMailbox_lanes (s : State) (n : Nat) (m : Mailbox) : (s.setMailbox n m).lanes = s.lanes := rfl

@[simp] theorem State.setMailbox_adders (s : State) (n : Nat) (m : Mailbox) : (s.setMailbox n m).adders = s.adders := rfl

@[simp] theorem State.setMailbox_sessions (s : State) (n : Nat) (m : Mailbox) : (s.setMailbox n m).sessions = s.sessions := rfl

@[simp] theorem State.setMailbox_perf (s : State) (n : Nat) (m : Mailbox) : (s.setMailbox n m).perf = s.perf := rfl

@[simp] theorem State.setMailbox_mgmtReply (s : State) (n : Nat) (m : Mailbox) : (s.setMailbox n m).mgmtReply = s.mgmtReply := rfl

@[simp] theorem State.setMailbox_draws (s : State) (n : Nat) (m : Mailbox) : (s.setMailbox n m).draws = s.draws := rfl

/-! ### Completing a mailbox -/

@[simp] theorem State.done_pending (s : State) (mb : Nat) (st : Status) (d : Nat) (b : Bytes) : (s.done mb st d b).pending = s.pending := rfl

@[simp] theorem State.done_time (s : State) (mb : Nat) (st : Status) (d : Nat) (b : Bytes) : (s.done mb st d b).time = s.time := rfl

@[simp] theorem State.done_host (s : State) (mb : Nat) (st : Status) (d : Nat) (b : Bytes) : (s.done mb st d b).host = s.host := rfl

@[simp] theorem State.done_submitNo (s : State) (mb : Nat) (st : Status) (d : Nat) (b : Bytes) : (s.done mb st d b).submitNo = s.submitNo := rfl

@[simp] theorem State.done_modulePend (s : State) (mb : Nat) (st : Status) (d : Nat) (b : Bytes) : (s.done mb st d b).modulePend = s.modulePend := rfl

@[simp] theorem State.done_statusSeq (s : State) (mb : Nat) (st : Status) (d : Nat) (b : Bytes) : (s.done mb st d b).statusSeq = s.statusSeq := rfl

@[simp] theorem State.done_shown (s : State) (mb : Nat) (st : Status) (d : Nat) (b : Bytes) : (s.done mb st d b).shown = s.shown := rfl

@[simp] theorem State.done_written (s : State) (mb : Nat) (st : Status) (d : Nat) (b : Bytes) : (s.done mb st d b).written = s.written := rfl

@[simp] theorem State.done_fw (s : State) (mb : Nat) (st : Status) (d : Nat) (b : Bytes) : (s.done mb st d b).fw = s.fw := rfl

@[simp] theorem State.done_aon (s : State) (mb : Nat) (st : Status) (d : Nat) (b : Bytes) : (s.done mb st d b).aon = s.aon := rfl

@[simp] theorem State.done_fuses (s : State) (mb : Nat) (st : Status) (d : Nat) (b : Bytes) : (s.done mb st d b).fuses = s.fuses := rfl

@[simp] theorem State.done_options (s : State) (mb : Nat) (st : Status) (d : Nat) (b : Bytes) : (s.done mb st d b).options = s.options := rfl

@[simp] theorem State.done_lc (s : State) (mb : Nat) (st : Status) (d : Nat) (b : Bytes) : (s.done mb st d b).lc = s.lc := rfl

@[simp] theorem State.done_resets (s : State) (mb : Nat) (st : Status) (d : Nat) (b : Bytes) : (s.done mb st d b).resets = s.resets := rfl

@[simp] theorem State.done_watch (s : State) (mb : Nat) (st : Status) (d : Nat) (b : Bytes) : (s.done mb st d b).watch = s.watch := rfl

@[simp] theorem State.done_slots (s : State) (mb : Nat) (st : Status) (d : Nat) (b : Bytes) : (s.done mb st d b).slots = s.slots := rfl

@[simp] theorem State.done_tallies (s : State) (mb : Nat) (st : Status) (d : Nat) (b : Bytes) : (s.done mb st d b).tallies = s.tallies := rfl

@[simp] theorem State.done_dies (s : State) (mb : Nat) (st : Status) (d : Nat) (b : Bytes) : (s.done mb st d b).dies = s.dies := rfl

@[simp] theorem State.done_channels (s : State) (mb : Nat) (st : Status) (d : Nat) (b : Bytes) : (s.done mb st d b).channels = s.channels := rfl

@[simp] theorem State.done_blank (s : State) (mb : Nat) (st : Status) (d : Nat) (b : Bytes) : (s.done mb st d b).blank = s.blank := rfl

@[simp] theorem State.done_far (s : State) (mb : Nat) (st : Status) (d : Nat) (b : Bytes) : (s.done mb st d b).far = s.far := rfl

@[simp] theorem State.done_ports (s : State) (mb : Nat) (st : Status) (d : Nat) (b : Bytes) : (s.done mb st d b).ports = s.ports := rfl

@[simp] theorem State.done_lanes (s : State) (mb : Nat) (st : Status) (d : Nat) (b : Bytes) : (s.done mb st d b).lanes = s.lanes := rfl

@[simp] theorem State.done_adders (s : State) (mb : Nat) (st : Status) (d : Nat) (b : Bytes) : (s.done mb st d b).adders = s.adders := rfl

@[simp] theorem State.done_sessions (s : State) (mb : Nat) (st : Status) (d : Nat) (b : Bytes) : (s.done mb st d b).sessions = s.sessions := rfl

@[simp] theorem State.done_perf (s : State) (mb : Nat) (st : Status) (d : Nat) (b : Bytes) : (s.done mb st d b).perf = s.perf := rfl

@[simp] theorem State.done_mgmtReply (s : State) (mb : Nat) (st : Status) (d : Nat) (b : Bytes) : (s.done mb st d b).mgmtReply = s.mgmtReply := rfl

@[simp] theorem State.done_draws (s : State) (mb : Nat) (st : Status) (d : Nat) (b : Bytes) : (s.done mb st d b).draws = s.draws := rfl

/-! ### Storing in host memory -/

@[simp] theorem State.hostStore_pending (s : State) (a : Nat) (b : Bytes) : (s.hostStore a b).pending = s.pending := rfl

@[simp] theorem State.hostStore_time (s : State) (a : Nat) (b : Bytes) : (s.hostStore a b).time = s.time := rfl

@[simp] theorem State.hostStore_mailboxes (s : State) (a : Nat) (b : Bytes) : (s.hostStore a b).mailboxes = s.mailboxes := rfl

@[simp] theorem State.hostStore_submitNo (s : State) (a : Nat) (b : Bytes) : (s.hostStore a b).submitNo = s.submitNo := rfl

@[simp] theorem State.hostStore_modulePend (s : State) (a : Nat) (b : Bytes) : (s.hostStore a b).modulePend = s.modulePend := rfl

@[simp] theorem State.hostStore_statusSeq (s : State) (a : Nat) (b : Bytes) : (s.hostStore a b).statusSeq = s.statusSeq := rfl

@[simp] theorem State.hostStore_shown (s : State) (a : Nat) (b : Bytes) : (s.hostStore a b).shown = s.shown := rfl

@[simp] theorem State.hostStore_written (s : State) (a : Nat) (b : Bytes) : (s.hostStore a b).written = s.written := rfl

@[simp] theorem State.hostStore_fw (s : State) (a : Nat) (b : Bytes) : (s.hostStore a b).fw = s.fw := rfl

@[simp] theorem State.hostStore_aon (s : State) (a : Nat) (b : Bytes) : (s.hostStore a b).aon = s.aon := rfl

@[simp] theorem State.hostStore_fuses (s : State) (a : Nat) (b : Bytes) : (s.hostStore a b).fuses = s.fuses := rfl

@[simp] theorem State.hostStore_options (s : State) (a : Nat) (b : Bytes) : (s.hostStore a b).options = s.options := rfl

@[simp] theorem State.hostStore_lc (s : State) (a : Nat) (b : Bytes) : (s.hostStore a b).lc = s.lc := rfl

@[simp] theorem State.hostStore_resets (s : State) (a : Nat) (b : Bytes) : (s.hostStore a b).resets = s.resets := rfl

@[simp] theorem State.hostStore_power (s : State) (a : Nat) (b : Bytes) : (s.hostStore a b).power = s.power := rfl

@[simp] theorem State.hostStore_watch (s : State) (a : Nat) (b : Bytes) : (s.hostStore a b).watch = s.watch := rfl

@[simp] theorem State.hostStore_slots (s : State) (a : Nat) (b : Bytes) : (s.hostStore a b).slots = s.slots := rfl

@[simp] theorem State.hostStore_tallies (s : State) (a : Nat) (b : Bytes) : (s.hostStore a b).tallies = s.tallies := rfl

@[simp] theorem State.hostStore_dies (s : State) (a : Nat) (b : Bytes) : (s.hostStore a b).dies = s.dies := rfl

@[simp] theorem State.hostStore_channels (s : State) (a : Nat) (b : Bytes) : (s.hostStore a b).channels = s.channels := rfl

@[simp] theorem State.hostStore_blank (s : State) (a : Nat) (b : Bytes) : (s.hostStore a b).blank = s.blank := rfl

@[simp] theorem State.hostStore_far (s : State) (a : Nat) (b : Bytes) : (s.hostStore a b).far = s.far := rfl

@[simp] theorem State.hostStore_ports (s : State) (a : Nat) (b : Bytes) : (s.hostStore a b).ports = s.ports := rfl

@[simp] theorem State.hostStore_lanes (s : State) (a : Nat) (b : Bytes) : (s.hostStore a b).lanes = s.lanes := rfl

@[simp] theorem State.hostStore_adders (s : State) (a : Nat) (b : Bytes) : (s.hostStore a b).adders = s.adders := rfl

@[simp] theorem State.hostStore_sessions (s : State) (a : Nat) (b : Bytes) : (s.hostStore a b).sessions = s.sessions := rfl

@[simp] theorem State.hostStore_perf (s : State) (a : Nat) (b : Bytes) : (s.hostStore a b).perf = s.perf := rfl

@[simp] theorem State.hostStore_mgmtReply (s : State) (a : Nat) (b : Bytes) : (s.hostStore a b).mgmtReply = s.mgmtReply := rfl

@[simp] theorem State.hostStore_draws (s : State) (a : Nat) (b : Bytes) : (s.hostStore a b).draws = s.draws := rfl

/-! ### Taking the queue -/

@[simp] theorem State.withPending_time (s : State) (q : List Instr) : (s.withPending q).time = s.time := rfl

@[simp] theorem State.withPending_host (s : State) (q : List Instr) : (s.withPending q).host = s.host := rfl

@[simp] theorem State.withPending_mailboxes (s : State) (q : List Instr) : (s.withPending q).mailboxes = s.mailboxes := rfl

@[simp] theorem State.withPending_submitNo (s : State) (q : List Instr) : (s.withPending q).submitNo = s.submitNo := rfl

@[simp] theorem State.withPending_modulePend (s : State) (q : List Instr) : (s.withPending q).modulePend = s.modulePend := rfl

@[simp] theorem State.withPending_statusSeq (s : State) (q : List Instr) : (s.withPending q).statusSeq = s.statusSeq := rfl

@[simp] theorem State.withPending_shown (s : State) (q : List Instr) : (s.withPending q).shown = s.shown := rfl

@[simp] theorem State.withPending_written (s : State) (q : List Instr) : (s.withPending q).written = s.written := rfl

@[simp] theorem State.withPending_fw (s : State) (q : List Instr) : (s.withPending q).fw = s.fw := rfl

@[simp] theorem State.withPending_aon (s : State) (q : List Instr) : (s.withPending q).aon = s.aon := rfl

@[simp] theorem State.withPending_fuses (s : State) (q : List Instr) : (s.withPending q).fuses = s.fuses := rfl

@[simp] theorem State.withPending_options (s : State) (q : List Instr) : (s.withPending q).options = s.options := rfl

@[simp] theorem State.withPending_lc (s : State) (q : List Instr) : (s.withPending q).lc = s.lc := rfl

@[simp] theorem State.withPending_resets (s : State) (q : List Instr) : (s.withPending q).resets = s.resets := rfl

@[simp] theorem State.withPending_power (s : State) (q : List Instr) : (s.withPending q).power = s.power := rfl

@[simp] theorem State.withPending_watch (s : State) (q : List Instr) : (s.withPending q).watch = s.watch := rfl

@[simp] theorem State.withPending_slots (s : State) (q : List Instr) : (s.withPending q).slots = s.slots := rfl

@[simp] theorem State.withPending_tallies (s : State) (q : List Instr) : (s.withPending q).tallies = s.tallies := rfl

@[simp] theorem State.withPending_dies (s : State) (q : List Instr) : (s.withPending q).dies = s.dies := rfl

@[simp] theorem State.withPending_channels (s : State) (q : List Instr) : (s.withPending q).channels = s.channels := rfl

@[simp] theorem State.withPending_blank (s : State) (q : List Instr) : (s.withPending q).blank = s.blank := rfl

@[simp] theorem State.withPending_far (s : State) (q : List Instr) : (s.withPending q).far = s.far := rfl

@[simp] theorem State.withPending_ports (s : State) (q : List Instr) : (s.withPending q).ports = s.ports := rfl

@[simp] theorem State.withPending_lanes (s : State) (q : List Instr) : (s.withPending q).lanes = s.lanes := rfl

@[simp] theorem State.withPending_adders (s : State) (q : List Instr) : (s.withPending q).adders = s.adders := rfl

@[simp] theorem State.withPending_sessions (s : State) (q : List Instr) : (s.withPending q).sessions = s.sessions := rfl

@[simp] theorem State.withPending_perf (s : State) (q : List Instr) : (s.withPending q).perf = s.perf := rfl

@[simp] theorem State.withPending_mgmtReply (s : State) (q : List Instr) : (s.withPending q).mgmtReply = s.mgmtReply := rfl

@[simp] theorem State.withPending_draws (s : State) (q : List Instr) : (s.withPending q).draws = s.draws := rfl

/-! ### Replacing a channel -/

@[simp] theorem State.setChan_pending (s : State) (sp : Space) (c : Channel) : (s.setChan sp c).pending = s.pending := by
  cases sp <;> rfl

@[simp] theorem State.onChan_pending (s : State) (sp : Space) (g : Channel → Channel) : (s.onChan sp g).pending = s.pending :=
  State.setChan_pending s sp _

@[simp] theorem State.setChan_time (s : State) (sp : Space) (c : Channel) : (s.setChan sp c).time = s.time := by
  cases sp <;> rfl

@[simp] theorem State.onChan_time (s : State) (sp : Space) (g : Channel → Channel) : (s.onChan sp g).time = s.time :=
  State.setChan_time s sp _

@[simp] theorem State.setChan_host (s : State) (sp : Space) (c : Channel) : (s.setChan sp c).host = s.host := by
  cases sp <;> rfl

@[simp] theorem State.onChan_host (s : State) (sp : Space) (g : Channel → Channel) : (s.onChan sp g).host = s.host :=
  State.setChan_host s sp _

@[simp] theorem State.setChan_mailboxes (s : State) (sp : Space) (c : Channel) : (s.setChan sp c).mailboxes = s.mailboxes := by
  cases sp <;> rfl

@[simp] theorem State.onChan_mailboxes (s : State) (sp : Space) (g : Channel → Channel) : (s.onChan sp g).mailboxes = s.mailboxes :=
  State.setChan_mailboxes s sp _

@[simp] theorem State.setChan_submitNo (s : State) (sp : Space) (c : Channel) : (s.setChan sp c).submitNo = s.submitNo := by
  cases sp <;> rfl

@[simp] theorem State.onChan_submitNo (s : State) (sp : Space) (g : Channel → Channel) : (s.onChan sp g).submitNo = s.submitNo :=
  State.setChan_submitNo s sp _

@[simp] theorem State.setChan_modulePend (s : State) (sp : Space) (c : Channel) : (s.setChan sp c).modulePend = s.modulePend := by
  cases sp <;> rfl

@[simp] theorem State.onChan_modulePend (s : State) (sp : Space) (g : Channel → Channel) : (s.onChan sp g).modulePend = s.modulePend :=
  State.setChan_modulePend s sp _

@[simp] theorem State.setChan_statusSeq (s : State) (sp : Space) (c : Channel) : (s.setChan sp c).statusSeq = s.statusSeq := by
  cases sp <;> rfl

@[simp] theorem State.onChan_statusSeq (s : State) (sp : Space) (g : Channel → Channel) : (s.onChan sp g).statusSeq = s.statusSeq :=
  State.setChan_statusSeq s sp _

@[simp] theorem State.setChan_shown (s : State) (sp : Space) (c : Channel) : (s.setChan sp c).shown = s.shown := by
  cases sp <;> rfl

@[simp] theorem State.onChan_shown (s : State) (sp : Space) (g : Channel → Channel) : (s.onChan sp g).shown = s.shown :=
  State.setChan_shown s sp _

@[simp] theorem State.setChan_written (s : State) (sp : Space) (c : Channel) : (s.setChan sp c).written = s.written := by
  cases sp <;> rfl

@[simp] theorem State.onChan_written (s : State) (sp : Space) (g : Channel → Channel) : (s.onChan sp g).written = s.written :=
  State.setChan_written s sp _

@[simp] theorem State.setChan_fw (s : State) (sp : Space) (c : Channel) : (s.setChan sp c).fw = s.fw := by
  cases sp <;> rfl

@[simp] theorem State.onChan_fw (s : State) (sp : Space) (g : Channel → Channel) : (s.onChan sp g).fw = s.fw :=
  State.setChan_fw s sp _

@[simp] theorem State.setChan_aon (s : State) (sp : Space) (c : Channel) : (s.setChan sp c).aon = s.aon := by
  cases sp <;> rfl

@[simp] theorem State.onChan_aon (s : State) (sp : Space) (g : Channel → Channel) : (s.onChan sp g).aon = s.aon :=
  State.setChan_aon s sp _

@[simp] theorem State.setChan_fuses (s : State) (sp : Space) (c : Channel) : (s.setChan sp c).fuses = s.fuses := by
  cases sp <;> rfl

@[simp] theorem State.onChan_fuses (s : State) (sp : Space) (g : Channel → Channel) : (s.onChan sp g).fuses = s.fuses :=
  State.setChan_fuses s sp _

@[simp] theorem State.setChan_options (s : State) (sp : Space) (c : Channel) : (s.setChan sp c).options = s.options := by
  cases sp <;> rfl

@[simp] theorem State.onChan_options (s : State) (sp : Space) (g : Channel → Channel) : (s.onChan sp g).options = s.options :=
  State.setChan_options s sp _

@[simp] theorem State.setChan_lc (s : State) (sp : Space) (c : Channel) : (s.setChan sp c).lc = s.lc := by
  cases sp <;> rfl

@[simp] theorem State.onChan_lc (s : State) (sp : Space) (g : Channel → Channel) : (s.onChan sp g).lc = s.lc :=
  State.setChan_lc s sp _

@[simp] theorem State.setChan_resets (s : State) (sp : Space) (c : Channel) : (s.setChan sp c).resets = s.resets := by
  cases sp <;> rfl

@[simp] theorem State.onChan_resets (s : State) (sp : Space) (g : Channel → Channel) : (s.onChan sp g).resets = s.resets :=
  State.setChan_resets s sp _

@[simp] theorem State.setChan_power (s : State) (sp : Space) (c : Channel) : (s.setChan sp c).power = s.power := by
  cases sp <;> rfl

@[simp] theorem State.onChan_power (s : State) (sp : Space) (g : Channel → Channel) : (s.onChan sp g).power = s.power :=
  State.setChan_power s sp _

@[simp] theorem State.setChan_watch (s : State) (sp : Space) (c : Channel) : (s.setChan sp c).watch = s.watch := by
  cases sp <;> rfl

@[simp] theorem State.onChan_watch (s : State) (sp : Space) (g : Channel → Channel) : (s.onChan sp g).watch = s.watch :=
  State.setChan_watch s sp _

@[simp] theorem State.setChan_slots (s : State) (sp : Space) (c : Channel) : (s.setChan sp c).slots = s.slots := by
  cases sp <;> rfl

@[simp] theorem State.onChan_slots (s : State) (sp : Space) (g : Channel → Channel) : (s.onChan sp g).slots = s.slots :=
  State.setChan_slots s sp _

@[simp] theorem State.setChan_tallies (s : State) (sp : Space) (c : Channel) : (s.setChan sp c).tallies = s.tallies := by
  cases sp <;> rfl

@[simp] theorem State.onChan_tallies (s : State) (sp : Space) (g : Channel → Channel) : (s.onChan sp g).tallies = s.tallies :=
  State.setChan_tallies s sp _

@[simp] theorem State.setChan_dies (s : State) (sp : Space) (c : Channel) : (s.setChan sp c).dies = s.dies := by
  cases sp <;> rfl

@[simp] theorem State.onChan_dies (s : State) (sp : Space) (g : Channel → Channel) : (s.onChan sp g).dies = s.dies :=
  State.setChan_dies s sp _

@[simp] theorem State.setChan_blank (s : State) (sp : Space) (c : Channel) : (s.setChan sp c).blank = s.blank := by
  cases sp <;> rfl

@[simp] theorem State.onChan_blank (s : State) (sp : Space) (g : Channel → Channel) : (s.onChan sp g).blank = s.blank :=
  State.setChan_blank s sp _

@[simp] theorem State.setChan_ports (s : State) (sp : Space) (c : Channel) : (s.setChan sp c).ports = s.ports := by
  cases sp <;> rfl

@[simp] theorem State.onChan_ports (s : State) (sp : Space) (g : Channel → Channel) : (s.onChan sp g).ports = s.ports :=
  State.setChan_ports s sp _

@[simp] theorem State.setChan_lanes (s : State) (sp : Space) (c : Channel) : (s.setChan sp c).lanes = s.lanes := by
  cases sp <;> rfl

@[simp] theorem State.onChan_lanes (s : State) (sp : Space) (g : Channel → Channel) : (s.onChan sp g).lanes = s.lanes :=
  State.setChan_lanes s sp _

@[simp] theorem State.setChan_adders (s : State) (sp : Space) (c : Channel) : (s.setChan sp c).adders = s.adders := by
  cases sp <;> rfl

@[simp] theorem State.onChan_adders (s : State) (sp : Space) (g : Channel → Channel) : (s.onChan sp g).adders = s.adders :=
  State.setChan_adders s sp _

@[simp] theorem State.setChan_sessions (s : State) (sp : Space) (c : Channel) : (s.setChan sp c).sessions = s.sessions := by
  cases sp <;> rfl

@[simp] theorem State.onChan_sessions (s : State) (sp : Space) (g : Channel → Channel) : (s.onChan sp g).sessions = s.sessions :=
  State.setChan_sessions s sp _

@[simp] theorem State.setChan_perf (s : State) (sp : Space) (c : Channel) : (s.setChan sp c).perf = s.perf := by
  cases sp <;> rfl

@[simp] theorem State.onChan_perf (s : State) (sp : Space) (g : Channel → Channel) : (s.onChan sp g).perf = s.perf :=
  State.setChan_perf s sp _

@[simp] theorem State.setChan_mgmtReply (s : State) (sp : Space) (c : Channel) : (s.setChan sp c).mgmtReply = s.mgmtReply := by
  cases sp <;> rfl

@[simp] theorem State.onChan_mgmtReply (s : State) (sp : Space) (g : Channel → Channel) : (s.onChan sp g).mgmtReply = s.mgmtReply :=
  State.setChan_mgmtReply s sp _

@[simp] theorem State.setChan_draws (s : State) (sp : Space) (c : Channel) : (s.setChan sp c).draws = s.draws := by
  cases sp <;> rfl

@[simp] theorem State.onChan_draws (s : State) (sp : Space) (g : Channel → Channel) : (s.onChan sp g).draws = s.draws :=
  State.setChan_draws s sp _

/-! ### Reading what was replaced -/

@[simp] theorem State.setSession_same (s : State) {i : Nat} (x : Session) (h : i < 4) :
    (s.setSession i x).session i = x := vget_vset_same _ _ _ h

theorem State.setSession_other (s : State) {i j : Nat} (x : Session) (h : i ≠ j) :
    (s.setSession i x).session j = s.session j := vget_vset_other _ _ _ h

@[simp] theorem State.setSession_twice (s : State) (i : Nat) (x y : Session) :
    (s.setSession i x).setSession i y = s.setSession i y := by simp [State.setSession]

@[simp] theorem State.setSession_self (s : State) (i : Nat) : s.setSession i (s.session i) = s := by
  simp [State.setSession, State.session]

@[simp] theorem State.onSession_same (s : State) {i : Nat} (f : Session → Session) (h : i < 4) :
    (s.onSession i f).session i = f (s.session i) := State.setSession_same s _ h

theorem State.onSession_other (s : State) {i j : Nat} (f : Session → Session) (h : i ≠ j) :
    (s.onSession i f).session j = s.session j := State.setSession_other s _ h

@[simp] theorem State.setPort_same (s : State) {p : Nat} (q : Port) (h : p < 18) : (s.setPort p q).port p = q :=
  vget_vset_same _ _ _ h

theorem State.setPort_other (s : State) {p r : Nat} (q : Port) (h : p ≠ r) : (s.setPort p q).port r = s.port r :=
  vget_vset_other _ _ _ h

@[simp] theorem State.setMailbox_same (s : State) {n : Nat} (m : Mailbox) (h : n < 64) : (s.setMailbox n m).mailbox n = m :=
  vget_vset_same _ _ _ h

theorem State.setMailbox_other (s : State) {n k : Nat} (m : Mailbox) (h : n ≠ k) :
    (s.setMailbox n m).mailbox k = s.mailbox k := vget_vset_other _ _ _ h

@[simp] theorem Session.setCtx_same (x : Session) {c : Nat} (k : Context) (h : c < 4) : (x.setCtx c k).ctx c = k :=
  vget_vset_same _ _ _ h

theorem Session.setCtx_other (x : Session) {c d : Nat} (k : Context) (h : c ≠ d) : (x.setCtx c k).ctx d = x.ctx d :=
  vget_vset_other _ _ _ h

/-! ### The state after reset -/

@[simp] theorem State.reset_session (i : Nat) : State.reset.session i = Session.reset := by
  by_cases h : i < 4
  · exact vget_replicate _ _ h
  · exact vget_beyond _ _ (by omega)

@[simp] theorem State.reset_port (p : Nat) : State.reset.port p = Port.reset := by
  by_cases h : p < 18
  · exact vget_replicate _ _ h
  · exact vget_beyond _ _ (by omega)

@[simp] theorem State.reset_mailbox (n : Nat) : State.reset.mailbox n = Mailbox.reset := by
  by_cases h : n < 64
  · exact vget_replicate _ _ h
  · exact vget_beyond _ _ (by omega)

end Sys2Proof.Machine
end

