-- ==== Sys2Proof/Laws/Table.lean ====
section
/-! SUPPORT. Sparse tables and memories: every operation keeps the canonical form, a read after a write gives what was
written, and a write leaves every other key alone. -/

namespace Sys2Proof.Machine

variable {α : Type}

@[simp] theorem Table.get_nil (d : α) (k : Nat) : Table.get d [] k = d := rfl

/-- A table whose keys are all above `k` reads the default at `k`. -/
theorem Table.get_below {d : α} {t : Table α} {lo k : Nat} (h : Table.risingFrom lo t = true) (hk : k < lo) :
    Table.get d t k = d := by
  induction t generalizing lo with
  | nil => rfl
  | cons e t ih =>
    obtain ⟨a, v⟩ := e
    simp only [Table.risingFrom, Bool.and_eq_true, decide_eq_true_eq] at h
    rw [Table.get, if_neg (by omega)]
    exact ih h.2 (by omega)

theorem Table.risingFrom_mono {t : Table α} {a b : Nat} (h : Table.risingFrom b t = true) (hab : a ≤ b) :
    Table.risingFrom a t = true := by
  cases t with
  | nil => rfl
  | cons e t =>
    simp only [Table.risingFrom, Bool.and_eq_true, decide_eq_true_eq] at *
    exact ⟨by omega, h.2⟩

variable [DecidableEq α]

/-- Writing keeps the keys rising. -/
theorem Table.set_rising {d : α} {t : Table α} {lo : Nat} (h : Table.risingFrom lo t = true) (k : Nat) (x : α)
    (hk : lo ≤ k) : Table.risingFrom lo (Table.set d t k x) = true := by
  induction t generalizing lo with
  | nil => unfold Table.set; split <;> simp [Table.risingFrom, hk]
  | cons e t ih =>
    obtain ⟨a, v⟩ := e
    simp only [Table.risingFrom, Bool.and_eq_true, decide_eq_true_eq] at h
    unfold Table.set
    split
    · split
      · simpa [Table.risingFrom] using h
      · simp only [Table.risingFrom, Bool.and_eq_true, decide_eq_true_eq]; exact ⟨hk, by omega, h.2⟩
    · split
      · split
        · exact Table.risingFrom_mono h.2 (by omega)
        · subst_vars; simpa [Table.risingFrom] using h
      · simp only [Table.risingFrom, Bool.and_eq_true, decide_eq_true_eq]
        exact ⟨h.1, ih h.2 (by omega)⟩

/-- Writing lists no entry equal to the default. -/
theorem Table.set_listed {d : α} {t : Table α} (h : ∀ e ∈ t, e.2 ≠ d) (k : Nat) (x : α) :
    ∀ e ∈ Table.set d t k x, e.2 ≠ d := by
  induction t with
  | nil => unfold Table.set; split <;> simp_all
  | cons e t ih =>
    obtain ⟨a, v⟩ := e
    have ih := ih fun e he => h e (by simp [he])
    unfold Table.set
    split
    · split
      · exact h
      · intro e he; rcases List.mem_cons.1 he with rfl | he
        · assumption
        · exact h e he
    · split
      · split
        · intro e he; exact h e (by simp [he])
        · intro e he; rcases List.mem_cons.1 he with rfl | he
          · assumption
          · exact h e (by simp [he])
      · intro e he; rcases List.mem_cons.1 he with rfl | he
        · exact h _ (by simp)
        · exact ih e he

/-- A write keeps the canonical form. -/
theorem Table.set_wf {d : α} {t : Table α} (h : Table.wf d t = true) (k : Nat) (x : α) :
    Table.wf d (Table.set d t k x) = true := by
  simp only [Table.wf, Bool.and_eq_true, List.all_eq_true, decide_eq_true_eq] at *
  exact ⟨Table.set_rising h.1 k x (by omega), Table.set_listed h.2 k x⟩

@[simp] theorem Table.wf_nil (d : α) : Table.wf d ([] : Table α) = true := rfl

/-- A read after a write to the same key gives the value written; a write leaves every other key alone. -/
theorem Table.get_set {d : α} {t : Table α} {lo : Nat} (h : Table.risingFrom lo t = true) (k : Nat) (x : α) (j : Nat) :
    Table.get d (Table.set d t k x) j = if j = k then x else Table.get d t j := by
  induction t generalizing lo with
  | nil =>
    by_cases hx : x = d
    · simp [Table.set, hx]
    · by_cases hj : k = j
      · simp [Table.set, hx, Table.get, hj]
      · simp [Table.set, hx, Table.get, hj, Ne.symm hj]
  | cons e t ih =>
    obtain ⟨a, v⟩ := e
    simp only [Table.risingFrom, Bool.and_eq_true, decide_eq_true_eq] at h
    have below : ∀ i ≤ a, Table.get d t i = d := fun i hi => Table.get_below h.2 (by omega)
    unfold Table.set
    split
    · rename_i hk
      have hb : Table.get d ((a, v) :: t) k = d := by rw [Table.get, if_neg (by omega)]; exact below k (by omega)
      split
      · rename_i hx
        by_cases hj : j = k
        · subst hj; simp [hb, hx]
        · simp [hj]
      · by_cases hj : j = k
        · simp [Table.get, hj]
        · rw [Table.get, if_neg (Ne.symm hj), if_neg hj]
    · split
      · rename_i hk
        subst hk
        split
        · rename_i hx
          by_cases hj : j = k
          · subst hj; simp [below _ le_rfl, hx]
          · simp [hj, Table.get, Ne.symm hj]
        · by_cases hj : j = k
          · simp [Table.get, hj]
          · simp [Table.get, hj, Ne.symm hj]
      · rename_i h1 h2
        rw [Table.get, ih h.2]
        by_cases hj : j = k
        · rw [if_neg (by omega), if_pos hj, if_pos hj]
        · by_cases ha : a = j
          · simp [ha, hj, Table.get]
          · simp [ha, hj, Table.get]

theorem Table.get_set_same {d : α} {t : Table α} (h : Table.wf d t = true) (k : Nat) (x : α) :
    Table.get d (Table.set d t k x) k = x := by
  simp only [Table.wf, Bool.and_eq_true] at h
  rw [Table.get_set h.1, if_pos rfl]

theorem Table.get_set_other {d : α} {t : Table α} (h : Table.wf d t = true) {k j : Nat} (x : α) (hj : j ≠ k) :
    Table.get d (Table.set d t k x) j = Table.get d t j := by
  simp only [Table.wf, Bool.and_eq_true] at h
  rw [Table.get_set h.1, if_neg hj]

/-! ### Memories -/

@[simp] theorem Memory.wf_nil : Memory.wf [] = true := rfl

/-- Storing bytes keeps a memory's canonical form. -/
theorem memStore_wf {m : Memory} (h : Memory.wf m = true) (a : Nat) (b : Bytes) : Memory.wf (memStore m a b) = true := by
  induction b generalizing m a with
  | nil => exact h
  | cons x b ih => exact ih (Table.set_wf h a x) (a + 1)

/-- A byte after a store: the byte stored there, or the byte that was there. -/
theorem memStore_get {m : Memory} (h : Memory.wf m = true) (a : Nat) (b : Bytes) (j : Nat) :
    Table.get 0 (memStore m a b) j = if a ≤ j ∧ j < a + b.length then b.getD (j - a) 0 else Table.get 0 m j := by
  induction b generalizing m a with
  | nil => rw [memStore, if_neg (by simp)]
  | cons x b ih =>
    rw [memStore, ih (Table.set_wf h a x)]
    by_cases hj : j = a
    · subst hj
      rw [if_neg (by omega), Table.get_set_same h, if_pos (by simp)]; simp
    · rw [Table.get_set_other h x hj]
      by_cases hr : a + 1 ≤ j ∧ j < a + 1 + b.length
      · rw [if_pos hr, if_pos (by simp; omega)]
        obtain ⟨n, hn⟩ : ∃ n, j - a = n + 1 := ⟨j - a - 1, by omega⟩
        rw [hn, show j - (a + 1) = n by omega, List.getD_cons_succ]
      · rw [if_neg hr, if_neg (by simp; omega)]

/-- A load of what was just stored gives it back. -/
theorem memLoad_memStore {m : Memory} (h : Memory.wf m = true) (a : Nat) (b : Bytes) :
    memLoad (memStore m a b) a b.length = b := by
  apply List.ext_getElem
  · simp [memLoad]
  · intro n h1 h2
    simp only [memLoad, List.getElem_map, List.getElem_range]
    rw [memStore_get h, if_pos ⟨by omega, by omega⟩]
    simp [h2]

/-- A load from bytes apart from those stored gives what it gave before. -/
theorem memLoad_memStore_apart {m : Memory} (h : Memory.wf m = true) (a : Nat) (b : Bytes) (c n : Nat)
    (hd : c + n ≤ a ∨ a + b.length ≤ c) : memLoad (memStore m a b) c n = memLoad m c n := by
  refine List.map_congr_left fun i hi => ?_
  rw [List.mem_range] at hi
  rw [memStore_get h, if_neg (by omega)]

@[simp] theorem memLoad_length (m : Memory) (a n : Nat) : (memLoad m a n).length = n := by simp [memLoad]

end Sys2Proof.Machine
end

