-- ==== Sys2Proof/Laws/Cloari.lean ====
section
/-! SUPPORT. What serving a mailbox request does, said once: the response of an accepted request is its command's. -/

namespace Sys2Proof.Machine

/-- A request that is accepted and that its command answers is completed with the answer. -/
theorem State.serve_accepts {s t : State} {mb code : Nat} {c : Carriage} {a : Access} {r : Req} {p : Resp}
    {pick : Bytes → Bool} {effect : State → Req → State × Option Resp} (h : s.Accepts mb code c a r)
    (hp : pick r.body = true) (he : effect (s.acceptKey r) r = (t, some p)) :
    s.serve mb code c a pick effect = t.respond r p := by
  obtain ⟨h1, h2, h3, h4, h5⟩ := h
  simp [State.serve, h1, h2, h3, h4, h5, hp, he]

/-- A request that its command does not answer at once stays in service. -/
theorem State.serve_waits {s t : State} {mb code : Nat} {c : Carriage} {a : Access} {r : Req}
    {pick : Bytes → Bool} {effect : State → Req → State × Option Resp} (h : s.Accepts mb code c a r)
    (hp : pick r.body = true) (he : effect (s.acceptKey r) r = (t, none)) :
    s.serve mb code c a pick effect = t.setMailbox mb { t.mailbox mb with state := .serving } := by
  obtain ⟨h1, h2, h3, h4, h5⟩ := h
  simp [State.serve, h1, h2, h3, h4, h5, hp, he]

/-- A request that its command's row does not pick is left for the other row of its code. -/
theorem State.serve_unpicked {s : State} {mb code : Nat} {c : Carriage} {a : Access} {r : Req}
    {pick : Bytes → Bool} {effect : State → Req → State × Option Resp} (h : s.Accepts mb code c a r)
    (hp : pick r.body = false) : s.serve mb code c a pick effect = s := by
  obtain ⟨h1, h2, h3, h4, _⟩ := h
  simp [State.serve, h1, h2, h3, h4, hp]

/-- A request refused before its command looks at it is completed with the header status alone, and the turn passes on. -/
theorem State.serve_refuses {s : State} {mb code : Nat} {c : Carriage} {a : Access} {st : Status}
    {pick : Bytes → Bool} {effect : State → Req → State × Option Resp} (h1 : s.mbServed = true) (h2 : s.turn mb = true)
    (h3 : fieldAt (s.mailbox mb).request 0 2 = code) (h4 : s.take mb code c = (st, none)) :
    s.serve mb code c a pick effect = (s.done mb st 0 []).passTurn := by
  simp [State.serve, h1, h2, h3, h4]

/-- What a command answers when its effect answers ST_OK with a body. -/
theorem State.serve_answered {s t : State} {mb code : Nat} {c : Carriage} {a : Access} {r : Req} {b : Bytes}
    {pick : Bytes → Bool} {effect : State → Req → State × Option Resp} (h : s.Accepts mb code c a r)
    (hp : pick r.body = true) (he : effect (s.acceptKey r) r = (t, some ⟨stOk, 0, b⟩)) :
    Host.Outcome.next (s.serve mb code c a pick effect) = answered t r b := by
  rw [State.serve_accepts h hp he, answered]

/-- What a command answers when its effect answers ST_PENDING. -/
theorem State.serve_accepted {s t : State} {mb code : Nat} {c : Carriage} {a : Access} {r : Req}
    {pick : Bytes → Bool} {effect : State → Req → State × Option Resp} (h : s.Accepts mb code c a r)
    (hp : pick r.body = true) (he : effect (s.acceptKey r) r = (t, some ⟨stPending, 0, []⟩)) :
    Host.Outcome.next (s.serve mb code c a pick effect) = accepted t r := by
  rw [State.serve_accepts h hp he, accepted]

/-! ### Passing the turn changes mailboxes alone -/

/-- Requests with unknown codes are answered, which changes mailboxes and the time since which nothing has happened. -/
theorem State.passTurns_frame (n : Nat) (s : State) :
    ∃ m t, State.passTurns n s = { s with mailboxes := m, power := { s.power with idleSince := t } } := by
  induction n generalizing s with
  | zero => exact ⟨s.mailboxes, s.power.idleSince, rfl⟩
  | succ n ih =>
    unfold State.passTurns
    split
    · obtain ⟨m, t, h⟩ := ih (s.done _ _ 0 [])
      exact ⟨m, t, by rw [h]; rfl⟩
    · exact ⟨s.mailboxes, s.power.idleSince, rfl⟩

theorem State.passTurn_frame (s : State) :
    ∃ m t, s.passTurn = { s with mailboxes := m, power := { s.power with idleSince := t } } := State.passTurns_frame 64 s

/-- A mailbox that holds no request waiting to be taken stays as it is when the turn passes on. -/
theorem State.passTurns_mailbox (n k : Nat) (s : State) (h : (s.mailbox k).state ≠ .submitted) :
    (State.passTurns n s).mailbox k = s.mailbox k := by
  induction n generalizing s with
  | zero => rfl
  | succ n ih =>
    unfold State.passTurns
    split
    · rename_i j hj
      have hu := List.find?_some hj
      have hne : j ≠ k := by
        rintro rfl
        simp [State.unknownTurn, State.turn, h] at hu
      have hk : ∀ st, (s.done j st 0 []).mailbox k = s.mailbox k := fun st => State.setMailbox_other _ _ hne
      dsimp only
      rw [ih _ (by rw [hk]; exact h), hk]
    · rfl

theorem State.passTurn_mailbox (s : State) (k : Nat) (h : (s.mailbox k).state ≠ .submitted) :
    s.passTurn.mailbox k = s.mailbox k := State.passTurns_mailbox 64 k s h

@[simp] theorem State.passTurn_pending (s : State) : s.passTurn.pending = s.pending := by
  obtain ⟨m, t, h⟩ := s.passTurn_frame; rw [h]

@[simp] theorem State.passTurn_time (s : State) : s.passTurn.time = s.time := by
  obtain ⟨m, t, h⟩ := s.passTurn_frame; rw [h]

@[simp] theorem State.passTurn_host (s : State) : s.passTurn.host = s.host := by
  obtain ⟨m, t, h⟩ := s.passTurn_frame; rw [h]

@[simp] theorem State.passTurn_submitNo (s : State) : s.passTurn.submitNo = s.submitNo := by
  obtain ⟨m, t, h⟩ := s.passTurn_frame; rw [h]

@[simp] theorem State.passTurn_modulePend (s : State) : s.passTurn.modulePend = s.modulePend := by
  obtain ⟨m, t, h⟩ := s.passTurn_frame; rw [h]

@[simp] theorem State.passTurn_statusSeq (s : State) : s.passTurn.statusSeq = s.statusSeq := by
  obtain ⟨m, t, h⟩ := s.passTurn_frame; rw [h]

@[simp] theorem State.passTurn_shown (s : State) : s.passTurn.shown = s.shown := by
  obtain ⟨m, t, h⟩ := s.passTurn_frame; rw [h]

@[simp] theorem State.passTurn_written (s : State) : s.passTurn.written = s.written := by
  obtain ⟨m, t, h⟩ := s.passTurn_frame; rw [h]

@[simp] theorem State.passTurn_fw (s : State) : s.passTurn.fw = s.fw := by
  obtain ⟨m, t, h⟩ := s.passTurn_frame; rw [h]

@[simp] theorem State.passTurn_aon (s : State) : s.passTurn.aon = s.aon := by
  obtain ⟨m, t, h⟩ := s.passTurn_frame; rw [h]

@[simp] theorem State.passTurn_fuses (s : State) : s.passTurn.fuses = s.fuses := by
  obtain ⟨m, t, h⟩ := s.passTurn_frame; rw [h]

@[simp] theorem State.passTurn_options (s : State) : s.passTurn.options = s.options := by
  obtain ⟨m, t, h⟩ := s.passTurn_frame; rw [h]

@[simp] theorem State.passTurn_lc (s : State) : s.passTurn.lc = s.lc := by
  obtain ⟨m, t, h⟩ := s.passTurn_frame; rw [h]

@[simp] theorem State.passTurn_resets (s : State) : s.passTurn.resets = s.resets := by
  obtain ⟨m, t, h⟩ := s.passTurn_frame; rw [h]

@[simp] theorem State.passTurn_watch (s : State) : s.passTurn.watch = s.watch := by
  obtain ⟨m, t, h⟩ := s.passTurn_frame; rw [h]

@[simp] theorem State.passTurn_slots (s : State) : s.passTurn.slots = s.slots := by
  obtain ⟨m, t, h⟩ := s.passTurn_frame; rw [h]

@[simp] theorem State.passTurn_tallies (s : State) : s.passTurn.tallies = s.tallies := by
  obtain ⟨m, t, h⟩ := s.passTurn_frame; rw [h]

@[simp] theorem State.passTurn_dies (s : State) : s.passTurn.dies = s.dies := by
  obtain ⟨m, t, h⟩ := s.passTurn_frame; rw [h]

@[simp] theorem State.passTurn_channels (s : State) : s.passTurn.channels = s.channels := by
  obtain ⟨m, t, h⟩ := s.passTurn_frame; rw [h]

@[simp] theorem State.passTurn_blank (s : State) : s.passTurn.blank = s.blank := by
  obtain ⟨m, t, h⟩ := s.passTurn_frame; rw [h]

@[simp] theorem State.passTurn_far (s : State) : s.passTurn.far = s.far := by
  obtain ⟨m, t, h⟩ := s.passTurn_frame; rw [h]

@[simp] theorem State.passTurn_ports (s : State) : s.passTurn.ports = s.ports := by
  obtain ⟨m, t, h⟩ := s.passTurn_frame; rw [h]

@[simp] theorem State.passTurn_lanes (s : State) : s.passTurn.lanes = s.lanes := by
  obtain ⟨m, t, h⟩ := s.passTurn_frame; rw [h]

@[simp] theorem State.passTurn_adders (s : State) : s.passTurn.adders = s.adders := by
  obtain ⟨m, t, h⟩ := s.passTurn_frame; rw [h]

@[simp] theorem State.passTurn_sessions (s : State) : s.passTurn.sessions = s.sessions := by
  obtain ⟨m, t, h⟩ := s.passTurn_frame; rw [h]

@[simp] theorem State.passTurn_perf (s : State) : s.passTurn.perf = s.perf := by
  obtain ⟨m, t, h⟩ := s.passTurn_frame; rw [h]

@[simp] theorem State.passTurn_mgmtReply (s : State) : s.passTurn.mgmtReply = s.mgmtReply := by
  obtain ⟨m, t, h⟩ := s.passTurn_frame; rw [h]

@[simp] theorem State.passTurn_draws (s : State) : s.passTurn.draws = s.draws := by
  obtain ⟨m, t, h⟩ := s.passTurn_frame; rw [h]

@[simp] theorem State.respond_pending (s : State) (r : Req) (p : Resp) : (s.respond r p).pending = s.pending := by
  unfold State.respond; rw [State.passTurn_pending]; split <;> rfl

@[simp] theorem State.respond_time (s : State) (r : Req) (p : Resp) : (s.respond r p).time = s.time := by
  unfold State.respond; rw [State.passTurn_time]; split <;> rfl

@[simp] theorem State.respond_host (s : State) (r : Req) (p : Resp) : (s.respond r p).host = s.host := by
  unfold State.respond; rw [State.passTurn_host]; split <;> rfl

@[simp] theorem State.respond_submitNo (s : State) (r : Req) (p : Resp) : (s.respond r p).submitNo = s.submitNo := by
  unfold State.respond; rw [State.passTurn_submitNo]; split <;> rfl

@[simp] theorem State.respond_modulePend (s : State) (r : Req) (p : Resp) : (s.respond r p).modulePend = s.modulePend := by
  unfold State.respond; rw [State.passTurn_modulePend]; split <;> rfl

@[simp] theorem State.respond_statusSeq (s : State) (r : Req) (p : Resp) : (s.respond r p).statusSeq = s.statusSeq := by
  unfold State.respond; rw [State.passTurn_statusSeq]; split <;> rfl

@[simp] theorem State.respond_shown (s : State) (r : Req) (p : Resp) : (s.respond r p).shown = s.shown := by
  unfold State.respond; rw [State.passTurn_shown]; split <;> rfl

@[simp] theorem State.respond_written (s : State) (r : Req) (p : Resp) : (s.respond r p).written = s.written := by
  unfold State.respond; rw [State.passTurn_written]; split <;> rfl

@[simp] theorem State.respond_fw (s : State) (r : Req) (p : Resp) : (s.respond r p).fw = s.fw := by
  unfold State.respond; rw [State.passTurn_fw]; split <;> rfl

@[simp] theorem State.respond_aon (s : State) (r : Req) (p : Resp) : (s.respond r p).aon = s.aon := by
  unfold State.respond; rw [State.passTurn_aon]; split <;> rfl

@[simp] theorem State.respond_fuses (s : State) (r : Req) (p : Resp) : (s.respond r p).fuses = s.fuses := by
  unfold State.respond; rw [State.passTurn_fuses]; split <;> rfl

@[simp] theorem State.respond_options (s : State) (r : Req) (p : Resp) : (s.respond r p).options = s.options := by
  unfold State.respond; rw [State.passTurn_options]; split <;> rfl

@[simp] theorem State.respond_lc (s : State) (r : Req) (p : Resp) : (s.respond r p).lc = s.lc := by
  unfold State.respond; rw [State.passTurn_lc]; split <;> rfl

@[simp] theorem State.respond_resets (s : State) (r : Req) (p : Resp) : (s.respond r p).resets = s.resets := by
  unfold State.respond; rw [State.passTurn_resets]; split <;> rfl

@[simp] theorem State.respond_watch (s : State) (r : Req) (p : Resp) : (s.respond r p).watch = s.watch := by
  unfold State.respond; rw [State.passTurn_watch]; split <;> rfl

@[simp] theorem State.respond_slots (s : State) (r : Req) (p : Resp) : (s.respond r p).slots = s.slots := by
  unfold State.respond; rw [State.passTurn_slots]; split <;> rfl

@[simp] theorem State.respond_tallies (s : State) (r : Req) (p : Resp) : (s.respond r p).tallies = s.tallies := by
  unfold State.respond; rw [State.passTurn_tallies]; split <;> rfl

@[simp] theorem State.respond_dies (s : State) (r : Req) (p : Resp) : (s.respond r p).dies = s.dies := by
  unfold State.respond; rw [State.passTurn_dies]; split <;> rfl

@[simp] theorem State.respond_channels (s : State) (r : Req) (p : Resp) : (s.respond r p).channels = s.channels := by
  unfold State.respond; rw [State.passTurn_channels]; split <;> rfl

@[simp] theorem State.respond_blank (s : State) (r : Req) (p : Resp) : (s.respond r p).blank = s.blank := by
  unfold State.respond; rw [State.passTurn_blank]; split <;> rfl

@[simp] theorem State.respond_far (s : State) (r : Req) (p : Resp) : (s.respond r p).far = s.far := by
  unfold State.respond; rw [State.passTurn_far]; split <;> rfl

@[simp] theorem State.respond_ports (s : State) (r : Req) (p : Resp) : (s.respond r p).ports = s.ports := by
  unfold State.respond; rw [State.passTurn_ports]; split <;> rfl

@[simp] theorem State.respond_lanes (s : State) (r : Req) (p : Resp) : (s.respond r p).lanes = s.lanes := by
  unfold State.respond; rw [State.passTurn_lanes]; split <;> rfl

@[simp] theorem State.respond_adders (s : State) (r : Req) (p : Resp) : (s.respond r p).adders = s.adders := by
  unfold State.respond; rw [State.passTurn_adders]; split <;> rfl

@[simp] theorem State.respond_sessions (s : State) (r : Req) (p : Resp) : (s.respond r p).sessions = s.sessions := by
  unfold State.respond; rw [State.passTurn_sessions]; split <;> rfl

@[simp] theorem State.respond_perf (s : State) (r : Req) (p : Resp) : (s.respond r p).perf = s.perf := by
  unfold State.respond; rw [State.passTurn_perf]; split <;> rfl

@[simp] theorem State.respond_mgmtReply (s : State) (r : Req) (p : Resp) : (s.respond r p).mgmtReply = s.mgmtReply := by
  unfold State.respond; rw [State.passTurn_mgmtReply]; split <;> rfl

@[simp] theorem State.respond_draws (s : State) (r : Req) (p : Resp) : (s.respond r p).draws = s.draws := by
  unfold State.respond; rw [State.passTurn_draws]; split <;> rfl

/-! ### Accepting a request's key changes nothing but that key -/

@[simp] theorem State.acceptKey_pending (s : State) (r : Req) : (s.acceptKey r).pending = s.pending := by
  unfold State.acceptKey; split <;> rfl

@[simp] theorem State.acceptKey_time (s : State) (r : Req) : (s.acceptKey r).time = s.time := by
  unfold State.acceptKey; split <;> rfl

@[simp] theorem State.acceptKey_host (s : State) (r : Req) : (s.acceptKey r).host = s.host := by
  unfold State.acceptKey; split <;> rfl

@[simp] theorem State.acceptKey_mailboxes (s : State) (r : Req) : (s.acceptKey r).mailboxes = s.mailboxes := by
  unfold State.acceptKey; split <;> rfl

@[simp] theorem State.acceptKey_submitNo (s : State) (r : Req) : (s.acceptKey r).submitNo = s.submitNo := by
  unfold State.acceptKey; split <;> rfl

@[simp] theorem State.acceptKey_modulePend (s : State) (r : Req) : (s.acceptKey r).modulePend = s.modulePend := by
  unfold State.acceptKey; split <;> rfl

@[simp] theorem State.acceptKey_statusSeq (s : State) (r : Req) : (s.acceptKey r).statusSeq = s.statusSeq := by
  unfold State.acceptKey; split <;> rfl

@[simp] theorem State.acceptKey_written (s : State) (r : Req) : (s.acceptKey r).written = s.written := by
  unfold State.acceptKey; split <;> rfl

@[simp] theorem State.acceptKey_fw (s : State) (r : Req) : (s.acceptKey r).fw = s.fw := by
  unfold State.acceptKey; split <;> rfl

@[simp] theorem State.acceptKey_aon (s : State) (r : Req) : (s.acceptKey r).aon = s.aon := by
  unfold State.acceptKey; split <;> rfl

@[simp] theorem State.acceptKey_fuses (s : State) (r : Req) : (s.acceptKey r).fuses = s.fuses := by
  unfold State.acceptKey; split <;> rfl

@[simp] theorem State.acceptKey_options (s : State) (r : Req) : (s.acceptKey r).options = s.options := by
  unfold State.acceptKey; split <;> rfl

@[simp] theorem State.acceptKey_lc (s : State) (r : Req) : (s.acceptKey r).lc = s.lc := by
  unfold State.acceptKey; split <;> rfl

@[simp] theorem State.acceptKey_resets (s : State) (r : Req) : (s.acceptKey r).resets = s.resets := by
  unfold State.acceptKey; split <;> rfl

@[simp] theorem State.acceptKey_power (s : State) (r : Req) : (s.acceptKey r).power = s.power := by
  unfold State.acceptKey; split <;> rfl

@[simp] theorem State.acceptKey_watch (s : State) (r : Req) : (s.acceptKey r).watch = s.watch := by
  unfold State.acceptKey; split <;> rfl

@[simp] theorem State.acceptKey_slots (s : State) (r : Req) : (s.acceptKey r).slots = s.slots := by
  unfold State.acceptKey; split <;> rfl

@[simp] theorem State.acceptKey_tallies (s : State) (r : Req) : (s.acceptKey r).tallies = s.tallies := by
  unfold State.acceptKey; split <;> rfl

@[simp] theorem State.acceptKey_dies (s : State) (r : Req) : (s.acceptKey r).dies = s.dies := by
  unfold State.acceptKey; split <;> rfl

@[simp] theorem State.acceptKey_channels (s : State) (r : Req) : (s.acceptKey r).channels = s.channels := by
  unfold State.acceptKey; split <;> rfl

@[simp] theorem State.acceptKey_far (s : State) (r : Req) : (s.acceptKey r).far = s.far := by
  unfold State.acceptKey; split <;> rfl

@[simp] theorem State.acceptKey_ports (s : State) (r : Req) : (s.acceptKey r).ports = s.ports := by
  unfold State.acceptKey; split <;> rfl

@[simp] theorem State.acceptKey_lanes (s : State) (r : Req) : (s.acceptKey r).lanes = s.lanes := by
  unfold State.acceptKey; split <;> rfl

@[simp] theorem State.acceptKey_adders (s : State) (r : Req) : (s.acceptKey r).adders = s.adders := by
  unfold State.acceptKey; split <;> rfl

@[simp] theorem State.acceptKey_perf (s : State) (r : Req) : (s.acceptKey r).perf = s.perf := by
  unfold State.acceptKey; split <;> rfl

@[simp] theorem State.acceptKey_mgmtReply (s : State) (r : Req) : (s.acceptKey r).mgmtReply = s.mgmtReply := by
  unfold State.acceptKey; split <;> rfl

@[simp] theorem State.acceptKey_draws (s : State) (r : Req) : (s.acceptKey r).draws = s.draws := by
  unfold State.acceptKey; split <;> rfl

/-- The session named keeps every field but its command keys. -/
theorem State.acceptKey_session (s : State) (r : Req) (i : Nat) :
    ∃ l, (s.acceptKey r).session i = { s.session i with cmdKeys := l } := by
  unfold State.acceptKey
  split
  · by_cases h : i = r.session
    · subst h
      by_cases hi : r.session < 4
      · exact ⟨_, by simp [State.onSession, State.setSession, State.session, vget, vset, Session.keepKey, hi]; rfl⟩
      · exact ⟨(s.session r.session).cmdKeys, by simp [State.onSession, State.setSession, State.session, vget, vset, hi]⟩
    · refine ⟨(s.session i).cmdKeys, ?_⟩
      simp [State.onSession, State.setSession, State.session, vget, vset, Ne.symm h]
  · exact ⟨(s.session i).cmdKeys, rfl⟩

/-! ### Requests laid in a mailbox -/

/-- The header of a request (R473). -/
def reqHead (code : Nat) (isSealed : Bool) (i len : Nat) (tag : W32) : Bytes :=
  le 2 code ++ le 1 (boolNat isSealed) ++ le 1 i ++ le 4 len ++ w32 tag ++ zeros 4

/-- A state with a request submitted in a mailbox. -/
def State.seat (s : State) (mb : Nat) (raw : Bytes) : State :=
  s.setMailbox mb { Mailbox.reset with state := .submitted, reqLen := BitVec.ofNat 13 raw.length, buffer := memStore [] 0 raw }

/-- A sealed request: header and envelope under the command key of an SPDM session's export master secret (R389, R392). -/
def sealedRequest (master : Bytes) (code i p : Nat) (seq : W64) (tag : W32) (body : Bytes) : Bytes :=
  reqHead code true i (body.length + 48) tag ++ sealEnvelope (cmdKeyOf master i p) p i 0 seq code body

theorem envHead_length (p i d : Nat) (seq : W64) (code len : Nat) : (envHead p i d seq code len).length = 32 := by
  simp [envHead, show (ascii "LSVE").length = 4 from by decide]

theorem sealEnvelope_length (key : Bytes) (p i d : Nat) (seq : W64) (code : Nat) (b : Bytes) :
    (sealEnvelope key p i d seq code b).length = b.length + 48 := by
  simp [sealEnvelope, envHead_length, Crypto.gcmSeal]; omega

theorem State.seat_request (s : State) {mb : Nat} (raw : Bytes) (h : mb < 64) (hl : raw.length < 8192) :
    ((s.seat mb raw).mailbox mb).request = raw := by
  rw [State.seat, State.setMailbox_same _ _ h, Mailbox.request]
  simp only [BitVec.toNat_ofNat]
  rw [Nat.mod_eq_of_lt (by omega)]
  exact memLoad_memStore Memory.wf_nil 0 raw

/-- The fields of an envelope's header. -/
theorem envHead_fields (p i d : Nat) (seq : W64) (code : Nat) (b : Bytes) (hp : p < 256) (hb : b.length < 2 ^ 32) (t : Bytes) :
    let e := envHead p i d seq code b.length ++ t
    slice e 0 32 = envHead p i d seq code b.length ∧ (u8 e 5).toNat = p ∧ u64 e 8 = seq ∧ fieldAt e 20 4 = b.length := by
  have hv : (ascii "LSVE") = [0x4C, 0x53, 0x56, 0x45] := by decide
  refine ⟨?_, ?_, ?_, ?_⟩
  · have := slice_append [] (envHead p i d seq code b.length) t
    rwa [List.nil_append, envHead_length] at this
  · simp [envHead, hv, u8, le, BitVec.toNat_ofNat, Nat.mod_eq_of_lt hp]
  · have := fieldAt_le (ascii "LSVE" ++ [1] ++ le 1 p ++ le 1 i ++ le 1 d)
      (le 2 code ++ zeros 2 ++ le 4 b.length ++ zeros 8 ++ t) 8 seq.toNat (by have := seq.isLt; omega)
    apply BitVec.eq_of_toNat_eq
    rw [u64_toNat]
    simpa [hv, envHead, w64] using this
  · have := fieldAt_le (ascii "LSVE" ++ [1] ++ le 1 p ++ le 1 i ++ le 1 d ++ w64 seq ++ le 2 code ++ zeros 2)
      (zeros 8 ++ t) 4 b.length (by omega)
    simpa [hv, envHead] using this

/-- A sealed request opens under the key it was sealed with. -/
theorem envOpen_seal (key : Bytes) (p i : Nat) (seq : W64) (code : Nat) (b : Bytes) (hp : p < 256) (hb : b.length < 2 ^ 32) :
    envOpen key (sealEnvelope key p i 0 seq code b) = some b := by
  obtain ⟨h1, _, h3, h4⟩ := envHead_fields p i 0 seq code b hp hb
    ((Crypto.gcmSeal key (envNonce 0 seq) (envHead p i 0 seq code b.length) b).1 ++
      (Crypto.gcmSeal key (envNonce 0 seq) (envHead p i 0 seq code b.length) b).2)
  have hc : (Crypto.gcmSeal key (envNonce 0 seq) (envHead p i 0 seq code b.length) b).1.length = b.length := by
    simp [Crypto.gcmSeal]
  have ht : (Crypto.gcmSeal key (envNonce 0 seq) (envHead p i 0 seq code b.length) b).2.length = 16 := by
    simp [Crypto.gcmSeal]
  have s1 := slice_append (envHead p i 0 seq code b.length)
    (Crypto.gcmSeal key (envNonce 0 seq) (envHead p i 0 seq code b.length) b).1
    (Crypto.gcmSeal key (envNonce 0 seq) (envHead p i 0 seq code b.length) b).2
  have s2 := slice_append (envHead p i 0 seq code b.length ++
    (Crypto.gcmSeal key (envNonce 0 seq) (envHead p i 0 seq code b.length) b).1)
    (Crypto.gcmSeal key (envNonce 0 seq) (envHead p i 0 seq code b.length) b).2 []
  rw [envHead_length, hc] at s1
  rw [List.length_append, envHead_length, hc, ht, List.append_nil, List.append_assoc] at s2
  simp only [envOpen, sealEnvelope, List.append_assoc]
  rw [h1, h3, h4, s1, s2]
  exact Crypto.gcmOpen_gcmSeal _ _ _ _

/-- The form of a sealed request. -/
theorem envForm_seal (key : Bytes) (p i : Nat) (seq : W64) (code : Nat) (b : Bytes) (hp : p < 16) (hb : b.length < 2 ^ 32) :
    envForm (sealEnvelope key p i 0 seq code b) i code = true := by
  obtain ⟨h1, h2, h3, h4⟩ := envHead_fields p i 0 seq code b (by omega) hb
    ((Crypto.gcmSeal key (envNonce 0 seq) (envHead p i 0 seq code b.length) b).1 ++
      (Crypto.gcmSeal key (envNonce 0 seq) (envHead p i 0 seq code b.length) b).2)
  have hl := sealEnvelope_length key p i 0 seq code b
  simp only [sealEnvelope, List.append_assoc] at hl ⊢
  simp only [envForm]
  rw [h1, h2, h3, h4, hl]
  simp [hp]

/-- The fields of a request's header. -/
theorem reqHead_fields (code i len : Nat) (z : Bool) (tag : W32) (t : Bytes) (hc : code < 65536) (hi : i < 256)
    (hl : len < 2 ^ 32) (ht : t.length = len) :
    let raw := reqHead code z i len tag ++ t
    fieldAt raw 0 2 = code ∧ (u8 raw 3).toNat = i ∧ fieldAt raw 2 1 = boolNat z ∧ u32 raw 8 = tag ∧ raw.drop 16 = t ∧
      headForm raw = true ∧ raw.length = len + 16 := by
  have hz : boolNat z < 2 := by cases z <;> decide
  refine ⟨?_, ?_, ?_, ?_, ?_, ?_, ?_⟩
  · have := fieldAt_le [] (le 1 (boolNat z) ++ le 1 i ++ le 4 len ++ w32 tag ++ zeros 4 ++ t) 2 code (by omega)
    simpa [reqHead] using this
  · simp [reqHead, u8, le, BitVec.toNat_ofNat, Nat.mod_eq_of_lt hi]
  · have := fieldAt_le (le 2 code) (le 1 i ++ le 4 len ++ w32 tag ++ zeros 4 ++ t) 1 (boolNat z) (by omega)
    simpa [reqHead] using this
  · have := fieldAt_le (le 2 code ++ le 1 (boolNat z) ++ le 1 i ++ le 4 len) (zeros 4 ++ t) 4 tag.toNat
      (by have := tag.isLt; omega)
    apply BitVec.eq_of_toNat_eq
    rw [u32_toNat]
    simpa [reqHead, w32] using this
  · simp [reqHead, le, w32, zeros]
  · have h4 := fieldAt_le (le 2 code ++ le 1 (boolNat z) ++ le 1 i) (w32 tag ++ zeros 4 ++ t) 4 len (by omega)
    have hs := slice_append (le 2 code ++ le 1 (boolNat z) ++ le 1 i ++ le 4 len ++ w32 tag) (zeros 4) t
    have h2 : (u8 (reqHead code z i len tag ++ t) 2).toNat < 2 := by
      cases z <;> simp [reqHead, u8, le, boolNat]
    simp only [List.length_append, le_length, w32_length, zeros_length, List.append_assoc] at h4 hs
    simp only [headForm, reqHead, zeroRange, List.append_assoc] at h2 ⊢
    rw [h4, hs, Bool.and_eq_true, decide_eq_true_eq]
    exact ⟨⟨h2, by simp [ht]; omega⟩, by decide⟩
  · simp [reqHead, ht]; omega

/-- Outside PS3 nothing that bars a request looks at its bytes. -/
theorem State.seat_gate (s : State) (mb : Nat) (raw : Bytes) (h : s.power.power ≠ .ps3) (code : Nat) :
    (s.seat mb raw).gate mb code = s.gate mb code := by
  have hp : (s.seat mb raw).power.power ≠ .ps3 := h
  rw [State.gate, State.gate, if_neg hp, if_neg h]
  rfl

/-- The carriage of a sealed request does not look at its bytes. -/
theorem State.seat_carried (s : State) (mb : Nat) (raw : Bytes) (i : Nat) (c : Carriage) :
    (s.seat mb raw).carried mb i true c = s.carried mb i true c := by
  cases c <;> simp [State.carried, State.seat, State.session]

/-- Nor does that of a request whose command names no port. -/
theorem State.seat_carried_plain (s : State) (mb : Nat) (raw : Bytes) (i : Nat) (c : Carriage) (h : c ≠ .link) :
    (s.seat mb raw).carried mb i false c = s.carried mb i false c := by
  cases c <;> simp_all [State.carried, State.seat, State.session]

theorem State.seat_turn (s : State) (mb : Nat) (raw raw' : Bytes) (hm : mb < 64) (h : (s.seat mb raw).turn mb = true) :
    (s.seat mb raw').turn mb = true := by
  have : ∀ k, ((s.seat mb raw').mailbox k).state = ((s.seat mb raw).mailbox k).state ∧
      ((s.seat mb raw').mailbox k).order = ((s.seat mb raw).mailbox k).order ∧
      ((s.seat mb raw').mailbox k).at_ = ((s.seat mb raw).mailbox k).at_ := by
    intro k
    by_cases hk : mb = k
    · subst hk; simp [State.seat, hm]
    · simp [State.seat, State.setMailbox_other _ _ hk]
  simp only [State.turn, State.submittedBefore] at h ⊢
  simpa only [this] using h

/-- A sealed request of a member of an open session, in order under its key, is accepted when it is its turn. -/
theorem State.accepts_sealed (s : State) (mb code i p n f : Nat) (seq : W64) (tag : W32) (master fp body : Bytes) (c : Carriage)
    (a : Access) (hps : s.power.power ≠ .ps3) (hm : mb < 64) (hp : p < 16) (hc : code < 65536) (hi : i < 256) (hb : body.length < 8100)
    (hk : s.host.spdm = [⟨n, f, fp, master⟩]) (hs : c ≠ .sessionOpen) (h1 : s.mbServed = true) (h2 : (s.seat mb [0]).turn mb = true)
    (h3 : s.gate mb code = stOk) (h4 : s.carried mb i true c = stOk)
    (h5 : (s.session i).admits (code = 0x0102) p seq n fp = true)
    (h6 : (s.acceptKey ⟨mb, code, i, tag, true, p, seq, n, fp, body⟩).allowed ⟨mb, code, i, tag, true, p, seq, n, fp, body⟩ c a = stOk) :
    (s.seat mb (sealedRequest master code i p seq tag body)).Accepts mb code c a ⟨mb, code, i, tag, true, p, seq, n, fp, body⟩ := by
  have hel := sealEnvelope_length (cmdKeyOf master i p) p i 0 seq code body
  obtain ⟨f1, f2, f3, f4, f5, f6, f7⟩ := reqHead_fields code i (body.length + 48) true tag
    (sealEnvelope (cmdKeyOf master i p) p i 0 seq code body) hc hi (by omega) hel
  have hr := s.seat_request (sealedRequest master code i p seq tag body) hm (by rw [sealedRequest, f7]; omega)
  have g1 := (envHead_fields p i 0 seq code body (by omega) (by omega)
    ((Crypto.gcmSeal (cmdKeyOf master i p) (envNonce 0 seq) (envHead p i 0 seq code body.length) body).1 ++
      (Crypto.gcmSeal (cmdKeyOf master i p) (envNonce 0 seq) (envHead p i 0 seq code body.length) body).2))
  have e1 : (u8 (sealEnvelope (cmdKeyOf master i p) p i 0 seq code body) 5).toNat = p := by
    simp only [sealEnvelope, List.append_assoc]; exact g1.2.1
  have e2 : u64 (sealEnvelope (cmdKeyOf master i p) p i 0 seq code body) 8 = seq := by
    simp only [sealEnvelope, List.append_assoc]; exact g1.2.2.1
  refine ⟨h1, ?_, ?_, ?_, ?_⟩
  · exact s.seat_turn mb [0] _ hm h2
  · rw [hr]; exact f1
  · have hkey : (s.seat mb (sealedRequest master code i p seq tag body)).envKey i
        (sealEnvelope (cmdKeyOf master i p) p i 0 seq code body) = some (n, fp, body) := by
      simp only [State.envKey, State.seat, State.setMailbox_host, hk, List.findSome?_cons, e1]
      rw [envOpen_seal _ _ _ _ _ _ (by omega) (by omega)]
      rfl
    have hform := envForm_seal (cmdKeyOf master i p) p i seq code body hp (by omega)
    have hg : (s.seat mb (sealedRequest master code i p seq tag body)).gate mb code = stOk := by
      rw [State.seat_gate _ _ _ hps]; exact h3
    have hcar : (s.seat mb (sealedRequest master code i p seq tag body)).carried mb i true c = stOk := by
      rw [State.seat_carried]; exact h4
    have hadm : ((s.seat mb (sealedRequest master code i p seq tag body)).session i).admits (code = 0x0102) p seq n fp = true := h5
    have hbit : bitOf (boolNat true) 0 = true := by decide
    simp only [State.take]
    rw [hr]
    simp only [sealedRequest] at *
    simp only [f2, f3, f4, f5, f6, hbit, hg, hcar, hs, false_and, if_false, hkey, e1, e2, hform, hadm]
    simp
  · generalize hq : (⟨mb, code, i, tag, true, p, seq, n, fp, body⟩ : Req) = r at h6 ⊢
    have hs : ((s.seat mb (sealedRequest master code i p seq tag body)).acceptKey r).session r.session =
        (s.acceptKey r).session r.session := by
      have he : (s.seat mb (sealedRequest master code i p seq tag body)).session r.session = s.session r.session := rfl
      by_cases hc : r.isSealed ∧ r.fp = (s.session r.session).partyFp r.party
      · rw [State.acceptKey, State.acceptKey, he, if_pos hc, if_pos hc]; rfl
      · rw [State.acceptKey, State.acceptKey, he, if_neg hc, if_neg hc]; rfl
    simpa only [State.allowed, hs] using h6

/-- An unsealed request. -/
def plainRequest (code i : Nat) (tag : W32) (body : Bytes) : Bytes := reqHead code false i body.length tag ++ body

/-- An unsealed request that its mailbox and session may carry is accepted when it is its turn. -/
theorem State.accepts_plain (s : State) (mb code i : Nat) (tag : W32) (body : Bytes) (c : Carriage) (a : Access)
    (hps : s.power.power ≠ .ps3) (hl : c ≠ .link) (hm : mb < 64) (hc : code < 65536) (hi : i < 256)
    (hb : body.length < 8100) (h1 : s.mbServed = true)
    (h2 : (s.seat mb [0]).turn mb = true) (h3 : s.gate mb code = stOk) (h4 : s.carried mb i false c = stOk)
    (h5 : s.allowed ⟨mb, code, i, tag, false, 0, 0, 0, [], body⟩ c a = stOk) :
    (s.seat mb (plainRequest code i tag body)).Accepts mb code c a ⟨mb, code, i, tag, false, 0, 0, 0, [], body⟩ := by
  obtain ⟨f1, f2, f3, f4, f5, f6, f7⟩ := reqHead_fields code i body.length false tag body hc hi (by omega) rfl
  have hr := s.seat_request (plainRequest code i tag body) hm (by rw [plainRequest, f7]; omega)
  refine ⟨h1, s.seat_turn mb [0] _ hm h2, ?_, ?_, ?_⟩
  · rw [hr]; exact f1
  · have hg : (s.seat mb (plainRequest code i tag body)).gate mb code = stOk := by
      rw [State.seat_gate _ _ _ hps]; exact h3
    have hcar : (s.seat mb (plainRequest code i tag body)).carried mb i false c = stOk := by
      rw [State.seat_carried_plain _ _ _ _ _ hl]; exact h4
    have hbit : bitOf (boolNat false) 0 = false := by decide
    simp only [State.take]
    rw [hr]
    simp only [plainRequest] at *
    simp only [f2, f3, f4, f5, f6, hbit, hg, hcar]
    simp
  · rw [State.acceptKey, if_neg (by simp)]; exact h5

end Sys2Proof.Machine
end

