-- ==== Sys2Proof/Laws/Work.lean ====
section
/-! SUPPORT. What the shared operations of the engines can change, said once: counting an event, the accesses of the memory
protection engine and a job's reads and writes change their own session, memories, units, counters and the free values
taken, and nothing else (`State.OwnWork`). -/

namespace Sys2Proof.Machine

theorem State.OwnWork.refl (s : State) (i : Nat) : s.OwnWork s i := ⟨rfl, fun _ _ _ => rfl, rfl, rfl, rfl⟩

theorem State.OwnWork.trans {s t u : State} {i : Nat} (h : s.OwnWork t i) (g : t.OwnWork u i) : s.OwnWork u i := by
  obtain ⟨h1, h2, h3, h4, h5⟩ := h
  obtain ⟨g1, g2, g3, g4, g5⟩ := g
  refine ⟨?_, fun j hj hi => (g2 j hj hi).trans (h2 j hj hi), g3.trans h3, g4.trans h4, g5.trans h5⟩
  rw [g1, h1]

/-- A change of the session that keeps its configuration, lists and command keys. -/
theorem State.OwnWork.onSession (s : State) (i : Nat) (f : Session → Session)
    (hc : (f (s.session i)).config = (s.session i).config) (hl : (f (s.session i)).lists = (s.session i).lists)
    (hk : (f (s.session i)).cmdKeys = (s.session i).cmdKeys) : s.OwnWork (s.onSession i f) i := by
  refine ⟨rfl, fun j _ hi => State.onSession_other s f (Ne.symm hi), ?_, ?_, ?_⟩ <;>
  · by_cases h : i < 4
    · rw [State.onSession_same s f h]; assumption
    · rw [State.session, State.onSession, State.setSession, vget_beyond _ _ (by omega), State.session,
        vget_beyond _ _ (by omega)]

theorem State.OwnWork.onMem (s : State) (i : Nat) (f : MemRec → MemRec) : s.OwnWork (s.onMem i f) i :=
  State.OwnWork.onSession s i _ rfl rfl rfl

theorem State.OwnWork.onChan (s : State) (i : Nat) (sp : Space) (f : Channel → Channel) : s.OwnWork (s.onChan sp f) i := by
  cases sp <;> exact ⟨rfl, fun _ _ _ => rfl, rfl, rfl, rfl⟩

/-- A fold of steps each of which is work of session `i`. -/
theorem State.OwnWork.foldl {β : Type} {i : Nat} (f : State → β → State) (hf : ∀ (s : State) b, s.OwnWork (f s b) i) (l : List β)
    (s : State) : s.OwnWork (l.foldl f s) i := by
  induction l generalizing s with
  | nil => exact .refl s i
  | cons b l ih => exact (hf s b).trans (ih (f s b))

/-! ### Counters -/

theorem Session.requestSample_keeps (x : Session) (room : Bool) (now : W64) (u k ev : Nat) (sl : Vector W64 16) :
    ∃ r, x.requestSample room now u k ev sl = { x with ring := r } := by
  unfold Session.requestSample
  split
  · exact ⟨_, rfl⟩
  · dsimp only; split <;> exact ⟨_, rfl⟩

theorem State.sample_ownWork (s : State) (i key ev : Nat) : s.OwnWork (s.sample i key ev) i := by
  unfold State.sample
  dsimp only
  obtain ⟨r, hr⟩ := (s.session i).requestSample_keeps (decide (s.queued (key / 64) < 4)) s.time.now (key / 64) (key % 64) ev
    (vget (Vector.replicate 16 0) s.perf.slots (key / 64))
  exact .onSession s i _ (by rw [hr]) (by rw [hr]) (by rw [hr])

/-- Counting in one counter changes the counters, the free values taken and, where the counter asks for them, sample requests. -/
theorem State.bump_cases (s : State) (i key n runs : Nat) : ∃ d p l ev,
    s.bump i key n runs = (l : List Nat).foldl (fun s _ => s.sample i key ev) ({ s with draws := d, perf := p } : State) := by
  unfold State.bump
  extract_lets c d k s1
  generalize c.advanceBy (if c.edge = true then 1 else eventMost c.event.toNat) s1.draws k = r
  obtain ⟨c', recs⟩ := r
  dsimp -zeta only
  extract_lets s2
  have h : s2 = { s with draws := s2.draws, perf := s2.perf } := by unfold s2 s1; split <;> rfl
  clear_value s2
  rw [h]
  split
  · exact ⟨_, _, List.range recs, c.event.toNat, rfl⟩
  · exact ⟨_, _, [], 0, rfl⟩

theorem State.bump_ownWork (s : State) (i key n runs : Nat) : s.OwnWork (s.bump i key n runs) i := by
  obtain ⟨d, p, l, ev, h⟩ := s.bump_cases i key n runs
  rw [h]
  exact .trans (t := { s with draws := d, perf := p }) ⟨rfl, fun _ _ _ => rfl, rfl, rfl, rfl⟩
    (.foldl _ (fun t _ => t.sample_ownWork i key ev) _ _)

theorem State.perfRuns_ownWork (s : State) (i u ev n runs : Nat) : s.OwnWork (s.perfRuns i u ev n runs) i := by
  unfold State.perfRuns
  split
  · exact .refl s i
  · exact .foldl _ (fun t (e : Nat × Counter) => t.bump_ownWork i e.1 n runs) _ s

theorem State.perfEvent_ownWork (s : State) (i u ev n : Nat) : s.OwnWork (s.perfEvent i u ev n) i :=
  s.perfRuns_ownWork i u ev n n

theorem State.memEvent_ownWork (s : State) (i : Nat) (sp : Space) (a b n : Nat) : s.OwnWork (s.memEvent i sp a b n) i := by
  unfold State.memEvent
  split <;> split <;> first | exact .refl s i | exact s.perfEvent_ownWork i _ _ n

/-! ### The memory protection engine -/

theorem State.touch_ownWork (s : State) (i : Nat) (sp : Space) (l : List Nat) : s.OwnWork (s.touch sp l) i := by
  unfold State.touch
  split
  · exact .refl s i
  · exact ⟨rfl, fun _ _ _ => rfl, rfl, rfl, rfl⟩

theorem State.touchData_ownWork (s : State) (i : Nat) (sp : Space) (l : List Nat) : s.OwnWork (s.touchData sp l) i :=
  s.touch_ownWork i sp _

/-- Stopping a context keeps a session's configuration, lists and command keys. -/
theorem Session.stopCtx_keeps (x : Session) (c : Nat) (st : Status) :
    (x.stopCtx c st).config = x.config ∧ (x.stopCtx c st).lists = x.lists ∧ (x.stopCtx c st).cmdKeys = x.cmdKeys := by
  unfold Session.stopCtx Session.stopCtxAt
  split
  · split <;> exact ⟨rfl, rfl, rfl⟩
  · exact ⟨rfl, rfl, rfl⟩

theorem Session.stopAll_keeps (x : Session) (st : Status) :
    (x.stopAll st).config = x.config ∧ (x.stopAll st).lists = x.lists ∧ (x.stopAll st).cmdKeys = x.cmdKeys := by
  have h : ∀ (l : List Nat) (x : Session),
      (l.foldl (fun x c => x.stopCtx c st) x).config = x.config ∧
        (l.foldl (fun x c => x.stopCtx c st) x).lists = x.lists ∧
        (l.foldl (fun x c => x.stopCtx c st) x).cmdKeys = x.cmdKeys := by
    intro l
    induction l with
    | nil => exact fun _ => ⟨rfl, rfl, rfl⟩
    | cons c l ih =>
      intro x
      obtain ⟨a, b, d⟩ := ih (x.stopCtx c st)
      obtain ⟨e, f, g⟩ := x.stopCtx_keeps c st
      exact ⟨a.trans e, b.trans f, d.trans g⟩
  exact h _ x

theorem State.violation_ownWork (s : State) (i : Nat) (sp : Space) (a k lv o : Nat) :
    s.OwnWork (s.violation i sp a k lv o) i := by
  unfold State.violation
  dsimp only
  refine (State.OwnWork.onMem s i _).trans (.onSession _ i _ ?_ ?_ ?_)
  · exact (Session.stopAll_keeps _ _).1
  · exact (Session.stopAll_keeps _ _).2.1
  · exact (Session.stopAll_keeps _ _).2.2

theorem State.fetchItem_ownWork (s : State) (i : Nat) (sp : Space) (q : Item) : s.OwnWork (s.fetchItem i sp q).1 i := by
  unfold State.fetchItem
  dsimp only
  split
  · dsimp only; exact .onChan s i sp _
  · have h := (s.memEvent_ownWork i sp 0x052 0 1).trans (.onMem _ i fun m =>
      { m with metaFetch := satAdd m.metaFetch 1
               corrected := satAdd m.corrected (((s.chan sp).conds q).filter (· = .correctable)).length })
    generalize (s.memEvent i sp 0x052 0 1).onMem i _ = t at h
    split
    · dsimp only; exact h.trans ((State.OwnWork.onChan t i sp _).trans (.onMem _ i _))
    · split
      · dsimp only; exact h.trans ((State.OwnWork.onChan t i sp _).trans (State.violation_ownWork _ i sp _ _ _ _))
      · dsimp only; exact h.trans (.onChan t i sp _)

theorem State.fetchAll_ownWork (i : Nat) (sp : Space) (l : List Item) (s : State) : s.OwnWork (s.fetchAll i sp l).1 i := by
  induction l generalizing s with
  | nil => exact .refl s i
  | cons q l ih =>
    unfold State.fetchAll
    dsimp only
    split
    · exact (s.fetchItem_ownWork i sp q).trans (ih _)
    · exact s.fetchItem_ownWork i sp q

theorem State.reach_ownWork (s : State) (i : Nat) (sp : Space) (l : List Item) : s.OwnWork (s.reach i sp l).1 i := by
  unfold State.reach
  split
  · exact .refl s i
  · exact State.fetchAll_ownWork i sp _ s

theorem State.storeItem_ownWork (s : State) (i : Nat) (sp : Space) (q : Item) : s.OwnWork (s.storeItem i sp q) i :=
  (State.OwnWork.onChan s i sp _).trans (State.touch_ownWork _ i sp _)

theorem State.checkLine_ownWork (s : State) (i : Nat) (sp : Space) (line k : Nat) : s.OwnWork (s.checkLine i sp line k).1 i := by
  unfold State.checkLine
  dsimp only
  have h := (s.memEvent_ownWork i sp 0x050 0x270 1).trans (.onMem _ i fun m =>
    { m with corrected := satAdd m.corrected ([Table.get .good (s.chan sp).tagLines (line / 8),
      Table.get .good (s.chan sp).lines line].filter (· = .correctable)).length })
  generalize (s.memEvent i sp 0x050 0x270 1).onMem i _ = t at h
  split
  · dsimp only; exact h.trans (.onMem t i _)
  · split
    · dsimp only; exact h.trans (State.violation_ownWork t i sp _ _ _ _)
    · exact h
    · exact h

theorem State.renewLine_ownWork (s : State) (i : Nat) (sp : Space) (line : Nat) : s.OwnWork (s.renewLine i sp line) i := by
  unfold State.renewLine
  dsimp only
  refine .trans ?_ (.onChan _ i sp _)
  split
  · exact (s.checkLine_ownWork i sp line 1).trans (.onChan _ i sp _)
  · exact s.checkLine_ownWork i sp line 1

theorem State.renewPage_ownWork (s : State) (i : Nat) (sp : Space) (p : Nat) : s.OwnWork (s.renewPage i sp p) i := by
  unfold State.renewPage
  dsimp only
  refine .trans (.trans (.trans (.foldl _ (fun t l => t.renewLine_ownWork i sp l) _ s) (State.memEvent_ownWork _ i sp _ _ _))
    (.onChan _ i sp _)) (State.touchData_ownWork _ i sp _)

/-! ### Making room in the metadata cache -/

theorem State.plainVersion_ownWork (s : State) (i : Nat) (sp : Space) (q : Item) : s.OwnWork (s.plainVersion i sp q).1 i := by
  unfold State.plainVersion
  dsimp only
  split
  · exact .refl s i
  · dsimp only; exact .onChan s i sp _

section
variable {next : State → Nat → Space → Item → State × Bool} (hn : ∀ s i sp q, State.OwnWork s (next s i sp q).1 i)
include hn

theorem State.evictBy_ownWork (s : State) (i : Nat) (sp : Space) (q : Item) : s.OwnWork (State.evictBy next s i sp q) i := by
  unfold State.evictBy
  split
  · exact .refl s i
  · exact .onChan s i sp _
  · dsimp only
    have h := s.reach_ownWork i sp (s.path sp q).dropLast
    generalize s.reach i sp (s.path sp q).dropLast = r at h
    split
    · exact h.trans (.onChan _ i sp _)
    · have h2 := h.trans (hn r.1 i sp q)
      generalize next r.1 i sp q = v at h2
      split
      · have h3 := h2.trans ((v.1.storeItem_ownWork i sp q).trans (.onChan _ i sp fun ch => ch.cached q none))
        split
        · exact h3.trans (.onChan _ i sp _)
        · exact h3
      · exact h2

theorem State.makeRoomFor_ownWork (i : Nat) (sp : Space) (o n fuel k : Nat) (s : State) :
    s.OwnWork (State.makeRoomFor next i sp o n fuel k s) i := by
  induction fuel generalizing k s with
  | zero => exact .refl s i
  | succ fuel ih =>
    unfold State.makeRoomFor
    dsimp only
    split
    · split
      · exact (State.evictBy_ownWork hn s i _ _).trans (ih _ _)
      · exact .refl s i
    · exact .refl s i

theorem State.makeRoom_ownWork (s : State) (i : Nat) (sp : Space) (o : Nat) : s.OwnWork (State.makeRoom next s i sp o) i :=
  .trans (t := { s with draws := s.draws + 1 }) ⟨rfl, fun _ _ _ => rfl, rfl, rfl, rfl⟩
    (State.makeRoomFor_ownWork hn i sp o _ _ _ _)

end

/-! ### Sweeping -/

theorem State.renewNodes_ownWork (s : State) (i : Nat) (sp : Space) (old : Channel) : s.OwnWork (s.renewNodes i sp old) i :=
  .foldl _ (fun t q => t.storeItem_ownWork i sp q) _ s

theorem State.sweepGroup_ownWork (s : State) (i : Nat) (sp : Space) (g : Nat) (mark : Channel → Channel) :
    s.OwnWork (s.sweepGroup i sp g mark) i := by
  unfold State.sweepGroup
  extract_lets old
  have h := (State.makeRoom_ownWork State.plainVersion_ownWork s i sp ((s.session i).itemOwner sp (0, g))).trans
    (State.reach_ownWork _ i sp (s.path sp (0, g)))
  generalize (State.makeRoom State.plainVersion s i sp ((s.session i).itemOwner sp (0, g))).reach i sp (s.path sp (0, g)) = r
    at h ⊢
  obtain ⟨t, st⟩ := r
  dsimp -zeta only at h ⊢
  extract_lets pages u v a b w
  have h1 : s.OwnWork u i := by
    unfold u
    split
    · exact h.trans (.foldl _ (fun t p => t.renewPage_ownWork i sp p) _ _)
    · exact h
  clear_value u
  have h2 : s.OwnWork v i := h1.trans (.onChan u i sp mark)
  clear_value v
  have h3 : s.OwnWork a i := by
    unfold a
    split
    · exact h2.trans (.onChan v i sp _)
    · exact h2
  clear_value a
  have h4 : s.OwnWork b i := h3.trans ((a.storeItem_ownWork i sp (0, g)).trans (.onChan _ i sp _))
  clear_value b
  refine .trans (t := w) ?_ (State.renewNodes_ownWork w i sp old)
  unfold w
  split
  · exact h2
  · split
    · exact h4
    · exact h4.trans (b.storeItem_ownWork i sp (1, g))

theorem State.sweepUpTo_ownWork (s : State) (i : Nat) (sp : Space) (e : Nat) : s.OwnWork (s.sweepUpTo i sp e) i := by
  unfold State.sweepUpTo
  split
  · exact (State.OwnWork.foldl _ (fun t g => t.sweepGroup_ownWork i sp g _) _ s).trans
      ((State.OwnWork.onChan _ i sp _).trans (State.renewNodes_ownWork _ i sp _))
  · exact .refl s i

theorem State.endSweep_ownWork (s : State) (i : Nat) (sp : Space) : s.OwnWork (s.endSweep i sp) i := by
  unfold State.endSweep
  extract_lets t
  have h : s.OwnWork t i := by
    unfold t
    split
    · split
      · exact .onChan s i sp _
      · exact .refl s i
    · exact .refl s i
  clear_value t
  split
  · exact h.trans (.onMem t i _)
  · exact h

theorem State.finishSweep_ownWork (s : State) (i : Nat) : s.OwnWork (s.finishSweep i) i :=
  .foldl _ (fun t sp => (t.sweepUpTo_ownWork i sp _).trans (State.endSweep_ownWork _ i sp)) _ s

theorem State.rollEpoch_ownWork (s : State) (i : Nat) : s.OwnWork (s.rollEpoch i).1 i := by
  unfold State.rollEpoch
  split
  · dsimp only; exact .onMem s i _
  · dsimp only
    refine .trans (.trans ?_ (.onMem _ i _)) (.foldl _ (fun t sp => .onChan t i sp _) _ _)
    split
    · exact s.finishSweep_ownWork i
    · exact .refl s i

theorem State.nextVersion_ownWork (s : State) (i : Nat) (sp : Space) (q : Item) : s.OwnWork (s.nextVersion i sp q).1 i := by
  unfold State.nextVersion
  dsimp only
  split
  · split
    · dsimp only; exact (s.rollEpoch_ownWork i).trans ((State.sweepUpTo_ownWork _ i sp _).trans (.onChan _ i sp _))
    · exact s.rollEpoch_ownWork i
  · exact s.plainVersion_ownWork i sp q

theorem State.evict_ownWork (s : State) (i : Nat) (sp : Space) (q : Item) : s.OwnWork (s.evict i sp q) i :=
  State.evictBy_ownWork State.nextVersion_ownWork s i sp q

theorem State.walk_ownWork (s : State) (i : Nat) (sp : Space) (line : Nat) : s.OwnWork (s.walk i sp line).1 i :=
  (State.makeRoom_ownWork State.nextVersion_ownWork s i sp _).trans (State.reach_ownWork _ i sp _)

theorem State.flush_ownWork (s : State) (i : Nat) (sp : Space) : s.OwnWork (s.flush i sp) i :=
  .foldl _ (fun _ _ => .foldl _ (fun t q => t.evict_ownWork i sp q) _ _) _ s

theorem State.refrank_ownWork (s : State) (i : Nat) (sp : Space) (p : Nat) : s.OwnWork (s.refrank i sp p).1 i := by
  unfold State.refrank
  extract_lets c q r lines fresh t u
  have h : s.OwnWork r.1 i := by
    unfold r
    split
    · split
      · exact (s.rollEpoch_ownWork i).trans (State.sweepUpTo_ownWork _ i sp _)
      · exact s.rollEpoch_ownWork i
    · exact .refl s i
  clear_value r
  have h1 : s.OwnWork t i := h.trans (.onChan _ i sp _)
  clear_value t
  have h2 : s.OwnWork u i := h1.trans ((t.renewPage_ownWork i sp p).trans ((State.memEvent_ownWork _ i sp _ _ _).trans
    (.onChan _ i sp _)))
  clear_value u
  split
  · dsimp only; exact h2.trans ((State.touchData_ownWork u i sp lines).trans (.onMem _ i _))
  · exact h

theorem State.sweepAhead_ownWork (s : State) (i : Nat) (sp : Space) (g : Nat) : s.OwnWork (s.sweepAhead i sp g) i := by
  unfold State.sweepAhead
  split
  · split
    · exact s.sweepGroup_ownWork i sp g _
    · exact .refl s i
  · exact .refl s i

theorem State.advance_ownWork (s : State) (i : Nat) (sp : Space) (line : Nat) : s.OwnWork (s.advance i sp line).1 i := by
  unfold State.advance
  dsimp only
  have h := s.sweepAhead_ownWork i sp (line / 64 / 8)
  generalize s.sweepAhead i sp (line / 64 / 8) = t at h
  have h2 : s.OwnWork (if (t.session i).mem.readOnly = true then (t, false)
      else if ((t.chan sp).pair line).2 = 127 then (t.memEvent i sp 0x053 0 1).refrank i sp (line / 64)
      else (t, true)).1 i := by
    split
    · exact h
    · split
      · exact h.trans ((t.memEvent_ownWork i sp 0x053 0 1).trans (State.refrank_ownWork _ i sp _))
      · exact h
  generalize (if (t.session i).mem.readOnly = true then (t, false)
      else if ((t.chan sp).pair line).2 = 127 then (t.memEvent i sp 0x053 0 1).refrank i sp (line / 64)
      else (t, true)) = r at h2
  split
  · dsimp only; exact h2.trans (.onChan _ i sp _)
  · exact h2

theorem State.poison_ownWork (s : State) (i : Nat) (sp : Space) (line : Nat) : s.OwnWork (s.poison i sp line) i := by
  unfold State.poison
  extract_lets lines t r
  have h : ∀ (l : List Nat) (r : State × Bool), s.OwnWork r.1 i →
      s.OwnWork (l.foldl (fun (r : State × Bool) l => if r.2 then r.1.advance i sp l else r) r).1 i := by
    intro l
    induction l with
    | nil => exact fun _ h => h
    | cons a l ih =>
      intro r h
      refine ih _ ?_
      dsimp only
      split
      · exact h.trans (r.1.advance_ownWork i sp a)
      · exact h
  have h : s.OwnWork r.1 i := h lines (t, true) (by unfold t; dsimp only; exact .onChan s i sp _)
  clear_value r
  split
  · exact h.trans ((State.memEvent_ownWork _ i sp _ _ _).trans (State.touchData_ownWork _ i sp _))
  · exact h.trans (.onChan _ i sp _)

theorem State.readLine_ownWork (s : State) (i : Nat) (sp : Space) (line : Nat) (part : Bool) :
    s.OwnWork (s.readLine i sp line part).1 i := by
  unfold State.readLine
  dsimp only
  have h := s.walk_ownWork i sp line
  generalize s.walk i sp line = w at h
  split
  · exact h
  · split
    · exact h
    · have h2 := h.trans (w.1.checkLine_ownWork i sp line (if part = true then 2 else 1))
      generalize w.1.checkLine i sp line (if part = true then 2 else 1) = r at h2
      split
      · exact h2
      · split
        · dsimp only; exact h2.trans (.onMem _ i _)
        · dsimp only; exact h2.trans (State.poison_ownWork _ i sp line)

theorem State.writeLine_ownWork (s : State) (i : Nat) (sp : Space) (line off : Nat) (b : Bytes) :
    s.OwnWork (s.writeLine i sp line off b).1 i := by
  unfold State.writeLine
  split
  · exact .refl s i
  · dsimp only
    have h : s.OwnWork (if b.length = 64 then ((s.walk i sp line).1, (s.walk i sp line).2, zeros 64)
        else s.readLine i sp line true).1 i := by
      split
      · exact s.walk_ownWork i sp line
      · exact s.readLine_ownWork i sp line true
    generalize (if b.length = 64 then ((s.walk i sp line).1, (s.walk i sp line).2, zeros 64)
        else s.readLine i sp line true) = w at h
    split
    · exact h
    · have g := h.trans (w.1.advance_ownWork i sp line)
      generalize w.1.advance i sp line = r at g
      split
      · dsimp only
        exact g.trans (((State.memEvent_ownWork _ i sp _ _ _).trans (State.touchData_ownWork _ i sp _)).trans (.onChan _ i sp _))
      · exact g

/-! ### Jobs -/

/-- A job's step: work of its own session, which stays the job's, as do its owner and its resolution. -/
def Job.Goes (j k : Job) : Prop := j.st.OwnWork k.st j.sess ∧ k.sess = j.sess ∧ k.owner = j.owner ∧ k.copies = j.copies

theorem Job.Goes.refl (j : Job) : j.Goes j := ⟨.refl _ _, rfl, rfl, rfl⟩

theorem Job.Goes.trans {j k l : Job} (h : j.Goes k) (g : k.Goes l) : j.Goes l := by
  obtain ⟨h1, h2, h3, h4⟩ := h
  obtain ⟨g1, g2, g3, g4⟩ := g
  exact ⟨h1.trans (h2 ▸ g1), g2.trans h2, g3.trans h3, g4.trans h4⟩

theorem Job.meet_goes (j : Job) (s : State) (st : Status) (h : j.st.OwnWork s j.sess) : j.Goes (j.meet s st) :=
  ⟨h, rfl, rfl, rfl⟩

theorem Job.Goes.foldl {β : Type} (f : Job → β → Job) (hf : ∀ (j : Job) b, j.Goes (f j b)) (l : List β) (j : Job) :
    j.Goes (l.foldl f j) := by
  induction l generalizing j with
  | nil => exact .refl j
  | cons b l ih => exact (hf j b).trans (ih _)

theorem Job.noteStrike_goes (j : Job) (b : Bool) : j.Goes (j.noteStrike b) := by
  unfold Job.noteStrike
  split
  · exact j.meet_goes _ _ (.refl _ _)
  · exact .refl j

theorem Job.readRun_goes (j : Job) (a n : Nat) : j.Goes (j.readRun a n).1 := by
  unfold Job.readRun
  split
  · simp only []
    split
    · exact j.meet_goes _ _ (.refl _ _)
    · rename_i o c cpa _
      generalize ((j.st.session j.sess).struck o || (j.st.session j.sess).struck j.owner) = struck
      split
      · exact j.meet_goes _ _ (.refl _ _)
      · have hk := j.noteStrike_goes struck
        generalize j.noteStrike struck = k at hk
        have h := State.readLine_ownWork k.st k.sess (.hbm c) (cpa / 64) false
        generalize k.st.readLine k.sess (.hbm c) (cpa / 64) false = w at h
        exact hk.trans (k.meet_goes w.1 w.2.1 h)
  · exact .refl j

theorem Job.readHbm_goes (j : Job) (a n : Nat) : j.Goes (j.readHbm a n).1 := by
  unfold Job.readHbm
  generalize linesOf a n = l
  have h : ∀ (l : List (Nat × Nat × Nat)) (acc : Job × List Bytes),
      acc.1.Goes (l.foldl (fun (acc : Job × List Bytes) q =>
        ((acc.1.readRun (64 * q.1 + q.2.1) q.2.2).1, (acc.1.readRun (64 * q.1 + q.2.1) q.2.2).2 :: acc.2)) acc).1 := by
    intro l
    induction l with
    | nil => exact fun acc => .refl acc.1
    | cons q l ih => exact fun acc => (acc.1.readRun_goes _ _).trans (ih _)
  exact h l (j, [])

theorem Job.writeRun_goes (j : Job) (a : Nat) (b : Bytes) : j.Goes (j.writeRun a b) := by
  unfold Job.writeRun
  split
  · simp only []
    split
    · exact j.meet_goes _ _ (.refl _ _)
    · rename_i c cpa _
      split
      · exact j.meet_goes _ _ (.refl _ _)
      · have h := State.writeLine_ownWork j.st j.sess (.hbm c) (cpa / 64) (cpa % 64) b
        generalize j.st.writeLine j.sess (.hbm c) (cpa / 64) (cpa % 64) b = w at h
        refine j.meet_goes _ _ ?_
        split
        · exact h.trans (.onSession _ _ _ rfl rfl rfl)
        · exact h
  · exact .refl j

theorem Job.writeHbm_goes (j : Job) (a : Nat) (b : Bytes) : j.Goes (j.writeHbm a b) :=
  .foldl _ (fun j _ => j.writeRun_goes _ _) _ _

theorem Job.readStore_goes (j : Job) (d o n : Nat) : j.Goes (j.readStore d o n).1 := by
  unfold Job.readStore
  split
  · dsimp only
    split
    · exact j.meet_goes _ _ (.refl _ _)
    · refine (j.noteStrike_goes ((j.st.session j.sess).struck j.owner)).trans ?_
      generalize j.noteStrike ((j.st.session j.sess).struck j.owner) = k
      exact ⟨State.perfEvent_ownWork _ _ _ _ _, rfl, rfl, rfl⟩
  · exact .refl j

theorem Job.writeStore_goes (j : Job) (d o : Nat) (b : Bytes) : j.Goes (j.writeStore d o b) := by
  unfold Job.writeStore
  split
  · split
    · exact j.meet_goes _ _ (.refl _ _)
    · refine ⟨?_, rfl, rfl, rfl⟩
      dsimp only
      refine (State.perfEvent_ownWork j.st j.sess d 0x011 ((b.length + 63) / 64)).trans ?_
      generalize j.st.perfEvent j.sess d 0x011 ((b.length + 63) / 64) = t
      refine (State.OwnWork.onSession t j.sess (fun x => x.overwrite d o b.length) rfl rfl rfl).trans ?_
      exact ⟨rfl, fun _ _ _ => rfl, rfl, rfl, rfl⟩
  · exact .refl j

theorem Job.read_goes (j : Job) (p : Place) (n : Nat) : j.Goes (j.read p n).1 := by
  cases p with
  | store d o => exact j.readStore_goes d o n
  | hbm a => exact j.readHbm_goes a n
  | none => exact .refl j

theorem Job.write_goes (j : Job) (p : Place) (b : Bytes) : j.Goes (j.write p b) := by
  cases p with
  | store d o => exact j.writeStore_goes d o b
  | hbm a => exact j.writeHbm_goes a b
  | none => exact .refl j

theorem Job.writeCodes_goes (j : Job) (p : Place) (w : Nat) (cs : List Nat) : j.Goes (j.writeCodes p w cs) := by
  unfold Job.writeCodes
  simp only []
  split
  · exact .refl j
  · split <;> exact j.write_goes _ _

theorem Job.count_goes (j : Job) (k : Nat) (c : Counts) : j.Goes (j.count k c) := by
  refine ⟨?_, rfl, rfl, rfl⟩
  unfold Job.count
  dsimp only
  refine State.OwnWork.onSession _ _ _ ?_ ?_ ?_ <;> (split <;> rfl)

theorem Job.intake_goes (j : Job) (c : Counts) : j.Goes (j.intake c) := j.count_goes _ _

/-! ### Settled memory -/

theorem Table.mem_of_get {α : Type} {d v : α} {t : Table α} {k : Nat} (h : Table.get d t k = v) (hv : v ≠ d) :
    (k, v) ∈ t := by
  induction t with
  | nil => exact absurd h.symm hv
  | cons e t ih =>
    obtain ⟨a, w⟩ := e
    unfold Table.get at h
    split at h
    · rename_i ha; subst ha; subst h; simp
    · exact List.mem_cons_of_mem _ (ih h)

theorem Table.mem_set {α : Type} [DecidableEq α] {d x : α} {t : Table α} {k : Nat} {e : Nat × α}
    (h : e ∈ Table.set d t k x) : e ∈ t ∨ e = (k, x) := by
  induction t with
  | nil => unfold Table.set at h; split at h <;> simp_all
  | cons p t ih =>
    obtain ⟨a, w⟩ := p
    unfold Table.set at h
    split at h
    · split at h
      · exact .inl h
      · rcases List.mem_cons.1 h with rfl | h
        · exact .inr rfl
        · exact .inl h
    · split at h
      · split at h
        · exact .inl (List.mem_cons_of_mem _ h)
        · rcases List.mem_cons.1 h with rfl | h
          · exact .inr rfl
          · exact .inl (List.mem_cons_of_mem _ h)
      · rcases List.mem_cons.1 h with rfl | h
        · exact .inl (by simp)
        · rcases ih h with h | h
          · exact .inl (List.mem_cons_of_mem _ h)
          · exact .inr h

theorem State.Looks.refl (s : State) (i : Nat) : s.Looks s i :=
  ⟨rfl, fun _ => ⟨_, rfl, id⟩, (s.session i).mem.metaFetch, (s.session i).ring,
    congrArg State.sessions (s.setSession_self i).symm⟩

theorem State.Looks.session {s t : State} {i : Nat} (h : s.Looks t i) :
    ∃ f r, t.session i = { s.session i with mem := { (s.session i).mem with metaFetch := f }, ring := r } := by
  obtain ⟨_, _, f, r, h⟩ := h
  by_cases hi : i < 4
  · exact ⟨f, r, by rw [State.session, h, vget_vset_same _ _ _ hi]⟩
  · refine ⟨(s.session i).mem.metaFetch, (s.session i).ring, ?_⟩
    have e : ∀ u : State, u.session i = Session.reset := fun u => vget_beyond _ _ (by omega)
    rw [e t, e s]

theorem State.Looks.trans {s t u : State} {i : Nat} (h : s.Looks t i) (g : t.Looks u i) : s.Looks u i := by
  have hx := h.session
  obtain ⟨h1, h2, f, r, h3⟩ := h
  obtain ⟨g1, g2, f', r', g3⟩ := g
  refine ⟨by rw [g1, h1], fun sp => ?_, f', r', ?_⟩
  · obtain ⟨c, hc, hk⟩ := h2 sp
    obtain ⟨c', hc', hk'⟩ := g2 sp
    exact ⟨c', by rw [hc', hc], fun e => hk' (by rw [hc]; exact hk e)⟩
  · obtain ⟨p, q, hx⟩ := hx
    rw [g3, h3, hx, vset_vset]

/-- Reads of settled memory leave it settled. -/
theorem State.Looks.settled {s t : State} {i : Nat} (h : s.Looks t i) (hs : s.Settled) : t.Settled := by
  intro sp
  obtain ⟨c, hc, hk⟩ := h.2.1 sp
  obtain ⟨a1, a2, a3, a4, a5, a6⟩ := hs sp
  rw [hc]
  exact ⟨a1, a2, a3, a4, a5, hk a6⟩

/-- A change of the session's fetch count and sample ring. -/
theorem State.Looks.onSession (s : State) (i : Nat) (g : Session → Session)
    (h : ∃ f r, g (s.session i) = { s.session i with mem := { (s.session i).mem with metaFetch := f }, ring := r }) :
    s.Looks (s.onSession i g) i := by
  obtain ⟨f, r, h⟩ := h
  exact ⟨rfl, fun sp => ⟨(s.chan sp).cache, by cases sp <;> rfl, id⟩, f, r, by rw [State.onSession, State.setSession, h]⟩

theorem State.Looks.onMem (s : State) (i : Nat) (g : MemRec → MemRec) (f : W64)
    (h : g (s.session i).mem = { (s.session i).mem with metaFetch := f }) : s.Looks (s.onMem i g) i :=
  .onSession s i _ ⟨f, (s.session i).ring, by dsimp only; rw [h]⟩

theorem State.chan_onChan (s : State) (sp sq : Space) (f : Channel → Channel) :
    (s.onChan sp f).chan sq = s.chan sq ∨ (sq = sp ∧ (s.onChan sp f).chan sq = f (s.chan sp)) := by
  cases sp <;> cases sq
  · rename_i c d
    by_cases h : c = d
    · subst h
      by_cases hc : c < 64
      · exact .inr ⟨rfl, vget_vset_same _ _ _ hc⟩
      · exact .inl (by simp only [State.onChan, State.setChan, State.chan, vset_beyond _ _ (Nat.le_of_not_lt hc)])
    · exact .inl (vget_vset_other _ _ _ h)
  · exact .inl rfl
  · exact .inl rfl
  · rename_i c d
    by_cases h : c = d
    · subst h
      by_cases hc : c < 4
      · exact .inr ⟨rfl, vget_vset_same _ _ _ hc⟩
      · exact .inl (by simp only [State.onChan, State.setChan, State.chan, vset_beyond _ _ (Nat.le_of_not_lt hc)])
    · exact .inl (vget_vset_other _ _ _ h)

/-- An item enters the cache clean, or leaves it. -/
theorem State.Looks.cached (s : State) (i : Nat) (sp : Space) (q : Item) (v : Option Bool) (hv : v ≠ some true) :
    s.Looks (s.onChan sp fun ch => ch.cached q v) i := by
  have hx : (s.onChan sp fun ch => ch.cached q v).sessions = s.sessions := by cases sp <;> rfl
  refine ⟨by cases sp <;> rfl, fun sq => ?_, (s.session i).mem.metaFetch, (s.session i).ring,
    hx.trans (congrArg State.sessions (s.setSession_self i).symm)⟩
  · rcases s.chan_onChan sp sq fun ch => ch.cached q v with h | ⟨rfl, h⟩
    · exact ⟨_, h, id⟩
    · refine ⟨_, h, fun hc e he => ?_⟩
      rcases Table.mem_set he with he | rfl
      · exact hc e he
      · exact hv

theorem State.Looks.foldl {β : Type} {i : Nat} (f : State → β → State) (hf : ∀ (s : State) b, s.Looks (f s b) i) (l : List β)
    (s : State) : s.Looks (l.foldl f s) i := by
  induction l generalizing s with
  | nil => exact .refl s i
  | cons b l ih => exact (hf s b).trans (ih (f s b))

theorem State.sample_looks (s : State) (i key ev : Nat) : s.Looks (s.sample i key ev) i := by
  unfold State.sample
  dsimp only
  obtain ⟨r, hr⟩ := (s.session i).requestSample_keeps (decide (s.queued (key / 64) < 4)) s.time.now (key / 64) (key % 64) ev
    (vget (Vector.replicate 16 0) s.perf.slots (key / 64))
  exact .onSession s i _ ⟨(s.session i).mem.metaFetch, r, hr⟩

theorem State.bump_looks (s : State) (i key n runs : Nat) : s.Looks (s.bump i key n runs) i := by
  obtain ⟨d, p, l, ev, h⟩ := s.bump_cases i key n runs
  rw [h]
  exact .trans (t := { s with draws := d, perf := p })
    ⟨rfl, fun sp => ⟨(s.chan sp).cache, by cases sp <;> rfl, id⟩, (State.Looks.refl s i).2.2⟩
    (.foldl _ (fun t _ => t.sample_looks i key ev) _ _)

theorem State.perfEvent_looks (s : State) (i u ev n : Nat) : s.Looks (s.perfEvent i u ev n) i := by
  unfold State.perfEvent State.perfRuns
  split
  · exact .refl s i
  · exact .foldl _ (fun t (e : Nat × Counter) => t.bump_looks i e.1 n n) _ s

theorem State.memEvent_looks (s : State) (i : Nat) (sp : Space) (a b n : Nat) : s.Looks (s.memEvent i sp a b n) i := by
  unfold State.memEvent
  split <;> split <;> first | exact .refl s i | exact s.perfEvent_looks i _ _ n

theorem satAdd_zero {w : Nat} (x : BitVec w) : satAdd x 0 = x := by
  unfold satAdd
  split
  · simp
  · rename_i h; exact absurd x.isLt (by omega)

/-- A settled item is fetched without a fault. -/
theorem State.fetchItem_settled (s : State) (i : Nat) (sp : Space) (q : Item) (hs : s.Settled) :
    ∃ t, s.fetchItem i sp q = (t, stOk) ∧ s.Looks t i := by
  have hc : ∀ x ∈ (s.chan sp).conds q, x = .good := by
    obtain ⟨_, h2, h3, _, _, _⟩ := hs sp
    intro x hx
    unfold Channel.conds at hx
    rw [h2, h3] at hx
    split at hx
    · obtain ⟨k, _, rfl⟩ := List.mem_map.1 hx; rfl
    · simpa using hx
  have no : ∀ x, x ≠ .good → ((s.chan sp).conds q).contains x = false := by
    intro x hx
    rw [List.contains_eq_mem]
    simpa using fun h => hx (hc x h)
  have none_ : ((s.chan sp).conds q).filter (· = .correctable) = [] := by
    rw [List.filter_eq_nil_iff]; intro x hx; rw [hc x hx]; decide
  unfold State.fetchItem
  dsimp only
  split
  · exact ⟨_, rfl, .cached s i sp q _ (by decide)⟩
  · rw [no _ (by decide), no _ (by decide), none_]
    have h := s.memEvent_looks i sp 0x052 0 1
    generalize s.memEvent i sp 0x052 0 1 = u at h
    refine ⟨_, rfl, (h.trans (.onMem u i _ (satAdd (u.session i).mem.metaFetch 1) ?_)).trans (.cached _ i sp q _ (by decide))⟩
    dsimp only [List.length_nil]
    rw [satAdd_zero]

theorem State.fetchAll_settled (i : Nat) (sp : Space) (l : List Item) (s : State) (hs : s.Settled) :
    ∃ t, s.fetchAll i sp l = (t, stOk) ∧ s.Looks t i := by
  induction l generalizing s with
  | nil => exact ⟨s, rfl, .refl s i⟩
  | cons q l ih =>
    obtain ⟨t, ht, hl⟩ := s.fetchItem_settled i sp q hs
    obtain ⟨u, hu, hm⟩ := ih t (hl.settled hs)
    refine ⟨u, ?_, hl.trans hm⟩
    unfold State.fetchAll
    rw [ht]
    exact hu

theorem State.evict_settled (s : State) (i : Nat) (sp : Space) (q : Item) (hs : s.Settled) : s.Looks (State.evictBy State.nextVersion s i sp q) i := by
  unfold State.evictBy
  split
  · exact .refl s i
  · exact .cached s i sp q _ (by decide)
  · rename_i h
    exact absurd rfl ((hs sp).2.2.2.2.2 _ (Table.mem_of_get h (by decide)))

theorem State.makeRoomFor_settled (i : Nat) (sp : Space) (o n fuel k : Nat) (s : State) (hs : s.Settled) :
    s.Looks (State.makeRoomFor State.nextVersion i sp o n fuel k s) i := by
  induction fuel generalizing k s with
  | zero => exact .refl s i
  | succ fuel ih =>
    unfold State.makeRoomFor
    dsimp only
    split
    · rename_i e _
      split
      · have h := s.evict_settled i e.1 e.2 hs
        exact h.trans (ih _ _ (h.settled hs))
      · exact .refl s i
    · exact .refl s i

/-- The metadata walk of an access to settled memory finds no fault (R588). -/
theorem State.walk_settled (s : State) (i : Nat) (sp : Space) (line : Nat) (hs : s.Settled) :
    ∃ t, s.walk i sp line = (t, stOk) ∧ s.Looks t i := by
  have h : s.Looks (State.makeRoom State.nextVersion s i sp ((s.session i).lineOwner sp line)) i := by
    have h0 : s.Looks ({ s with draws := s.draws + 1 } : State) i :=
      ⟨rfl, fun sp => ⟨(s.chan sp).cache, by cases sp <;> rfl, id⟩, (State.Looks.refl s i).2.2⟩
    exact h0.trans (State.makeRoomFor_settled i sp _ _ _ _ _ (h0.settled hs))
  unfold State.walk State.reach
  generalize State.makeRoom State.nextVersion s i sp ((s.session i).lineOwner sp line) = t at h
  have e : ((s.path sp (groupItem line)).findSome? fun q => (t.chan sp).failed.find? (·.1 = q.key)) = none := by
    rw [(h.settled hs sp).1, List.findSome?_eq_none_iff]
    exact fun _ _ => rfl
  have e : ∀ l : List Item, (l.findSome? fun q => (t.chan sp).failed.find? (·.1 = q.key)) = none := by
    intro l
    rw [(h.settled hs sp).1, List.findSome?_eq_none_iff]
    exact fun _ _ => rfl
  rw [e]
  obtain ⟨u, hu, hl⟩ := State.fetchAll_settled i sp _ t (h.settled hs)
  exact ⟨u, hu, h.trans hl⟩

/-- A line of settled memory passes its check. -/
theorem State.checkLine_settled (s : State) (i : Nat) (sp : Space) (line k : Nat) (hs : s.Settled) :
    ∃ t, s.checkLine i sp line k = (t, stOk) ∧ s.Looks t i := by
  obtain ⟨_, _, _, h4, h5, _⟩ := hs sp
  unfold State.checkLine
  simp only [h4, h5, Table.get_nil]
  have h := s.memEvent_looks i sp 0x050 0x270 1
  generalize s.memEvent i sp 0x050 0x270 1 = u at h
  refine ⟨_, ?_, h.trans (.onMem u i (fun m => { m with corrected := satAdd m.corrected 0 }) (u.session i).mem.metaFetch ?_)⟩
  · rw [if_neg (by decide)]; rfl
  · dsimp only; rw [satAdd_zero]

/-- Reading a line of settled memory: zeros where nothing was written since its counters were fresh, else its bytes. -/
theorem State.readLine_settled (s : State) (i : Nat) (sp : Space) (line : Nat) (part : Bool) (hs : s.Settled) :
    ∃ t, s.readLine i sp line part =
        (t, stOk, if (s.chan sp).pair line = (0, 0) then zeros 64 else (s.chan sp).lineBytes line) ∧ s.Looks t i := by
  obtain ⟨t, ht, hl⟩ := s.walk_settled i sp line hs
  have hc : (t.chan sp).pair line = (s.chan sp).pair line ∧ (t.chan sp).lineBytes line = (s.chan sp).lineBytes line := by
    obtain ⟨c, hc, _⟩ := hl.2.1 sp
    rw [hc]; exact ⟨rfl, rfl⟩
  unfold State.readLine
  simp only [ht, hc.1, hc.2]
  rw [if_neg (fun h : stOk ≠ stOk => h rfl)]
  split
  · exact ⟨t, rfl, hl⟩
  · obtain ⟨u, hu, hm⟩ := t.checkLine_settled i sp line (if part = true then 2 else 1) (hl.settled hs)
    rw [hu]
    exact ⟨u, by simp, hl.trans hm⟩

/-- A run of settled memory read by a live job of a session that holds the channel it lies in. -/
theorem Job.readRun_settled (j : Job) (a n o c cpa : Nat) (hl : j.live = true) (hs : j.st.Settled)
    (hx : (j.st.session j.sess).locate ((j.st.session j.sess).resolve j.copies a) = some (o, c, cpa))
    (ho : (j.st.session j.sess).struck o = false) (hj : (j.st.session j.sess).struck j.owner = false) (hh : (j.st.chan (.hbm c)).holder = some (j.sess, o)) :
    ∃ t, j.readRun a n = ({ j with st := t },
        slice (if (j.st.chan (.hbm c)).pair (cpa / 64) = (0, 0) then zeros 64 else (j.st.chan (.hbm c)).lineBytes (cpa / 64))
          (cpa % 64) n) ∧ j.st.Looks t j.sess := by
  obtain ⟨t, ht, hk⟩ := j.st.readLine_settled j.sess (.hbm c) (cpa / 64) false hs
  refine ⟨t, ?_, hk⟩
  unfold Job.readRun
  simp only [hl, hx, ho, hj, hh, Job.meet, Job.dropsRead, Job.noteStrike]
  have e : (if j.status = stOk ∨ memoryFailure stOk = true ∧ (j.status = stLocked ∨ j.status = stRevoked) then stOk
      else j.status) = j.status := by
    split
    · rename_i h
      rcases h with h | ⟨h, _⟩
      · exact h.symm
      · exact absurd h (by decide)
    · rfl
  simp only [if_true, Bool.false_and, Bool.or_self, if_false, ne_eq, not_true_eq_false, or_self, Bool.false_eq_true, ht, e]

/-! ### Ending a descriptor -/

@[simp] theorem Session.setCtx_twice (x : Session) (c : Nat) (k l : Context) : (x.setCtx c k).setCtx c l = x.setCtx c l := by
  simp [Session.setCtx]

theorem Session.ctx_setCtx (x : Session) (c : Nat) (k : Context) (h : 4 ≤ c → k = Context.reset) : (x.setCtx c k).ctx c = k := by
  by_cases hc : c < 4
  · exact x.setCtx_same k hc
  · rw [Session.ctx, vget_beyond _ _ (by omega), h (by omega)]

/-- Stopping a context, in one record. -/
theorem Session.stopCtxAt_eq (x : Session) (c : Nat) (st : Status) (slot index : Nat) :
    x.stopCtxAt c st slot index =
      { x with
        ctxs := vset x.ctxs c (if (x.ctx c).state = .stopped then x.ctx c else
          { x.ctx c with state := .stopped, status := st, slot := BitVec.ofNat 8 slot, index := BitVec.ofNat 17 index,
                         waitMet := false })
        voteReasons := x.voteReasons ||| (if (x.ctx c).state = .stopped then 0 else rsContextStop) } := by
  unfold Session.stopCtxAt
  split
  · simp [Session.ctx]
  · rfl

/-- A descriptor's completion (R95, R591), in one record. -/
theorem State.completeOp_eq (s : State) (i : Nat) (p : Op) (st : Status) (hi : i < 4) (hc : p.ctx < 4) :
    s.completeOp i p st = s.ended i p st true := by
  have hx : ∀ (v : Vector Context 4) (k : Context), vget Context.reset (vset v p.ctx k) p.ctx = k :=
    fun v k => vget_vset_same _ v _ hc
  have h0 : stOk ≠ stRevoked := by decide
  have h1 : stVoided ≠ stRevoked := by decide
  unfold State.completeOp State.ended
  simp only [State.onSession, Session.onCtx, Session.setCtx, Session.dropOp, Session.ctx, Session.reason, State.setSession,
    State.session, Session.stopCtxAt, vget_vset_same _ _ _ hi, State.tallyAdd, State.setTally, State.tally]
  by_cases hg : st = stOk ∨ st = stVoided
  · have hr : st ≠ stRevoked := by rcases hg with h | h <;> rw [h] <;> assumption
    simp only [hg, hr]
    by_cases hs : dSignalEn p.desc = true
    · simp [hs]; rfl
    · simp [hs]
  · simp only [hg]
    by_cases hr : st = stRevoked
    · subst hr
      by_cases hl : (vget Context.reset (vget Session.reset s.sessions i).ctxs p.ctx).state = .stopped <;> simp [hx, hl]
    · by_cases hl : (vget Context.reset (vget Session.reset s.sessions i).ctxs p.ctx).state = .stopped <;> simp [hx, hl, hr]

/-- A descriptor stopped at its launch (R95), in one record. -/
theorem State.stopOp_eq (s : State) (i : Nat) (p : Op) (st : Status) (hi : i < 4) (h0 : st ≠ stOk) (h1 : st ≠ stVoided) :
    s.stopOp i p st = s.stopped i p st := by
  unfold State.stopOp State.stopped State.ended State.phDone
  simp only [State.onSession, State.setSession, State.session, vget_vset_same _ _ _ hi, vset_vset, Session.stopCtxAt_eq,
    Session.dropSeal]
  by_cases hq : p.code = opSeal <;> by_cases ha : p.isArray = true <;>
    simp [hq, ha, h0, h1, Session.dropOp, Session.ctx]

end Sys2Proof.Machine
end

