-- ==== Sys2Proof/Tests/Slice0.lean ====
section
/-! SUPPORT. Tests: an ill-formed command for each check of WellFormed, worked values of the manual, and for each statement of
Certificates/Slice0 a state and operands that meet its hypotheses. -/

namespace Sys2Proof.Tests

open Sys2Proof.Machine

-- Each witness is checked before the next begins: one thread is enough.
set_option Elab.async false

/-! ### Small states -/

/-- A configuration record: flags, parties and ports as given; the whole piece; channels 0 to 30 of party 0, 31 of the last
party, the others joint. -/
def cfgD (digest : Bytes) (flags parties mask : Nat) : Bytes :=
  ([1, 0] ++ le 1 parties ++ le 1 flags ++ le 2 0 ++ le 2 64 ++ le 4 mask ++ [1, 0] ++ zeros 2) ++
    (le 8 (32 * userBytes) ++ le 8 4096 ++ zeros 12 ++ le 4 1 ++ le 4 1 ++ zeros 12) ++
    (zeros 31 ++ le 1 (parties - 1) ++ List.replicate 32 31) ++ zeros 256 ++
    (List.replicate 4 ([0, 31, 30] ++ le 1 (parties - 1) ++ List.replicate 12 0xFF)).flatten ++ (0 :: 31 :: List.replicate 14 0xFF) ++
    zeros 68 ++ zeros 44 ++ digest ++ zeros 64 ++ List.replicate 64 (if parties = 1 then 0 else 1) ++ zeros 1280

@[inherit_doc cfgD] def cfg (flags parties mask : Nat) : Bytes := cfgD (zeros 64) flags parties mask

/-- A running session of that record whose one party, of fingerprint zero, has joined. -/
def sess : Session :=
  { Session.reset with state := .running, config := cfg 0 1 0, joined := 1, piece := { Piece.reset with dies := 4 } }

/-- A module in service: every domain released, firmware running, the host attached with one SPDM session, session 0 running. -/
def up : State :=
  { State.reset with
    resets := { Resets.reset with
      holds := [], since := [], inReset := none, pll := BitVec.allOnes 18, clockGood := BitVec.allOnes 18,
      released := BitVec.allOnes 18, phase := 7, inPhase := 8 }
    power := { PowerPins.reset with
      power := .ps0, sb12 := true, in48 := 48000, converters := true, powerGood := true, perst := true, trst := true }
    aon := { Aon.reset with running := true }
    fw := { Firmware.reset with state := .running }
    lc := { LifeCycle.reset with attestKeys := true }
    host := { HostPort.reset with
      linkUp := true, powered := true, width := 16, rate := 3, configDone := true, memActive := true, spdm := [⟨1, 0, zeros 64, zeros 64⟩] }
    sessions := vset State.reset.sessions 0 sess }

/-- The request that `plainRequest` lays out, with tag 0. -/
def preq (mb code i : Nat) (body : Bytes) : Req := ⟨mb, code, i, 0, false, 0, 0, 0, [], body⟩

/-- The request of party `p` of session `i` that `sealedRequest` lays out under SPDM session 1, with tag 0. -/
def sreq (mb code i p : Nat) (fp body : Bytes) : Req := ⟨mb, code, i, 0, true, p, 1, 1, fp, body⟩

/-- What an unsealed request needs. -/
def plainOk (s : State) (mb code i : Nat) (body : Bytes) (c : Carriage) (a : Access) : Bool :=
  decide (s.power.power ≠ .ps3 ∧ c ≠ .link ∧ mb < 64 ∧ code < 65536 ∧ i < 256 ∧ body.length < 8100) && s.mbServed && (s.seat mb [0]).turn mb &&
    decide (s.gate mb code = stOk) && decide (s.carried mb i false c = stOk) && decide (s.allowed (preq mb code i body) c a = stOk)

/-- What a sealed request needs. -/
def sealedOk (s : State) (mb code i p : Nat) (fp body : Bytes) (c : Carriage) (a : Access) : Bool :=
  decide (s.power.power ≠ .ps3 ∧ mb < 64 ∧ p < 16 ∧ code < 65536 ∧ i < 256 ∧ body.length < 8100 ∧ c ≠ .sessionOpen) && s.mbServed && (s.seat mb [0]).turn mb &&
    decide (s.gate mb code = stOk) && decide (s.carried mb i true c = stOk) && decide (s.host.spdm = [⟨1, 0, fp, zeros 64⟩]) &&
    (s.session i).admits (code = 0x0102) p 1 1 fp &&
    decide ((s.acceptKey (sreq mb code i p fp body)).allowed (sreq mb code i p fp body) c a = stOk)

theorem plain {s : State} {mb code i : Nat} {body : Bytes} {c : Carriage} {a : Access}
    (h : plainOk s mb code i body c a = true) :
    (s.seat mb (plainRequest code i 0 body)).Accepts mb code c a (preq mb code i body) := by
  simp only [plainOk, Bool.and_eq_true, decide_eq_true_eq] at h
  obtain ⟨⟨⟨⟨⟨⟨hp, hl, h1, h2, h3, h4⟩, h5⟩, h6⟩, h7⟩, h8⟩, h9⟩ := h
  exact s.accepts_plain mb code i 0 body c a hp hl h1 h2 h3 h4 h5 h6 h7 h8 h9

theorem seald {s : State} {mb code i p : Nat} {fp body : Bytes} {c : Carriage} {a : Access}
    (h : sealedOk s mb code i p fp body c a = true) :
    (s.seat mb (sealedRequest (zeros 64) code i p 1 0 body)).Accepts mb code c a (sreq mb code i p fp body) := by
  simp only [sealedOk, Bool.and_eq_true, decide_eq_true_eq] at h
  obtain ⟨⟨⟨⟨⟨⟨⟨⟨hp, h1, h2, h3, h4, h5, hs⟩, h6⟩, h7⟩, h8⟩, h9⟩, h10⟩, h11⟩, h12⟩ := h
  exact s.accepts_sealed mb code i p 1 0 1 0 (zeros 64) fp body c a hp h1 h2 h3 h4 h5 h10 hs h6 h7 h8 h9 h11 h12

theorem acceptKey_preq (s : State) (mb code i : Nat) (b : Bytes) : s.acceptKey (preq mb code i b) = s :=
  if_neg (by simp [preq])

/-- A change of session 0 of the module in service. -/
def up0 (f : Session → Session) : State := up.onSession 0 f

/-! ### Requests about the module -/

theorem test_meets_StateAndLogsRead :
    (∃ (s : State) (mb : Nat) (r : Req), s.Accepts mb 0x0022 .either .reads r ∧ r.body = []) ∧
    (∃ (s : State) (mb : Nat) (r : Req), s.Accepts mb 0x0021 .either .reads r ∧ r.body.length = 1 ∧ (u8 r.body 0).toNat < 18) ∧
    (∃ (s : State) (mb : Nat) (r : Req), s.Accepts mb 0x0032 .boot .work r ∧ r.body = []) ∧
    (∃ (s : State) (mb : Nat) (r : Req), s.Accepts mb 0x0500 .sealed .reads r ∧ r.body.length = 4 ∧ u8 r.body 1 = 0 ∧
      ∃ b, s.record r.session (u8 r.body 0).toNat (fieldAt r.body 2 2) = some b) ∧
    (∃ (s : State) (mb : Nat) (r : Req), s.Accepts mb 0x0501 .sealed .reads r ∧ r.body.length = 4 ∧ 1 ≤ fieldAt r.body 2 2 ∧
      fieldAt r.body 2 2 ≤ 1024 ∧ fieldAt r.body 0 2 + fieldAt r.body 2 2 ≤ (s.session r.session).tallyCount) ∧
    (∃ (s : State) (mb : Nat) (r : Req), s.Accepts mb 0x0802 .host .work r ∧ r.body = []) ∧
    (∃ (s : State) (mb : Nat) (r : Req), s.Accepts mb 0x0803 .host .work r ∧ r.body = []) ∧
    (∃ (s : State) (mb : Nat) (r : Req), s.Accepts mb 0x0804 .host .work r ∧ r.body = []) ∧
    (∃ (s : State) (mb : Nat) (r : Req), s.Accepts mb 0x0805 .host .work r ∧ r.body = []) ∧
    (∃ (s : State) (mb : Nat) (r : Req), s.Accepts mb 0x0806 .host .work r ∧ r.body.length = 8 ∧ zeroRange r.body 1 3 = true ∧
      8 ≤ (u8 r.body 0).toNat ∧ (u8 r.body 0).toNat ≤ 15) ∧
    (∃ (s : State) (mb : Nat) (r : Req), s.Accepts mb 0x0002 .boot .work r ∧ r.body = []) :=
  ⟨⟨_, 1, preq 1 0x0022 0 [], plain (s := up) (by decide +kernel), rfl⟩,
   ⟨_, 15, preq 15 0x0021 0 [17], plain (s := up) (by decide +kernel), by decide +kernel⟩,
   ⟨_, 0, preq 0 0x0032 0xFF [], plain (s := up) (by decide +kernel), rfl⟩,
   ⟨_, 16, sreq 16 0x0500 0 0 (zeros 64) [1, 0, 3, 0], seald (s := up) (by decide +kernel), by decide +kernel, by decide +kernel,
     Option.isSome_iff_exists.1 (by decide +kernel)⟩,
   ⟨_, 27, sreq 27 0x0501 0 0 (zeros 64) [0, 0, 64, 0], seald (s := up) (by decide +kernel), by decide +kernel⟩,
   ⟨_, 1, preq 1 0x0802 0xFF [], plain (s := up) (by decide +kernel), rfl⟩,
   ⟨_, 1, preq 1 0x0803 0xFF [], plain (s := up) (by decide +kernel), rfl⟩,
   ⟨_, 1, preq 1 0x0804 0xFF [], plain (s := up) (by decide +kernel), rfl⟩,
   ⟨_, 1, preq 1 0x0805 0xFF [], plain (s := up) (by decide +kernel), rfl⟩,
   ⟨_, 1, preq 1 0x0806 0xFF [15, 0, 0, 0, 1, 2, 3, 4], plain (s := up) (by decide +kernel), by decide +kernel⟩,
   ⟨_, 0, preq 0 0x0002 0xFF [], plain (s := up) (by decide +kernel), rfl⟩⟩

theorem test_meets_GrantsAndPortsAreCommanded :
    (∃ (s : State) (mb : Nat) (r : Req),
      let w : HostWindow := ⟨u8 r.body 2 = 1, windowOwner (u8 r.body 3).toNat, fieldAt r.body 8 8, fieldAt r.body 16 8⟩;
      s.Accepts mb 0x0010 .host .work r ∧ windowForm r.body = true ∧ u8 r.body 0 = 0 ∧ w.base % 4096 = 0 ∧
      w.size % 4096 = 0 ∧ 0 < w.size ∧ w.base + w.size ≤ 2 ^ 64 ∧
      (∀ e ∈ s.host.windows, e.1 ≠ (u8 r.body 1).toNat ∧ ¬ (e.2.base < w.base + w.size ∧ w.base < e.2.base + e.2.size) ∧
        (w.objects = false → e.2.objects = false → e.2.owner ≠ w.owner))) ∧
    (∃ (s : State) (mb : Nat) (r : Req), s.Accepts mb 0x0010 .host .work r ∧ bodyForm r.body 24 [(4, 4)] = true ∧ u8 r.body 0 = 1 ∧
      ∃ w, ((u8 r.body 1).toNat, w) ∈ s.host.windows) ∧
    (∃ (s : State) (mb : Nat) (r : Req), s.Accepts mb 0x0011 .host .work r ∧ r.body.length = 24 ∧ zeroRange r.body 2 6 = true ∧
      u8 r.body 0 = 0 ∧ (u8 r.body 1).toNat < 16 ∧ fieldAt r.body 8 8 % 2 ^ 30 = 0 ∧ fieldAt r.body 16 8 % 2 ^ 30 = 0 ∧
      0 < fieldAt r.body 16 8 ∧ fieldAt r.body 8 8 + fieldAt r.body 16 8 ≤ 2 ^ 64 ∧ s.farBytes + fieldAt r.body 16 8 ≤ 2 ^ 44 ∧
      ∀ t ∈ s.host.targets, t.1 ≠ (u8 r.body 1).toNat ∧
        ¬ (t.2.1 < fieldAt r.body 8 8 + fieldAt r.body 16 8 ∧ fieldAt r.body 8 8 < t.2.1 + t.2.2)) ∧
    (∃ (s : State) (mb : Nat) (r : Req), s.Accepts mb 0x0011 .host .work r ∧ bodyForm r.body 24 [(2, 6)] = true ∧ u8 r.body 0 = 1 ∧
      (∃ b, ((u8 r.body 1).toNat, b) ∈ s.host.targets) ∧
      ∀ i < 4, (s.session i).isOpen = true → ∀ u ∈ (s.session i).farParts, u.1 ≠ (u8 r.body 1).toNat) :=
  ⟨⟨_, 1, preq 1 0x0010 0xFF ([0, 31, 1, 0xFF] ++ zeros 4 ++ le 8 (2 ^ 64 - 4096) ++ le 8 4096),
     plain (s := { up with host := { up.host with windows := [(0, ⟨true, none, 0, 4096⟩)] } }) (by decide +kernel), by decide +kernel⟩,
   ⟨_, 1, preq 1 0x0010 0xFF ([1, 31] ++ zeros 22),
     plain (s := { up with host := { up.host with windows := [(31, ⟨true, none, 0, 4096⟩)] } }) (by decide +kernel), by decide +kernel,
     by decide +kernel, ⟨true, none, 0, 4096⟩, by decide +kernel⟩,
   ⟨_, 1, preq 1 0x0011 0xFF ([0, 15] ++ zeros 6 ++ le 8 0 ++ le 8 (2 ^ 44 - 2 ^ 30)),
     plain (s := { up with host := { up.host with targets := [(0, 2 ^ 50, 2 ^ 30)] } }) (by decide +kernel), by decide +kernel⟩,
   ⟨_, 1, preq 1 0x0011 0xFF ([1, 15] ++ zeros 22),
     plain (s := { up with host := { up.host with targets := [(15, 0, 2 ^ 30)] } }) (by decide +kernel), by decide +kernel,
     by decide +kernel, ⟨(0, 2 ^ 30), by decide +kernel⟩, by decide +kernel⟩⟩

theorem test_meets_GrantsAndPortsAreCommanded_ports :
    (∃ (s : State) (mb : Nat) (r : Req), s.Accepts mb 0x0020 .link .reads r ∧ linkForm r.body = true ∧
      (s.acceptKey r).linkRight r (u8 r.body 0).toNat = stOk ∧ u8 r.body 1 = 0) ∧
    (∃ (s : State) (mb : Nat) (r : Req), s.Accepts mb 0x0020 .link .work r ∧ linkForm r.body = true ∧
      (s.acceptKey r).linkRight r (u8 r.body 0).toNat = stOk ∧ u8 r.body 1 = 1) ∧
    (∃ (s : State) (mb : Nat) (r : Req),
      let p := (u8 r.body 0).toNat;
      let q := s.port p;
      s.Accepts mb 0x0023 .sealed .work r ∧ r.mb = mb ∧ r.body.length = 4 ∧ zeroRange r.body 1 3 = true ∧ p < 18 ∧
      q.bound = true ∧ q.session.toNat = r.session ∧ q.runs = true) :=
  ⟨⟨_, 16, sreq 16 0x0020 0 0 (zeros 64) (17 :: zeros 15),
     seald (s := up.setPort 17 { Port.reset with bound := true }) (by decide +kernel), by decide +kernel⟩,
   ⟨_, 16, sreq 16 0x0020 0 0 (zeros 64) ([17, 1] ++ zeros 14),
     seald (s := up.setPort 17 { Port.reset with bound := true, state := .up }) (by decide +kernel), by decide +kernel⟩,
   ⟨_, 16, sreq 16 0x0023 0 0 (zeros 64) [17, 0, 0, 0],
     seald (s := up.setPort 17 { Port.reset with bound := true, state := .up }) (by decide +kernel), by decide +kernel⟩⟩

theorem test_meets_FirmwareLoads :
    (∃ (s : State) (mb : Nat) (r : Req), s.Accepts mb 0x0001 .boot .work r ∧ s.loadBarred = false ∧ s.fw.state ≠ .running ∧
      s.fw.state ≠ .verifying ∧ s.chunkOk r.body = true ∧ fieldAt r.body 12 4 = 0) ∧
    (∃ (s : State) (mb : Nat) (r : Req), s.Accepts mb 0x0001 .boot .work r ∧ s.loadBarred = false ∧ s.fw.state ≠ .running ∧
      s.fw.state ≠ .verifying ∧ s.chunkOk r.body = true ∧ fieldAt r.body 12 4 = 1 ∧ s.modulePend.length < 8) ∧
    (∃ s : State, s.fw.state = .verifying ∧ s.resets.inReset = none ∧ s.resets.inPhase = 7 ∧ s.power.waking3 = false ∧
      s.fw.digests = [] ∧ s.fwReason s.fw.image s.fw.totalLen ≠ 0) :=
  ⟨⟨_, 0, preq 0 0x0001 0xFF (le 8 0 ++ le 4 4096 ++ le 4 0 ++ zeros 64),
     plain (s := { up with fw := Firmware.reset, sessions := State.reset.sessions }) (by decide +kernel), by decide +kernel⟩,
   ⟨_, 0, preq 0 0x0001 0xFF (le 8 64 ++ le 4 65 ++ le 4 1 ++ [7]),
     plain (s := { up with
       fw := { Firmware.reset with state := .receiving, image := zeros 64, totalLen := 65, received := 64 },
       sessions := State.reset.sessions }) (by decide +kernel), by decide +kernel⟩,
   ⟨{ up with
      fw := { Firmware.reset with state := .verifying, image := zeros 64, totalLen := 64, received := 64 },
      resets := { up.resets with inPhase := 7 } }, by decide +kernel⟩⟩

/-- The module in service on its way to End of Life, the step with mark `k` to do next. -/
def wiping (k : Nat) : State :=
  { up with lc := { up.lc with
      running := some 2
      codeword := if k = mkClosed then codewordOf 4 else up.lc.codeword
      records := vset up.lc.records 2 (BitVec.ofNat 32 (0xF0 + 2 ^ k - 2 ^ 8)) } }

theorem test_meets_TransitionsRun :
    (∃ (s : State) (mb : Nat) (r : Req), s.Accepts mb 0x0030 .boot .work r ∧ r.body = []) ∧
    (∃ (s : State) (c : Bytes) (t : W64), s.lc.challenge = some (c, t) ∧ t.toNat + ns 3600000000000 ≤ s.time.now.toNat) ∧
    (∀ k ∈ [mkKeys, mkSram, mkFlash, mkSecrets, mkCodeword, mkClosed], ∃ (s : State) (n t : Nat), s.lc.running = some n ∧
      s.secRuns = true ∧ s.lc.nextMark n = some k ∧ targetState (recTarget (s.lc.record n)) = some t) :=
  ⟨⟨_, 0, preq 0 0x0030 0xFF [], plain (s := up) (by decide +kernel), rfl⟩,
   ⟨{ up with lc := { up.lc with challenge := some (zeros 64, 0) }
              time := { up.time with now := BitVec.ofNat 64 (ns 3600000000000) } }, zeros 64, 0, rfl, by decide +kernel⟩,
   fun k hk => ⟨wiping k, 2, 4, rfl, by revert k; decide +kernel, by revert k; decide +kernel,
     by revert k; decide +kernel⟩⟩

theorem test_meets_TransitionsRun_test_access :
    (∃ (s : State) (n : Nat), s.tapRuns = true ∧ s.secRuns = true ∧ s.lc.codeword = 0 ∧ s.lc.openRec = none ∧
      (List.range 8).find? (fun k => s.lc.record k = 0) = some n) ∧
    (∃ s : State, s.tapRuns = true ∧ s.lcState = 1) ∧
    (∃ s : State, s.tapRuns = true ∧ s.lcState = 3 ∧ s.lc.debugScope.getLsbD 0 = true) ∧
    (∃ s : State, s.tapRuns = true ∧ s.lcState = 2) :=
  ⟨⟨{ up with lc := { up.lc with codeword := 0, records := Vector.replicate 8 0 } }, 0, by decide +kernel⟩,
   ⟨{ up with lc := { up.lc with codeword := codewordOf 1 } }, by decide +kernel⟩,
   ⟨{ up with lc := { up.lc with codeword := codewordOf 3, records := vset up.lc.records 2 (withMark (BitVec.ofNat 32 (stateTarget 3)) mkCodeword), scopes := vset up.lc.scopes 2 1 } }, by decide +kernel⟩,
   ⟨up, by decide +kernel⟩⟩

/-- The module in service, with one object window of the host. -/
def upWin (size : Nat) : State := { up with host := { up.host with windows := [(0, ⟨true, none, 0, size⟩)] } }

/-- A request for a report with both signatures that names session 3, and the length of its report. -/
def attBody : Bytes := zeros 64 ++ [3, 1] ++ zeros 14

@[inherit_doc attBody] def attSize : Nat :=
  (wholeLines (up.report (windowOwner (u8 attBody 64).toNat) (u8 attBody 65 = 1) (slice attBody 0 64)
    ((List.range 64).map (Config.drbg up.draws)) ((List.range 32).map (Config.drbg (up.draws + 1))))).length

theorem report_of_up (u : State) (h : u = { up with host := u.host, mailboxes := u.mailboxes }) (a : Option Nat) (b : Bool)
    (c salt hedge : Bytes) : u.report a b c salt hedge = up.report a b c salt hedge := by
  rw [h]; rfl

theorem window_of_size (u : State) (n : Nat) (h : u.host.windows = [(0, ⟨true, none, 0, n⟩)]) : u.windowOk true none 0 n = true := by
  simp [State.windowOk, h]

theorem test_meets_AttestationReports :
    ∃ (s : State) (mb : Nat) (r : Req),
      let named := windowOwner (u8 r.body 64).toNat;
      let salt := (List.range 64).map (Config.drbg s.draws);
      let hedge := (List.range 32).map (Config.drbg (s.draws + 1));
      let out := (s.acceptKey r).report named (u8 r.body 65 = 1) (slice r.body 0 64) salt hedge;
      s.Accepts mb 0x0040 .either .reads r ∧ r.body.length = 80 ∧ zeroRange r.body 66 6 = true ∧
      ((u8 r.body 64).toNat < 4 ∨ u8 r.body 64 = 0xFF) ∧ (u8 r.body 65).toNat < 2 ∧ fieldAt r.body 72 8 % 64 = 0 ∧
      s.lcState = 2 ∧ s.lc.attestKeys = true ∧ s.cacheReady = true ∧
      s.windowOk true (if r.isSealed then some r.session else none) (fieldAt r.body 72 8) (wholeLines out).length = true := by
  refine ⟨(upWin attSize).seat 1 (plainRequest 0x0040 0 0 attBody), 1, preq 1 0x0040 0 attBody,
    plain (by decide +kernel), by decide +kernel, by decide +kernel, by decide +kernel, by decide +kernel, by decide +kernel,
    by decide +kernel, by decide +kernel, by decide +kernel, ?_⟩
  rw [acceptKey_preq,
    report_of_up ((upWin attSize).seat 1 (plainRequest 0x0040 0 0 attBody)) (by rfl)]
  exact window_of_size _ attSize rfl

/-! ### Sessions -/

/-- A record of two parties with no approved list, and its program array: the digest of no kernel table. -/
def openCfg : Bytes := cfgD (Crypto.sha512 (zeros 64)) 0 2 0

/-- A module in service with no session, virtual functions enabled, and that record at host address 0 with its array after it. -/
def upOpen : State :=
  { up with
    sessions := State.reset.sessions
    host := { up.host with
      windows := [(0, ⟨true, none, 0, 8192⟩)], vfEnable := true, numVfs := 4, uioEnable := true, targets := [(0, 0, 2 ^ 30)]
      memory := memStore (memStore [] 0 openCfg) 4096 (zeros 64) } }

theorem test_meets_SessionOpens :
    ∃ (s : State) (mb i : Nat) (r : Req),
      let n := fieldAt r.body 16 2;
      let c := s.hostLoad (fieldAt r.body 0 8) 2048;
      let ps := s.hostLoad (fieldAt r.body 8 8) (64 * (n + 1));
      s.Accepts mb 0x0100 .sessionOpen .work r ∧ s.lcState = 2 ∧ s.lc.openRec = none ∧
      r.body.length = 24 ∧ zeroRange r.body 18 6 = true ∧ n ≤ 256 ∧
      s.windowOk true none (fieldAt r.body 0 8) 2048 = true ∧
      s.windowOk true none (fieldAt r.body 8 8) (64 * (n + 1)) = true ∧ s.cacheReady = true ∧ cfgOk c n = true ∧
      ascending ((chunksOf 64 ps).take n) = true ∧ Crypto.sha512 ps = slice c 576 64 ∧ s.cfgReadying c = false ∧
      (List.range 4).find? (fun k => !(s.session k).isOpen) = some i ∧ s.cfgAvailable c = true := by
  have hw := memStore_wf Memory.wf_nil 0 openCfg
  have h1 : memLoad (memStore (memStore [] 0 openCfg) 4096 (zeros 64)) 0 2048 = openCfg := by
    rw [memLoad_memStore_apart hw _ _ _ _ (.inl (by decide))]
    exact (by decide +kernel : openCfg.length = 2048) ▸ memLoad_memStore Memory.wf_nil 0 openCfg
  have h2 : memLoad (memStore (memStore [] 0 openCfg) 4096 (zeros 64)) 4096 64 = zeros 64 := by
    have h := memLoad_memStore hw 4096 (zeros 64)
    rwa [zeros_length] at h
  refine ⟨upOpen.seat 1 (plainRequest 0x0100 0xFF 0 (le 8 0 ++ le 8 4096 ++ zeros 8)), 1, 0,
    preq 1 0x0100 0xFF (le 8 0 ++ le 8 4096 ++ zeros 8), plain (by decide +kernel), by decide +kernel, by decide +kernel,
    by decide +kernel, by decide +kernel, by decide +kernel, by decide +kernel, by decide +kernel, by decide +kernel, ?_⟩
  have f1 : fieldAt (preq 1 0x0100 0xFF (le 8 0 ++ le 8 4096 ++ zeros 8)).body 0 8 = 0 := by decide +kernel
  have f2 : fieldAt (preq 1 0x0100 0xFF (le 8 0 ++ le 8 4096 ++ zeros 8)).body 8 8 = 4096 := by decide +kernel
  have f3 : fieldAt (preq 1 0x0100 0xFF (le 8 0 ++ le 8 4096 ++ zeros 8)).body 16 2 = 0 := by decide +kernel
  have e : (upOpen.seat 1 (plainRequest 0x0100 0xFF 0 (le 8 0 ++ le 8 4096 ++ zeros 8))).host.memory =
      memStore (memStore [] 0 openCfg) 4096 (zeros 64) := by rw [State.seat, State.setMailbox_host, upOpen]
  rw [f1, f2, f3, State.hostLoad, State.hostLoad, e, h1, h2]
  decide +kernel

/-- Session 0 as a change of the session in service. -/
theorem test_meets_PartyJoins :
    (∃ (s : State) (mb : Nat) (r : Req),
      let x := s.session r.session;
      let p := r.party;
      s.Accepts mb 0x0102 .sealed .join r ∧ r.session < 4 ∧ p < 16 ∧ r.body.length = 96 ∧ r.fp = x.partyFp p ∧
      slice r.body 0 64 = x.configDigest ∧ x.joined.getLsbD p = false ∧ x.removed.getLsbD p = false ∧
      ((List.range x.parties).all fun k => k = p || x.joined.getLsbD k) = true) ∧
    (∃ (s : State) (mb : Nat) (r : Req),
      let x := s.session r.session;
      let p := r.party;
      s.Accepts mb 0x0102 .sealed .join r ∧ r.session < 4 ∧ p < 16 ∧ r.body.length = 96 ∧ r.fp = x.partyFp p ∧
      slice r.body 0 64 = x.configDigest ∧ x.joined.getLsbD p = false ∧ x.removed.getLsbD p = false ∧
      ((List.range x.parties).all fun k => k = p || x.joined.getLsbD k) = false) :=
  ⟨⟨_, 16, sreq 16 0x0102 0 0 (zeros 64) (zeros 96),
     seald (s := up0 fun x => { x with state := .opening, joined := 0, configDigest := zeros 64 }) (by decide +kernel),
     by decide +kernel⟩,
   ⟨_, 16, sreq 16 0x0102 0 0 (zeros 64) (zeros 96),
     seald (s := up0 fun x => { x with state := .opening, joined := 0, configDigest := zeros 64, config := cfg 0 2 0 })
       (by decide +kernel), by decide +kernel⟩⟩

theorem test_meets_RemovalsAndClosesRun :
    (∃ (s : State) (mb : Nat) (r : Req),
      let x := s.session r.session;
      let p := (u8 r.body 0).toNat;
      r.session < 4 ∧ s.Accepts mb 0x0103 .either .remove r ∧ r.body.length = 16 ∧ zeroRange r.body 1 7 = true ∧ p < x.parties ∧
      (r.isSealed = true → r.party = p) ∧ (∀ q ∈ x.removals, q.party ≠ p) ∧ x.removed.getLsbD p = false ∧
      (s.pendOf r).length < 8) ∧
    (∃ (s : State) (mb : Nat) (r : Req), r.session < 4 ∧ s.Accepts mb 0x0101 .either .close r ∧ r.body = []) :=
  ⟨⟨_, 1, preq 1 0x0103 0 (zeros 16), by decide, plain (s := up) (by decide +kernel), by decide +kernel⟩,
   ⟨_, 16, sreq 16 0x0101 0 0 (zeros 64) [], by decide, seald (s := up) (by decide +kernel), rfl⟩⟩

/-- A session whose party 0 is being removed: its key in slot 5, its strike due. -/
def removing : State :=
  { up0 (fun x => { x with removals := [⟨0, 0, false⟩] }) with
    slots := vset up.slots 5 ⟨zeros 32, 3, some (0, .party 0), false⟩ }

/-- A session that is closing; its strike has fallen or not, and engines have still to report. -/
def closing (struck : Bool) (q : List Engine) : State :=
  up0 fun x => { x with state := .closing, closing := some ⟨0, struck, none⟩, quiesce := q, struckAt := q.map fun e => (e, 0) }

theorem test_meets_RemovalsAndClosesRun_strikes :
    (∃ (s : State) (i p : Nat) (q : Removal) (n : Nat), i < 4 ∧ p < 16 ∧ (s.session i).removals.find? (·.party = p) = some q ∧
      q.struck = false ∧ (s.session i).state ≠ .closing ∧ q.strikeAt.toNat ≤ s.time.now.toNat ∧
      s.slotOf i (.party p) = some n) ∧
    (∃ (s : State) (i : Nat) (c : Closing), i < 4 ∧ (s.session i).closing = some c ∧ c.struck = false ∧
      c.strikeAt.toNat ≤ s.time.now.toNat) ∧
    (∃ (s : State) (i : Nat) (c : Closing) (e : Engine), i < 4 ∧ (s.session i).closing = some c ∧ e ∈ (s.session i).quiesce ∧
      (s.session i).engineHolds e = false ∧ (e = .ports → s.portsHold i = false) ∧ ∃ f ∈ (s.session i).quiesce, f ≠ e) ∧
    (∃ (s : State) (i : Nat) (c : Closing) (e : Engine), i < 4 ∧ (s.session i).closing = some c ∧ e ∈ (s.session i).quiesce ∧
      (s.session i).engineHolds e = false ∧ (e = .ports → s.portsHold i = false) ∧ (∀ f ∈ (s.session i).quiesce, f = e) ∧
      c.struck = true) ∧
    (∃ (s : State) (i : Nat) (c : Closing), i < 4 ∧ (s.session i).closing = some c ∧ (s.session i).quiesce ≠ [] ∧
      (∀ e ∈ (s.session i).quiesce, ∃ k ∈ (s.session i).struckAt, k.1 = e ∧ k.2.toNat + ns 1600000 ≤ s.time.now.toNat) ∧
      c.struck = true) :=
  ⟨⟨removing, 0, 0, ⟨0, 0, false⟩, 5, by decide +kernel⟩,
   ⟨closing false [], 0, ⟨0, false, none⟩, by decide +kernel⟩,
   ⟨closing true [.memory, .ports], 0, ⟨0, true, none⟩, .memory, by decide +kernel, by decide +kernel, by decide +kernel,
     by decide +kernel, by decide +kernel, .ports, by decide +kernel⟩,
   ⟨closing true [.ports], 0, ⟨0, true, none⟩, .ports, by decide +kernel⟩,
   ⟨{ closing true [.memory] with time := { up.time with now := BitVec.ofNat 64 (ns 1600000) } }, 0, ⟨0, true, none⟩,
     by decide +kernel⟩⟩

theorem test_meets_WeightsComeIn :
    (∃ (s : State) (mb : Nat) (r : Req),
      let x := (s.acceptKey r).session r.session;
      let l := (planTensors r.body).insertionSort fun a b => a.id.toNat ≤ b.id.toNat;
      s.Accepts mb 0x0104 .sealed .work r ∧ planForm r.body = true ∧ r.party = x.weightParty ∧ x.state = .ready ∧
      x.plan = none ∧ x.planFits l = true ∧ tensorsApart l = true) ∧
    (∃ (s : State) (i : Nat) (p : WeightPlan), (s.session i).plan = some p ∧ p.complete = true ∧
      p.leaves.length = p.chunks ∧ p.digest = [] ∧ p.bytes ≠ 0) ∧
    (∃ (s : State) (i : Nat) (p : WeightPlan), (s.session i).plan = some p ∧ p.complete = true ∧
      p.leaves.length = p.chunks ∧ p.digest = [] ∧ p.bytes = 0 ∧ i < 4) ∧
    (∀ whole : Bool, ∃ (s : State) (i k : Nat) (p : WeightPlan), i < 4 ∧ (s.session i).plan = some p ∧ k < p.chunks ∧
      (∀ e ∈ p.leaves, e.1 ≠ k) ∧ ((p.chunkAt k).all fun r => covers p.received r.1 r.2) = whole) ∧
    (∀ reachable : Bool, ∃ (s : State) (mb : Nat) (r : Req),
      let u := s.acceptKey r;
      let x := u.session r.session;
      let id := (x.ingests.map fun g => g.id + 1).foldl max 0;
      let g := ingestOf r id s.time.now;
      s.Accepts mb 0x0105 .sealed .work r ∧ r.session < 4 ∧ x.ingestForm r.body = true ∧ x.ingestRight r.party g.owner = true ∧
      (∀ q ∈ x.ingests, g.repeats q = false) ∧ x.ingestPlanned g.memAddr g.length = true ∧
      x.ingestFresh r.party g.ingestId = true ∧ x.pend.length < 8 ∧ s.cacheReady = reachable) ∧
    (∀ shown : Bool, ∃ (s : State) (mb : Nat) (r : Req),
      let u := s.acceptKey r;
      let x := u.session r.session;
      let id := (x.ingests.map fun g => g.id + 1).foldl max 0;
      let g := ingestOf r id s.time.now;
      s.Accepts mb 0x0105 .sealed .work r ∧ r.session < 4 ∧ x.ingestForm r.body = true ∧ x.ingestRight r.party g.owner = true ∧
      (∀ q ∈ x.ingests, g.repeats q = false) ∧ x.ingestPlanned g.memAddr g.length = true ∧
      x.ingestFresh r.party g.ingestId = true ∧ x.pend.length < 8 ∧ s.cacheReady = true ∧
      (∀ j < 4, (u.session j).ingests = []) ∧
      ((u.setSession r.session { x with
        pend := x.pend ++ [r.entry r.party (le 8 id)]
        ingests := x.ingests ++ [g]
        ingestIds := Table.set none x.ingestIds r.party (some g.ingestId) }).respond r ⟨stPending, 0, []⟩).windowOk true
          (some r.session) g.hostAddr (ckStride * ckChunks g.length) = shown) :=
  ⟨⟨_, 16, sreq 16 0x0104 0 0 (zeros 64) (le 4 1 ++ zeros 4 ++ (le 4 7 ++ zeros 4 ++ le 8 (32 * userBytes) ++ le 8 4096 ++ zeros 8)),
     seald (s := up0 fun x => { x with state := .ready }) (by decide +kernel), by decide +kernel⟩,
   ⟨up0 fun x => { x with plan := some ⟨[⟨7, BitVec.ofNat 64 (32 * userBytes), 4096⟩], 4096,
      [(32 * userBytes, 32 * userBytes + 4096)], [(0, [])], []⟩ }, 0, _, rfl, by decide +kernel, rfl, rfl, by decide +kernel⟩,
   ⟨up0 fun x => { x with plan := some ⟨[], 0, [], [], []⟩ }, 0, _, rfl, by decide +kernel, rfl, rfl, rfl, by decide⟩,
   fun b => ⟨up0 fun x => { x with plan := some ⟨[⟨7, BitVec.ofNat 64 (32 * userBytes), 4096⟩], 4096,
      if b then [(32 * userBytes, 32 * userBytes + 4096)] else [], [], []⟩ }, 0, 0, _, by decide, rfl, by revert b; decide +kernel,
      by simp, by revert b; decide +kernel⟩,
   fun b => ⟨_, 16, sreq 16 0x0105 0 0 (zeros 64) (zeros 4 ++ le 2 1 ++ zeros 2 ++ le 8 0 ++ le 8 64 ++ le 8 4096 ++ le 8 1),
     seald (s := { up with host := { up.host with linkUp := b } }) (by revert b; decide +kernel), by revert b; decide +kernel⟩,
   fun b => ⟨_, 16, sreq 16 0x0105 0 0 (zeros 64) (zeros 4 ++ le 2 1 ++ zeros 2 ++ le 8 0 ++ le 8 64 ++ le 8 4096 ++ le 8 1),
     seald (s := { up with host := { up.host with windows := if b then [(0, ⟨true, some 0, 0, 2 ^ 30⟩)] else [] } })
       (by revert b; decide +kernel), by revert b; decide +kernel⟩⟩

/-- What line `k` of channel 0 reads as. -/
def lineOf (u : State) (k : Nat) : Bytes :=
  slice (if (u.chan (.hbm 0)).pair k = (0, 0) then zeros 64 else (u.chan (.hbm 0)).lineBytes k) 0 64

/-- The conditions under which session 0 reads the first two lines of its memory. -/
structure Reads (u : State) : Prop where
  settled : u.Settled
  line0 : (u.session 0).locate ((u.session 0).resolve (u.session 0).resolution 0) = some (0, 0, 0)
  line1 : (u.session 0).locate ((u.session 0).resolve (u.session 0).resolution 64) = some (0, 0, 64)
  whole : (u.session 0).struck 0 = false
  joint : (u.session 0).struck 31 = false
  holder : (u.chan (.hbm 0)).holder = some (0, 0)

theorem looks_chan {u t : State} (h : u.Looks t 0) (sp : Space) : ∃ c, t.chan sp = { u.chan sp with cache := c } := by
  obtain ⟨-, g, -⟩ := h
  exact ⟨_, (g sp).choose_spec.1⟩

theorem Reads.after {u t : State} (h : Reads u) (g : u.Looks t 0) : Reads t := by
  obtain ⟨f, r, e⟩ := g.session
  obtain ⟨c, k⟩ := looks_chan g (.hbm 0)
  exact ⟨g.settled h.settled, by rw [e]; exact h.line0, by rw [e]; exact h.line1, by rw [e]; exact h.whole, by rw [e]; exact h.joint,
    by rw [k]; exact h.holder⟩

theorem looks_line {u t : State} (g : u.Looks t 0) (k : Nat) : lineOf t k = lineOf u k := by
  obtain ⟨c, e⟩ := looks_chan g (.hbm 0)
  rw [lineOf, e]
  rfl

/-- One of the first two lines read by a live job of session 0. -/
theorem read_line (j : Job) (k : Nat) (hk : k = 0 ∨ k = 1) (h : Reads j.st) (h0 : j.sess = 0) (h1 : j.live = true)
    (h2 : j.copies = (j.st.session 0).resolution)
    (h3 : j.owner = 31) :
    ∃ t, j.readRun (64 * k) 64 = ({ j with st := t }, lineOf j.st k) ∧ j.st.Looks t 0 := by
  obtain ⟨t, ht, hl⟩ := j.readRun_settled (64 * k) 64 0 0 (64 * k) h1 h.settled
    (by rw [h0, h2]; rcases hk with rfl | rfl <;> [exact h.line0; exact h.line1]) (by rw [h0]; exact h.whole)
    (by rw [h0, h3]; exact h.joint) (by rw [h0]; exact h.holder)
  rw [h0] at hl
  refine ⟨t, ?_, hl⟩
  rw [ht, show 64 * k / 64 = k by omega, show 64 * k % 64 = 0 by omega]
  rfl

theorem readHbm_one (j k : Job) (a n : Nat) (p : Nat × Nat × Nat) (b : Bytes) (h : linesOf a n = [p])
    (hk : j.readRun (64 * p.1 + p.2.1) p.2.2 = (k, b)) : j.readHbm a n = (k, b) := by
  unfold Job.readHbm
  rw [h]
  simp only [List.foldl_cons, List.foldl_nil, hk]
  simp

theorem readHbm_two (j k l : Job) (a n : Nat) (p q : Nat × Nat × Nat) (b c : Bytes) (h : linesOf a n = [p, q])
    (hk : j.readRun (64 * p.1 + p.2.1) p.2.2 = (k, b)) (hl : k.readRun (64 * q.1 + q.2.1) q.2.2 = (l, c)) :
    j.readHbm a n = (l, b ++ c) := by
  unfold Job.readHbm
  rw [h]
  simp only [List.foldl_cons, List.foldl_nil, hk, hl]
  simp

theorem read_one {u : State} (h : Reads u) : ∃ t, u.readFor 0 0 64 = (t, stOk, lineOf u 0) ∧ u.Looks t 0 := by
  obtain ⟨t, ht, hl⟩ := read_line (u.plainJob 0 31) 0 (.inl rfl) h rfl rfl rfl rfl
  refine ⟨t, ?_, hl⟩
  unfold State.readFor
  rw [readHbm_one _ _ 0 64 (0, 0, 64) _ (by decide +kernel) ht]
  rfl

theorem read_two {u : State} (h : Reads u) :
    ∃ t, u.readFor 0 0 128 = (t, stOk, lineOf u 0 ++ lineOf u 1) ∧ u.Looks t 0 := by
  obtain ⟨t, ht, hl⟩ := read_line (u.plainJob 0 31) 0 (.inl rfl) h rfl rfl rfl rfl
  obtain ⟨f, r, e⟩ := hl.session
  obtain ⟨w, hw, hm⟩ := read_line { u.plainJob 0 31 with st := t } 1 (.inr rfl) (h.after hl) rfl rfl
    (by dsimp only [State.plainJob] at *; rw [e]; rfl) rfl
  refine ⟨w, ?_, hl.trans hm⟩
  unfold State.readFor
  rw [readHbm_two _ _ _ 0 128 (0, 0, 64) (1, 0, 64) _ _ (by decide +kernel) ht hw, looks_line hl]
  rfl

/-- Session 0 with its memory at hand: line 0 holds what is given, what is beyond it was never written. -/
def upMem (d : Memory) (f : Session → Session) : State :=
  (up0 f).setChan (.hbm 0) { Channel.reset with holder := some (0, 0), data := d, counters := [(0, ⟨0, [(0, 1)]⟩)] }

/-- Every memory space but channel 0 of the first half of memory is as after reset. -/
theorem settled_of (u : State) (hf : u.far = State.reset.far)
    (hc : u.channels = vset State.reset.channels 0 (u.chan (.hbm 0)))
    (h : decide ((u.chan (.hbm 0)).failed = [] ∧ (u.chan (.hbm 0)).groups = [] ∧ (u.chan (.hbm 0)).nodes = [] ∧
      (u.chan (.hbm 0)).lines = [] ∧ (u.chan (.hbm 0)).tagLines = [] ∧ (u.chan (.hbm 0)).cache = []) = true) : u.Settled := by
  have hr : Channel.reset.Settled := by simp [Channel.Settled, Channel.reset]
  have h0 : (u.chan (.hbm 0)).Settled := by
    simp only [decide_eq_true_eq] at h
    exact ⟨h.1, h.2.1, h.2.2.1, h.2.2.2.1, h.2.2.2.2.1, by rw [h.2.2.2.2.2]; simp⟩
  have hv : ∀ (n c : Nat), (vget Channel.reset (Vector.replicate n Channel.reset) c).Settled := fun n c => by
    by_cases hn : c < n
    · rw [vget_replicate _ _ hn]; exact hr
    · rw [vget_beyond _ _ (by omega)]; exact hr
  intro sp
  cases sp with
  | hbm c =>
    by_cases e : 0 = c
    · exact e ▸ h0
    · rw [State.chan, hc, vget_vset_other _ _ _ e]; exact hv 64 c
  | far i => rw [State.chan, hf]; exact hv 4 i

theorem reads_of (u : State) (hf : u.far = State.reset.far)
    (hc : u.channels = vset State.reset.channels 0 (u.chan (.hbm 0)))
    (h : (decide ((u.session 0).locate ((u.session 0).resolve (u.session 0).resolution 0) = some (0, 0, 0)) &&
      decide ((u.session 0).locate ((u.session 0).resolve (u.session 0).resolution 64) = some (0, 0, 64)) &&
      !(u.session 0).struck 0 && !(u.session 0).struck 31 && decide ((u.chan (.hbm 0)).holder = some (0, 0)) &&
      decide ((u.chan (.hbm 0)).failed = [] ∧ (u.chan (.hbm 0)).groups = [] ∧ (u.chan (.hbm 0)).nodes = [] ∧
        (u.chan (.hbm 0)).lines = [] ∧ (u.chan (.hbm 0)).tagLines = [] ∧ (u.chan (.hbm 0)).cache = [])) = true) : Reads u := by
  simp only [Bool.and_eq_true, decide_eq_true_eq, Bool.not_eq_true'] at h
  obtain ⟨⟨⟨⟨⟨h2, h3⟩, h4⟩, h7⟩, h5⟩, h6⟩ := h
  exact ⟨settled_of u hf hc (by simpa using h6), h2, h3, h4, h7, h5⟩

theorem descOk_nop (s : State) (d : Bytes) (h : dOpcode d = opNop) :
    s.descOk 0 d = ((s.session 0).headerOk d && zeroRange d 32 96) := by simp [State.descOk, h]

theorem headerOk_looks (x : Session) (m : MemRec) (r : Option SampleRing) (d : Bytes) :
    ({ x with mem := m, ring := r } : Session).headerOk d = x.headerOk d := rfl

theorem descOk_flags (s : State) (d : Bytes) (h : dFlags d = 255) : s.descOk 0 d = false := by
  simp [State.descOk, Session.headerOk, h]

/-- The request for one descriptor at address 0 in slot 255, and for one kernel table entry. -/
def listBody : Bytes := [255, 0, 0, 0] ++ le 4 1 ++ le 8 0

@[inherit_doc listBody] def kernelBody : Bytes := le 4 1 ++ zeros 4 ++ le 8 0

/-- Session 0, which approves the list of one NOP and the kernel table of one zero entry. -/
def approving (x : Session) : Session :=
  { x with programs := [Crypto.sha512 (1 :: zeros 127)], kernelAllowed := Crypto.sha512 (zeros 64) }

/-- The state in which that list is looked at, over a first line of memory. -/
def listed (d : Memory) : State :=
  ((upMem d approving).seat 16 (sealedRequest (zeros 64) 0x0200 0 0 1 0 listBody)).acceptKey (sreq 16 0x0200 0 0 (zeros 64) listBody)

/-- The state in which that kernel table is looked at. -/
def tabled : State :=
  ((upMem [] approving).seat 16 (sealedRequest (zeros 64) 0x0202 0 0 1 0 kernelBody)).acceptKey (sreq 16 0x0202 0 0 (zeros 64) kernelBody)

theorem test_meets_ProgramsLoad :
    (∃ (s : State) (mb : Nat) (r : Req),
      let u := s.acceptKey r;
      let x := u.session r.session;
      let n := fieldAt r.body 4 4;
      let a := fieldAt r.body 8 8;
      let q := u.readFor r.session a (128 * n);
      let ds := chunksOf 128 q.2.2;
      s.Accepts mb 0x0200 .sealed .work r ∧ bodyForm r.body 16 [(1, 3)] = true ∧ 1 ≤ n ∧ n ≤ 65536 ∧ a % 128 = 0 ∧
      x.list? (u8 r.body 0).toNat = none ∧ x.loaded + n ≤ x.listRoom ∧ a + 128 * n ≤ x.hbmBytes ∧ q.2.1 = stOk ∧
      (∀ d ∈ ds, q.1.descOk r.session d = true) ∧ Crypto.sha512 q.2.2 ∈ (q.1.session r.session).programs) ∧
    (∃ (s : State) (mb : Nat) (r : Req),
      let u := s.acceptKey r;
      let x := u.session r.session;
      let n := fieldAt r.body 4 4;
      let a := fieldAt r.body 8 8;
      let q := u.readFor r.session a (128 * n);
      let ds := chunksOf 128 q.2.2;
      s.Accepts mb 0x0200 .sealed .work r ∧ bodyForm r.body 16 [(1, 3)] = true ∧ 1 ≤ n ∧ n ≤ 65536 ∧ a % 128 = 0 ∧
      x.list? (u8 r.body 0).toNat = none ∧ x.loaded + n ≤ x.listRoom ∧ a + 128 * n ≤ x.hbmBytes ∧ q.2.1 = stOk ∧
      ∃ k, k < ds.length ∧ (∀ j < k, q.1.descOk r.session (ds.getD j []) = true) ∧
        q.1.descOk r.session (ds.getD k []) = false) ∧
    (∃ (s : State) (mb : Nat) (r : Req),
      let x := (s.acceptKey r).session r.session;
      s.Accepts mb 0x0201 .sealed .work r ∧ r.body.length = 1 ∧ (∀ c < 4, (x.ctx c).live = false) ∧
      x.list? (u8 r.body 0).toNat ≠ none) ∧
    (∃ (s : State) (mb : Nat) (r : Req),
      let u := s.acceptKey r;
      let x := u.session r.session;
      let n := fieldAt r.body 0 4;
      let a := fieldAt r.body 8 8;
      let q := u.readFor r.session a (64 * n);
      s.Accepts mb 0x0202 .sealed .work r ∧ bodyForm r.body 16 [(4, 4)] = true ∧ 1 ≤ n ∧ n ≤ 1023 ∧ x.kernel = none ∧
      a + 64 * n ≤ x.hbmBytes ∧ q.2.1 = stOk ∧ (∀ e ∈ chunksOf 64 q.2.2, entryOk e = true) ∧
      (q.1.session r.session).kernelAllowed = Crypto.sha512 q.2.2) := by
  have f1 : fieldAt (sreq 16 0x0200 0 0 (zeros 64) listBody).body 8 8 = 0 := by decide +kernel
  have f2 : fieldAt (sreq 16 0x0200 0 0 (zeros 64) listBody).body 4 4 = 1 := by decide +kernel
  refine ⟨?_, ?_, ?_, ?_⟩
  · refine ⟨_, 16, sreq 16 0x0200 0 0 (zeros 64) listBody, seald (s := upMem [(0, 1)] approving) (by decide +kernel), by decide +kernel,
      by decide +kernel, by decide +kernel, by decide +kernel, by decide +kernel, by decide +kernel, by decide +kernel, ?_⟩
    obtain ⟨t, hm, hl⟩ := read_two (reads_of (listed [(0, 1)]) (by decide +kernel) (by decide +kernel) (by decide +kernel))
    rw [f1, f2, show (sreq 16 0x0200 0 0 (zeros 64) listBody).session = 0 from rfl]
    rw [show ((upMem [(0, 1)] approving).seat 16 (sealedRequest (zeros 64) 0x0200 0 0 1 0 listBody)).acceptKey
      (sreq 16 0x0200 0 0 (zeros 64) listBody) = listed [(0, 1)] from rfl, hm]
    have h1 : lineOf (listed [(0, 1)]) 0 ++ lineOf (listed [(0, 1)]) 1 = 1 :: zeros 127 := by decide +kernel
    obtain ⟨f, g, e⟩ := hl.session
    rw [h1, e]
    refine ⟨rfl, fun d hd => ?_, ?_⟩
    · rw [show chunksOf 128 (1 :: zeros 127) = [1 :: zeros 127] by decide +kernel, List.mem_singleton] at hd
      subst hd
      rw [descOk_nop _ _ (by decide +kernel), e, show zeroRange (1 :: zeros 127) 32 96 = true by decide +kernel,
        Bool.and_true]
      rw [headerOk_looks]
      decide +kernel
    · dsimp only
      decide +kernel
  · refine ⟨_, 16, sreq 16 0x0200 0 0 (zeros 64) listBody, seald (s := upMem [(0, 1), (2, 255)] approving) (by decide +kernel),
      by decide +kernel, by decide +kernel, by decide +kernel, by decide +kernel, by decide +kernel, by decide +kernel,
      by decide +kernel, ?_⟩
    obtain ⟨t, hm, hl⟩ := read_two (reads_of (listed [(0, 1), (2, 255)]) (by decide +kernel) (by decide +kernel) (by decide +kernel))
    rw [f1, f2, show (sreq 16 0x0200 0 0 (zeros 64) listBody).session = 0 from rfl]
    rw [show ((upMem [(0, 1), (2, 255)] approving).seat 16 (sealedRequest (zeros 64) 0x0200 0 0 1 0 listBody)).acceptKey
      (sreq 16 0x0200 0 0 (zeros 64) listBody) = listed [(0, 1), (2, 255)] from rfl, hm]
    have h1 : lineOf (listed [(0, 1), (2, 255)]) 0 ++ lineOf (listed [(0, 1), (2, 255)]) 1 = [1, 0, 255] ++ zeros 125 := by
      decide +kernel
    rw [h1]
    dsimp only
    refine ⟨rfl, 0, by decide +kernel, fun j hj => absurd hj (by omega), ?_⟩
    rw [show (chunksOf 128 ([1, 0, 255] ++ zeros 125)).getD 0 [] = [1, 0, 255] ++ zeros 125 by decide +kernel]
    exact descOk_flags _ _ (by decide +kernel)
  · exact ⟨_, 16, sreq 16 0x0201 0 0 (zeros 64) [255], seald (s := up0 fun x => { x with lists := [(255, ⟨[], []⟩)] })
      (by decide +kernel), by decide +kernel⟩
  · have g1 : fieldAt (sreq 16 0x0202 0 0 (zeros 64) kernelBody).body 8 8 = 0 := by decide +kernel
    have g2 : fieldAt (sreq 16 0x0202 0 0 (zeros 64) kernelBody).body 0 4 = 1 := by decide +kernel
    refine ⟨_, 16, sreq 16 0x0202 0 0 (zeros 64) kernelBody, seald (s := upMem [] approving) (by decide +kernel),
      by decide +kernel, by decide +kernel, by decide +kernel, by decide +kernel, by decide +kernel, ?_⟩
    obtain ⟨t, hm, hl⟩ := read_one (reads_of tabled (by decide +kernel) (by decide +kernel) (by decide +kernel))
    rw [g1, g2, show (sreq 16 0x0202 0 0 (zeros 64) kernelBody).session = 0 from rfl]
    rw [show ((upMem [] approving).seat 16 (sealedRequest (zeros 64) 0x0202 0 0 1 0 kernelBody)).acceptKey
      (sreq 16 0x0202 0 0 (zeros 64) kernelBody) = tabled from rfl, hm]
    have h1 : lineOf tabled 0 = zeros 64 := by decide +kernel
    obtain ⟨f, g, e⟩ := hl.session
    rw [h1, e]
    dsimp only
    decide +kernel

/-- Session 0 with its weights in and a list of one NOP in slot 255. -/
def loadedSess (st : SessState) (x : Session) : Session :=
  { x with state := st, plan := some ⟨[], 0, [], [], [1]⟩, lists := [(255, ⟨[1 :: zeros 127], []⟩)] }

/-- Session 0 with context 3 running. -/
def live3 (x : Session) : Session := x.setCtx 3 { Context.reset with state := .running }

theorem test_meets_ContextsStartAndStop :
    (∀ ready : Bool, ∃ (s : State) (mb : Nat) (r : Req) (d : Bytes),
      let x := (s.acceptKey r).session r.session;
      let c := (u8 r.body 0).toNat;
      s.Accepts mb 0x0210 .sealed .work r ∧ r.body.length = 4 ∧ c < 4 ∧ (x.ctx c).live = false ∧ x.weightsDone = true ∧
      x.descAt? (u8 r.body 1).toNat (fieldAt r.body 2 2) = some d ∧ decide (x.state = .ready) = ready) ∧
    (∀ live : Bool, ∃ (s : State) (mb : Nat) (r : Req),
      let x := (s.acceptKey r).session r.session;
      let c := (u8 r.body 0).toNat;
      s.Accepts mb 0x0211 .sealed .work r ∧ r.body.length = 1 ∧ c < 4 ∧ (x.ctx c).live = live) :=
  ⟨fun b => ⟨_, 16, sreq 16 0x0210 0 0 (zeros 64) [3, 255, 0, 0], 1 :: zeros 127,
     seald (s := up0 (loadedSess (if b then .ready else .running))) (by revert b; decide +kernel), by revert b; decide +kernel⟩,
   fun b => ⟨_, 16, sreq 16 0x0211 0 0 (zeros 64) [3],
     seald (s := up0 (if b then live3 else id)) (by revert b; decide +kernel), by revert b; decide +kernel⟩⟩

/-- A scale write: E4M3 amax scaling, a history of 16, STATIC_SCALE 1.0, no block scale. -/
def scaleBody : Bytes := [0xFF, 0x0F, 0, 0] ++ le 4 (2 + 16 * 1 + 2 ^ 22 * 16) ++ le 4 0x3F800000 ++ zeros 4 ++ le 8 (2 ^ 63)

theorem test_meets_RecordsTimeAndRollCallAreCommanded :
    (∀ locked : Bool, ∃ (s : State) (mb : Nat) (r : Req),
      let x := (s.acceptKey r).session r.session;
      let n := fieldAt r.body 0 2;
      let q := Table.get ScaleRec.reset x.scales n;
      let w := q.written (fieldAt r.body 4 4) (u32 r.body 8) (u64 r.body 16);
      s.Accepts mb 0x0300 .sealed .work r ∧ bodyForm r.body 24 [(2, 2), (12, 4)] = true ∧ n < 4096 ∧
      bitsAt r.body 4 4 31 27 = 0 ∧ w.allowed = true ∧ q.fmtLocked = locked) ∧
    (∃ (s : State) (mb : Nat) (r : Req), s.Accepts mb 0x0403 .sealed .work r ∧ r.body = [] ∧
      ((s.acceptKey r).session r.session).voteGone = false) :=
  ⟨fun b => ⟨_, 16, sreq 16 0x0300 0 0 (zeros 64) scaleBody,
     seald (s := up0 fun x => { x with scales := if b then [(4095, { ScaleRec.reset with fmtLocked := true })] else [] })
       (by revert b; decide +kernel), by revert b; decide +kernel⟩,
   ⟨_, 16, sreq 16 0x0403 0 0 (zeros 64) [], seald (s := up) (by decide +kernel), rfl, by decide +kernel⟩⟩

/-- Session 0 of a consignment, its member nonce zero. -/
def member (x : Session) : Session := { x with config := cfg 1 1 1, memberNonce := zeros 32 }

/-- A consignment of one member with no time port, over the nonce array at host address 0. -/
def consignBody : Bytes := le 2 0 ++ le 2 1 ++ [0xFF] ++ zeros 3 ++ le 8 0 ++ Crypto.sha512 (zeros 32) ++ le 2 0

/-- A routing set of one table at host address 0 that leads nowhere, and no group. -/
def routingBody : Bytes := le 8 0 ++ le 2 1 ++ [0] ++ zeros 5 ++ Crypto.sha512 (List.replicate 2048 0x1F)

/-- The module in service, session 0 of a consignment, one object window of the session from host address 0. -/
def upMember (m : Memory) (f : Session → Session) : State :=
  { up0 f with
    host := { up.host with windows := [(0, ⟨true, some 0, 0, 8192⟩)], memory := m }
    slots := vset up.slots 7 ⟨zeros 32, 0, some (0, .link), false⟩ }

theorem test_meets_ConsignmentsConfigure :
    (∃ (s : State) (mb : Nat) (r : Req) (n : Nat),
      let u := s.acceptKey r;
      let x := u.session r.session;
      let c := consignOf r.body;
      let a := fieldAt r.body 8 8;
      let nonces := s.hostLoad a (32 * c.members);
      s.Accepts mb 0x0302 .sealed .work r ∧ r.session < 4 ∧ x.isConsignment = true ∧ consignForm r.body = true ∧
      c.ringsOk = true ∧ u.timePortOk r.session c = true ∧ x.routingFits c = true ∧ x.consign = none ∧
      s.windowOk true (some r.session) a (32 * c.members) = true ∧ s.cacheReady = true ∧
      Crypto.sha512 nonces = c.nonceDigest ∧ slice nonces (32 * c.rank) 32 = x.memberNonce ∧
      s.slotOf r.session .link = some n ∧ (s.keySlot n).gen.toNat + 1 < 2 ^ 32 - 1) ∧
    (∃ (s : State) (mb : Nat) (r : Req),
      let x := (s.acceptKey r).session r.session;
      let a := fieldAt r.body 0 8;
      let ranks := fieldAt r.body 8 2;
      let groups := (u8 r.body 10).toNat;
      let o := s.hostLoad a (2048 * ranks + 4160 * groups);
      s.Accepts mb 0x0301 .sealed .work r ∧ bodyForm r.body 80 [(11, 5)] = true ∧ x.rankCountOk ranks = true ∧
      groups ≤ 15 ∧ (groups ≠ 0 → x.isConsignment = true) ∧
      s.windowOk true (some r.session) a (2048 * ranks + 4160 * groups) = true ∧ s.cacheReady = true ∧
      Crypto.sha512 o = slice r.body 16 64 ∧ x.routingOk o ranks groups = true) := by
  refine ⟨⟨_, 16, sreq 16 0x0302 0 0 (zeros 64) consignBody, 7, seald (s := upMember [] member) (by decide +kernel),
    by decide +kernel⟩, ?_⟩
  refine ⟨(upMember (memStore [] 0 (List.replicate 2048 0x1F)) member).seat 16 (sealedRequest (zeros 64) 0x0301 0 0 1 0 routingBody), 16,
    sreq 16 0x0301 0 0 (zeros 64) routingBody, seald (by decide +kernel), by decide +kernel, by decide +kernel, by decide +kernel,
    by decide +kernel, by decide +kernel, by decide +kernel, ?_⟩
  have f1 : fieldAt (sreq 16 0x0301 0 0 (zeros 64) routingBody).body 0 8 = 0 := by decide +kernel
  have f2 : fieldAt (sreq 16 0x0301 0 0 (zeros 64) routingBody).body 8 2 = 1 := by decide +kernel
  have f3 : (u8 (sreq 16 0x0301 0 0 (zeros 64) routingBody).body 10).toNat = 0 := by decide +kernel
  have e : ((upMember (memStore [] 0 (List.replicate 2048 0x1F)) member).seat 16
      (sealedRequest (zeros 64) 0x0301 0 0 1 0 routingBody)).host.memory = memStore [] 0 (List.replicate 2048 0x1F) := by
    rw [State.seat, State.setMailbox_host, upMember]
  have h := memLoad_memStore Memory.wf_nil 0 (List.replicate 2048 (0x1F : Byte))
  rw [List.length_replicate] at h
  rw [f1, f2, f3, State.hostLoad, e, show 2048 * 1 + 4160 * 0 = 2048 from rfl, h]
  decide +kernel

/-! ### Power, resets and bring-up -/

/-- The module in service with no session. -/
def idle : State := { up with sessions := State.reset.sessions }

/-- Postmark time moved on to `n` nanoseconds. -/
def at_ (s : State) (n : Nat) : State := { s with time := { s.time with now := BitVec.ofNat 64 (ns n) } }

/-- In a power state. -/
def inPower (s : State) (p : Power) : State := { s with power := { s.power with power := p } }

theorem test_meets_RecordsTimeAndRollCallAreCommanded_time :
    (∀ y ∈ [Sync.free, .acquiring], ∃ (s : State) (mb : Nat) (r : Req),
      let x := (s.acceptKey r).session r.session;
      s.Accepts mb 0x0400 .sealed .work r ∧ r.body.length = 8 ∧ x.consign ≠ none ∧ x.rank = 0 ∧
      (∀ j < 4, (s.session j).isOpen = true → (s.session j).epochOpen = false) ∧ s.time.sync = y) ∧
    (∃ (s : State) (mb : Nat) (r : Req),
      let x := (s.acceptKey r).session r.session;
      let p := u64 r.body 0;
      let e := u64 r.body 8;
      s.Accepts mb 0x0401 .sealed .roll r ∧ r.body.length = 16 ∧ x.consign ≠ none ∧ x.roll = none ∧
      e.toNat = x.epoch.toNat + 1 ∧ s.time.now.toNat + ns 1000000 ≤ p.toNat) :=
  ⟨fun y hy => ⟨_, 16, sreq 16 0x0400 0 0 (zeros 64) (le 8 5),
     seald (s := { up0 (fun x => { x with consign := some ⟨0, 1, none, [(0, 0)], []⟩ }) with time := { up.time with sync := y } })
       (by revert y; decide +kernel), by revert y; decide +kernel⟩,
   ⟨_, 16, sreq 16 0x0401 0 0 (zeros 64) (le 8 (ns 1000000) ++ le 8 1),
     seald (s := up0 fun x => { x with consign := some ⟨0, 1, none, [(0, 0)], []⟩, held := { x.held with held := true } })
       (by decide +kernel), by decide +kernel⟩⟩

/-- An image whose seven components are empty, their digests right or not. -/
def imageOf (good : Bool) : Bytes :=
  zeros 544 ++ (List.replicate 7 (zeros 16 ++ (if good then Crypto.sha512 [] else zeros 64))).flatten

theorem test_meets_PowerStatesAreEnteredAndLeft :
    (∀ n ∈ [0, 2], ∃ (s : State) (mb : Nat) (r : Req), s.Accepts mb 0x0800 .host .work r ∧ r.body.length = 1 ∧
      s.power.power ≠ .ps3 ∧ (u8 r.body 0).toNat = n ∧ (n = 0 → n = s.powerName) ∧ (s.acceptKey r).napBarred = false) ∧
    (∀ n ∈ [3, 4], ∃ (s : State) (mb : Nat) (r : Req), s.Accepts mb 0x0800 .host .work r ∧ r.body.length = 1 ∧
      s.power.power ≠ .ps3 ∧ (u8 r.body 0).toNat = n ∧ (s.acceptKey r).sleepBarred = false) ∧
    (∃ (s : State) (mb : Nat) (r : Req), s.Accepts mb 0x0800 .host .work r ∧ r.body.length = 1 ∧ s.power.power = .ps3 ∧
      (u8 r.body 0).toNat = 0 ∧ (s.acceptKey r).isRepeat r r.body = false ∧ s.modulePend.length < 8) ∧
    (∃ s : State, s.power.power = .ps0 ∧ s.resets.inReset = none ∧ s.fw.state = .running ∧ s.quiet = true ∧
      s.power.idleSince.toNat + ns 100000 ≤ s.time.now.toNat) ∧
    (∃ s : State, s.power.power = .ps1 ∧ s.power.waking = true ∧ s.power.wakeAt.toNat ≤ s.time.now.toNat ∧
      ∀ p < 18, (s.port p).arrived = []) ∧
    (∃ s : State, s.power.power = .ps2 ∧ s.power.waking2 = true ∧ s.power.wakeAt.toNat ≤ s.time.now.toNat) ∧
    (∀ good : Bool, ∃ s : State, s.power.power = .ps3 ∧ s.power.waking3 = true ∧ s.resets.inPhase = 7 ∧
      s.resets.halted = false ∧ decide (s.fwRestart s.fw.image = 0) = good) ∧
    (∃ s : State, s.power.offDue = true ∧ s.power.offAt.toNat ≤ s.time.now.toNat) :=
  ⟨fun n hn => ⟨_, 1, preq 1 0x0800 0xFF (le 1 n), plain (s := up) (by revert n; decide +kernel), by revert n; decide +kernel⟩,
   fun n hn => ⟨_, 1, preq 1 0x0800 0xFF (le 1 n), plain (s := idle) (by revert n; decide +kernel), by revert n; decide +kernel⟩,
   ⟨(inPower idle .ps3).seat 1 (plainRequest 0x0800 0xFF 0 [0]), 1, preq 1 0x0800 0xFF [0],
     ⟨by decide +kernel, by decide +kernel, by decide +kernel, by decide +kernel, by decide +kernel⟩, by decide +kernel⟩,
   ⟨at_ up 100000, by decide +kernel⟩,
   ⟨{ up with power := { up.power with power := .ps1, waking := true } }, by decide +kernel⟩,
   ⟨{ up with power := { up.power with power := .ps2, waking2 := true } }, by decide +kernel⟩,
   fun b => ⟨{ idle with
     power := { up.power with power := .ps3, waking3 := true }, resets := { up.resets with inPhase := 7 }
     fw := { Firmware.reset with state := .verifying, image := imageOf b } }, by revert b; decide +kernel⟩,
   ⟨{ idle with power := { up.power with offDue := true } }, by decide +kernel⟩⟩

theorem test_meets_ResetRequestsAssert :
    (∃ (s : State) (mb : Nat) (r : Req) (g : ResetTarget),
      let reach := (u8 r.body 0).toNat;
      s.Accepts mb 0x0801 .host .work r ∧ requestTarget reach (u8 r.body 1).toNat (u8 r.body 2).toNat = some g ∧
      bodyForm r.body 4 [(3, 1)] = true ∧ reach ≤ s.fuseReach 10 ∧ (s.acceptKey r).targetHeld g = false) ∧
    (∀ g ∈ [ResetTarget.module, .quarter 3, .block (.port 17)], ∃ (s : State) (r : Reach) (due : W64)
      (rest : List (Reach × ResetTarget × W64)),
      s.resets.requested = (r, g, due) :: rest ∧ due.toNat ≤ s.time.now.toNat ∧ s.coreAwake = true ∧ s.resets.inReset = none ∧
      (∀ b, g = .block b → (∀ e ∈ s.resets.blocks, e.target ≠ b) ∧ s.inQuarterReset b = false) ∧ (g = .module → 3 ≤ r.code)) ∧
    (∃ (s : State) (r : Reach) (b : BlockTarget) (due : W64), s.resets.requested = [(r, .block b, due)] ∧
      due.toNat ≤ s.time.now.toNat ∧ s.coreAwake = true ∧ s.resets.inReset = none ∧ s.inQuarterReset b = true) :=
  ⟨⟨_, 1, preq 1 0x0801 0xFF [1, 0, 17, 0], .block (.port 17), plain (s := up) (by decide +kernel), by decide +kernel⟩,
   fun g hg => ⟨{ idle with resets := { up.resets with requested := [(.warm, g, 0)] } }, .warm, 0, [], rfl, Nat.zero_le _,
     rfl, rfl, fun b hb => ⟨by simp [up, Resets.reset], by
       simp only [List.mem_cons, List.not_mem_nil, or_false] at hg
       rcases hg with rfl | rfl | rfl <;> cases hb
       decide +kernel⟩, fun _ => by decide⟩,
   ⟨{ idle with
      resets := { up.resets with requested := [(.block, .block (.pigeonhole 3), 0)] }
      dies := vset up.dies 3 { Die.reset with inReset := true } }, .block, .pigeonhole 3, 0, rfl, by decide +kernel⟩⟩

theorem test_meets_SuppliesAct :
    (∃ mV sb : Nat, 65000 < mV ∧ 65000 < mV ∨ 14000 < sb) ∧
    (∃ (s : State) (mV sb us : Nat), s.aon.running = true ∧ 11400 ≤ sb ∧ sb ≤ 12600 ∧ 40000 ≤ mV ∧ mV ≤ 65000 ∧ 10000 ≤ us) ∧
    (∃ (s : State) (mV sb us : Nat), s.aon.running = true ∧ s.asserted 0 = false ∧
      s.Narrower (Reach.ofCode (s.sourceReach 0)) ∧ 11400 ≤ sb ∧ sb ≤ 12600 ∧ mV < 36000 ∧ 20 ≤ us) ∧
    (∀ sb ∈ [11399, 12601], ∃ (s : State) (mV : Nat), s.aon.running = true ∧ s.asserted 0 = false ∧
      s.Narrower (Reach.ofCode (s.sourceReach 0)) ∧ (sb < 11400 ∨ 12600 < sb) ∧ sb ≤ 14000 ∧ mV ≤ 65000) ∧
    (∃ s : State, s.Narrower .powerOn) ∧ (∃ s : State, s.resets.inReset = some .powerOn) :=
  ⟨⟨65001, 14001, by decide⟩, ⟨up, 65000, 12600, 10000, by decide +kernel⟩,
   ⟨up, 35999, 11400, 20, by decide +kernel, by decide +kernel, fun q hq => (by cases hq), by decide⟩,
   fun b hb => ⟨up, 65000, by decide +kernel, by decide +kernel, fun q hq => (by cases hq), by revert b; decide⟩,
   ⟨up, fun q hq => by cases hq⟩, ⟨State.reset, rfl⟩⟩

theorem test_meets_PinsAndHostResetsAct :
    (∀ n ∈ [1, 2], ∃ (s : State) (w : Nat), 1000 ≤ w ∧ s.aon.running = true ∧
      s.Narrower (Reach.ofCode (s.sourceReach n))) ∧
    (∃ (s : State) (w : Nat), 1000 ≤ w ∧ s.aon.running = true ∧ ∀ e ∈ s.resets.blocks, e.target ≠ .tap) ∧
    (∃ s : State, (∀ e ∈ s.resets.blocks, e.target = .tap → e.done = true) ∧
      (∀ h ∈ s.resets.holds, h.target = .block .tap → h.source = 13) ∧ s.resets.blocks ≠ []) ∧
    (∀ n ∈ [1, 2, 3], ∃ s : State, s.coreAwake = true ∧ s.host.powered = true ∧ s.resets.inReset = none ∧ s.sourceReach 3 = n ∧
      ∀ e ∈ s.resets.blocks, e.target ≠ .hostPort) ∧
    (∃ s : State, s.coreAwake = true ∧ s.resets.inReset = none ∧ (∀ e ∈ s.resets.blocks, e.target ≠ .physicalFunction) ∧
      (s.session 0).isOpen = true) ∧
    (∃ (s : State) (vf : Nat), s.flrRuns = false ∧ (s.session 0).isOpen = true ∧ (s.session 0).vf = vf ∧
      (s.session 0).state ≠ .closing) ∧
    (∃ (s : State) (vf : Nat), s.flrRuns = false ∧ ∀ i < 4, (s.session i).isOpen = true → (s.session i).vf ≠ vf) :=
  ⟨fun n _ => ⟨up, 1000, le_rfl, rfl, fun q hq => by cases hq⟩, ⟨up, 1000, by decide +kernel⟩,
   ⟨{ up with resets := { up.resets with
      holds := [⟨13, .block, .block .tap, true⟩], blocks := [⟨.tap, 0, true, false⟩] } }, by decide +kernel⟩,
   fun n hn => ⟨{ up with fuses := { up.fuses with latched := true, reach := vset up.fuses.reach 3 (BitVec.ofNat 3 n) } },
     by revert n; decide +kernel⟩,
   ⟨up, by decide +kernel⟩, ⟨up, 1, by decide +kernel⟩, ⟨up, 4, by decide +kernel⟩⟩

/-- A fused reach for a source. -/
def fused (s : State) (n c : Nat) : State :=
  { s with fuses := { s.fuses with latched := true, reach := vset s.fuses.reach n (BitVec.ofNat 3 c) } }

theorem test_meets_FaultSourcesAct :
    (∀ n ∈ [3, 4], ∀ c ∈ [2, 3], ∃ (s : State) (k : Nat), s.coreAwake = true ∧ s.resets.inReset = none ∧ k = n ∧ s.sourceReach 5 = c) ∧
    (∃ s : State, s.aon.running = true ∧ s.Narrower (Reach.ofCode (s.sourceReach 8))) ∧
    (∀ c ∈ [2, 3], ∃ s : State, s.coreAwake = true ∧ s.resets.inReset = none ∧ s.sourceReach 11 = c) ∧
    (∀ d < 18, ∃ s : State, s.resets.clockGood.getLsbD d = true ∧ s.resets.released.getLsbD d = true ∧ s.aon.running = true ∧
      s.Narrower .powerOn ∧ s.Narrower (Reach.ofCode (s.sourceReach 7)) ∧ s.resets.inReset = none) :=
  ⟨fun n _ c hc => ⟨fused up 5 c, n, by revert c; decide +kernel, rfl, rfl, by revert c; decide +kernel⟩,
   ⟨up, rfl, fun q hq => by cases hq⟩, fun c hc => ⟨fused up 11 c, by revert c; decide +kernel⟩,
   fun d hd => ⟨up, by revert d; decide +kernel, by revert d; decide +kernel, rfl,
     fun q hq => (by cases hq), fun q hq => (by cases hq), rfl⟩⟩

/-- Quarter 3 under its fault source, or with the source gone and the quarter still in reset. -/
def quarter3 (s : State) (inReset : Bool) : State :=
  { s with
    resets := { s.resets with holds := [⟨11, .quarter, .quarter 3, !inReset⟩] }
    dies := vset s.dies 3 { Die.reset with inReset := inReset } }

/-- A block asked to go idle, its source asserted or not. -/
def asked (b : BlockTarget) (on : Bool) : State :=
  { up with resets := { up.resets with holds := [⟨3, .block, .block b, on⟩], blocks := [⟨b, 0, false, false⟩] } }

/-- A descriptor of a code in context 3, in progress at a stage. -/
def opAt (code : Nat) (st : Stage) : Op :=
  { ctx := 3, seq := 0, slot := 255, index := 0, desc := le 2 code ++ zeros 126, stage := st, readyAt := 0, launchedAt := 0,
    status := stOk, step := 0, attempt := 0, scales := [], copies := [], sources := [], sizes := [], progress := 0,
    dropped := false, taint := false, feeds := none }

/-- The far-tier engine asked to go idle while a far move of session 0 runs. -/
def busy (on : Bool) : State :=
  (asked .farTier on).setSession 0 { sess with ops := [opAt opFarMove .launched] }

theorem test_meets_QuarterAndBlockResetsAct :
    (∀ touched : Bool, ∃ s : State, (∃ h ∈ s.resets.holds, h.target = .quarter 3) ∧ (vget Die.reset s.dies 3).inReset = false ∧
      s.resets.inReset = none ∧ s.quartersPowered = true ∧
      (touched = false → ∀ i < 4, (s.session i).isOpen = true → (s.session i).touches 3 = false) ∧
      (touched = true → (s.session 0).isOpen = true ∧ (s.session 0).touches 3 = true)) ∧
    (∃ s : State, (vget Die.reset s.dies 3).inReset = true ∧ (∀ h ∈ s.resets.holds, h.target.inQuarter 3 = true → h.holds = false) ∧
      s.resets.inReset = none ∧ s.quartersPowered = true ∧ s.resets.clockGood.getLsbD 6 = true ∧
      s.resets.clockGood.getLsbD 11 = true) ∧
    (∀ b ∈ [BlockTarget.hostPort, .tap, .countingBoard 3, .pigeonhole 0, .sortingOffice 1, .port 17], ∀ on : Bool, ∃ (s : State) (e : BlockHold),
      s.resets.blocks.find? (fun k => k.target = b) = some e ∧ e.done = false ∧ s.resets.inReset = none ∧
      s.blockPowered b = true ∧ s.blockIdle b = true ∧
      (on = true → ∃ h ∈ s.resets.holds, h.target = .block b ∧ h.holds = true) ∧
      (on = false → (∀ h ∈ s.resets.holds, h.target = .block b → h.holds = false) ∧ s.blockClock b = true)) ∧
    (∀ on late : Bool, ∃ (s : State) (b : BlockTarget) (e : BlockHold),
      s.resets.blocks.find? (fun k => k.target = b) = some e ∧ e.done = false ∧ s.resets.inReset = none ∧
      s.blockPowered b = true ∧ s.blockIdle b = false ∧ s.blockWork b ≠ [] ∧
      decide (e.since.toNat + ns (1000 * s.options.idleTimeout.toNat) ≤ s.time.now.toNat) = late ∧
      (on = true → ∃ h ∈ s.resets.holds, h.target = .block b ∧ h.holds = true) ∧
      (on = false → (∀ h ∈ s.resets.holds, h.target = .block b → h.holds = false) ∧ s.blockClock b = true)) :=
  ⟨fun b => ⟨quarter3 (if b then up else { up with sessions := State.reset.sessions }) false, by revert b; decide +kernel⟩,
   ⟨quarter3 up true, by decide +kernel⟩,
   fun b hb on => ⟨asked b on, ⟨b, 0, false, false⟩, by revert b; cases on <;> decide +kernel, rfl, rfl,
     by revert b; cases on <;> decide +kernel, by revert b; cases on <;> decide +kernel,
     by revert b; cases on <;> decide +kernel, by revert b; cases on <;> decide +kernel⟩,
   fun on late => ⟨at_ (busy on) (if late then 10 ^ 9 else 0), .farTier, ⟨.farTier, 0, false, false⟩, by
     cases on <;> cases late <;> decide +kernel⟩⟩

theorem test_meets_StartsBegin :
    (∃ s : State, s.aon.running = false ∧ s.resets.inReset = some .powerOn ∧ s.fuses.latched = false) ∧
    (∃ s : State, s.resets.inReset = some .powerOn ∧ s.aon.running = true ∧ s.power.sb12 = true ∧
      (∀ h ∈ s.resets.holds, h.target = .module → h.holds = false) ∧ s.resets.atP0 = false ∧ s.fuses.latched = false) ∧
    (∀ r ∈ [Reach.warm, .cold], ∀ running atP0 : Bool, ∃ (s : State) (n : Nat), s.resets.inReset = some r ∧ s.aon.running = true ∧
      s.power.sb12 = true ∧ s.power.powerGood = true ∧ s.resets.atP0 = atP0 ∧
      (∀ h ∈ s.resets.holds, h.target = .module → h.holds = false) ∧ decide (s.fw.state = .running) = running ∧
      s.lc.openRec = some n ∧ markSet (s.lc.record n) mkKeys = true) :=
  ⟨⟨State.reset, by decide +kernel⟩,
   ⟨{ up with
      resets := { up.resets with inReset := some .powerOn, holds := [⟨2, .powerOn, .module, false⟩] }
      fuses := { up.fuses with latched := false } }, by decide +kernel⟩,
   fun r hr b a => ⟨{ up with
     resets := { up.resets with inReset := some r, holds := [⟨2, .cold, .module, false⟩], atP0 := a }
     lc := { up.lc with records := vset up.lc.records 2 (withMark (BitVec.ofNat 32 (stateTarget 4)) mkKeys) }
     fw := if b then up.fw else Firmware.reset }, 2, by revert r; cases b <;> cases a <;> decide +kernel⟩⟩

/-- Bring-up in a phase, its steps to come. -/
def phase (n : Nat) : State := { up with resets := { up.resets with inPhase := n, clockGood := 0, released := 0 }, fw := Firmware.reset }

theorem test_meets_BringupRuns :
    (∀ d < 18, ∃ (s : State) (us : Nat), s.resets.pll.getLsbD d = true ∧ s.resets.clockGood.getLsbD d = false ∧
      s.resets.failed.contains (0x10 + d) = false ∧ (0 < d → s.awaits (0x10 + d) = true) ∧ s.resets.inReset = none ∧
      (∀ q < 4, (vget Die.reset s.dies q).inReset = false) ∧ stability d (s.stepMethod (0x10 + d)) < 1000 * (us + 1) ∧
      us ≤ lockLimit (s.stepMethod (0x10 + d)) ∧ 1000 * (0 + 1) ≤ stability d (s.stepMethod (0x10 + d))) ∧
    (∀ key ∈ [0x01, 0x02, 0x30, 0x33, 0x40, 0x47, 0x50], ∃ s : State, s.awaits key = true ∧
      s.resets.quarterSteps.contains key = false ∧ s.host.linkUp = true) ∧
    (∃ s : State, s.awaits 0x60 = true ∧ s.resets.quarterSteps.contains 0x60 = false ∧ s.lc.openRec = none ∧
      ∀ k < 8, 0x40 + k ∈ s.resets.stepsDone) ∧
    (∃ (s : State) (key : Nat), s.awaits key = false ∧ s.resets.quarterSteps.contains key = false) ∧
    (∀ key ∈ [0x33, 0x46, 0x47], ∃ s : State, s.resets.quarterSteps.contains key = true ∧ s.resets.inReset = none ∧
      ∀ k ∈ s.resets.quarterSteps, k = key ∨ (k ≠ 0x33 ∧ k ≠ 0x46 ∧ k ≠ 0x47)) :=
  ⟨fun d hd => ⟨phase (if d < 2 then 1 else 3), 10000, by revert d; decide +kernel, by revert d; decide +kernel,
     by revert d; decide +kernel, by revert d; decide +kernel, rfl, by revert d; decide +kernel, by revert d; decide +kernel,
     by revert d; decide +kernel, by revert d; decide +kernel⟩,
   fun k hk => ⟨phase (if k = 1 then 1 else if k = 2 then 2 else if k = 0x50 then 4 else if k < 0x40 then 5 else 6),
     by revert k; decide +kernel, by revert k; decide +kernel⟩,
   ⟨{ phase 6 with resets := { (phase 6).resets with stepsDone := (List.range 8).map (0x40 + ·) } }, by decide +kernel⟩,
   ⟨up, 0x11, by decide +kernel⟩,
   fun k hk => ⟨{ up with resets := { up.resets with quarterSteps := [k, 0x30] } }, by revert k; decide +kernel⟩⟩

/-- Readings within every range but for one sensor. -/
def readings (i : Nat) (x : Int) : List Int :=
  (List.range 64).map fun k =>
    if k = i then x else if k = 50 then 1000 else if k = 51 then 3072 else if k = 53 then 3072 else if k = 63 then 0 else 400

/-- A Watch Post with four samples of a set of readings. -/
def watched (l : List Int) : State :=
  { up with watch := { up.watch with windows := Vector.ofFn fun (i : Fin 64) => List.replicate 4 (l.getD i 0) } }

theorem test_meets_WatchPostActs :
    (∃ (s : State) (l : List Int), s.aon.running = true ∧ s.resets.inReset ≠ some .powerOn ∧
      (s.watch.take s.options.filterShift.toNat (withPower l)).ready = false) ∧
    (∃ (s : State) (l : List Int),
      let w := s.watch.take s.options.filterShift.toNat (withPower l);
      let v := s.levels w;
      s.aon.running = true ∧ s.resets.inReset ≠ some .powerOn ∧ w.ready = true ∧ v.trip = none ∧ v.supplyBad = none) ∧
    (∀ held : Bool, ∀ c ∈ [4, 5], ∀ i ∈ [0, 63], ∃ (s : State) (l : List Int),
      let w := s.watch.take s.options.filterShift.toNat (withPower l);
      let v := s.levels w;
      s.aon.running = true ∧ s.resets.inReset ≠ some .powerOn ∧ w.ready = true ∧ v.trip = some i ∧ s.watch.tripHeld = held ∧
      v.supplyBad = none ∧ s.sourceReach 6 = c ∧ s.resets.inReset = none) ∧
    (∃ (s : State) (l : List Int),
      let w := s.watch.take s.options.filterShift.toNat (withPower l);
      let v := s.levels w;
      s.aon.running = true ∧ s.resets.inReset ≠ some .powerOn ∧ w.ready = true ∧ v.trip = some 0 ∧ s.watch.tripHeld = false ∧
      v.supplyBad ≠ none ∧ s.watch.supplyHeld = false ∧ s.sourceReach 6 = 4 ∧ s.sourceReach 7 = 4 ∧ s.resets.inReset = none) ∧
    (∀ c ∈ [4, 5], ∀ i ∈ [51, 53], ∃ (s : State) (l : List Int),
      let w := s.watch.take s.options.filterShift.toNat (withPower l);
      let v := s.levels w;
      s.aon.running = true ∧ s.resets.inReset ≠ some .powerOn ∧ w.ready = true ∧ v.trip = none ∧ v.supplyBad = some i ∧
      s.watch.supplyHeld = false ∧ s.sourceReach 7 = c ∧ s.resets.inReset = none) ∧
    (∃ s : State, s.watch.tripHeld = true ∧ s.watch.leakLatched = false ∧ 10000 ≤ s.watch.safeMs) ∧
    (∃ s : State, s.watch.supplyHeld = true ∧ 100 ≤ s.watch.supplyMs) :=
  ⟨⟨up, readings 64 0, by decide +kernel⟩, ⟨watched (readings 64 0), readings 64 0, by decide +kernel⟩,
   fun b c hc i hi => ⟨fused { watched (readings i (if i = 63 then 1 else 1760)) with
       watch := { (watched (readings i (if i = 63 then 1 else 1760))).watch with tripHeld := b } } 6 c,
     readings i (if i = 63 then 1 else 1760), by revert c i; cases b <;> decide +kernel⟩,
   ⟨watched ((readings 0 1760).set 53 2431), (readings 0 1760).set 53 2431, by decide +kernel⟩,
   fun c hc i hi => ⟨fused (watched (readings i 2431)) 7 c, readings i 2431, by revert c i; decide +kernel⟩,
   ⟨{ up with watch := { up.watch with tripHeld := true, safeMs := 10000 } }, by decide +kernel⟩,
   ⟨{ up with watch := { up.watch with supplyHeld := true, supplyMs := 100 } }, by decide +kernel⟩⟩

/-! ### Counters, the host port and the management bus -/

/-- A counter of quarter 0 that session 0, or the module, owns. -/
def counted (own : BitVec 2) (s : State) : State := s.setCounter 0 3 { Counter.reset with owner := own, value := 5 }

/-- A sample ring of 4,096 bytes with a record queued and `n` records in it. -/
def ringed (n : Nat) : SampleRing :=
  { owner := 31, base := 0, size := 4096, head := 64 * n, tail := 0, lost := 0, seq := 0, queue := [⟨0, []⟩] }

theorem test_meets_CountersCountAndSample :
    (∀ c ∈ [(Access.reads, 0, 2), (.work, 1, 2), (.work, 3, 2)], ∃ (s : State) (mb : Nat) (r : Req),
      s.Accepts mb 0x0900 .mixed c.1 r ∧ perfForm r.body = true ∧ (u8 r.body 2).toNat = c.2.1 ∧
      (s.counter (u8 r.body 0).toNat (u8 r.body 1).toNat).right r = stOk ∧
      recordOk (u8 r.body 0).toNat ((s.counter (u8 r.body 0).toNat (u8 r.body 1).toNat).owner = 2) (r.body.drop 8) = true) ∧
    (∀ own : Bool, ∃ (s : State) (mb : Nat) (r : Req),
      s.Accepts mb 0x0900 .mixed .work r ∧ perfForm r.body = true ∧ u8 r.body 2 = 2 ∧ r.isSealed = own ∧
      (s.counter (u8 r.body 0).toNat (u8 r.body 1).toNat).owner = 0 ∧
      (r.isSealed = true → s.holdsOn r.session (u8 r.body 0).toNat = true) ∧
      recordOk (u8 r.body 0).toNat (!r.isSealed) (r.body.drop 8) = true) ∧
    (∀ fixed : Bool, ∃ (s : State) (mb : Nat) (r : Req),
      s.Accepts mb 0x0901 .mixed .reads r ∧ r.body.length = 4 ∧ 1 ≤ (u8 r.body 3).toNat ∧ (u8 r.body 3).toNat ≤ 64 ∧
      (fixed = false → u8 r.body 1 = 0 ∧ (u8 r.body 2).toNat + (u8 r.body 3).toNat ≤ counterCount (u8 r.body 0).toNat ∧
        ∀ k < (u8 r.body 3).toNat, (s.counter (u8 r.body 0).toNat ((u8 r.body 2).toNat + k)).right r = stOk) ∧
      (fixed = true → u8 r.body 1 = 1 ∧ (u8 r.body 0).toNat < 4 ∧ (u8 r.body 2).toNat + (u8 r.body 3).toNat ≤ 16 ∧
        r.isSealed = true ∧ ((s.acceptKey r).session r.session).dieList.contains (u8 r.body 0).toNat = true)) ∧
    (∃ (s : State) (mb : Nat) (r : Req),
      let x := (s.acceptKey r).session r.session;
      let owner := (u8 r.body 0).toNat;
      let base := fieldAt r.body 8 8;
      let size := fieldAt r.body 16 8;
      s.Accepts mb 0x0902 .sealed .work r ∧ bodyForm r.body 24 [(1, 7)] = true ∧ x.partyOk owner = true ∧
      addrClass base = 1 ∧ base % 64 = 0 ∧ size ∈ ringSizes ∧ (x.region owner).1 ≤ addrOff base ∧
      addrOff base + size ≤ (x.region owner).1 + (x.region owner).2) ∧
    (∃ (s : State) (mb : Nat) (r : Req) (g : SampleRing),
      let u := s.acceptKey r;
      let x := u.session r.session;
      let m := min (fieldAt r.body 0 2) g.held;
      let q := (List.range m).foldl (fun (a : Job × List Bytes) k =>
         let b := a.1.readHbm (g.base + (g.tail + 64 * k) % g.size) 64
         (b.1, a.2 ++ [b.2])) (u.plainJob r.session g.owner, []);
      s.Accepts mb 0x0903 .sealed .reads r ∧ r.body.length = 2 ∧ 1 ≤ fieldAt r.body 0 2 ∧ fieldAt r.body 0 2 ≤ 120 ∧
      x.ring = some g ∧ q.1.status = stOk) ∧
    (∀ full : Bool, ∃ (s : State) (g : SampleRing) (q : Sample) (rest : List Sample),
      (s.session 0).ring = some g ∧ g.queue = q :: rest ∧ decide (g.size / 64 - 1 ≤ g.held) = full) :=
  ⟨fun c hc => ⟨_, 1, preq 1 0x0900 0xFF ([0, 3] ++ le 1 c.2.1 ++ zeros 25),
     plain (s := counted 2 up) (by revert c; decide +kernel), by revert c; decide +kernel⟩,
   fun own => by
     cases own
     · exact ⟨_, 1, preq 1 0x0900 0xFF ([0, 3, 2] ++ zeros 25), plain (s := up) (by decide +kernel), by decide +kernel⟩
     · exact ⟨_, 16, sreq 16 0x0900 0 0 (zeros 64) ([3, 63, 2] ++ zeros 6 ++ [4] ++ zeros 18),
         seald (s := up) (by decide +kernel), by decide +kernel⟩,
   fun fixed => by
     cases fixed
     · exact ⟨_, 1, preq 1 0x0901 0xFF [5, 0, 0, 16], plain (s := up) (by decide +kernel), by decide +kernel⟩
     · exact ⟨_, 16, sreq 16 0x0901 0 0 (zeros 64) [3, 1, 0, 16], seald (s := up) (by decide +kernel), by decide +kernel⟩,
   ⟨_, 16, sreq 16 0x0902 0 0 (zeros 64) (zeros 8 ++ le 8 (2 ^ 62) ++ le 8 4096),
     seald (s := up) (by decide +kernel), by decide +kernel⟩,
   ⟨_, 16, sreq 16 0x0903 0 0 (zeros 64) [120, 0], ringed 0,
     seald (s := up0 fun x => { x with ring := some (ringed 0) }) (by decide +kernel), by decide +kernel⟩,
   fun full => ⟨up0 fun x => { x with ring := some (ringed (if full then 63 else 62)) }, ringed (if full then 63 else 62), _, _,
     by revert full; decide +kernel, rfl, by revert full; decide +kernel⟩⟩

theorem test_meets_CountersCountPastTheirWidth :
    ∀ wrap c : Bool, ∃ (k : Counter) (n : Nat), decide (2 ^ 48 ≤ k.value.toNat + n) = wrap ∧ k.ovfSample = c :=
  fun wrap c => ⟨{ Counter.reset with value := 0xFFFFFFFFFFFF, ovfSample := c }, if wrap then 1 else 0, by
    cases wrap <;> cases c <;> decide⟩

/-- Mailbox 63 in a state, its buffer holding a request of 16 bytes with a known code. -/
def boxed (m : MbState) (len : Nat) : State :=
  up.setMailbox 63 { Mailbox.reset with state := m, reqLen := BitVec.ofNat 13 len, buffer := memStore [] 0 [1, 0] }

theorem test_meets_RegisterWindowsAct :
    (∀ m ∈ [MbState.idle, .done], ∀ len ∈ [16, 8128], ∃ (s : State) (fn n off : Nat) (v : W32),
      s.barred fn none = none ∧ n < 64 ∧ s.showsMailbox fn n = true ∧ off % 4 = 0 ∧ (s.mailbox n).state = m ∧ off = 0x1FFC ∧
      v.getLsbD 0 = true ∧ (s.mailbox n).reqLen.toNat = len ∧ fieldAt (s.mailbox n).request 0 2 ∈ knownCodes) ∧
    (∀ len ∈ [15, 8129], ∃ (s : State) (fn n off : Nat) (v : W32),
      s.barred fn none = none ∧ n < 64 ∧ s.showsMailbox fn n = true ∧ off % 4 = 0 ∧ (s.mailbox n).state = .idle ∧
      v.getLsbD 0 = true ∧ (s.mailbox n).reqLen.toNat = len) ∧
    (∀ m ∈ [MbState.submitted, .serving], ∀ off ∈ [4, 8, 64, 0x1FFC, 0x80000, 0x3FFFFC, 0x400000], ∃ (s : State) (fn n : Nat),
      s.barred fn none = none ∧ n < 64 ∧ s.showsMailbox fn n = true ∧ off % 4 = 0 ∧ (s.mailbox n).state = m) ∧
    (∃ (s : State) (v : W32), s.barred 0 none = none ∧ v.getLsbD 9 = true ∧ s.host.decoder.committed = false) ∧
    (∃ (s : State) (fn off : Nat), s.barred fn none = none ∧ 0x400000 ≤ off ∧ (0x420000 ≤ off ∨ fn ≠ 0)) :=
  ⟨fun m hm len hl => ⟨boxed m len, 0, 63, 0x1FFC, 1, by revert m len; decide +kernel⟩,
   fun len hl => ⟨boxed .idle len, 0, 63, 0x1FFC, 1, by revert len; decide +kernel⟩,
   fun m hm off ho => ⟨boxed m 16, 0, 63, by revert m; decide +kernel, by decide +kernel, by revert m; decide +kernel, by revert off; decide +kernel,
     by revert m; decide +kernel⟩,
   ⟨up, 0x200, by decide +kernel⟩, ⟨up, 0, 0x420000, by decide +kernel⟩⟩

/-- The host has supplied windows for the module's page and for session 0's. -/
def paged : State := { up with host := { up.host with
  windows := [(0, { base := 0x1000, size := 4096, owner := none, objects := false }),
    (1, { base := 0x3000, size := 8192, owner := some 0, objects := false })] } }

theorem test_meets_RegisterWindowsAct_status :
    (∀ fn ∈ [0, 4], ∃ s : State, s.barred fn none = none ∧ fn < 5) ∧
    (∃ (s : State) (a b : Nat), s.resets.inReset = none ∧ s.fw.state = .running ∧
      (s.power.power = .ps0 ∨ s.power.power = .ps1 ∨ s.power.power = .ps2) ∧ s.cacheReady = true ∧ s.pageWindow none = some a ∧
      (s.session 0).isOpen = true ∧ s.pageWindow (some 0) = some b) :=
  ⟨fun fn h => ⟨{ up with host := { up.host with vfEnable := true, numVfs := 4 } }, by revert fn; decide +kernel⟩,
   ⟨paged, 0x1000, 0x3000, by decide +kernel⟩⟩

/-- The committed window of a module in service, its memory active or not. -/
def windowed (m : Bool) : State :=
  { up with host := { up.host with decoder := ⟨0, 2 ^ 40, 1, true, false⟩, memActive := m, filter := [0x40], dirty := [0x40] } }

theorem test_meets_HdmWindowActs :
    (∀ off ∈ [0, 2 ^ 40 - 64], ∃ (s : State) (d : Bytes) (b : Option Bytes), s.portAwake = true ∧ s.host.configDone = true ∧ off < 2 ^ 40 ∧
      s.host.decoder.committed = true ∧ s.host.memActive = true ∧ s.host.ideMem ≠ .lost ∧ d ≠ [] ∧
      ({ s with draws := s.draws + 1 } : State).hdmLine s.draws (off / 64 * 64 / 2 ^ 34) (off / 64 * 64 % 2 ^ 34) = b ∧
      b.isSome = true ∧ s.host.dirty ≠ []) ∧
    (∃ (s : State) (off : Nat), s.portAwake = true ∧ s.host.configDone = true ∧ off < 2 ^ 40 ∧
      s.host.decoder.committed = true ∧ s.host.memActive = true ∧ s.host.ideMem ≠ .lost ∧
      ({ s with draws := s.draws + 1 } : State).hdmLine s.draws (off / 64 * 64 / 2 ^ 34) (off / 64 * 64 % 2 ^ 34) = none) ∧
    (∃ (s : State) (off : Nat), s.portAwake = true ∧ s.host.configDone = true ∧ off < 2 ^ 40 ∧
      s.host.decoder.committed = true ∧ s.host.memActive = false) :=
  ⟨fun off h => ⟨windowed true, [0], _, by decide +kernel, by decide +kernel, by revert off; decide +kernel,
     by decide +kernel, by decide +kernel, by decide +kernel, by decide, rfl, by revert off; decide +kernel, by decide +kernel⟩,
   ⟨(windowed true).setChan (.hbm 63) { Channel.reset with lines := [(1, .uncorrectable)] }, 63 * 2 ^ 34 + 64, by decide +kernel⟩,
   ⟨windowed false, 2 ^ 40 - 1, by decide +kernel⟩⟩

theorem test_meets_HostConfigurationAndLinkAct :
    (∀ fn ∈ [0, 4], ∃ (s : State) (reg : Nat) (c : W32), s.portAwake = true ∧ s.host.configDone = true ∧ s.vfThere fn = true ∧
      fixedConfig fn reg = some c) ∧
    (∀ bar : Bool, ∃ (s : State) (reg : Nat), s.portAwake = true ∧ s.host.configDone = true ∧ s.vfThere 0 = true ∧
      fixedConfig 0 reg = none ∧ reg ∉ [0x011, 0x05A, 0x05C, 0x022, 0x107] ∧ (barSize reg).isSome = bar) ∧
    (∃ s : State, s.portAwake = true ∧ s.host.configDone = true ∧ s.vfThere 1 = false) ∧
    (∃ (s : State) (st : IdeStream), s.portAwake = true ∧ s.host.configDone = true ∧ s.host.ide st = .secure ∧
      ∃ q ∈ s.host.spdm, q.fn = 0) ∧
    (∃ s : State, s.portAwake = true ∧ s.host.configDone = true ∧ ∀ q ∈ s.host.spdm, q.fn ≠ 0) ∧
    (∃ (s : State) (base : Nat), s.portAwake = true ∧ s.host.configDone = true ∧ s.barred 0 none = none ∧ base % 2 ^ 28 = 0 ∧
      0 < base) :=
  ⟨fun fn h => ⟨{ up with host := { up.host with vfEnable := true, numVfs := 4 } }, 0, _, by decide +kernel, by decide +kernel,
     by revert fn; decide +kernel, rfl⟩,
   fun bar => ⟨up, if bar then 4 else 1, by revert bar; decide +kernel⟩, ⟨up, by decide +kernel⟩,
   ⟨{ up with host := up.host.setIde (.selective 7) .secure }, .selective 7, by decide +kernel⟩,
   ⟨{ up with host := { up.host with spdm := [] } }, by decide +kernel⟩, ⟨up, 2 ^ 28, by decide +kernel⟩⟩

theorem test_meets_HostConfigurationAndLinkAct_link :
    (∀ w ∈ [4, 8, 16], ∃ s : State, s.linkTrains = true ∧ (w = 4 ∨ w = 8 ∨ w = 16)) ∧ (∃ s : State, s.host.linkUp = true) ∧
    (∃ s : State, s.resets.failed.contains 0x50 = true ∧ s.host.configDone = false ∧ s.linkTrains = true ∧
      s.host.linkUp = false) :=
  ⟨fun w h => ⟨{ up with host := { up.host with linkUp := false } }, by decide +kernel, by revert w; decide⟩,
   ⟨up, by decide +kernel⟩,
   ⟨{ up with
     host := { up.host with linkUp := false, configDone := false }, resets := { up.resets with failed := [0x50] } },
     by decide +kernel⟩⟩

/-- The module in service in Production, with a key exchange begun on function 0. -/
def produced : State :=
  { up with lc := { up.lc with codeword := 0xFFFFFFFF }, host := { up.host with spdmPending := [⟨0, zeros 64, zeros 48⟩] } }

theorem test_meets_SpdmAnswers : ∃ s : State, s.spdmReady = true ∧ s.barredConfig 0 = none ∧ s.aon.running = true ∧
    s.host.spdmPending.find? (fun q => q.1 = 0) = some ⟨0, zeros 64, zeros 48⟩ ∧ (∀ k ∈ [1, 9], s.measurement k ≠ none) ∧ 0 < s.chain.length ∧
    ∃ exchange : Bytes, Crypto.onCurve (beNat (slice exchange 0 48), beNat (slice exchange 48 48)) = true :=
  ⟨produced, by decide +kernel, by decide +kernel, by decide +kernel, by decide +kernel, by decide +kernel,
   by unfold State.chain certificate der; exact Nat.zero_lt_succ _, Crypto.pointBytes Crypto.base384, by decide +kernel⟩

/-- An option block of the right magic and check. -/
def block : Bytes := (ascii "LSVO" ++ zeros 56) ++ w32 (Crypto.crc32 (ascii "LSVO" ++ zeros 56))

theorem test_meets_ManagementBusAnswers :
    (∀ i3c : Bool, ∃ (s : State) (e : ResetEntry), s.aon.running = true ∧ s.mgmtReady = true ∧ s.aon.mgmtI3c = i3c ∧
      (∀ n ∈ [1, 64, 100, 101, 102, 103], s.sensorReading n ≠ none) ∧ s.aon.resetLog[0]? = some e ∧ s.fuses.block ≠ []) ∧
    (∀ cur : Bool, ∃ (s : State) (b : Bytes), s.aon.running = true ∧ s.mgmtReady = true ∧ optionOk b = true ∧ s.lcState ≠ 4 ∧
      s.lcState ≠ 0xFF ∧ s.lc.openRec = none ∧ s.fuses.currentSector = cur) :=
  ⟨fun b => ⟨{ up with
     aon := { up.aon with mgmtI3c := b, resetLog := [⟨0, 1, 2, 4, false, 0, 0⟩] }
     fuses := { up.fuses with sector0 := block, sector1 := block } }, ⟨0, 1, 2, 4, false, 0, 0⟩, by revert b; decide +kernel⟩,
   fun cur => ⟨{ up with fuses := { up.fuses with currentSector := cur } }, block, by revert cur; decide +kernel⟩⟩

/-! ### Descriptors and engines -/

/-- A descriptor: operation, flags, and what its fields hold from byte 32 on. -/
def dsc (code flags : Nat) (body : Bytes) : Bytes := padTo 128 (le 2 code ++ le 2 flags ++ zeros 28 ++ body)

/-- That descriptor in progress on context 0. -/
def opn (stage : Stage) (d : Bytes) : Op :=
  { ctx := 0, seq := 0, slot := 255, index := 0, desc := d, stage := stage, readyAt := 0, launchedAt := 0, status := 0,
    step := 0, attempt := 0, scales := [], copies := [], sources := [], sizes := [], progress := 0, dropped := false,
    taint := false, feeds := none }

/-- Session 0 with that one descriptor in progress. -/
def doing (stage : Stage) (d : Bytes) : State := up0 fun x => { x with ops := [opn stage d] }

/-- The name of that descriptor. -/
def o0 : OpRef := ⟨0, 0, 0⟩

/-- Context 0 of session 0 runs a list of one descriptor. -/
def running (index : Nat) (d : Bytes) (f : Session → Session) : State :=
  up0 fun x => f { x with
    lists := [(255, ⟨[d], []⟩)]
    ctxs := vset x.ctxs 0 { Context.reset with state := .running, slot := 255, index := BitVec.ofNat 17 index } }

theorem test_meets_DescriptorsStart :
    (∃ (s : State) (d : Bytes), let x := s.session 0; let k := x.ctx 0;
      k.live = true ∧ x.descAt? k.slot.toNat k.index.toNat = some d ∧ x.startCheck 0 d ≠ stOk) ∧
    (∃ (s : State) (d : Bytes), let x := s.session 0; let k := x.ctx 0;
      k.live = true ∧ x.descAt? k.slot.toNat k.index.toNat = some d ∧ x.startCheck 0 d = stOk ∧ s.canStart 0 0 d = false) ∧
    (∃ (s : State) (d : Bytes), let x := s.session 0; let k := x.ctx 1;
      k.live = true ∧ x.descAt? k.slot.toNat k.index.toNat = some d ∧ x.startCheck 1 d = stOk ∧ opClass (dOpcode d) = 1 ∧
      (x.ctx 0).live = true ∧ x.descAt? (x.ctx 0).slot.toNat (x.ctx 0).index.toNat = some d ∧ x.startCheck 0 d = stOk ∧
      s.canStart 0 0 d = true) ∧
    (∀ q ∈ [(opNop, 0), (opNop, 8), (opEnd, 0), (opSeal, 0)], ∃ (s : State) (d : Bytes), let x := s.session 0; let k := x.ctx 0;
      k.live = true ∧ x.descAt? k.slot.toNat k.index.toNat = some d ∧ x.startCheck 0 d = stOk ∧ s.canStart 0 0 d = true ∧
      dOpcode d = q.1 ∧ dFlags d = q.2) ∧
    (∃ s : State, let x := s.session 0; let k := x.ctx 0;
      k.live = true ∧ x.descAt? k.slot.toNat k.index.toNat = none ∧ (∀ o ∈ x.ops, o.ctx = 0 → o.code ≠ opEnd ∧ o.code ≠ opLink) ∧
      x.sealHolds 0 [] = false) :=
  ⟨⟨running 0 (dsc opNop 0 []) fun x => { x with mem := { x.mem with quarantined := true } }, dsc opNop 0 [], by decide +kernel⟩,
   ⟨running 0 (dsc opNop 1 []) id, dsc opNop 1 [], by decide +kernel⟩,
   ⟨running 0 (dsc opMatmul 0 []) fun x => x.setCtx 1 (x.ctx 0), dsc opMatmul 0 [], by decide +kernel⟩,
   fun q hq => ⟨running 0 (dsc q.1 q.2 [0, 0, 0, 1]) id, dsc q.1 q.2 [0, 0, 0, 1], by revert q; decide +kernel⟩,
   ⟨running 1 (dsc opNop 0 []) id, by decide +kernel⟩⟩

/-- A timed descriptor of an opcode at a postmark, which fails late or not. -/
def timed (code at_ : Nat) (fail : Bool) : Bytes := padTo 128 (le 2 code ++ le 2 (if fail then 24 else 8) ++ zeros 4 ++ le 8 at_)

/-- A product of one element. -/
def one (code : Nat) : Bytes := dsc code 0 (le 4 1 ++ le 4 1 ++ le 4 1)

/-- A product of one element whose A comes from stream 0. -/
def fed : Bytes := dsc opMatmul 0 (le 4 1 ++ le 4 1 ++ le 4 1 ++ zeros 2 ++ le 2 4)

theorem test_meets_TimedLaunchesAndWaits :
    (∀ free late fail slow : Bool, ∃ (s : State) (o : OpRef) (p : Op), o.session < 4 ∧ p.ctx < 4 ∧ s.op? o = some p ∧
      p.stage = .started ∧ (dLaunch p.desc).toNat ≤ s.time.now.toNat ∧ (s.session o.session).pieceFree p = free ∧
      decide ((s.session o.session).readySince p + ns 1000 ≤ (dLaunch p.desc).toNat) = !late ∧ dLateFail p.desc = fail ∧
      decide (s.pieceThrottle (s.session o.session) = 0) = !slow) ∧
    (∃ (s : State) (o : OpRef) (p : Op), s.op? o = some p ∧ p.stage = .started ∧
      s.pieceThrottle (s.session o.session) ≠ 0 ∧ opClass p.code ∉ [1, 2, 3] ∧ p.code ≠ opReckon ∧
      (s.session o.session).pieceFree p = true) ∧
    (∃ (s : State) (o : OpRef) (d : Bytes), let x := s.session o.session; let k := x.ctx o.ctx;
      o.session < 4 ∧ o.ctx < 4 ∧ s.op? o = none ∧ k.live = true ∧ o.seq = k.nextSeq ∧
      x.descAt? k.slot.toNat k.index.toNat = some d ∧ dTimed d = true ∧ dLateFail d = true ∧
      (dLaunch d).toNat ≤ s.time.now.toNat ∧ ∀ q ∈ x.ops, q.ctx = o.ctx → q.code ≠ opEnd ∧ q.code ≠ opLink) ∧
    (∃ (s : State) (d : Bytes), let x := s.session 0; let k := x.ctx 0;
      x.working = true ∧ x.top = 0 ∧ x.descAt? k.slot.toNat k.index.toNat = some d ∧ k.live = true ∧ dWaitEn d = true ∧
      s.waitHolds x d = true) :=
  ⟨fun free late fail slow =>
     let d := timed (if free then opNop else opMatmul) (if late then 0 else ns 1000) fail;
     let p : Op := { opn .started d with seq := 1 };
     ⟨{ up0 (fun x => { x with ops := [opn .launched (one opMatmul), p] }) with
        time := { up.time with now := BitVec.ofNat 64 (ns 1000) }
        watch := { up.watch with powerLevel := if slow then 4 else 0 } }, ⟨0, 0, 1⟩, p,
      by cases free <;> cases late <;> cases fail <;> cases slow <;> decide +kernel⟩,
   ⟨{ doing .started (timed opNop 0 false) with watch := { up.watch with powerLevel := 4 } }, o0, opn .started (timed opNop 0 false),
     by decide +kernel⟩,
   ⟨running 0 (timed opNop 0 true) id, ⟨0, 0, Context.reset.nextSeq⟩, timed opNop 0 true, by decide +kernel⟩,
   ⟨running 0 (dsc opNop 1 []) id, dsc opNop 1 [], by decide +kernel⟩⟩

theorem test_meets_ListControlAndTallies :
    (∀ c ∈ [opNop, opEnd, opLink, opTallyAdd, opTallySet, opTallyArm], ∃ (s : State) (o : OpRef) (p : Op), s.launched o c = some p) ∧
    (∀ there : Bool, ∃ (s : State) (o : OpRef) (p : Op), s.launched o opLink = some p ∧ o.session < 4 ∧ p.ctx < 4 ∧
      ((s.session o.session).descAt? (fieldAt p.desc 32 2) (fieldAt p.desc 36 4)).isSome = there) ∧
    (∀ armed past fail : Bool, ∃ (s : State) (o : OpRef) (p : Op),
      let n := (s.session o.session).tallyBase + fieldAt p.desc 32 2;
      s.launched o opTallyArm = some p ∧ (s.tally n).arm.isSome = armed ∧
      decide (fieldAt p.desc 40 8 < s.time.now.toNat) = past ∧ dLateFail p.desc = fail) ∧
    (∃ (s : State) (m : Nat) (t : W64) (w : W32) (j c : Nat), (s.tally m).arm = some (t, w, j, c) ∧ t.toNat ≤ s.time.now.toNat) ∧
    (∃ (s : State) (o : OpRef) (p : Op), s.op? o = some p ∧ p.stage = .finished ∧ p.isArray = false ∧ p.isCollective = false ∧
      p.code ≠ opSeal) ∧
    (∃ d : Bytes, dWaitEq d = false) ∧
    (∃ (t : Tally) (now : W64) (c e : Nat), t.clock ≠ now ∧ c ≤ e ∧ c ≠ e) :=
  ⟨fun c hc => ⟨doing .launched (dsc c 0 []), o0, opn .launched (dsc c 0 []), by revert c; decide +kernel⟩,
   fun b => ⟨(doing .launched (dsc opLink 0 [255])).onSession 0 fun x => { x with lists := if b then [(255, ⟨[dsc opNop 0 []], []⟩)] else [] },
     o0, opn .launched (dsc opLink 0 [255]), by cases b <;> decide +kernel⟩,
   fun armed past fail =>
     let d := dsc opTallyArm (if fail then 16 else 0) (zeros 8 ++ le 8 (if past then 0 else 1));
     ⟨({ doing .launched d with time := { up.time with now := 1 } } : State).setTally 0 { Tally.reset with arm := if armed then some (0, 1, 0, 0) else none },
       o0, opn .launched d, by cases armed <;> cases past <;> cases fail <;> decide +kernel⟩,
   ⟨up.setTally 3 { Tally.reset with arm := some (0, 1, 0, 0) }, 3, 0, 1, 0, 0, by decide +kernel⟩,
   ⟨doing .finished (dsc opNop 0 []), o0, opn .finished (dsc opNop 0 []), by decide +kernel⟩,
   ⟨[], by decide⟩, ⟨Tally.reset, 1, 0, 1, by decide⟩⟩

theorem test_meets_ArrayOperationsRun_open :
    (∀ c ∈ [opMatmul, opMatmulAlt], ∀ ok : Bool, ∃ (s : State) (o : OpRef) (p : Op), o.session < 4 ∧ s.launched o c = some p ∧
      (s.session o.session).arrayTurn p = true ∧ p.progress = 0 ∧ (s.session o.session).launchOk p = ok) ∧
    (∃ (s : State) (o : OpRef) (p : Op), o.session < 4 ∧ s.launched o opScrub = some p ∧
      ∀ q ∈ (s.session o.session).ops.takeWhile (fun q => !(q.ctx = p.ctx ∧ q.seq = p.seq)), q.isArray = false) :=
  ⟨fun c hc ok => ⟨(doing .launched (one c)).onSession 0 fun x => { x with piece := { x.piece with party := if ok then none else some 3 } },
     o0, opn .launched (one c), by revert c; cases ok <;> decide +kernel⟩,
   ⟨doing .launched (one opScrub), o0, opn .launched (one opScrub), by decide +kernel⟩⟩

theorem test_meets_ArrayOperationsRun_complete :
    (∀ c ∈ [opMatmul, opScrub], ∃ (s : State) (o : OpRef) (p : Op), o.session < 4 ∧ s.power.power = .ps0 ∧ s.op? o = some p ∧ p.isArray = true ∧
      p.code = c ∧ (s.session o.session).arrayDone p = true ∧ (s.session o.session).struck (aParty p.desc) = false ∧
      (s.session o.session).streamsOf p (some (p.ctx, p.seq)) = []) ∧
    (∃ (s : State) (o : OpRef) (p q : Op), o.session < 4 ∧ s.power.power = .ps0 ∧ s.op? o = some p ∧ p.isArray = true ∧ p.code ≠ opScrub ∧
      (s.session o.session).arrayDone p = true ∧ q ∈ (s.session o.session).streamsOf p (some (p.ctx, p.seq))) :=
  ⟨fun c hc =>
     let p : Op := { opn (if c = opMatmul then .launched else .finished) (one c) with progress := 1 };
     ⟨up0 fun x => { x with ops := [p] }, o0, p, by revert c; decide +kernel⟩,
   let p : Op := { opn .launched fed with progress := 1 };
   let q : Op := { opn .launched (dsc opPhStream 0 []) with ctx := 1, progress := 1, feeds := some (0, 0) };
   ⟨up0 fun x => { x with ops := [p, q] }, o0, p, q, by decide +kernel⟩⟩

/-- A tile of that product. -/
def tile1 : Tile := ⟨0, 0, false, 0, 0, 1, 1, [[⟨0, false, false⟩]]⟩

theorem test_meets_TilesIssueAndDrain :
    (∀ hold cont : Bool, ∃ (s : State) (o : Op) (comp : Bool) (n : Nat), let x := s.session 0; let p := x.product o.desc comp;
      s.power.power = .ps0 ∧ x.piece.tiles.length < 2 ∧ x.nextTile = some (o, comp, n) ∧ aHold o.desc = hold ∧ aContinue o.desc = cont ∧
      (cont = true → x.piece.held.isSome = true) ∧ o.status = stOk ∧ p.aSrc ≠ 1 ∧ p.bSrc ≠ 1 ∧
      x.struck (aParty o.desc) = false) ∧
    (∀ q ∈ [(0, 1, true), (1, 2048, false), (1, 1024, true)], ∃ (s : State) (tile : Tile) (rest : List Tile) (o : Op),
      let x := s.session 0; let p := x.product o.desc tile.companion;
      s.power.power = .ps0 ∧ (∀ k ∈ x.dieList, (vget Die.reset s.dies k).cbParty = some (aParty o.desc)) ∧ x.piece.tiles = tile :: rest ∧ x.op? tile.ctx tile.seq = some o ∧ p.n = q.2.1 ∧
      (rowPasses (kProg (x.entry p.prog)) = 0 ↔ q.1 = 0) ∧ decide (tile.colTile + 1 = p.colTiles) = q.2.2) :=
  ⟨fun hold cont =>
     let d := dsc opMatmul 0 (le 4 1 ++ le 4 1 ++ le 4 1 ++ zeros 2 ++ le 2 ((if hold then 128 else 0) + if cont then 256 else 0));
     ⟨up0 fun x => { x with ops := [opn .launched d], piece := { x.piece with opened := [(0, 0)], held := some tile1 } },
       opn .launched d, false, 0, by cases hold <;> cases cont <;> decide +kernel⟩,
   fun q hq =>
     let d := dsc opMatmul 0 (le 4 1 ++ le 4 q.2.1 ++ le 4 1 ++ zeros 34 ++ le 2 q.1);
     ⟨{ up0 (fun x =>
          { x with ops := [opn .launched d], piece := { x.piece with tiles := [tile1] }, kernel := some ⟨[padTo 64 [0x10]], []⟩ }) with
        dies := up.dies.map fun k => { k with cbParty := some 0 } },
       tile1, [], opn .launched d, by revert q; decide +kernel⟩⟩

/-- A quarter whose Pigeonhole has that descriptor first. -/
def pigeon (d : Bytes) : State :=
  { doing .launched d with dies := vset up.dies 0 { Die.reset with phQueue := [o0] } }

/-- A Pigeonhole operation of two rows of four elements between the Sorting stores, its scale one. -/
def pigeonMove (code mode : Nat) : Bytes :=
  dsc code 0 (le 4 2 ++ le 4 4 ++ [0, BitVec.ofNat 8 mode] ++ zeros 14 ++ le 4 64 ++ le 4 64 ++ le 8 4096 ++ zeros 8 ++ le 8 (2 ^ 63))

theorem test_meets_PigeonholeAndKernelsRun :
    (∀ c ∈ [opPhMove, opPhStream], ∃ (s : State) (o : OpRef) (p : Op), o.session < 4 ∧ s.launched o c = some p ∧ p.feeds = none ∧
      s.phTurn o ((s.session o.session).top + phDie p.desc) = true) ∧
    (∀ m ∈ [0, 1], ∃ (s : State) (o : OpRef) (p : Op), let x := s.session o.session; let d := p.desc;
      o.session < 4 ∧ s.launched o opPhMove = some p ∧ s.phTurn o (x.top + phDie d) = true ∧ phMode d = m ∧
      x.struck (phParty d) = false ∧ addrClass (fieldAt d 48 8) = 0 ∧ addrClass (fieldAt d 64 8) = 0 ∧ phSrcBlk d = false ∧
      phTopCopy d = false ∧ x.phScaled d = false ∧
      let w := (Fmt.ofCode (phDstFmt d)).widthIn true;
      let ws := (Fmt.ofCode (phSrcFmt d)).widthIn true;
      let src := (List.range (phRows d)).map fun r =>
        unpack ws (phCols d) (memLoad (vget Die.reset s.dies (x.top + phDie d)).store
          (addrOff (fieldAt d 48 8) + r * fieldAt d 56 4) ((ws * phCols d + 7) / 8));
      let out := if phMode d = 0 then phCopy d src [] else x.phQuantise p src [];
      out.codes.length = 2 ∧ ∀ c ∈ out.codes, c ≠ [] ∧ w * c.length % 8 = 0 ∧ w * c.length / 8 ≤ fieldAt d 60 4) ∧
    (∃ (s : State) (o : OpRef) (p : Op), o.session < 4 ∧ s.launched o opKernel = some p) :=
  ⟨fun c hc => ⟨pigeon (pigeonMove c 0), o0, opn .launched (pigeonMove c 0), by revert c; decide +kernel⟩,
   fun m hm => ⟨pigeon (pigeonMove opPhMove m), o0, opn .launched (pigeonMove opPhMove m), by revert m; decide +kernel⟩,
   ⟨doing .launched (dsc opKernel 0 []), o0, opn .launched (dsc opKernel 0 []), by decide +kernel⟩⟩

/-- A DP_NOISE of `n` elements with a σ of 1. -/
def noisy (n : Nat) : Bytes := dsc opNoise 0 (le 4 n ++ le 4 1 ++ zeros 12 ++ le 4 0x3F800000)

theorem test_meets_ReckonerAndNoiseAct :
    (∃ (s : State) (o : OpRef) (p : Op), o.session < 4 ∧ s.launched o opReckon = some p ∧
      (s.session o.session).reckonTurn p = true ∧
      (({ s.job o.session p (rkParty p.desc) with copies := (s.session o.session).resolution } : Job).rkRead p.desc).1.live = true) ∧
    (∀ k < 5, ∃ (s : State) (o : OpRef) (p : Op), let x := s.session o.session; let d := p.desc;
      let n := dpRows d * dpCols d;
      o.session < 4 ∧ s.launched o opNoise = some p ∧ x.struck (dpParty d) = false ∧ (x.noiseEn = true → x.outputs.length < 1024) ∧
      (k = 0 → dpSigma d = 0) ∧
      (k = 1 → dpSigma d ≠ 0 ∧ x.sealRec.attempt ≠ 0 ∧ ∃ r, x.noiseRec? (dpParty d) (dTensor d) = some r ∧ r.samples.length = n) ∧
      (k = 2 → x.mustDraw d = true ∧ 16 ≤ s.laneCount ∧ x.noiseUsed (dpParty d) + noiseBytes n ≤ x.cfgField 44 4 * 2 ^ 20) ∧
      (k = 3 → x.mustDraw d = true ∧ 16 ≤ s.laneCount ∧ x.cfgField 44 4 * 2 ^ 20 < x.noiseUsed (dpParty d) + noiseBytes n) ∧
      (k = 4 → x.mustDraw d = true ∧ s.laneCount < 16)) :=
  ⟨⟨doing .launched (dsc opReckon 0 []), o0, opn .launched (dsc opReckon 0 []), by decide +kernel⟩,
   fun k hk => by
     match k, hk with
     | 0, _ => exact ⟨doing .launched (dsc opNoise 0 []), o0, opn .launched (dsc opNoise 0 []), by decide +kernel⟩
     | 1, _ =>
       refine ⟨(doing .launched (noisy 1)).onSession 0 fun x =>
         { x with sealRec := { x.sealRec with attempt := 1 }, noise := [⟨0, 0, 0, [0]⟩] }, o0, opn .launched (noisy 1), ?_, ?_, ?_,
         ?_, ?_, fun _ => ⟨?_, ?_, ⟨0, 0, 0, [0]⟩, ?_, ?_⟩, ?_⟩ <;> decide +kernel
     | 2, _ => exact ⟨doing .launched (noisy 1), o0, opn .launched (noisy 1), by decide +kernel⟩
     | 3, _ => exact ⟨doing .launched (noisy (2 ^ 18)), o0, opn .launched (noisy (2 ^ 18)), by decide +kernel⟩
     | 4, _ => exact ⟨{ doing .launched (noisy 1) with lanes := 0x7FFF }, o0, opn .launched (noisy 1), by decide +kernel⟩⟩

/-- A collective of 32 elements of a group of one member, without scales. -/
def alone (code : Nat) : Bytes := dsc code 0 (zeros 8 ++ le 5 32 ++ zeros 11 ++ le 8 (2 ^ 63) ++ le 8 4096 ++ le 8 (2 ^ 63) ++ zeros 8 ++ [255, 255])

/-- That collective, or one that its checks refuse. -/
def lone (code k : Nat) : Bytes := if k = 1 then dsc code 0 [] else alone code

/-- It in progress, its owner removed, or its early data dropped. -/
def lonely (code k : Nat) : State :=
  (doing .launched (lone code k)).onSession 0 fun x =>
    { x with removed := if k = 0 then 1 else 0, lost := if k = 2 then [(0, 0, 0)] else [] }

/-- How the reading of a collective's source list ends, and whether its checks hold. -/
def collAnswer (s : State) (i : Nat) (p : Op) (c : Nat) : Status × Bool :=
  let group := (s.session i).groupOf (clGroup p.desc)
  let a := (s.job i p (clOutParty p.desc)).sources p.desc
  let b := if c = opExchangeV then a.1.sizeTable p.desc group.length else (a.1, [])
  (b.1.status, (b.1.st.session i).sourcesGood p.desc group.length a.2.1 a.2.2 b.2)

theorem test_meets_CollectivesRun :
    (∀ c ∈ [opExchange, opExchangeV, opReduceScatter, opAllGather, opAllReduce], ∀ k < 4, ∃ (s : State) (o : OpRef) (p : Op),
      o.session < 4 ∧ s.collAt o c = some p ∧ (k = 0 → (collAnswer s o.session p c).1 ≠ stOk) ∧
      (k = 1 → c ≠ opExchangeV → collAnswer s o.session p c = (stOk, false)) ∧
      (k = 2 → collAnswer s o.session p c = (stOk, true) ∧ p.collKey ∈ (s.session o.session).lost) ∧
      (k = 3 → collAnswer s o.session p c = (stOk, true) ∧ p.collKey ∉ (s.session o.session).lost)) ∧
    (∀ ok : Bool, ∃ (s : State) (o : OpRef) (p : Op), o.session < 4 ∧ s.power.power = .ps0 ∧ s.op? o = some p ∧ p.isCollective = true ∧
      p.stage = .finished ∧ decide (p.status = stOk) = ok ∧ (p.status ≠ stOk ∨ s.flitsGone o.session p = true)) ∧
    (∃ (s : State) (o : OpRef) (p : Op), o.session < 4 ∧ s.op? o = some p ∧ p.isCollective = true ∧ p.stage ≠ .started ∧
      p.launchedAt.toNat + ns (10000 * fieldAt p.desc 94 2) ≤ s.time.now.toNat) :=
  ⟨fun c hc k hk =>
     ⟨lonely c k, o0, opn .launched (lone c k),
      by
        match k, hk with
        | 0, _ => refine ⟨?_, ?_, ?_, ?_, ?_, ?_⟩ <;> revert c <;> decide +kernel
        | 1, _ => refine ⟨?_, ?_, ?_, ?_, ?_, ?_⟩ <;> revert c <;> decide +kernel
        | 2, _ => refine ⟨?_, ?_, ?_, ?_, ?_, ?_⟩ <;> revert c <;> decide +kernel
        | 3, _ => refine ⟨?_, ?_, ?_, ?_, ?_, ?_⟩ <;> revert c <;> decide +kernel⟩,
   fun ok =>
     let p : Op := { opn .finished (dsc opExchange 0 []) with status := if ok then stOk else stRefused };
     ⟨up0 fun x => { x with ops := [p] }, o0, p, by cases ok <;> decide +kernel⟩,
   ⟨doing .launched (dsc opExchange 0 []), o0, opn .launched (dsc opExchange 0 []), by decide +kernel⟩⟩

/-- Session 0's object window at host address 0x1000. -/
def objects (s : State) : State :=
  { s with host := { s.host with uioEnable := true, windows := [(0, ⟨true, some 0, 0x1000, 2 ^ 24⟩)] } }

/-- A checkpoint of one chunk at a host address. -/
def ckpt (code host : Nat) : Bytes := dsc code 0 (le 8 64 ++ zeros 8 ++ le 8 (2 ^ 62) ++ le 8 host)

/-- A FAR_MOVE of one page out of HBM. -/
def farOut : Bytes := dsc opFarMove 0 (le 8 4096 ++ [1])

theorem test_meets_FarMovesAndCheckpointsRun :
    (∃ (s : State) (o : OpRef) (p : Op), o.session < 4 ∧ s.launched o opFarMove = some p ∧
      (s.session o.session).farTurn p = true ∧ s.uioReady = true ∧ s.overdue p (fieldAt p.desc 44 2) = true) ∧
    (∀ ok : Bool, ∃ (s : State) (o : OpRef) (p : Op), let x := s.session o.session; let d := p.desc;
      let n := Config.freeWord s.draws;
      let line := n.toNat % (64 * fmPages d);
      let j := (({ s with draws := s.draws + 1 } : State).job o.session p (fmParty d)).movePages d (line / 64);
      o.session < 4 ∧ s.uioReady = true ∧ x.ops.find? (fun q => q.code = opFarMove && q.stage ≠ .finished) = some p ∧
      p.stage = .launched ∧ decide (j.status = stOk) = ok) ∧
    (∀ c ∈ [opExport, opImport], ∀ ok : Bool, ∃ (s : State) (o : OpRef) (p : Op), o.session < 4 ∧ s.launched o c = some p ∧
      s.windowOk true (some o.session) (ckHost p.desc) (ckStride * ckChunks (ckLength p.desc)) = ok ∧ s.cacheReady = true ∧
      o.ctx < 4 ∧ s.op? o = some p ∧ p.stage = .launched ∧ (p.code = opExport ∨ p.code = opImport) ∧
      s.overdue p (fieldAt p.desc 44 2) = true) ∧
    (∃ (s : State) (o : OpRef) (g : Ingest), o.session < 4 ∧
      (s.session o.session).ingests.find? (fun q => q.id = g.id) = some g ∧
      g.acceptedAt.toNat + ns (10000 * g.timeout) ≤ s.time.now.toNat) := by
  refine ⟨⟨objects (doing .launched farOut), o0, opn .launched farOut, by decide +kernel⟩, fun ok => ?_, fun c hc ok =>
     let d := ckpt c (if ok then 0x1000 else 0);
     ⟨objects (doing .launched d), o0, opn .launched d, by revert c; cases ok <;> decide +kernel⟩,
   ⟨up0 fun x => { x with ingests := [⟨5, 0, 0, 0, 64, 0, 7, 0, 0⟩] }, o0, ⟨5, 0, 0, 0, 64, 0, 7, 0, 0⟩, by decide +kernel⟩⟩
  refine ⟨(objects (doing .launched farOut)).onSession 0 fun x => { x with removed := if ok then 0 else 1 }, o0, opn .launched farOut,
    by decide, by cases ok <;> decide +kernel, by cases ok <;> decide +kernel, rfl, ?_⟩
  have h : (Config.freeWord (((objects (doing .launched farOut)).onSession 0 fun x => { x with removed := if ok then 0 else 1 }).draws)).toNat %
      (64 * fmPages farOut) / 64 = 0 := Nat.div_eq_of_lt (Nat.mod_lt _ (by decide))
  refine (congrArg (fun m => decide (Job.status (Job.movePages _ farOut m) = stOk)) h).trans ?_
  cases ok <;> decide +kernel

theorem test_meets_SweepStepsOn :
    (∀ c ∈ [0, 64], ∀ last : Bool, ∃ (s : State) (i g : Nat),
      let sp : Space := if c < 64 then .hbm c else .far (c - 64);
      s.power.power = .ps0 ∧ s.holderOf sp = some i ∧ i < 4 ∧ (s.chan sp).sweep = some g ∧ decide (s.groupsOf sp ≤ g + 1) = last) :=
  fun c hc last =>
    let f : Space → Nat := fun sp => if last then up.groupsOf sp - 1 else 0;
    ⟨((up0 fun x => { x with config := cfg 0 1 0 }).setChan (.hbm 0)
        { Channel.reset with holder := some (0, 0), sweep := some (f (.hbm 0)) }).setChan (.far 0)
        { Channel.reset with holder := some (0, 0), sweep := some (f (.far 0)) }, 0, f (if c < 64 then .hbm c else .far (c - 64)),
      by revert c; cases last <;> decide +kernel⟩

/-! ### Ports and the ring -/

/-- What a sealed flit opens to, its header's fields not yet read. -/
theorem open_flit (key : Bytes) (slot : W64) (f : OutFlit) (gen seq : Nat) (hp : (padTo 232 f.payload).length = 232) :
    openFlit key slot (sealFlit key slot f gen seq) =
      (let h := fieldAt (flitHeader f gen seq) 0 8;
       some ⟨⟨bitsOf h 3 0, bitsOf h 22 12, bitsOf h 33 23, bitOf h 54, bitOf h 55, (padTo 232 f.payload).take (bitsOf h 53 46),
         bitsOf h 11 4, none⟩,
         bitsOf h 11 4, BitVec.ofNat 12 (bitsOf h 45 34)⟩) := by
  have hh : (flitHeader f gen seq).length = 8 := by simp [flitHeader]
  have hc : (Crypto.gcmSeal key (flitNonce slot) (flitHeader f gen seq) (padTo 232 f.payload)).1.length = 232 := by
    simp [Crypto.gcmSeal, hp]
  have ht : (Crypto.gcmSeal key (flitNonce slot) (flitHeader f gen seq) (padTo 232 f.payload)).2.length = 16 := by
    simp [Crypto.gcmSeal]
  have s0 : ∀ r : Bytes, slice (flitHeader f gen seq ++ r) 0 8 = flitHeader f gen seq := fun r => by
    have := slice_append [] (flitHeader f gen seq) r
    rwa [hh] at this
  have s1 := slice_append (flitHeader f gen seq) (Crypto.gcmSeal key (flitNonce slot) (flitHeader f gen seq) (padTo 232 f.payload)).1
    (Crypto.gcmSeal key (flitNonce slot) (flitHeader f gen seq) (padTo 232 f.payload)).2
  have s2 := slice_append (flitHeader f gen seq ++ (Crypto.gcmSeal key (flitNonce slot) (flitHeader f gen seq) (padTo 232 f.payload)).1)
    (Crypto.gcmSeal key (flitNonce slot) (flitHeader f gen seq) (padTo 232 f.payload)).2 []
  rw [hh, hc] at s1
  rw [List.length_append, hh, hc, ht, List.append_nil, List.append_assoc] at s2
  have f0 : ∀ r : Bytes, fieldAt (flitHeader f gen seq ++ r) 0 8 = fieldAt (flitHeader f gen seq) 0 8 := fun r => by
    have e := s0 []
    rw [List.append_nil] at e
    rw [fieldAt, fieldAt, s0, e]
  simp only [openFlit, sealFlit, List.append_assoc]
  rw [f0, s0, s1, s2, Crypto.gcmOpen_gcmSeal]

theorem slice_mid (b p q r : Bytes) (k m : Nat) (hb : b = p ++ (q ++ r)) (hp : p.length = k) (hq : q.length = m) : slice b k m = q := by
  subst hb hp hq; exact slice_append p q r

/-- What a ring frame of a member's opens to. -/
theorem open_frame (s : State) (i rank type : Nat) (cw : Bool) (body : Bytes) (n : W64) (hp : (padTo 104 (body.take 104)).length = 104)
    (ht : (BitVec.ofNat 8 type).toNat = type) (hr : leNat (le 2 rank) = rank) :
    s.openFrame i type (ringFrame (s.ringKey i) rank cw type body n) = some (rank, 16, padTo 104 (body.take 104)) := by
  have ha : le 1 type ++ [0] ++ le 1 (boolNat (!cw)) ++ [0] ++ le 2 rank ++ zeros 2 =
      le 1 type ++ ([0] ++ (le 1 (boolNat (!cw)) ++ ([0] ++ (le 2 rank ++ zeros 2)))) := by simp only [List.append_assoc]
  have h6 : slice (le 1 type ++ [0] ++ le 1 (boolNat (!cw)) ++ [0] ++ le 2 rank ++ zeros 2) 2 6 =
      le 1 (boolNat (!cw)) ++ ([0] ++ (le 2 rank ++ zeros 2)) :=
    slice_mid _ (le 1 type ++ [0]) _ [] 2 6 (by simp only [List.append_assoc, List.append_nil]) (by simp) (by simp)
  generalize hR : ringFrame (s.ringKey i) rank cw type body n = F
  have hF := hR.symm
  unfold ringFrame at hF
  dsimp only at hF
  rw [h6] at hF
  generalize hc : (Crypto.gcmSeal (s.ringKey i) (ringNonce rank n.toNat)
    (le 1 type ++ [0] ++ le 1 (boolNat (!cw)) ++ [0] ++ le 2 rank ++ zeros 2) (padTo 104 (body.take 104))).1 = ct at hF
  generalize hg : (Crypto.gcmSeal (s.ringKey i) (ringNonce rank n.toNat)
    (le 1 type ++ [0] ++ le 1 (boolNat (!cw)) ++ [0] ++ le 2 rank ++ zeros 2) (padTo 104 (body.take 104))).2 = tag at hF
  have lc : ct.length = 104 := by rw [← hc]; simp [Crypto.gcmSeal, hp]
  have lt : tag.length = 16 := by rw [← hg]; simp [Crypto.gcmSeal]
  have e0 : slice F 0 1 = le 1 type := slice_mid _ [] _ (le 1 16 ++ ((le 1 (boolNat (!cw)) ++ ([0] ++ (le 2 rank ++ zeros 2))) ++ (ct ++ (tag ++ w64 n)))) _ _
    (by rw [hF]; simp only [List.append_assoc, List.nil_append]) rfl rfl
  have e2 : slice F 2 6 = le 1 (boolNat (!cw)) ++ ([0] ++ (le 2 rank ++ zeros 2)) := slice_mid _ (le 1 type ++ le 1 16) _ (ct ++ (tag ++ w64 n)) _ _
    (by rw [hF]; simp only [List.append_assoc]) (by simp) (by simp)
  have e4 : slice F 4 2 = le 2 rank := slice_mid _ (le 1 type ++ le 1 16 ++ le 1 (boolNat (!cw)) ++ [0]) _ (zeros 2 ++ (ct ++ (tag ++ w64 n))) _ _
    (by rw [hF]; simp only [List.append_assoc]) (by simp) (by simp)
  have e8 : slice F 8 104 = ct := slice_mid _ (le 1 type ++ le 1 16 ++ (le 1 (boolNat (!cw)) ++ ([0] ++ (le 2 rank ++ zeros 2)))) _ (tag ++ w64 n) _ _
    (by rw [hF]; simp only [List.append_assoc]) (by simp) lc
  have e9 : slice F 112 16 = tag := slice_mid _ (le 1 type ++ le 1 16 ++ (le 1 (boolNat (!cw)) ++ ([0] ++ (le 2 rank ++ zeros 2))) ++ ct) _ (w64 n) _ _
    (by rw [hF]; simp only [List.append_assoc]) (by simp [lc]) lt
  have e10 : slice F 128 8 = w64 n := slice_mid _ (le 1 type ++ le 1 16 ++ (le 1 (boolNat (!cw)) ++ ([0] ++ (le 2 rank ++ zeros 2))) ++ ct ++ tag) _ [] _ _
    (by rw [hF]; simp only [List.append_assoc, List.append_nil]) (by simp [lc, lt]) (by simp)
  have eu : (u8 F 0).toNat = type := by rw [hF]; exact ht
  have e1 : (u8 F 1).toNat = 16 := by rw [hF]; rfl
  have en : leNat (w64 n) = n.toNat := by rw [w64, leNat_le]; exact Nat.mod_eq_of_lt n.isLt
  unfold State.openFrame
  dsimp only
  rw [if_pos eu, fieldAt, fieldAt, e0, e2, e4, e8, e9, e10, hr, en, e1, ← hc, ← hg]
  have hj : le 1 type ++ [0] ++ (le 1 (boolNat (!cw)) ++ ([0] ++ (le 2 rank ++ zeros 2))) =
      le 1 type ++ [0] ++ le 1 (boolNat (!cw)) ++ [0] ++ le 2 rank ++ zeros 2 := by simp only [List.append_assoc]
  rw [hj, Crypto.gcmOpen_gcmSeal]

/-- A control block's tag and head. -/
theorem block_tag (key : Bytes) (counter : W64) (type : Nat) (body : Bytes) (hb : (padTo 12 (body.take 12)).length = 12) :
    let h := le 1 type ++ zeros 3 ++ padTo 12 (body.take 12)
    slice (ctlBlock key counter type body) 0 16 = h ∧
      slice (ctlBlock key counter type body) 16 16 = Crypto.gcmTag key (le 1 2 ++ zeros 3 ++ w64 counter) h [] :=
  ⟨slice_mid _ [] _ _ 0 16 rfl rfl (by simp [hb]),
   slice_mid _ _ _ [] 16 16 (by rw [List.append_nil]; rfl) (by simp [hb]) (by simp)⟩

/-- Port 17 of session 0, running, changed as given. -/
def ported (f : Port → Port) : State :=
  up.setPort 17 (f { Port.reset with enable := true, bound := true, state := .up, lanes := 0xFF })

/-- A flit and a control block as the peer of port 17 seals them. -/
def flitIn (s : State) (f : OutFlit) (gen : Nat) : Bytes := sealFlit (s.portKey 17 "KRELAS-FLIT" false) (s.port 17).rxSlot f gen 0

@[inherit_doc flitIn] def blockIn (s : State) (type : Nat) (body : Bytes) : Bytes :=
  ctlBlock (s.portKey 17 "KRELAS-CTRL" false) (s.port 17).rxCtl type body

/-- A flit of a type toward a rank. -/
def flit (type dst : Nat) : OutFlit := ⟨type, dst, 5, true, true, zeros 232, 0, none⟩

/-- A module whose session 0 holds its link slot struck. -/
def unlinked (s : State) : State := { s with slots := vset s.slots 3 ⟨[], 0, some (0, .link), true⟩ }

theorem test_meets_FlitsLeave :
    (∀ k ∈ [true, false], ∃ s : State, let r := (s.port 17).purge (s.linkGen 0);
      (s.port 17).bound = true ∧ (s.port 17).session = 0 ∧ (r.runs = true ↔ k = true) ∧ s.linkStruck 0 = k) ∧
    (∀ slot ∈ [0, 2 ^ 64 - 2, 2 ^ 64 - 1], ∀ k ∈ [0, 1, 2, 3], ∃ (s : State) (n : BitVec 12) (f : OutFlit),
      let r := (s.port 17).purge (s.linkGen 0); let q := r.stampReset s.time.now;
      (s.port 17).bound = true ∧ (s.port 17).session = 0 ∧ r.runs = true ∧ s.linkStruck 0 = false ∧ q.txSlot.toNat = slot ∧
      (k = 0 → q.nextSlot = .again n f) ∧ (0 < k → n = q.txSeq) ∧ (k = 1 → q.nextSlot = .control f) ∧
      (k = 2 → q.nextSlot = .data f) ∧ (k = 3 → q.nextSlot = .idle ∧ f = idleFlit)) ∧
    (∃ s : State, (s.port 17).runs = true ∧ ((s.port 17).lastSentStamp = 0 ∨
      (s.port 17).lastSentStamp.toNat + ns 4096 ≤ s.time.now.toNat)) :=
  ⟨fun k hk => ⟨if k then unlinked (ported id) else ported fun q => { q with state := .keying }, by revert k; decide +kernel⟩,
   fun slot hs k hk => ⟨ported fun q => { q with
       txSlot := BitVec.ofNat 64 slot, dataCredits := 1, ctlCredits := 1, resend := if k = 0 then [(0, flit 1 0)] else [],
       control := if k = 1 then [flit 2 0] else [], data := if k ≤ 2 then [flit 1 0] else [] },
     0, if k = 3 then idleFlit else if k = 1 then flit 2 0 else flit 1 0, by revert slot; revert k; decide +kernel⟩,
   ⟨ported id, by decide +kernel⟩⟩

/-- Session 0 in a consignment of two members, this one at a rank. -/
def inRing (rank : Nat) (x : Session) : Session := { x with config := cfg 1 1 0, consign := some ⟨rank, 2, some 17, [(0, 0), (0, 1)], zeros 64⟩ }

/-- The chunk that a flit carries to the root of the reduction of element 0 to 31. -/
def rootFlit : OutFlit := ⟨1, 0, 5, true, true, zeros 10 ++ le 4 65536 ++ zeros 10 ++ le 4 32 ++ zeros 132, 0, none⟩

/-- The member at rank 0 waits for it in an ALL_REDUCE of 64 elements over two. -/
def reducing : State :=
  (ported id).onSession 0 fun x => inRing 0 { x with
    ops := [{ opn .launched (dsc opAllReduce 0 (zeros 8 ++ le 5 64)) with sources := [⟨0, 0, 0, 0⟩] }] }

/-- That flit sealed, its tag spoiled. -/
def spoiled (s : State) (f : OutFlit) : Bytes :=
  let key := s.portKey 17 "KRELAS-FLIT" false
  let g := Crypto.gcmSeal key (flitNonce (s.port 17).rxSlot) (flitHeader f 0 0) (padTo 232 f.payload)
  flitHeader f 0 0 ++ g.1 ++ g.2.map (~~~ ·)

theorem open_spoiled (s : State) (f : OutFlit) (hp : (padTo 232 f.payload).length = 232) :
    openFlit (s.portKey 17 "KRELAS-FLIT" false) (s.port 17).rxSlot (spoiled s f) = none ∧
      s.rawFlit 17 (spoiled s f) =
        (let h := fieldAt (flitHeader f 0 0) 0 8;
         ⟨⟨bitsOf h 3 0, bitsOf h 22 12, bitsOf h 33 23, bitOf h 54, bitOf h 55, (padTo 232 f.payload).take (bitsOf h 53 46),
           bitsOf h 11 4, none⟩, bitsOf h 11 4, BitVec.ofNat 12 (bitsOf h 45 34)⟩) := by
  have hh : (flitHeader f 0 0).length = 8 := by simp [flitHeader]
  generalize hg : Crypto.gcmSeal (s.portKey 17 "KRELAS-FLIT" false) (flitNonce (s.port 17).rxSlot) (flitHeader f 0 0)
    (padTo 232 f.payload) = g
  have hc : g.1.length = 232 := by rw [← hg]; simp [Crypto.gcmSeal, hp]
  have ht : g.2.length = 16 := by rw [← hg]; simp [Crypto.gcmSeal]
  have hb : spoiled s f = flitHeader f 0 0 ++ (g.1 ++ g.2.map (~~~ ·)) := by simp only [spoiled, hg, List.append_assoc]
  have e0 : slice (spoiled s f) 0 8 = flitHeader f 0 0 := slice_mid _ [] _ _ 0 8 hb rfl hh
  have e1 : slice (spoiled s f) 8 232 = g.1 := slice_mid _ _ _ _ 8 232 hb hh hc
  have e2 : slice (spoiled s f) 240 16 = g.2.map (~~~ ·) :=
    slice_mid _ (flitHeader f 0 0 ++ g.1) _ [] 240 16 (by rw [hb, List.append_assoc, List.append_nil]) (by simp [hh, hc]) (by simp [ht])
  have f0 : fieldAt (spoiled s f) 0 8 = fieldAt (flitHeader f 0 0) 0 8 := by
    have : slice (flitHeader f 0 0) 0 8 = flitHeader f 0 0 := slice_mid _ [] _ [] 0 8 (by simp) rfl hh
    rw [fieldAt, fieldAt, e0, this]
  have g1 : Crypto.ctrCrypt (s.portKey 17 "KRELAS-FLIT" false) (flitNonce (s.port 17).rxSlot) g.1 = padTo 232 f.payload := by
    rw [← hg]; simp [Crypto.gcmSeal]
  constructor
  · have : g.2.map (~~~ ·) ≠ g.2 := by
      intro h
      obtain ⟨b, l, hl⟩ := List.exists_cons_of_length_eq_add_one ht
      rw [hl, List.map_cons, List.cons_eq_cons] at h
      exact absurd h.1 ((by decide : ∀ b : Byte, ~~~b ≠ b) b)
    have ho : Crypto.gcmOpen (s.portKey 17 "KRELAS-FLIT" false) (flitNonce (s.port 17).rxSlot) (flitHeader f 0 0) g.1
        (g.2.map (~~~ ·)) = none := by
      rw [← hg] at this ⊢
      simp only [Crypto.gcmSeal, Crypto.gcmOpen] at this ⊢
      exact if_neg fun h => this (by simpa using h.symm)
    simp only [openFlit, e0, e1, e2, ho]
  · simp only [State.rawFlit, e1, f0, g1]

theorem test_meets_FlitsArrive :
    (∀ k ∈ [(1, 0), (1, 7), (0, 7)], ∃ (s : State) (b : Bytes), (s.port 17).bound = true ∧ (s.port 17).runs = true ∧
      bitsAt b 0 1 3 0 = k.1 ∧ s.linkStruck 0 = true ∧ (s.rawFlit 17 b).gen = k.2 ∧ s.linkGen 0 = 0) ∧
    (∀ known : Bool, ∃ (s : State) (b : Bytes), (s.port 17).bound = true ∧ (s.port 17).runs = true ∧ bitsAt b 0 1 3 0 < 2 ∧
      s.linkStruck 0 = false ∧ openFlit (s.portKey 17 "KRELAS-FLIT" false) (s.port 17).rxSlot b = none ∧
      s.blockHeld (.port 17) = false ∧ s.consumed 17 (s.rawFlit 17 b) = known) ∧
    (∀ k ∈ [(0, 0, 0, 0), (1, 0, 0, 5000), (1, 0, 0, 1), (1, 0, 0, 0), (1, 0, 1, 0), (1, 9, 0, 0), (1, 8, 0, 0)],
      ∃ (s : State) (b : Bytes) (f : InFlit),
      (s.port 17).bound = true ∧ (s.port 17).runs = true ∧ bitsAt b 0 1 3 0 < 2 ∧ s.linkStruck 0 = false ∧
      openFlit (s.portKey 17 "KRELAS-FLIT" false) (s.port 17).rxSlot b = some f ∧ f.flit.type = k.1 ∧
      ((s.port 17).rxSeq - f.seq).toNat = k.2.2.2 % 4096 ∧
      s.blockHeld (.port 17) = false ∧ s.power.power ≠ .ps1 ∧ (s.port 17).txCtl + 1 ≠ BitVec.allOnes 64 ∧ f.flit.dst = k.2.1 ∧ f.gen = k.2.2.1 ∧ f.flit.first = true ∧
      f.flit.last = true ∧ s.linkGen 0 = 0 ∧ (s.session 0).rank = 0 ∧
      s.route (s.session 0) f.flit.dst = (if k.2.1 = 9 then some 17 else none)) ∧
    (∀ idle : Bool, ∃ (s : State) (b : Bytes) (f : InFlit),
      (s.port 17).bound = true ∧ (s.port 17).runs = true ∧ bitsAt b 0 1 3 0 < 2 ∧ s.linkStruck 0 = false ∧
      openFlit (s.portKey 17 "KRELAS-FLIT" false) (s.port 17).rxSlot b = some f ∧ f.flit.type = 1 ∧ f.seq = (s.port 17).rxSeq ∧
      s.blockHeld (.port 17) = idle ∧ s.power.power = .ps1) ∧
    (∀ k ∈ [(0, 1), (0, 2), (0, 3), (1, 3)], ∃ (s : State) (b : Bytes) (f : InFlit),
      (s.port 17).bound = true ∧ (s.port 17).runs = true ∧ bitsAt b 0 1 3 0 = 5 ∧ s.linkStruck 0 = false ∧ s.blockHeld (.port 17) = false ∧
      openFlit (s.portKey 17 "KRELAS-FLIT" false) (s.port 17).rxSlot b = some f ∧ f.flit.type = 5 ∧ f.seq = (s.port 17).rxSeq ∧
      f.flit.dst = 0 ∧ (s.session 0).rank = 0 ∧ (u8 f.flit.payload 0).toNat = k.1 ∧ s.resets.inReset = none ∧
      s.sourceReach 12 = k.2 ∧ ∀ e ∈ s.resets.blocks, e.target ≠ .port 17) ∧
    (∀ slot ∈ [0, 2 ^ 64 - 2], ∃ s : State, (s.port 17).bound = true ∧ (s.port 17).runs = true ∧
      Port.runs (Port.limit { s.port 17 with rxSlot := (s.port 17).rxSlot + 1 }) = decide (slot = 0)) :=
  ⟨fun k hk =>
     let s := unlinked (ported id);
     ⟨s, le 8 (k.1 + 16 * k.2), rfl, rfl, by revert k; decide +kernel, by decide +kernel, by revert k; decide +kernel, by decide +kernel⟩,
   fun known => by
     cases known
     · exact ⟨ported id, [0], rfl, rfl, by decide +kernel, by decide +kernel, by decide +kernel, by decide +kernel, by decide +kernel⟩
     · obtain ⟨h0, h1⟩ := open_spoiled reducing rootFlit (by decide +kernel)
       exact ⟨reducing, spoiled reducing rootFlit, rfl, rfl, by decide +kernel, by decide +kernel, h0, by decide +kernel, by rw [h1]; decide +kernel⟩,
   fun k hk =>
     let s := ({ ported fun q => { q with rxSeq := BitVec.ofNat 12 k.2.2.2 } with fw := up.fw } : State).onSession 0 fun x =>
       { x with config := cfg 1 1 (2 ^ 17), routing := zeros 9 ++ [0x91] };
     ⟨s, flitIn s (flit k.1 k.2.1) k.2.2.1, ⟨{ flit k.1 k.2.1 with gen := k.2.2.1 }, k.2.2.1, 0⟩, by revert k; decide +kernel,
       by revert k; decide +kernel, by revert k; decide +kernel, by revert k; decide +kernel,
       (open_flit _ _ _ _ _ (by revert k; decide +kernel)).trans (by revert k; decide +kernel), by revert k; decide +kernel⟩,
   fun idle =>
     let s : State := { ported id with
       power := { up.power with power := .ps1 }
       resets := { up.resets with blocks := if idle then [⟨.port 17, 0, false, false⟩] else [] } };
     ⟨s, flitIn s (flit 1 0) 0, ⟨flit 1 0, 0, 0⟩, rfl, rfl, by cases idle <;> decide +kernel, by cases idle <;> decide +kernel,
       (open_flit _ _ _ _ _ (by decide +kernel)).trans (by decide +kernel), by cases idle <;> decide +kernel⟩,
   fun k hk =>
     let s : State := { ported id with fuses := { up.fuses with latched := true, reach := vset up.fuses.reach 12 (BitVec.ofNat 3 k.2) } };
     let f : OutFlit := { flit 5 0 with payload := BitVec.ofNat 8 k.1 :: zeros 231 };
     ⟨s, flitIn s f 0, ⟨f, 0, 0⟩, rfl, rfl, by revert k; decide +kernel, by revert k; decide +kernel, by revert k; decide +kernel,
       (open_flit _ _ _ _ _ (by revert k; decide +kernel)).trans (by revert k; decide +kernel), by revert k; decide +kernel⟩,
   fun slot hs => ⟨ported fun q => { q with rxSlot := BitVec.ofNat 64 slot }, by revert slot; decide +kernel⟩⟩

/-- A control block that verifies, of a type. -/
def Good (s : State) (b : Bytes) (type : Nat) : Prop :=
  slice b 16 16 = Crypto.gcmTag (s.portKey 17 "KRELAS-CTRL" false) (le 1 2 ++ zeros 3 ++ w64 (s.port 17).rxCtl) (slice b 0 16) [] ∧
    (u8 b 0).toNat = type ∧ zeroRange b 1 3 = true

theorem good_of (s : State) (type : Nat) (body : Bytes)
    (h : (padTo 12 (body.take 12)).length = 12 ∧ (BitVec.ofNat 8 type).toNat = type) : Good s (blockIn s type body) type := by
  obtain ⟨h0, h1⟩ := block_tag (s.portKey 17 "KRELAS-CTRL" false) (s.port 17).rxCtl type body h.1
  exact ⟨by unfold blockIn; rw [h0, h1], h.2, rfl⟩

theorem test_meets_ControlBlocksAct :
    (∀ st ∈ [PortState.up, .keying], ∃ (s : State) (b : Bytes), (s.port 17).bound = true ∧ (s.port 17).state = st ∧
      slice b 16 16 ≠
        Crypto.gcmTag (s.portKey 17 "KRELAS-CTRL" false) (le 1 2 ++ zeros 3 ++ w64 (s.port 17).rxCtl) (slice b 0 16) []) ∧
    (∀ mine granted : Bool, ∃ (s : State) (b : Bytes), (s.port 17).bound = true ∧ (s.port 17).state = .keying ∧ Good s b 0 ∧
      (Port.limit { s.port 17 with rxCtl := (s.port 17).rxCtl + 1 }).state = .keying ∧ (s.port 17).granted = granted ∧
      decide (fieldAt (slice b 4 12) 0 2 = (s.port 17).peerRank.toNat ∧ (u8 (slice b 4 12) 2).toNat = (s.port 17).peerPort.toNat) = mine) ∧
    (∀ t ∈ [1, 2], ∀ k < 4, ∃ (s : State) (b : Bytes), let q := s.port 17; (s.port 17).bound = true ∧ q.runs = true ∧ Good s b t ∧
      let at_ := q.winPos (BitVec.ofNat 12 (fieldAt (slice b 4 12) 0 2));
      (k = 0 → at_ = none) ∧
      (0 < k → at_ = some (if t = 1 then 0 else 1) ∧ q.resetsIn (s.session 0).rank 1 = (if k = 1 then 0 else 1)) ∧
      (k = 3 → q.resetMbs = [16] ∧ (s.mailbox 16).state = .serving)) ∧
    (∀ t ∈ [3, 4], ∃ (s : State) (b : Bytes), (s.port 17).bound = true ∧ (s.port 17).runs = true ∧ Good s b t ∧
      (s.session (s.port 17).session.toNat).consign = none) :=
  ⟨fun st h => ⟨ported fun q => { q with state := st }, [], by revert st; decide +kernel⟩,
   fun mine granted =>
     let s := ported fun q => { q with state := .keying, peerRank := 2047, peerPort := 17, granted := granted };
     ⟨s, blockIn s 0 (le 2 2047 ++ le 1 (if mine then 17 else 16)), by cases granted <;> rfl, by cases granted <;> rfl,
       good_of _ _ _ (by cases mine <;> decide +kernel), by cases mine <;> cases granted <;> decide +kernel⟩,
   fun t ht k hk =>
     let s := (ported fun q => { q with
       window := if k = 0 then [] else [(3, { flit (if k = 1 then 2 else 5) 0 with src := 0 }), (4, flit 1 0)], resetMbs := [16] }).setMailbox 16
       { Mailbox.reset with state := .serving };
     ⟨s, blockIn s t (le 2 (if t = 1 then 3 else 4)), by
       refine ⟨?_, ?_, good_of _ _ _ (by revert t; decide +kernel), ?_⟩ <;> revert k <;> revert t <;> decide +kernel⟩,
   fun t ht => ⟨ported id, blockIn (ported id) t [1, 0, 2, 0], rfl, rfl, good_of _ _ _ (by revert t; decide +kernel), by decide +kernel⟩⟩

theorem test_meets_PortsChangeState :
    (∀ d ∈ [0, 1600, 1601], ∀ lanes ∈ [(0xFF : BitVec 8), 0xF7, 0x7F, 0x77], ∀ c : Bool, ∃ (s : State) (delay : BitVec 16),
      (s.port 17).state = .training ∧ s.blockHeld (.port 17) = false ∧ delay.toNat = d ∧ (s.session (s.port 17).session.toNat).consign.isSome = c ∧
      decide (~~~lanes &&& 0x0F = 0 ∨ ~~~lanes &&& 0xF0 = 0) = decide (lanes ≠ 0x77)) ∧
    (∃ s : State, (s.port 17).state = .keying ∧ (s.port 17).keyingSince.toNat + ns 1000000 ≤ s.time.now.toNat) ∧
    (∀ st ∈ [PortState.up, .keying, .training], ∀ lane ∈ [0, 7], ∀ half : Bool, ∃ s : State,
      let f := (s.port 17).failedLanes ||| BitVec.ofNat 8 (2 ^ lane);
      (s.port 17).state = st ∧ (s.port 17).lanes ≠ 0 ∧ decide (f &&& 0x0F = 0 ∨ f &&& 0xF0 = 0) = half) :=
  ⟨fun d h l hl c => ⟨(ported fun q => { q with state := .training }).onSession 0 fun x => if c then inRing 1 x else x,
     BitVec.ofNat 16 d, by revert d; revert l; cases c <;> decide +kernel⟩,
   ⟨{ ported fun q => { q with state := .keying } with time := { up.time with now := BitVec.ofNat 64 (ns 1000000) } }, by decide +kernel⟩,
   fun st hst lane h half => ⟨ported fun q => { q with state := st, failedLanes := if half then 0 else 0x18 },
     by revert st; revert lane; cases half <;> decide +kernel⟩⟩

/-- The module in service as a member of a consignment of two, its ring port in the ring. -/
def ring (rank : Nat) : State :=
  { up0 (inRing rank) with time := { up.time with
      bypassClosed := false, sync := .locked, cw := { RingSide.reset with locked := true, measSeq := 1, sentAt := some 0, delays := [0, 0, 0] }
      ccw := { RingSide.reset with locked := true, measSeq := 1, sentAt := some 0, delays := [0, 0, 0] } } }

/-- A frame that the neighbour sends: its type and body. -/
def frameIn (s : State) (type : Nat) (body : Bytes) : Bytes := ringFrame (s.ringKey 0) 1 true type body 9

theorem test_meets_RingIsMeasured :
    (∀ due : Bool, ∃ s : State, s.ringSession = some 0 ∧ s.ringUp = true ∧ s.time.ringMaster = true ∧ s.time.timeSent = some 0 ∧
      decide ((0 : W64).toNat + ns 4096 ≤ s.time.now.toNat) = due) ∧
    (∀ due : Bool, ∃ s : State, s.ringSession = some 0 ∧ s.ringUp = true ∧ s.time.cw.sentAt = some 0 ∧
      decide ((0 : W64).toNat + ns 131072 ≤ s.time.now.toNat) = due) ∧
    (∀ t ∈ [2, 3], ∀ good : Bool, ∃ (s : State) (m : Bytes), s.ringSession = some 0 ∧ s.ringUp = true ∧
      (s.openFrame 0 t m).isSome = good ∧ (s.side false).sentAt = some 0) ∧
    (∀ now : Bool, ∃ (s : State) (m : Bytes) (src hops : Nat) (b : Bytes), s.ringSession = some 0 ∧ s.ringUp = true ∧
      s.openFrame 0 3 m = some (src, hops, b) ∧ decide (u32 b 0 + 1 = (s.side false).measSeq) = now) :=
  ⟨fun due => ⟨{ ring 0 with time := { (ring 0).time with
       ringMaster := true, timeSent := some 0, now := if due then BitVec.ofNat 64 (ns 4096) else 0 } }, by cases due <;> decide +kernel⟩,
   fun due => ⟨{ ring 0 with time := { (ring 0).time with now := if due then BitVec.ofNat 64 (ns 131072) else 0 } },
     by cases due <;> decide +kernel⟩,
   fun t h good => ⟨ring 0, if good then frameIn (ring 0) t [] else [], by decide +kernel, by decide +kernel, by
     cases good
     · revert t; decide +kernel
     · rw [if_pos rfl, frameIn, open_frame _ _ _ _ _ _ _ (by decide +kernel) (by revert t; decide +kernel) (by decide +kernel)]; rfl,
     by decide +kernel⟩,
   fun now => ⟨ring 0, frameIn (ring 0) 3 [if now then 0 else 1], 1, 16, padTo 104 [if now then 0 else 1], by decide +kernel,
     by decide +kernel, open_frame _ _ _ _ _ _ _ (by cases now <;> decide +kernel) (by decide +kernel) (by decide +kernel),
     by cases now <;> decide +kernel⟩⟩

theorem test_meets_TimeIsTaken :
    (∃ (s : State) (m : Bytes), s.ringSession = some 0 ∧ s.ringUp = true ∧ s.time.grandmaster = false ∧
      s.time.ringMaster = false ∧ s.openFrame 0 1 m = none) ∧
    (∀ y ∈ [Sync.acquiring, .locked, .holdover], ∀ open_ : Bool, ∃ (s : State) (m : Bytes) (src hops : Nat) (b : Bytes),
      s.ringSession = some 0 ∧ s.ringUp = true ∧ s.time.grandmaster = false ∧ s.time.ringMaster = false ∧
      s.openFrame 0 1 m = some (src, hops, b) ∧ s.timeSide 0 = some (!false) ∧ s.time.sync = y ∧ (s.session 0).epochOpen = open_ ∧
      s.time.now.toNat < fieldAt b 0 8) ∧
    (∀ k ∈ [(3, 3, some true), (2, 3, some false), (2, 2, none)], ∃ s : State, s.ringSession = some 0 ∧ s.ringUp = true ∧
      s.hopsTo (s.session 0) true ≤ s.hopsTo (s.session 0) false ∧ (s.side true).delays.length = k.1 ∧
      (s.side false).delays.length = k.2.1 ∧ s.timeSide 0 = k.2.2) :=
  ⟨⟨ring 1, [], by decide +kernel⟩,
   fun y h o =>
     let s := ({ ring 1 with time := { (ring 1).time with sync := y } } : State).onSession 0 fun x => { x with epochOpen := o };
     ⟨s, frameIn s 1 (le 8 7), 1, 16, padTo 104 (le 8 7), by revert y; cases o <;> decide +kernel,
       by revert y; cases o <;> decide +kernel, rfl, rfl,
       open_frame _ _ _ _ _ _ _ (by decide +kernel) (by decide +kernel) (by decide +kernel), by revert y; cases o <;> decide +kernel⟩,
   fun k hk => ⟨{ ring 1 with time := { (ring 1).time with
     cw := { (ring 1).time.cw with delays := List.replicate k.1 0 }, ccw := { (ring 1).time.ccw with delays := List.replicate k.2.1 0 } } },
     by revert k; decide +kernel⟩⟩

/-- Postmark time moved on. -/
def later (n : Nat) (s : State) : State := { s with time := { s.time with now := BitVec.ofNat 64 (ns n) } }

theorem test_meets_HoldoverAndBypassAct :
    (∃ s : State, s.time.sync = .locked ∧ s.time.grandmaster = false ∧ s.time.lastGood.toNat + ns 65536 ≤ s.time.now.toNat) ∧
    (∀ stepped : Bool, ∃ s : State, s.ringSession = some 0 ∧ s.time.sync = .holdover ∧ (s.session 0).epochOpen = true ∧
      (if stepped then s.time.stepNeeded = true else s.time.holdoverSince.toNat + ns 10000000 ≤ s.time.now.toNat)) ∧
    (∀ closes was _idle : Bool, ∃ (s : State) (locked : Bool), decide (s.power.converters = false ∨
      (∃ r ∈ [Reach.cold, .powerOn], s.resets.inReset = some r) ∨ s.ringSession = none ∨ locked = false) = closes ∧
      s.time.bypassClosed = was) ∧
    (∀ _closed was : Bool, ∀ p ∈ [1, 2], ∃ s : State, s.ringSession = some 0 ∧ let x := s.session 0;
      s.time.bypassed.getLsbD p = was ∧
      decide (∃ r ∈ x.ringRanks x.ownRing, r ≠ x.rank ∧ (x.placeOf r).2 = p) = decide (p = 1)) :=
  ⟨⟨later 65536 (ring 1), by decide +kernel⟩,
   fun b => ⟨(later 10000000 { ring 1 with time := { (ring 1).time with sync := .holdover, stepNeeded := b } }).onSession 0
     fun x => { x with epochOpen := true }, by cases b <;> decide +kernel⟩,
   fun b was _ => ⟨{ ring 1 with time := { (ring 1).time with bypassClosed := was } }, !b, by cases b <;> cases was <;> decide +kernel⟩,
   fun _ was p hp => ⟨{ ring 0 with time := { (ring 0).time with bypassed := if was then 6 else 0 } },
     by revert p; cases was <;> decide +kernel⟩⟩

/-! ### The step seal and roll call -/

theorem take_frame (s : State) (type flitType : Nat) (body : Bytes) (h : s.ringSession = some 0) (hu : s.ringUp = true) (h5 : type ≠ 5)
    (hp : (padTo 104 (body.take 104)).length = 104) (ht : (BitVec.ofNat 8 type).toNat = type) :
    s.takeMsg (.ring true) type flitType (frameIn s type body) =
      (s.passOn true (frameIn s type body), some ⟨0, 1, 16, padTo 104 (body.take 104), false⟩) := by
  have h8 : (u8 (frameIn s type body) 0).toNat = type := ht
  unfold State.takeMsg
  dsimp only
  rw [h]
  dsimp only
  rw [if_pos ⟨hu, h8, h5⟩, show s.openFrame 0 type (frameIn s type body) = some (1, 16, padTo 104 (body.take 104)) from
    open_frame s 0 1 type true body 9 hp ht (by decide +kernel)]
  rfl

/-- The step seal of session 0: whether its vote is in. -/
def seal_ (sent : Bool) : Sealing := ⟨0, 0, 0, 0, 0, 1, 255, 0, sent, 0⟩

/-- Session 0 with its step seal in progress. -/
def sealing (sent : Bool) (x : Session) : Session :=
  { x with sealing := some (seal_ sent), ops := [opn .launched (dsc opSeal 0 [0, 0, 0, 1])] }

/-- A member of a rank with that seal. -/
def ringSeal (rank : Nat) (f : Session → Session) : State := (ring rank).onSession 0 fun x => f (sealing true x)

/-- Port 17 of the member runs. -/
def linked (s : State) : State := s.setPort 17 { Port.reset with enable := true, bound := true, state := .up, lanes := 0xFF }

/-- A SUMMARY that the neighbour behind port 17 sends. -/
def summaryIn (k : Nat) : Bytes :=
  flitIn (linked (ring 0)) { flit 2 0 with payload := padTo 232 (msgPayload 5 (le 1 k)) } 0

theorem test_meets_SealVotesAreGathered :
    (∀ alone : Bool, ∃ (s : State) (o : OpRef) (p : Op) (q : Sealing), o.session < 4 ∧ s.launched o opSeal = some p ∧
      (s.session o.session).sealing = some q ∧ q.voteSent = false ∧ q.ctx = p.ctx ∧ q.seq = p.seq ∧
      (s.session o.session).isConsignment = !alone ∧ s.ringUp = !alone) ∧
    (∀ counts : Bool, ∃ (s u : State) (rx : Rx) (m : Bytes) (g : Msg), s.takeMsg rx 4 2 m = (u, some g) ∧ g.sess < 4 ∧
      let x := u.session g.sess;
      let v : Vote := ⟨g.src, u32 g.body 0, u16 g.body 4, u16 g.body 6, u64 g.body 8⟩;
      decide (x.isMaster = true ∧ ¬ (x.sealSummarySent = true ∧ v.step = x.sealRec.step ∧ v.attempt = x.sealRec.attempt) ∧
        g.src ∈ x.ringRanks x.ownRing ∧
        ∀ w ∈ x.votes, ¬ (w.rank = g.src ∧ w.step = v.step ∧ w.attempt = v.attempt)) = counts) ∧
    (∃ (s : State) (i n : Nat) (q : Sealing) (c : Consign), i < 4 ∧ n < 18 ∧ (s.session i).sealing = some q ∧
      (s.session i).consign = some c ∧ c.timePort = some n ∧ (s.session i).isMaster = true ∧ (s.session i).ownRing ≠ 0 ∧
      (s.session i).sealSummarySent = false ∧ (s.session i).roll = none ∧
      q.launch.toNat + ns q.decideNs ≤ s.time.now.toNat + ns 1400) ∧
    (∀ alone : Bool, ∃ (s : State) (q : Sealing), (s.session 0).sealing = some q ∧ (s.session 0).rank = 0 ∧
      q.voteSent = true ∧ (s.session 0).decision = none ∧ (s.session 0).consign.isNone = alone ∧
      q.launch.toNat + ns q.decideNs ≤ s.time.now.toNat) :=
  ⟨fun alone => ⟨(if alone then up else ring 1).onSession 0 (sealing false), o0, opn .launched (dsc opSeal 0 [0, 0, 0, 1]), seal_ false,
     by cases alone <;> decide +kernel⟩,
   fun counts =>
     let s := ring (if counts then 0 else 1);
     ⟨s, _, _, _, _, take_frame s 4 2 (zeros 16) (by cases counts <;> decide +kernel) (by cases counts <;> decide +kernel) (by decide)
       (by decide +kernel) (by decide), by decide, by cases counts <;> decide +kernel⟩,
   ⟨ringSeal 1 fun x => { x with consign := some ⟨1, 2, some 17, [(0, 0), (1, 0)], zeros 64⟩ }, 0, 17, seal_ true,
     ⟨1, 2, some 17, [(0, 0), (1, 0)], zeros 64⟩, by decide +kernel⟩,
   fun alone => ⟨if alone then up0 (sealing true) else ringSeal 0 id, seal_ true, by cases alone <;> decide +kernel⟩⟩

/-- A decision record whose tag verifies. -/
def record (s : State) (decision : Byte) : Bytes :=
  let head := zeros 6 ++ [decision] ++ zeros 25
  head ++ s.recordTag 0 head

theorem recordTag_length (s : State) (b : Bytes) : (s.recordTag 0 b).length = 16 := by simp [State.recordTag]

theorem record_length (s : State) (d : Byte) : (record s d).length = 48 := by simp [record, recordTag_length]

theorem padTo_slice (b : Bytes) (n : Nat) (h : b.length ≤ n) : slice (padTo n (b.take n)) 0 b.length = b := by
  rw [List.take_of_length_le h]
  exact slice_mid _ [] b (zeros (n - b.length)) _ _ rfl rfl rfl

theorem padTo_len (b : Bytes) (h : b.length ≤ 104) : (padTo 104 (b.take 104)).length = 104 := by
  rw [List.take_of_length_le h, padTo, List.length_append, zeros_length]; omega

/-- A decision that a member which holds none, or one, is sent. -/
theorem test_meets_SealVotesAreGathered_record :
    ∀ has : Bool, ∃ (s u : State) (rx : Rx) (m : Bytes) (g : Msg), s.takeMsg rx 6 3 m = (u, some g) ∧ g.sess < 4 ∧
      g.byFlit = false ∧ u.recordFits g.sess (slice g.body 0 48) = true ∧ (u.session g.sess).decision.isSome = has := fun has => by
  let s := ringSeal 1 fun x => { x with decision := if has then some [] else none }
  have hl := record_length s 1
  refine ⟨s, _, _, _, _, take_frame s 6 3 (record s 1) (by cases has <;> decide +kernel) (by cases has <;> decide +kernel) (by decide)
    (padTo_len _ (by omega)) (by decide), by cases has <;> decide, rfl, ?_, by cases has <;> decide +kernel⟩
  have hs := padTo_slice (record s 1) 104 (by omega)
  rw [hl] at hs
  dsimp only
  rw [hs]
  have h0 : slice (record s 1) 0 32 = zeros 6 ++ [1] ++ zeros 25 := slice_mid _ [] _ _ 0 32 rfl rfl (by decide)
  have h1 : slice (record s 1) 32 16 = s.recordTag 0 (zeros 6 ++ [1] ++ zeros 25) :=
    slice_mid _ (zeros 6 ++ [1] ++ zeros 25) _ [] 32 16 (by rw [List.append_nil]; rfl) (by decide) (recordTag_length _ _)
  have hv : (s.passOn true (frameIn s 6 (record s 1))).slots = s.slots := by cases has <;> decide +kernel
  have hk : ∀ b, (s.passOn true (frameIn s 6 (record s 1))).recordTag 0 b = s.recordTag 0 b := fun b => by
    unfold State.recordTag State.slotKey State.slotOf; rw [hv]
  have h2 : u32 (record s 1) 0 = ((s.passOn true (frameIn s 6 (record s 1))).session 0).sealRec.step := by cases has <;> decide +kernel
  have h3 : u16 (record s 1) 4 = ((s.passOn true (frameIn s 6 (record s 1))).session 0).sealRec.attempt := by cases has <;> decide +kernel
  simp only [State.recordFits, h0, h1, hk, h2, h3, decide_true, Bool.and_self]

theorem limit_session (q : Port) : q.limit.session = q.session ∧ q.limit.rxSeq = q.rxSeq := by
  unfold Port.limit; split <;> exact ⟨rfl, rfl⟩

theorem send_port (s : State) (type : Nat) (b : Bytes) :
    (s.sendCtl 17 type b).sessions = s.sessions ∧ (s.sendCtl 17 type b).slots = s.slots ∧
      ((s.sendCtl 17 type b).port 17).session = (s.port 17).session :=
  ⟨rfl, rfl, (congrArg Port.session (vget_vset_same _ _ _ (by decide))).trans (limit_session _).1⟩

theorem count_port (s : State) (hr : (s.port 17).runs = true) :
    (s.countSlot 17).sessions = s.sessions ∧ (s.countSlot 17).slots = s.slots ∧ ((s.countSlot 17).port 17).session = (s.port 17).session ∧
      ((s.countSlot 17).port 17).rxSeq = (s.port 17).rxSeq := by
  rw [State.countSlot, if_pos hr]
  exact ⟨rfl, rfl, (congrArg Port.session (vget_vset_same _ _ _ (by decide))).trans (limit_session _).1,
    (congrArg Port.rxSeq (vget_vset_same _ _ _ (by decide))).trans (limit_session _).2⟩

/-- A flit that a running port takes in order leaves every session as it is, and its port's session. -/
theorem take_flit (s : State) (b : Bytes) (f : InFlit) (hr : (s.port 17).runs = true) (hs : ((s.countSlot 17).port 17).runs = true)
    (hk : s.linkStruck (s.port 17).session.toNat = false) (hb : s.blockHeld (.port 17) = false)
    (ho : openFlit (s.portKey 17 "KRELAS-FLIT" false) (s.port 17).rxSlot b = some f) (ht : f.flit.type ≠ 0)
    (hq : f.seq = (s.port 17).rxSeq) :
    ∃ u, s.takeFlit 17 b = (u, some f) ∧ u.sessions = s.sessions ∧ u.slots = s.slots ∧
      (u.port 17).session = (s.port 17).session := by
  obtain ⟨h1, h0, h2, h3⟩ := count_port s hr
  have same : ∀ (t : State) (q : Port), (t.setPort 17 q).port 17 = q := fun t q => vget_vset_same _ _ _ (by decide)
  unfold State.takeFlit
  dsimp only
  rw [ho, hr, hs, hk, if_neg (by decide)]
  dsimp only
  unfold State.inOrder
  dsimp only
  rw [if_neg (by rw [show (s.countSlot 17).blockHeld (.port 17) = s.blockHeld (.port 17) by rw [State.countSlot]; split <;> rfl, hb]; decide),
    if_neg ht, if_pos (hq.trans h3.symm)]
  refine ⟨_, rfl, ?_, ?_, ?_⟩
  · split
    · exact (send_port _ _ _).1.trans h1
    · exact ((send_port _ _ _).1.trans (send_port _ _ _).1).trans h1
  · split
    · exact (send_port _ _ _).2.1.trans h0
    · exact ((send_port _ _ _).2.1.trans (send_port _ _ _).2.1).trans h0
  · have h : (((s.countSlot 17).onPort 17 fun q => { q with rxSeq := q.rxSeq + 1, discarding := false }).port 17).session =
        (s.port 17).session := (congrArg Port.session (same _ _)).trans h2
    split
    · exact (send_port _ _ _).2.2.trans h
    · exact ((send_port _ _ _).2.2.trans (send_port _ _ _).2.2).trans h

/-- The message that such a flit carries, where it is for this rank. -/
theorem take_message (s u : State) (m : Bytes) (f : InFlit) (i type ft : Nat) (hb : (s.port 17).bound = true) (hr : (s.port 17).runs = true)
    (hm : bitsAt m 0 1 3 0 = ft) (hu : s.takeFlit 17 m = (u, some f)) (hd : ¬ f.flit.dst ≠ (u.session (s.portSession 17)).rank)
    (ht : (u8 f.flit.payload 0).toNat = type ∧ zeroRange f.flit.payload 1 7 = true) (hi : u.portSession 17 = i) :
    s.takeMsg (.port 17) type ft m = (u, some ⟨i, f.flit.src, 16, f.flit.payload.drop 8, true⟩) := by
  have h : s.takeTyped 17 ft m = (u, some f) := by
    unfold State.takeTyped
    dsimp only
    rw [if_pos ⟨hb, hr, hm⟩, hu]
    dsimp only
    rw [if_neg hd]
  unfold State.takeMsg
  dsimp only
  rw [h]
  dsimp only
  rw [if_pos ht, hi]

/-- A rank 0 with a roll call begun, and the flit of a SUMMARY about a seal or about it. -/
def summing : State := (linked (ring 0)).onSession 0 fun x => { x with roll := some ⟨0, 0, false, [], none, [], [], false, none⟩ }

@[inherit_doc summing] def summaryFlit (one_ : Bool) : OutFlit :=
  { flit 2 0 with payload := padTo 232 (msgPayload 5 (le 1 (if one_ then 1 else 2))) }

theorem summary_opens (b : Bool) : openFlit (summing.portKey 17 "KRELAS-FLIT" false) (summing.port 17).rxSlot
    (flitIn summing (summaryFlit b) 0) = some ⟨summaryFlit b, 0, 0⟩ :=
  (open_flit _ _ _ 0 0 (by revert b; decide +kernel)).trans (by revert b; decide +kernel)

theorem summary_type (b : Bool) : bitsAt (flitIn summing (summaryFlit b) 0) 0 1 3 0 = 2 := by revert b; decide +kernel

theorem summary_taken (b : Bool) : ∃ u, summing.takeMsg (.port 17) 5 2 (flitIn summing (summaryFlit b) 0) =
    (u, some ⟨0, 5, 16, (summaryFlit b).payload.drop 8, true⟩) ∧ u.session 0 = summing.session 0 := by
  obtain ⟨u, hu, hx, -, hp⟩ := take_flit summing (flitIn summing (summaryFlit b) 0) ⟨summaryFlit b, 0, 0⟩ (by decide +kernel)
    (by decide +kernel) (by decide +kernel) (by decide +kernel) (summary_opens b) (by revert b; decide +kernel) (by revert b; decide +kernel)
  have h0 : u.portSession 17 = 0 := by unfold State.portSession; rw [hp]; decide +kernel
  have h1 : u.session 0 = summing.session 0 := by unfold State.session; rw [hx]
  have h2 : ¬ (summaryFlit b).dst ≠ (u.session (summing.portSession 17)).rank := by
    rw [show summing.portSession 17 = 0 by decide +kernel, h1]; cases b <;> decide +kernel
  have h3 : (u8 (summaryFlit b).payload 0).toNat = 5 ∧ zeroRange (summaryFlit b).payload 1 7 = true := by cases b <;> decide +kernel
  exact ⟨u, take_message _ u _ ⟨summaryFlit b, 0, 0⟩ 0 5 2 (by decide +kernel) (by decide +kernel) (summary_type b) hu h2 h3 h0, h1⟩

theorem test_meets_SealVotesAreGathered_summary :
    ∀ one_ : Bool, ∃ (s u : State) (p : Nat) (m : Bytes) (g : Msg),
      s.takeMsg (.port p) 5 (if bitsAt m 0 1 3 0 = 4 then 4 else 2) m = (u, some g) ∧ g.sess < 4 ∧
      (u.session g.sess).rank = 0 ∧ (u.session g.sess).consign ≠ none ∧ decide ((u8 g.body 0).toNat = 1) = one_ ∧
      (one_ = false → ∃ r, (u.session g.sess).roll = some r ∧ u64 g.body 8 = r.p) := fun b => by
  obtain ⟨u, hu, h⟩ := summary_taken b
  refine ⟨summing, u, 17, _, _, by rw [summary_type, if_neg (by decide)]; exact hu, by cases b <;> decide, ?_⟩
  dsimp only
  rw [h]
  exact ⟨by decide +kernel, by decide +kernel, by cases b <;> decide +kernel, fun _ => ⟨_, rfl, by cases b <;> decide +kernel⟩⟩

/-- The seal of session 0, its vote in and its decision here. -/
def decided (d : Byte) (x : Session) : Session := { sealing true x with decision := some (zeros 6 ++ [d] ++ zeros 41) }

theorem test_meets_SealsApply :
    (∀ d ∈ [(1 : Byte), 2], ∀ alone : Bool, ∃ (s : State) (q : Sealing) (o : Op) (r : Bytes), (s.session 0).sealing = some q ∧
      (s.session 0).op? q.ctx q.seq = some o ∧ q.voteSent = true ∧ (s.session 0).decision = some r ∧
      (s.session 0).consign.isNone = alone ∧ q.launch.toNat + ns q.flipNs ≤ s.time.now.toNat ∧ (s.session 0).sealLost = false ∧
      u8 r 6 = d) ∧
    (∀ c ∈ [(0, false), (0, true), (65535, true)], ∃ (s : State) (q : Sealing) (o : Op) (r : Bytes),
      (s.session 0).sealing = some q ∧ (s.session 0).op? q.ctx q.seq = some o ∧ (s.session 0).decision = some r ∧ u8 r 6 ≠ 1 ∧
      o.ctx < 4 ∧ ((s.session 0).ctx o.ctx).live = true ∧ (s.session 0).sealRec.attempt.toNat = c.1 ∧
      ((s.session 0).descAt? q.replaySlot q.replayIndex).isSome = c.2) ∧
    (∃ (s : State) (q : Sealing), (s.session 0).sealing = some q ∧ q.voteSent = true ∧ (s.session 0).decision = none ∧
      (s.session 0).consign ≠ none ∧ q.launch.toNat + ns q.flipNs ≤ s.time.now.toNat ∧ (s.session 0).sealLost = false) :=
  ⟨fun d hd alone =>
     ⟨(if alone then up else ring 1).onSession 0 (decided d), seal_ true, opn .launched (dsc opSeal 0 [0, 0, 0, 1]),
       zeros 6 ++ [d] ++ zeros 41, by revert d; cases alone <;> decide +kernel⟩,
   fun c hc =>
     ⟨up0 fun x => decided 2 { x with
         lists := if c.2 then [(255, ⟨[dsc opNop 0 []], []⟩)] else []
         sealRec := { x.sealRec with attempt := BitVec.ofNat 16 c.1 }
         ctxs := vset x.ctxs 0 { Context.reset with state := .running, slot := 255 } },
       seal_ true, opn .launched (dsc opSeal 0 [0, 0, 0, 1]), zeros 6 ++ [2] ++ zeros 41, by revert c; decide +kernel⟩,
   ⟨ringSeal 1 id, seal_ true, by decide +kernel⟩⟩

/-- A member without a record, held for its lost seal alone or for more. -/
def lostSeal (k : Nat) : State :=
  (ring 1).onSession 0 fun x => { sealing true x with
    held := { x.held with held := true, ownReasons := if k = 1 then 0x60 else 0x20, groupReasons := if k = 2 then 1 else 0 } }

theorem test_meets_SealsApply_resolve :
    ∀ k < 3, ∃ (s : State) (mb : Nat) (r : Req), let x := (s.acceptKey r).session r.session;
      s.Accepts mb 0x0402 .sealed .resolve r ∧ r.body.length = 48 ∧ zeroRange r.body 7 1 = true ∧
      zeroRange r.body 12 4 = true ∧ zeroRange r.body 24 8 = true ∧ x.sealLost = true ∧
      slice r.body 32 16 = s.recordTag r.session (slice r.body 0 32) ∧ s.recordFits r.session r.body = true ∧
      decide (x.held.ownReasons = 0x20 ∧ x.held.groupReasons = 0) = decide (k = 0) ∧
      decide (x.held.ownReasons &&& ~~~0x20 ≠ 0) = decide (k = 1) ∧ decide (x.held.groupReasons ≠ 0) = decide (k = 2) := fun k hk => by
  have hl := record_length (lostSeal k) 1
  have h0 : slice (record (lostSeal k) 1) 0 32 = zeros 6 ++ [1] ++ zeros 25 := slice_mid _ [] _ _ 0 32 rfl rfl (by decide)
  have h1 : slice (record (lostSeal k) 1) 32 16 = (lostSeal k).recordTag 0 (zeros 6 ++ [1] ++ zeros 25) :=
    slice_mid _ (zeros 6 ++ [1] ++ zeros 25) _ [] 32 16 (by rw [List.append_nil]; rfl) (by decide) (recordTag_length _ _)
  refine ⟨_, 16, sreq 16 0x0402 0 0 (zeros 64) (record (lostSeal k) 1), seald (s := lostSeal k) ?_, hl, ?_, ?_, ?_, ?_, ?_, ?_, ?_, ?_, ?_⟩
  · interval_cases k <;> decide +kernel
  · interval_cases k <;> decide +kernel
  · interval_cases k <;> decide +kernel
  · interval_cases k <;> decide +kernel
  · interval_cases k <;> decide +kernel
  · dsimp only [sreq]
    rw [h0, h1]; rfl
  · have hk' : ∀ b, ((lostSeal k).seat 16 (sealedRequest (zeros 64) 0x0402 0 0 1 0 (record (lostSeal k) 1))).recordTag 0 b =
        (lostSeal k).recordTag 0 b := fun _ => rfl
    dsimp only [sreq]
    have h2 : u32 (record (lostSeal k) 1) 0 = (((lostSeal k).seat 16
        (sealedRequest (zeros 64) 0x0402 0 0 1 0 (record (lostSeal k) 1))).session 0).sealRec.step := by interval_cases k <;> decide +kernel
    have h3 : u16 (record (lostSeal k) 1) 4 = (((lostSeal k).seat 16
        (sealedRequest (zeros 64) 0x0402 0 0 1 0 (record (lostSeal k) 1))).session 0).sealRec.attempt := by interval_cases k <;> decide +kernel
    simp only [State.recordFits, h0, h1, hk', h2, h3, decide_true, Bool.and_self]
  · interval_cases k <;> decide +kernel
  · interval_cases k <;> decide +kernel
  · interval_cases k <;> decide +kernel

/-- A roll call of session 0 as a rank. -/
def rolling (rank : Nat) (r : RollCall) : State := (ring rank).onSession 0 fun x => { x with roll := some r }

/-- The roll call of epoch 1 at postmark 0. -/
def roll (sent : Bool) : RollCall := ⟨0, 1, sent, [], none, [], [], false, none⟩

theorem rolling_roll (rank n : Nat) (r : RollCall) : ((later n (rolling rank r)).session 0).roll = some r := by
  have h : (later n (rolling rank r)).session 0 = { (ring rank).session 0 with roll := some r } := vget_vset_same _ _ _ (by decide)
  rw [h]

theorem test_meets_RollCallRuns :
    (∃ (s : State) (r : RollCall), (s.session 0).roll = some r ∧ r.sent = false ∧ r.p.toNat ≤ s.time.now.toNat) ∧
    (∀ heard : Bool, ∃ (s u : State) (rx : Rx) (m : Bytes) (g : Msg) (r : RollCall), s.takeMsg rx 7 4 m = (u, some g) ∧ g.sess < 4 ∧
      rx = .ring true ∧
      (u.session g.sess).roll = some r ∧ (u.session g.sess).isMaster = true ∧ r.summarySent = false ∧
      fieldAt g.body 96 2 ∈ (u.session g.sess).ringRanks (u.session g.sess).ownRing ∧
      decide (∃ h ∈ r.heard, h.rank = fieldAt g.body 96 2) = heard ∧ g.byFlit = false) ∧
    (∃ (s : State) (r : RollCall), (s.session 0).roll = some r ∧ (s.session 0).rank = 0 ∧ r.sent = true ∧ r.verdict = none ∧
      r.p.toNat + ns 50000 ≤ s.time.now.toNat) ∧
    (∀ v ∈ [none, some (1, 0), some ((2 : Byte), (4 : BitVec 16))], ∃ (s : State) (r : RollCall), (s.session 0).roll = some r ∧
      r.p.toNat + ns 100000 ≤ s.time.now.toNat ∧ r.verdict = v ∧ ∃ b, r.reference = some b) :=
  ⟨⟨rolling 1 (roll false), roll false, by decide +kernel⟩,
   fun heard =>
     let r : RollCall := { roll true with heard := if heard then [⟨0, [], false⟩] else [] };
     ⟨rolling 0 r, _, _, _, _, r, take_frame (rolling 0 r) 7 4 (zeros 104) (by cases heard <;> decide +kernel)
       (by cases heard <;> decide +kernel) (by decide) (by decide +kernel) (by decide), by decide, rfl, by cases heard <;> decide +kernel⟩,
   ⟨later 50000 (rolling 0 (roll true)), roll true, by decide +kernel⟩,
   fun v hv => ⟨later 100000 (rolling 1 { roll true with verdict := v, reference := some [] }),
     { roll true with verdict := v, reference := some [] }, rolling_roll _ _ _,
     (by decide : (0 : Nat) + ns 100000 ≤ (BitVec.ofNat 64 (ns 100000)).toNat), rfl, [], rfl⟩⟩

/-- A verdict's tag, right or not, and its body. -/
def verdictTag (s : State) (good : Bool) (head : Bytes) : Bytes :=
  if good then s.recordTag 0 head else if s.recordTag 0 head = zeros 16 then 1 :: zeros 15 else zeros 16

@[inherit_doc verdictTag] def verdict (s : State) (good : Bool) : Bytes :=
  (le 8 1 ++ [1] ++ zeros 23) ++ verdictTag s good (le 8 1 ++ [1] ++ zeros 23)

theorem verdictTag_length (s : State) (good : Bool) (h : Bytes) : (verdictTag s good h).length = 16 := by
  unfold verdictTag
  split
  · exact recordTag_length s h
  · split <;> rfl

theorem verdictTag_right (s : State) (good : Bool) (h : Bytes) : decide (verdictTag s good h = s.recordTag 0 h) = good := by
  unfold verdictTag
  cases good
  · rw [if_neg (by decide), decide_eq_false_iff_not]
    split
    · rename_i e; rw [e]; decide
    · rename_i e; exact fun k => e k.symm
  · exact decide_eq_true (if_pos rfl)

theorem verdict_length (s : State) (good : Bool) : (verdict s good).length = 48 := by
  rw [verdict, List.length_append, verdictTag_length]; rfl

theorem verdict_parts (s : State) (good : Bool) :
    slice (padTo 104 ((verdict s good).take 104)) 0 32 = le 8 1 ++ [1] ++ zeros 23 ∧
      slice (padTo 104 ((verdict s good).take 104)) 32 16 = verdictTag s good (le 8 1 ++ [1] ++ zeros 23) := by
  rw [List.take_of_length_le (by rw [verdict_length]; decide)]
  generalize hz : zeros (104 - (verdict s good).length) = z
  unfold padTo
  rw [hz, verdict]
  exact ⟨slice_mid _ [] _ (verdictTag s good (le 8 1 ++ [1] ++ zeros 23) ++ z) 0 32 (by rw [List.nil_append, List.append_assoc]) rfl (by decide),
    slice_mid _ (le 8 1 ++ [1] ++ zeros 23) _ z 32 16 (by rw [List.append_assoc]) (by decide) (verdictTag_length _ _ _)⟩

/-- A verdict whose tag verifies, or does not. -/
theorem test_meets_RollCallRuns_verdict :
    ∀ good : Bool, ∃ (s u : State) (rx : Rx) (m : Bytes) (g : Msg) (r : RollCall), s.takeMsg rx 8 4 m = (u, some g) ∧ g.sess < 4 ∧
      (u.session g.sess).roll = some r ∧ decide (slice g.body 32 16 = u.recordTag g.sess (slice g.body 0 32)) = good ∧
      u64 g.body 0 = r.epoch ∧ r.verdict = none := fun good => by
  have hv : ∀ b : Bytes, ((rolling 1 (roll true)).passOn true b).slots = (rolling 1 (roll true)).slots := fun b => by
    unfold State.passOn State.putFrame State.onSide
    dsimp only
    rw [show ∀ n, (rolling 1 (roll true)).perfEvent ((rolling 1 (roll true)).ringSession.getD 0) 4 656 n = rolling 1 (roll true) from
      fun n => ite_self _]
    split <;> rfl
  have hk : ∀ a b, ((rolling 1 (roll true)).passOn true a).recordTag 0 b = (rolling 1 (roll true)).recordTag 0 b := fun a b => by
    unfold State.recordTag State.slotKey State.slotOf; rw [hv]
  refine ⟨rolling 1 (roll true), _, _, _, _, roll true, take_frame _ 8 4 (verdict (rolling 1 (roll true)) good) (by decide +kernel) (by decide +kernel)
    (by decide) (padTo_len _ (by rw [verdict_length]; decide)) (by decide), Nat.zero_lt_succ _, ?_, ?_, ?_, rfl⟩
  · cases good <;> decide +kernel
  · dsimp only
    rw [(verdict_parts _ good).1, (verdict_parts _ good).2, hk]
    exact verdictTag_right _ _ _
  · cases good <;> decide +kernel

/-- A gateway of ring 1 with a roll call, whose port 17 brings a verdict whose tag is wrong. -/
def gateway : State :=
  (linked (ring 1)).onSession 0 fun x =>
    { x with consign := some ⟨1, 2, some 17, [(0, 0), (1, 0)], zeros 64⟩, roll := some (roll true) }

@[inherit_doc gateway] def badVerdict : OutFlit :=
  { flit 4 1 with payload := padTo 232 (msgPayload 8 (verdict gateway false)) }

theorem badVerdict_length : badVerdict.payload.length = 232 := by
  simp [badVerdict, msgPayload, padTo, verdict_length]

theorem badVerdict_header : flitHeader badVerdict 0 0 = flitHeader (flit 4 1) 0 0 := by
  rw [flitHeader, flitHeader, badVerdict_length, show (flit 4 1).payload.length = 232 by decide +kernel]
  rfl

theorem badVerdict_body : badVerdict.payload.drop 8 = verdict gateway false ++ zeros 176 := by
  have h : badVerdict.payload = le 1 8 ++ zeros 7 ++ (verdict gateway false ++ zeros 176) := by
    show padTo 232 (msgPayload 8 (verdict gateway false)) = _
    have hl : (msgPayload 8 (verdict gateway false)).length = 56 := by
      rw [msgPayload, List.length_append, verdict_length, List.length_append, zeros_length, le_length]
    rw [padTo, hl, msgPayload, List.append_assoc (le 1 8 ++ zeros 7)]
  rw [h]; exact List.drop_left' (by decide)

theorem badVerdict_opens : openFlit (gateway.portKey 17 "KRELAS-FLIT" false) (gateway.port 17).rxSlot (flitIn gateway badVerdict 0) =
    some ⟨badVerdict, 0, 0⟩ := by
  have hl := badVerdict_length
  have hp : padTo 232 badVerdict.payload = badVerdict.payload := by rw [padTo, hl]; exact List.append_nil _
  refine (open_flit _ _ badVerdict 0 0 (by rw [hp, hl])).trans ?_
  have hn : bitsOf (fieldAt (flitHeader (flit 4 1) 0 0) 0 8) 53 46 = 232 := by decide +kernel
  dsimp only
  rw [hp, badVerdict_header, hn, List.take_of_length_le (by rw [hl])]
  generalize hb : badVerdict.payload = pl
  have hv : badVerdict = { flit 4 1 with payload := pl } := by rw [← hb]; rfl
  rw [hv]
  simp only [flit, Option.some.injEq, InFlit.mk.injEq, OutFlit.mk.injEq]
  decide +kernel

/-- What a message by flit that does not verify is: a gateway sends it around its ring. -/
theorem test_meets_RollCallRuns_relayed :
    ∃ (s u : State) (m : Bytes) (g : Msg) (r : RollCall), s.takeMsg (.port 17) 8 4 m = (u, some g) ∧ g.sess < 4 ∧
      (u.session g.sess).roll = some r ∧ g.byFlit = true ∧ slice g.body 32 16 ≠ u.recordTag g.sess (slice g.body 0 32) ∧
      (u.session g.sess).isMaster = true ∧ (u.session g.sess).ownRing ≠ 0 := by
  have hm : bitsAt (flitIn gateway badVerdict 0) 0 1 3 0 = 4 := by
    unfold flitIn sealFlit
    rw [badVerdict_header]; decide +kernel
  obtain ⟨u, hu, hx, hk, hp⟩ := take_flit gateway (flitIn gateway badVerdict 0) ⟨badVerdict, 0, 0⟩ (by decide +kernel)
    (by decide +kernel) (by decide +kernel) (by decide +kernel) badVerdict_opens (by decide) (by decide +kernel)
  have hs : u.session 0 = gateway.session 0 := by unfold State.session; rw [hx]
  have h0 : u.portSession 17 = 0 := by unfold State.portSession; rw [hp]; decide +kernel
  have ht : ∀ b, u.recordTag 0 b = gateway.recordTag 0 b := fun b => by
    unfold State.recordTag State.slotKey State.slotOf; rw [hk]
  refine ⟨gateway, u, _, _, roll true, take_message _ u _ ⟨badVerdict, 0, 0⟩ 0 8 4 (by decide +kernel) (by decide +kernel) hm hu ?_ ⟨rfl, rfl⟩ h0,
    Nat.zero_lt_succ _, ?_, rfl, ?_, ?_, ?_⟩
  · rw [show gateway.portSession 17 = 0 by decide +kernel, hs]
    exact fun h => h (by show (1 : Nat) = _; decide +kernel)
  · dsimp only; rw [hs]; decide +kernel
  · dsimp only
    rw [badVerdict_body, ht, show slice (verdict gateway false ++ zeros 176) 0 32 = le 8 1 ++ [1] ++ zeros 23 from
        slice_mid _ [] _ (verdictTag gateway false (le 8 1 ++ [1] ++ zeros 23) ++ zeros 176) 0 32
          (by rw [verdict, List.nil_append, List.append_assoc]) rfl (by decide),
      show slice (verdict gateway false ++ zeros 176) 32 16 =
          verdictTag gateway false (le 8 1 ++ [1] ++ zeros 23) from
        slice_mid _ (le 8 1 ++ [1] ++ zeros 23) _ (zeros 176) 32 16
          (by rw [verdict, List.append_assoc]) (by decide) (verdictTag_length _ _ _)]
    exact of_decide_eq_false (verdictTag_right gateway false _)
  · dsimp only; rw [hs]; decide +kernel
  · dsimp only; rw [hs]; decide +kernel

/-! ### Numbers, the whole module, ill-formed commands -/

theorem test_meets_NumbersRoundAndMultiply :
    (∀ f ∈ Fmt.stored, ∀ k ∈ [(0 : Int), 400, -400], ∃ (mode : Rnd) (n d : Nat) (e : Int), n ≠ 0 ∧ d ≠ 0 ∧
      (f.round mode (.num true n d e)).overflow = decide (k = 400) ∧ (f.round mode (.num true n d e)).flush = decide (k = -400)) ∧
    (∃ (v w : Val) (a b : Bool) (n d n' d' : Nat) (e e' : Int), v = .num a n d e ∧ w = .num b n' d' e') ∧
    (∃ v w : Val, v.isNan = true ∨ w.isNan = true) :=
  ⟨fun f hf k hk => ⟨.nearest, 1, 1, k, by decide, by decide, by revert f k; decide +kernel⟩,
   ⟨_, _, true, false, 3, 1, 5, 1, 0, -1, rfl, rfl⟩, ⟨.nan, .nan, by decide⟩⟩

theorem test_meets_StepRunsTheFront :
    (∃ (s : State) (c : Instr) (rest : List Instr), s.pending = c :: rest) ∧
    (∀ runs : Bool, ∃ s : State, s.pending = [] ∧ s.timeRuns = runs) :=
  ⟨⟨{ up with pending := [.measureTick, .bisnpinv] }, _, _, rfl⟩, fun b => ⟨if b then up else State.reset, by cases b <;> decide +kernel⟩⟩

theorem test_meets_LifeCycleOnlyMovesOn : ∃ s t : State, step s = .next t ∧ s.lcState ≠ 0xFF :=
  ⟨{ up with pending := [.d3hotEntry 0] }, _, rfl, by decide +kernel⟩

theorem test_meets_SealedTrafficOpens :
    (∃ (f : OutFlit) (gen : Nat), f.type = 15 ∧ f.dst = 2047 ∧ f.src = 2047 ∧ f.payload.length = 232 ∧ gen = 255) ∧
    (∃ (p type : Nat) (body : Bytes), p = 17 ∧ type = 255 ∧ body.length = 12) ∧
    (∃ (rank type : Nat) (body : Bytes), rank = 65535 ∧ type = 255 ∧ body.length = 104) :=
  ⟨⟨⟨15, 2047, 2047, true, true, zeros 232, 0, none⟩, 255, by decide +kernel⟩, ⟨17, 255, zeros 12, by decide +kernel⟩,
   ⟨65535, 255, zeros 104, by decide +kernel⟩⟩

/-- A request of RESET_LOG_READ that has a body it may not have, in a mailbox; RESET_LOG_READ looks at it later. -/
def asking (s : State) (b : Bytes) : State := s.seat 1 (plainRequest 0x0802 0xFF 0 b)

theorem test_meets_RefusedRequestsChangeNothing :
    (∀ k ∈ [0, 1, 2], ∃ (s : State) (mb : Nat), ∃ e ∈ mailboxCommands mb,
      (k = 0 → s.mbServed = false) ∧ (k = 1 → s.turn mb = false) ∧ (k = 2 → fieldAt (s.mailbox mb).request 0 2 ≠ e.2.1)) ∧
    (∃ (s : State) (mb : Nat) (st : Status), ∃ e ∈ mailboxCommands mb, s.mbServed = true ∧ s.turn mb = true ∧
      fieldAt (s.mailbox mb).request 0 2 = e.2.1 ∧ mb < 64 ∧ s.take mb e.2.1 e.2.2 = (st, none)) ∧
    (∃ (s : State) (mb : Nat), ∃ e ∈ mailboxCommands mb, s.mbServed = true ∧ s.turn mb = true ∧
      fieldAt (s.mailbox mb).request 0 2 = e.2.1 ∧ mb < 64 ∧ s.locked = true ∧ e.2.1 ≠ 0x0032) ∧
    (∃ (s : State) (mb : Nat), ∃ e ∈ mailboxCommands mb, s.mbServed = true ∧ s.turn mb = true ∧
      fieldAt (s.mailbox mb).request 0 2 = e.2.1 ∧ mb < 64 ∧ s.locked = false ∧ s.power.power ≠ .ps3 ∧ s.fw.state ≠ .running ∧
      e.2.1 ≠ 0x0001 ∧ e.2.1 ≠ 0x0032) :=
  ⟨fun k hk => ⟨if k = 0 then State.reset else if k = 1 then up else asking up [], 1, (.watchRead 1, 0x0803, .host),
     by decide +kernel, by revert k; decide +kernel⟩,
   ⟨up.seat 1 (le 2 0x0802 ++ [0, 0xFF] ++ zeros 8 ++ [1, 0, 0, 0]), 1, stRefused, (.resetLogRead 1, 0x0802, .host), by decide +kernel, by decide +kernel⟩,
   ⟨asking { up with lc := { up.lc with codeword := 1 } } [], 1, (.resetLogRead 1, 0x0802, .host), by decide +kernel, by decide +kernel⟩,
   ⟨asking { up with fw := Firmware.reset } [], 1, (.resetLogRead 1, 0x0802, .host), by decide +kernel, by decide +kernel⟩⟩

/-! ### Memory protection -/

/-- Session 0 holds channel 0 of HBM, in the state given. -/
def stored (f : Channel → Channel) : State := up.setChan (.hbm 0) (f { Channel.reset with holder := some (0, 0) })

/-- Line 0 of that channel written `n` times. -/
def wrote (n : Nat) (ch : Channel) : Channel := { ch with counters := Table.set ⟨0, []⟩ [] 0 ⟨0, Table.set 0 [] 0 (BitVec.ofNat 7 n)⟩ }

/-- A job of party 0 of session 0. -/
def work0 (s : State) : Job := s.job 0 (opn .launched []) 0

theorem test_meets_WrittenLinesReadBack :
    (∀ n ∈ [0, 1, 127], ∃ (s : State) (off : Nat) (b : Bytes), Space.hbm 0 ∈ s.spaces 0 ∧
      (∀ q ∈ s.spaces 0, (s.chan q).wf = true ∧ (s.chan q).Sound) ∧ b ≠ [] ∧ off + b.length ≤ 64 ∧
      ((s.chan (.hbm 0)).pair 0).2 = n ∧ (s.writeLine 0 (.hbm 0) 0 off b).2 = stOk ∧
      ∀ q ∈ s.spaces 0, ∀ e ∈ (s.chan q).cache, e.2 ≠ some true) ∧
    (∃ s : State, (s.session 0).mem.readOnly = true ∧ Space.hbm 0 ∈ s.spaces 0) ∧
    (∃ (s : State) (q : Item), let w := s.walk 0 (.hbm 0) 0;
      w.2 = stOk ∧ (w.1.chan (.hbm 0)).pair 0 = (0, 0) ∧ (s.chan (.hbm 0)).version q = 0) ∧
    (∃ (j : Job) (cpa : Nat) (b : Bytes), let x := j.st.session j.sess;
      j.live = true ∧ j.sess < 4 ∧ x.locate 0 = some (0, 0, cpa) ∧ x.resolve j.copies 0 = 0 ∧ x.struck 0 = false ∧
      x.struck j.owner = false ∧ (j.st.chan (.hbm 0)).holder = some (j.sess, 0) ∧
      (∀ q ∈ j.st.spaces j.sess, (j.st.chan q).wf = true ∧ (j.st.chan q).Sound) ∧ b ≠ [] ∧ cpa % 64 + b.length ≤ 64 ∧
      (j.st.writeLine j.sess (.hbm 0) (cpa / 64) (cpa % 64) b).2 = stOk) := by
  refine ⟨fun n hn => ⟨stored (wrote n), 63, [7], ?_⟩, ⟨(stored id).onMem 0 fun m => { m with readOnly := true }, ?_⟩,
    ⟨stored id, (0, 0), ?_⟩, ⟨work0 (stored id), 0, [7], ?_⟩⟩
  · simp only [Channel.Sound]; revert n; decide +kernel
  · decide +kernel
  · decide +kernel
  · simp only [Channel.Sound]; decide +kernel

/-- Channel 0, line 0 of it written once, in the condition that a case names: a poisoned, uncorrectable, untagged, mistagged,
good or correctable line, or its tag line uncorrectable. -/
def faulty (k : Nat) : State :=
  stored fun ch => { wrote 1 ch with
    lines := Table.set .good [] 0 (([.poisoned, .uncorrectable, .tagLost, .tagBad, .good, .correctable] : List LineCond).getD k .good)
    tagLines := if k = 6 then Table.set .good [] 0 .uncorrectable else [] }

/-- Channel 0, its first counter group stored once and found in a condition when it is read. -/
def strayed (c : LineCond) (known : Bool) : State :=
  stored fun ch => { ch with
    versions := Table.set 0 [] 0 1, groups := Table.set .good [] 3 c, failed := if known then [(0, c)] else [] }

theorem test_meets_MemoryFailuresAreHandled :
    (∀ k < 7, ∀ part : Bool, ∃ s : State, let w := s.walk 0 (.hbm 0) 0; let ch := w.1.chan (.hbm 0);
      let tag := Table.get .good ch.tagLines 0; let cond := Table.get .good ch.lines 0;
      Space.hbm 0 ∈ s.spaces 0 ∧ w.2 = stOk ∧ ch.wf = true ∧ ch.pair 0 ≠ (0, 0) ∧ (w.1.session 0).mem.readOnly = false ∧
      ch.sweep = none ∧ (∀ l ∈ ch.spoiledWith 0, (ch.pair l).2 ≠ 127) ∧ (w.1.session 0).mem.log.length < 16 ∧
      decide (tag = .uncorrectable ∨ tag = .tagLost ∨ cond = .uncorrectable ∨ cond = .tagLost) = decide (k ∈ [1, 2, 6]) ∧
      decide (cond = .poisoned) = decide (k = 0) ∧ decide (cond = .tagBad) = decide (k = 3) ∧
      decide (cond = .good ∨ cond = .correctable) = decide (k ∈ [4, 5, 6]) ∧
      decide ((s.readLine 0 (.hbm 0) 0 part).2.1 = stOk) = decide (k ∈ [4, 5]) ∧ (s.session 0).mem.readOnly = false) ∧
    (∀ c ∈ [LineCond.uncorrectable, .tagBad], ∃ (s : State) (q : Item), Space.hbm 0 ∈ s.spaces 0 ∧ (s.chan (.hbm 0)).version q ≠ 0 ∧
      ((s.chan (.hbm 0)).conds q).contains .uncorrectable = decide (c = .uncorrectable) ∧
      ((s.chan (.hbm 0)).conds q).contains .tagBad = decide (c = .tagBad)) ∧
    (∀ c ∈ [LineCond.uncorrectable, .tagBad], ∃ (s : State) (path : List Item), ∃ q ∈ path,
      ∃ e ∈ (s.chan (.hbm 0)).failed, e = (q.key, c)) :=
  ⟨fun k hk part => ⟨faulty k, by revert k; cases part <;> decide +kernel⟩,
   fun c hc => ⟨strayed c false, (0, 0), by revert c; decide +kernel⟩,
   fun c hc => ⟨strayed c true, [(0, 0)], by revert c; decide +kernel⟩⟩

theorem test_meets_CountersRunOut :
    (∀ n ∈ [0, 2 ^ 64 - 2], ∃ s : State, let ch := s.chan (.hbm 0);
      Space.hbm 0 ∈ s.spaces 0 ∧ ch.wf = true ∧ (ch.page 0).major.toNat = n ∧
      (∀ l < 64, Table.get .good ch.lines l ∈ [LineCond.good, .correctable, .poisoned] ∧
        Table.get .good ch.tagLines (l / 8) ∈ [LineCond.good, .correctable]) ∧
      ch.pair 1 ≠ (0, 0) ∧ Table.get .good ch.lines 1 = .poisoned ∧ ch.pair 2 ≠ (0, 0) ∧ Table.get .good ch.lines 2 ≠ .poisoned ∧
      (n = 0 → ch.pair 0 = (0, 0))) ∧
    (∀ e ∈ [0, 2 ^ 32 - 2, 2 ^ 32 - 1], ∃ s : State, (s.session 0).mem.keyEpoch.toNat = e ∧ (s.session 0).mem.sweeping = false) :=
  ⟨fun n hn => ⟨stored fun ch => { ch with
       counters := [(0, ⟨BitVec.ofNat 64 n, [(1, 5), (2, 127)]⟩)], lines := [(1, .poisoned)] }, by revert n; decide +kernel⟩,
   fun e he => ⟨(stored id).onMem 0 fun m => { m with keyEpoch := BitVec.ofNat 32 e }, by revert e; decide +kernel⟩⟩

theorem vget_replicate {α : Type} (d : α) (n i : Nat) : vget d (Vector.replicate n d) i = d := by
  unfold vget
  by_cases h : i < n
  · simp [h]
  · simp [Vector.getElem?_eq_none (Nat.le_of_not_lt h)]

theorem reset_memoryWf : State.reset.memoryWf := by
  refine ⟨fun sp => ?_, fun d => ?_, by decide⟩
  · have h : State.reset.chan sp = Channel.reset := by cases sp <;> exact vget_replicate _ _ _
    rw [h]; decide
  · have h : vget Die.reset State.reset.dies d = Die.reset := vget_replicate _ _ _
    rw [h]; decide

theorem test_meets_MemoryStaysCanonical : ∃ s t : State, step s = .next t ∧ s.memoryWf :=
  ⟨State.reset, _, rfl, reset_memoryWf⟩

theorem test_meets_KeySlotsChangeByCommandAlone :
    ∀ k < 3, ∃ s t : State, step s = .next t ∧ (k = 0 → s.pending = []) ∧
      (∀ c ∈ s.pending.head?, c.movesKeys = decide (k = 1)) ∧ ∀ c ∈ s.pending.head?, c.givesKeys = false := fun k hk =>
  ⟨{ State.reset with pending := if k = 0 then [] else if k = 1 then [.sessionCloseStrike 0] else [.nop ⟨0, 0, 0⟩] }, _,
   by interval_cases k <;> rfl, by interval_cases k <;> decide, by interval_cases k <;> decide, by interval_cases k <;> decide⟩

/-! ### Ill-formed commands -/

/-- One command for each bound that WellFormed checks, its number one too large. -/
def illFormed : List Instr :=
  [.nop ⟨4, 0, 0⟩, .matmul ⟨0, 4, 0⟩, .allReduce ⟨4, 0, 0⟩ [], .descriptorStart 4 0, .descriptorStart 0 4, .tileDrain 4 0, .sealFlip 4,
   .armFire 4096, .commandCorePoll 4, .controlWatchdog 6, .sweepStep 68, .listLoad 64, .perfRead 64, .registerWrite ⟨5, none⟩ 0 0, .registerWrite ⟨0, some 8⟩ 0 0,
   .nowLoRead ⟨5, none⟩, .hdmDecoderCommit ⟨0, 0⟩ 0 (some 8), .keyExchange .mctp ⟨[], []⟩, .statusPageWrite 5, .ideKm (.selective 8), .getVersion (.doe 5), .optionWrite (zeros 63), .flitSlot 18,
   .dataFlit 0 (zeros 255) [], .dataFlit 18 (zeros 256) [], .ack 0 (zeros 31), .ack 18 (zeros 32), .laneFailure 0 8,
   .laneFailure 18 0, .vote (.port 18) [], .summary 18 [], .noiseLaneFail 64, .quarterReset 4, .blockReset (.port 18),
   .blockReset (.reckoner 4), .blockReset (.sortingOffice 2), .vfFlr 0, .vfFlr 5, .clockGood 18 0, .bypassSwitchChange (.member 32 true) true, .watchPostSample []]

theorem test_wellFormed_refuses : ∀ c ∈ illFormed, c.wf = false := by decide +kernel

theorem test_wellFormed_takes : ∀ c ∈ [Instr.nop ⟨3, 3, 9⟩, .descriptorStart 3 3, .armFire 4095, .sweepStep 67, .listLoad 63, .registerWrite ⟨4, some 7⟩ 0 0,
    .optionWrite (zeros 64), .dataFlit 17 (zeros 256) [], .ack 17 (zeros 32), .laneFailure 17 7, .vfFlr 4, .clockGood 17 0, .bypassSwitchChange (.member 31 true) true,
    .watchPostSample (List.replicate 64 0)], c.wf = true := by decide +kernel

/-! ### Worked values of the manual -/

/-- The Tumbler's test vector (chapter 03, after R132), which is the AES-128 example of FIPS 197. -/
theorem test_tumbler : tumbler ((List.range 16).map (BitVec.ofNat 8)) 0x0011 0x22334455 0x6677 0x8899AABBCCDDEEFF =
    [0x69C4, 0xE0D8, 0x6A7B, 0x0430, 0xD8CD, 0xB780, 0x70B4, 0xC55A] := by decide +kernel

/-- The SHA-512 of "abc" (FIPS 180-4), its first and last eight bytes. -/
theorem test_sha512 : slice (Crypto.sha512 (ascii "abc")) 0 8 = [0xDD, 0xAF, 0x35, 0xA1, 0x93, 0x61, 0x7A, 0xBA] ∧
    slice (Crypto.sha512 (ascii "abc")) 56 8 = [0x2A, 0x9A, 0xC9, 0x4F, 0xA5, 0x4C, 0xA4, 0x9F] := by decide +kernel

/-- The check value of IEEE 802.3's CRC-32 (R520 names the code). -/
theorem test_crc32 : Crypto.crc32 (ascii "123456789") = 0xCBF43926 := by decide +kernel

/-- The conversion examples of chapter 03 (after R127): 1.3, −1,000, 2^−20 and NaN in seven formats. -/
theorem test_conversions :
    [0x3FA66666, 0xC47A0000, 0x35800000].map (fun x => [Fmt.bf16, .fp16, .e4m3, .e5m2, .e2m3, .e3m2, .e2m1].map fun f =>
      let r := f.round .nearest (f32 x); (r.code, r.overflow, r.flush)) =
    [[(0x3FA6, false, false), (0x3D33, false, false), (0x3A, false, false), (0x3D, false, false), (0x0A, false, false),
       (0x0D, false, false), (0x3, false, false)],
     [(0xC47A, false, false), (0xE3D0, false, false), (0xFE, true, false), (0xE4, false, false), (0x3F, true, false),
       (0x3F, true, false), (0xF, true, false)],
     [(0x3580, false, false), (0x0010, false, false), (0, false, true), (0, false, true), (0, false, true), (0, false, true),
       (0, false, true)]] ∧
    [Fmt.bf16, .fp16, .e4m3, .e5m2].map (fun f => (f.round .nearest (f32 0x7FC00000)).code) = [0x7FC0, 0x7E00, 0x7F, 0x7E] := by
  decide +kernel

/-- Stochastic rounding worked through (chapter 03): 1.3 to E4M3 with r = 0x69C4 and with r = 0xE0D8. -/
theorem test_stochastic : [Rnd.stochastic 0x69C4, .stochastic 0xE0D8, .nearest, .zero].map
    (fun m => (Fmt.e4m3.round m (f32 0x3FA66666)).code) = [0x3A, 0x3B, 0x3A, 0x3A] := by decide +kernel

/-- E4M3 codes as a reduction block: the given places, the rest +0. -/
def codes (l : List (Nat × Nat)) : List Val :=
  (List.range 32).map fun k => (Fmt.e4m3.takeIn ((l.find? (·.1 = k)).map (·.2) |>.getD 0)).1

/-- The worked dot product of chapter 03: its two elements, with their flags and their BF16 codes. -/
theorem test_dot_product :
    let first := accumulateBlock Acc.zero (codes [(0, 0x7E)]) (codes [(0, 0x7E)]) 0xBF 0xBF
    let row0 := accumulateBlock first (codes [(0, 0x7F), (1, 0x38)]) (codes [(0, 0x40), (1, 0x38)]) 0x7F 0x7F
    let row1 := accumulateBlock first (codes [(1, 0x38)]) (codes [(0, 0x40), (1, 0x38)]) 0x7F 0x7F
    first = ⟨0x7F7FFFFF, false, true⟩ ∧ row0 = ⟨0x7FC00000, true, true⟩ ∧ row1 = ⟨0x7F7FFFFF, false, true⟩ ∧
      (Fmt.bf16.round .nearest row0.val).code = 0x7FC0 ∧ (Fmt.bf16.round .nearest row1.val).code = 0x7F7F ∧
      (Counts.ofElem row0.val row0.ovf (Fmt.bf16.round .nearest row0.val)).nanOut = 1 ∧
      (Counts.ofElem row0.val row0.ovf (Fmt.bf16.round .nearest row0.val)).accOvf = 0 ∧
      (Counts.ofElem row1.val row1.ovf (Fmt.bf16.round .nearest row1.val)).accOvf = 1 ∧
      (Counts.ofElem row1.val row1.ovf (Fmt.bf16.round .nearest row1.val)).outSat = 0 := by decide +kernel

/-- The worked E2M1 block of chapter 04 (after R146): 13.0, 6.0, 1.0, −0.3 and 28 zeros. -/
theorem test_block :
    let xs : List Val := [.num false 13 1 0, .num false 6 1 0, .num false 1 1 0, .num true 3 10 0] ++ List.replicate 28 (.num false 0 1 0)
    let q := quantise .e2m1 true 1 (.num false 1 1 0) (fun _ => .nearest) (xs.map fun v => ⟨v, false, 0⟩)
    q.scale = 0x81 ∧ q.codes.take 5 = [0x5, 0x3, 0x1, 0x8, 0x0] ∧ q.counts.flush = 1 := by decide +kernel

/-- The worked replay of chapter 04 (after R164): the step's scale, its miss, and the replay's scale. -/
theorem test_scale_replay :
    let r : ScaleRec := { ScaleRec.reset with
      fmt := 2, policy := 2, satShift := 10, voidOnMiss := true, history := vset ScaleRec.reset.history 15 0x40600000, histValid := 1 }
    let s := r.startStep
    let c := { s with curAmax := 0x41200000, elemCount := 1048576, satCount := 4096 }.evaluate
    let few := { s with curAmax := 0x41200000, elemCount := 1048576, satCount := 1024 }.evaluate
    let v := c.voidMiss.startStep
    let done := ({ v with curAmax := 0x41200000, elemCount := 1048576 }.evaluate).commit 7
    s.workScale = 0x3C000000 ∧ c.missSat = true ∧ few.missSat = false ∧ v.workScale = 0x3CB6DB6E ∧ v.replay = true ∧ v.satCount = 0 ∧
      done.miss = false ∧ done.aRef = 0x41200000 ∧ done.startStep.workScale = 0x3CB6DB6E := by decide +kernel

/-- The worked element update of chapter 06, its weight and its momentum. -/
theorem test_element_update :
    let k := rkScalars (zeros 44 ++ le 4 0x3A800000 ++ le 4 0x3E000000 ++ le 4 0x3F600000 ++ le 4 0x3F780000 ++ le 4 0x3F000000)
    let s := blockScale k 16
    let u := updateElem k s (Acc.const 0x3F000000) (Acc.const 0xBE800000) (Fmt.e4m3.takeIn 0x08).1
    s.value = 0x3F400000 ∧ u.w.value = 0x3F002C00 ∧ u.m.value = 0xBE580000 ∧ u.u.sign = some (-1) ∧
      [0x69C4, 0xD3FF, 0xD400, 0xE0D8].map (fun r => (Fmt.bf16.round (.stochastic r) u.w.val).code) = [0x3F00, 0x3F00, 0x3F01, 0x3F01] ∧
      blockExp .e4m3 (.num false 1 2 0) = -9 ∧
      [0x7FFF, 0x8000].map (fun r => (Fmt.e4m3.round (.stochastic r) (u.m.val.scale 9)).code) = [0xED, 0xEE] := by decide +kernel

/-- The worked element of chapter 07 (after R275): leaves 2^24, 1, 1 and −2^24. -/
theorem test_tree :
    let n := fun a b => (roundPart .fp32 (Val.add a b)).1
    let i := Val.ofInt
    (n (i 16777216) (i 1)).compare (i 16777218) = 0 ∧ (n (i 1) (i (-16777216))).compare (i (-16777215)) = 0 ∧
      (n (n (i 16777216) (i 1)) (n (i 1) (i (-16777216)))).compare (i 3) = 0 := by decide +kernel

/-- The worked translation of chapter 09 (after R351): the address of party 2, and its line's T-blocks. -/
theorem test_translation :
    let owner : Nat → Byte := fun c => if c ∈ [8, 9, 24, 25] then 2 else if c < 4 then 0 else if c < 8 then 1 else 0xFF
    { Session.reset with config := zeros 64 ++ (List.range 64).map owner }.locate 0x1B80123456 = some (2, 25, 0x48456) ∧
      tBlock 3 5 2 0 (25 * 2 ^ 28 + 0x48440 / 64) 0 = [3, 0, 0, 0, 0, 0, 0, 0, 5, 2, 0x11, 0x12, 0, 0x90, 1, 0] ∧
      tBlock 3 5 0 1 (25 * 2 ^ 28 + 0x48440 / 64) 0 = [3, 0, 0, 0, 0, 0, 0, 0, 5, 4, 0x11, 0x12, 0, 0x90, 1, 0] := by decide +kernel

/-- The worked tree of chapter 10 (after R401): the last of five leaves rises twice. -/
theorem test_weight_tree (a b c d e : Bytes) :
    let n : Bytes → Bytes → Bytes := fun x y => Crypto.sha512 ([1] ++ x ++ y)
    digestRoot 5 [a, b, c, d, e] = n (n (n a b) (n c d)) e := rfl

/-- The worked resumption of chapter 11 (after R431): record 2 resumes at CODEWORD and closes. -/
theorem test_resumption :
    let l : LifeCycle := { up.lc with
      codeword := 0x0000FF00FFFFFFFF, records := vset (vset (vset up.lc.records 0 0x00F0000F) 1 0x00FC0333) 2 0x0003FF55, running := some 2 }
    let s : State := { up with lc := l }
    codewordSource l.codeword = 2 ∧ l.openRec = some 2 ∧ s.lcState = 0xFF ∧ s.locked = false ∧
      (match exec .transitionStepDone s with
       | .next t => decide (t.lc.record 2 = 0x0033FF55 ∧ t.lc.codeword = 0x0000FFFFFFFFFFFF ∧ t.lcState = 3) &&
           (match exec .transitionStepDone t with
            | .next u => decide (u.lc.record 2 = 0x00F3FF55)
            | _ => false)
       | _ => false) = true := by decide +kernel

/-- The worked overlap of chapter 14 (after R515): CAUSE 0x0802, PRIMARY 1. -/
theorem test_overlap : causeBits [11, 1] = 0x0802 ∧ primaryOf [(11, .quarter), (1, .cold)] = 1 ∧ causeBits [2] = 0x0004 := by
  decide +kernel

/-- Sensor 9 of the worked filter of chapter 14: window, y and level after `n` milliseconds. -/
def sensor9 : Nat → List Int × Int × Nat
  | 0 => (List.replicate 5 1472, 1472, 0)
  | n + 1 =>
    let (w, y, l) := sensor9 n
    let w := pushSample w (if n + 1 = 3 then 2240 else 1536)
    let y := filterStep Options.reset.filterShift.toNat y (medianOf w)
    (w, y, stepLevel (decide (Options.reset.throttleOn.toNat ≤ y)) (decide (y < Options.reset.throttleOff.toNat)) l)

/-- The worked filter of chapter 14 (after R541). -/
theorem test_filter : [1, 2, 3, 4, 7, 13, 14, 15, 22, 28].map (fun n => (medianOf (sensor9 n).1, (sensor9 n).2.1, (sensor9 n).2.2)) =
    [(1472, 1472, 0), (1472, 1472, 0), (1536, 1480, 0), (1536, 1487, 0), (1536, 1502, 0), (1536, 1519, 0), (1536, 1521, 1),
      (1536, 1522, 2), (1536, 1529, 9), (1536, 1529, 15)] := by decide +kernel

/-- The worked reading of chapter 15 (after R558): blocks of a whole tile, and of one half padding. -/
theorem test_blocks : realBlocks 3 2048 1024 = 512 ∧ realBlocks 0 2048 512 = 256 ∧ tilesOf 12288 12800 2048 = 78 := by decide +kernel

end Sys2Proof.Tests
end

section
/-! PROOFS. SCALE_WRITE, VOID_REQUEST, TIME_SET and ROLL_CALL, each from what its effect makes of the state that the
accepted key leaves. -/

namespace Sys2Proof.Machine

/-! ### Which meaning the four commands have -/

theorem exec_scaleWrite (mb : Nat) (s : State) : exec (.scaleWrite mb) s = execScaleWrite mb s := rfl

theorem exec_voidRequest (mb : Nat) (s : State) : exec (.voidRequest mb) s = execVoidRequest mb s := rfl

theorem exec_timeSet (mb : Nat) (s : State) : exec (.timeSet mb) s = execTimeSet mb s := rfl

theorem exec_rollCall (mb : Nat) (s : State) : exec (.rollCall mb) s = execRollCall mb s := rfl

/-! ### The lowest byte of a field -/

/-- The first byte of a little-endian field is its value's lowest (R6). -/
theorem fieldAt_mod_256 (b : Bytes) (o k : Nat) : fieldAt b o (k + 1) % 256 = (u8 b o).toNat := by
  by_cases h : o < b.length
  · have hx := b[o].isLt
    rw [fieldAt, slice, List.drop_eq_getElem_cons h, List.take_succ_cons, List.cons_append, leNat, u8,
      List.getD_eq_getElem _ _ h]
    omega
  · rw [fieldAt, slice, List.drop_eq_nil_of_le (Nat.le_of_not_lt h), u8, List.getD_eq_default _ _ (Nat.le_of_not_lt h)]
    simp [zeros, List.replicate_succ, leNat]

/-- The low four bits of a field are those of its first byte. -/
theorem bitsOf_fieldAt_nibble (b : Bytes) (o k : Nat) : bitsOf (fieldAt b o (k + 1)) 3 0 = (u8 b o).toNat % 16 := by
  have h := fieldAt_mod_256 b o k
  simp only [bitsOf]
  omega

/-! ### Writing a scale record, R154 -/

section
variable (q : ScaleRec) (w0 : Nat) (static : W32) (addr : W64)

@[simp] theorem ScaleRec.written_staticScale : (q.written w0 static addr).staticScale = static := by
  cases h : q.fmtLocked <;> simp [ScaleRec.written, h]

/-- A locked record takes its RW field alone. -/
theorem ScaleRec.written_locked (h : q.fmtLocked = true) : q.written w0 static addr = { q with staticScale := static } := by
  simp [ScaleRec.written, h]

theorem ScaleRec.written_unlocked_scaleAddr (h : q.fmtLocked = false) : (q.written w0 static addr).scaleAddr = addr := by
  simp [ScaleRec.written, h]

theorem ScaleRec.written_unlocked_fmt (h : q.fmtLocked = false) : (q.written w0 static addr).fmt.toNat = bitsOf w0 3 0 := by
  have hlt : bitsOf w0 3 0 < 16 := Nat.mod_lt _ (by decide)
  simp [ScaleRec.written, h, Nat.mod_eq_of_lt hlt]

end

/-! ### Sessions under an accepted key -/

@[simp] theorem State.acceptKey_isOpen (s : State) (r : Req) (i : Nat) :
    ((s.acceptKey r).session i).isOpen = (s.session i).isOpen := by
  obtain ⟨l, hl⟩ := s.acceptKey_session r i
  rw [hl]; rfl

@[simp] theorem State.acceptKey_epochOpen (s : State) (r : Req) (i : Nat) :
    ((s.acceptKey r).session i).epochOpen = (s.session i).epochOpen := by
  obtain ⟨l, hl⟩ := s.acceptKey_session r i
  rw [hl]

theorem State.anySession_eq_false {s : State} {f : Session → Bool} :
    s.anySession f = false ↔ ∀ j < 4, (s.session j).isOpen = true → f (s.session j) = false := by
  simp [State.anySession]

/-! ### The rate correction and the epoch that is due -/

/-- A new rate correction lies within ±200 ppm, and nothing else changes but the count of free values (R292). -/
theorem State.newRate_eq (s : State) : ∃ rate : W32, -858993 ≤ rate.toInt ∧ rate.toInt ≤ 858993 ∧
    s.newRate = { s with draws := s.draws + 1, time := { s.time with rate := rate } } := by
  have hv : (Config.freeWord s.draws).toNat % 1717987 < 1717987 := Nat.mod_lt _ (by decide)
  have hr : (BitVec.ofInt 32 (((Config.freeWord s.draws).toNat % 1717987 : Nat) - 858993)).toInt =
      ((Config.freeWord s.draws).toNat % 1717987 : Nat) - 858993 := by
    rw [BitVec.toInt_ofInt]
    exact Int.bmod_eq_of_le (by omega) (by omega)
  exact ⟨_, by rw [hr]; omega, by rw [hr]; omega, rfl⟩

theorem State.epochDue_of_no_roll {s : State} {i : Nat} (h : (s.session i).roll = none) : s.epochDue i = s := by
  simp [State.epochDue, h]

/-! ### Records, reasons and roll calls -/

section
variable {s : State} {mb : Nat} {r : Req}

/-- The record that a SCALE_WRITE names, as the write leaves it (R154). -/
def Req.scaleWritten (r : Req) (x : Session) : ScaleRec :=
  (Table.get ScaleRec.reset x.scales (fieldAt r.body 0 2)).written (fieldAt r.body 4 4) (u32 r.body 8) (u64 r.body 16)

/-- A SCALE_WRITE whose configuration may stand replaces the record it names (R154, R155). -/
theorem exec_scaleWrite_answered (h : s.Accepts mb 0x0300 .sealed .work r) (hform : bodyForm r.body 24 [(2, 2), (12, 4)] = true)
    (hn : fieldAt r.body 0 2 < 4096) (hz : bitsAt r.body 4 4 31 27 = 0)
    (hw : (r.scaleWritten ((s.acceptKey r).session r.session)).allowed = true) :
    let u := s.acceptKey r
    let x := u.session r.session
    exec (.scaleWrite mb) s =
      answered (u.setSession r.session { x with
        scales := Table.set ScaleRec.reset x.scales (fieldAt r.body 0 2) (r.scaleWritten x) }) r [] := by
  rw [exec_scaleWrite, execScaleWrite]
  unfold Req.scaleWritten at hw ⊢
  exact State.serve_answered h rfl (by simp [hform, Nat.not_le.mpr hn, hz, hw, Resp.of])

/-- VOID_REQUEST gathers SOFTWARE (R224, R486). -/
theorem exec_voidRequest_answered (h : s.Accepts mb 0x0403 .sealed .work r) (hb : r.body = [])
    (hv : ((s.acceptKey r).session r.session).voteGone = false) :
    exec (.voidRequest mb) s = answered ((s.acceptKey r).onSession r.session fun x => x.reason rsSoftware) r [] := by
  rw [exec_voidRequest, execVoidRequest]
  exact State.serve_answered h rfl (by simp [hb, hv, Resp.of])

/-- ROLL_CALL is held when no earlier one is (R321). -/
theorem exec_rollCall_answered (h : s.Accepts mb 0x0401 .sealed .roll r) (hl : r.body.length = 16)
    (hc : ((s.acceptKey r).session r.session).consign ≠ none) (hr : ((s.acceptKey r).session r.session).roll = none)
    (he : (u64 r.body 8).toNat = ((s.acceptKey r).session r.session).epoch.toNat + 1)
    (hp : s.time.now.toNat + ns 1000000 ≤ (u64 r.body 0).toNat) :
    exec (.rollCall mb) s =
      answered ((s.acceptKey r).setSession r.session
        { (s.acceptKey r).session r.session with roll := some (RollCall.new (u64 r.body 0) (u64 r.body 8)) }) r [] := by
  rw [exec_rollCall, execRollCall]
  have hnow : ¬ (u64 r.body 0).toNat < (s.acceptKey r).now + ns 1000000 := by simpa [State.now] using hp
  exact State.serve_answered h rfl (by simp [State.epochDue_of_no_roll hr, hl, hc, hr, he, hnow, Resp.of])

/-! ### TIME_SET, R292 and R293 -/

/-- Rank 0 of a consignment sets the time while no session of its module has an epoch open (R293). Assumption log 57
(DEDUCED). -/
def State.SetsTime (s : State) (r : Req) : Prop :=
  r.body.length = 8 ∧ ((s.acceptKey r).session r.session).consign ≠ none ∧ ((s.acceptKey r).session r.session).rank = 0 ∧
    ∀ j < 4, (s.session j).isOpen = true → (s.session j).epochOpen = false

/-- SYNC_STATE after TIME_SET: LOCKED when the ring serves the session. Assumption log 57 (DEDUCED). -/
def State.syncSet (s : State) (r : Req) : Sync :=
  if (s.acceptKey r).ringSession = some r.session then .locked else s.time.sync

/-- What TIME_SET makes of time when it is not refused: a step or a new rate, then the lock. -/
theorem exec_timeSet_answered (h : s.Accepts mb 0x0400 .sealed .work r) (hs : s.SetsTime r) :
    let u := s.acceptKey r
    let v := if s.time.sync = .acquiring then { u with time := s.time.stepTo (u64 r.body 0) } else u.newRate
    exec (.timeSet mb) s = answered { v with
      time := { v.time with
        sync := if v.ringSession = some r.session then .locked else v.time.sync } } r [] := by
  obtain ⟨hl, hc, hk, he⟩ := hs
  have hany : ((s.acceptKey r).anySession fun y => y.epochOpen) = false :=
    State.anySession_eq_false.mpr fun j hj ho => by simpa using he j hj (by simpa using ho)
  rw [exec_timeSet, execTimeSet]
  exact State.serve_answered h rfl (by simp [hl, hc, hk, hany, Resp.of])

/-- Postmark time steps, and never back, while it is ACQUIRING (R292, R293). -/
theorem exec_timeSet_acquiring (h : s.Accepts mb 0x0400 .sealed .work r) (hs : s.SetsTime r) (ha : s.time.sync = .acquiring) :
    exec (.timeSet mb) s = answered { s.acceptKey r with time :=
      if s.time.now.toNat < (u64 r.body 0).toNat then
        { s.time with now := u64 r.body 0, fraction := 0, sync := s.syncSet r }
      else { s.time with sync := s.syncSet r } } r [] := by
  rw [exec_timeSet_answered h hs, if_pos ha, TimeBase.stepTo]
  split <;> rfl

/-- Outside ACQUIRING the time set is approached at a bounded rate (R292). -/
theorem exec_timeSet_slews (h : s.Accepts mb 0x0400 .sealed .work r) (hs : s.SetsTime r) (ha : s.time.sync ≠ .acquiring) :
    ∃ rate : W32, -858993 ≤ rate.toInt ∧ rate.toInt ≤ 858993 ∧
      exec (.timeSet mb) s = answered { s.acceptKey r with
        draws := s.draws + 1, time := { s.time with rate := rate, sync := s.syncSet r } } r [] := by
  obtain ⟨rate, hlo, hhi, hrate⟩ := (s.acceptKey r).newRate_eq
  refine ⟨rate, hlo, hhi, ?_⟩
  rw [exec_timeSet_answered h hs, if_neg ha, hrate, State.acceptKey_draws, State.acceptKey_time]
  rfl

end

/-- Settles O12: each command's effect on the accepted state, and what a record's write does as its lock stands. -/
theorem recordsTimeAndRollCallAreCommanded : Obligations.RecordsTimeAndRollCallAreCommanded := by
  unfold Obligations.RecordsTimeAndRollCallAreCommanded
  refine ⟨fun s mb r => ⟨?scale, exec_voidRequest_answered⟩, fun s mb r => ⟨?time, exec_rollCall_answered⟩⟩
  case scale =>
    intro n q w h hform hn hz hw
    refine ⟨exec_scaleWrite_answered h hform hn hz hw, q.written_staticScale _ _ _, q.written_locked _ _ _, fun hq =>
      ⟨q.written_unlocked_scaleAddr _ _ _ hq, ?_⟩⟩
    rw [q.written_unlocked_fmt _ _ _ hq, bitsOf_fieldAt_nibble]
  case time =>
    intro h hl hc hk he sync
    have hs : s.SetsTime r := ⟨hl, hc, hk, he⟩
    exact ⟨exec_timeSet_acquiring h hs, exec_timeSet_slews h hs⟩

end Sys2Proof.Machine
end

section
/-! PROOFS. Mailbox commands that read, load programs, and start and stop contexts: what each makes of the state that the
accepted key leaves. -/

namespace Sys2Proof.Machine

section
variable {s : State} {mb : Nat} {r : Req}

/-! ### Reads, R98, R247, R295, R484 -/

@[simp] theorem State.acceptKey_port (s : State) (r : Req) (p : Nat) : (s.acceptKey r).port p = s.port p := by
  rw [State.port, State.acceptKey_ports]; rfl

/-- No record read shows the command keys. -/
@[simp] theorem State.acceptKey_record (s : State) (r : Req) (i kind n : Nat) :
    (s.acceptKey r).record i kind n = s.record i kind n := by
  obtain ⟨l, hl⟩ := s.acceptKey_session r i
  unfold State.record
  simp only [hl, State.acceptKey_port]
  rfl

@[simp] theorem State.acceptKey_tally (s : State) (r : Req) (n : Nat) : (s.acceptKey r).tally n = s.tally n := by
  rw [State.tally, State.acceptKey_tallies]; rfl

@[simp] theorem State.acceptKey_lcStatusBytes (s : State) (r : Req) : (s.acceptKey r).lcStatusBytes = s.lcStatusBytes := by
  simp only [State.lcStatusBytes, State.lcState, State.acceptKey_lc]

theorem exec_timeRead_answered (h : s.Accepts mb 0x0022 .either .reads r) (hb : r.body = []) :
    exec (.timeRead mb) s =
      answered (s.acceptKey r) r (slice (s.time.words (BitVec.ofNat 32 (s.time.now.toNat / 2 ^ 32))) 0 32) :=
  State.serve_answered h rfl (by simp [hb, Resp.ok, State.now])

theorem exec_portStatus0_answered (h : s.Accepts mb 0x0021 .either .reads r) (hl : r.body.length = 1)
    (hp : (u8 r.body 0).toNat < 18) :
    exec (.portStatus0 mb) s = answered (s.acceptKey r) r (s.port (u8 r.body 0).toNat).word0 :=
  State.serve_answered h rfl (by simp [hl, Nat.not_le.mpr hp, Resp.ok])

theorem exec_lcStatus_answered (h : s.Accepts mb 0x0032 .boot .work r) (hb : r.body = []) :
    exec (.lcStatus mb) s = answered (s.acceptKey r) r s.lcStatusBytes :=
  State.serve_answered h rfl (by simp [hb, bodyForm, Resp.ok])

/-- A body of `n` bytes one range of which is zero. -/
theorem bodyForm_one {b : Bytes} {n o k : Nat} (hl : b.length = n) (hz : zeroRange b o k = true) :
    bodyForm b n [(o, k)] = true := by simp [bodyForm, hl, hz]

theorem zeroRange_one {b : Bytes} {o : Nat} (h : u8 b o = 0) : zeroRange b o 1 = true := by
  unfold zeroRange slice
  rw [u8, List.getD_eq_getElem?_getD] at h
  cases hd : b.drop o with
  | nil => simp [zeros]
  | cons x l =>
    have hx : b[o]? = some x := by rw [← List.head?_drop, hd]; rfl
    rw [hx] at h
    simpa [zeros] using h

theorem exec_recordRead_answered {b : Bytes} (h : s.Accepts mb 0x0500 .sealed .reads r) (hl : r.body.length = 4)
    (hz : u8 r.body 1 = 0) (hr : s.record r.session (u8 r.body 0).toNat (fieldAt r.body 2 2) = some b) :
    exec (.recordRead mb) s = answered (s.acceptKey r) r b :=
  State.serve_answered h rfl (by simp [bodyForm_one hl (zeroRange_one hz), hr, Resp.ok])

theorem exec_tallyRead_answered (h : s.Accepts mb 0x0501 .sealed .reads r) (hl : r.body.length = 4)
    (h1 : 1 ≤ fieldAt r.body 2 2) (hn : fieldAt r.body 2 2 ≤ 1024)
    (hr : fieldAt r.body 0 2 + fieldAt r.body 2 2 ≤ (s.session r.session).tallyCount) :
    exec (.tallyRead mb) s =
      answered (s.acceptKey r) r
        ((List.range (fieldAt r.body 2 2)).map fun k =>
          w32 (s.tally ((s.session r.session).tallyBase + fieldAt r.body 0 2 + k)).value).flatten := by
  obtain ⟨l, hk⟩ := s.acceptKey_session r r.session
  have hbase : ((s.acceptKey r).session r.session).tallyBase = (s.session r.session).tallyBase := by rw [hk]; rfl
  have hcount : ((s.acceptKey r).session r.session).tallyCount = (s.session r.session).tallyCount := by rw [hk]; rfl
  refine State.serve_answered h rfl ?_
  simp [hbase, hcount, hl, Nat.ne_of_gt h1, Nat.not_lt.mpr hn, Nat.not_lt.mpr hr, Resp.ok]

/-! ### Logs and backup registers, R515, R524, R540 to R542 -/

/-- A command with an empty body is answered with what it reads of the accepted state. -/
theorem State.readOut_answered {code : Nat} {f : State → Bytes} (h : s.Accepts mb code .host .work r) (hb : r.body = []) :
    Host.Outcome.next (s.readOut mb code f) = answered (s.acceptKey r) r (f (s.acceptKey r)) :=
  State.serve_answered h rfl (by simp [hb, Resp.ok])

theorem exec_resetLogRead_answered (h : s.Accepts mb 0x0802 .host .work r) (hb : r.body = []) :
    exec (.resetLogRead mb) s = answered (s.acceptKey r) r s.aon.resetLogBytes :=
  (State.readOut_answered h hb).trans (by rw [State.acceptKey_aon])

theorem exec_watchRead_answered (h : s.Accepts mb 0x0803 .host .work r) (hb : r.body = []) :
    exec (.watchRead mb) s = answered (s.acceptKey r) r s.watch.record :=
  (State.readOut_answered h hb).trans (by rw [State.acceptKey_watch])

theorem exec_watchLogRead_answered (h : s.Accepts mb 0x0804 .host .work r) (hb : r.body = []) :
    exec (.watchLogRead mb) s = answered (s.acceptKey r) r s.aon.watchLogBytes :=
  (State.readOut_answered h hb).trans (by rw [State.acceptKey_aon])

theorem exec_backupRead_answered (h : s.Accepts mb 0x0805 .host .work r) (hb : r.body = []) :
    exec (.backupRead mb) s = answered (s.acceptKey r) r s.aon.backupBytes :=
  (State.readOut_answered h hb).trans (by rw [State.acceptKey_aon])

theorem exec_backupWrite_answered (h : s.Accepts mb 0x0806 .host .work r) (hl : r.body.length = 8)
    (hz : zeroRange r.body 1 3 = true) (h8 : 8 ≤ (u8 r.body 0).toNat) (h15 : (u8 r.body 0).toNat ≤ 15) :
    exec (.backupWrite mb) s =
      answered { s.acceptKey r with aon := { s.aon with
        hostBackup := vset s.aon.hostBackup ((u8 r.body 0).toNat - 8) (u32 r.body 4) } } r [] :=
  State.serve_answered h rfl
    (by simp [bodyForm_one hl hz, Nat.not_lt.mpr h8, Nat.not_lt.mpr h15, Resp.of])

theorem exec_ledgerClear_answered (h : s.Accepts mb 0x0002 .boot .work r) (hb : r.body = []) :
    exec (.ledgerClear mb) s = answered { s.acceptKey r with aon := { s.aon with fallback := 0 } } r [] :=
  State.serve_answered h rfl (by simp [hb, bodyForm, Resp.of])

/-! ### Loads, R86 to R88, R193, R194, R397, R485 -/

theorem firstBad_eq_none {α : Type} {f : α → Bool} {l : List α} (h : ∀ x ∈ l, f x = true) : firstBad f l = none := by
  simp [firstBad, List.takeWhile_eq_self_iff.mpr h]

/-- The first entry that fails its check is the one that all before it pass. -/
theorem firstBad_eq_some {α : Type} {f : α → Bool} {l : List α} {k : Nat} (d : α) (hk : k < l.length)
    (hg : ∀ j < k, f (l.getD j d) = true) (hb : f (l.getD k d) = false) : firstBad f l = some k := by
  have hlen : (l.takeWhile f).length = k := by
    induction l generalizing k with
    | nil => simp at hk
    | cons x l ih =>
      cases k with
      | zero => simpa using hb
      | succ k =>
        have hx : f x = true := by simpa using hg 0 (Nat.succ_pos k)
        rw [List.takeWhile_cons_of_pos hx, List.length_cons,
          ih (by simpa using hk) (fun j hj => by simpa using hg (j + 1) (Nat.succ_lt_succ hj)) (by simpa using hb)]
  simp [firstBad, hlen, hk]

/-- What LIST_LOAD checks before it reads (R87, R88). -/
def Req.listChecks (r : Req) (x : Session) : Prop :=
  bodyForm r.body 16 [(1, 3)] = true ∧ 1 ≤ fieldAt r.body 4 4 ∧ fieldAt r.body 4 4 ≤ 65536 ∧ fieldAt r.body 8 8 % 128 = 0 ∧
    x.list? (u8 r.body 0).toNat = none ∧ x.loaded + fieldAt r.body 4 4 ≤ x.listRoom ∧
    fieldAt r.body 8 8 + 128 * fieldAt r.body 4 4 ≤ x.hbmBytes

section
variable {u v : State} {raw : Bytes} (hc : r.listChecks (u.session r.session))
  (hq : u.readFor r.session (fieldAt r.body 8 8) (128 * fieldAt r.body 4 4) = (v, stOk, raw))
include hc hq

/-- A list one of whose entries fails its check is refused, that entry in DETAIL. -/
theorem State.loadList_bad {k : Nat} (hb : firstBad (v.descOk r.session) (chunksOf 128 raw) = some k) :
    u.loadList r = (v, some ⟨stRefused, k, []⟩) := by
  obtain ⟨hform, h1, hn, ha, hslot, hroom, hbytes⟩ := hc
  unfold State.loadList
  dsimp only
  rw [if_neg (by simp [hform, Nat.ne_of_gt h1, hn, ha]), if_neg (by simp [hslot, hroom]), if_neg (Nat.not_lt.mpr hbytes), hq]
  dsimp only
  rw [if_neg (not_not_intro rfl), hb]

/-- A list that passes every check is kept as it was read. -/
theorem State.loadList_kept (hok : ∀ d ∈ chunksOf 128 raw, v.descOk r.session d = true)
    (hd : Crypto.sha512 raw ∈ (v.session r.session).programs) :
    let y := v.session r.session
    u.loadList r =
      (v.setSession r.session { y.lockRecords (chunksOf 128 raw) with
          lists := y.lists ++ [((u8 r.body 0).toNat, ⟨chunksOf 128 raw, Crypto.sha512 raw⟩)] },
        Resp.ok (Crypto.sha512 raw)) := by
  obtain ⟨hform, h1, hn, ha, hslot, hroom, hbytes⟩ := hc
  unfold State.loadList
  dsimp only
  rw [if_neg (by simp [hform, Nat.ne_of_gt h1, hn, ha]), if_neg (by simp [hslot, hroom]), if_neg (Nat.not_lt.mpr hbytes), hq]
  dsimp only
  rw [if_neg (not_not_intro rfl), firstBad_eq_none hok]
  dsimp only
  rw [if_neg (by simpa using hd)]
  rfl

end

/-- What KERNEL_LOAD checks before it reads (R193, R485). -/
def Req.kernelChecks (r : Req) (x : Session) : Prop :=
  bodyForm r.body 16 [(4, 4)] = true ∧ 1 ≤ fieldAt r.body 0 4 ∧ fieldAt r.body 0 4 ≤ 1023 ∧ x.kernel = none ∧
    fieldAt r.body 8 8 + 64 * fieldAt r.body 0 4 ≤ x.hbmBytes

/-- A kernel table that passes every check is kept. -/
theorem State.loadKernel_kept {u v : State} {raw : Bytes} (hc : r.kernelChecks (u.session r.session))
    (hq : u.readFor r.session (fieldAt r.body 8 8) (64 * fieldAt r.body 0 4) = (v, stOk, raw))
    (hok : ∀ e ∈ chunksOf 64 raw, entryOk e = true) (hd : (v.session r.session).kernelAllowed = Crypto.sha512 raw) :
    u.loadKernel r =
      (v.setSession r.session { v.session r.session with kernel := some ⟨chunksOf 64 raw, Crypto.sha512 raw⟩ },
        Resp.ok (Crypto.sha512 raw)) := by
  obtain ⟨hform, h1, hn, hk, hbytes⟩ := hc
  unfold State.loadKernel
  rw [if_neg (by simp [hform, Nat.ne_of_gt h1, hn, hk, hbytes]), hq]
  dsimp only
  rw [if_neg (not_not_intro rfl), firstBad_eq_none hok]
  dsimp only
  rw [if_neg (not_not_intro hd)]
  rfl

theorem exec_listUnload_answered (h : s.Accepts mb 0x0201 .sealed .work r) (hl : r.body.length = 1)
    (hc : ∀ c < 4, (((s.acceptKey r).session r.session).ctx c).live = false)
    (hs : ((s.acceptKey r).session r.session).list? (u8 r.body 0).toNat ≠ none) :
    exec (.listUnload mb) s =
      answered ((s.acceptKey r).setSession r.session
        { (s.acceptKey r).session r.session with
          lists := ((s.acceptKey r).session r.session).lists.filter fun l => l.1 ≠ (u8 r.body 0).toNat }) r [] :=
  State.serve_answered h rfl (if_neg (by simpa [hl] using ⟨hc, hs⟩))

/-! ### Contexts, R90, R97 to R99, R592 -/

/-- A context started on a descriptor, its record cleared (R90, R98, R99). -/
def Context.startedAt (k : Context) (slot : Byte) (index : Nat) (d : Bytes) : Context :=
  { k with slot := slot, index := BitVec.ofNat 17 index, state := if dWaitEn d then .waiting else .running,
           status := stOk, lateCount := 0, completed := 0, waitMet := false }

/-- CONTEXT_START, once its checks have passed. -/
theorem State.startContext_started {u : State} {d : Bytes} (hl : r.body.length = 4) (hc : (u8 r.body 0).toNat < 4)
    (hk : ((u.session r.session).ctx (u8 r.body 0).toNat).live = false) (hw : (u.session r.session).weightsDone = true)
    (hd : (u.session r.session).descAt? (u8 r.body 1).toNat (fieldAt r.body 2 2) = some d) :
    u.startContext r =
      (u.setSession r.session ((u.session r.session).firstStep.setCtx (u8 r.body 0).toNat
        (((u.session r.session).ctx (u8 r.body 0).toNat).startedAt (u8 r.body 1) (fieldAt r.body 2 2) d)), Resp.of stOk) := by
  generalize hx : u.session r.session = x at *
  have hlists : x.firstStep.lists = x.lists := by unfold Session.firstStep; split <;> rfl
  have hctxs : x.firstStep.ctxs = x.ctxs := by unfold Session.firstStep; split <;> rfl
  have hd' : ∀ k, (x.firstStep.setCtx (u8 r.body 0).toNat k).descAt? (u8 r.body 1).toNat (fieldAt r.body 2 2) = some d := by
    intro k
    rw [← hd]
    simp only [Session.descAt?, Session.list?, Session.setCtx, hlists]
  have hk' : x.firstStep.ctx (u8 r.body 0).toNat = x.ctx (u8 r.body 0).toNat := by rw [Session.ctx, hctxs]; rfl
  unfold State.startContext
  simp [hl, Nat.not_le.mpr hc, hk, hx, hd, hw, Session.moveHead, Session.onCtx, hd', hk', hc, headState,
    Context.startedAt]

theorem exec_contextStop_answered (h : s.Accepts mb 0x0211 .sealed .work r) (hl : r.body.length = 1)
    (hc : (u8 r.body 0).toNat < 4) :
    exec (.contextStop mb) s =
      answered ((s.acceptKey r).onSession r.session fun x => x.stopCtx (u8 r.body 0).toNat stOk) r [] :=
  State.serve_answered h rfl (by simp [hl, Nat.not_le.mpr hc, Resp.of])

end

/-- A live context has not stopped. -/
theorem Context.live_not_stopped {k : Context} (h : k.live = true) : k.state ≠ .stopped := by
  intro hs
  simp [Context.live, hs] at h

/-- A live context stops at its head, and CONTEXT_STOP is gathered (R97, R224). -/
theorem Session.stopCtx_live {x : Session} {c : Nat} (st : Status) (h : (x.ctx c).live = true) :
    x.stopCtx c st =
      { x.setCtx c { x.ctx c with state := .stopped, status := st, waitMet := false } with
        voteReasons := x.voteReasons ||| rsContextStop } := by
  unfold Session.stopCtx Session.stopCtxAt
  rw [if_pos h, if_neg (Context.live_not_stopped h)]
  simp [Session.reason, Session.onCtx, Session.setCtx]

/-- Settles O1: each read shows what the accepted key leaves as it was, and each write its one field. -/
theorem stateAndLogsRead : Obligations.StateAndLogsRead := by
  unfold Obligations.StateAndLogsRead
  exact ⟨fun s mb r => ⟨exec_timeRead_answered, exec_portStatus0_answered, exec_lcStatus_answered,
      fun b => exec_recordRead_answered, exec_tallyRead_answered⟩,
    fun s mb r => ⟨exec_resetLogRead_answered, exec_watchRead_answered, exec_watchLogRead_answered,
      exec_backupRead_answered, exec_backupWrite_answered, exec_ledgerClear_answered⟩⟩

/-- Settles O10: the effect of each load after its read, and which entry `firstBad` names. -/
theorem programsLoad : Obligations.ProgramsLoad := by
  unfold Obligations.ProgramsLoad
  intro s mb r u x
  refine ⟨?list, ?unload, ?kernel⟩
  case list =>
    intro n a slot q y ds h hform h1 hn ha hslot hroom hbytes hok
    have hread : u.readFor r.session a (128 * n) = (q.1, stOk, q.2.2) := by rw [← hok]
    have hc : r.listChecks x := ⟨hform, h1, hn, ha, hslot, hroom, hbytes⟩
    refine ⟨fun hds hdig => State.serve_answered h rfl (State.loadList_kept hc hread hds hdig), fun k hk hg hb => ?_⟩
    have hbad := State.loadList_bad hc hread (firstBad_eq_some [] hk hg hb)
    exact congrArg Host.Outcome.next (State.serve_accepts h rfl hbad)
  case unload =>
    intro slot h hl hc hs
    exact exec_listUnload_answered h hl hc hs
  case kernel =>
    intro n a q y h hform h1 hn hk hbytes hok hes hd
    have hread : u.readFor r.session a (64 * n) = (q.1, stOk, q.2.2) := by rw [← hok]
    exact State.serve_answered h rfl (State.loadKernel_kept ⟨hform, h1, hn, hk, hbytes⟩ hread hes hd)

/-- Settles O11: the started context, the first step of a READY session, and the stop of a live head. -/
theorem contextsStartAndStop : Obligations.ContextsStartAndStop := by
  unfold Obligations.ContextsStartAndStop
  intro s mb r u x c k
  refine ⟨?start, ?stop⟩
  case start =>
    intro d k' h hl hc hk hw hd
    have hs : exec (.contextStart mb) s = answered (u.setSession r.session (x.firstStep.setCtx c k')) r [] :=
      State.serve_answered h rfl (State.startContext_started hl hc hk hw hd)
    refine ⟨fun hx => ?_, fun hx => ?_⟩
    · rw [hs, Session.firstStep, if_neg hx]
    · rw [hs, Session.firstStep, if_pos hx]; rfl
  case stop =>
    intro h hl hc
    have hs := exec_contextStop_answered h hl hc
    refine ⟨fun hk => ?_, fun hk => ?_⟩
    · rw [hs, State.onSession, Session.stopCtx_live stOk hk]
    · rw [hs, State.onSession, Session.stopCtx, if_neg (by simpa using hk)]

end Sys2Proof.Machine
end

section
/-! PROOFS. Dispatch: what the start, the launch and the completion of a descriptor change, and the commands of the command
cores that rest on them. -/

namespace Sys2Proof.Machine

/-! ### Descriptors in progress -/

theorem Session.op?_some {x : Session} {c q : Nat} {p : Op} (h : x.op? c q = some p) : p.ctx = c ∧ p.seq = q ∧ p ∈ x.ops := by
  have hp : p.ctx = c ∧ p.seq = q := by simpa using List.find?_some h
  exact ⟨hp.1, hp.2, List.mem_of_find?_eq_some h⟩

/-- Replacing a descriptor in progress: its name then finds what replaced it. -/
theorem Session.op?_setOp {x : Session} {o p : Op} (h : x.op? o.ctx o.seq = some p) :
    (x.setOp o).op? o.ctx o.seq = some o := by
  unfold Session.op? Session.setOp at *
  dsimp only at *
  generalize x.ops = l at h
  induction l with
  | nil => simp at h
  | cons a l ih =>
    by_cases ha : a.ctx = o.ctx ∧ a.seq = o.seq
    · simp [ha]
    · rw [List.find?_cons_of_neg (by simpa using ha)] at h
      rw [List.map_cons, if_neg ha, List.find?_cons_of_neg (by simpa using ha)]
      exact ih h

/-- A session that is not one of the four has nothing in progress. -/
theorem State.op?_lt {s : State} {o : OpRef} {p : Op} (h : s.op? o = some p) : o.session < 4 := by
  by_contra hi
  rw [State.op?, State.session, vget_beyond _ _ (Nat.le_of_not_lt hi)] at h
  simp [Session.op?, Session.reset] at h

/-- A launched descriptor, as its parts say it. -/
theorem State.launched_some {s : State} {o : OpRef} {c : Nat} {p : Op} (h : s.launched o c = some p) :
    s.op? o = some p ∧ p.code = c ∧ p.stage = .launched ∧ s.runsIn (opDomain c) = true := by
  unfold State.launched at h
  split at h
  · rename_i hr
    obtain ⟨hp, hc⟩ := Option.filter_eq_some_iff.mp h
    obtain ⟨hcode, hstage⟩ : p.code = c ∧ p.stage = .launched := by simpa using hc
    exact ⟨hp, hcode, hstage, hr⟩
  · cases h

theorem State.launched_lt {s : State} {o : OpRef} {c : Nat} {p : Op} (h : s.launched o c = some p) : o.session < 4 :=
  State.op?_lt (State.launched_some h).1

/-! ### Launching, R84, R149, R214 -/

/-- A fold of steps that change the counters alone. -/
theorem State.foldl_perf {β : Type} {f : State → β → State} (hf : ∀ (s : State) (b : β), ∃ p, f s b = { s with perf := p })
    (l : List β) (s : State) : ∃ p, l.foldl f s = { s with perf := p } := by
  induction l generalizing s with
  | nil => exact ⟨s.perf, rfl⟩
  | cons b l ih =>
    obtain ⟨p, hp⟩ := hf s b
    obtain ⟨q, hq⟩ := ih (f s b)
    exact ⟨q, by rw [List.foldl_cons, hq, hp]⟩

theorem State.addSlots_perf (s : State) (q : Nat) (l : List (Nat × Nat)) : ∃ p, s.addSlots q l = { s with perf := p } :=
  ⟨_, rfl⟩

/-- A state whose session `i` is put back as it is. -/
theorem State.sessions_self (s : State) (i : Nat) : vset s.sessions i (s.session i) = s.sessions := vset_vget _ _ _

/-- An array operation that launches moves its piece's clock and counts slots; nothing else changes (R82, R555, R556). -/
theorem State.wakePiece_eq (s : State) (i : Nat) (o : Op) : ∃ p q,
    s.wakePiece i o = { s with perf := p, sessions := vset s.sessions i { s.session i with piece := q } } := by
  unfold State.wakePiece
  dsimp only
  split
  · obtain ⟨p, hp⟩ := State.foldl_perf (fun t k => t.addSlots_perf k [(11, s.idleClocks (s.session i))])
      (s.session i).dieList s
    rw [hp]
    exact ⟨p, _, rfl⟩
  · split
    · obtain ⟨p, hp⟩ := State.foldl_perf (fun t k => t.addSlots_perf k
        [(2, 512 * (s.pieceClock (s.session i) - (s.session i).piece.operandsAt)),
          (10, s.pieceClock (s.session i) - (s.session i).piece.operandsAt)]) (s.session i).dieList s
      rw [hp]
      exact ⟨p, _, rfl⟩
    · exact ⟨s.perf, (s.session i).piece, by rw [s.sessions_self]⟩

/-- A CKPT_EXPORT takes its identifier and salt; any other descriptor takes nothing (R374). -/
theorem State.takeObjectId_eq (s : State) (i : Nat) (o : Op) : ∃ d m z,
    s.takeObjectId i o =
      ({ s with draws := d, sessions := vset s.sessions i { s.session i with mem := m } }, { o with sizes := z }) := by
  unfold State.takeObjectId
  split
  · exact ⟨_, _, _, rfl⟩
  · exact ⟨s.draws, (s.session i).mem, o.sizes, by rw [s.sessions_self]⟩

/-- What a descriptor of a session is once it has launched: what it takes stands from then on. -/
def Session.launchOp (x : Session) (o : Op) (now : W64) (sizes : List (List Nat)) : Op :=
  { o with stage := .launched, launchedAt := now, step := x.sealRec.step, attempt := x.sealRec.attempt, sizes := sizes,
           copies := x.resolution, scales := x.workScales o.desc }

/-- A launch replaces the descriptor, and may move its piece's clock and the number of checkpoints written out. -/
theorem State.launch_eq (s : State) (i : Nat) (o : Op) (hi : i < 4) : ∃ p d q m z,
    s.launch i o = { s with
      perf := p, draws := d
      sessions := vset s.sessions i
        { (s.session i).setOp ((s.session i).launchOp o s.time.now z) with piece := q, mem := m } } := by
  obtain ⟨d, m, z, ht⟩ := s.takeObjectId_eq i o
  unfold State.launch
  rw [ht]
  dsimp only
  obtain ⟨p, q, hw⟩ := State.wakePiece_eq
    { s with draws := d, sessions := vset s.sessions i { s.session i with mem := m } } i { o with sizes := z }
  rw [hw]
  refine ⟨p, d, q, m, z, ?_⟩
  simp only [State.onSession, State.setSession, State.session, vget_vset_same _ _ _ hi, vset_vset]
  rfl

section
variable {s : State} {o : OpRef} {p : Op}

theorem State.launch_op? (h : s.op? o = some p) :
    ∃ z, (s.launch o.session p).op? o = some ((s.session o.session).launchOp p s.time.now z) := by
  have hi := State.op?_lt h
  obtain ⟨pf, d, q, m, z, hl⟩ := s.launch_eq o.session p hi
  obtain ⟨hc, hq, _⟩ := Session.op?_some h
  refine ⟨z, ?_⟩
  rw [hl, State.op?, State.session, vget_vset_same _ _ _ hi]
  rw [State.op?, ← hc, ← hq] at h
  have := Session.op?_setOp (o := (s.session o.session).launchOp p s.time.now z) h
  rwa [← hc, ← hq]

theorem State.launch_session (s : State) {i : Nat} (p : Op) (hi : i < 4) : ∃ q m z,
    (s.launch i p).session i =
      { (s.session i).setOp ((s.session i).launchOp p s.time.now z) with piece := q, mem := m } := by
  obtain ⟨pf, d, q, m, z, hl⟩ := s.launch_eq i p hi
  exact ⟨q, m, z, by rw [hl, State.session, vget_vset_same _ _ _ hi]⟩

theorem State.launch_ctx (s : State) {i : Nat} (p : Op) (c : Nat) (hi : i < 4) :
    ((s.launch i p).session i).ctx c = (s.session i).ctx c := by
  obtain ⟨q, m, z, hl⟩ := s.launch_session p hi
  rw [hl]; rfl

theorem State.launch_other (s : State) {i j : Nat} (p : Op) (hi : i < 4) (hj : j ≠ i) :
    (s.launch i p).session j = s.session j := by
  obtain ⟨pf, d, q, m, z, hl⟩ := s.launch_eq i p hi
  rw [hl]; exact vget_vset_other _ _ _ (Ne.symm hj)

theorem State.launch_tallies (s : State) {i : Nat} (p : Op) (hi : i < 4) : (s.launch i p).tallies = s.tallies := by
  obtain ⟨pf, d, q, m, z, hl⟩ := s.launch_eq i p hi
  rw [hl]

theorem State.launch_channels (s : State) {i : Nat} (p : Op) (hi : i < 4) : (s.launch i p).channels = s.channels := by
  obtain ⟨pf, d, q, m, z, hl⟩ := s.launch_eq i p hi
  rw [hl]

end

/-! ### Starting, R91 to R93 -/

/-- The descriptor that a context's head puts in progress. -/
def Session.startedOp (x : Session) (c : Nat) (d : Bytes) (now : W64) : Op :=
  { ctx := c, seq := (x.ctx c).nextSeq, slot := (x.ctx c).slot.toNat, index := (x.ctx c).index.toNat, desc := d,
    stage := .started, readyAt := now, launchedAt := now, status := stOk, step := x.sealRec.step,
    attempt := x.sealRec.attempt, scales := [], copies := [], sources := [], sizes := [], progress := 0,
    dropped := false, taint := false, feeds := none }

/-- The session with that descriptor in progress: a STEP_SEAL begins its seal, and the head moves on but for END and
LINK. -/
def Session.startHead (x : Session) (c : Nat) (d : Bytes) (now : W64) : Session :=
  let y := { x.onCtx c (fun k => { k with nextSeq := k.nextSeq + 1 }) with ops := x.ops ++ [x.startedOp c d now] }
  let y := if dOpcode d = opSeal then y.beginSeal (x.startedOp c d now) else y
  if dOpcode d = opEnd ∨ dOpcode d = opLink then y else y.moveHead c (x.ctx c).slot.toNat ((x.ctx c).index.toNat + 1)

section
variable (x : Session) (c : Nat) (d : Bytes) (now : W64)

@[simp] theorem Session.startHead_ops : (x.startHead c d now).ops = x.ops ++ [x.startedOp c d now] := by
  unfold Session.startHead Session.beginSeal Session.moveHead Session.onCtx Session.setCtx
  dsimp only
  split <;> split <;> rfl

/-- Starting a head leaves what a launch reads as it was. -/
theorem Session.startHead_launchOp (o : Op) (t : W64) (z : List (List Nat)) :
    (x.startHead c d now).launchOp o t z = x.launchOp o t z := by
  unfold Session.startHead Session.beginSeal Session.moveHead Session.onCtx Session.setCtx
  dsimp only
  split <;> split <;> rfl

theorem Session.startHead_seal (h : dOpcode d = opSeal) : (x.startHead c d now).sealRec.sealing = true := by
  unfold Session.startHead Session.moveHead Session.onCtx Session.setCtx
  dsimp only
  rw [if_pos h]
  split <;> rfl

/-- The context's number goes up by one, and its head by one but for END and LINK. -/
theorem Session.startHead_ctx (hc : c < 4) :
    ((x.startHead c d now).ctx c).nextSeq = (x.ctx c).nextSeq + 1 ∧
      ((x.startHead c d now).ctx c).index =
        (if dOpcode d = opEnd ∨ dOpcode d = opLink then (x.ctx c).index else (x.ctx c).index + 1) := by
  have hb : ∀ (y : Session) (o : Op), (if dOpcode d = opSeal then y.beginSeal o else y).ctxs = y.ctxs := by
    intro y o; split <;> rfl
  have hx : ∀ k : Context, vget Context.reset (vset x.ctxs c k) c = k := fun k => vget_vset_same _ _ _ hc
  unfold Session.startHead
  dsimp only
  split
  · simp only [Session.ctx, hb, Session.onCtx, Session.setCtx, hx, and_self]
  · simp only [Session.moveHead, Session.ctx, Session.onCtx, Session.setCtx, hb, hx, vset_vset, true_and]
    exact BitVec.eq_of_toNat_eq (by simp)

end

/-- Starting a head, before an untimed descriptor launches: beside the session, its place in a Pigeonhole's queue and the
time since which nothing has happened. -/
theorem State.startOp_eq (s : State) (i c : Nat) (d : Bytes) : ∃ ds pw,
    let x := s.session i
    let u : State := { s with sessions := vset s.sessions i (x.startHead c d s.time.now), dies := ds, power := pw }
    s.startOp i c d = if dTimed d then u else u.launch i (x.startedOp c d s.time.now) := by
  refine ⟨if opClass (dOpcode d) = 2 then vset s.dies ((s.session i).top + bitsAt d 42 1 1 0)
      { vget Die.reset s.dies ((s.session i).top + bitsAt d 42 1 1 0) with
        phQueue := (vget Die.reset s.dies ((s.session i).top + bitsAt d 42 1 1 0)).phQueue ++
          [⟨i, c, ((s.session i).ctx c).nextSeq⟩] } else s.dies, { s.power with idleSince := s.time.now }, ?_⟩
  have htop : ((s.session i).startHead c d s.time.now).top = (s.session i).top := by
    unfold Session.startHead Session.beginSeal Session.moveHead Session.onCtx Session.setCtx
    dsimp only
    split <;> split <;> rfl
  have hdef : s.startOp i c d =
      (let y := (s.session i).startHead c d s.time.now
       let die := y.top + bitsAt d 42 1 1 0
       let v := s.setSession i y
       let w := if opClass (dOpcode d) = 2 then
           { v with dies := vset v.dies die { vget Die.reset v.dies die with
               phQueue := (vget Die.reset v.dies die).phQueue ++ [⟨i, c, ((s.session i).ctx c).nextSeq⟩] } }
         else v
       let z := { w with power := { w.power with idleSince := w.time.now } }
       if dTimed d then z else z.launch i ((s.session i).startedOp c d s.time.now)) := rfl
  rw [hdef, ← htop]
  by_cases h2 : opClass (dOpcode d) = 2
  · simp only [if_pos h2]; rfl
  · simp only [if_neg h2]; rfl

/-- R93: the head array descriptor of some lower context could start. -/
theorem State.lowerReady_iff (s : State) (i c : Nat) :
    s.lowerReady i c = true ↔ ∃ b < c, ∃ e, ((s.session i).ctx b).live = true ∧
      (s.session i).descAt? ((s.session i).ctx b).slot.toNat ((s.session i).ctx b).index.toNat = some e ∧
      opClass (dOpcode e) = 1 ∧ (s.session i).startCheck b e = stOk ∧ s.canStart i b e = true := by
  unfold State.lowerReady
  simp only [List.any_eq_true, List.mem_range]
  refine exists_congr fun b => and_congr_right fun _ => ?_
  cases h : (s.session i).descAt? ((s.session i).ctx b).slot.toNat ((s.session i).ctx b).index.toNat with
  | none => simp
  | some e => simp [and_assoc]

section
variable {s : State} {i c : Nat} {d : Bytes}

/-- The command on a live head that names a descriptor. -/
theorem exec_descriptorStart_live (hk : ((s.session i).ctx c).live = true)
    (hd : (s.session i).descAt? ((s.session i).ctx c).slot.toNat ((s.session i).ctx c).index.toNat = some d) :
    exec (.descriptorStart i c) s = .next (
      if (s.session i).startCheck c d ≠ stOk then
        s.setSession i ((s.session i).stopCtx c ((s.session i).startCheck c d))
      else if s.canStart i c d ∧ ¬ (opClass (dOpcode d) = 1 ∧ s.lowerReady i c) then s.startOp i c d
      else s) := by
  change execDescriptorStart i c s = _
  unfold execDescriptorStart
  simp only [hk, hd, if_true]

/-- R91 to R93: what the start of a head leaves. -/
theorem State.startOp_started (hi : i < 4) :
    let x := s.session i
    let k := x.ctx c
    ∃ o, o ∈ ((s.startOp i c d).session i).ops ∧ o.ctx = c ∧ o.seq = k.nextSeq ∧ o.desc = d ∧ o.slot = k.slot.toNat ∧
      o.index = k.index.toNat ∧ o.readyAt = s.time.now ∧ o.stage = (if dTimed d then .started else .launched) ∧
      (dTimed d = false → o.launchedAt = s.time.now ∧ o.step = x.sealRec.step ∧ o.attempt = x.sealRec.attempt ∧
        o.copies = x.resolution ∧ o.scales = x.workScales d) := by
  intro x k
  obtain ⟨ds, pw, h⟩ := s.startOp_eq i c d
  dsimp only at h
  generalize hu : ({ s with sessions := vset s.sessions i (x.startHead c d s.time.now), dies := ds, power := pw } : State) = u
    at h
  have hx : u.session i = x.startHead c d s.time.now := by rw [← hu]; exact vget_vset_same _ _ _ hi
  have ht : u.time = s.time := by rw [← hu]
  by_cases htd : dTimed d = true
  · rw [h, if_pos htd, hx, Session.startHead_ops, if_pos htd]
    exact ⟨x.startedOp c d s.time.now, by simp, rfl, rfl, rfl, rfl, rfl, rfl, rfl, fun hf => absurd htd (by simp [hf])⟩
  · rw [h, if_neg htd, if_neg htd]
    obtain ⟨q, m, z, hl⟩ := u.launch_session (x.startedOp c d s.time.now) hi
    rw [hx, Session.startHead_launchOp, ht] at hl
    refine ⟨x.launchOp (x.startedOp c d s.time.now) s.time.now z, ?_, rfl, rfl, rfl, rfl, rfl, rfl, rfl,
      fun _ => ⟨rfl, rfl, rfl, rfl, rfl⟩⟩
    rw [hl]
    simp [Session.setOp, Session.launchOp]

/-- What the start of a head changes of its session beside the descriptor, and what it leaves. -/
theorem State.startOp_frame (hi : i < 4) (hc : c < 4) :
    let x := s.session i
    let k := x.ctx c
    let t := s.startOp i c d
    (t.session i).ops.length = x.ops.length + 1 ∧ ((t.session i).ctx c).nextSeq = k.nextSeq + 1 ∧
      ((t.session i).ctx c).index = (if dOpcode d = opEnd ∨ dOpcode d = opLink then k.index else k.index + 1) ∧
      (dOpcode d = opSeal → (t.session i).sealRec.sealing = true) ∧
      (∀ j < 4, j ≠ i → t.session j = s.session j) ∧ t.tallies = s.tallies ∧ t.channels = s.channels := by
  intro x k t
  obtain ⟨ds, pw, h⟩ := s.startOp_eq i c d
  dsimp only at h
  generalize hu : ({ s with sessions := vset s.sessions i (x.startHead c d s.time.now), dies := ds, power := pw } : State) = u
    at h
  have hx : u.session i = x.startHead c d s.time.now := by rw [← hu]; exact vget_vset_same _ _ _ hi
  have ho : ∀ j, j ≠ i → u.session j = s.session j := fun j hj => by
    rw [← hu]; exact vget_vset_other _ _ _ (Ne.symm hj)
  have hctx := x.startHead_ctx c d s.time.now hc
  by_cases htd : dTimed d = true
  · have ht : t = u := h.trans (if_pos htd)
    rw [ht, hx, ← hu]
    refine ⟨by simp, hctx.1, hctx.2, x.startHead_seal c d s.time.now, fun j _ hj => ?_, rfl, rfl⟩
    exact vget_vset_other _ _ _ (Ne.symm hj)
  · have ht : t = u.launch i (x.startedOp c d s.time.now) := h.trans (if_neg htd)
    obtain ⟨q, m, z, hl⟩ := u.launch_session (x.startedOp c d s.time.now) hi
    rw [hx] at hl
    rw [ht, hl, State.launch_tallies _ _ hi, State.launch_channels _ _ hi, ← hu]
    refine ⟨by simp [Session.setOp], hctx.1, hctx.2, x.startHead_seal c d s.time.now, fun j _ hj => ?_, rfl, rfl⟩
    rw [hu, State.launch_other _ _ hi hj, ho j hj]

end

/-- A stopped head keeps what is in progress. -/
@[simp] theorem Session.stopCtx_ops (x : Session) (c : Nat) (st : Status) : (x.stopCtx c st).ops = x.ops := by
  unfold Session.stopCtx Session.stopCtxAt
  split
  · split <;> rfl
  · rfl

theorem Session.stopCtx_ctx {x : Session} {c : Nat} (st : Status) (hc : c < 4) (h : (x.ctx c).live = true) :
    ((x.stopCtx c st).ctx c).state = .stopped ∧ ((x.stopCtx c st).ctx c).status = st := by
  rw [Session.stopCtx_live st h]
  have : ∀ k, ({ x.setCtx c k with voteReasons := x.voteReasons ||| rsContextStop } : Session).ctx c = k :=
    fun k => x.setCtx_same k hc
  rw [this]
  exact ⟨rfl, rfl⟩

/-- Putting a session's stopped head back: that session alone changes. -/
theorem State.setSession_stopCtx {s : State} {i c : Nat} (st : Status) (hi : i < 4) (hc : c < 4)
    (h : ((s.session i).ctx c).live = true) :
    let t := s.setSession i ((s.session i).stopCtx c st)
    t = s.setSession i (t.session i) ∧ ((t.session i).ctx c).state = .stopped ∧ ((t.session i).ctx c).status = st ∧
      (t.session i).ops = (s.session i).ops := by
  intro t
  have ht : t.session i = (s.session i).stopCtx c st := State.setSession_same s _ hi
  obtain ⟨h1, h2⟩ := Session.stopCtx_ctx st hc h
  rw [ht]
  exact ⟨rfl, h1, h2, Session.stopCtx_ops _ _ _⟩

/-- No END or LINK of a context is in progress. -/
theorem Session.atHead_iff (x : Session) (c : Nat) :
    x.atHead c = true ↔ ∀ o ∈ x.ops, o.ctx = c → o.code ≠ opEnd ∧ o.code ≠ opLink := by
  simp [Session.atHead, imp_iff_not_or]

/-- Settles O30: a head is stopped, waits, or starts as the checks of R91 and R93 fall out. -/
theorem descriptorsStart : Obligations.DescriptorsStart := by
  unfold Obligations.DescriptorsStart
  intro s i c hi hc hlive x k
  refine ⟨fun d hd => ?named, ?past⟩
  case named =>
    have hexec := exec_descriptorStart_live hlive hd
    refine ⟨fun hst => ?stops, ?_⟩
    case stops =>
      rw [if_pos hst] at hexec
      exact ⟨_, hexec, State.setSession_stopCtx _ hi hc hlive⟩
    intro waits
    have hw : waits ↔ opClass (dOpcode d) = 1 ∧ s.lowerReady i c = true :=
      and_congr_right fun _ => (s.lowerReady_iff i c).symm
    refine ⟨fun hst hno => ?waits, fun hst hcan hno => ?starts⟩
    case waits =>
      rw [if_neg (not_not_intro hst), if_neg] at hexec
      · exact hexec
      · rintro ⟨hcan, hlow⟩
        rcases hno with hno | hno
        · rw [hno] at hcan; cases hcan
        · exact hlow (hw.mp hno)
    case starts =>
      rw [if_neg (not_not_intro hst), if_pos ⟨hcan, fun h => hno (hw.mpr h)⟩] at hexec
      obtain ⟨o, h1, h2, h3, h4, h5, h6, h7, h8, h9⟩ := State.startOp_started (s := s) (c := c) (d := d) hi
      exact ⟨_, o, hexec, h1, h2, h3, h4, h5, h6, h7, h8, h9, State.startOp_frame hi hc⟩
  case past =>
    intro hd hops hseal
    refine ⟨s.setSession i (x.stopCtx c stRefused), ?_, ?_⟩
    · change execDescriptorStart i c s = _
      unfold execDescriptorStart
      have hat : (s.session i).atHead c = true := ((s.session i).atHead_iff c).mpr hops
      have hseal : (s.session i).sealHolds c [] = false := hseal
      have hd : (s.session i).descAt? ((s.session i).ctx c).slot.toNat ((s.session i).ctx c).index.toNat = none := hd
      simp only [hlive, hd, hat, hseal, if_true, Bool.false_eq_true, not_false_eq_true, and_self]
      rfl
    · obtain ⟨h1, h2, h3, _⟩ := State.setSession_stopCtx (s := s) stRefused hi hc hlive
      exact ⟨h1, h2, h3⟩

end Sys2Proof.Machine
end

section
/-! PROOFS. Dispatch after the start: timed launches and polls, list control, tallies, and completion. -/

namespace Sys2Proof.Machine

/-! ### The launch comparator, R83, R84 -/

/-- A throttle level may hold a timed launch of an array, Pigeonhole, Counting Board or RECKON descriptor; which clock the
launch falls on is the one free value taken. Assumption log 77 (DESIGN CHOICE). -/
theorem State.launchHeld_cases (s : State) (x : Session) (d : Bytes) : ∃ b n,
    s.launchHeld x d = (b, { s with draws := n }) ∧
      (s.pieceThrottle x = 0 ∨ (opClass (dOpcode d) ∉ [1, 2, 3] ∧ dOpcode d ≠ opReckon) → b = false ∧ n = s.draws) := by
  unfold State.launchHeld
  dsimp only
  split
  · rename_i h
    refine ⟨_, _, rfl, fun he => ?_⟩
    simp only [List.mem_cons, List.not_mem_nil, or_false, not_or] at he
    omega
  · exact ⟨false, s.draws, rfl, fun _ => ⟨rfl, rfl⟩⟩

/-- A late launch is counted in the context's record (R84). -/
def State.countLate (s : State) (i c : Nat) : State :=
  s.onSession i fun x => x.onCtx c fun k => { k with lateCount := satAdd k.lateCount 1 }

section
variable {s : State} {o : OpRef} {p : Op}

/-- The comparator at or after the postmark of a descriptor that has started (R83, R84). -/
theorem exec_launchComparatorFire_started (h : s.op? o = some p) (hs : p.stage = .started)
    (hl : (dLaunch p.desc).toNat ≤ s.time.now.toNat) :
    let x := s.session o.session
    ∃ b n, (s.pieceThrottle x = 0 ∨ (opClass p.code ∉ [1, 2, 3] ∧ p.code ≠ opReckon) → b = false ∧ n = s.draws) ∧
      let u : State := { s with draws := n }
      exec (.launchComparatorFire o) s = .next (
        if ¬ b ∧ x.pieceFree p ∧ x.readySince p + ns 1000 ≤ (dLaunch p.desc).toNat then u.launch o.session p
        else if dLateFail p.desc then u.stopOp o.session p stTimeout
        else if !(x.pieceFree p) then u
        else (u.countLate o.session p.ctx).launch o.session p) := by
  intro x
  obtain ⟨b, n, hb, he⟩ := s.launchHeld_cases x p.desc
  refine ⟨b, n, he, ?_⟩
  change execLaunchComparatorFire o s = _
  unfold execLaunchComparatorFire
  dsimp only
  rw [h]
  dsimp only
  rw [if_pos ⟨hs, hl⟩, hb]
  rfl

/-- What a launch leaves: the descriptor takes what stands, its context's record stays, and no other session or tally
changes. -/
theorem State.launch_facts (h : s.op? o = some p) :
    let x := s.session o.session
    let t := s.launch o.session p
    ∃ q, t.op? o = some q ∧ q.stage = .launched ∧ q.desc = p.desc ∧ q.launchedAt = s.time.now ∧
      q.step = x.sealRec.step ∧ q.attempt = x.sealRec.attempt ∧ q.copies = x.resolution ∧ q.scales = x.workScales p.desc ∧
      (t.session o.session).ctx p.ctx = x.ctx p.ctx ∧ (∀ j < 4, j ≠ o.session → t.session j = s.session j) ∧
      t.tallies = s.tallies := by
  intro x t
  have hi := State.op?_lt h
  obtain ⟨z, hz⟩ := State.launch_op? h
  exact ⟨_, hz, rfl, rfl, rfl, rfl, rfl, rfl, rfl, State.launch_ctx s p p.ctx hi, fun j _ hj => State.launch_other s p hi hj,
    State.launch_tallies s p hi⟩

theorem State.countLate_session (s : State) (i c : Nat) (hi : i < 4) :
    (s.countLate i c).session i = (s.session i).onCtx c fun k => { k with lateCount := satAdd k.lateCount 1 } :=
  State.onSession_same s _ hi

/-- A head that has not started by its postmark, with LATE_FAIL set, stops its context (R84). -/
theorem exec_launchComparatorFire_head {d : Bytes} (hn : s.op? o = none)
    (hk : ((s.session o.session).ctx o.ctx).live = true) (hq : o.seq = ((s.session o.session).ctx o.ctx).nextSeq)
    (hd : (s.session o.session).descAt? ((s.session o.session).ctx o.ctx).slot.toNat
      ((s.session o.session).ctx o.ctx).index.toNat = some d)
    (ht : dTimed d = true) (hf : dLateFail d = true) (hl : (dLaunch d).toNat ≤ s.time.now.toNat)
    (ha : (s.session o.session).atHead o.ctx = true) :
    exec (.launchComparatorFire o) s =
      .next (s.setSession o.session ((s.session o.session).stopCtx o.ctx stTimeout)) := by
  change execLaunchComparatorFire o s = _
  unfold execLaunchComparatorFire
  dsimp only
  rw [hn]
  dsimp only
  unfold State.failHead
  dsimp only
  rw [hd]
  dsimp only
  rw [if_pos ⟨hk, hq, ha, ht, hf, hl⟩]

end

/-! ### Polls, R94 and R310 -/

/-- What a poll makes of context `c` of a session: a wait that holds is satisfied. -/
def State.pollCtx (s : State) (x : Session) (c : Nat) : Context :=
  match x.descAt? (x.ctx c).slot.toNat (x.ctx c).index.toNat with
  | some d =>
    if (x.ctx c).live ∧ dWaitEn d ∧ s.waitHolds x d then { x.ctx c with waitMet := true, state := .running } else x.ctx c
  | none => x.ctx c

/-- A poll of one context, as the command does it. -/
def State.pollOne (s : State) (x : Session) (c : Nat) : Session :=
  match x.descAt? (x.ctx c).slot.toNat (x.ctx c).index.toNat with
  | some d =>
    if (x.ctx c).live ∧ dWaitEn d ∧ s.waitHolds x d then x.onCtx c fun k => { k with waitMet := true, state := .running }
    else x
  | none => x

theorem State.pollOne_eq (s : State) (x : Session) (c : Nat) : s.pollOne x c = x.setCtx c (s.pollCtx x c) := by
  have hself : x.setCtx c (x.ctx c) = x := by simp [Session.setCtx, Session.ctx]
  unfold State.pollOne State.pollCtx
  split
  · split
    · rfl
    · exact hself.symm
  · exact hself.symm

/-- A poll of the first `n` contexts of a session. -/
theorem State.pollOne_foldl (s : State) (x : Session) (n : Nat) (hn : n ≤ 4) : ∃ v,
    (List.range n).foldl s.pollOne x = { x with ctxs := v } ∧
      (∀ c < n, vget Context.reset v c = s.pollCtx x c) ∧ ∀ c, n ≤ c → vget Context.reset v c = x.ctx c := by
  induction n with
  | zero => exact ⟨x.ctxs, rfl, fun c hc => absurd hc (Nat.not_lt_zero c), fun c _ => rfl⟩
  | succ n ih =>
    obtain ⟨v, hv, hlo, hhi⟩ := ih (by omega)
    have hp : s.pollCtx { x with ctxs := v } n = s.pollCtx x n := by
      have hc : ({ x with ctxs := v } : Session).ctx n = x.ctx n := hhi n le_rfl
      unfold State.pollCtx
      rw [hc]
      rfl
    refine ⟨vset v n (s.pollCtx x n), ?_, fun c hc => ?_, fun c hc => ?_⟩
    · rw [List.range_succ, List.foldl_append, hv, List.foldl_cons, List.foldl_nil, State.pollOne_eq, hp]
      rfl
    · by_cases h : n = c
      · rw [← h, vget_vset_same _ _ _ (by omega)]
      · rw [vget_vset_other _ _ _ h, hlo c (by omega)]
    · rw [vget_vset_other _ _ _ (by omega), hhi c (by omega)]

/-- A poll of a session: of every context, when the command core runs it. -/
def State.pollSession (s : State) (core : Nat) (x : Session) : Session :=
  if x.working ∧ x.top = core then (List.range 4).foldl s.pollOne x else x

/-- A poll of the first `n` sessions. -/
theorem State.pollSession_foldl (s : State) (core n : Nat) (hn : n ≤ 4) : ∃ v,
    (List.range n).foldl (fun t i => t.setSession i (s.pollSession core (t.session i))) s = { s with sessions := v } ∧
      (∀ i < n, vget Session.reset v i = s.pollSession core (s.session i)) ∧
      ∀ i, n ≤ i → vget Session.reset v i = s.session i := by
  induction n with
  | zero => exact ⟨s.sessions, rfl, fun c hc => absurd hc (Nat.not_lt_zero c), fun c _ => rfl⟩
  | succ n ih =>
    obtain ⟨v, hv, hlo, hhi⟩ := ih (by omega)
    refine ⟨vset v n (s.pollSession core (s.session n)), ?_, fun i hi => ?_, fun i hi => ?_⟩
    · rw [List.range_succ, List.foldl_append, hv, List.foldl_cons, List.foldl_nil]
      simp only [State.session, State.setSession, hhi n le_rfl]
    · by_cases h : n = i
      · rw [← h, vget_vset_same _ _ _ (by omega)]
      · rw [vget_vset_other _ _ _ h, hlo i (by omega)]
    · rw [vget_vset_other _ _ _ (by omega), hhi i (by omega)]

/-- A poll looks at tallies and time, which it leaves as they are. -/
theorem exec_commandCorePoll_eq (core : Nat) (s : State) :
    exec (.commandCorePoll core) s =
      .next ((List.range 4).foldl (fun t i => t.setSession i (s.pollSession core (t.session i))) s) := by
  have hstep : ∀ (l : List Nat) (t : State), t.tallies = s.tallies → t.time = s.time →
      l.foldl (fun t i =>
        if (t.session i).working ∧ (t.session i).top = core then
          t.setSession i ((List.range 4).foldl t.pollOne (t.session i))
        else t) t = l.foldl (fun t i => t.setSession i (s.pollSession core (t.session i))) t := by
    intro l
    induction l with
    | nil => exact fun _ _ _ => rfl
    | cons i l ih =>
      intro t h1 h2
      have hp : t.pollOne = s.pollOne := by
        funext x c
        unfold State.pollOne State.waitHolds State.tally
        rw [h1, h2]
      have hone : (if (t.session i).working ∧ (t.session i).top = core then
          t.setSession i ((List.range 4).foldl t.pollOne (t.session i)) else t) =
            t.setSession i (s.pollSession core (t.session i)) := by
        unfold State.pollSession
        rw [hp]
        split
        · rfl
        · exact (t.setSession_self i).symm
      rw [List.foldl_cons, List.foldl_cons, hone]
      exact ih _ h1 h2
  exact congrArg Host.Outcome.next (hstep _ s rfl rfl)

/-- Settles O31: the three ways the comparator takes a started descriptor, the head it fails, and the poll. -/
theorem timedLaunchesAndWaits : Obligations.TimedLaunchesAndWaits := by
  unfold Obligations.TimedLaunchesAndWaits
  refine ⟨fun s o p hi hop hst hl => ?fire, fun s o d hi hc hn => ?head, fun s core => ?poll⟩
  case fire =>
    intro x free ready even
    obtain ⟨b, n, hb, hexec⟩ := exec_launchComparatorFire_started hop hst hl
    dsimp only at hexec
    refine ⟨fun hfree hgo => ?launches, fun hno hfail => ?fails, fun hno hfail => ?waits⟩
    case launches =>
      have hop' : ({ s with draws := n } : State).op? o = some p := hop
      by_cases hon : ¬ b = true ∧ free ∧ ready
      · rw [if_pos hon] at hexec
        obtain ⟨q, h1, h2, h3, h4, h5, h6, h7, h8, hctx, hother, htal⟩ := State.launch_facts hop'
        refine ⟨_, q, hexec, h1, h2, h3, h4, h5, h6, h7, h8, fun _ => ?_, hother, htal⟩
        rw [hctx]
        exact ⟨fun _ => rfl, fun hr => absurd hon.2.2 hr, .inl rfl⟩
      · have hlate : ¬ (even ∧ ready) := fun he => hon ⟨by simp [(hb he.1).1], hfree, he.2⟩
        have hnofail : dLateFail p.desc = false := hgo.resolve_left hlate
        rw [if_neg hon, if_neg (by simp [hnofail]), if_neg (by simpa using hfree)] at hexec
        have hs := State.countLate_session { s with draws := n } o.session p.ctx hi
        have hop'' : (({ s with draws := n } : State).countLate o.session p.ctx).op? o = some p := by
          rw [State.op?, hs]; exact hop
        obtain ⟨q, h1, h2, h3, h4, h5, h6, h7, h8, hctx, hother, htal⟩ := State.launch_facts hop''
        rw [hs] at h5 h6 h7 h8 hctx
        refine ⟨_, q, hexec, h1, h2, h3, h4, h5, h6, h7, h8, fun hp => ?_, fun j hj hji => ?_, htal⟩
        · have hcount : (((({ s with draws := n } : State).countLate o.session p.ctx).launch o.session p).session
              o.session).ctx p.ctx = { x.ctx p.ctx with lateCount := satAdd (x.ctx p.ctx).lateCount 1 } :=
            hctx.trans (x.setCtx_same _ hp)
          rw [hcount]
          exact ⟨fun he => absurd he hlate, fun _ => rfl, .inr rfl⟩
        · rw [hother j hj hji]
          exact State.onSession_other _ _ (Ne.symm hji)
    case fails =>
      have hoff : ¬ (¬ b = true ∧ free ∧ ready) := fun h => hno.elim (fun hf => hf h.2.1) fun hr => hr h.2.2
      rw [if_neg hoff, if_pos hfail, State.stopOp_eq _ _ _ _ hi (by decide) (by decide)] at hexec
      exact ⟨n, hexec, fun he => (hb he).2⟩
    case waits =>
      have hbusy : x.pieceFree p = false := Bool.eq_false_of_not_eq_true hno
      rw [if_neg (fun h => hno h.2.1), if_neg (by simp [hfail]), if_pos (by simp [hbusy, x])] at hexec
      exact ⟨n, hexec, fun he => (hb he).2⟩
  case head =>
    intro x k hk hq hd ht hf hl hops
    have hexec := exec_launchComparatorFire_head hn hk hq hd ht hf hl ((x.atHead_iff o.ctx).mpr hops)
    exact ⟨_, hexec, State.setSession_stopCtx _ hi hc hk⟩
  case poll =>
    obtain ⟨v, hv, hlo, _⟩ := s.pollSession_foldl core 4 le_rfl
    refine ⟨{ s with sessions := v }, by rw [exec_commandCorePoll_eq, hv], rfl, fun i hi => ?_⟩
    have hx : ({ s with sessions := v } : State).session i = s.pollSession core (s.session i) := hlo i hi
    dsimp only
    rw [hx]
    refine ⟨fun h => ?_, fun hw ht c hc => ?_⟩
    · rw [State.pollSession, if_neg]
      rcases h with h | h
      · simp [h]
      · exact fun hp => h hp.2
    · obtain ⟨w, hw', hctx, _⟩ := s.pollOne_foldl (s.session i) 4 le_rfl
      have hpoll : (s.pollSession core (s.session i)).ctx c = s.pollCtx (s.session i) c := by
        rw [State.pollSession, if_pos ⟨hw, ht⟩, hw']
        exact hctx c hc
      rw [hpoll]
      refine ⟨fun d hd hl hwe hh => ?_, fun h => ?_⟩
      · unfold State.pollCtx
        rw [hd]
        exact if_pos ⟨hl, hwe, hh⟩
      · unfold State.pollCtx
        split
        · rename_i d hd
          rw [if_neg]
          rintro ⟨h1, h2, h3⟩
          rcases h d hd with h | h | h
          · rw [h] at h1; cases h1
          · rw [h] at h2; cases h2
          · rw [h] at h3; cases h3
        · rfl

end Sys2Proof.Machine
end

section
/-! PROOFS. List control, tallies and the completion of descriptors. -/

namespace Sys2Proof.Machine

/-! ### Completion, R95 and R591 -/

/-- A descriptor's completion in one record, whatever context number it bears: a context that a session does not have
reads as after reset and is not written. -/
theorem State.completeOp_ended (s : State) (i : Nat) (p : Op) (st : Status) (hi : i < 4) :
    s.completeOp i p st = s.ended i p st true := by
  by_cases hc : p.ctx < 4
  · exact s.completeOp_eq i p st hi hc
  · have hbeyond : ∀ (v : Vector Context 4) (k : Context), vset v p.ctx k = v := fun v k => vset_beyond v k (by omega)
    have hreset : ∀ v : Vector Context 4, vget Context.reset v p.ctx = Context.reset := fun v => vget_beyond _ v (by omega)
    have hstate : Context.reset.state ≠ .stopped := by decide
    have h0 : stOk ≠ stRevoked := by decide
    have h1 : stVoided ≠ stRevoked := by decide
    unfold State.completeOp State.ended
    simp only [State.onSession, Session.onCtx, Session.setCtx, Session.dropOp, Session.ctx, Session.reason, State.setSession,
      State.session, Session.stopCtxAt, vget_vset_same _ _ _ hi, State.tallyAdd, State.setTally, State.tally, hbeyond, hreset,
      hstate]
    by_cases hg : st = stOk ∨ st = stVoided
    · have hr : st ≠ stRevoked := by rcases hg with h | h <;> rw [h] <;> assumption
      by_cases hs : dSignalEn p.desc = true
      · simp [hg, hr, hs]; rfl
      · simp [hg, hr, hs]
    · by_cases hr : st = stRevoked
      · subst hr; simp [hg]
      · simp [hg, hr]

section
variable {s : State} {o : OpRef} {p : Op}

/-! ### NOP, END and LINK, R96 and R97 -/

theorem exec_nop_launched (h : s.launched o opNop = some p) :
    exec (.nop o) s = .next (s.ended o.session p stOk true) := by
  change execNop o s = _
  rw [execNop, h, ← State.completeOp_ended _ _ _ _ (State.launched_lt h)]

theorem exec_endList_launched (h : s.launched o opEnd = some p) :
    exec (.endList o) s =
      .next ((s.ended o.session p stOk true).onSession o.session fun y => y.onCtx p.ctx fun k =>
        if k.live then { k with state := .idle, waitMet := false } else k) := by
  change execEndList o s = _
  rw [execEndList, h, ← State.completeOp_ended _ _ _ _ (State.launched_lt h)]

/-- A completion leaves the session's lists. -/
theorem State.ended_descAt? (s : State) {i : Nat} (p : Op) (st : Status) (b : Bool) (hi : i < 4) (slot index : Nat) :
    ((s.ended i p st b).session i).descAt? slot index = (s.session i).descAt? slot index := by
  have h : ((s.ended i p st b).session i).lists = (s.session i).lists := by
    rw [State.session, State.ended, vget_vset_same _ _ _ hi]
  simp only [Session.descAt?, Session.list?, h]

/-- A live context jumps to a descriptor; one that has stopped stays where it is (R97). -/
theorem Session.jump_some {x : Session} {slot index : Nat} {d : Bytes} (c : Nat) (h : x.descAt? slot index = some d) :
    x.jump c slot index = x.onCtx c fun k =>
      if k.live then
        { k with slot := BitVec.ofNat 8 slot, index := BitVec.ofNat 17 index, waitMet := false,
                 state := if dWaitEn d then .waiting else .running }
      else k := by
  have hself : x.setCtx c (x.ctx c) = x := by simp [Session.setCtx, Session.ctx]
  unfold Session.jump
  rw [h]
  dsimp only
  split
  · rename_i hl
    simp only [Session.moveHead, Session.onCtx, h, headState, hl, if_true]
  · rename_i hl
    simp only [Session.onCtx, hl, if_false, Bool.false_eq_true, hself]

theorem exec_link_launched {d : Bytes} (h : s.launched o opLink = some p)
    (hd : (s.session o.session).descAt? (fieldAt p.desc 32 2) (fieldAt p.desc 36 4) = some d) :
    exec (.link o) s =
      .next ((s.ended o.session p stOk true).onSession o.session fun y => y.onCtx p.ctx fun k =>
        if k.live then
          { k with slot := BitVec.ofNat 8 (fieldAt p.desc 32 2), index := BitVec.ofNat 17 (fieldAt p.desc 36 4),
                   waitMet := false, state := if dWaitEn d then .waiting else .running }
        else k) := by
  have hi := State.launched_lt h
  change execLink o s = _
  rw [execLink, h]
  dsimp only
  rw [hd]
  dsimp only
  rw [State.completeOp_ended _ _ _ _ hi, State.onSession,
    Session.jump_some p.ctx ((State.ended_descAt? s p stOk true hi _ _).trans hd)]
  rfl

theorem exec_link_refused (h : s.launched o opLink = some p)
    (hd : (s.session o.session).descAt? (fieldAt p.desc 32 2) (fieldAt p.desc 36 4) = none) :
    exec (.link o) s = .next (s.stopped o.session p stRefused) := by
  change execLink o s = _
  rw [execLink, h]
  dsimp only
  rw [hd, ← State.stopOp_eq _ _ _ _ (State.launched_lt h) (by decide) (by decide)]

/-! ### Tallies, R311 to R314 -/

theorem exec_tallyAdd_launched (h : s.launched o opTallyAdd = some p) :
    let n := s.dTally o.session p.desc
    exec (.tallyAdd o) s =
      .next ((s.setTally n ((s.tally n).add s.time.now (u32 p.desc 36))).ended o.session p stOk true) := by
  intro n
  change execTallyAdd o s = _
  rw [execTallyAdd, h, ← State.completeOp_ended _ _ _ _ (State.launched_lt h)]
  rfl

theorem exec_tallySet_launched (h : s.launched o opTallySet = some p) :
    let n := s.dTally o.session p.desc
    exec (.tallySet o) s =
      .next ((s.setTally n ((s.tally n).set s.time.now p.ctx (u32 p.desc 36))).ended o.session p stOk true) := by
  intro n
  change execTallySet o s = _
  rw [execTallySet, h, ← State.completeOp_ended _ _ _ _ (State.launched_lt h)]

/-- R314: an arm is refused while one stands, recorded before its postmark, and late after it. -/
theorem exec_tallyArm_launched (h : s.launched o opTallyArm = some p) :
    let n := s.dTally o.session p.desc
    let v := u32 p.desc 36
    exec (.tallyArm o) s = .next (
      if (s.tally n).arm.isSome then s.stopped o.session p stNoResource
      else if fieldAt p.desc 40 8 < s.time.now.toNat then
        if dLateFail p.desc then s.stopped o.session p stTimeout
        else ((s.tallyAdd n v).countLate o.session p.ctx).ended o.session p stOk true
      else (s.setTally n { s.tally n with arm := some (u64 p.desc 40, v, o.session, p.ctx) }).ended o.session p stOk true) := by
  intro n v
  have hi := State.launched_lt h
  change execTallyArm o s = _
  rw [execTallyArm, h]
  dsimp only
  rw [u64_toNat, State.stopOp_eq _ _ _ _ hi (by decide) (by decide), State.stopOp_eq _ _ _ _ hi (by decide) (by decide),
    State.completeOp_ended _ _ _ _ hi, State.completeOp_ended _ _ _ _ hi]
  rfl

theorem exec_armFire_due {m j c : Nat} {t : W64} {w : W32} (h : (s.tally m).arm = some (t, w, j, c))
    (ht : t.toNat ≤ s.time.now.toNat) :
    exec (.armFire m) s = .next ((s.setTally m { s.tally m with arm := none }).tallyAdd m w) := by
  change execArmFire m s = _
  rw [execArmFire, h]
  dsimp only
  rw [if_pos (show t.toNat ≤ s.now from ht)]

theorem exec_descriptorComplete_finished (h : s.op? o = some p) (hs : p.stage = .finished) (ha : p.isArray = false)
    (hc : p.isCollective = false) (hl : p.code ≠ opSeal) :
    exec (.descriptorComplete o) s = .next (s.ended o.session p p.status true) := by
  change execDescriptorComplete o s = _
  rw [execDescriptorComplete, h]
  dsimp only
  rw [if_pos ⟨hs, by simp [ha], by simp [hc], hl⟩, State.completeOp_ended _ _ _ _ (State.op?_lt h)]

end

/-- A wait-at-least compares unsigned what it sees of its tally (R59). -/
theorem State.waitHolds_iff (s : State) (x : Session) {d : Bytes} (h : dWaitEq d = false) :
    s.waitHolds x d = true ↔
      (dWaitCount d).toNat ≤ ((s.tally (x.tallyBase + dWaitTally d)).seen s.time.now).toNat := by
  unfold State.waitHolds
  simp [h, BitVec.le_def]

/-! ### One CTRL clock, R313 -/

section
variable (t : Tally) (now : W64)

@[simp] theorem Tally.on_value : (t.on now).value = t.value := by unfold Tally.on; split <;> rfl

@[simp] theorem Tally.on_clock : (t.on now).clock = now := by
  unfold Tally.on
  split
  · assumption
  · rfl

@[simp] theorem Tally.on_on : (t.on now).on now = t.on now := by rw [Tally.on, if_pos (t.on_clock now)]

theorem Tally.on_same {t : Tally} {now : W64} (h : t.clock = now) : t.on now = t := if_pos h

theorem Tally.on_new {t : Tally} {now : W64} (h : t.clock ≠ now) :
    t.on now = { t with clock := now, before := t.value, setBy := none, adds := 0 } := if_neg h

/-- What a wait sees stands through the clock. -/
theorem Tally.on_before : (t.on now).before = t.seen now := by
  unfold Tally.on Tally.seen
  split <;> rfl

theorem Tally.seen_add (a : W32) : (t.add now a).seen now = t.seen now := by
  have hc : (t.add now a).clock = now := t.on_clock now
  rw [Tally.seen, if_pos hc, ← Tally.on_before]
  rfl

/-- A SET of a context holds over those of lower contexts on its clock. -/
def Tally.takesSet (t : Tally) (c : Nat) : Prop := ∀ b, t.setBy = some b → b ≤ c

theorem Tally.set_eq (c : Nat) (v : W32) : t.set now c v =
    open Classical in
    if (t.on now).takesSet c then { t.on now with setBy := some c, value := v + (t.on now).adds } else t.on now := by
  unfold Tally.set Tally.takesSet
  dsimp only
  cases (t.on now).setBy <;> simp

theorem Tally.set_takes {t : Tally} {now : W64} {c : Nat} (v : W32) (h : (t.on now).takesSet c) :
    t.set now c v = { t.on now with setBy := some c, value := v + (t.on now).adds } := by
  rw [Tally.set_eq, if_pos h]

theorem Tally.set_ignored {t : Tally} {now : W64} {c : Nat} (v : W32) (h : ¬ (t.on now).takesSet c) :
    t.set now c v = t.on now := by
  rw [Tally.set_eq, if_neg h]

/-- On a new clock nothing has been set or added. -/
theorem Tally.set_new {t : Tally} {now : W64} (h : t.clock ≠ now) (c : Nat) (v : W32) :
    t.set now c v = { t with clock := now, before := t.value, setBy := some c, value := v, adds := 0 } := by
  rw [Tally.set_takes v (by intro b hb; rw [Tally.on_new h] at hb; cases hb), Tally.on_new h]
  simp

/-- An add and a SET of one clock give one value, whichever comes first. -/
theorem Tally.set_add_comm (c : Nat) (a w : W32) :
    ((t.set now c w).add now a).value = ((t.add now a).set now c w).value := by
  have hadd : (t.add now a).on now = { t.on now with value := t.value + a, adds := (t.on now).adds + a } := by
    rw [Tally.on_same (show (t.add now a).clock = now from t.on_clock now)]
    simp [Tally.add]
  by_cases h : (t.on now).takesSet c
  · rw [Tally.set_takes w h, Tally.set_takes w (by rw [hadd]; exact h), hadd, Tally.add,
      Tally.on_same (by exact t.on_clock now)]
    simp [BitVec.add_assoc]
  · rw [Tally.set_ignored w h, Tally.set_ignored w (by rw [hadd]; exact h), hadd, Tally.add, Tally.on_on]
    simp

/-- Of two SETs of one clock, that of the higher context holds, whichever comes first. -/
theorem Tally.set_set_highest {t : Tally} {now : W64} {c e : Nat} (a b : W32) (h : t.clock ≠ now) (hce : c ≤ e) :
    ((t.set now c a).set now e b).value = b ∧ (c ≠ e → ((t.set now e b).set now c a).value = b) := by
  rw [Tally.set_new h, Tally.set_new h]
  refine ⟨?_, fun hne => ?_⟩
  · rw [Tally.set_takes b, Tally.on_same rfl]
    · simp
    · rintro f hf
      rw [Tally.on_same rfl] at hf
      cases hf
      exact hce
  · rw [Tally.set_ignored a, Tally.on_same rfl]
    intro ht
    rw [Tally.on_same rfl] at ht
    exact hne (le_antisymm hce (ht e rfl))

end

/-- Settles O32: what each list-control and tally command leaves, the completion, and the laws of one CTRL clock. -/
theorem listControlAndTallies : Obligations.ListControlAndTallies := by
  unfold Obligations.ListControlAndTallies
  intro s o p i x n v
  refine ⟨exec_nop_launched, exec_endList_launched, fun h => ⟨fun d hd _ _ => exec_link_launched h hd, exec_link_refused h⟩,
    exec_tallyAdd_launched, exec_tallySet_launched, fun h => ?arm, fun m t w j c => exec_armFire_due,
    exec_descriptorComplete_finished, fun d => s.waitHolds_iff x, fun t now c a b w => ?clock⟩
  case arm =>
    have hexec := exec_tallyArm_launched h
    dsimp only at hexec
    rw [show s.dTally o.session p.desc = n from rfl] at hexec
    refine ⟨fun ha => ?_, fun ha hl => ?_, fun ha hl => ⟨fun hf => ?_, fun hf => ?_⟩⟩
    · rw [hexec, if_pos (Option.isSome_iff_ne_none.mpr ha)]
    · rw [hexec, if_neg (by simp [ha]), if_neg (Nat.not_lt.mpr hl)]
    · rw [hexec, if_neg (by simp [ha]), if_pos hl, if_pos hf]
    · rw [hexec, if_neg (by simp [ha]), if_pos hl, if_neg (by simp [hf])]
      rfl
  case clock =>
    refine ⟨by simp [Tally.add], t.seen_add now a, fun h => ⟨by rw [Tally.set_new h], if_neg h⟩, t.set_add_comm now c a w,
      fun e h hce => Tally.set_set_highest a b h hce⟩

end Sys2Proof.Machine
end

section
/-! PROOFS. Array operations: their opening by the piece, the scrub, and their completion in order. -/

namespace Sys2Proof.Machine

/-! ### Slot counters, R555 -/

theorem State.pieceSlots_perf (s : State) (x : Session) (cls n : Nat) : ∃ p, s.pieceSlots x cls n = { s with perf := p } :=
  State.foldl_perf (fun t q => t.addSlots_perf q _) _ s

theorem State.launchSlots_perf (s : State) (x : Session) (lost : Option Tile) :
    ∃ p, s.launchSlots x lost = { s with perf := p } :=
  State.foldl_perf (fun t _ => t.addSlots_perf _ _) _ s

/-! ### Opening, R53, R77, R82, R178 -/

section
variable {s : State} {o : OpRef} {p : Op} {c : Nat}

/-- In its turn the piece takes the operation, or the operation is refused. -/
theorem State.launchArray_turn (h : s.launched o c = some p) (ht : (s.session o.session).arrayTurn p = true)
    (h0 : p.progress = 0) :
    s.launchArray o c =
      if (s.session o.session).launchOk p then s.openArray o.session p else s.stopped o.session p stRefused := by
  unfold State.launchArray
  rw [h]
  dsimp only
  rw [if_pos ⟨ht, h0⟩, State.stopOp_eq _ _ _ _ (State.launched_lt h) (by decide) (by decide)]

/-- The piece that takes an operation: its PARTY recorded, a held tile that it does not continue lost, and the 64 clocks of
a launch on an idle piece behind it. -/
def Piece.taking (y : Piece) (p : Op) : Piece :=
  { y with
    party := some (aParty p.desc), held := if aContinue p.desc then y.held else none
    opened := y.opened ++ [(p.ctx, p.seq)], wake := false, clock := y.clock + (if y.wake then 64 else 0) }

/-- The held tile that stays behind a launch. -/
theorem heldAfter_eq (b : Bool) (h : Option Tile) :
    (if (if b then none else h).isSome then none else h) = if b then h else none := by
  cases b <;> cases h <;> rfl

theorem State.openArray_eq (s : State) (i : Nat) (p : Op) : ∃ pf,
    s.openArray i p = { s with
      perf := pf
      sessions := vset s.sessions i
        { (s.session i).bindStreams p with piece := (s.session i).piece.taking p } } := by
  have hperf : ∃ pf, (if (s.session i).piece.wake then
      s.launchSlots (s.session i) (if aContinue p.desc then none else (s.session i).piece.held) else s) =
        { s with perf := pf } := by
    split
    · exact s.launchSlots_perf _ _
    · exact ⟨s.perf, rfl⟩
  obtain ⟨pf, hp⟩ := hperf
  refine ⟨pf, ?_⟩
  unfold State.openArray
  dsimp only
  have hx : ({ s with perf := pf } : State).session i = s.session i := rfl
  rw [hp, State.onSession, hx, heldAfter_eq]
  have hclock : (if (s.session i).piece.wake = true then (s.session i).piece.clock + 64 else (s.session i).piece.clock) =
      (s.session i).piece.clock + (if (s.session i).piece.wake = true then 64 else 0) := by split <;> rfl
  rw [hclock]
  rfl

/-! ### The scrub, R78 -/

/-- A descriptor whose name finds one in progress ends when its work is done. -/
theorem State.finishOp_ends {q : Op} (st : Status) (h : s.op? o = some q) (hc : p.ctx = o.ctx) (hq : p.seq = o.seq) :
    (s.finishOp o.session p st).Ends o p st := by
  unfold State.Ends State.finishOp
  rw [State.op?, State.onSession_same _ _ (State.op?_lt h)]
  rw [State.op?, ← hc, ← hq] at h
  rw [← hc, ← hq]
  exact Session.op?_setOp (o := { p with stage := .finished, status := st }) h

/-- A scrubbed piece, 1,088 clocks later. -/
def Piece.scrubbed (y : Piece) : Piece :=
  { y with party := none, held := none, tiles := [], rowBuffer := [], last := none, prev := none, lastHeld := false,
           wake := false, clock := y.clock + 1088 }

theorem exec_arrayScrub_turn (h : s.launched o opScrub = some p)
    (ht : ∀ q ∈ (s.session o.session).ops.takeWhile (fun q => !(q.ctx = p.ctx ∧ q.seq = p.seq)), q.isArray = false) :
    ∃ pf, let x := s.session o.session
      let u : State := { s with perf := pf, sessions := vset s.sessions o.session { x with piece := x.piece.scrubbed } }
      exec (.arrayScrub o) s = .next (u.finishOp o.session p stOk) := by
  obtain ⟨pf, hp⟩ := s.pieceSlots_perf (s.session o.session) 4 1088
  have hall : ((s.session o.session).ops.takeWhile fun q => !(q.ctx = p.ctx ∧ q.seq = p.seq)).all (fun q => !q.isArray) = true :=
    List.all_eq_true.mpr fun q hq => by rw [ht q hq]; rfl
  refine ⟨pf, ?_⟩
  change execArrayScrub o s = _
  rw [execArrayScrub, h]
  dsimp only
  rw [if_pos hall, hp]
  rfl

/-! ### Completion, R80, R81, R85 -/

theorem Session.arrayStatus_kept {x : Session} (h : x.struck (aParty p.desc) = false ∨ p.code = opScrub) :
    x.arrayStatus p = p.status := by
  unfold Session.arrayStatus
  rw [if_neg]
  rintro ⟨h1, h2, _⟩
  rcases h with h | h
  · rw [h] at h2; cases h2
  · exact h1 h

/-- A state in which slots have been counted and a session's piece's clock has moved. -/
def State.clocked (s : State) (i : Nat) (pf : Perf) (k : Nat) : State :=
  { s with
    perf := pf
    sessions := vset s.sessions i { s.session i with piece := { (s.session i).piece with clock := k } } }

theorem State.clocked_self (s : State) (i : Nat) : s.clocked i s.perf (s.session i).piece.clock = s := by
  unfold State.clocked
  rw [s.sessions_self]

theorem State.tail_eq (s : State) (i : Nat) (p : Op) : ∃ pf k, s.tail i p = s.clocked i pf k := by
  unfold State.tail
  dsimp only
  split
  · exact ⟨_, _, (s.clocked_self i).symm⟩
  · split
    · exact ⟨_, _, (s.clocked_self i).symm⟩
    · rename_i c k h _
      obtain ⟨pf, hp⟩ := s.pieceSlots_perf (s.session i) 2
        (max (s.session i).piece.operandsAt (c + k + (s.session i).tailClocks p + if aHold p.desc then 0 else h) -
          (s.session i).piece.operandsAt)
      rw [hp]
      exact ⟨pf, _, rfl⟩

/-- A completion does not look at a piece's clock. -/
theorem State.clocked_ended (s : State) {i : Nat} (pf : Perf) (k : Nat) (p : Op) (st : Status) (b : Bool) (hi : i < 4) :
    ∃ y : Piece, y.held = (s.session i).piece.held ∧
      (s.clocked i pf k).ended i p st b = { s.ended i p st b with
        perf := pf
        sessions := vset s.sessions i { (s.ended i p st b).session i with piece := y } } := by
  refine ⟨{ (s.session i).piece with
    clock := k, opened := (s.session i).piece.opened.filter fun o => !(o.1 = p.ctx ∧ o.2 = p.seq) }, rfl, ?_⟩
  simp only [State.clocked, State.ended, State.session, vget_vset_same _ _ _ hi, vset_vset]
  rfl

/-- A descriptor that leaves progress is found no more, and every other is found as before. -/
theorem State.ended_op? (s : State) {i : Nat} (p : Op) (st : Status) (b : Bool) (hi : i < 4) (c q : Nat) :
    ((s.ended i p st b).session i).op? c q = if p.ctx = c ∧ p.seq = q then none else (s.session i).op? c q := by
  have hops : ((s.ended i p st b).session i).ops = (s.session i).ops.filter fun o => !(o.ctx = p.ctx ∧ o.seq = p.seq) := by
    rw [State.session, State.ended, vget_vset_same _ _ _ hi]
  rw [Session.op?, hops, List.find?_filter]
  split
  · rename_i h
    rw [List.find?_eq_none]
    rintro a _
    simp only [h.1, h.2]
    by_cases ha : a.ctx = c ∧ a.seq = q <;> simp [ha]
  · rename_i h
    unfold Session.op?
    congr 1
    funext a
    by_cases ha : a.ctx = c ∧ a.seq = q
    · rw [ha.1, ha.2]; simp [show ¬ (c = p.ctx ∧ q = p.seq) from fun e => h ⟨e.1.symm, e.2.symm⟩]
    · simp [ha]

theorem State.ended_other (s : State) {i j : Nat} (p : Op) (st : Status) (b : Bool) (h : j ≠ i) :
    (s.ended i p st b).session j = s.session j := vget_vset_other _ _ _ (Ne.symm h)

/-- The streams that feed an operation complete with it, and leave their Pigeonholes (R179). -/
def State.endStreams (s : State) (i : Nat) (st : Status) (l : List Op) : State :=
  l.foldl (fun s q => (s.completeOp i q st).phDone ⟨i, q.ctx, q.seq⟩) s

theorem State.endStreams_facts (s : State) {i : Nat} (st : Status) (l : List Op) (hi : i < 4) :
    (∀ j, j ≠ i → (s.endStreams i st l).session j = s.session j) ∧
      ∀ c q, (s.session i).op? c q = none ∨ (∃ o ∈ l, o.ctx = c ∧ o.seq = q) →
        ((s.endStreams i st l).session i).op? c q = none := by
  induction l generalizing s with
  | nil => exact ⟨fun _ _ => rfl, fun c q h => h.elim id fun ⟨o, ho, _⟩ => by cases ho⟩
  | cons a l ih =>
    have hstep : s.endStreams i st (a :: l) =
        ((s.ended i a st true).phDone ⟨i, a.ctx, a.seq⟩).endStreams i st l := by
      rw [← State.completeOp_ended _ _ _ _ hi]; rfl
    have hsess : ∀ j, ((s.ended i a st true).phDone ⟨i, a.ctx, a.seq⟩).session j = (s.ended i a st true).session j :=
      fun _ => rfl
    obtain ⟨h1, h2⟩ := ih ((s.ended i a st true).phDone ⟨i, a.ctx, a.seq⟩)
    rw [hstep]
    refine ⟨fun j hj => by rw [h1 j hj, hsess, State.ended_other _ _ _ _ hj], fun c q h => h2 c q ?_⟩
    rw [hsess, State.ended_op? _ _ _ _ hi]
    by_cases ha : a.ctx = c ∧ a.seq = q
    · exact .inl (if_pos ha)
    · rw [if_neg ha]
      rcases h with h | ⟨o, ho, hcq⟩
      · exact .inl h
      · rcases List.mem_cons.mp ho with rfl | ho
        · exact absurd hcq ha
        · exact .inr ⟨o, ho, hcq⟩

/-- A piece that an operation has left: idle when no launched array operation is left on it. -/
def Session.leave (x : Session) (p : Op) (now : W64) : Session :=
  if p.code = opScrub then { x.settle now with piece := { (x.settle now).piece with idleSince := now } } else x.settle now

theorem Session.leave_eq (x : Session) (p : Op) (now : W64) : ∃ y : Piece, x.leave p now = { x with piece := y } ∧
    y.held = x.piece.held := by
  have hs : ∃ y : Piece, x.settle now = { x with piece := y } ∧ y.held = x.piece.held := by
    unfold Session.settle
    split
    · exact ⟨x.piece, rfl, rfl⟩
    · exact ⟨_, rfl, rfl⟩
  obtain ⟨y, hy, hh⟩ := hs
  unfold Session.leave
  rw [hy]
  split
  · exact ⟨_, rfl, hh⟩
  · exact ⟨y, rfl, hh⟩

/-- The streams that an operation's completion takes with it. -/
def Session.feeding (x : Session) (p : Op) : List Op :=
  if p.code = opScrub then [] else x.streamsOf p (some (p.ctx, p.seq))

/-- The completion of an array operation: its tail, its streams, itself, and the piece that it leaves. -/
theorem exec_arrayOpComplete_done (h : s.op? o = some p) (hr : s.power.power = .ps0) (ha : p.isArray = true)
    (hd : (s.session o.session).arrayDone p = true) :
    ∃ pf k, let x := s.session o.session
      let u := (s.clocked o.session pf k).endStreams o.session (x.arrayStatus p) (x.feeding p)
      exec (.arrayOpComplete o) s =
        .next ((u.ended o.session p (x.arrayStatus p) true).onSession o.session fun y => y.leave p u.time.now) := by
  have hi := State.op?_lt h
  have hruns : s.runsIn 3 = true := by simp [State.runsIn, hr, Power.code]
  have htail : ∃ pf k, (if p.code = opScrub then s else s.tail o.session p) = s.clocked o.session pf k := by
    split
    · exact ⟨_, _, (s.clocked_self o.session).symm⟩
    · exact s.tail_eq _ _
  obtain ⟨pf, k, ht⟩ := htail
  obtain ⟨pf', hf⟩ := State.foldl_perf (fun t q => t.addSlots_perf q [(12, 1)]) (s.session o.session).dieList
    (s.clocked o.session pf k)
  have hf' : (s.session o.session).dieList.foldl (fun t q => t.addSlots q [(12, 1)]) (s.clocked o.session pf k) =
      s.clocked o.session pf' k := hf
  refine ⟨pf', k, ?_⟩
  change execArrayOpComplete o s = _
  unfold execArrayOpComplete
  rw [h]
  dsimp only
  rw [if_pos ⟨hruns, ha, hd⟩, ht, hf', ← State.completeOp_ended _ _ _ _ hi]
  rfl

end

/-- Settles O33: the opening and the scrub as the piece takes them, and the completion with the streams that feed it. -/
theorem arrayOperationsRun : Obligations.ArrayOperationsRun := by
  unfold Obligations.ArrayOperationsRun
  refine ⟨fun s o p hi => ⟨fun c cmd hcmd h ht h0 => ⟨fun hok => ?opens, fun hok => ?refused⟩, fun h ht => ?scrub⟩,
    fun s o p hi hr h ha hd => ?completes⟩
  case opens =>
    have hexec : exec cmd s = .next (s.openArray o.session p) := by
      rw [← if_pos (c := (s.session o.session).launchOk p = true) (t := s.openArray o.session p)
        (e := s.stopped o.session p stRefused) hok, ← State.launchArray_turn h ht h0]
      rcases hcmd with ⟨rfl, rfl⟩ | ⟨rfl, rfl⟩ <;> rfl
    obtain ⟨pf, ho⟩ := s.openArray_eq o.session p
    have hx : ((s.openArray o.session p).session o.session) =
        { (s.session o.session).bindStreams p with piece := (s.session o.session).piece.taking p } := by
      rw [ho]; exact vget_vset_same _ _ _ hi
    refine ⟨_, hexec, ?_⟩
    rw [hx]
    refine ⟨?_, rfl, rfl, rfl, rfl, rfl⟩
    rw [ho]
  case refused =>
    have hexec : exec cmd s = .next (s.launchArray o c) := by
      rcases hcmd with ⟨rfl, rfl⟩ | ⟨rfl, rfl⟩ <;> rfl
    rw [hexec, State.launchArray_turn h ht h0, if_neg (by simp [hok])]
  case scrub =>
    obtain ⟨pf, hexec⟩ := exec_arrayScrub_turn h ht
    obtain ⟨hp, _, _, _⟩ := State.launched_some h
    obtain ⟨hc, hq, _⟩ := Session.op?_some hp
    refine ⟨_, hexec, State.finishOp_ends (q := p) stOk ?_ hc hq, ?_⟩
    · rw [State.op?, State.session, vget_vset_same _ _ _ hi]
      exact hp
    · simp only [State.finishOp, State.onSession, State.setSession, State.session, vget_vset_same _ _ _ hi, vset_vset]
      rfl
  case completes =>
    intro x st feeding
    obtain ⟨pf, k, hexec⟩ := exec_arrayOpComplete_done h hr ha hd
    obtain ⟨hc, hq, _⟩ := Session.op?_some h
    dsimp only at hexec
    generalize hu : (s.clocked o.session pf k).endStreams o.session ((s.session o.session).arrayStatus p)
      ((s.session o.session).feeding p) = u at hexec
    obtain ⟨hother, hgone⟩ := (s.clocked o.session pf k).endStreams_facts st (x.feeding p) hi
    rw [show (s.clocked o.session pf k).endStreams o.session st (x.feeding p) = u from hu] at hother hgone
    obtain ⟨y, hy, hheld⟩ := ((u.ended o.session p st true).session o.session).leave_eq p u.time.now
    have ht : ((u.ended o.session p st true).onSession o.session fun y => y.leave p u.time.now).session o.session =
        { (u.ended o.session p st true).session o.session with piece := y } := by
      rw [State.onSession_same _ _ hi, hy]
    refine ⟨_, hexec, fun j hj hji => ?_, fun q hqs => ?_, Session.arrayStatus_kept, fun hno => ?_⟩
    · rw [State.onSession_other _ _ (Ne.symm hji), State.ended_other _ _ _ _ hji, hother j hji]
      exact vget_vset_other _ _ _ (Ne.symm hji)
    · have hops : ∀ c n, (((u.ended o.session p st true).onSession o.session fun y => y.leave p u.time.now).session
          o.session).op? c n = ((u.ended o.session p st true).session o.session).op? c n := by
        intro c n; rw [ht]; rfl
      rw [hops, State.ended_op? _ _ _ _ hi]
      split
      · rfl
      · rename_i hne
        rcases hqs with rfl | ⟨hscrub, hqf⟩
        · exact absurd ⟨rfl, rfl⟩ hne
        · refine hgone _ _ (.inr ⟨q, ?_, rfl, rfl⟩)
          rw [Session.feeding, if_neg hscrub]
          exact hqf
    · have hnil : x.feeding p = [] := by
        unfold Session.feeding
        split
        · rfl
        · rename_i hns; exact hno.resolve_left hns
      have huc : u = s.clocked o.session pf k := by
        rw [← hu, show (s.session o.session).feeding p = [] from hnil]; rfl
      obtain ⟨z, hz, he⟩ := s.clocked_ended pf k p st true hi
      have hsess : (u.ended o.session p st true).session o.session =
          { (s.ended o.session p st true).session o.session with piece := z } := by
        rw [huc, he]; exact vget_vset_same _ _ _ hi
      refine ⟨?_, ?_, ?_⟩
      · rw [State.onSession, State.setSession, huc, he]
      · rw [ht, hsess]
      · rw [ht]
        exact hheld.trans (by rw [hsess]; exact hz)

end Sys2Proof.Machine
end

section
/-! PROOFS. What memory work leaves of its session and of the dies. The accesses of the memory protection engine change a
session's memory record, contexts, vote reasons, sample ring and event records, and a die's store; `State.core` reads the
rest, so that each operation is one equation and a chain of operations is a rewriting. -/

namespace Sys2Proof.Machine

/-- A session but for what memory accesses and event counts may change. -/
def Session.core (x : Session) : Session :=
  { x with ctxs := Session.reset.ctxs, voteReasons := 0, ring := none, mem := MemRec.reset, outputs := [],
           num := NumRec.reset, scales := [], reblock := ReblockRec.reset }

/-- A die but for the bytes of its Sorting store. -/
def Die.core (d : Die) : Die := { d with store := [] }

/-- Session `i` and the dies, but for what memory accesses and event counts may change. -/
def State.core (s : State) (i : Nat) : Session × (Nat → Die) :=
  ((s.session i).core, fun k => (vget Die.reset s.dies k).core)

section
variable {s t : State} {i : Nat}

/-- States with the same sessions and dies. -/
theorem State.core_congr (h1 : t.sessions = s.sessions) (h2 : t.dies = s.dies) : t.core i = s.core i := by
  unfold State.core State.session
  rw [h1, h2]

theorem State.core_session (h : t.core i = s.core i) : (t.session i).core = (s.session i).core := congrArg Prod.fst h

theorem State.core_ops (h : t.core i = s.core i) : (t.session i).ops = (s.session i).ops :=
  congrArg (fun q => q.1.ops) h

theorem State.core_piece (h : t.core i = s.core i) : (t.session i).piece = (s.session i).piece :=
  congrArg (fun q => q.1.piece) h

theorem State.core_config (h : t.core i = s.core i) : (t.session i).config = (s.session i).config :=
  congrArg (fun q => q.1.config) h

theorem State.core_op? (h : t.core i = s.core i) (c q : Nat) : (t.session i).op? c q = (s.session i).op? c q := by
  rw [Session.op?, State.core_ops h]; rfl

end

/-! ### Steps of the state -/

theorem State.core_onSession (s : State) (i : Nat) (f : Session → Session)
    (h : (f (s.session i)).core = (s.session i).core) : (s.onSession i f).core i = s.core i := by
  unfold State.core
  by_cases hi : i < 4
  · rw [State.onSession_same s f hi, h]; rfl
  · rw [State.session, State.onSession, State.setSession, vset_beyond _ _ (by omega)]; rfl

@[simp] theorem State.core_onMem (s : State) (i : Nat) (f : MemRec → MemRec) : (s.onMem i f).core i = s.core i :=
  s.core_onSession i _ rfl

@[simp] theorem State.core_onChan (s : State) (i : Nat) (sp : Space) (f : Channel → Channel) :
    (s.onChan sp f).core i = s.core i := State.core_congr (by simp) (by simp)

/-- A fold of steps that keep the core. -/
theorem State.core_foldl {β : Type} {i : Nat} {f : State → β → State} (hf : ∀ s b, (f s b).core i = s.core i) (l : List β)
    (s : State) : (l.foldl f s).core i = s.core i := by
  induction l generalizing s with
  | nil => rfl
  | cons b l ih => rw [List.foldl_cons, ih, hf]

section
variable (s : State) (i : Nat)

@[simp] theorem State.core_sample (key ev : Nat) : (s.sample i key ev).core i = s.core i := by
  refine s.core_onSession i _ ?_
  obtain ⟨r, hr⟩ := (s.session i).requestSample_keeps (decide (s.queued (key / 64) < 4)) s.time.now (key / 64) (key % 64) ev
    (vget (Vector.replicate 16 0) s.perf.slots (key / 64))
  rw [hr]; rfl

@[simp] theorem State.core_bump (key n runs : Nat) : (s.bump i key n runs).core i = s.core i := by
  obtain ⟨d, p, l, ev, h⟩ := s.bump_cases i key n runs
  rw [h, State.core_foldl (fun t _ => t.core_sample i key ev)]
  rfl

@[simp] theorem State.core_perfRuns (u ev n runs : Nat) : (s.perfRuns i u ev n runs).core i = s.core i := by
  unfold State.perfRuns
  split
  · rfl
  · exact State.core_foldl (fun t (e : Nat × Counter) => t.core_bump i e.1 n runs) _ s

@[simp] theorem State.core_perfEvent (u ev n : Nat) : (s.perfEvent i u ev n).core i = s.core i := s.core_perfRuns i u ev n n

@[simp] theorem State.core_memEvent (sp : Space) (a b n : Nat) : (s.memEvent i sp a b n).core i = s.core i := by
  unfold State.memEvent
  split <;> split <;> simp

@[simp] theorem State.core_touch (sp : Space) (l : List Nat) : (s.touch sp l).core i = s.core i := by
  unfold State.touch
  split <;> rfl

@[simp] theorem State.core_touchData (sp : Space) (l : List Nat) : (s.touchData sp l).core i = s.core i := s.core_touch i sp _

theorem Session.core_stopCtx (x : Session) (c : Nat) (st : Status) : (x.stopCtx c st).core = x.core := by
  unfold Session.stopCtx Session.stopCtxAt
  split
  · split <;> rfl
  · rfl

theorem Session.core_stopAll (x : Session) (st : Status) : (x.stopAll st).core = x.core := by
  unfold Session.stopAll
  generalize List.range 4 = l
  induction l generalizing x with
  | nil => rfl
  | cons c l ih => rw [List.foldl_cons, ih, Session.core_stopCtx]

@[simp] theorem State.core_violation (sp : Space) (a k lv o : Nat) : (s.violation i sp a k lv o).core i = s.core i := by
  unfold State.violation
  extract_lets e t
  rw [State.core_onSession t i (fun x => x.stopAll stIntegrity) (Session.core_stopAll (t.session i) stIntegrity)]
  exact s.core_onMem i _

/-! ### The memory protection engine -/

@[simp] theorem State.core_fetchItem (sp : Space) (q : Item) : (s.fetchItem i sp q).1.core i = s.core i := by
  unfold State.fetchItem
  dsimp only
  split_ifs <;> simp

@[simp] theorem State.core_fetchAll (sp : Space) (l : List Item) : (s.fetchAll i sp l).1.core i = s.core i := by
  induction l generalizing s with
  | nil => rfl
  | cons q l ih =>
    unfold State.fetchAll
    dsimp only
    split
    · rw [ih, State.core_fetchItem]
    · exact s.core_fetchItem i sp q

@[simp] theorem State.core_reach (sp : Space) (l : List Item) : (s.reach i sp l).1.core i = s.core i := by
  unfold State.reach
  split
  · rfl
  · exact s.core_fetchAll i sp _

@[simp] theorem State.core_storeItem (sp : Space) (q : Item) : (s.storeItem i sp q).core i = s.core i := by
  unfold State.storeItem
  simp

@[simp] theorem State.core_checkLine (sp : Space) (line k : Nat) : (s.checkLine i sp line k).1.core i = s.core i := by
  unfold State.checkLine
  dsimp only
  split
  · simp
  · split <;> simp

@[simp] theorem State.core_renewLine (sp : Space) (line : Nat) : (s.renewLine i sp line).core i = s.core i := by
  unfold State.renewLine
  dsimp only
  split <;> simp

@[simp] theorem State.core_renewPage (sp : Space) (p : Nat) : (s.renewPage i sp p).core i = s.core i := by
  unfold State.renewPage
  simp [State.core_foldl (fun t l => State.core_renewLine t i sp l)]

@[simp] theorem State.core_plainVersion (sp : Space) (q : Item) : (s.plainVersion i sp q).1.core i = s.core i := by
  unfold State.plainVersion
  dsimp only
  split <;> simp

end

section
variable {next : State → Nat → Space → Item → State × Bool} {i : Nat} (hn : ∀ s sp q, (next s i sp q).1.core i = s.core i)
include hn

theorem State.core_evictBy (s : State) (sp : Space) (q : Item) : (State.evictBy next s i sp q).core i = s.core i := by
  unfold State.evictBy
  split
  · rfl
  · simp
  · dsimp only
    split
    · simp
    · split
      · split <;> simp [hn]
      · simp [hn]

theorem State.core_makeRoom (s : State) (sp : Space) (o : Nat) : (State.makeRoom next s i sp o).core i = s.core i := by
  have h : ∀ (n fuel k : Nat) (s : State), (State.makeRoomFor next i sp o n fuel k s).core i = s.core i := by
    intro n fuel
    induction fuel with
    | zero => exact fun _ _ => rfl
    | succ fuel ih =>
      intro k s
      unfold State.makeRoomFor
      dsimp only
      split
      · split
        · rw [ih, State.core_evictBy hn]
        · rfl
      · rfl
  exact (h _ _ _ _).trans rfl

end

/-! ### Sweeps, key epochs and walks -/

section
variable (s : State) (i : Nat) (sp : Space)

@[simp] theorem State.core_renewNodes (old : Channel) : (s.renewNodes i sp old).core i = s.core i :=
  State.core_foldl (fun t q => t.core_storeItem i sp q) _ s

@[simp] theorem State.core_sweepGroup (g : Nat) (mark : Channel → Channel) : (s.sweepGroup i sp g mark).core i = s.core i := by
  have hroom := State.core_makeRoom (fun s sp q => State.core_plainVersion s i sp q) s sp
  have hpages := fun (l : List Nat) (t : State) => State.core_foldl (fun t p => State.core_renewPage t i sp p) l t
  unfold State.sweepGroup
  dsimp only
  split_ifs <;> simp [hroom, hpages]

@[simp] theorem State.core_sweepUpTo (e : Nat) : (s.sweepUpTo i sp e).core i = s.core i := by
  unfold State.sweepUpTo
  split
  · simp [State.core_foldl (fun t g => State.core_sweepGroup t i sp g (·.sweptTo (g + 1)))]
  · rfl

@[simp] theorem State.core_endSweep : (s.endSweep i sp).core i = s.core i := by
  unfold State.endSweep
  extract_lets t
  have h : t.core i = s.core i := by
    unfold t
    split
    · split <;> simp
    · rfl
  clear_value t
  split
  · rw [State.core_onMem, h]
  · exact h

@[simp] theorem State.core_finishSweep : (s.finishSweep i).core i = s.core i :=
  State.core_foldl (fun t sp => (State.core_endSweep _ i sp).trans (t.core_sweepUpTo i sp _)) _ s

@[simp] theorem State.core_rollEpoch : (s.rollEpoch i).1.core i = s.core i := by
  unfold State.rollEpoch
  split
  · simp
  · dsimp only
    rw [State.core_foldl fun t sp => t.core_onChan i sp _, State.core_onMem]
    split <;> simp

@[simp] theorem State.core_nextVersion (q : Item) : (s.nextVersion i sp q).1.core i = s.core i := by
  unfold State.nextVersion
  dsimp only
  split_ifs <;> simp

@[simp] theorem State.core_walk (line : Nat) : (s.walk i sp line).1.core i = s.core i := by
  unfold State.walk
  rw [State.core_reach, State.core_makeRoom fun s sp q => State.core_nextVersion s i sp q]

@[simp] theorem State.core_refrank (p : Nat) : (s.refrank i sp p).1.core i = s.core i := by
  unfold State.refrank
  extract_lets c q r lines fresh t u
  have hr : r.1.core i = s.core i := by
    unfold r q
    split_ifs <;> simp
  clear_value r
  split
  · simp [u, t, hr]
  · exact hr

@[simp] theorem State.core_sweepAhead (g : Nat) : (s.sweepAhead i sp g).core i = s.core i := by
  unfold State.sweepAhead
  split
  · split <;> simp
  · rfl

@[simp] theorem State.core_advance (line : Nat) : (s.advance i sp line).1.core i = s.core i := by
  unfold State.advance
  dsimp only
  split_ifs <;> simp

@[simp] theorem State.core_poison (line : Nat) : (s.poison i sp line).core i = s.core i := by
  unfold State.poison
  extract_lets lines t r
  have h : ∀ (l : List Nat) (r : State × Bool),
      (l.foldl (fun (r : State × Bool) l => if r.2 then r.1.advance i sp l else r) r).1.core i = r.1.core i := by
    intro l
    induction l with
    | nil => exact fun _ => rfl
    | cons a l ih =>
      intro r
      rw [List.foldl_cons, ih]
      split <;> simp
  have hr : r.1.core i = s.core i := (h lines (t, true)).trans (by simp [t])
  clear_value r
  split <;> simp [hr]

@[simp] theorem State.core_readLine (line : Nat) (part : Bool) : (s.readLine i sp line part).1.core i = s.core i := by
  unfold State.readLine
  dsimp only
  split_ifs <;> simp

@[simp] theorem State.core_writeLine (line off : Nat) (b : Bytes) : (s.writeLine i sp line off b).1.core i = s.core i := by
  unfold State.writeLine
  dsimp only
  split_ifs <;> simp

end

end Sys2Proof.Machine
end

section
/-! PROOFS. What a job leaves: every access and count of a job keeps `Job.kept`, and so does each larger piece of work that
is made of them. -/

namespace Sys2Proof.Machine

/-! ### What work of a session keeps of the machine -/

/-- A state but for what work of session `i` may change. -/
def State.kept (s : State) (i : Nat) : State × (Nat → Die) :=
  ({ s with
      sessions := vset s.sessions i (s.session i).core, dies := State.reset.dies, channels := State.reset.channels
      far := State.reset.far, perf := Perf.reset, draws := 0, host := { s.host with dirty := [] } },
    (s.core i).2)

section
variable {s t : State} {i : Nat}

theorem State.kept_of (h : s.OwnWork t i) (hc : t.core i = s.core i) : t.kept i = s.kept i := by
  obtain ⟨h1, h2, _⟩ := h
  have hs : vset t.sessions i (t.session i).core = vset s.sessions i (s.session i).core := by
    apply Vector.ext
    intro j hj
    have hother : j ≠ i → t.sessions[j] = s.sessions[j] := by
      intro hji
      have := h2 j hj hji
      simpa [State.session, vget, hj] using this
    unfold vset
    rw [Vector.getElem_setIfInBounds, Vector.getElem_setIfInBounds, State.core_session hc]
    split
    · rfl
    · rename_i hne; exact hother (Ne.symm hne)
  have hst := congrArg (fun u : State => ({ u with
      sessions := vset s.sessions i (s.session i).core, dies := State.reset.dies, channels := State.reset.channels
      far := State.reset.far, perf := Perf.reset, draws := 0, host := { u.host with dirty := [] } } : State)) h1
  unfold State.kept
  rw [hs, hc]
  exact Prod.ext hst rfl

theorem State.core_of_kept (hi : i < 4) (h : t.kept i = s.kept i) : t.core i = s.core i := by
  have hx : (vget Session.reset (t.kept i).1.sessions i) = vget Session.reset (s.kept i).1.sessions i := by rw [h]
  have hc : (t.session i).core = (s.session i).core := by simpa [State.kept, hi] using hx
  have hd : (t.core i).2 = (s.core i).2 := congrArg (fun q => q.2) h
  exact Prod.ext hc hd

theorem State.ownWork_of_kept (hi : i < 4) (h : t.kept i = s.kept i) : s.OwnWork t i := by
  have hc := State.core_session (State.core_of_kept hi h)
  have hconfig : (t.session i).core.config = (s.session i).core.config := by rw [hc]
  have hlists : (t.session i).core.lists = (s.session i).core.lists := by rw [hc]
  have hkeys : (t.session i).core.cmdKeys = (s.session i).core.cmdKeys := by rw [hc]
  refine ⟨?_, fun j _ hji => ?_, hconfig, hlists, hkeys⟩
  · exact congrArg (fun q : State × (Nat → Die) => ({ q.1 with
      sessions := t.sessions, dies := t.dies, channels := t.channels, far := t.far, perf := t.perf, draws := t.draws
      host := { q.1.host with dirty := t.host.dirty } } : State)) h
  · have hx : (t.kept i).1.session j = (s.kept i).1.session j := by rw [h]
    simpa [State.kept, State.session, vget_vset_other _ _ _ (Ne.symm hji)] using hx

end

section
variable (s : State) (i : Nat)

@[simp] theorem State.kept_perfRuns (u ev n runs : Nat) : (s.perfRuns i u ev n runs).kept i = s.kept i :=
  State.kept_of (s.perfRuns_ownWork i u ev n runs) (s.core_perfRuns i u ev n runs)

@[simp] theorem State.kept_perfEvent (u ev n : Nat) : (s.perfEvent i u ev n).kept i = s.kept i := s.kept_perfRuns i u ev n n

end

/-! ### Jobs -/

/-- What a job keeps: its session, owner and resolution, and what work of its session keeps of the machine. -/
def Job.kept (j : Job) : (State × (Nat → Die)) × Nat × Nat × Table Bool := (j.st.kept j.sess, j.sess, j.owner, j.copies)

theorem Job.kept_of {j k : Job} (h : j.Goes k) (hc : k.st.core j.sess = j.st.core j.sess) : k.kept = j.kept := by
  obtain ⟨h1, h2, h3, h4⟩ := h
  rw [Job.kept, Job.kept, h2, h3, h4, State.kept_of h1 hc]

theorem Job.kept_st {j k : Job} (h : k.kept = j.kept) : k.st.kept j.sess = j.st.kept j.sess := by
  have hs : k.sess = j.sess := congrArg (fun q => q.2.1) h
  have hk : k.st.kept k.sess = j.st.kept j.sess := congrArg Prod.fst h
  rwa [hs] at hk

/-- A fold of steps that keep a job. -/
@[simp] theorem Job.kept_foldl {β : Type} {f : Job → β → Job} (hf : ∀ j b, (f j b).kept = j.kept) (l : List β) (j : Job) :
    (l.foldl f j).kept = j.kept := by
  induction l generalizing j with
  | nil => rfl
  | cons b l ih => rw [List.foldl_cons, ih, hf]

/-- A fold that carries a result beside the job. -/
@[simp] theorem Job.kept_foldl_fst {β γ : Type} {f : Job × γ → β → Job × γ} (hf : ∀ a b, (f a b).1.kept = a.1.kept)
    (l : List β) (a : Job × γ) : (l.foldl f a).1.kept = a.1.kept := by
  induction l generalizing a with
  | nil => rfl
  | cons b l ih => rw [List.foldl_cons, ih, hf]

/-! ### Accesses and counts -/

section
variable (j : Job)

theorem Job.core_noteStrike (b : Bool) : (j.noteStrike b).st = j.st ∧ (j.noteStrike b).sess = j.sess := by
  unfold Job.noteStrike
  split <;> exact ⟨rfl, rfl⟩

@[simp] theorem Job.kept_readRun (a n : Nat) : (j.readRun a n).1.kept = j.kept := by
  refine Job.kept_of (j.readRun_goes a n) ?_
  unfold Job.readRun
  split
  · simp only []
    split
    · rfl
    · rename_i o c cpa _
      generalize ((j.st.session j.sess).struck o || (j.st.session j.sess).struck j.owner) = struck
      split
      · rfl
      · obtain ⟨hst, hsess⟩ := j.core_noteStrike struck
        rw [hst, hsess]
        exact State.core_readLine j.st j.sess (.hbm c) (cpa / 64) false
  · rfl

@[simp] theorem Job.kept_readHbm (a n : Nat) : (j.readHbm a n).1.kept = j.kept := by
  unfold Job.readHbm
  simp

@[simp] theorem Job.kept_writeRun (a : Nat) (b : Bytes) : (j.writeRun a b).kept = j.kept := by
  refine Job.kept_of (j.writeRun_goes a b) ?_
  unfold Job.writeRun
  split
  · simp only []
    split
    · rfl
    · rename_i c cpa _
      split
      · rfl
      · have h := State.core_writeLine j.st j.sess (.hbm c) (cpa / 64) (cpa % 64) b
        generalize j.st.writeLine j.sess (.hbm c) (cpa / 64) (cpa % 64) b = w at h
        simp only [Job.meet]
        split
        · exact (State.core_onSession w.1 j.sess _ rfl).trans h
        · exact h
  · rfl

@[simp] theorem Job.kept_writeHbm (a : Nat) (b : Bytes) : (j.writeHbm a b).kept = j.kept := by
  unfold Job.writeHbm
  simp

@[simp] theorem Job.kept_readStore (d o n : Nat) : (j.readStore d o n).1.kept = j.kept := by
  refine Job.kept_of (j.readStore_goes d o n) ?_
  unfold Job.readStore
  split
  · dsimp only
    split
    · rfl
    · obtain ⟨hst, hsess⟩ := j.core_noteStrike ((j.st.session j.sess).struck j.owner)
      simp only [hst, hsess, State.core_perfEvent]
  · rfl

/-- A write of a die's store leaves the rest of the die. -/
theorem State.core_store (s : State) (i d : Nat) (m : Memory) :
    ({ s with dies := vset s.dies d { vget Die.reset s.dies d with store := m } } : State).core i = s.core i := by
  refine Prod.ext rfl (funext fun k => ?_)
  simp only [State.core, vget_vset]
  split
  · rename_i h; rw [← h.1]; rfl
  · rfl

@[simp] theorem Job.kept_writeStore (d o : Nat) (b : Bytes) : (j.writeStore d o b).kept = j.kept := by
  refine Job.kept_of (j.writeStore_goes d o b) ?_
  unfold Job.writeStore
  split
  · split
    · rfl
    · dsimp only
      rw [State.core_store, State.core_onSession _ _ _ rfl, State.core_perfEvent]
  · rfl

@[simp] theorem Job.kept_read (p : Place) (n : Nat) : (j.read p n).1.kept = j.kept := by
  cases p <;> simp [Job.read]

@[simp] theorem Job.kept_write (p : Place) (b : Bytes) : (j.write p b).kept = j.kept := by
  cases p <;> simp [Job.write]

@[simp] theorem Job.kept_writeCodes (p : Place) (w : Nat) (cs : List Nat) : (j.writeCodes p w cs).kept = j.kept := by
  unfold Job.writeCodes
  dsimp only
  split_ifs <;> simp

theorem Job.core_count (k : Nat) (c : Counts) : (j.count k c).st.core j.sess = j.st.core j.sess := by
  unfold Job.count
  refine State.core_onSession _ _ _ ?_
  dsimp only
  split <;> rfl

@[simp] theorem Job.kept_count (k : Nat) (c : Counts) : (j.count k c).kept = j.kept :=
  Job.kept_of (j.count_goes k c) (j.core_count k c)

@[simp] theorem Job.kept_intake (c : Counts) : (j.intake c).kept = j.kept := j.kept_count _ _

/-- A count of the re-blocking record. -/
theorem Job.kept_reblock (f : ReblockRec → ReblockRec) :
    ({ j with st := j.st.onSession j.sess fun x => { x with reblock := f x.reblock } } : Job).kept = j.kept :=
  Job.kept_of ⟨State.OwnWork.onSession j.st j.sess (fun x => { x with reblock := f x.reblock }) rfl rfl rfl, rfl, rfl, rfl⟩
    (State.core_onSession j.st j.sess _ rfl)

/-! ### The drain's programs and conversions -/

@[simp] theorem Job.kept_putRow (sp : OutSpec) (r c0 : Nat) (codes scales : List Nat) :
    (j.putRow sp r c0 codes scales).kept = j.kept := by
  unfold Job.putRow
  dsimp only
  split <;> simp

@[simp] theorem Job.kept_convertRow (o : Op) (sp : OutSpec) (c0 : Nat) (row : Nat × List Acc) :
    (j.convertRow o sp c0 row).kept = j.kept := by
  unfold Job.convertRow
  dsimp only
  split <;> simp

@[simp] theorem Job.kept_convertDual (o : Op) (sp : OutSpec) (c0 : Nat) (rows : List (Nat × List Acc)) :
    (j.convertDual o sp c0 rows).kept = j.kept := by
  unfold Job.convertDual
  extract_lets x f s rnd es n parts qs counted df noted rowCodes put
  have hcounted : counted.kept = j.kept := j.kept_count _ _
  have hnoted : noted.kept = counted.kept :=
    counted.kept_reblock fun b => { b with dualFlush := satAdd b.dualFlush df }
  have hput : put.kept = noted.kept := Job.kept_foldl (fun k _ => k.kept_putRow _ _ _ _ _) _ _
  have hall : put.kept = j.kept := hput.trans (hnoted.trans hcounted)
  split
  · exact hall
  · rw [Job.kept_write, hall]

@[simp] theorem Job.kept_convertRows (o : Op) (sp : OutSpec) (c0 : Nat) (rows : List (Nat × List Acc)) :
    (j.convertRows o sp c0 rows).kept = j.kept := by
  unfold Job.convertRows
  split <;> simp

@[simp] theorem Job.kept_readBf16 (p : Place) (n : Nat) : (j.readBf16 p n).1.kept = j.kept := by
  unfold Job.readBf16
  simp

@[simp] theorem Job.kept_colvec (e : Bytes) (die c0 n : Nat) : (j.colvec e die c0 n).1.kept = j.kept := by
  unfold Job.colvec
  dsimp only
  split_ifs <;> simp

@[simp] theorem Job.kept_colvecs (e : Bytes) (c0 n : Nat) (rows : List Nat) : (j.colvecs e c0 n rows).1.kept = j.kept := by
  unfold Job.colvecs
  simp

@[simp] theorem Job.kept_rowInputs (e : Bytes) (cv : List Acc) (side pitch r c0 n : Nat) :
    (j.rowInputs e cv side pitch r c0 n).1.kept = j.kept := by
  unfold Job.rowInputs
  dsimp only
  split_ifs <;> simp

@[simp] theorem Job.kept_sideOut (p : Place) (row : List Acc) : (j.sideOut p row).kept = j.kept := by
  unfold Job.sideOut
  simp

@[simp] theorem Job.kept_addColred (e : Bytes) (rows : List (List (Acc × Acc))) : (j.addColred e rows).kept = j.kept := by
  unfold Job.addColred
  simp

@[simp] theorem Job.kept_runRows (o : Op) (e : Bytes) (sd : SideSpec) (sp : OutSpec) (c0 : Nat)
    (rows : List (Nat × List Acc)) : (j.runRows o e sd sp c0 rows).kept = j.kept := by
  unfold Job.runRows
  dsimp only
  split
  all_goals
    simp only [Job.kept_foldl, Job.kept_addColred, implies_true, Job.kept_convertRows]
    rw [Job.kept_foldl_fst, Job.kept_colvecs]
    intro a b
    dsimp only
    split <;> split <;> simp

@[simp] theorem Job.kept_drainRows (o : Op) (p : Product) (r0 c0 : Nat) (accs : List (List Acc)) :
    (j.drainRows o p r0 c0 accs).kept = j.kept := by
  unfold Job.drainRows
  simp

/-! ### The Pigeonhole's conversions and the operands of a tile -/

@[simp] theorem Job.kept_phSource (die : Nat) (d : Bytes) : (j.phSource die d).1.kept = j.kept := by
  unfold Job.phSource
  dsimp only
  split <;> simp

@[simp] theorem Job.kept_phConvert (o : Op) (die : Nat) : (j.phConvert o die).1.kept = j.kept := by
  unfold Job.phConvert
  dsimp only
  split <;> simp

@[simp] theorem Job.kept_phCount (o : Op) (lines : List LineStat) : (j.phCount o lines).kept = j.kept := by
  unfold Job.phCount
  extract_lets d counted
  have hcounted : counted.kept = j.kept := j.kept_count _ _
  split
  · refine (counted.kept_reblock fun b => { b with
      elem := satAdd b.elem (lines.map (·.elem)).sum, inexact := satAdd b.inexact (lines.map (·.inexact)).sum
      flush := satAdd b.flush (lines.map (·.flush)).sum }).trans hcounted
  · exact hcounted

@[simp] theorem Job.kept_perfEvent (u ev n : Nat) : ({ j with st := j.st.perfEvent j.sess u ev n } : Job).kept = j.kept := by
  simp [Job.kept]

/-- A stream that feeds an operation works for its own owner and leaves the operation's job its own. -/
@[simp] theorem Job.kept_feed (o : Op) (die n : Nat) (use : Nat → Bool) (byRow : Bool) :
    (j.feed o die n use byRow).1.kept = j.kept := by
  have h : ∀ t : Job, t.kept = (j.as o (phParty o.desc)).kept →
      ({ j with st := t.st, status := t.status } : Job).kept = j.kept := by
    intro t ht
    have hst := Job.kept_st ht
    rw [Job.kept, Job.kept]
    exact congrArg (fun q => (q, j.sess, j.owner, j.copies)) hst
  unfold Job.feed
  dsimp only
  apply h
  split <;> split <;> simp

@[simp] theorem Job.kept_aLines (user : Nat × Nat) (p : Product) (r0 cnt : Nat) : (j.aLines user p r0 cnt).1.kept = j.kept := by
  unfold Job.aLines
  dsimp only
  split
  · rw [Job.kept_foldl_fst]
    intro a b
    split <;> simp
  · rw [Job.kept_foldl_fst]
    intro a b
    dsimp only
    split <;> simp

@[simp] theorem Job.kept_bLines (user : Nat × Nat) (p : Product) (n0 cnt : Nat) : (j.bLines user p n0 cnt).1.kept = j.kept := by
  unfold Job.bLines
  dsimp only
  split
  · split <;> simp
  · split <;> simp

end

end Sys2Proof.Machine
end

section
/-! PROOFS. The tiles of array operations: the operands that an operation without streams reads are those the Sorting
stores hold, issue forms a tile of them, and a drain takes the oldest tile. -/

namespace Sys2Proof.Machine

/-! ### Counting on the way to a tile -/

theorem State.perfEvent_dies (s : State) (i u ev n : Nat) : (s.perfEvent i u ev n).dies = s.dies := by
  obtain ⟨h, _, _⟩ := s.perfEvent_looks i u ev n
  rw [h]

section
variable (s : State) (i : Nat) (x : Session)

@[simp] theorem State.kept_pieceRuns (ev n runs : Nat) : (s.pieceRuns i x ev n runs).kept i = s.kept i := by
  unfold State.pieceRuns
  generalize x.dieList = l
  induction l generalizing s with
  | nil => rfl
  | cons q l ih => rw [List.foldl_cons, ih, State.kept_perfRuns]

@[simp] theorem State.kept_pieceEvent (ev n : Nat) : (s.pieceEvent i x ev n).kept i = s.kept i := s.kept_pieceRuns i x ev n n

@[simp] theorem State.pieceEvent_dies (ev n : Nat) : (s.pieceEvent i x ev n).dies = s.dies := by
  unfold State.pieceEvent State.pieceRuns
  generalize x.dieList = l
  induction l generalizing s with
  | nil => rfl
  | cons q l ih => rw [List.foldl_cons, ih, ← State.perfEvent, State.perfEvent_dies]

@[simp] theorem State.kept_boardPasses (passes cols rows : Nat) : (s.boardPasses i passes cols rows).kept i = s.kept i := by
  unfold State.boardPasses
  extract_lets y
  generalize List.range y.dies = l
  clear_value y
  induction l generalizing s with
  | nil => rfl
  | cons q l ih => rw [List.foldl_cons, ih, State.kept_perfRuns]

end

theorem State.tileSlots_perf (s : State) (x : Session) (rows cols kc : Nat) :
    ∃ p, s.tileSlots x rows cols kc = { s with perf := p } :=
  State.foldl_perf (fun s _ => s.addSlots_perf _ _) _ s

theorem State.heldWait_draws (s : State) (p : Piece) (w : Nat) : ∃ d, (s.heldWait p w).2 = { s with draws := d } := by
  unfold State.heldWait
  extract_lets h
  split
  · exact ⟨s.draws, rfl⟩
  · exact ⟨s.draws + 1, rfl⟩

/-! ### Reading stored operands -/

theorem Session.struck_core {x y : Session} (h : x.core = y.core) (owner : Nat) : x.struck owner = y.struck owner := by
  have hx : x.core.struck owner = y.core.struck owner := by rw [h]
  exact hx

/-- A job that reads the Sorting stores for an array operation of owner `party`, which runs to its last tile whether or not
its owner has been struck (R85). -/
structure Job.Reads (j : Job) (s : State) (i party : Nat) : Prop where
  through : j.through = true
  sess : j.sess = i
  owner : j.owner = party
  core : j.st.core i = s.core i
  dies : j.st.dies = s.dies
  status : j.status = stOk ∨ j.status = stRevoked ∧ (s.session i).struck party = true

section
variable {j : Job} {s : State} {i party : Nat}

theorem Job.Reads.struck (h : j.Reads s i party) : (j.st.session j.sess).struck j.owner = (s.session i).struck party := by
  rw [h.sess, h.owner]
  exact Session.struck_core (State.core_session h.core) party

theorem Job.Reads.live (h : j.Reads s i party) : j.live = true := by
  rcases h.status with hs | ⟨hs, _⟩ <;> simp [Job.live, hs, h.through]

theorem Job.Reads.statusOk (h : j.Reads s i party) (hn : (s.session i).struck party = false) : j.status = stOk := by
  rcases h.status with hs | ⟨_, hs⟩
  · exact hs
  · rw [hn] at hs; cases hs

theorem Job.Reads.noteStrike (h : j.Reads s i party) : (j.noteStrike ((s.session i).struck party)).Reads s i party := by
  unfold Job.noteStrike
  split
  next hstruck =>
    refine { h with status := ?_ }
    rcases h.status with hs | ⟨hs, _⟩ <;> simp [Job.meet, hs, hstruck]
  next => exact h

theorem Job.Reads.count (h : j.Reads s i party) (k : Nat) (c : Counts) : (j.count k c).Reads s i party := by
  obtain ⟨hthrough, hsess, howner, hcore, hdies, hstatus⟩ := h
  have hcount := j.core_count k c
  rw [hsess] at hcount
  exact ⟨hthrough, hsess, howner, hcount.trans hcore, hdies, hstatus⟩

theorem Job.Reads.readStore (h : j.Reads s i party) (d o n : Nat) :
    (j.readStore d o n).1.Reads s i party ∧ (j.readStore d o n).2 = memLoad (vget Die.reset s.dies d).store o n := by
  have hread : j.readStore d o n =
      ({ j.noteStrike ((s.session i).struck party) with
          st := (j.noteStrike ((s.session i).struck party)).st.perfEvent i d 0x010 ((n + 63) / 64) },
        memLoad (vget Die.reset s.dies d).store o n) := by
    have hn := h.noteStrike
    simp [Job.readStore, h.live, Job.dropsRead, h.through, h.struck, hn.sess, hn.dies]
  rw [hread]
  obtain ⟨hthrough, hsess, howner, hcore, hdies, hstatus⟩ := h.noteStrike
  refine ⟨⟨hthrough, hsess, howner, ?_, ?_, hstatus⟩, rfl⟩
  · rw [State.core_perfEvent, hcore]
  · rw [State.perfEvent_dies, hdies]

/-- A fold of reads that puts each result in front. -/
theorem Job.Reads.foldl_cons {β γ : Type} {f : Job × List γ → β → Job × List γ} {g : β → γ}
    (hf : ∀ a b, a.1.Reads s i party → (f a b).1.Reads s i party ∧ (f a b).2 = g b :: a.2) (l : List β) (h : j.Reads s i party) :
    (l.foldl f (j, [])).1.Reads s i party ∧ (l.foldl f (j, [])).2.reverse = l.map g := by
  have hall : ∀ a : Job × List γ, a.1.Reads s i party →
      (l.foldl f a).1.Reads s i party ∧ (l.foldl f a).2.reverse = a.2.reverse ++ l.map g := by
    induction l with
    | nil => exact fun a ha => ⟨ha, by simp⟩
    | cons b l ih =>
      intro a ha
      obtain ⟨hreads, hvalue⟩ := hf a b ha
      obtain ⟨hrest, hvalues⟩ := ih _ hreads
      exact ⟨hrest, by rw [List.foldl_cons, hvalues, hvalue]; simp⟩
  simpa using hall (j, []) h

/-- A fold of reads that puts each result at the end. -/
theorem Job.Reads.foldl_append {β γ : Type} {f : Job × List γ → β → Job × List γ} {g : β → γ}
    (hf : ∀ a b, a.1.Reads s i party → (f a b).1.Reads s i party ∧ (f a b).2 = a.2 ++ [g b]) (l : List β)
    (h : j.Reads s i party) : (l.foldl f (j, [])).1.Reads s i party ∧ (l.foldl f (j, [])).2 = l.map g := by
  have hall : ∀ a : Job × List γ, a.1.Reads s i party →
      (l.foldl f a).1.Reads s i party ∧ (l.foldl f a).2 = a.2 ++ l.map g := by
    induction l with
    | nil => exact fun a ha => ⟨ha, by simp⟩
    | cons b l ih =>
      intro a ha
      obtain ⟨hreads, hvalue⟩ := hf a b ha
      obtain ⟨hrest, hvalues⟩ := ih _ hreads
      exact ⟨hrest, by rw [List.foldl_cons, hvalues, hvalue]; simp⟩
  simpa using hall (j, []) h

/-- The piece's shape is that of the session before the reads. -/
theorem Job.Reads.shape (h : j.Reads s i party) : (j.st.session j.sess).top = (s.session i).top ∧
    (j.st.session j.sess).dies = (s.session i).dies ∧
    ∀ r, (j.st.session j.sess).localRow r = (s.session i).localRow r := by
  have hc : (j.st.session j.sess).config = (s.session i).config := by rw [h.sess]; exact State.core_config h.core
  have hp : (j.st.session j.sess).pieceCode = (s.session i).pieceCode := by
    simp only [Session.pieceCode, Session.cfg, hc]
  simp [Session.top, Session.dies, Session.localRow, hp]

/-- Operand A of an operation without streams is what the Sorting stores hold. -/
theorem Job.Reads.aLines (h : j.Reads s i party) (user : Nat × Nat) (p : Product) (r0 cnt : Nat) (ha : p.aSrc ≠ 1) :
    (j.aLines user p r0 cnt).1.Reads s i party ∧ (j.aLines user p r0 cnt).2 = s.storedA (s.session i) p r0 cnt := by
  obtain ⟨htop, hdies, hlocal⟩ := h.shape
  unfold Job.aLines State.storedA
  extract_lets x f
  rw [if_neg ha]
  refine Job.Reads.foldl_cons (fun a k hreads => ?_) _ h
  obtain ⟨hcodes, hcodesRead⟩ := hreads.readStore (x.top + (r0 + k) / 512 % x.dies) (p.aBase + x.localRow (r0 + k) * p.aPitch)
    ((f.container * p.k + 7) / 8)
  obtain ⟨hscales, hscalesRead⟩ := hcodes.readStore (x.top + (r0 + k) / 512 % x.dies)
    (p.aSBase + x.localRow (r0 + k) * (p.k / 32)) (p.k / 32)
  by_cases hb : p.aBlk = true
  · simp only [hb, if_true]
    exact ⟨hscales.count _ _, by rw [hcodesRead, hscalesRead, htop, hdies, hlocal]⟩
  · simp only [if_neg hb]
    exact ⟨hcodes.count _ _, by rw [hcodesRead, htop, hdies, hlocal]⟩

/-- The rows of codes that `Job.bLines` reads of a stored operand, the last in front. -/
def Job.bRows (j : Job) (p : Product) (die n0 cnt : Nat) : Job × List (List Nat) :=
  (List.range p.k).foldl (fun (acc : Job × List (List Nat)) k =>
    let r := acc.1.readStore die (p.bBase + k * p.bPitch + (Fmt.ofCode p.bFmt).container * n0 / 8)
      (((Fmt.ofCode p.bFmt).container * cnt + 7) / 8)
    (r.1, unpack (Fmt.ofCode p.bFmt).container cnt r.2 :: acc.2)) (j, [])

/-- The rows of block scales that `Job.bLines` reads of a stored operand. -/
def Job.bScales (j : Job) (p : Product) (die n0 cnt : Nat) : Job × List (List Nat) :=
  (List.range (p.k / 32)).foldl (fun (acc : Job × List (List Nat)) kb =>
    let r := acc.1.readStore die (p.bSBase + kb * p.n + n0) cnt
    (r.1, acc.2 ++ [r.2.map BitVec.toNat])) (j, [])

/-- The columns of a stored operand B, from its rows of codes and scales. -/
def Product.bColumns (p : Product) (cnt : Nat) (rows scales : List (List Nat)) : List (Line × Counts) :=
  (List.range cnt).map fun c => mkLine (Fmt.ofCode p.bFmt) (rows.map fun row => row.getD c 0)
    (if p.bBlk then scales.map fun row => row.getD c 0x7F else unitScales p.k)

theorem Job.bLines_stored (j : Job) (user : Nat × Nat) (p : Product) (n0 cnt : Nat) (hb : p.bSrc ≠ 1) :
    let rows := j.bRows p (j.st.session j.sess).top n0 cnt
    let scales := if p.bBlk then rows.1.bScales p (j.st.session j.sess).top n0 cnt else (rows.1, [])
    let got := p.bColumns cnt rows.2.reverse scales.2
    j.bLines user p n0 cnt = (scales.1.intake (Counts.sum (got.map (·.2))), got.map (·.1)) := by
  unfold Job.bLines
  extract_lets _ _ rows scales got
  rw [if_neg hb]
  rfl

theorem Job.Reads.bRows (h : j.Reads s i party) (p : Product) (die n0 cnt : Nat) :
    (j.bRows p die n0 cnt).1.Reads s i party ∧ (j.bRows p die n0 cnt).2.reverse = (List.range p.k).map fun k =>
      unpack (Fmt.ofCode p.bFmt).container cnt (memLoad (vget Die.reset s.dies die).store
        (p.bBase + k * p.bPitch + (Fmt.ofCode p.bFmt).container * n0 / 8) (((Fmt.ofCode p.bFmt).container * cnt + 7) / 8)) := by
  refine Job.Reads.foldl_cons (fun a k hreads => ?_) _ h
  obtain ⟨hread, hvalue⟩ := hreads.readStore die (p.bBase + k * p.bPitch + (Fmt.ofCode p.bFmt).container * n0 / 8)
    (((Fmt.ofCode p.bFmt).container * cnt + 7) / 8)
  exact ⟨hread, by dsimp only; rw [hvalue]⟩

theorem Job.Reads.bScales (h : j.Reads s i party) (p : Product) (die n0 cnt : Nat) :
    (j.bScales p die n0 cnt).1.Reads s i party ∧ (j.bScales p die n0 cnt).2 = (List.range (p.k / 32)).map fun kb =>
      (memLoad (vget Die.reset s.dies die).store (p.bSBase + kb * p.n + n0) cnt).map BitVec.toNat := by
  refine Job.Reads.foldl_append (fun a kb hreads => ?_) _ h
  obtain ⟨hread, hvalue⟩ := hreads.readStore die (p.bSBase + kb * p.n + n0) cnt
  exact ⟨hread, by dsimp only; rw [hvalue]⟩

/-- Operand B of an operation without streams is what the top Sorting store holds. -/
theorem Job.Reads.bLines (h : j.Reads s i party) (user : Nat × Nat) (p : Product) (n0 cnt : Nat) (hb : p.bSrc ≠ 1) :
    (j.bLines user p n0 cnt).1.Reads s i party ∧ (j.bLines user p n0 cnt).2 = s.storedB (s.session i) p n0 cnt := by
  obtain ⟨htop, -, -⟩ := h.shape
  rw [j.bLines_stored user p n0 cnt hb, htop]
  obtain ⟨hrows, hrowsRead⟩ := h.bRows p (s.session i).top n0 cnt
  obtain ⟨hscales, hscalesRead⟩ := hrows.bScales p (s.session i).top n0 cnt
  by_cases hblk : p.bBlk = true
  · simp only [hblk, if_true]
    refine ⟨hscales.count _ _, ?_⟩
    rw [hrowsRead, hscalesRead]
    simp [State.storedB, Product.bColumns, hblk]
  · simp only [if_neg hblk]
    refine ⟨hrows.count _ _, ?_⟩
    rw [hrowsRead]
    simp [State.storedB, Product.bColumns, hblk]

end

end Sys2Proof.Machine
end

section
/-! PROOFS. O34. The issue of a tile. -/

namespace Sys2Proof.Machine

/-- The tile that `State.issueTile` forms from its operands' rows and columns. -/
def Session.formTile (x : Session) (o : Op) (comp : Bool) (n : Nat) (as bs : List Line) : Tile :=
  let p := x.product o.desc comp
  let at_ := p.tileAt x.height n
  let extent := p.extent x.height at_.1 at_.2
  { ctx := o.ctx, seq := o.seq, companion := comp, rowTile := at_.1, colTile := at_.2, rows := extent.1, cols := extent.2
    accs := tileAccs (if aContinue o.desc then x.piece.held else none) as bs }

/-- The job of a tile's issue after its rows of A. -/
def State.issueRows (u : State) (i : Nat) (x : Session) (o : Op) (comp : Bool) (n : Nat) : Job × List Line :=
  let p := x.product o.desc comp
  let at_ := p.tileAt x.height n
  (u.arrayJob i o (aParty o.desc)).aLines (o.ctx, o.seq) p (at_.1 * x.height) (p.extent x.height at_.1 at_.2).1

/-- The job of a tile's issue after its columns of B. -/
def State.issueColumns (u : State) (i : Nat) (x : Session) (o : Op) (comp : Bool) (n : Nat) : Job × List Line :=
  let p := x.product o.desc comp
  let at_ := p.tileAt x.height n
  (u.issueRows i x o comp n).1.bLines (o.ctx, o.seq) p (at_.2 * 1024) (p.extent x.height at_.1 at_.2).2

/-- The piece after a tile's issue: the tile held or in the free bank, and the piece's clocks and counts. -/
def Session.issuedPiece (y : Session) (o : Op) (tile : Tile) (start kc : Nat) (now : W64) : Piece :=
  let last := decide (o.progress + 1 = y.tileCount o.desc)
  { y.piece with
      held := if aHold o.desc then some tile else if aContinue o.desc then none else y.piece.held
      tiles := if aHold o.desc then y.piece.tiles else y.piece.tiles ++ [tile]
      bank := if aHold o.desc then y.piece.bank else !y.piece.bank
      prev := y.piece.last, last := some (start, kc, 0), lastHeld := aHold o.desc, clock := start
      retired := (List.range y.dies).map fun k => y.piece.retired.getD k 0 + realBlocks k tile.rows tile.cols * kc
      opened := if last then y.piece.opened.drop 1 else y.piece.opened
      idleSince := if last then now else y.piece.idleSince }

/-- A session after a tile's issue: the operation one tile further, and its piece. -/
def Session.issued (y : Session) (o : Op) (st : Status) (piece : Piece) : Session :=
  { y.setOp { o with progress := o.progress + 1, status := st } with piece := piece }

@[simp] theorem Session.issued_piece (y : Session) (o : Op) (st : Status) (piece : Piece) :
    (y.issued o st piece).piece = piece := rfl

theorem Session.issued_op? {y : Session} {o p : Op} (st : Status) (piece : Piece) (h : y.op? o.ctx o.seq = some p) :
    (y.issued o st piece).op? o.ctx o.seq = some { o with progress := o.progress + 1, status := st } :=
  Session.op?_setOp (o := { o with progress := o.progress + 1, status := st }) h

/-- The slots and events that a tile's issue counts before its operands are read. -/
def State.issueCounts (s : State) (i : Nat) (x : Session) (o : Op) (comp : Bool) (n a b : Nat) : State :=
  let p := x.product o.desc comp
  let at_ := p.tileAt x.height n
  let extent := p.extent x.height at_.1 at_.2
  let wait := x.piece.issueAt - x.piece.operandsAt
  let thr := throttleHold (s.pieceThrottle x) (x.piece.issueAt + a + b) p.clocks
  let held := s.heldWait x.piece wait
  let s := held.2.tileSlots x extent.1 extent.2 p.clocks
  let s := s.pieceSlots x 9 (wait - held.1)
  let s := s.pieceSlots x 8 held.1
  let s := s.pieceSlots x 5 a
  let s := s.pieceSlots x 6 b
  let s := s.pieceSlots x 7 thr
  let s := s.pieceEvent i x 0x001 1
  let s := s.pieceEvent i x 0x002 (a + b + thr)
  s.pieceEvent i x 0x004 b

/-- A step that keeps what work of session `i` keeps, and the dies. -/
def State.CountsOf (s t : State) (i : Nat) : Prop := t.kept i = s.kept i ∧ t.dies = s.dies

theorem State.CountsOf.of_perf {s t : State} {i : Nat} (h : ∃ p, t = { s with perf := p }) : s.CountsOf t i := by
  obtain ⟨p, rfl⟩ := h
  exact ⟨rfl, rfl⟩

theorem State.CountsOf.trans {s t u : State} {i : Nat} (h : s.CountsOf t i) (g : t.CountsOf u i) : s.CountsOf u i := by
  obtain ⟨h1, h2⟩ := h
  obtain ⟨g1, g2⟩ := g
  exact ⟨g1.trans h1, g2.trans h2⟩

theorem State.issueCounts_countsOf (s : State) (i : Nat) (x : Session) (o : Op) (comp : Bool) (n a b : Nat) :
    s.CountsOf (s.issueCounts i x o comp n a b) i := by
  have hslots := fun (t : State) cls m => State.CountsOf.of_perf (i := i) (t.pieceSlots_perf x cls m)
  have hevent : ∀ (t : State) ev m, t.CountsOf (t.pieceEvent i x ev m) i :=
    fun t ev m => ⟨t.kept_pieceEvent i x ev m, t.pieceEvent_dies i x ev m⟩
  unfold State.issueCounts
  extract_lets p at_ extent wait thr held s1 s2 s3 s4 s5 s6 s7 s8
  have hheld : s.CountsOf held.2 i := by
    obtain ⟨d, hd⟩ := s.heldWait_draws x.piece wait
    unfold held
    rw [hd]
    exact ⟨rfl, rfl⟩
  exact hheld.trans <| (State.CountsOf.of_perf (held.2.tileSlots_perf x _ _ _)).trans <| (hslots s1 9 _).trans <|
    (hslots s2 8 _).trans <| (hslots s3 5 a).trans <| (hslots s4 6 b).trans <| (hslots s5 7 thr).trans <|
    (hevent s6 1 1).trans <| (hevent s7 2 _).trans (hevent s8 4 b)

/-- Issue, as what its counts leave and what the piece and the operation become. -/
theorem State.issueTile_eq (s : State) (i a b : Nat) {o : Op} {comp : Bool} {n : Nat}
    (hn : (s.session i).nextTile = some (o, comp, n)) :
    ∃ (u : State) (start kc : Nat), s.CountsOf u i ∧
      let rows := u.issueRows i (s.session i) o comp n
      let columns := u.issueColumns i (s.session i) o comp n
      s.issueTile i a b = columns.1.st.onSession i fun y =>
        y.issued o columns.1.status
          (y.issuedPiece o ((s.session i).formTile o comp n rows.2 columns.2) start kc u.time.now) := by
  unfold State.issueTile
  simp only [hn]
  exact ⟨s.issueCounts i (s.session i) o comp n a b, _, _, s.issueCounts_countsOf i _ o comp n a b, rfl⟩

theorem Session.nextTile_op? {x : Session} {o : Op} {comp : Bool} {n : Nat} (h : x.nextTile = some (o, comp, n)) :
    x.op? o.ctx o.seq = some o := by
  unfold Session.nextTile at h
  split at h
  next => cases h
  next c q _ _ =>
    split at h
    next o' ho =>
      split at h
      · obtain rfl : o' = o := by simpa using congrArg (fun t => t.map (·.1)) h
        obtain ⟨hc, hq, -⟩ := Session.op?_some ho
        rw [hc, hq]
        exact ho
      · cases h
    next => cases h

section
variable {s u : State} {i : Nat}

theorem State.CountsOf.core (h : s.CountsOf u i) (hi : i < 4) : u.core i = s.core i := State.core_of_kept hi h.1

theorem State.kept_issueColumns (x : Session) (o : Op) (comp : Bool) (n : Nat) :
    (u.issueColumns i x o comp n).1.st.kept i = u.kept i := by
  have h : (u.issueColumns i x o comp n).1.kept = (u.arrayJob i o (aParty o.desc)).kept := by
    simp [State.issueColumns, State.issueRows]
  exact Job.kept_st h

/-- The job of an array operation that has met no bad status reads the stores as they are. -/
theorem State.arrayJob_reads (hcore : u.core i = s.core i) (hdies : u.dies = s.dies) {o : Op} (ho : o.status = stOk) :
    (u.arrayJob i o (aParty o.desc)).Reads s i (aParty o.desc) :=
  ⟨rfl, rfl, rfl, hcore, hdies, .inl ho⟩

variable {o : Op} (comp : Bool) (n : Nat) (hcounts : s.CountsOf u i) (hi : i < 4) (ho : o.status = stOk)
include hcounts hi ho

theorem State.issueRows_stored (ha : ((s.session i).product o.desc comp).aSrc ≠ 1) :
    (u.issueRows i (s.session i) o comp n).1.Reads s i (aParty o.desc) ∧
      (u.issueRows i (s.session i) o comp n).2 =
        s.storedA (s.session i) ((s.session i).product o.desc comp)
          ((((s.session i).product o.desc comp).tileAt (s.session i).height n).1 * (s.session i).height)
          ((s.session i).formTile o comp n [] []).rows :=
  (State.arrayJob_reads (hcounts.core hi) hcounts.2 ho).aLines _ _ _ _ ha

theorem State.issueColumns_stored (ha : ((s.session i).product o.desc comp).aSrc ≠ 1)
    (hb : ((s.session i).product o.desc comp).bSrc ≠ 1) :
    (u.issueColumns i (s.session i) o comp n).1.Reads s i (aParty o.desc) ∧
      (u.issueColumns i (s.session i) o comp n).2 =
        s.storedB (s.session i) ((s.session i).product o.desc comp)
          ((((s.session i).product o.desc comp).tileAt (s.session i).height n).2 * 1024)
          ((s.session i).formTile o comp n [] []).cols :=
  (State.issueRows_stored comp n hcounts hi ho ha).1.bLines _ _ _ _ hb

end

/-- R41 to R54: the clauses of a tile's issue. -/
theorem State.tileIssue_forms {s : State} {i : Nat} (a b : Nat) (hi : i < 4) (hr : s.power.power = .ps0)
    {o : Op} {comp : Bool} {n : Nat} (hfree : (s.session i).piece.tiles.length < 2)
    (hn : (s.session i).nextTile = some (o, comp, n)) :
    let x := s.session i
    ∃ t u : State, exec (.tileIssue i a b) s = .next t ∧ s.OwnWork t i ∧ s.CountsOf u i ∧
      let tile := x.formTile o comp n (u.issueRows i x o comp n).2 (u.issueColumns i x o comp n).2
      let q := { o with progress := o.progress + 1, status := (u.issueColumns i x o comp n).1.status }
      (t.session i).piece.held = (if aHold o.desc then some tile else if aContinue o.desc then none else x.piece.held) ∧
        (t.session i).piece.tiles = (if aHold o.desc then x.piece.tiles else x.piece.tiles ++ [tile]) ∧
        (t.session i).piece.bank = (if aHold o.desc then x.piece.bank else !x.piece.bank) ∧
        (t.session i).op? o.ctx o.seq = some q := by
  intro x
  obtain ⟨u, start, kc, hcounts, ht⟩ := s.issueTile_eq i a b hn
  have hkept : (u.issueColumns i x o comp n).1.st.kept i = s.kept i := (State.kept_issueColumns x o comp n).trans hcounts.1
  have hcore := State.core_of_kept hi hkept
  have hpiece := State.core_piece hcore
  have hop : ((u.issueColumns i x o comp n).1.st.session i).op? o.ctx o.seq = some o :=
    (State.core_op? hcore o.ctx o.seq).trans (Session.nextTile_op? hn)
  have hruns : s.runsIn 3 = true := by simp [State.runsIn, hr, Power.code]
  have hexec : exec (.tileIssue i a b) s = .next (s.issueTile i a b) :=
    congrArg _ (if_pos ⟨hruns, hfree⟩)
  refine ⟨_, u, hexec, ?_, hcounts, ?_⟩
  · rw [ht]
    exact (State.ownWork_of_kept hi hkept).trans (.onSession _ _ _ rfl rfl rfl)
  · rw [ht]
    dsimp only
    rw [State.onSession_same _ _ hi]
    rw [Session.issued_op? _ _ hop]
    simp only [Session.issued_piece, Session.issuedPiece, hpiece, x, and_self]

end Sys2Proof.Machine
end

section
/-! PROOFS. O34. The drain of a tile. -/

namespace Sys2Proof.Machine

/-! ### The Counting Boards a drain works on -/

/-- One die's Counting Board works for an owner. -/
def State.useBoard (s : State) (party q : Nat) : State :=
  let d := vget Die.reset s.dies q
  { s with dies := vset s.dies q { d with
      cbParty := some party, clear := if d.boardClears party then d.clear + 2048 else d.clear } }

theorem State.useBoards_eq (s : State) (i party : Nat) : s.useBoards i party =
    (s.session i).dieList.foldl (fun t q => t.useBoard party q)
      (if (s.session i).dieList.any fun q => (vget Die.reset s.dies q).boardClears party then
        s.onSession i fun x => { x with piece := { x.piece with rowBuffer := x.piece.rowBuffer.map Tile.cleared } }
      else s) := rfl

theorem State.useBoard_foldl (party : Nat) (l : List Nat) (s : State) :
    ∃ d, l.foldl (fun t q => t.useBoard party q) s = { s with dies := d } := by
  induction l generalizing s with
  | nil => exact ⟨s.dies, rfl⟩
  | cons q l ih =>
    obtain ⟨d, hd⟩ := ih (s.useBoard party q)
    exact ⟨d, hd⟩

theorem State.useBoards_ownWork (s : State) (i party : Nat) : s.OwnWork (s.useBoards i party) i := by
  rw [State.useBoards_eq]
  split
  all_goals
    obtain ⟨d, hd⟩ := State.useBoard_foldl party (s.session i).dieList _
    rw [hd]
  · exact (State.OwnWork.onSession s i _ rfl rfl rfl).trans ⟨rfl, fun _ _ _ => rfl, rfl, rfl, rfl⟩
  · exact ⟨rfl, fun _ _ _ => rfl, rfl, rfl, rfl⟩

theorem State.useBoard_foldl_session (party : Nat) (l : List Nat) (s : State) (i : Nat) :
    (l.foldl (fun t q => t.useBoard party q) s).session i = s.session i := by
  obtain ⟨d, hd⟩ := State.useBoard_foldl party l s
  rw [hd]
  rfl

theorem State.useBoards_session (s : State) {i : Nat} (party : Nat) (hi : i < 4) :
    ∃ r, (s.useBoards i party).session i =
        { s.session i with piece := { (s.session i).piece with rowBuffer := r } } ∧
      ((∀ k ∈ (s.session i).dieList, (vget Die.reset s.dies k).cbParty = some party) → r = (s.session i).piece.rowBuffer) := by
  rw [State.useBoards_eq, State.useBoard_foldl_session]
  split
  next hclears =>
    refine ⟨_, s.onSession_same _ hi, fun hall => ?_⟩
    obtain ⟨k, hk, hclear⟩ := List.any_eq_true.mp hclears
    simp [Die.boardClears, hall k hk] at hclear
  next => exact ⟨_, rfl, fun _ => rfl⟩

/-! ### The drain -/

/-- The boards that a tile's drain works on, its events counted. -/
def State.drainStart (s : State) (i a : Nat) (o : Op) : State :=
  ((s.pieceEvent i (s.session i) 0x003 a).pieceRuns i (s.session i) 0x031 1024 (a + 1)).useBoards i (aParty o.desc)

/-- The job of a tile's drain: a program without row passes takes the tile, one with them the whole row tile, once the
last column tile is there (R205). -/
def State.drainJob (u : State) (i : Nat) (x : Session) (o : Op) (t : Tile) : Job :=
  let p := x.product o.desc t.companion
  let passes := rowPasses (kProg (x.entry p.prog))
  let whole := decide (0 < passes) && decide (t.colTile + 1 = p.colTiles)
  let j := (if whole then u.boardPasses i passes p.n t.rows else u).arrayJob i o (aParty o.desc)
  if decide (0 < passes) then
    if whole then j.drainRows o p (t.rowTile * x.height) 0 (joinTiles ((u.session i).piece.rowBuffer ++ [t])) else j
  else j.drainRows o p (t.rowTile * x.height) (t.colTile * 1024) t.accs

/-- The row buffer that a tile's drain leaves: a program without row passes leaves the one there is, one with them adds the
tile to those gathered before it, or takes the whole row tile. -/
def Session.drainLeft (x : Session) (o : Op) (t : Tile) (there gathered : List Tile) : List Tile :=
  let p := x.product o.desc t.companion
  let gather := decide (0 < rowPasses (kProg (x.entry p.prog)))
  if gather then if gather && decide (t.colTile + 1 = p.colTiles) then [] else gathered ++ [t] else there

/-- A session after a drain: the operation with the status met, the tiles left and the row buffer left. -/
def Session.drained (y : Session) (o : Op) (st : Status) (latest : Bool) (clocks : Nat) (rest left : List Tile) : Session :=
  let piece := y.piece.holdDrain latest clocks
  { y.setOp { o with status := st } with piece := { piece with tiles := rest, rowBuffer := left } }

theorem Session.drained_op? {y : Session} {o p : Op} (st : Status) (latest : Bool) (clocks : Nat) (rest left : List Tile)
    (h : y.op? o.ctx o.seq = some p) :
    (y.drained o st latest clocks rest left).op? o.ctx o.seq = some { o with status := st } :=
  Session.op?_setOp (o := { o with status := st }) h

theorem Piece.holdDrain_keeps (p : Piece) (latest : Bool) (n : Nat) :
    (p.holdDrain latest n).held = p.held ∧ (p.holdDrain latest n).opened = p.opened := by
  unfold Piece.holdDrain
  split <;> exact ⟨rfl, rfl⟩

theorem Session.drained_keeps (y : Session) (o : Op) (st : Status) (latest : Bool) (clocks : Nat) (rest left : List Tile) :
    (y.drained o st latest clocks rest left).piece.tiles = rest ∧
      (y.drained o st latest clocks rest left).piece.held = y.piece.held ∧
      (y.drained o st latest clocks rest left).piece.opened = y.piece.opened ∧
      (y.drained o st latest clocks rest left).num = y.num ∧ (y.drained o st latest clocks rest left).scales = y.scales ∧
      (y.drained o st latest clocks rest left).piece.rowBuffer = left := by
  obtain ⟨hheld, hopened⟩ := y.piece.holdDrain_keeps latest clocks
  exact ⟨rfl, hheld, hopened, rfl, rfl, rfl⟩

theorem State.drainTile_eq {s : State} {i : Nat} (a : Nat) {t : Tile} {rest : List Tile} {o : Op}
    (ht : (s.session i).piece.tiles = t :: rest) (ho : (s.session i).op? t.ctx t.seq = some o) :
    let u := s.drainStart i a o
    let j := u.drainJob i (s.session i) o t
    ∃ (latest : Session → Bool) (clocks : Nat), s.drainTile i a = j.st.onSession i fun y =>
      y.drained o j.status (latest y) clocks rest
        ((s.session i).drainLeft o t y.piece.rowBuffer (u.session i).piece.rowBuffer) := by
  unfold State.drainTile
  simp only [ht, ho]
  exact ⟨fun y => rest.isEmpty && !y.piece.lastHeld, _, rfl⟩

section
variable (u : State) (i : Nat) (x : Session) (o : Op) (t : Tile)

theorem State.drain_plain (hp : rowPasses (kProg (x.entry (x.product o.desc t.companion).prog)) = 0) :
    u.drainJob i x o t = (u.arrayJob i o (aParty o.desc)).drainRows o (x.product o.desc t.companion)
        (t.rowTile * x.height) (t.colTile * 1024) t.accs ∧
      x.drainLeft o t (u.session i).piece.rowBuffer (u.session i).piece.rowBuffer = (u.session i).piece.rowBuffer := by
  simp [State.drainJob, Session.drainLeft, hp]

variable (hp : rowPasses (kProg (x.entry (x.product o.desc t.companion).prog)) ≠ 0)
include hp

theorem State.drain_gathers (hw : t.colTile + 1 ≠ (x.product o.desc t.companion).colTiles) :
    u.drainJob i x o t = u.arrayJob i o (aParty o.desc) ∧
      x.drainLeft o t (u.session i).piece.rowBuffer (u.session i).piece.rowBuffer = (u.session i).piece.rowBuffer ++ [t] := by
  simp [State.drainJob, Session.drainLeft, Nat.pos_of_ne_zero hp, hw]

theorem State.drain_whole (hw : t.colTile + 1 = (x.product o.desc t.companion).colTiles) :
    u.drainJob i x o t =
        ((u.boardPasses i (rowPasses (kProg (x.entry (x.product o.desc t.companion).prog)))
          (x.product o.desc t.companion).n t.rows).arrayJob i o (aParty o.desc)).drainRows o (x.product o.desc t.companion)
          (t.rowTile * x.height) 0 (joinTiles ((u.session i).piece.rowBuffer ++ [t])) ∧
      x.drainLeft o t (u.session i).piece.rowBuffer (u.session i).piece.rowBuffer = [] := by
  simp [State.drainJob, Session.drainLeft, Nat.pos_of_ne_zero hp, hw]

end

@[simp] theorem State.kept_arrayJob (u : State) (i : Nat) (o : Op) (owner : Nat) :
    (u.arrayJob i o owner).kept = (u.kept i, i, owner, o.copies) := rfl

theorem State.kept_drainJob (u : State) (i : Nat) (x : Session) (o : Op) (t : Tile) :
    (u.drainJob i x o t).st.kept i = u.kept i := by
  have h : (u.drainJob i x o t).kept = (u.kept i, i, aParty o.desc, o.copies) := by
    unfold State.drainJob
    extract_lets p passes whole j
    have hj : j.kept = (u.kept i, i, aParty o.desc, o.copies) := by
      unfold j
      split <;> simp
    split
    · split
      · rw [Job.kept_drainRows, hj]
      · exact hj
    · rw [Job.kept_drainRows, hj]
  have hsess : (u.drainJob i x o t).sess = i := congrArg (fun q => q.2.1) h
  have hst : (u.drainJob i x o t).st.kept (u.drainJob i x o t).sess = u.kept i := congrArg (fun q => q.1) h
  rwa [hsess] at hst

section
variable {s : State} {i : Nat} (a : Nat) {o : Op}

/-- What the start of a drain leaves: the session but for its memory record and the row buffer. -/
theorem State.drainStart_session (hi : i < 4) : s.OwnWork (s.drainStart i a o) i ∧
    ((s.drainStart i a o).session i).ops = (s.session i).ops ∧
    ∃ r, ((s.drainStart i a o).session i).piece = { (s.session i).piece with rowBuffer := r } ∧
      ((∀ k ∈ (s.session i).dieList, (vget Die.reset s.dies k).cbParty = some (aParty o.desc)) →
        r = (s.session i).piece.rowBuffer) := by
  have hkept : ((s.pieceEvent i (s.session i) 0x003 a).pieceRuns i (s.session i) 0x031 1024 (a + 1)).kept i = s.kept i := by
    simp
  unfold State.drainStart
  generalize (s.pieceEvent i (s.session i) 0x003 a).pieceRuns i (s.session i) 0x031 1024 (a + 1) = w at hkept
  have hcore := State.core_of_kept hi hkept
  obtain ⟨r, hsession, hbuffer⟩ := w.useBoards_session (aParty o.desc) hi
  have hdies : ∀ k, (vget Die.reset w.dies k).cbParty = (vget Die.reset s.dies k).cbParty :=
    fun k => congrArg (fun q : Session × (Nat → Die) => (q.2 k).cbParty) hcore
  have hlist : (w.session i).dieList = (s.session i).dieList := congrArg (fun q => q.1.dieList) hcore
  refine ⟨(State.ownWork_of_kept hi hkept).trans (w.useBoards_ownWork i _), ?_, r, ?_, fun hall => ?_⟩
  · rw [hsession]
    exact State.core_ops hcore
  · rw [hsession, ← State.core_piece hcore]
  · rw [hbuffer fun k hk => (hdies k).trans (hall k (hlist ▸ hk)), State.core_piece hcore]

/-- R51, R74, R187: a drain, from the boards it starts on: what becomes of the session and of the operation. -/
theorem State.tileDrain_drains (hi : i < 4) (hr : s.power.power = .ps0) {t : Tile} {rest : List Tile}
    (ht : (s.session i).piece.tiles = t :: rest) (ho : (s.session i).op? t.ctx t.seq = some o) :
    let x := s.session i
    let u := s.drainStart i a o
    let j := u.drainJob i x o t
    ∃ w, exec (.tileDrain i a) s = .next w ∧ s.OwnWork w i ∧ w = { j.st with sessions := w.sessions } ∧
      (w.session i).piece.tiles = rest ∧ (w.session i).piece.held = x.piece.held ∧
      (w.session i).piece.opened = x.piece.opened ∧ (w.session i).num = (j.st.session i).num ∧
      (w.session i).scales = (j.st.session i).scales ∧
      (w.session i).op? o.ctx o.seq = some { o with status := j.status } ∧
      (w.session i).piece.rowBuffer =
        x.drainLeft o t (u.session i).piece.rowBuffer (u.session i).piece.rowBuffer := by
  intro x u j
  obtain ⟨hstart, hops, r, hpiece, -⟩ := State.drainStart_session (s := s) a (o := o) hi
  have hkept : j.st.kept i = u.kept i := u.kept_drainJob i x o t
  have hcore := State.core_of_kept hi hkept
  have hjpiece : (j.st.session i).piece = (u.session i).piece := State.core_piece hcore
  have hop : (j.st.session i).op? o.ctx o.seq = some o := by
    obtain ⟨hc, hq, -⟩ := Session.op?_some ho
    rw [State.core_op? hcore, hc, hq, Session.op?, hops]
    exact ho
  have hruns : s.runsIn 3 = true := by simp [State.runsIn, hr, Power.code]
  have hexec : exec (.tileDrain i a) s = .next (s.drainTile i a) := congrArg _ (if_pos hruns)
  obtain ⟨latest, clocks, heq⟩ := State.drainTile_eq a ht ho
  have hwork : s.OwnWork j.st i := hstart.trans (State.ownWork_of_kept hi hkept)
  refine ⟨_, hexec, ?_⟩
  rw [heq]
  refine ⟨hwork.trans (.onSession _ _ _ rfl rfl rfl), rfl, ?_⟩
  rw [State.onSession_same _ _ hi, Session.drained_op? _ _ _ _ _ hop]
  obtain ⟨htiles, hheld, hopened, hnum, hscales, hbuffer⟩ := (j.st.session i).drained_keeps o j.status
    (latest (j.st.session i)) clocks rest
    (x.drainLeft o t (j.st.session i).piece.rowBuffer (u.session i).piece.rowBuffer)
  rw [htiles, hheld, hopened, hnum, hscales, hbuffer, hjpiece]
  have hkeep : (u.session i).piece.held = x.piece.held ∧ (u.session i).piece.opened = x.piece.opened := by
    rw [hpiece]
    exact ⟨rfl, rfl⟩
  exact ⟨rfl, hkeep.1, hkeep.2, rfl, rfl, rfl, rfl⟩

end

/-- Settles O34: issue reads what the stores hold and gives the tile to the piece; a drain is its job from the boards it
starts on. -/
theorem tilesIssueAndDrain : Obligations.TilesIssueAndDrain := by
  intro s i a b hi hr x
  refine ⟨fun o comp n hfree hn => ?_, fun tile rest o ht ho => ?_⟩
  · intro p rt ct
    obtain ⟨t, u, hexec, hwork, hcounts, hheld, htiles, hbank, hop⟩ := State.tileIssue_forms a b hi hr hfree hn
    refine ⟨t, x.formTile o comp n (u.issueRows i x o comp n).2 (u.issueColumns i x o comp n).2,
      (u.issueRows i x o comp n).2, (u.issueColumns i x o comp n).2, hexec, hwork, rfl, rfl, rfl, rfl, rfl, rfl, rfl,
      fun hst ha => ?_, fun hst ha hb => ?_, fun hhold => ?_, fun hhold => ?_, _, hop, rfl, rfl, fun hst ha hb hstruck => ?_⟩
    · exact (State.issueRows_stored comp n hcounts hi hst ha).2
    · exact (State.issueColumns_stored comp n hcounts hi hst ha hb).2
    · exact ⟨by rw [hheld, if_pos hhold], by rw [htiles, if_pos hhold]⟩
    · simp only [hhold, Bool.false_eq_true, if_false] at hheld htiles hbank
      exact ⟨htiles, hbank, hheld⟩
    · exact (State.issueColumns_stored comp n hcounts hi hst ha hb).1.statusOk hstruck
  · intro p passes whole u r0 before buf
    obtain ⟨t, hexec, hwork, ht', htiles, hheld, hopened, hnum, hscales, hop, hleft⟩ := State.tileDrain_drains a hi hr ht ho
    obtain ⟨-, -, r, hpiece, hbuffer⟩ := State.drainStart_session (s := s) a (o := o) hi
    have hbefore : before = r := congrArg Piece.rowBuffer hpiece
    refine ⟨t, hexec, hwork, htiles, hheld, hopened, fun hall => hbefore.trans (hbuffer hall), ?_⟩
    intro gives
    have hgives : ∀ (j : Job) (left : List Tile), u.drainJob i x o tile = j ∧ x.drainLeft o tile before before = left →
        gives j left := by
      rintro j left ⟨rfl, rfl⟩
      exact ⟨ht', hnum, hscales, hleft, hop⟩
    exact ⟨fun hp => hgives _ _ (State.drain_plain u i x o tile hp),
      fun hp hw => hgives _ _ (State.drain_gathers u i x o tile hp (of_decide_eq_false hw)),
      fun hp hw => hgives _ _ (State.drain_whole u i x o tile hp (of_decide_eq_true hw))⟩

end Sys2Proof.Machine
end

section
/-! PROOFS. O35. The statement supposes nothing of the Sorting stores' tables. A table whose keys do not rise is no memory
that the module can come to hold, but it is a state: `Table.set` writes a zero byte by taking out the entry of its key, and
it stops at the first key above it, so an entry that stands further on is still read. -/

namespace Sys2Proof.Machine

/-- A move of one row of four elements of format 0, in COPY mode, from byte 0 of its die's Sorting store to byte 4096. -/
def zeroRowMove : Bytes :=
  padTo 128 (le 2 opPhMove ++ zeros 30 ++ le 4 1 ++ le 4 4 ++ zeros 16 ++ le 4 64 ++ le 4 64 ++ le 8 4096)

def zeroRowOp : Op :=
  { ctx := 0, seq := 0, slot := 0, index := 0, desc := zeroRowMove, stage := .launched, readyAt := 0, launchedAt := 0
    status := stOk, step := 0, attempt := 0, scales := [], copies := [], sources := [], sizes := [], progress := 0
    dropped := false, taint := false, feeds := none }

/-- That move first on the Pigeonhole of die 0, whose store lists byte 9000 before byte 4096. -/
def unorderedStore : State :=
  { State.reset with
    power := { PowerPins.reset with power := .ps0 }
    sessions := vset State.reset.sessions 0 { Session.reset with ops := [zeroRowOp] }
    dies := vset State.reset.dies 0 { Die.reset with phQueue := [⟨0, 0, 0⟩], store := [(9000, 1), (4096, 7)] } }

/-- The move runs, and it copies four zero codes. -/
theorem unorderedStore_runs : let x := unorderedStore.session 0
    unorderedStore.launched ⟨0, 0, 0⟩ opPhMove = some zeroRowOp ∧
      unorderedStore.phTurn ⟨0, 0, 0⟩ (x.top + phDie zeroRowMove) = true ∧ x.struck (phParty zeroRowMove) = false ∧
      x.phScaled zeroRowMove = false := by decide +kernel

/-- After it, byte 4096 still reads 7, and not the first byte of the packed codes. -/
theorem unorderedStore_differs : let w := (Fmt.ofCode (phDstFmt zeroRowMove)).widthIn true
    (memLoad (vget Die.reset ((((unorderedStore.phMoveJob 0 zeroRowOp).st.finishOp 0 zeroRowOp
        (unorderedStore.phMoveJob 0 zeroRowOp).status).phDone ⟨0, 0, 0⟩)).dies
      ((unorderedStore.session 0).top + phDie zeroRowMove)).store
      (addrOff (fieldAt zeroRowMove 64 8) + 0 * fieldAt zeroRowMove 60 4) (w * 4 / 8)).head? ≠ (pack w [0, 0, 0, 0]).head? := by
  decide +kernel

/-- The codes of the source row, as the statement reads them. -/
def zeroRowSource : List (List Nat) :=
  (List.range (phRows zeroRowMove)).map fun r =>
    unpack ((Fmt.ofCode (phSrcFmt zeroRowMove)).widthIn true) (phCols zeroRowMove)
      (memLoad (vget Die.reset unorderedStore.dies ((unorderedStore.session 0).top + phDie zeroRowMove)).store
        (addrOff (fieldAt zeroRowMove 48 8) + r * fieldAt zeroRowMove 56 4)
        (((Fmt.ofCode (phSrcFmt zeroRowMove)).widthIn true * phCols zeroRowMove + 7) / 8))

/-- The copy is one row of four zero codes, a whole number of bytes that the pitch holds. -/
theorem zeroRow_codes : let w := (Fmt.ofCode (phDstFmt zeroRowMove)).widthIn true
    (phCopy zeroRowMove zeroRowSource []).codes = [[0, 0, 0, 0]] ∧
      w * 4 % 8 = 0 ∧ w * 4 / 8 ≤ fieldAt zeroRowMove 60 4 := by decide +kernel

/-- What the statement's last clause says of one row of codes. -/
theorem firstRow_reads {codes : List (List Nat)} {c : List Nat} {m : Memory} {row : Nat → Nat} {w pitch : Nat} (hc : codes = [c])
    (hgood : c ≠ [] ∧ w * c.length % 8 = 0 ∧ w * c.length / 8 ≤ pitch)
    (h : (∀ c ∈ codes, c ≠ [] ∧ w * c.length % 8 = 0 ∧ w * c.length / 8 ≤ pitch) → ∀ k < codes.length,
      memLoad m (row k) (w * (codes.getD k []).length / 8) = pack w (codes.getD k [])) :
    memLoad m (row 0) (w * c.length / 8) = pack w c := by
  subst hc
  exact h (by simpa using hgood) 0 (by simp)

/-- Refutes O35: the store of die 0 lists byte 9000 before byte 4096, so that the zero byte a PH_MOVE in COPY mode writes to
byte 4096 leaves the 7 that stands there. The statement supposes no canonical memory (`State.memoryWf`, log entry 7), under
which such a table cannot stand. -/
theorem not_pigeonholeAndKernelsRun : ¬ Obligations.PigeonholeAndKernelsRun := by
  intro h
  obtain ⟨hlaunched, hturn, hstruck, hscaled⟩ := unorderedStore_runs
  obtain ⟨hmove, -⟩ := h unorderedStore ⟨0, 0, 0⟩ zeroRowOp (by decide)
  obtain ⟨t, -, -, -, ht, -, -, hrows⟩ := hmove hlaunched hturn
  obtain ⟨-, hrows⟩ := hrows hstruck (by decide +kernel) (by decide +kernel) (by decide +kernel) (by decide +kernel) hscaled
  obtain ⟨hcodes, hwhole, hpitch⟩ := zeroRow_codes
  have hout : (if phMode zeroRowMove = 0 then phCopy zeroRowMove zeroRowSource []
      else (unorderedStore.session 0).phQuantise zeroRowOp zeroRowSource []).codes = [[0, 0, 0, 0]] := by
    rw [if_pos (by decide +kernel), hcodes]
  have hread := firstRow_reads hout ⟨by simp, hwhole, hpitch⟩ hrows
  rw [ht] at hread
  exact absurd (congrArg List.head? hread) unorderedStore_differs

end Sys2Proof.Machine
end

section
/-! PROOFS. O50, for every width, mantissa, bias and largest code that a format can have. A magnitude code is taken apart
into a significand and the number of times its last place doubles the format's smallest step. Every value from a code's own
up to its successor's rounds at that last place, and a whole number of them gives back the code of just that value. -/

namespace Sys2Proof.Machine

section

variable (f : Fmt)

/-! ### A code's significand and last place -/

/-- The exponent of the smallest step of a format, its smallest subnormal (R103). -/
def Fmt.low : Int := 1 - (f.bias : Int) - f.man

/-- The integer that a magnitude code stands for, in units of its last place: with the hidden bit from the second binade on. -/
def Fmt.significand (c : Nat) : Nat := if c / 2 ^ f.man = 0 then c % 2 ^ f.man else 2 ^ f.man + c % 2 ^ f.man

/-- How many doublings of the smallest step make the last place of a magnitude code. -/
def Fmt.doublings (c : Nat) : Nat := c / 2 ^ f.man - 1

theorem Fmt.magnitude_eq (neg : Bool) (c : Nat) :
    f.magnitude neg c = .num neg (f.significand c) 1 (f.low + f.doublings c) := by
  unfold Fmt.magnitude Fmt.significand Fmt.doublings Fmt.low
  split
  · rw [if_pos ‹_›, ‹c / _ = 0›]
    simp
  · rw [if_neg ‹_›, Nat.cast_sub (Nat.one_le_iff_ne_zero.2 ‹_›)]
    congr 1
    omega

/-- A code is its significand above what the binades below it take. -/
theorem Fmt.doublings_add_significand (c : Nat) : f.doublings c * 2 ^ f.man + f.significand c = c := by
  have hdiv := Nat.div_add_mod' c (2 ^ f.man)
  unfold Fmt.doublings Fmt.significand
  split
  · rw [‹c / _ = 0›] at hdiv ⊢
    simpa using hdiv
  · obtain ⟨q, hq⟩ := Nat.exists_eq_succ_of_ne_zero ‹_›
    rw [hq] at hdiv ⊢
    rw [Nat.succ_mul] at hdiv
    simp only [Nat.succ_eq_add_one, Nat.add_sub_cancel]
    omega

theorem Fmt.significand_lt (c : Nat) : f.significand c < 2 ^ (f.man + 1) := by
  have := Nat.mod_lt c (Nat.two_pow_pos f.man)
  unfold Fmt.significand
  split <;> omega

/-- From the first doubling on the hidden bit is set. -/
theorem Fmt.two_pow_le_significand {c : Nat} (h : f.doublings c ≠ 0) : 2 ^ f.man ≤ f.significand c := by
  unfold Fmt.doublings at h
  rw [Fmt.significand, if_neg (by omega)]
  omega

/-- The next code stands for one more last place, whether it lies in the same binade or begins the next. -/
theorem Fmt.significand_succ (c : Nat) : f.doublings c ≤ f.doublings (c + 1) ∧
    f.significand (c + 1) * 2 ^ (f.doublings (c + 1) - f.doublings c) = f.significand c + 1 := by
  have hpos := Nat.two_pow_pos f.man
  have hdiv := Nat.mod_add_div c (2 ^ f.man)
  unfold Fmt.doublings Fmt.significand
  rcases Nat.lt_or_ge (c % 2 ^ f.man + 1) (2 ^ f.man) with hin | hout
  · obtain ⟨hq, hr⟩ := (Nat.div_mod_unique (a := c + 1) (d := c / 2 ^ f.man) (c := c % 2 ^ f.man + 1) hpos).2
      ⟨by rw [Nat.add_right_comm, hdiv], hin⟩
    rw [hq, hr]
    clear hq hr
    generalize c / 2 ^ f.man = q at hdiv ⊢
    simp only [le_refl, Nat.sub_self, Nat.pow_zero, Nat.mul_one, true_and]
    split <;> omega
  · have hlast := Nat.mod_lt c hpos
    obtain ⟨hq, hr⟩ := (Nat.div_mod_unique (a := c + 1) (d := c / 2 ^ f.man + 1) (c := 0) hpos).2
      ⟨by rw [Nat.mul_succ]; omega, hpos⟩
    rw [hq, hr, if_neg (Nat.succ_ne_zero _)]
    refine ⟨by omega, ?_⟩
    split
    · rw [‹c / _ = 0›]
      omega
    · rw [show c / 2 ^ f.man + 1 - 1 - (c / 2 ^ f.man - 1) = 1 from Nat.sub_sub_self (Nat.one_le_iff_ne_zero.2 ‹_›)]
      omega

/-! ### A rounding in its parts -/

/-- The exponent of the last place at which R122 rounds a value. -/
def Fmt.lastPlace (n d : Nat) (e : Int) : Int := max (log2Floor n d + e - f.man) f.low

/-- The code of `m` last places of exponent `k`, where `m` is below the next power of two (R103, R123, R124). -/
def Fmt.place (sign m : Nat) (k : Int) : Rounded :=
  if m = 0 then ⟨sign, false, true⟩
  else
    let code := if m < 2 ^ f.man then m else (k - f.low + 1).toNat * 2 ^ f.man + (m - 2 ^ f.man)
    if code ≤ f.top then ⟨sign + code, false, false⟩ else ⟨sign + f.top, true, false⟩

/-- R122: what has rounded up to the next power of two moves into the next binade. -/
def Fmt.encode (sign m : Nat) (k : Int) : Rounded :=
  let p := if m = 2 ^ (f.man + 1) then (2 ^ f.man, k + 1) else (m, k)
  f.place sign p.1 p.2

theorem Fmt.round_nan (mode : Rnd) : f.round mode .nan = ⟨f.canonNan, false, false⟩ := rfl

theorem Fmt.round_zero (mode : Rnd) (neg : Bool) (d : Nat) (e : Int) :
    f.round mode (.num neg 0 d e) = ⟨if neg then 2 ^ (f.width - 1) else 0, false, false⟩ := rfl

theorem Fmt.round_of_ne_zero (mode : Rnd) (neg : Bool) {n : Nat} (d : Nat) (e : Int) (hn : n ≠ 0) :
    f.round mode (.num neg n d e) = f.encode (if neg then 2 ^ (f.width - 1) else 0)
      (roundMult mode n d e (f.lastPlace n d e)) (f.lastPlace n d e) := by
  simp only [Fmt.round, if_neg hn]
  rfl

/-- What a rounding to a format with the given sign bit may answer: what overflows has the largest finite code, what
flushes the zero of its sign, any other value a code between (R123, R124). -/
def Fmt.InRange (sign : Nat) (r : Rounded) : Prop :=
  (r.overflow = true → r.code = sign + f.top) ∧ (r.flush = true → r.code = sign) ∧
  (r.overflow = false → r.flush = false → sign < r.code ∧ r.code ≤ sign + f.top)

theorem Fmt.place_inRange (sign m : Nat) {k : Int} (hk : f.low ≤ k) : f.InRange sign (f.place sign m k) := by
  unfold Fmt.place
  split
  · simp [Fmt.InRange]
  · have hcode : 0 < if m < 2 ^ f.man then m else (k - f.low + 1).toNat * 2 ^ f.man + (m - 2 ^ f.man) := by
      split
      · omega
      · have := Nat.mul_pos (show 0 < (k - f.low + 1).toNat by omega) (Nat.two_pow_pos f.man)
        omega
    dsimp only
    generalize (if m < 2 ^ f.man then m else _) = code at hcode ⊢
    split
    · simpa [Fmt.InRange, hcode]
    · simp [Fmt.InRange]

theorem Fmt.encode_inRange (sign m : Nat) {k : Int} (hk : f.low ≤ k) : f.InRange sign (f.encode sign m k) := by
  unfold Fmt.encode
  split
  · exact f.place_inRange sign _ (by omega)
  · exact f.place_inRange sign m hk

theorem Fmt.place_eq (sign : Nat) {m j : Nat} (hm : m ≠ 0) (hj : j ≠ 0 → 2 ^ f.man ≤ m)
    (htop : j * 2 ^ f.man + m ≤ f.top) :
    f.place sign m (f.low + j) = ⟨sign + (j * 2 ^ f.man + m), false, false⟩ := by
  have hcode : (if m < 2 ^ f.man then m else (f.low + j - f.low + 1).toNat * 2 ^ f.man + (m - 2 ^ f.man)) =
      j * 2 ^ f.man + m := by
    split
    · have : j = 0 := by omega
      simp [this]
    · rw [show (f.low + j - f.low + 1).toNat = j + 1 by omega, Nat.succ_mul]
      omega
  simp only [Fmt.place, if_neg hm, hcode, if_pos htop]

/-- What rounds to `m` last places gets the code of just that value, also where it is the first of the next binade (R122). -/
theorem Fmt.encode_eq (sign : Nat) {m j : Nat} (hm : m ≠ 0) (hj : j ≠ 0 → 2 ^ f.man ≤ m)
    (htop : j * 2 ^ f.man + m ≤ f.top) :
    f.encode sign m (f.low + j) = ⟨sign + (j * 2 ^ f.man + m), false, false⟩ := by
  unfold Fmt.encode
  split
  · have hpos := Nat.two_pow_pos f.man
    have hnext : j * 2 ^ f.man + m = (j + 1 : Nat) * 2 ^ f.man + 2 ^ f.man := by
      rw [‹m = _›, Nat.succ_mul, Nat.pow_succ]
      omega
    rw [hnext] at htop ⊢
    rw [Int.add_assoc, ← Nat.cast_succ]
    exact f.place_eq sign hpos.ne' (fun _ => le_rfl) htop
  · exact f.place_eq sign hm hj htop

/-! ### The last place at which a value of a format rounds -/

theorem log2Floor_one {n : Nat} (hn : n ≠ 0) : log2Floor n 1 = Nat.log2 n := by
  simp [log2Floor, show Nat.log2 1 = 0 by decide, Nat.log2_self_le hn]

/-- Every value from a code's own up to its successor's rounds at the code's last place; `s` bits stand below it. -/
theorem Fmt.lastPlace_eq {c N s : Nat} (hN : N ≠ 0) (hlo : f.significand c * 2 ^ s ≤ N)
    (hhi : N < (f.significand c + 1) * 2 ^ s) :
    f.lastPlace N 1 (f.low + f.doublings c - s) = f.low + f.doublings c := by
  have hupper : Nat.log2 N < f.man + 1 + s := by
    rw [Nat.log2_lt hN, Nat.pow_add]
    exact hhi.trans_le (Nat.mul_le_mul_right _ (f.significand_lt c))
  have hlower : f.doublings c ≠ 0 → f.man + s ≤ Nat.log2 N := fun h => by
    rw [Nat.le_log2 hN, Nat.pow_add]
    exact (Nat.mul_le_mul_right _ (f.two_pow_le_significand h)).trans hlo
  rw [Fmt.lastPlace, log2Floor_one hN]
  omega

theorem scaledFloor_one (n s : Nat) {z : Int} (hz : z = s) : scaledFloor n 1 z = n * 2 ^ s := by
  simp [scaledFloor, hz]

/-- A whole number of last places is kept in every mode. -/
theorem roundMult_whole {mode : Rnd} (hmode : ∀ r, mode = .stochastic r → r < 65536) (n : Nat) (k : Int) :
    roundMult mode n 1 k k = n := by
  cases mode with
  | nearest => simp only [roundMult, scaledFloor_one n 1 (show k - k + 1 = (1 : Nat) by omega)]; omega
  | zero => simp only [roundMult, scaledFloor_one n 0 (show k - k = (0 : Nat) by omega)]; omega
  | stochastic r =>
    have := hmode r rfl
    simp only [roundMult, scaledFloor_one n 16 (show k - k + 16 = (16 : Nat) by omega)]
    rw [if_neg (by omega)]
    omega

/-- R121: half a last place rounds away from zero. -/
theorem roundMult_tie (n : Nat) (k : Int) : roundMult .nearest (2 * n + 1) 1 (k - 1) k = n + 1 := by
  simp only [roundMult, scaledFloor_one _ 0 (show k - 1 - k + 1 = (0 : Nat) by omega)]
  omega

/-! ### The values that a format holds and those half-way between them -/

theorem Fmt.round_magnitude {mode : Rnd} (hmode : ∀ r, mode = .stochastic r → r < 65536) (neg : Bool) {c : Nat}
    (hc : c ≤ f.top) :
    f.round mode (f.magnitude neg c) = ⟨(if neg then 2 ^ (f.width - 1) else 0) + c, false, false⟩ := by
  have hcode := f.doublings_add_significand c
  rw [f.magnitude_eq]
  by_cases hzero : f.significand c = 0
  · have hlow : f.doublings c = 0 := by
      by_contra h
      have := f.two_pow_le_significand h
      have := Nat.two_pow_pos f.man
      omega
    rw [hzero, f.round_zero, show c = 0 by simpa [hzero, hlow] using hcode.symm]
    rfl
  · have hplace := f.lastPlace_eq (c := c) (s := 0) hzero (by simp) (by simp)
    rw [Nat.cast_zero, sub_zero] at hplace
    rw [f.round_of_ne_zero _ _ _ _ hzero, hplace, roundMult_whole hmode,
      f.encode_eq _ hzero f.two_pow_le_significand (by omega), hcode]

/-- The sum of a value and its outer neighbour of the same sign, whose last place is at least as high. -/
theorem Val.add_sameSign (neg : Bool) (n n' : Nat) {e e' : Int} (he : e ≤ e') (hn : n' ≠ 0) :
    (Val.num neg n 1 e).add (.num neg n' 1 e') = .num neg (n + n' * 2 ^ (e' - e).toNat) 1 e := by
  have hpos : 0 < n' * 2 ^ (e' - e).toNat := Nat.mul_pos (Nat.pos_of_ne_zero hn) (Nat.two_pow_pos _)
  simp only [Val.add, if_neg (not_and_of_not_right _ hn), min_eq_left he, Nat.mul_one, Int.sub_self, Int.toNat_zero,
    Nat.pow_zero]
  cases neg
  all_goals
    simp only [Bool.false_eq_true, if_false, if_true]
    rw [if_neg (by omega)]
    simp only [Val.num.injEq, decide_eq_true_eq, decide_eq_false_iff_not, and_true]
    omega

/-- Twice the value half-way between two neighbours: twice the lower and one last place of it. -/
theorem Fmt.magnitude_add_succ (neg : Bool) (c : Nat) :
    (f.magnitude neg c).add (f.magnitude neg (c + 1)) = .num neg (2 * f.significand c + 1) 1 (f.low + f.doublings c) := by
  obtain ⟨hle, hnext⟩ := f.significand_succ c
  have hne : f.significand (c + 1) ≠ 0 := fun h => by simp [h] at hnext
  rw [f.magnitude_eq, f.magnitude_eq, Val.add_sameSign neg _ _ (by omega) hne,
    show (f.low + f.doublings (c + 1) - (f.low + f.doublings c)).toNat = f.doublings (c + 1) - f.doublings c by omega, hnext,
    Nat.two_mul, Nat.add_assoc]

theorem Fmt.round_half_way (neg : Bool) {c : Nat} (hc : c < f.top) :
    f.round .nearest (((f.magnitude neg c).add (f.magnitude neg (c + 1))).scale (-1)) =
      ⟨(if neg then 2 ^ (f.width - 1) else 0) + c + 1, false, false⟩ := by
  have hcode := f.doublings_add_significand c
  have hodd : 2 * f.significand c + 1 ≠ 0 := Nat.succ_ne_zero _
  have hplace := f.lastPlace_eq (c := c) (s := 1) hodd (by omega) (by omega)
  have hscale : (Val.num neg (2 * f.significand c + 1) 1 (f.low + f.doublings c)).scale (-1) =
      .num neg (2 * f.significand c + 1) 1 (f.low + f.doublings c - (1 : Nat)) := rfl
  rw [f.magnitude_add_succ, hscale, f.round_of_ne_zero _ _ _ _ hodd, hplace, Nat.cast_one, roundMult_tie,
    f.encode_eq _ (Nat.succ_ne_zero _) (fun h => (f.two_pow_le_significand h).trans (Nat.le_succ _)) (by omega),
    Nat.succ_eq_add_one, ← Nat.add_assoc (_ * _), hcode, Nat.add_assoc]

end

/-! ### Products -/

theorem Val.mul_nan {v w : Val} (h : v.isNan = true ∨ w.isNan = true) : v.mul w = .nan := by
  cases v with
  | nan => rfl
  | num =>
    cases w with
    | nan => rfl
    | num => simp [Val.isNan] at h

/-- Settles O50: a value of a format, and one half-way to the next, round at the last place of their lower code, so that the
first is a whole number of places and the second half a place above one. -/
theorem numbersRoundAndMultiply : Obligations.NumbersRoundAndMultiply := by
  refine ⟨fun f _ mode neg n d e => ⟨f.round_nan mode, ?_, ?_, ?_, ?_⟩, fun v w => ⟨Val.mul_nan, ?_⟩⟩
  · rintro rfl
    exact f.round_zero mode neg d e
  · intro hn _
    rw [f.round_of_ne_zero mode neg d e hn]
    exact f.encode_inRange _ _ (le_max_right _ _)
  · exact fun c hc hmode => f.round_magnitude hmode neg hc
  · exact fun c hc => f.round_half_way neg hc
  · rintro a n d e b n' d' e' rfl rfl
    rfl

end Sys2Proof.Machine
end

section
/-! PROOFS. What sending changes: an event counted on the way, a frame put on the ring, and a message handed to a port. -/

namespace Sys2Proof.Machine

/-! ### Counting an event -/

/-- What counting events of session `j` changes: the counters, the free values taken, and that session's sample ring. -/
def State.Sampled (s t : State) (j : Nat) : Prop :=
  ∃ p d r, t = { s with perf := p, draws := d, sessions := vset s.sessions j { s.session j with ring := r } }

theorem State.Sampled.refl (s : State) (j : Nat) : s.Sampled s j :=
  ⟨s.perf, s.draws, (s.session j).ring, congrArg (fun v => { s with sessions := v }) (s.sessions_self j).symm⟩

/-- Each session after a count, as it was but for its sample ring. -/
theorem State.Sampled.session {s t : State} {j : Nat} (h : s.Sampled t j) (i : Nat) :
    ∃ r, t.session i = { s.session i with ring := r } := by
  obtain ⟨p, d, r, rfl⟩ := h
  by_cases hi : j = i ∧ j < 4
  · obtain ⟨rfl, hlt⟩ := hi
    exact ⟨r, vget_vset_same _ _ _ hlt⟩
  · exact ⟨(s.session i).ring, (vget_vset _ _ _ _ _).trans (if_neg hi)⟩

theorem State.Sampled.trans {s t u : State} {j : Nat} (h : s.Sampled t j) (g : t.Sampled u j) : s.Sampled u j := by
  obtain ⟨q, hq⟩ := h.session j
  obtain ⟨p, d, r, rfl⟩ := h
  obtain ⟨p', d', r', rfl⟩ := g
  refine ⟨p', d', r', ?_⟩
  rw [hq]
  simp only [vset_vset]

theorem State.Sampled.foldl {β : Type} {j : Nat} {f : State → β → State} (hf : ∀ s b, State.Sampled s (f s b) j)
    (l : List β) (s : State) : s.Sampled (l.foldl f s) j := by
  induction l generalizing s with
  | nil => exact .refl s j
  | cons b l ih => exact (hf s b).trans (ih (f s b))

theorem State.sample_sampled (s : State) (j key ev : Nat) : s.Sampled (s.sample j key ev) j := by
  obtain ⟨r, hr⟩ := (s.session j).requestSample_keeps (decide (s.queued (key / 64) < 4)) s.time.now (key / 64) (key % 64) ev
    (vget (Vector.replicate 16 0) s.perf.slots (key / 64))
  exact ⟨s.perf, s.draws, r, congrArg (s.setSession j) hr⟩

theorem State.bump_sampled (s : State) (j key n runs : Nat) : s.Sampled (s.bump j key n runs) j := by
  obtain ⟨d, p, l, ev, h⟩ := s.bump_cases j key n runs
  have hcount : s.Sampled { s with draws := d, perf := p } j :=
    ⟨p, d, (s.session j).ring,
      congrArg (fun v => ({ s with draws := d, perf := p, sessions := v } : State)) (s.sessions_self j).symm⟩
  rw [h]
  exact hcount.trans (.foldl (fun t _ => t.sample_sampled j key ev) _ _)

theorem State.perfEvent_sampled (s : State) (j u ev n : Nat) : s.Sampled (s.perfEvent j u ev n) j := by
  unfold State.perfEvent State.perfRuns
  split
  · exact .refl s j
  · exact .foldl (fun t (e : Nat × Counter) => t.bump_sampled j e.1 n n) _ s

/-! ### The ring as its frames see it -/

/-- Two states whose ring has the same session, switch and key. -/
def State.SameRing (s t : State) : Prop :=
  t.slots = s.slots ∧ t.time.bypassClosed = s.time.bypassClosed ∧
    ∀ j, (t.session j).isOpen = (s.session j).isOpen ∧ (t.session j).consign = (s.session j).consign ∧
      (t.session j).epoch = (s.session j).epoch

section
variable {s t : State}

theorem State.SameRing.ringSession (h : s.SameRing t) : t.ringSession = s.ringSession := by
  obtain ⟨-, -, hx⟩ := h
  unfold State.ringSession
  congr 1
  funext j
  obtain ⟨hopen, hconsign, -⟩ := hx j
  rw [hopen, hconsign]

theorem State.SameRing.ringUp (h : s.SameRing t) : t.ringUp = s.ringUp := by
  rw [State.ringUp, State.ringUp, h.ringSession, h.2.1]

theorem State.SameRing.rank (h : s.SameRing t) (i : Nat) : (t.session i).rank = (s.session i).rank := by
  rw [Session.rank, Session.rank, (h.2.2 i).2.1]

theorem State.SameRing.ringKey (h : s.SameRing t) (i : Nat) : t.ringKey i = s.ringKey i := by
  obtain ⟨hslots, -, hx⟩ := h
  obtain ⟨-, hconsign, hepoch⟩ := hx i
  have hkey : t.slotKey i .link = s.slotKey i .link := by rw [State.slotKey, State.slotOf, hslots]; rfl
  have hring : (t.session i).ownRing = (s.session i).ownRing := by
    simp only [Session.ownRing, Session.placeOf, Session.rank, hconsign]
  simp only [State.ringKey, hkey, hring, hepoch]

/-- Replacing a session by one that stands on the ring as it did. -/
theorem State.sameRing_setSession {i : Nat} {x : Session} (hopen : x.isOpen = (s.session i).isOpen)
    (hconsign : x.consign = (s.session i).consign) (hepoch : x.epoch = (s.session i).epoch) : s.SameRing (s.setSession i x) := by
  refine ⟨rfl, rfl, fun j => ?_⟩
  by_cases h : i = j ∧ i < 4
  · obtain ⟨rfl, hi⟩ := h
    rw [State.setSession_same _ _ hi]
    exact ⟨hopen, hconsign, hepoch⟩
  · have hj : (s.setSession i x).session j = s.session j := (vget_vset _ _ _ _ _).trans (if_neg h)
    rw [hj]
    exact ⟨rfl, rfl, rfl⟩

end

/-! ### Frames put on the ring -/

/-- What frames sent on the ring change: the sides of the ring port, counters, the free values taken, and of the sessions
their sample rings and frame counters. -/
def State.RingWork (s t : State) : Prop :=
  t = { s with
    time := { s.time with cw := t.time.cw, ccw := t.time.ccw }
    perf := t.perf, sessions := t.sessions, draws := t.draws } ∧
  ∀ j, ∃ r n, t.session j = { s.session j with ring := r, frameSeq := n }

section
variable {s t u : State}

theorem State.RingWork.refl (s : State) : s.RingWork s :=
  ⟨rfl, fun j => ⟨(s.session j).ring, (s.session j).frameSeq, rfl⟩⟩

theorem State.RingWork.trans (h : s.RingWork t) (g : t.RingWork u) : s.RingWork u := by
  obtain ⟨h1, h2⟩ := h
  obtain ⟨g1, g2⟩ := g
  refine ⟨by rw [g1, h1], fun j => ?_⟩
  obtain ⟨r, n, hx⟩ := h2 j
  obtain ⟨r', n', gx⟩ := g2 j
  exact ⟨r', n', by rw [gx, hx]⟩

theorem State.RingWork.sameRing (h : s.RingWork t) : s.SameRing t := by
  obtain ⟨h1, h2⟩ := h
  refine ⟨by rw [h1], by rw [h1], fun j => ?_⟩
  obtain ⟨r, n, hx⟩ := h2 j
  rw [hx]
  exact ⟨rfl, rfl, rfl⟩

end

section
variable (s : State) (i : Nat) (cw : Bool) (type : Nat) (body : Bytes)

theorem State.putFrame_session (frame : Bytes) (j : Nat) :
    ∃ r, (s.putFrame cw frame).session j = { s.session j with ring := r } := by
  obtain ⟨r, hr⟩ := (s.perfEvent_sampled (s.ringSession.getD 0) 4 0x290 1).session j
  exact ⟨r, hr ▸ by cases cw <;> rfl⟩

theorem State.putFrame_ringWork (frame : Bytes) : s.RingWork (s.putFrame cw frame) := by
  refine ⟨?_, fun j => ?_⟩
  · obtain ⟨p, d, r, h⟩ := s.perfEvent_sampled (s.ringSession.getD 0) 4 0x290 1
    rw [State.putFrame, h]
    cases cw <;> rfl
  · obtain ⟨r, hr⟩ := s.putFrame_session cw frame j
    exact ⟨r, (s.session j).frameSeq, hr⟩

theorem State.putFrame_sides (frame : Bytes) :
    (s.putFrame cw frame).side cw = { s.side cw with sent := frame :: (s.side cw).sent } ∧
      (s.putFrame cw frame).side (!cw) = s.side (!cw) := by
  obtain ⟨p, d, r, h⟩ := s.perfEvent_sampled (s.ringSession.getD 0) 4 0x290 1
  rw [State.putFrame, h]
  cases cw <;> exact ⟨rfl, rfl⟩

theorem State.sendFrame_down (h : s.ringUp = false) : s.sendFrame i cw type body = s := by
  rw [State.sendFrame, if_neg (by simp [h])]

theorem State.sendBoth_down (h : s.ringUp = false) : s.sendBoth i type body = s := by
  rw [State.sendBoth, s.sendFrame_down _ _ _ _ h, s.sendFrame_down _ _ _ _ h]

/-- The sender counts its frame, whatever then becomes of it. -/
theorem State.RingWork.counted : s.RingWork (s.onSession i fun x => { x with frameSeq := (s.session i).frameSeq + 1 }) := by
  refine ⟨rfl, fun j => ?_⟩
  by_cases h : i = j ∧ i < 4
  · obtain ⟨rfl, hi⟩ := h
    exact ⟨(s.session i).ring, _, State.onSession_same s _ hi⟩
  · exact ⟨(s.session j).ring, (s.session j).frameSeq, (vget_vset _ _ _ _ _).trans (if_neg h)⟩

/-- A frame sent: it stands first on its side, the other side is as it was, and its sender has counted it (R296, R297). -/
theorem State.sendFrame_up (h : s.ringUp = true) (hi : i < 4) :
    let t := s.sendFrame i cw type body
    s.RingWork t ∧
      (t.side cw).sent = ringFrame (s.ringKey i) (s.session i).rank cw type body (s.session i).frameSeq :: (s.side cw).sent ∧
      t.side (!cw) = s.side (!cw) ∧
      ∃ r, t.session i = { s.session i with ring := r, frameSeq := (s.session i).frameSeq + 1 } := by
  let u := s.onSession i fun x => { x with frameSeq := (s.session i).frameSeq + 1 }
  let frame := ringFrame (s.ringKey i) (s.session i).rank cw type body (s.session i).frameSeq
  have ht : s.sendFrame i cw type body = u.putFrame cw frame := if_pos h
  obtain ⟨hthis, hother⟩ := u.putFrame_sides cw frame
  obtain ⟨r, hr⟩ := u.putFrame_session cw frame i
  rw [ht]
  exact ⟨(State.RingWork.counted s i).trans (u.putFrame_ringWork cw frame), congrArg RingSide.sent hthis, hother, r,
    by rw [hr, State.onSession_same s _ hi]⟩

theorem State.sendFrame_ringWork (hi : i < 4) : s.RingWork (s.sendFrame i cw type body) := by
  cases h : s.ringUp with
  | false => rw [s.sendFrame_down i cw type body h]; exact .refl s
  | true => exact (s.sendFrame_up i cw type body h hi).1

theorem State.sendBoth_ringWork (hi : i < 4) : s.RingWork (s.sendBoth i type body) :=
  (s.sendFrame_ringWork i true type body hi).trans ((s.sendFrame i true type body).sendFrame_ringWork i false type body hi)

/-- A message sent both ways: one frame a side, under two frame counters (R297, R318). -/
theorem State.sendBoth_up (h : s.ringUp = true) (hi : i < 4) :
    let t := s.sendBoth i type body
    t.time.cw.sent = ringFrame (s.ringKey i) (s.session i).rank true type body (s.session i).frameSeq :: s.time.cw.sent ∧
      t.time.ccw.sent = ringFrame (s.ringKey i) (s.session i).rank false type body ((s.session i).frameSeq + 1) ::
        s.time.ccw.sent ∧
      ∃ r, t.session i = { s.session i with ring := r, frameSeq := (s.session i).frameSeq + 2 } := by
  intro t
  obtain ⟨hwork, hcw, hccw, r, hx⟩ := s.sendFrame_up i true type body h hi
  have hsame := hwork.sameRing
  obtain ⟨-, hsent, hother, r', hy⟩ :=
    (s.sendFrame i true type body).sendFrame_up i false type body (hsame.ringUp.trans h) hi
  refine ⟨(congrArg RingSide.sent hother).trans hcw, ?_, r', ?_⟩
  · rw [hsame.ringKey, hsame.rank, hx] at hsent
    exact hsent.trans (congrArg (_ :: RingSide.sent ·) hccw)
  · refine hy.trans ?_
    rw [hx]
    simp only [BitVec.add_assoc]
    rfl

end

/-! ### Messages sent by flit as well -/

/-- What messages sent, on the ring or by flit, change: port queues beside what frames do, and of the sessions also their
counts of flits that were dropped or never acknowledged. -/
def State.Sends (s t : State) : Prop :=
  t = { s with
    time := { s.time with cw := t.time.cw, ccw := t.time.ccw }
    perf := t.perf, sessions := t.sessions, draws := t.draws, ports := t.ports } ∧
  ∀ j, ∃ r n c w, t.session j = { s.session j with ring := r, frameSeq := n, coll := c, unsent := w }

section
variable {s t u : State}

theorem State.Sends.refl (s : State) : s.Sends s :=
  ⟨rfl, fun j => ⟨(s.session j).ring, (s.session j).frameSeq, (s.session j).coll, (s.session j).unsent, rfl⟩⟩

theorem State.Sends.trans (h : s.Sends t) (g : t.Sends u) : s.Sends u := by
  obtain ⟨h1, h2⟩ := h
  obtain ⟨g1, g2⟩ := g
  refine ⟨by rw [g1, h1], fun j => ?_⟩
  obtain ⟨r, n, c, w, hx⟩ := h2 j
  obtain ⟨r', n', c', w', gx⟩ := g2 j
  exact ⟨r', n', c', w', by rw [gx, hx]⟩

theorem State.RingWork.sends (h : s.RingWork t) : s.Sends t := by
  obtain ⟨h1, h2⟩ := h
  refine ⟨by rw [h1], fun j => ?_⟩
  obtain ⟨r, n, hx⟩ := h2 j
  exact ⟨r, n, (s.session j).coll, (s.session j).unsent, by rw [hx]⟩

theorem State.Sends.foldl {β : Type} {f : State → β → State} (hf : ∀ s b, State.Sends s (f s b)) (l : List β)
    (s : State) : s.Sends (l.foldl f s) := by
  induction l generalizing s with
  | nil => exact .refl s
  | cons b l ih => exact (hf s b).trans (ih (f s b))

/-- A change of a session's counts alone. -/
theorem State.Sends.onSession (s : State) (i : Nat) (f : Session → Session)
    (hf : ∀ x, ∃ c w, f x = { x with coll := c, unsent := w }) : s.Sends (s.onSession i f) := by
  refine ⟨rfl, fun j => ?_⟩
  by_cases h : i = j ∧ i < 4
  · obtain ⟨rfl, hi⟩ := h
    obtain ⟨c, w, hx⟩ := hf (s.session i)
    exact ⟨(s.session i).ring, (s.session i).frameSeq, c, w, (State.onSession_same s f hi).trans hx⟩
  · exact ⟨(s.session j).ring, (s.session j).frameSeq, (s.session j).coll, (s.session j).unsent,
      (vget_vset _ _ _ _ _).trans (if_neg h)⟩

theorem State.neverAcked_sends (s : State) (i : Nat) (l : List OutFlit) : s.Sends (s.neverAcked i l) := by
  unfold State.neverAcked
  dsimp only
  split
  · exact .refl s
  · refine State.Sends.onSession s i _ fun x => ?_
    exact ⟨x.coll, x.unsent ++ (l.filterMap (·.work)).filter fun w => !x.unsent.contains w, rfl⟩

theorem State.forward_sends (s : State) (i : Nat) (f : OutFlit) : s.Sends (s.forward i f) := by
  unfold State.forward
  dsimp only
  split
  · exact ⟨rfl, fun j => ⟨(s.session j).ring, (s.session j).frameSeq, (s.session j).coll, (s.session j).unsent, rfl⟩⟩
  · refine State.Sends.trans (State.Sends.onSession s i _ fun x => ?_) (State.neverAcked_sends _ i _)
    exact ⟨{ x.coll with routeDrop := satAdd x.coll.routeDrop 1 }, x.unsent, rfl⟩

theorem State.sendGateways_sends (s : State) (i flitType type : Nat) (body : Bytes) :
    s.Sends (s.sendGateways i flitType type body) :=
  .foldl (fun t _ => t.forward_sends i _) _ s

end

end Sys2Proof.Machine
end

section
/-! PROOFS. The votes of a step seal: cast, gathered, summarised, and decided on. -/

namespace Sys2Proof.Machine

/-! ### Which meaning the commands have -/

theorem exec_stepSeal (o : OpRef) (s : State) : exec (.stepSeal o) s = execStepSeal o s := rfl

theorem exec_vote (rx : Rx) (m : Bytes) (s : State) : exec (.vote rx m) s = execVote rx m s := rfl

theorem exec_summary (p : Nat) (m : Bytes) (s : State) : exec (.summary p m) s = execSummary p m s := rfl

theorem exec_summaryDeadline (i : Nat) (s : State) : exec (.summaryDeadline i) s = execSummaryDeadline i s := rfl

theorem exec_sealCollectionClose (i : Nat) (s : State) :
    exec (.sealCollectionClose i) s = execSealCollectionClose i s := rfl

theorem exec_decision (rx : Rx) (m : Bytes) (s : State) : exec (.decision rx m) s = execDecision rx m s := rfl

/-! ### Casting, R159, R160 and R223 -/

/-- A session whose scale records are evaluated at the close of the step. -/
def Session.evaluated (x : Session) : Session := { x with scales := mapScales ScaleRec.evaluate x.scales }

/-- A session that has cast its vote for the attempt, with the reasons gathered. -/
def Session.voted (x : Session) (q : Sealing) (r : BitVec 16) : Session :=
  { x with
    sealing := some { q with voteSent := true, ownReasons := r }
    votes := x.votes ++ [⟨x.rank, x.sealRec.step, x.sealRec.attempt, r, q.launch⟩] }

/-- A vote as it is sent (R318). -/
def Session.voteBody (x : Session) (q : Sealing) (r : BitVec 16) : Bytes :=
  w32 x.sealRec.step ++ w16 x.sealRec.attempt ++ w16 r ++ w64 q.launch

/-- Closing a step leaves the ring as its frames see it. -/
theorem State.sameRing_voted (s : State) (i : Nat) (q : Sealing) (r : BitVec 16) :
    s.SameRing (s.setSession i ((s.session i).evaluated.voted q r)) :=
  State.sameRing_setSession rfl rfl rfl

section
variable {s : State} {o : OpRef} {p : Op} {q : Sealing} (hi : o.session < 4) (hl : s.launched o opSeal = some p)
  (hq : (s.session o.session).sealing = some q) (hv : q.voteSent = false) (hc : q.ctx = p.ctx) (hs : q.seq = p.seq)
include hi hl hq hv hc hs

/-- A launched STEP_SEAL closes the step once: the vote is held, and sent where there is a consignment. -/
theorem exec_stepSeal_votes :
    let x := (s.session o.session).evaluated
    let r := x.sealReasons p.desc
    let u := s.setSession o.session (x.voted q r)
    exec (.stepSeal o) s = .next (if x.isConsignment then u.sendBoth o.session 4 (x.voteBody q r) else u) := by
  rw [exec_stepSeal, execStepSeal, hl, hq]
  dsimp only
  rw [if_neg (by simp [hv, hc, hs]), State.onSession, State.setSession_same _ _ hi, State.setSession_twice]
  rfl

/-- Outside a consignment, or with no ring to carry it, the vote is held alone. -/
theorem exec_stepSeal_alone (halone : (s.session o.session).isConsignment = false ∨ s.ringUp = false) :
    let x := (s.session o.session).evaluated
    exec (.stepSeal o) s = .next (s.setSession o.session (x.voted q (x.sealReasons p.desc))) := by
  refine (exec_stepSeal_votes hi hl hq hv hc hs).trans (congrArg _ ?_)
  rcases halone with halone | hdown
  · exact if_neg (Bool.eq_false_iff.mp halone)
  · rw [State.sendBoth_down _ _ _ _ ((s.sameRing_voted o.session q _).ringUp.trans hdown), ite_self]

/-- In a consignment the vote is sent both ways, each frame under its own counter (R318). -/
theorem exec_stepSeal_sends (hx : (s.session o.session).isConsignment = true) (hup : s.ringUp = true) :
    let x := (s.session o.session).evaluated
    let r := x.sealReasons p.desc
    ∃ t, exec (.stepSeal o) s = .next t ∧
      t = { s with time := t.time, perf := t.perf, sessions := t.sessions, draws := t.draws } ∧
      t.session o.session = { x.voted q r with ring := (t.session o.session).ring, frameSeq := x.frameSeq + 2 } ∧
      t.time.cw.sent = ringFrame (s.ringKey o.session) x.rank true 4 (x.voteBody q r) x.frameSeq :: s.time.cw.sent ∧
      t.time.ccw.sent =
        ringFrame (s.ringKey o.session) x.rank false 4 (x.voteBody q r) (x.frameSeq + 1) :: s.time.ccw.sent := by
  intro x r
  let u := s.setSession o.session (x.voted q r)
  have hu : u.session o.session = x.voted q r := State.setSession_same s _ hi
  have hring : s.SameRing u := s.sameRing_voted o.session q r
  obtain ⟨hwork, -⟩ := u.sendBoth_ringWork o.session 4 (x.voteBody q r) hi
  obtain ⟨hcw, hccw, n, hsess⟩ := u.sendBoth_up o.session 4 (x.voteBody q r) (hring.ringUp.trans hup) hi
  rw [hring.ringKey, hu] at hcw hccw
  rw [hu] at hsess
  refine ⟨u.sendBoth o.session 4 (x.voteBody q r),
    (exec_stepSeal_votes hi hl hq hv hc hs).trans (congrArg _ (if_pos hx)), ?_, ?_, hcw, hccw⟩
  · rw [hwork]; rfl
  · rw [hsess]; rfl

end

/-! ### Gathering, R318 -/

/-- The vote is for the attempt whose summary this member has sent. -/
def Session.voteLeft (x : Session) (v : Vote) : Prop :=
  x.sealSummarySent = true ∧ v.step = x.sealRec.step ∧ v.attempt = x.sealRec.attempt

/-- A master counts one vote a rank of its ring and attempt, until that attempt's summary has left. -/
def Session.countsVote (x : Session) (v : Vote) : Prop :=
  x.isMaster = true ∧ ¬ x.voteLeft v ∧ v.rank ∈ x.ringRanks x.ownRing ∧
    ∀ w ∈ x.votes, ¬ (w.rank = v.rank ∧ w.step = v.step ∧ w.attempt = v.attempt)

/-- The vote that a message carries. -/
def Msg.vote (g : Msg) : Vote := ⟨g.src, u32 g.body 0, u16 g.body 4, u16 g.body 6, u64 g.body 8⟩

theorem Session.voteLate_iff (x : Session) (v : Vote) : x.voteLate v = true ↔ x.voteLeft v := by
  simp [Session.voteLate, Session.voteLeft, and_assoc]

section
variable {s u : State} {m : Bytes} {g : Msg}

open Classical in
theorem exec_vote_taken {rx : Rx} (h : s.takeMsg rx 4 2 m = (u, some g)) :
    exec (.vote rx m) s = .next (u.onSession g.sess fun x =>
      if x.countsVote g.vote then { x with votes := x.votes ++ [g.vote] } else x) := by
  rw [exec_vote, execVote, h]
  dsimp only
  congr 2
  funext x
  refine if_congr ?_ rfl rfl
  rw [Session.voteLate_iff, Session.countsVote]
  simp [Msg.vote, and_assoc]

theorem exec_vote_counted {rx : Rx} (h : s.takeMsg rx 4 2 m = (u, some g)) (hc : (u.session g.sess).countsVote g.vote) :
    exec (.vote rx m) s =
      .next (u.setSession g.sess { u.session g.sess with votes := (u.session g.sess).votes ++ [g.vote] }) := by
  rw [exec_vote_taken h, State.onSession, if_pos hc]

theorem exec_vote_passed {rx : Rx} (h : s.takeMsg rx 4 2 m = (u, some g)) (hc : ¬ (u.session g.sess).countsVote g.vote) :
    exec (.vote rx m) s = .next u := by
  rw [exec_vote_taken h, State.onSession, if_neg hc, State.setSession_self]

/-! ### Summaries, R319 -/

/-- Rank 0 holds a summary about the seal as it comes. -/
theorem exec_summary_seal {p : Nat} (h : s.takeMsg (.port p) 5 (if bitsAt m 0 1 3 0 = 4 then 4 else 2) m = (u, some g))
    (hr : (u.session g.sess).rank = 0) (hc : (u.session g.sess).consign ≠ none) (h1 : (u8 g.body 0).toNat = 1) :
    exec (.summary p m) s = .next (u.setSession g.sess
      { u.session g.sess with ringSummaries := (u.session g.sess).ringSummaries ++ [g.body] }) := by
  rw [exec_summary, execSummary]
  dsimp only
  rw [h]
  dsimp only
  rw [State.onSession, if_neg (by simp [hr, hc]), if_pos h1]

/-- Rank 0 holds a summary about the roll call in progress. -/
theorem exec_summary_roll {p : Nat} {r : RollCall}
    (h : s.takeMsg (.port p) 5 (if bitsAt m 0 1 3 0 = 4 then 4 else 2) m = (u, some g))
    (hr : (u.session g.sess).rank = 0) (hc : (u.session g.sess).consign ≠ none) (h1 : (u8 g.body 0).toNat ≠ 1)
    (hroll : (u.session g.sess).roll = some r) (hp : u64 g.body 8 = r.p) :
    exec (.summary p m) s = .next (u.setSession g.sess
      { u.session g.sess with roll := some { r with summaries := r.summaries ++ [g.body] } }) := by
  rw [exec_summary, execSummary]
  dsimp only
  rw [h]
  dsimp only
  rw [State.onSession, if_neg (by simp [hr, hc]), if_neg h1, hroll]
  dsimp only
  rw [if_pos hp]

end

/-- The ring of a master is whole: a vote of every active rank is held for the attempt. -/
def State.ringVoted (s : State) (x : Session) : Prop :=
  ∀ k ∈ s.activeRanks x, ∃ v ∈ x.votes, v.rank = k ∧ v.step = x.sealRec.step ∧ v.attempt = x.sealRec.attempt

/-- A state once the seal summary of ring master `i` has left by port `n`. -/
def State.summaryLeft (s : State) (i n : Nat) (rank : Nat) (q : Sealing) : State :=
  (s.setPort n { s.port n with control := (s.port n).control ++
      [(⟨2, 0, rank, false, false, msgPayload 5 ((s.session i).sealSummary q), s.linkGen i, none⟩ : OutFlit)] }).setSession i
    { s.session i with sealSummarySent := true }

section
variable {s : State} {i n : Nat} {q : Sealing} {c : Consign}

theorem State.sendUp_timePort (flitType type : Nat) (body : Bytes) (hc : (s.session i).consign = some c)
    (hp : c.timePort = some n) :
    s.sendUp i flitType type body = s.setPort n { s.port n with control := (s.port n).control ++
      [(⟨flitType, 0, c.rank, false, false, msgPayload type body, s.linkGen i, none⟩ : OutFlit)] } := by
  have hrank : (s.session i).rank = c.rank := by rw [Session.rank, hc]
  have hport : (s.session i).consign.bind (·.timePort) = some n := by rw [hc]; exact hp
  unfold State.sendUp
  dsimp only
  rw [hport, hrank]
  rfl

theorem State.rollSummaryDue_of_no_roll (h : (s.session i).roll = none) : s.rollSummaryDue i = s := by
  simp [State.rollSummaryDue, h]

/-- The summary of a ring that is whole, or at its deadline, leaves over the TIME_PORT, once. -/
theorem exec_summaryDeadline_sends (hi : i < 4) (hq : (s.session i).sealing = some q)
    (hc : (s.session i).consign = some c) (hp : c.timePort = some n) (hm : (s.session i).isMaster = true)
    (hr : (s.session i).ownRing ≠ 0) (hs : (s.session i).sealSummarySent = false) (hroll : (s.session i).roll = none)
    (hd : q.launch.toNat + ns q.decideNs ≤ s.time.now.toNat + ns 1400 ∨ s.ringVoted (s.session i)) :
    exec (.summaryDeadline i) s = .next (s.summaryLeft i n c.rank q) := by
  have hdue : s.ringHeard (s.session i) (fun k => (s.session i).votes.any fun v =>
        v.rank = k ∧ v.step = (s.session i).sealRec.step ∧ v.attempt = (s.session i).sealRec.attempt) ∨
      q.launch.toNat + ns q.decideNs ≤ s.now + ns 1400 := by
    refine hd.symm.imp (fun h => ?_) id
    simpa [State.ringHeard, State.ringVoted] using h
  have hleaves : s.sealSummaryDue i = s.summaryLeft i n c.rank q := by
    unfold State.sealSummaryDue
    dsimp only
    rw [hq]
    dsimp only
    rw [if_pos ⟨hm, hr, by simp [hs], hdue⟩, State.sendUp_timePort 2 5 _ hc hp]
    rfl
  have hroll' : ((s.summaryLeft i n c.rank q).session i).roll = none := by
    rw [State.summaryLeft, State.setSession_same _ _ hi]
    exact hroll
  rw [exec_summaryDeadline, execSummaryDeadline, hleaves, State.rollSummaryDue_of_no_roll hroll']

end

/-! ### What the decider holds of each rank, R225 -/

theorem foldl_or_eq_zero (l : List Nat) (a : Nat) : l.foldl (· ||| ·) a = 0 ↔ a = 0 ∧ ∀ n ∈ l, n = 0 := by
  induction l generalizing a with
  | nil => simp
  | cons b l ih => rw [List.foldl_cons, ih, Nat.or_eq_zero_iff, List.forall_mem_cons, and_assoc]

theorem foldl_or_lt {k : Nat} (l : List Nat) (a : Nat) (ha : a < 2 ^ k) (h : ∀ n ∈ l, n < 2 ^ k) :
    l.foldl (· ||| ·) a < 2 ^ k := by
  induction l generalizing a with
  | nil => exact ha
  | cons b l ih =>
    rw [List.forall_mem_cons] at h
    exact ih _ (Nat.or_lt_two_pow ha h.1) h.2

theorem orAll_eq_zero {l : List Nat} : orAll l = 0 ↔ ∀ n ∈ l, n = 0 := by simp [orAll, foldl_or_eq_zero]

theorem orAll_lt {k : Nat} {l : List Nat} (h : ∀ n ∈ l, n < 2 ^ k) : orAll l < 2 ^ k :=
  foldl_or_lt l 0 (Nat.two_pow_pos k) h

/-- The reasons held of a rank fit the record's 16 bits: those of a vote do, and a summary names ten (R224, R319). -/
theorem Session.voteOf_lt {x : Session} {k n : Nat} (h : x.voteOf k = some n) : n < 2 ^ 16 := by
  unfold Session.voteOf at h
  dsimp only at h
  split at h
  · obtain ⟨v, -, rfl⟩ := Option.map_eq_some_iff.mp h
    exact v.reasons.isLt
  · split at h
    · split at h
      · cases h
        refine orAll_lt fun n hn => ?_
        obtain ⟨b, hb, rfl⟩ := List.mem_map.mp hn
        have hb10 : b < 16 := by have := List.mem_range.mp hb; omega
        split
        · exact Nat.pow_lt_pow_right (by decide) hb10
        · exact Nat.two_pow_pos 16
      · cases h
    · cases h

/-- What the decider holds of every rank. -/
def Session.heldVotes (x : Session) : List Nat := ((List.range x.members).map x.voteOf).filterMap id

/-- Some rank's vote was not heard. -/
def Session.missesVote (x : Session) : Bool := decide ((x.heldVotes).length < ((List.range x.members).map x.voteOf).length)

theorem Session.mem_heldVotes {x : Session} {n : Nat} : n ∈ x.heldVotes ↔ ∃ k < x.members, x.voteOf k = some n := by
  simp [Session.heldVotes]

theorem Session.missesVote_eq_false {x : Session} :
    x.missesVote = false ↔ ∀ k < x.members, (x.voteOf k).isSome = true := by
  have hle : x.heldVotes.length ≤ ((List.range x.members).map x.voteOf).length := List.length_filterMap_le _ _
  rw [Session.missesVote, decide_eq_false_iff_not, Nat.not_lt, hle.ge_iff_eq, Session.heldVotes,
    List.filterMap_length_eq_length]
  simp

/-- The reasons of the record: those of every vote, and MISSING where one was not heard (R224, R225). -/
def Session.recordReasons (x : Session) : BitVec 16 :=
  BitVec.ofNat 16 (orAll x.heldVotes) ||| (if x.missesVote then rsMissing else 0)

/-- Every member voted, and none gave a reason (R225). -/
theorem Session.commits_iff {x : Session} :
    (x.missesVote = false ∧ x.recordReasons = 0) ↔ ∀ k < x.members, x.voteOf k = some 0 := by
  have hlt : orAll x.heldVotes < 2 ^ 16 := orAll_lt fun n hn => by
    obtain ⟨k, -, hk⟩ := Session.mem_heldVotes.mp hn
    exact Session.voteOf_lt hk
  have hzero : BitVec.ofNat 16 (orAll x.heldVotes) = 0 ↔ ∀ k < x.members, ∀ n, x.voteOf k = some n → n = 0 := by
    rw [← BitVec.toNat_inj, BitVec.toNat_ofNat, Nat.mod_eq_of_lt hlt, show (0 : BitVec 16).toNat = 0 from rfl, orAll_eq_zero]
    simp only [Session.mem_heldVotes]
    exact ⟨fun h k hk n hn => h n ⟨k, hk, hn⟩, fun h n ⟨k, hk, hn⟩ => h k hk n hn⟩
  constructor
  · rintro ⟨hm, hr⟩ k hk
    obtain ⟨n, hn⟩ := Option.isSome_iff_exists.mp (Session.missesVote_eq_false.mp hm k hk)
    rw [Session.recordReasons, hm] at hr
    rw [hn, hzero.mp (by simpa using hr) k hk n hn]
  · intro h
    have hm : x.missesVote = false := Session.missesVote_eq_false.mpr fun k hk => by rw [h k hk]; rfl
    refine ⟨hm, ?_⟩
    rw [Session.recordReasons, hm, hzero.mpr fun k hk n hn => by simpa [h k hk] using hn.symm]
    rfl

/-! ### The decision record, R225 -/

/-- What stands before a field of a record, and what follows it: the field reads as it was written. -/
theorem fieldAt_between {b a c : Bytes} {o k m : Nat} (hb : b = a ++ (le k m ++ c)) (ho : a.length = o) (hm : m < 256 ^ k) :
    fieldAt b o k = m := by
  rw [hb, ← ho, fieldAt_le a c k m hm]

section
variable (step : W32) (attempt : BitVec 16) (commit : Bool) (voters : Nat) (reasons : BitVec 16) (flip : Nat) (tag : Bytes)

/-- The fields of a record's head: step, attempt, decision and reasons. -/
theorem recordHead_fields :
    let b := recordHead step attempt commit voters reasons flip ++ tag
    u32 b 0 = step ∧ u16 b 4 = attempt ∧ u8 b 6 = (if commit then 1 else 2) ∧ u16 b 10 = reasons := by
  intro b
  refine ⟨?_, ?_, ?_, ?_⟩ <;> apply BitVec.eq_of_toNat_eq
  · rw [u32_toNat]
    exact fieldAt_between (a := []) (by simp only [b, recordHead, List.append_assoc]; rfl) rfl step.isLt
  · rw [u16_toNat]
    exact fieldAt_between (a := w32 step) (by simp only [b, recordHead, List.append_assoc]; rfl) (w32_length _) attempt.isLt
  · have h : fieldAt b 6 1 = if commit then 1 else 2 :=
      fieldAt_between (a := w32 step ++ w16 attempt) (by simp only [b, recordHead, List.append_assoc]; rfl) (by simp)
        (by split <;> decide)
    rw [← fieldAt_mod_256, h]
    split <;> rfl
  · rw [u16_toNat]
    exact fieldAt_between (a := w32 step ++ w16 attempt ++ le 1 (if commit then 1 else 2) ++ [0] ++ le 2 voters)
      (by simp only [b, recordHead, List.append_assoc]; rfl) (by simp) reasons.isLt

end

section
variable (s : State) (i : Nat) (q : Sealing)

theorem State.decisionRecord_fields :
    let x := s.session i
    let b := s.decisionRecord i q
    u32 b 0 = x.sealRec.step ∧ u16 b 4 = x.sealRec.attempt ∧
      u8 b 6 = (if !x.missesVote && x.recordReasons = 0 then 1 else 2) ∧ u16 b 10 = x.recordReasons :=
  recordHead_fields _ _ _ _ _ _ _

/-- The decider's record commits exactly when every member voted without a reason, and says MISSING where one did not
vote (R225). -/
theorem State.decisionRecord_says :
    let x := s.session i
    let b := s.decisionRecord i q
    u32 b 0 = x.sealRec.step ∧ u16 b 4 = x.sealRec.attempt ∧
      (u8 b 6 = 1 ↔ ∀ k < x.members, x.voteOf k = some 0) ∧ (u8 b 6 ≠ 1 → u8 b 6 = 2) ∧
      ((∃ k < x.members, x.voteOf k = none) → u16 b 10 &&& rsMissing = rsMissing) := by
  obtain ⟨hstep, hattempt, hdecision, hreasons⟩ := s.decisionRecord_fields i q
  dsimp only
  generalize s.decisionRecord i q = b at *
  generalize s.session i = x at *
  refine ⟨hstep, hattempt, ?_, ?_, ?_⟩
  · rw [← Session.commits_iff, hdecision]
    cases x.missesVote <;> by_cases hr : x.recordReasons = 0 <;> simp [hr]
  · rw [hdecision]
    split <;> simp
  · rintro ⟨k, hk, hnone⟩
    have hm : x.missesVote = true := by
      rw [← Bool.not_eq_false, Session.missesVote_eq_false]
      intro h
      simpa [hnone] using h k hk
    rw [hreasons, Session.recordReasons, hm]
    ext n
    simp only [if_true, BitVec.getElem_and, BitVec.getElem_or]
    cases rsMissing[n] <;> simp

end

/-! ### The decision and its receipt, R225 and R318 -/

/-- What no message sent changes: key slots, tallies, and of a session its decision and its record of seals. -/
theorem State.Sends.keeps {s t : State} (h : s.Sends t) (i : Nat) :
    t.slots = s.slots ∧ t.tallies = s.tallies ∧ (t.session i).decision = (s.session i).decision ∧
      (t.session i).sealRec = (s.session i).sealRec := by
  obtain ⟨h1, h2⟩ := h
  obtain ⟨r, n, c, w, hx⟩ := h2 i
  exact ⟨by rw [h1], by rw [h1], by rw [hx], by rw [hx]⟩

section
variable {s : State} {i : Nat} {q : Sealing}

/-- The decider records its decision when it may, and a consignment's is sent (R225). -/
theorem exec_sealCollectionClose_decides (hq : (s.session i).sealing = some q) (hr : (s.session i).rank = 0)
    (hv : q.voteSent = true) (hd : (s.session i).decision = none)
    (hmay : (s.session i).consign = none ∨ q.launch.toNat + ns q.decideNs ≤ s.time.now.toNat) :
    let b := s.decisionRecord i q
    let u := s.setSession i { s.session i with decision := some b }
    exec (.sealCollectionClose i) s =
      .next (if (s.session i).consign.isSome then (u.sendBoth i 6 b).sendGateways i 3 6 b else u) := by
  rw [exec_sealCollectionClose, execSealCollectionClose]
  dsimp only
  rw [hq]
  dsimp only
  rw [if_pos ⟨hr, hv, by simp [hd], hmay.imp (by simp) id⟩]

/-- Recording a decision leaves keys, tallies and the record of seals, whether it is then sent or not. -/
theorem exec_sealCollectionClose_keeps (hi : i < 4) (hq : (s.session i).sealing = some q) (hr : (s.session i).rank = 0)
    (hv : q.voteSent = true) (hd : (s.session i).decision = none)
    (hmay : q.launch.toNat + ns q.decideNs ≤ s.time.now.toNat) :
    ∃ t, exec (.sealCollectionClose i) s = .next t ∧ (t.session i).decision = some (s.decisionRecord i q) ∧
      t.slots = s.slots ∧ t.tallies = s.tallies ∧ (t.session i).sealRec = (s.session i).sealRec := by
  let b := s.decisionRecord i q
  let u := s.setSession i { s.session i with decision := some b }
  have hu : u.session i = { s.session i with decision := some b } := State.setSession_same s _ hi
  have hsent : u.Sends (if (s.session i).consign.isSome then (u.sendBoth i 6 b).sendGateways i 3 6 b else u) := by
    split
    · exact (u.sendBoth_ringWork i 6 b hi).sends.trans (State.sendGateways_sends _ i 3 6 b)
    · exact .refl u
  obtain ⟨hslots, htallies, hdecision, hrec⟩ := hsent.keeps i
  rw [hu] at hdecision hrec
  exact ⟨_, exec_sealCollectionClose_decides hq hr hv hd (.inr hmay), hdecision, hslots, htallies, hrec⟩

end

/-- The record that a message carries (R225). -/
def Msg.record (g : Msg) : Bytes := slice g.body 0 48

/-- A member that holds no decision holds a record that fits. -/
def State.recorded (u : State) (g : Msg) : State :=
  if u.recordFits g.sess g.record ∧ (u.session g.sess).decision.isNone then
    u.setSession g.sess { u.session g.sess with decision := some g.record }
  else u

section
variable {s u : State} {rx : Rx} {m : Bytes} {g : Msg}

theorem State.recorded_fits (hf : u.recordFits g.sess g.record = true) (hd : (u.session g.sess).decision = none) :
    u.recorded g = u.setSession g.sess { u.session g.sess with decision := some g.record } :=
  if_pos ⟨hf, by simp [hd]⟩

theorem State.recorded_other (h : u.recordFits g.sess g.record = false ∨ (u.session g.sess).decision ≠ none) :
    u.recorded g = u := by
  refine if_neg ?_
  rintro ⟨hfit, hnone⟩
  rcases h with h | h
  · simp [hfit] at h
  · exact h (by simpa using hnone)

/-- A decision received, and sent around its ring by a gateway that it came to by flit (R318). -/
theorem exec_decision_taken (h : s.takeMsg rx 6 3 m = (u, some g)) :
    exec (.decision rx m) s =
      .next (if g.byFlit ∧ (u.session g.sess).isMaster ∧ (u.session g.sess).ownRing ≠ 0 then
        (u.recorded g).sendBoth g.sess 6 g.record else u.recorded g) := by
  rw [exec_decision, execDecision, h]
  rfl

/-- A decision that the ring carried goes no further. -/
theorem exec_decision_ring (h : s.takeMsg rx 6 3 m = (u, some g)) (hb : g.byFlit = false) :
    exec (.decision rx m) s = .next (u.recorded g) := by
  rw [exec_decision_taken h, if_neg (by simp [hb])]

/-- A record that fits is held by a member that holds none, whether it is then sent on or not. -/
theorem exec_decision_held (h : s.takeMsg rx 6 3 m = (u, some g)) (hi : g.sess < 4)
    (hf : u.recordFits g.sess g.record = true) (hd : (u.session g.sess).decision = none) :
    ∃ t, exec (.decision rx m) s = .next t ∧ (t.session g.sess).decision = some g.record ∧ t.slots = u.slots ∧
      (t.session g.sess).sealRec = (u.session g.sess).sealRec ∧
      (g.byFlit = false → t = u.setSession g.sess { u.session g.sess with decision := some g.record }) := by
  have hrec := State.recorded_fits hf hd
  have hsends : (u.recorded g).Sends (if g.byFlit ∧ (u.session g.sess).isMaster ∧ (u.session g.sess).ownRing ≠ 0 then
      (u.recorded g).sendBoth g.sess 6 g.record else u.recorded g) := by
    split
    · exact (State.sendBoth_ringWork _ g.sess 6 g.record hi).sends
    · exact .refl _
  obtain ⟨hslots, -, hdecision, hseal⟩ := hsends.keeps g.sess
  refine ⟨_, exec_decision_taken h, ?_, ?_, ?_, fun hb => ?_⟩
  · rw [hdecision, hrec, State.setSession_same _ _ hi]
  · rw [hslots, hrec]; rfl
  · rw [hseal, hrec, State.setSession_same _ _ hi]
  · rw [if_neg (by simp [hb]), hrec]

end

/-- Settles O47: the vote and its two frames, what a master and rank 0 gather, and what a decider's record says. -/
theorem sealVotesAreGathered : Obligations.SealVotesAreGathered := by
  unfold Obligations.SealVotesAreGathered
  refine ⟨?votes, ?gathers, ?summaries, ?summary, ?decides, ?receives⟩
  case votes =>
    intro s o p q hi hl hq hv hc hs
    exact ⟨exec_stepSeal_alone hi hl hq hv hc hs, exec_stepSeal_sends hi hl hq hv hc hs⟩
  case gathers =>
    intro s u rx m g h _
    exact ⟨exec_vote_counted h, exec_vote_passed h⟩
  case summaries =>
    intro s u p m g h _ x hr hc
    exact ⟨exec_summary_seal h hr hc, fun r => exec_summary_roll h hr hc⟩
  case summary =>
    intro s i n q c hi _ hq hc hp hm hr hs hroll hd
    exact exec_summaryDeadline_sends hi hq hc hp hm hr hs hroll hd
  case decides =>
    intro s i q hi hq hr hv hd x b
    refine ⟨fun hc => ?_, exec_sealCollectionClose_keeps hi hq hr hv hd, s.decisionRecord_says i q⟩
    exact (exec_sealCollectionClose_decides hq hr hv hd (.inl hc)).trans (congrArg _ (if_neg (by simp [x, hc])))
  case receives =>
    intro s u rx m g h hi x r
    refine ⟨exec_decision_held h hi, fun hother hb => ?_⟩
    rw [exec_decision_ring h hb, State.recorded_other hother]

end Sys2Proof.Machine
end

section
/-! PROOFS. The decision of a step seal applied: the commit, the void, and a member that is held without a record. -/

namespace Sys2Proof.Machine

theorem exec_sealFlip (i : Nat) (s : State) : exec (.sealFlip i) s = execSealFlip i s := rfl

theorem exec_sealResolve (mb : Nat) (s : State) : exec (.sealResolve mb) s = execSealResolve mb s := rfl

/-! ### The commit, R226, R152, R163, R213 and R236 -/

section
variable (x : Session) (flip : W64)

/-- What a commit makes of a session's record of seals. -/
def SealRec.committed (r : SealRec) (flip : W64) : SealRec :=
  { r with
    step := if r.step = BitVec.allOnes 32 then r.step else r.step + 1
    attempt := 0, lastDecision := 1, sealing := false, lastFlip := flip, commitCount := satAdd r.commitCount 1 }

theorem Session.commitStep_eq :
    let y := x.commitStep flip
    y = { x with
      pages := y.pages, scales := y.scales, noise := x.noise.filter fun n => n.step ≠ x.sealRec.step
      upd := { x.upd with noiseSteps := satAdd x.upd.noiseSteps (boolNat x.noiseRan) }, noiseRan := false
      exhausted := x.exhausted || decide (x.sealRec.step = BitVec.allOnes 32)
      sealRec := x.sealRec.committed flip, voteReasons := 0, updNanInAttempt := false, outputs := []
      piece := { x.piece with retired := [] }, sealing := none, sealSummarySent := false, votes := y.votes
      ringSummaries := y.ringSummaries } := by
  unfold Session.commitStep Session.startAttempt Session.clearVotes SealRec.committed
  simp only [decide_eq_true_eq]

/-- A vote for the attempt that ends, or one before it, is gone; a later one is kept for its own. -/
theorem Session.mem_commitStep_votes (v : Vote) :
    v ∈ (x.commitStep flip).votes ↔ v ∈ x.votes ∧ (x.sealRec.step.toNat < v.step.toNat ∨
      (x.sealRec.step = v.step ∧ x.sealRec.attempt.toNat < v.attempt.toNat)) := by
  change v ∈ x.votes.filter _ ↔ _
  rw [List.mem_filter, Session.laterThan, decide_eq_true_eq]

/-- A change of every page record keeps the changed record of a page, where that is not the one an unlisted page reads as. -/
theorem mem_mapPages {f : Page → Page} {t : Table Page} {k : Nat} {g : Page} (hg : (k, g) ∈ t)
    (hf : f g ≠ ⟨false, false, 0⟩) : (k, f g) ∈ mapPages f t :=
  List.mem_filter.mpr ⟨List.mem_map.mpr ⟨(k, g), hg, rfl⟩, decide_eq_true hf⟩

theorem mapPages_not_pending {t : Table Page} {e : Nat × Page} (he : e ∈ mapPages (fun p => { p with pending := false }) t) :
    e.2.pending = false := by
  obtain ⟨a, -, rfl⟩ := List.mem_map.mp (List.mem_of_mem_filter he)
  rfl

theorem Page.flip_pending {g : Page} (h : g.pending = true) : g.flip = ⟨!g.current, false, g.step⟩ := by
  rw [Page.flip, if_pos h]

/-- A page's pending copy is its current one after the commit (R213). -/
theorem Session.mem_commitStep_pages {k : Nat} {g : Page} (hg : (k, g) ∈ x.pages) (hp : g.pending = true)
    (hne : (⟨!g.current, false, g.step⟩ : Page) ≠ ⟨false, false, 0⟩) :
    (k, ⟨!g.current, false, g.step⟩) ∈ (x.commitStep flip).pages := by
  rw [← Page.flip_pending hp] at hne ⊢
  exact mem_mapPages hg hne

end

/-! ### The void, R227 and R162 -/

/-- What a void makes of a session's record of seals. -/
def SealRec.voided (r : SealRec) (flip : W64) (reasons : BitVec 16) : SealRec :=
  { r with
    attempt := if r.attempt = BitVec.allOnes 16 then r.attempt else r.attempt + 1
    lastDecision := 2, sealing := false, lastReasons := reasons, lastFlip := flip, voidCount := satAdd r.voidCount 1 }

/-- After a voided attempt: its context stops when attempts are spent, and else goes to the replay target, or stops where
there is none (R227). -/
def Session.replayed (x : Session) (o : Op) (q : Sealing) (spent : Bool) : Session :=
  if spent then x.stopCtxAt o.ctx stVoided o.slot o.index
  else if ¬ (x.ctx o.ctx).live then x
  else if (x.descAt? q.replaySlot q.replayIndex).isNone then x.stopCtxAt o.ctx stRefused o.slot o.index
  else x.jump o.ctx q.replaySlot q.replayIndex

theorem Session.stopCtxAt_keeps (x : Session) (c : Nat) (st : Status) (slot index : Nat) :
    ∃ k v, x.stopCtxAt c st slot index = { x with ctxs := k, voteReasons := v } :=
  ⟨_, _, x.stopCtxAt_eq c st slot index⟩

theorem Session.replayed_keeps (x : Session) (o : Op) (q : Sealing) (spent : Bool) :
    ∃ k v, x.replayed o q spent = { x with ctxs := k, voteReasons := v } := by
  unfold Session.replayed
  split
  · exact x.stopCtxAt_keeps _ _ _ _
  split
  · exact ⟨x.ctxs, x.voteReasons, rfl⟩
  split
  · exact x.stopCtxAt_keeps _ _ _ _
  · next hd =>
    obtain ⟨d, hd⟩ := Option.ne_none_iff_exists'.mp (by simpa using hd)
    rw [Session.jump_some o.ctx hd]
    exact ⟨_, x.voteReasons, rfl⟩

/-- A live context that is stopped bears the status it was stopped with. -/
theorem Session.stopCtxAt_ctx {x : Session} {c : Nat} (st : Status) (slot index : Nat) (hc : c < 4)
    (h : (x.ctx c).live = true) :
    ((x.stopCtxAt c st slot index).ctx c).state = .stopped ∧ ((x.stopCtxAt c st slot index).ctx c).status = st := by
  rw [Session.stopCtxAt_eq, Session.ctx, vget_vset_same _ _ _ hc, if_neg (Context.live_not_stopped h)]
  exact ⟨rfl, rfl⟩

/-- A live context that jumps to a descriptor stands there, live. -/
theorem Session.jump_ctx {x : Session} {c slot index : Nat} (hc : c < 4) (h : (x.ctx c).live = true)
    (hd : x.descAt? slot index ≠ none) :
    ((x.jump c slot index).ctx c).slot = BitVec.ofNat 8 slot ∧ ((x.jump c slot index).ctx c).index = BitVec.ofNat 17 index ∧
      ((x.jump c slot index).ctx c).live = true := by
  obtain ⟨d, hd⟩ := Option.ne_none_iff_exists'.mp hd
  rw [Session.jump_some c hd, Session.onCtx, Session.setCtx_same _ _ hc, if_pos h]
  refine ⟨rfl, rfl, ?_⟩
  cases hw : dWaitEn d <;> simp [Context.live]

section
variable {x : Session} {o : Op} {q : Sealing} (hc : o.ctx < 4) (h : (x.ctx o.ctx).live = true)
include hc h

/-- Where a voided attempt leaves a live context (R227). -/
theorem Session.replayed_ctx (spent : Bool) :
    let k := (x.replayed o q spent).ctx o.ctx
    (spent = true → k.state = .stopped ∧ k.status = stVoided) ∧
      (spent = false →
        (x.descAt? q.replaySlot q.replayIndex = none → k.state = .stopped ∧ k.status = stRefused) ∧
        (x.descAt? q.replaySlot q.replayIndex ≠ none → k.slot = BitVec.ofNat 8 q.replaySlot ∧
          k.index = BitVec.ofNat 17 q.replayIndex ∧ k.live = true)) := by
  unfold Session.replayed
  refine ⟨?_, ?_⟩
  · rintro rfl
    exact Session.stopCtxAt_ctx stVoided o.slot o.index hc h
  · rintro rfl
    rw [if_neg Bool.false_ne_true, if_neg (not_not_intro h)]
    refine ⟨fun hd => ?_, fun hd => ?_⟩
    · rw [hd]
      exact Session.stopCtxAt_ctx stRefused o.slot o.index hc h
    · rw [if_neg (by simpa using hd)]
      exact Session.jump_ctx hc h hd

end

theorem State.voidSlots_perf (s : State) (x : Session) : ∃ p, s.voidSlots x = { s with perf := p } :=
  State.foldl_perf (fun _ _ => ⟨_, rfl⟩) _ s

/-- What a completion as a voided seal makes of its session: the descriptor is gone and counted. -/
theorem State.ended_voided_session (s : State) {i : Nat} (p : Op) (hi : i < 4) :
    let y := (s.ended i p stVoided true).session i
    y = { s.session i with
      ops := (s.session i).ops.filter fun o => !(o.ctx = p.ctx ∧ o.seq = p.seq), piece := y.piece
      ctxs := vset (s.session i).ctxs p.ctx
        { (s.session i).ctx p.ctx with completed := ((s.session i).ctx p.ctx).completed + 1 }
      voteReasons := y.voteReasons } := by
  intro y
  have hy : y = vget Session.reset (s.ended i p stVoided true).sessions i := rfl
  rw [hy, State.ended, vget_vset_same _ _ _ hi]
  simp

theorem State.ended_voided_tallies (s : State) (i : Nat) (p : Op) :
    (s.ended i p stVoided true).tallies =
      let n := (s.session i).tallyBase + dSignalTally p.desc
      if dSignalEn p.desc then Table.set Tally.reset s.tallies n ((s.tally n).add s.time.now (dSignalInc p.desc))
      else s.tallies := by
  simp [State.ended]

/-! ### A decision record applied -/

section
variable {s : State} {i : Nat} {q : Sealing} {o : Op} {r : Bytes} (hi : i < 4) (hq : (s.session i).sealing = some q)
  (ho : (s.session i).op? q.ctx q.seq = some o)
include hi hq ho

theorem State.applyRecord_commits (h : u8 r 6 = 1) :
    s.applyRecord i r = (s.setSession i ((s.session i).commitStep (u64 r 16))).ended i o stOk true := by
  unfold State.applyRecord
  dsimp only
  rw [hq]
  dsimp only
  rw [ho]
  dsimp only
  rw [if_pos h, State.completeOp_ended _ _ _ _ hi]

theorem State.applyRecord_voids (h : u8 r 6 ≠ 1) :
    s.applyRecord i r = (((s.voidSlots (s.session i)).setSession i
      ((s.session i).voidStep (u64 r 16) (u16 r 10))).ended i o stVoided true).onSession i fun y =>
        y.replayed o q (decide ((s.session i).sealRec.attempt = BitVec.allOnes 16)) := by
  unfold State.applyRecord
  dsimp only
  rw [hq]
  dsimp only
  rw [ho]
  dsimp only
  rw [if_neg h, State.completeOp_ended _ _ _ _ hi]
  rfl

/-- Every field of a session whose attempt is void, but for its contexts and the reasons gathered next. -/
theorem State.applyRecord_voids_session (h : u8 r 6 ≠ 1) :
    let y := (s.applyRecord i r).session i
    y = { (s.session i).voidStep (u64 r 16) (u16 r 10) with
      ops := (s.session i).ops.filter fun p => !(p.ctx = o.ctx ∧ p.seq = o.seq), piece := y.piece, ctxs := y.ctxs
      voteReasons := y.voteReasons } := by
  intro y
  let u := (s.voidSlots (s.session i)).setSession i ((s.session i).voidStep (u64 r 16) (u16 r 10))
  have hu : u.session i = (s.session i).voidStep (u64 r 16) (u16 r 10) := State.setSession_same _ _ hi
  have hy : y = ((u.ended i o stVoided true).session i).replayed o q
      (decide ((s.session i).sealRec.attempt = BitVec.allOnes 16)) := by
    simp only [y, State.applyRecord_voids hi hq ho h, State.onSession_same _ _ hi]
    rfl
  obtain ⟨k, v, hkeeps⟩ := ((u.ended i o stVoided true).session i).replayed_keeps o q
    (decide ((s.session i).sealRec.attempt = BitVec.allOnes 16))
  have hended := u.ended_voided_session o hi
  dsimp only at hended
  rw [hu] at hended
  rw [hy, hkeeps, hended]
  rfl

/-- A void changes its session, counters and the signal tally of its STEP_SEAL alone (R227, R557). -/
theorem State.applyRecord_voids_frame (h : u8 r 6 ≠ 1) :
    let t := s.applyRecord i r
    let n := (s.session i).tallyBase + dSignalTally o.desc
    t = { s with sessions := t.sessions, perf := t.perf, tallies := t.tallies } ∧
      (∀ j < 4, j ≠ i → t.session j = s.session j) ∧
      t.tallies = if dSignalEn o.desc then
          Table.set Tally.reset s.tallies n ((s.tally n).add s.time.now (dSignalInc o.desc))
        else s.tallies := by
  obtain ⟨p, hp⟩ := s.voidSlots_perf (s.session i)
  rw [State.applyRecord_voids hi hq ho h, hp]
  refine ⟨rfl, fun j _ hj => ?_, ?_⟩
  · rw [State.onSession_other _ _ (Ne.symm hj), State.ended_other _ _ _ _ hj, State.setSession_other _ _ (Ne.symm hj)]
    rfl
  · rw [State.onSession_tallies, State.ended_voided_tallies, State.setSession_same _ _ hi]
    rfl

/-- Where a void leaves the context of its STEP_SEAL, when that was live (R227). -/
theorem State.applyRecord_voids_ctx (h : u8 r 6 ≠ 1) (hc : o.ctx < 4) (hl : ((s.session i).ctx o.ctx).live = true) :
    let x := s.session i
    let k := ((s.applyRecord i r).session i).ctx o.ctx
    (x.sealRec.attempt = BitVec.allOnes 16 → k.state = .stopped ∧ k.status = stVoided) ∧
      (x.sealRec.attempt ≠ BitVec.allOnes 16 →
        (x.descAt? q.replaySlot q.replayIndex = none → k.state = .stopped ∧ k.status = stRefused) ∧
        (x.descAt? q.replaySlot q.replayIndex ≠ none → k.slot = BitVec.ofNat 8 q.replaySlot ∧
          k.index = BitVec.ofNat 17 q.replayIndex ∧ k.live = true)) := by
  let u := (s.voidSlots (s.session i)).setSession i ((s.session i).voidStep (u64 r 16) (u16 r 10))
  have hu : u.session i = (s.session i).voidStep (u64 r 16) (u16 r 10) := State.setSession_same _ _ hi
  let y := (u.ended i o stVoided true).session i
  have hy : (y.ctx o.ctx).live = true := by
    have hended := u.ended_voided_session o hi
    dsimp only at hended
    simp only [y]
    rw [hended, Session.ctx, vget_vset_same _ _ _ hc, hu]
    exact hl
  have hd : y.descAt? q.replaySlot q.replayIndex = (s.session i).descAt? q.replaySlot q.replayIndex := by
    simp only [y]
    rw [State.ended_descAt? _ _ _ _ hi, hu]
    rfl
  have ht : (s.applyRecord i r).session i = y.replayed o q (decide ((s.session i).sealRec.attempt = BitVec.allOnes 16)) := by
    rw [State.applyRecord_voids hi hq ho h, State.onSession_same _ _ hi]
  obtain ⟨hspent, hleft⟩ := Session.replayed_ctx (q := q) hc hy (decide ((s.session i).sealRec.attempt = BitVec.allOnes 16))
  rw [hd] at hleft
  dsimp only
  rw [ht]
  exact ⟨fun hx => hspent (decide_eq_true hx), fun hx => hleft (decide_eq_false hx)⟩

/-- A record applied ends the seal, and the record of seals takes it (R226, R227). -/
theorem State.applyRecord_settles :
    let y := (s.applyRecord i r).session i
    (u8 r 6 = 1 → y.sealRec = (s.session i).sealRec.committed (u64 r 16)) ∧
      (u8 r 6 ≠ 1 → y.sealRec = (s.session i).sealRec.voided (u64 r 16) (u16 r 10)) ∧ y.sealing = none := by
  by_cases h : u8 r 6 = 1
  · rw [State.applyRecord_commits hi hq ho h, State.session, State.ended, vget_vset_same _ _ _ hi,
      State.setSession_same _ _ hi, Session.commitStep_eq]
    exact ⟨fun _ => rfl, fun hn => absurd h hn, rfl⟩
  · rw [State.applyRecord_voids_session hi hq ho h]
    exact ⟨fun hc => absurd hc h, fun _ => rfl, rfl⟩

end

/-! ### SEAL_FLIP, R226 to R229 -/

section
variable {s : State} {i : Nat} {q : Sealing} (hq : (s.session i).sealing = some q) (hv : q.voteSent = true)
  (hdue : (s.session i).consign = none ∨ q.launch.toNat + ns q.flipNs ≤ s.time.now.toNat)
  (hl : (s.session i).sealLost = false)
include hq hv hdue hl

/-- A member with a record applies it at the flip. -/
theorem exec_sealFlip_applies {r : Bytes} (hd : (s.session i).decision = some r) :
    exec (.sealFlip i) s = .next (s.applyRecord i r) := by
  rw [exec_sealFlip, execSealFlip]
  dsimp only
  rw [hq]
  dsimp only
  rw [if_neg, hd]
  rintro (h | ⟨h, hlt⟩ | h)
  · exact h hv
  · rcases hdue with hc | hdue
    · simp [hc] at h
    · exact absurd hdue (Nat.not_le.mpr hlt)
  · simp [hl] at h

/-- A member without a record is held for SEAL_LOST (R229). -/
theorem exec_sealFlip_holds (hd : (s.session i).decision = none) (hc : (s.session i).consign ≠ none) :
    exec (.sealFlip i) s = .next ((s.hold i rcSealLost).onSession i fun x =>
      { x with sealRec := { x.sealRec with lastDecision := 3 }, held := { x.held with epoch := x.epoch } }) := by
  rw [exec_sealFlip, execSealFlip]
  dsimp only
  rw [hq]
  dsimp only
  rw [if_neg, hd]
  · dsimp only
    rw [if_neg (by simpa using hc)]
  · rintro (h | ⟨-, hlt⟩ | h)
    · exact h hv
    · exact absurd (hdue.resolve_left hc) (Nat.not_le.mpr hlt)
    · simp [hl] at h

end

/-! ### The held state, R229 and R326 -/

theorem State.hold_session (s : State) {i : Nat} (own : Byte) (hi : i < 4) :
    (s.hold i own).session i = { s.session i with held := { (s.session i).held with
      held := true, ownReasons := (s.session i).held.ownReasons ||| own
      heldSince := if (s.session i).held.held then (s.session i).held.heldSince else s.time.now } } :=
  vget_vset_same _ _ _ hi

/-- No arm of a session that is held stands (R326). -/
theorem State.hold_disarms (s : State) (i : Nat) (own : Byte) :
    ∀ e ∈ (s.hold i own).tallies, ∀ a, e.2.arm = some a → a.2.2.1 ≠ i := by
  intro e he a ha hi
  obtain ⟨⟨k, t⟩, -, rfl⟩ := List.mem_map.mp (List.mem_of_mem_filter he)
  dsimp only at ha
  split at ha
  next hta =>
    split at ha
    · cases ha
    next hne =>
      rw [hta] at ha
      cases ha
      exact hne hi
  next hta =>
    rw [hta] at ha
    cases ha

/-- A member held for SEAL_LOST alone leaves the held state (R329). -/
theorem HeldRec.unseal_alone {h : HeldRec} (ho : h.ownReasons = 0x20) (hg : h.groupReasons = 0) : h.unseal.held = false := by
  rw [HeldRec.unseal, if_pos ⟨by rw [ho]; rfl, hg⟩]

/-- A member held for more stays held, for the rest (R329). -/
theorem HeldRec.unseal_more {h : HeldRec} (hm : h.ownReasons &&& ~~~0x20 ≠ 0 ∨ h.groupReasons ≠ 0) :
    h.unseal = { h with ownReasons := h.ownReasons &&& ~~~0x20 } := by
  refine if_neg ?_
  rintro ⟨ho, hg⟩
  exact hm.elim (· ho) (· hg)

/-- A record applied leaves the held state as it is. -/
theorem State.applyRecord_held (s : State) {i : Nat} (r : Bytes) (hi : i < 4) :
    ((s.applyRecord i r).session i).held = (s.session i).held := by
  cases hq : (s.session i).sealing with
  | none => simp [State.applyRecord, hq]
  | some q =>
    cases ho : (s.session i).op? q.ctx q.seq with
    | none => simp [State.applyRecord, hq, ho]
    | some o =>
      by_cases h : u8 r 6 = 1
      · rw [State.applyRecord_commits hi hq ho h, State.session, State.ended, vget_vset_same _ _ _ hi,
          State.setSession_same _ _ hi]
        rfl
      · rw [State.applyRecord_voids_session hi hq ho h]
        rfl

/-! ### SEAL_RESOLVE, R228 and R486 -/

theorem Session.sealLost_held {x : Session} (h : x.sealLost = true) : x.held.held = true := by
  rw [Session.sealLost, Bool.and_eq_true] at h
  exact h.1

/-- A session that is not one of the four is not held. -/
theorem State.sealLost_lt {s : State} {i : Nat} (h : (s.session i).sealLost = true) : i < 4 := by
  by_contra hi
  rw [State.session, vget_beyond _ _ (Nat.le_of_not_lt hi)] at h
  exact absurd h (by decide)

@[simp] theorem State.acceptKey_recordTag (s : State) (r : Req) (i : Nat) (b : Bytes) :
    (s.acceptKey r).recordTag i b = s.recordTag i b := by
  simp only [State.recordTag, State.slotKey, State.slotOf, State.acceptKey_slots]

@[simp] theorem State.acceptKey_recordFits (s : State) (r : Req) (i : Nat) (b : Bytes) :
    (s.acceptKey r).recordFits i b = s.recordFits i b := by
  obtain ⟨l, hl⟩ := s.acceptKey_session r i
  simp only [State.recordFits, State.acceptKey_recordTag, hl]

/-- A session that SEAL_RESOLVE brings its record, about to apply it. -/
def Session.resolved (x : Session) (b : Bytes) : Session := { x with decision := some b, held := x.held.unseal }

theorem exec_sealResolve_answered {s : State} {mb : Nat} {r : Req} (h : s.Accepts mb 0x0402 .sealed .resolve r)
    (hn : r.body.length = 48) (h1 : zeroRange r.body 7 1 = true) (h2 : zeroRange r.body 12 4 = true)
    (h3 : zeroRange r.body 24 8 = true) (hl : ((s.acceptKey r).session r.session).sealLost = true)
    (ht : slice r.body 32 16 = s.recordTag r.session (slice r.body 0 32)) (hf : s.recordFits r.session r.body = true) :
    exec (.sealResolve mb) s = answered (((s.acceptKey r).setSession r.session
      (((s.acceptKey r).session r.session).resolved r.body)).applyRecord r.session r.body) r [] := by
  rw [exec_sealResolve, execSealResolve]
  refine State.serve_answered h rfl ?_
  dsimp only
  rw [if_neg (by simp [bodyForm, hn, h1, h2, h3, hl]), if_neg (by simp [ht]), if_neg (by simp [hf])]
  rfl

/-- Settles O48: the commit in one record, the void field by field, and the member held until a record comes. -/
theorem sealsApply : Obligations.SealsApply := by
  unfold Obligations.SealsApply
  refine ⟨?applies, ?holds, ?resolves⟩
  case applies =>
    intro s i q o r hi hq ho hv hd hdue hl x
    have hexec := exec_sealFlip_applies hq hv hdue hl hd
    refine ⟨fun hr => ?_, fun hr => ?_⟩
    · refine ⟨x.commitStep (u64 r 16), ?_, x.commitStep_eq _, x.mem_commitStep_votes _, fun k g hg hp hne =>
        x.mem_commitStep_pages _ hg hp hne⟩
      rw [hexec, State.applyRecord_commits hi hq ho hr]
    · have hx := State.applyRecord_voids_session hi hq ho hr
      obtain ⟨hframe, hothers, htallies⟩ := State.applyRecord_voids_frame hi hq ho hr
      refine ⟨s.applyRecord i r, hexec, hframe, hothers, ?_, ?_, ?_, ?_, ?_, htallies,
        State.applyRecord_voids_ctx hi hq ho hr⟩
      · rw [hx]; rfl
      · rw [hx]
        exact fun e => mapPages_not_pending
      · rw [hx]; rfl
      · rw [hx]; rfl
      · rw [hx]
        intro k hk
        have hkept := (List.mem_filter.mp hk).2
        exact fun hsame => by simp [hsame] at hkept
  case holds =>
    intro s i q hi hq hv hd hc hdue hl
    let t := (s.hold i rcSealLost).onSession i fun x =>
      { x with sealRec := { x.sealRec with lastDecision := 3 }, held := { x.held with epoch := x.epoch } }
    have ht : t.session i = _ := State.onSession_same _ _ hi
    rw [s.hold_session rcSealLost hi] at ht
    refine ⟨t, exec_sealFlip_holds hq hv (.inr hdue) hl hd hc, rfl, ?_⟩
    rw [ht]
    exact ⟨rfl, rfl, rfl, hq, s.hold_disarms i rcSealLost⟩
  case resolves =>
    intro s mb r u x h hn h1 h2 h3 hl ht hf
    have hi : r.session < 4 := State.sealLost_lt hl
    let v := u.setSession r.session (x.resolved r.body)
    have hv : v.session r.session = x.resolved r.body := State.setSession_same u _ hi
    have hheld : ((v.applyRecord r.session r.body).session r.session).held = x.held.unseal := by
      rw [State.applyRecord_held v r.body hi, hv]; rfl
    refine ⟨v.applyRecord r.session r.body, exec_sealResolve_answered h hn h1 h2 h3 hl ht hf, fun ho hg => ?_, fun hm => ?_,
      fun q o hq ho => ?_⟩
    · rw [hheld, HeldRec.unseal_alone ho hg]
    · rw [hheld, HeldRec.unseal_more hm]
      exact ⟨Session.sealLost_held hl, rfl⟩
    · obtain ⟨hcommits, hvoids, hsealing⟩ := State.applyRecord_settles (s := v) (q := q) (o := o) (r := r.body) hi
        (by rw [hv]; exact hq) (by rw [hv]; exact ho)
      refine ⟨fun hr => ?_, fun hr => ?_, hsealing⟩
      · rw [hcommits hr]
        exact ⟨rfl, rfl⟩
      · rw [hvoids hr]
        rfl

end Sys2Proof.Machine
end

section
/-! PROOFS. The Reckoner's update and privacy noise: what a RECKON's reads and writes leave, the pages that it marks, what
a DP_NOISE leaves, and the bound on a sample. -/

namespace Sys2Proof.Machine

theorem exec_reckon (o : OpRef) (s : State) : exec (.reckon o) s = execReckon o s := rfl

theorem exec_dpNoise (o : OpRef) (s : State) : exec (.dpNoise o) s = execDpNoise o s := rfl

/-! ### Tables written with a value that is listed -/

/-- A value that is not the default is read back from any table, in canonical form or not, and no other key moves. -/
theorem Table.get_set_listed {α : Type} [DecidableEq α] {d x : α} (hx : x ≠ d) (t : Table α) (k j : Nat) :
    Table.get d (Table.set d t k x) j = if j = k then x else Table.get d t j := by
  have hflip : ∀ y : α, (if k = j then x else y) = if j = k then x else y := fun y => by simp only [eq_comm]
  induction t with
  | nil => rw [Table.set, if_neg hx]; exact hflip d
  | cons e t ih =>
    obtain ⟨a, v⟩ := e
    simp only [Table.set, if_neg hx]
    split
    · exact hflip _
    · split
      next hka =>
        subst hka
        by_cases hj : k = j
        · simp [Table.get, hj]
        · simp [Table.get, hj, Ne.symm hj]
      next hka =>
        simp only [Table.get, ih]
        by_cases hj : a = j
        · subst hj; simp [Ne.symm hka]
        · simp [hj]

/-! ### Pages marked pending -/

/-- A session one of whose pages has been written in the attempt, from its record before (R215). -/
def Session.putPage (x : Session) (page : Nat) (r : Page) : Session :=
  { x with pages := Table.set ⟨false, false, 0⟩ x.pages page { r with pending := true, step := x.sealRec.step } }

@[inherit_doc Session.putPage] def Session.markPage (x : Session) (page : Nat) : Session :=
  x.putPage page (x.pageRec page)

theorem Session.pageRec_markPage (x : Session) (page k : Nat) : (x.markPage page).pageRec k =
    if k = page then { x.pageRec page with pending := true, step := x.sealRec.step } else x.pageRec k :=
  Table.get_set_listed (by simp) _ _ _

theorem Session.markPages_eq (l : List Nat) (x : Session) :
    ∃ t, l.foldl Session.markPage x = { x with pages := t } := by
  induction l generalizing x with
  | nil => exact ⟨x.pages, rfl⟩
  | cons p l ih =>
    obtain ⟨t, ht⟩ := ih (x.markPage p)
    exact ⟨t, ht⟩

/-- A page marked among others is pending in the step in progress. -/
theorem Session.pageRec_markPages {k : Nat} {l : List Nat} (x : Session)
    (h : k ∈ l ∨ (x.pageRec k).pending = true ∧ (x.pageRec k).step = x.sealRec.step) :
    ((l.foldl Session.markPage x).pageRec k).pending = true ∧
      ((l.foldl Session.markPage x).pageRec k).step = x.sealRec.step := by
  induction l generalizing x with
  | nil => simpa using h
  | cons p l ih =>
    refine ih (x.markPage p) ?_
    rw [Session.pageRec_markPage]
    by_cases hk : k = p
    · rw [if_pos hk]; exact .inr ⟨rfl, rfl⟩
    · rw [if_neg hk]
      refine h.imp (fun hm => ?_) id
      exact (List.mem_cons.mp hm).resolve_left hk

/-! ### The accesses of a RECKON -/

section
variable (j : Job)

/-- Accesses that resolve no page leave a job whose resolution is put back. -/
theorem Job.kept_resolving {j k : Job} {c : Table Bool} (h : k.kept = ({ j with copies := c } : Job).kept) :
    ({ k with copies := j.copies } : Job).kept = j.kept :=
  congrArg (fun q => (q.1, q.2.1, q.2.2.1, j.copies)) h

@[simp] theorem Job.kept_readRaw (a n : Nat) : (j.readRaw a n).1.kept = j.kept :=
  Job.kept_resolving (Job.kept_readHbm { j with copies := [] } a n)

@[simp] theorem Job.kept_gradRow (d : Bytes) (i : Nat) : (j.gradRow d i).1.kept = j.kept := by
  unfold Job.gradRow
  dsimp only
  split_ifs <;> simp

@[simp] theorem Job.kept_rkRead (d : Bytes) : (j.rkRead d).1.kept = j.kept := by
  unfold Job.rkRead
  dsimp only
  split_ifs <;> simp

/-- The lines of a page that a RECKON writes, those it carries over from the other copy with them (R215). -/
def Job.writeLines (j : Job) (rs : List (Nat × Bytes)) (page : Nat) : Job :=
  let x := j.st.session j.sess
  let r := x.pageRec page
  let base := x.paramBase + 4096 * page
  let cur := if r.current then base + x.paramSize else base
  let oth := if r.current then base else base + x.paramSize
  let lines := (List.range 64).map fun n => (List.range 64).map fun k => newByte rs (base + 64 * n + k)
  (lines.zip (List.range 64)).foldl (fun j ln =>
    if ln.1.all Option.isNone && r.pending then j
    else if ln.1.all Option.isSome then j.writeHbm (oth + 64 * ln.2) (ln.1.map fun b => b.getD 0)
    else
      let (j, old) := j.readRaw ((if r.pending then oth else cur) + 64 * ln.2) 64
      j.writeHbm (oth + 64 * ln.2) (List.zipWith (fun (b : Option Byte) o => b.getD o) ln.1 old)) j

@[simp] theorem Job.kept_writeLines (rs : List (Nat × Bytes)) (page : Nat) : (j.writeLines rs page).kept = j.kept := by
  unfold Job.writeLines
  dsimp only
  refine Job.kept_foldl (fun k ln => ?_) _ _
  split_ifs <;> simp

end

theorem Job.kept_sess {j k : Job} (h : k.kept = j.kept) : k.sess = j.sess := congrArg (fun q => q.2.1) h

/-- What a page's writes leave: work of the session, which has marked the page. -/
theorem Job.writePage_marks {j : Job} (rs : List (Nat × Bytes)) (page : Nat) (hi : j.sess < 4) :
    (j.writePage rs page).sess = j.sess ∧ j.st.OwnWork (j.writePage rs page).st j.sess ∧
      ((j.writePage rs page).st.session j.sess).core = (j.st.session j.sess).core.markPage page := by
  have hkept := j.kept_writeLines rs page
  have hsess : (j.writeLines rs page).sess = j.sess := Job.kept_sess hkept
  have hst := Job.kept_st hkept
  have hcore := State.core_session (State.core_of_kept hi hst)
  have hpage : j.writePage rs page = { j.writeLines rs page with
      st := (j.writeLines rs page).st.onSession (j.writeLines rs page).sess fun x =>
        x.putPage page ((j.st.session j.sess).pageRec page) } := rfl
  rw [hpage]
  dsimp only
  rw [hsess]
  refine ⟨rfl, (State.ownWork_of_kept hi hst).trans (.onSession _ _ _ rfl rfl rfl), ?_⟩
  rw [State.onSession_same _ _ hi, ← hcore]
  have hrec : (j.st.session j.sess).pageRec page = ((j.writeLines rs page).st.session j.sess).pageRec page := by
    have hpages := congrArg Session.pages hcore
    exact congrArg (fun t => Table.get ⟨false, false, 0⟩ t page) hpages.symm
  rw [hrec]
  rfl

/-- The pages that the ranges of an operation touch (R215). -/
def Session.pagesOf (x : Session) (rs : List (Nat × Bytes)) : List Nat :=
  (List.range (x.paramSize / 4096)).filter fun p =>
    rs.any fun r => decide (r.1 < x.paramBase + 4096 * (p + 1) ∧ x.paramBase + 4096 * p < r.1 + r.2.length)

theorem Session.mem_pagesOf {x : Session} {rs : List (Nat × Bytes)} {k : Nat} : k ∈ x.pagesOf rs ↔
    k < x.paramSize / 4096 ∧
      ∃ r ∈ rs, r.1 < x.paramBase + 4096 * (k + 1) ∧ x.paramBase + 4096 * k < r.1 + r.2.length := by
  simp [Session.pagesOf]

theorem Session.pagesOf_core (x : Session) (rs : List (Nat × Bytes)) : x.core.pagesOf rs = x.pagesOf rs := rfl

theorem Job.writeState_marks {j : Job} (rs : List (Nat × Bytes)) (hi : j.sess < 4) :
    (j.writeState rs).sess = j.sess ∧ j.st.OwnWork (j.writeState rs).st j.sess ∧
      ((j.writeState rs).st.session j.sess).core =
        ((j.st.session j.sess).pagesOf rs).foldl Session.markPage (j.st.session j.sess).core := by
  have hall : ∀ (l : List Nat) (j : Job), j.sess < 4 →
      (l.foldl (fun j p => j.writePage rs p) j).sess = j.sess ∧
        j.st.OwnWork (l.foldl (fun j p => j.writePage rs p) j).st j.sess ∧
        ((l.foldl (fun j p => j.writePage rs p) j).st.session j.sess).core =
          l.foldl Session.markPage (j.st.session j.sess).core := by
    intro l
    induction l with
    | nil => exact fun j _ => ⟨rfl, .refl _ _, rfl⟩
    | cons p l ih =>
      intro j hi
      obtain ⟨hsess, hwork, hcore⟩ := Job.writePage_marks rs p hi
      obtain ⟨hsess', hwork', hcore'⟩ := ih (j.writePage rs p) (hsess ▸ hi)
      rw [hsess] at hsess' hwork' hcore'
      exact ⟨hsess', hwork.trans hwork', by rw [List.foldl_cons, List.foldl_cons, ← hcore]; exact hcore'⟩
  exact hall _ j hi

end Sys2Proof.Machine
end

section
/-! PROOFS. O36. What a RECKON and a DP_NOISE leave, from their jobs. -/

namespace Sys2Proof.Machine

/-! ### What a RECKON leaves -/

/-- A session whose counts of elements have taken an update in (R211). -/
def Session.reckoned (x : Session) (us : List (List Upd)) : Session :=
  let nans := (us.flatten.filter Upd.nan).length
  { x with
    upd := { x.upd with updElem := satAdd x.upd.updElem us.flatten.length, updNan := satAdd x.upd.updNan nans }
    updNanInAttempt := x.updNanInAttempt || decide (nans ≠ 0) }

/-- The job of a RECKON after its reads, and what they give. -/
def State.rkRead (s : State) (i : Nat) (p : Op) : Job × RkIn :=
  ({ s.job i p (rkParty p.desc) with copies := (s.session i).resolution } : Job).rkRead p.desc

/-- The events of an update of `n` rows, counted on the die of each (R554). -/
def State.countRows (s : State) (i : Nat) (x : Session) (d : Bytes) (n : Nat) : State :=
  (List.range x.dies).foldl (fun s k =>
    let rows := ((List.range n).filter fun r => r / 512 % x.dies = k).length
    s.perfEvent i (x.top + k) 0x040 ((rows * rkCols d + 31) / 32)) s

section
variable (s : State) {i : Nat} (p : Op)

theorem State.countRows_ownWork (x : Session) (d : Bytes) (n : Nat) : s.OwnWork (s.countRows i x d n) i :=
  .foldl _ (fun t _ => t.perfEvent_ownWork i _ _ _) _ s

theorem State.core_countRows (x : Session) (d : Bytes) (n : Nat) : (s.countRows i x d n).core i = s.core i :=
  State.core_foldl (fun t _ => t.core_perfEvent i _ _ _) _ s

theorem State.reckonJob_stopped (h : (s.rkRead i p).1.live = false) : s.reckonJob i p = (s.rkRead i p).1 := by
  have hjob : s.reckonJob i p = if (s.rkRead i p).1.live then _ else (s.rkRead i p).1 := rfl
  rw [hjob, h, if_neg Bool.false_ne_true]

/-- A live RECKON writes its ranges, counts its events and its elements. -/
theorem State.reckonJob_live (h : (s.rkRead i p).1.live = true) :
    let us := rkUpdate p.desc (s.rkRead i p).2
    let j := (s.rkRead i p).1
    let rc := rkRanges (j.st.session i) p us
    (s.reckonJob i p).st =
      (((j.count 0xFFFF rc.2).writeState rc.1).st.countRows i (j.st.session i) p.desc us.length).onSession i
        fun x => x.reckoned us := by
  intro us j rc
  have hjob : s.reckonJob i p = if (s.rkRead i p).1.live then _ else (s.rkRead i p).1 := rfl
  rw [hjob, if_pos h]
  rfl

theorem State.rkRead_kept : (s.rkRead i p).1.st.kept i = s.kept i :=
  Job.kept_st (j := { s.job i p (rkParty p.desc) with copies := (s.session i).resolution }) (Job.kept_rkRead _ _)

theorem State.rkRead_sess : (s.rkRead i p).1.sess = i :=
  Job.kept_sess (j := { s.job i p (rkParty p.desc) with copies := (s.session i).resolution }) (Job.kept_rkRead _ _)

/-- R211, R214, R215: a RECKON is work of its session; where it is live, it has marked the pages that its ranges touch and
counted its elements. -/
theorem State.reckonJob_work (hi : i < 4) :
    let us := rkUpdate p.desc (s.rkRead i p).2
    s.OwnWork (s.reckonJob i p).st i ∧
      ((s.reckonJob i p).st.session i).core =
        if (s.rkRead i p).1.live then
          (((s.session i).pagesOf (rkRanges (s.session i) p us).1).foldl Session.markPage (s.session i).core).reckoned us
        else (s.session i).core := by
  intro us
  have hread := s.rkRead_kept (i := i) p
  have hsess := s.rkRead_sess (i := i) p
  have hcore := State.core_session (State.core_of_kept hi hread)
  cases hl : (s.rkRead i p).1.live with
  | false =>
    rw [s.reckonJob_stopped p hl]
    exact ⟨State.ownWork_of_kept hi hread, hcore⟩
  | true =>
    have hst := s.reckonJob_live p hl
    generalize (s.rkRead i p).1 = j at hread hsess hcore hst
    subst hsess
    have hranges : rkRanges (j.st.session j.sess) p us = rkRanges (s.session j.sess) p us := by
      have hseed : (j.st.session j.sess).core.seed = (s.session j.sess).core.seed := by rw [hcore]
      have hx : ∀ x y : Session, x.core.seed = y.core.seed → rkRanges x p us = rkRanges y p us := by
        intro x y hxy
        have hxy : x.seed = y.seed := hxy
        simp only [rkRanges, hxy]
      exact hx _ _ hseed
    rw [hst, hranges]
    generalize rkRanges (s.session j.sess) p us = rc
    have hcount := Job.kept_st (j.kept_count 0xFFFF rc.2)
    have hcounted := State.core_session (State.core_of_kept hi (hcount.trans hread))
    obtain ⟨hwsess, hwork, hmarks⟩ := Job.writeState_marks (j := j.count 0xFFFF rc.2) rc.1 hi
    have hpages : ((j.count 0xFFFF rc.2).st.session j.sess).pagesOf rc.1 = (s.session j.sess).pagesOf rc.1 := by
      rw [← Session.pagesOf_core, hcounted, Session.pagesOf_core]
    refine ⟨((State.ownWork_of_kept hi (hcount.trans hread)).trans hwork).trans
      ((State.countRows_ownWork _ _ _ _).trans (.onSession _ _ _ rfl rfl rfl)), ?_⟩
    have hevents := State.core_session (((j.count 0xFFFF rc.2).writeState rc.1).st.core_countRows (i := j.sess)
      (j.st.session j.sess) p.desc us.length)
    rw [State.onSession_same _ _ hi, if_pos rfl, ← hpages, ← hcounted]
    exact congrArg (fun x : Session => x.reckoned us) (hevents.trans hmarks)

end

/-! ### The end of a descriptor's work -/

section
variable {s u : State} {o : OpRef} {p : Op} {c : Nat}

/-- Work of the session that leaves its descriptors ends with the launched one finished. -/
theorem State.OwnWork.finished (h : s.launched o c = some p) (hw : s.OwnWork u o.session)
    (hops : (u.session o.session).ops = (s.session o.session).ops) (st : Status) :
    s.OwnWork (u.finishOp o.session p st) o.session ∧ (u.finishOp o.session p st).Ends o p st := by
  obtain ⟨hop, -⟩ := State.launched_some h
  obtain ⟨hc, hq, -⟩ := Session.op?_some hop
  have hop' : u.op? o = some p := by rw [State.op?, Session.op?, hops]; exact hop
  exact ⟨hw.trans (.onSession _ _ _ rfl rfl rfl), State.finishOp_ends st hop' hc hq⟩

theorem exec_reckon_turn (h : s.launched o opReckon = some p) (ht : (s.session o.session).reckonTurn p = true) :
    exec (.reckon o) s = .next ((s.reckonJob o.session p).st.finishOp o.session p (s.reckonJob o.session p).status) := by
  rw [exec_reckon, execReckon, h]
  simp only [ht, if_true]

/-- A DP_NOISE whose samples are there runs on them. -/
theorem exec_dpNoise_runs (h : s.launched o opNoise = some p) (hk : (s.session o.session).struck (dpParty p.desc) = false)
    (hr : (s.session o.session).noiseEn = true → (s.session o.session).outputs.length < 1024)
    (hl : (s.session o.session).mustDraw p.desc = true → 16 ≤ s.laneCount) {l : List W32}
    (hs : s.noiseSamples o.session p.desc = (u, .ok l)) :
    exec (.dpNoise o) s =
      .next ((u.noiseJob o.session p l).st.finishOp o.session p (u.noiseJob o.session p l).status) := by
  rw [exec_dpNoise, execDpNoise, h]
  simp only [hk, Bool.false_eq_true, if_false]
  rw [if_neg (fun hn => Nat.not_le.mpr (hr hn.1) hn.2), if_neg (fun hn => Nat.not_lt.mpr (hl hn.1) hn.2), hs]

/-- A DP_NOISE whose samples cannot be had stops its context. -/
theorem exec_dpNoise_stops (h : s.launched o opNoise = some p) (hk : (s.session o.session).struck (dpParty p.desc) = false)
    (hr : (s.session o.session).noiseEn = true → (s.session o.session).outputs.length < 1024)
    (hl : (s.session o.session).mustDraw p.desc = true → 16 ≤ s.laneCount) {st : Status}
    (hs : s.noiseSamples o.session p.desc = (u, .error st)) :
    exec (.dpNoise o) s = .next (u.stopOp o.session p st) := by
  rw [exec_dpNoise, execDpNoise, h]
  simp only [hk, Bool.false_eq_true, if_false]
  rw [if_neg (fun hn => Nat.not_le.mpr (hr hn.1) hn.2), if_neg (fun hn => Nat.not_lt.mpr (hl hn.1) hn.2), hs]

/-- A DP_NOISE that has to draw with fewer than sixteen lanes in service is refused (R235). -/
theorem exec_dpNoise_refused (h : s.launched o opNoise = some p)
    (hk : (s.session o.session).struck (dpParty p.desc) = false)
    (hr : (s.session o.session).noiseEn = true → (s.session o.session).outputs.length < 1024)
    (hd : (s.session o.session).mustDraw p.desc = true) (hl : s.laneCount < 16) :
    exec (.dpNoise o) s =
      .next ((s.onSession o.session fun x => x.reason rsNoise).finishOp o.session p stRefused) := by
  rw [exec_dpNoise, execDpNoise, h]
  simp only [hk, Bool.false_eq_true, if_false]
  rw [if_neg (fun hn => Nat.not_le.mpr (hr hn.1) hn.2), if_pos ⟨hd, hl⟩]

end

/-! ### Samples: none, held ones, or fresh ones (R235, R236) -/

section
variable {s : State} {i : Nat} {d : Bytes}

theorem Session.mustDraw_iff {x : Session} : x.mustDraw d = true ↔ dpSigma d ≠ 0 ∧ x.sealRec.attempt = 0 := by
  simp [Session.mustDraw]

theorem State.noiseSamples_none (h : dpSigma d = 0) : s.noiseSamples i d = (s, .ok []) := if_pos h

theorem State.noiseSamples_held {r : NoiseRec} (h : dpSigma d ≠ 0) (ha : (s.session i).sealRec.attempt ≠ 0)
    (hr : (s.session i).noiseRec? (dpParty d) (dTensor d) = some r) (hn : r.samples.length = dpRows d * dpCols d) :
    s.noiseSamples i d = (s, .ok r.samples) := by
  simp only [State.noiseSamples, if_neg h, if_pos ha, hr, hn, if_true]

/-- The state after the drawing of the samples of a DP_NOISE. -/
def State.drawn (s : State) (i : Nat) (d : Bytes) : State :=
  let x := s.session i
  let n := dpRows d * dpCols d
  { s with draws := s.draws + 2 * n }.setSession i { x with
    noise := x.noise ++ [(⟨dpParty d, x.sealRec.step, dTensor d, drawSamples s.draws n⟩ : NoiseRec)]
    upd := { x.upd with noiseElem := satAdd x.upd.noiseElem n } }

theorem State.noiseSamples_fresh (h : (s.session i).mustDraw d = true)
    (hr : (s.session i).noiseUsed (dpParty d) + noiseBytes (dpRows d * dpCols d) ≤ (s.session i).cfgField 44 4 * 2 ^ 20) :
    s.noiseSamples i d = (s.drawn i d, .ok (drawSamples s.draws (dpRows d * dpCols d))) := by
  obtain ⟨hs, ha⟩ := Session.mustDraw_iff.mp h
  simp only [State.noiseSamples, if_neg hs, if_neg (not_not.mpr ha), if_neg (Nat.not_lt.mpr hr)]
  rfl

theorem State.noiseSamples_full (h : (s.session i).mustDraw d = true)
    (hr : (s.session i).cfgField 44 4 * 2 ^ 20 < (s.session i).noiseUsed (dpParty d) + noiseBytes (dpRows d * dpCols d)) :
    s.noiseSamples i d = (s, .error stNoResource) := by
  obtain ⟨hs, ha⟩ := Session.mustDraw_iff.mp h
  simp only [State.noiseSamples, if_neg hs, if_neg (not_not.mpr ha)]
  exact if_pos hr

theorem State.drawn_session (s : State) {i : Nat} (d : Bytes) (hi : i < 4) :
    s.OwnWork (s.drawn i d) i ∧ ((s.drawn i d).session i).ops = (s.session i).ops := by
  refine ⟨.trans (t := { s with draws := s.draws + 2 * (dpRows d * dpCols d) }) ⟨rfl, fun _ _ _ => rfl, rfl, rfl, rfl⟩
    (.onSession _ i (fun x => { x with
      noise := x.noise ++ [(⟨dpParty d, x.sealRec.step, dTensor d, drawSamples s.draws (dpRows d * dpCols d)⟩ : NoiseRec)]
      upd := { x.upd with noiseElem := satAdd x.upd.noiseElem (dpRows d * dpCols d) } }) rfl rfl rfl), ?_⟩
  rw [State.drawn, State.setSession_same _ _ hi]

end

/-! ### What a DP_NOISE leaves -/

@[simp] theorem Job.kept_dpRead (j : Job) (d : Bytes) : (j.dpRead d).1.kept = j.kept := by
  unfold Job.dpRead
  dsimp only
  rw [Job.kept_foldl_fst]
  intro a r
  dsimp only
  split_ifs <;> simp

/-- The rows of a DP_NOISE, clipped, with their noise (R233). -/
def noisyRows (d : Bytes) (g : List (List Acc)) (samples : List W32) : List (Nat × List Acc) :=
  let clip := Acc.const (dpClip d)
  let c := clipFactor clip g
  let k := Acc.mul (Acc.const (dpSigma d)) clip
  (g.zip (List.range g.length)).map fun rk =>
    (rk.2, (rk.1.zip (List.range rk.1.length)).map fun gc =>
      noisyElem (dpSigma d) k c gc.1 (samples.getD (rk.2 * dpCols d + gc.2) 0))

section
variable (s : State) {i : Nat} (p : Op) (l : List W32)

/-- A DP_NOISE's job: reads and conversions on the boards it uses, then the output recorded and the noise noted. -/
theorem State.noiseJob_eq : ∃ (j : Job) (out : Session → List NoiseOut),
    j.st.kept i = (s.useBoards i (dpParty p.desc)).kept i ∧
      (s.noiseJob i p l).st = j.st.onSession i fun x =>
        { x with outputs := out x, noiseRan := x.noiseRan || decide (dpSigma p.desc ≠ 0) } := by
  let r := ((s.useBoards i (dpParty p.desc)).job i p (dpParty p.desc)).dpRead p.desc
  let j := r.1.convertRows p (dpOut p.desc) 0 (noisyRows p.desc r.2 l)
  refine ⟨j, fun x => if x.noiseEn ∧ j.status = stOk then x.outputs ++ [x.noiseOut p.desc] else x.outputs, ?_, rfl⟩
  refine Job.kept_st (j := (s.useBoards i (dpParty p.desc)).job i p (dpParty p.desc)) ?_
  rw [Job.kept_convertRows, Job.kept_dpRead]

theorem State.noiseJob_work (hi : i < 4) : s.OwnWork (s.noiseJob i p l).st i ∧
    ((s.noiseJob i p l).st.session i).ops = (s.session i).ops ∧
    (dpSigma p.desc ≠ 0 → ((s.noiseJob i p l).st.session i).noiseRan = true) := by
  obtain ⟨j, out, hkept, hst⟩ := s.noiseJob_eq (i := i) p l
  obtain ⟨r, hboards, -⟩ := s.useBoards_session (dpParty p.desc) hi
  have hops : (j.st.session i).ops = (s.session i).ops := by
    rw [State.core_ops (State.core_of_kept hi hkept), hboards]
  rw [hst]
  refine ⟨(s.useBoards_ownWork i _).trans ((State.ownWork_of_kept hi hkept).trans (.onSession _ _ _ rfl rfl rfl)), ?_, ?_⟩
  · rw [State.onSession_same _ _ hi]
    exact hops
  · intro hs
    rw [State.onSession_same _ _ hi]
    exact Bool.or_eq_true_iff.mpr (.inr (decide_eq_true hs))

end

/-! ### The bound on a sample, R234 -/

/-- Whatever the formula gives, the clamped sample's magnitude is at most that of √(48·ln 2) in FP32. -/
theorem clampSample_bound (x : W32) : (clampSample x &&& 0x7FFFFFFF).toNat ≤ 0x40B89456 := by
  unfold clampSample
  split
  next h => exact h
  next =>
    have hsign : (0x80000000 : W32) &&& 0x7FFFFFFF = 0 := by decide
    have hmag : (0x40B89456 : W32) &&& 0x7FFFFFFF = 0x40B89456 := by decide
    have hclamped : (x &&& 0x80000000 ||| 0x40B89456) &&& 0x7FFFFFFF = (0x40B89456 : W32) := by
      rw [BitVec.and_or_distrib_right, BitVec.and_assoc, hsign, hmag]
      simp
    rw [hclamped]
    decide

theorem drawSamples_bounded (k n : Nat) : (drawSamples k n).length = n ∧
    ∀ x ∈ drawSamples k n, (x &&& 0x7FFFFFFF).toNat ≤ 0x40B89456 := by
  refine ⟨by simp [drawSamples], fun x hx => ?_⟩
  obtain ⟨m, -, rfl⟩ := List.mem_map.mp hx
  exact clampSample_bound _

/-! ### The statement -/

/-- R208 to R220: a RECKON in its turn. -/
theorem exec_reckon_updates {s : State} {o : OpRef} {p : Op} (hi : o.session < 4) (h : s.launched o opReckon = some p)
    (ht : (s.session o.session).reckonTurn p = true) :
    let x := s.session o.session
    let j := s.reckonJob o.session p
    let r := s.rkRead o.session p
    ∃ t, exec (.reckon o) s = .next t ∧ s.OwnWork t o.session ∧ t.Ends o p j.status ∧
      t = j.st.finishOp o.session p j.status ∧ (t.session o.session).sealRec = x.sealRec ∧
      (r.1.live = true →
        let us := rkUpdate p.desc r.2
        let nans := (us.flatten.filter Upd.nan).length
        (t.session o.session).upd.updElem = satAdd x.upd.updElem us.flatten.length ∧
        (t.session o.session).upd.updNan = satAdd x.upd.updNan nans ∧
        (t.session o.session).updNanInAttempt = (x.updNanInAttempt || decide (nans ≠ 0)) ∧
        ∀ k < x.paramSize / 4096, ∀ q ∈ (rkRanges x p us).1,
          q.1 < x.paramBase + 4096 * (k + 1) → x.paramBase + 4096 * k < q.1 + q.2.length →
            ((t.session o.session).pageRec k).pending = true ∧
              ((t.session o.session).pageRec k).step = x.sealRec.step) := by
  intro x j r
  obtain ⟨hwork, hcore⟩ := s.reckonJob_work p hi
  have hpages := fun us => Session.markPages_eq (x.pagesOf (rkRanges x p us).1) x.core
  obtain ⟨hops, hseal⟩ : (j.st.session o.session).core.ops = x.ops ∧ (j.st.session o.session).core.sealRec = x.sealRec := by
    rw [hcore]
    split
    · obtain ⟨t, ht⟩ := hpages (rkUpdate p.desc r.2)
      rw [ht]
      exact ⟨rfl, rfl⟩
    · exact ⟨rfl, rfl⟩
  obtain ⟨hown, hends⟩ := hwork.finished h hops j.status
  have hsession : (j.st.finishOp o.session p j.status).session o.session =
      (j.st.session o.session).setOp { p with stage := .finished, status := j.status } := State.onSession_same _ _ hi
  refine ⟨_, exec_reckon_turn h ht, hown, hends, rfl, ?_, fun hlive => ?_⟩
  · rw [hsession]
    exact hseal
  · intro us nans
    have hlive : (s.rkRead o.session p).1.live = true := hlive
    rw [hlive, if_pos rfl] at hcore
    obtain ⟨t, htab⟩ := hpages us
    rw [hsession]
    have hupd : (j.st.session o.session).core.upd =
        ((List.foldl Session.markPage x.core (x.pagesOf (rkRanges x p us).1)).reckoned us).upd := by rw [hcore]
    have hnan : (j.st.session o.session).core.updNanInAttempt =
        ((List.foldl Session.markPage x.core (x.pagesOf (rkRanges x p us).1)).reckoned us).updNanInAttempt := by rw [hcore]
    rw [htab] at hupd hnan
    refine ⟨congrArg UpdRec.updElem hupd, congrArg UpdRec.updNan hupd, hnan, fun k hk q hq hlo hhi => ?_⟩
    have hrec : (j.st.session o.session).core.pageRec k =
        ((List.foldl Session.markPage x.core (x.pagesOf (rkRanges x p us).1)).reckoned us).pageRec k := by rw [hcore]
    have hmem : k ∈ x.pagesOf (rkRanges x p us).1 := Session.mem_pagesOf.mpr ⟨hk, q, hq, hlo, hhi⟩
    obtain ⟨hpend, hstep⟩ := Session.pageRec_markPages x.core (.inl hmem)
    exact ⟨(congrArg Page.pending hrec).trans hpend, (congrArg Page.step hrec).trans hstep⟩

/-- R233 to R237: a DP_NOISE whose samples are there, from the state that they leave. -/
theorem exec_dpNoise_adds {s u : State} {o : OpRef} {p : Op} {l : List W32} (hi : o.session < 4)
    (h : s.launched o opNoise = some p) (hk : (s.session o.session).struck (dpParty p.desc) = false)
    (hr : (s.session o.session).noiseEn = true → (s.session o.session).outputs.length < 1024)
    (hl : (s.session o.session).mustDraw p.desc = true → 16 ≤ s.laneCount)
    (hs : s.noiseSamples o.session p.desc = (u, .ok l)) (hu : s.OwnWork u o.session)
    (hops : (u.session o.session).ops = (s.session o.session).ops) :
    let j := u.noiseJob o.session p l
    ∃ t, exec (.dpNoise o) s = .next t ∧ s.OwnWork t o.session ∧ t.Ends o p j.status ∧
      t = j.st.finishOp o.session p j.status ∧ (dpSigma p.desc ≠ 0 → (t.session o.session).noiseRan = true) := by
  intro j
  obtain ⟨hwork, hjops, hran⟩ := u.noiseJob_work p l hi
  obtain ⟨hown, hends⟩ := (hu.trans hwork).finished h (hjops.trans hops) j.status
  refine ⟨_, exec_dpNoise_runs h hk hr hl hs, hown, hends, rfl, fun hsig => ?_⟩
  rw [State.finishOp, State.onSession_same _ _ hi]
  exact hran hsig

/-- Settles O36: a RECKON marks what it writes and counts what it takes; a DP_NOISE runs on the samples it is given, holds or
draws; a sample is clamped. -/
theorem reckonerAndNoiseAct : Obligations.ReckonerAndNoiseAct := by
  refine ⟨fun s o p hi => ?_, drawSamples_bounded⟩
  intro i x d
  refine ⟨fun h ht => exec_reckon_updates hi h ht, fun h hk hr => ?_, fun h hk hr hd hl => ?_, fun lane => rfl⟩
  · intro n runs
    refine ⟨fun hs => ?_, fun r hs ha hr' hn => ?_, fun hd hl hroom => ?_, fun hd hl hfull => ?_⟩
    · have hd : x.mustDraw d = true → 16 ≤ s.laneCount := fun hd => absurd hs (Session.mustDraw_iff.mp hd).1
      exact exec_dpNoise_adds hi h hk hr hd (State.noiseSamples_none hs) (.refl s _) rfl
    · have hd : x.mustDraw d = true → 16 ≤ s.laneCount := fun hd => absurd (Session.mustDraw_iff.mp hd).2 ha
      exact exec_dpNoise_adds hi h hk hr hd (State.noiseSamples_held hs ha hr' hn) (.refl s _) rfl
    · obtain ⟨hwork, hops⟩ := s.drawn_session d hi
      exact exec_dpNoise_adds hi h hk hr (fun _ => hl) (State.noiseSamples_fresh hd hroom) hwork hops
    · rw [exec_dpNoise_stops h hk hr (fun _ => hl) (State.noiseSamples_full hd hfull)]
      exact congrArg _ (s.stopOp_eq _ p _ hi (by decide) (by decide))
  · obtain ⟨-, hends⟩ := (State.OwnWork.onSession s i (fun x => x.reason rsNoise) rfl rfl rfl).finished h
      (by rw [State.onSession_same s _ hi]; rfl) stRefused
    refine ⟨_, exec_dpNoise_refused h hk hr hd hl, hends, ?_, rfl⟩
    rw [State.finishOp, State.onSession_same _ _ hi, State.onSession_same _ _ hi]
    rfl

end Sys2Proof.Machine
end

section
/-! PROOFS. What a port receives: the slot that is counted, the control block that answers it, and the four ways in which a
flit is taken (R252 to R255). -/

namespace Sys2Proof.Machine

/-! ### Control blocks on a port -/

/-- What the key of a port's direction is derived from, of the port's own. -/
def Port.ends (q : Port) : BitVec 2 × W64 × BitVec 11 × BitVec 5 := (q.session, q.keyEpoch, q.peerRank, q.peerPort)

/-- A port after it sends one control block. -/
def Port.sent (q : Port) (key : Bytes) (type : Nat) (body : Bytes) : Port :=
  Port.limit { q with txCtl := q.txCtl + 1, sentBlocks := ctlBlock key q.txCtl type body :: q.sentBlocks }

/-- A port after a slot is counted (R252). -/
def Port.counted (q : Port) (corrected : Nat) : Port :=
  Port.limit { q with rxSlot := q.rxSlot + 1, fecCorrected := satAdd q.fecCorrected corrected }

/-- A port once a flit is delivered in order (R254). -/
def Port.took (q : Port) : Port := { q with rxSeq := q.rxSeq + 1, discarding := false }

theorem Port.limit_cases (q : Port) : Port.limit q = q ∨ Port.limit q = q.down 3 := by
  unfold Port.limit
  split
  · exact .inr rfl
  · exact .inl rfl

theorem Port.down_runs (q : Port) (r : Nat) : (q.down r).runs = false := rfl

/-- A port that runs after a counter's step has not reached the counter's end. -/
theorem Port.limit_of_runs {q : Port} (h : (Port.limit q).runs = true) : Port.limit q = q := by
  rcases q.limit_cases with e | e
  · exact e
  · rw [e, Port.down_runs] at h; exact absurd h (by decide)

theorem Port.sent_ends (q : Port) (key : Bytes) (type : Nat) (body : Bytes) : (q.sent key type body).ends = q.ends := by
  unfold Port.sent
  generalize ctlBlock key q.txCtl type body = b
  rcases Port.limit_cases { q with txCtl := q.txCtl + 1, sentBlocks := b :: q.sentBlocks } with e | e <;> rw [e] <;> rfl

theorem Port.counted_ends (q : Port) (n : Nat) : (q.counted n).ends = q.ends := by
  unfold Port.counted
  rcases Port.limit_cases { q with rxSlot := q.rxSlot + 1, fecCorrected := satAdd q.fecCorrected n } with e | e <;>
    rw [e] <;> rfl

/-- What the counting of a slot leaves of a port, even one that it takes DOWN. -/
theorem Port.counted_keeps (q : Port) (n : Nat) : (q.counted n).rxSeq = q.rxSeq ∧ (q.counted n).tagFail = q.tagFail ∧
    (q.counted n).epochTagFail = q.epochTagFail ∧ (q.counted n).fecUncorrectable = q.fecUncorrectable := by
  unfold Port.counted
  rcases Port.limit_cases { q with rxSlot := q.rxSlot + 1, fecCorrected := satAdd q.fecCorrected n } with e | e <;>
    rw [e] <;> exact ⟨rfl, rfl, rfl, rfl⟩

/-- A slot counted on a port that runs on changes the slot and the corrected codewords alone. -/
theorem Port.counted_of_runs {q : Port} {n : Nat} (h : (q.counted n).runs = true) :
    q.counted n = { q with rxSlot := q.rxSlot + 1, fecCorrected := satAdd q.fecCorrected n } := Port.limit_of_runs h

section
variable {s : State} {p : Nat} {q : Port}

theorem State.setPort_twice (s : State) (p : Nat) (q r : Port) : (s.setPort p q).setPort p r = s.setPort p r := by
  simp [State.setPort]

theorem State.onPort_setPort (hp : p < 18) (f : Port → Port) : (s.setPort p q).onPort p f = s.setPort p (f q) := by
  rw [State.onPort, State.setPort_same s q hp, State.setPort_twice]

theorem State.portKey_setPort (hp : p < 18) (he : q.ends = (s.port p).ends) (info : String) (out : Bool) :
    (s.setPort p q).portKey p info out = s.portKey p info out := by
  have hsession : q.session = (s.port p).session := congrArg (fun e => e.1) he
  have hepoch : q.keyEpoch = (s.port p).keyEpoch := congrArg (fun e => e.2.1) he
  have hrank : q.peerRank = (s.port p).peerRank := congrArg (fun e => e.2.2.1) he
  have hport : q.peerPort = (s.port p).peerPort := congrArg (fun e => e.2.2.2) he
  unfold State.portKey
  dsimp only
  rw [State.setPort_same s q hp, hsession, hepoch, hrank, hport]
  rfl

/-- A control block sent by a port just replaced. -/
theorem State.sendCtl_setPort (hp : p < 18) (he : q.ends = (s.port p).ends) (type : Nat) (body : Bytes) :
    (s.setPort p q).sendCtl p type body = s.setPort p (q.sent (s.portKey p "KRELAS-CTRL" true) type body) := by
  rw [State.sendCtl, State.portKey_setPort hp he, State.onPort_setPort hp, State.setPort_same s q hp]
  rfl

theorem State.countSlot_of_runs (h : (s.port p).runs = true) :
    s.countSlot p = State.setPort { s with draws := s.draws + 1 } p
      ((s.port p).counted (Config.correctedCodewords s.draws)) := by
  rw [State.countSlot, if_pos h]
  rfl

/-- R254: a port that runs asks again from the place it waits for. -/
theorem State.nak_setPort (hp : p < 18) (he : q.ends = (s.port p).ends) (hq : q.runs = true) :
    (s.setPort p q).nak p = s.setPort p
      (Port.sent { q with discarding := true } (s.portKey p "KRELAS-CTRL" true) 2 (le 2 q.rxSeq.toNat)) := by
  rw [State.nak, State.setPort_same s q hp, if_pos hq, State.onPort_setPort hp]
  exact State.sendCtl_setPort (q := { q with discarding := true }) hp he 2 _

theorem State.nak_setPort_stopped (hp : p < 18) (hq : q.runs = false) : (s.setPort p q).nak p = s.setPort p q := by
  rw [State.nak, State.setPort_same s q hp, if_neg (by rw [hq]; decide)]

/-! ### Taking a flit -/

/-- A DATA flit in its place is acknowledged. -/
theorem State.inOrder_data {f : InFlit} (hp : p < 18) (he : q.ends = (s.port p).ends) (ht : f.flit.type = 1)
    (hs : f.seq = q.rxSeq) : (s.setPort p q).inOrder p f =
      (s.setPort p (q.took.sent (s.portKey p "KRELAS-CTRL" true) 1 (le 2 f.seq.toNat)), some f) := by
  unfold State.inOrder
  dsimp only
  rw [State.setPort_same s q hp, if_neg (by omega), if_pos hs, if_pos ht, State.onPort_setPort hp]
  exact congrArg (·, some f) (State.sendCtl_setPort (q := q.took) hp he 1 _)

/-- A control flit in its place is acknowledged, and its credit goes back. -/
theorem State.inOrder_control {f : InFlit} (hp : p < 18) (he : q.ends = (s.port p).ends) (h0 : f.flit.type ≠ 0)
    (h1 : f.flit.type ≠ 1) (hs : f.seq = q.rxSeq) : (s.setPort p q).inOrder p f =
      (s.setPort p ((q.took.sent (s.portKey p "KRELAS-CTRL" true) 1 (le 2 f.seq.toNat)).sent
        (s.portKey p "KRELAS-CTRL" true) 3 (le 2 0 ++ le 2 1)), some f) := by
  unfold State.inOrder
  dsimp only
  rw [State.setPort_same s q hp, if_neg h0, if_pos hs, if_neg h1, State.onPort_setPort hp]
  have hack := State.sendCtl_setPort (q := q.took) hp he 1 (le 2 f.seq.toNat)
  have hcredit := State.sendCtl_setPort (s := s)
    (q := q.took.sent (s.portKey p "KRELAS-CTRL" true) 1 (le 2 f.seq.toNat)) hp
    ((Port.sent_ends q.took _ _ _).trans he) 3 (le 2 0 ++ le 2 1)
  rw [← hcredit, ← hack]
  rfl

/-- IDLE, and a flit ahead of its place, are dropped. -/
theorem State.inOrder_dropped {f : InFlit} (hp : p < 18)
    (h : f.flit.type = 0 ∨ (f.seq ≠ q.rxSeq ∧ 2048 < (q.rxSeq - f.seq).toNat)) :
    (s.setPort p q).inOrder p f = (s.setPort p q, none) := by
  unfold State.inOrder
  dsimp only
  rw [State.setPort_same s q hp]
  rcases h with h | ⟨hne, hfar⟩
  · rw [if_pos h]
  · rw [if_neg hne, if_neg (by omega : ¬ (q.rxSeq - f.seq).toNat ≤ 2048), ite_self]

/-- A flit delivered before is acknowledged again. -/
theorem State.inOrder_again {f : InFlit} (hp : p < 18) (he : q.ends = (s.port p).ends) (h0 : f.flit.type ≠ 0)
    (hne : f.seq ≠ q.rxSeq) (hold : (q.rxSeq - f.seq).toNat ≤ 2048) : (s.setPort p q).inOrder p f =
      (s.setPort p (q.sent (s.portKey p "KRELAS-CTRL" true) 1 (le 2 (q.rxSeq - 1).toNat)), none) := by
  unfold State.inOrder
  dsimp only
  rw [State.setPort_same s q hp, if_neg h0, if_neg hne, if_pos hold]
  exact congrArg (·, none) (State.sendCtl_setPort hp he 1 _)

end

section
variable {s : State} {p : Nat} {b : Bytes} (hruns : (s.port p).runs = true)
include hruns

theorem State.countSlot_port (hp : p < 18) : (s.countSlot p).port p = (s.port p).counted (Config.correctedCodewords s.draws) := by
  rw [State.countSlot_of_runs hruns, State.setPort_same _ _ hp]

variable (hlink : s.linkStruck (s.port p).session.toNat = false) (hon : ((s.countSlot p).port p).runs = true)
include hlink hon

theorem State.takeFlit_failed (h : openFlit (s.portKey p "KRELAS-FLIT" false) (s.port p).rxSlot b = none) :
    s.takeFlit p b = (((s.countSlot p).onPort p Port.tagFailed).nak p, none) := by
  unfold State.takeFlit
  dsimp only
  rw [if_neg (by simp [hruns, hlink, hon]), h]

/-- A flit whose tag verifies is taken in order, unless its port has been asked to go idle. -/
theorem State.takeFlit_opened {f : InFlit} (h : openFlit (s.portKey p "KRELAS-FLIT" false) (s.port p).rxSlot b = some f) :
    s.takeFlit p b = if s.blockHeld (.port p) then (s.countSlot p, none) else (s.countSlot p).inOrder p f := by
  unfold State.takeFlit
  dsimp only
  rw [if_neg (by simp [hruns, hlink, hon]), h]
  dsimp only
  rw [State.countSlot_of_runs hruns]
  rfl

end

end Sys2Proof.Machine
end

section
/-! PROOFS. The flits that are not delivered: those of a struck link, those whose tag fails, those that are dropped or
acknowledged again, and codewords that cannot be corrected. -/

namespace Sys2Proof.Machine

theorem exec_dataFlit (p : Nat) (b : Bytes) (n : List AddFault) (s : State) :
    exec (.dataFlit p b n) s = execDataFlit p b n s := rfl

theorem exec_uncorrectableCodeword (p : Nat) (s : State) :
    exec (.uncorrectableCodeword p) s = execUncorrectableCodeword p s := rfl

/-! ### Stale flits -/

/-- What a stale flit leaves of a session: it is counted, and the collective that its chunk names is lost (R284). -/
def Session.staled (x : Session) (h : Option Bytes) : Session :=
  { x with
    coll := { x.coll with staleDrop := satAdd x.coll.staleDrop 1 }
    lost := match h with
      | some h => (hdrColl h, hdrStep h, hdrAttempt h) ::
          x.lost.filter (· ≠ (hdrColl h, hdrStep h, hdrAttempt h))
      | none => x.lost }

section
variable (s : State) {i : Nat} (f : OutFlit) (h : Option Bytes)

/-- A stale flit counts and marks its collective lost; one in progress that needs it ends. -/
theorem State.staleFlit_eq : s.staleFlit i f h =
    match (((h.filter fun _ => f.dst = (s.session i).rank).bind (s.session i).collFor).filter
        fun o => o.stage = .launched) with
    | some o => (s.setSession i ((s.session i).staled (h.filter fun _ => f.dst = (s.session i).rank))).finishOp i o stRevoked
    | none => s.setSession i ((s.session i).staled (h.filter fun _ => f.dst = (s.session i).rank)) := rfl

/-- A stale flit changes its session alone: the count, the collectives lost, and the descriptor it ends. -/
theorem State.staleFlit_session (hi : i < 4) : ∃ ops, s.staleFlit i f h = s.setSession i
    { (s.session i).staled (h.filter fun _ => f.dst = (s.session i).rank) with ops := ops } := by
  rw [State.staleFlit_eq]
  generalize h.filter (fun _ => f.dst = (s.session i).rank) = k
  split
  · rename_i o _
    refine ⟨(((s.session i).staled k).setOp { o with stage := .finished, status := stRevoked }).ops, ?_⟩
    rw [State.finishOp, State.onSession, State.setSession_same s _ hi, State.setSession_twice]
    rfl
  · exact ⟨((s.session i).staled k).ops, rfl⟩

end

/-! ### What a data flit comes to -/

section
variable {s : State} {p : Nat} {b : Bytes} {n : List AddFault} (hb : (s.port p).bound = true)
  (hruns : (s.port p).runs = true) (htype : bitsAt b 0 1 3 0 < 2 ∨ 5 < bitsAt b 0 1 3 0)
include hb hruns htype

/-- Without a link key a flit is counted, and only its generation is known. -/
theorem execDataFlit_struck (hlink : s.linkStruck (s.port p).session.toNat = true) :
    execDataFlit p b n s = .next (
      if bitsAt b 0 1 3 0 = 1 ∧ (s.rawFlit p b).gen ≠ s.linkGen (s.port p).session.toNat then
        (s.countSlot p).staleFlit (s.port p).session.toNat (s.rawFlit p b).flit
          (if (s.rawFlit p b).flit.first then none
           else ((s.countSlot p).session (s.port p).session.toNat).chunkOf (s.rawFlit p b).flit)
      else s.countSlot p) := by
  unfold execDataFlit
  dsimp only [State.portSession]
  rw [if_pos ⟨hb, hruns, htype⟩, if_pos hlink]
  have hgen : (s.countSlot p).linkGen (s.port p).session.toNat = s.linkGen (s.port p).session.toNat := by
    rw [State.countSlot_of_runs hruns]; rfl
  rw [hgen]

variable (hlink : s.linkStruck (s.port p).session.toNat = false)
include hlink

/-- A flit whose tag fails, and that has fed nothing that left before the verdict, is asked for again. -/
theorem execDataFlit_failed (hopen : openFlit (s.portKey p "KRELAS-FLIT" false) (s.port p).rxSlot b = none)
    (hkept : s.consumed p (s.rawFlit p b) = false) :
    execDataFlit p b n s = .next ((s.takeFlit p b).1.onSession (s.port p).session.toNat fun x =>
      if (s.feeds p (s.rawFlit p b)).isSome then { x with coll := { x.coll with retried := satAdd x.coll.retried 1 } }
      else x) := by
  have hfails : s.tagFails p b = true := by simp [State.tagFails, hruns, hlink, hopen]
  unfold execDataFlit
  dsimp only [State.portSession]
  rw [if_pos ⟨hb, hruns, htype⟩, if_neg (by rw [hlink]; decide), if_pos hfails, if_neg (by rw [hkept]; simp)]

/-- A flit whose sums had left before its tag failed is used as it came. -/
theorem execDataFlit_consumed (hopen : openFlit (s.portKey p "KRELAS-FLIT" false) (s.port p).rxSlot b = none)
    (hleft : s.consumed p (s.rawFlit p b) = true) (hheld : s.blockHeld (.port p) = false) :
    execDataFlit p b n s = .next (s.taintedFlit p (s.rawFlit p b) n) := by
  have hfails : s.tagFails p b = true := by simp [State.tagFails, hruns, hlink, hopen]
  unfold execDataFlit
  dsimp only [State.portSession]
  rw [if_pos ⟨hb, hruns, htype⟩, if_neg (by rw [hlink]; decide), if_pos hfails, if_pos ⟨hleft, by rw [hheld]; decide⟩]

variable {f : InFlit} (hopen : openFlit (s.portKey p "KRELAS-FLIT" false) (s.port p).rxSlot b = some f)
include hopen

/-- A verified flit that is not delivered leaves what taking it left. -/
theorem execDataFlit_undelivered {t : State} (htake : s.takeFlit p b = (t, none)) : execDataFlit p b n s = .next t := by
  have hholds : s.tagFails p b = false := by simp [State.tagFails, hopen]
  unfold execDataFlit
  dsimp only [State.portSession]
  rw [if_pos ⟨hb, hruns, htype⟩, if_neg (by rw [hlink]; decide), if_neg (by rw [hholds]; decide), htake]

/-- A verified DATA flit in order is delivered. -/
theorem execDataFlit_delivered {t : State} (htake : s.takeFlit p b = (t, some f)) (hdata : f.flit.type = 1) :
    execDataFlit p b n s = .next (t.deliver p f false n) := by
  have hholds : s.tagFails p b = false := by simp [State.tagFails, hopen]
  unfold execDataFlit
  dsimp only [State.portSession]
  rw [if_pos ⟨hb, hruns, htype⟩, if_neg (by rw [hlink]; decide), if_neg (by rw [hholds]; decide), htake]
  dsimp only
  rw [if_neg (by omega)]

end

/-! ### Tags that fail -/

/-- A port that goes on after a failed tag. -/
def Port.failed (q : Port) : Port :=
  { q with tagFail := satAdd q.tagFail 1, epochTagFail := satAdd q.epochTagFail 1 }

theorem Port.tagFailed_eq (q : Port) :
    q.tagFailed = if 8 ≤ (satAdd q.epochTagFail 1).toNat then q.failed.down 3 else q.failed := rfl

/-- R252, R254: at a failed tag a port asks again, or goes DOWN at the eighth failure of an epoch. -/
theorem State.nak_tagFailed {s : State} {p : Nat} {q : Port} (hp : p < 18) (he : q.ends = (s.port p).ends)
    (hq : q.runs = true) : ((s.setPort p q).onPort p Port.tagFailed).nak p = s.setPort p
      (if 8 ≤ (satAdd q.epochTagFail 1).toNat then q.failed.down 3
       else Port.sent { q.failed with discarding := true } (s.portKey p "KRELAS-CTRL" true) 2 (le 2 q.rxSeq.toNat)) := by
  rw [State.onPort_setPort hp, Port.tagFailed_eq]
  split
  · exact State.nak_setPort_stopped hp rfl
  · exact State.nak_setPort (q := q.failed) hp he hq

/-- A port whose slot carried a codeword that could not be corrected. -/
def Port.uncorrected (q : Port) : Port := { q with fecUncorrectable := satAdd q.fecUncorrectable 1 }

/-- R252, R254: a codeword that cannot be corrected is counted, and a port that runs asks again. -/
theorem State.nak_uncorrected {s : State} {p : Nat} {q : Port} (hp : p < 18) (he : q.ends = (s.port p).ends) :
    ((s.setPort p q).onPort p Port.uncorrected).nak p = s.setPort p
      (if q.runs then
        Port.sent { q.uncorrected with discarding := true } (s.portKey p "KRELAS-CTRL" true) 2 (le 2 q.rxSeq.toNat)
       else q.uncorrected) := by
  rw [State.onPort_setPort hp]
  by_cases hq : q.runs = true
  · rw [if_pos hq]
    exact State.nak_setPort (q := q.uncorrected) hp he hq
  · rw [if_neg hq]
    exact State.nak_setPort_stopped (q := q.uncorrected) hp (by simpa using hq : q.runs = false)

theorem execUncorrectableCodeword_runs {s : State} {p : Nat} (hp : p < 18) (hruns : (s.port p).runs = true) :
    execUncorrectableCodeword p s = .next (State.setPort { s with draws := s.draws + 1 } p
      (if ((s.port p).counted (Config.correctedCodewords s.draws)).runs then
        Port.sent { ((s.port p).counted (Config.correctedCodewords s.draws)).uncorrected with discarding := true }
          (s.portKey p "KRELAS-CTRL" true) 2 (le 2 ((s.port p).counted (Config.correctedCodewords s.draws)).rxSeq.toNat)
       else ((s.port p).counted (Config.correctedCodewords s.draws)).uncorrected)) := by
  rw [execUncorrectableCodeword, if_pos hruns, State.countSlot_of_runs hruns]
  exact congrArg Host.Outcome.next
    (State.nak_uncorrected (s := { s with draws := s.draws + 1 }) hp (Port.counted_ends _ _))

end Sys2Proof.Machine
end

section
/-! PROOFS. Observations that memory work cannot move. What the memory protection engine and a job's writes change of a state
is a short list of parts; an observation that none of them moves (`Blind`) reads the same after each of their operations.
-/

namespace Sys2Proof.Machine

/-- An observation that no part which memory work of session `i` changes can move: memories and their record, counters and
free values, lines to be back-invalidated, contexts that stop, outputs noted, stores, and numeric events. -/
structure Blind {α : Type} (Ob : State → α) (i : Nat) : Prop where
  onMem : ∀ s f, Ob (s.onMem i f) = Ob s
  onChan : ∀ s sp f, Ob (s.onChan sp f) = Ob s
  onRing : ∀ s r, Ob (s.onSession i fun x => { x with ring := r }) = Ob s
  counts : ∀ s d p, Ob { s with draws := d, perf := p } = Ob s
  dirty : ∀ s l, Ob { s with host := { s.host with dirty := l } } = Ob s
  stops : ∀ s st, Ob (s.onSession i fun x => x.stopAll st) = Ob s
  outputs : ∀ s sp a n, Ob (s.onSession i fun x => x.overwrite sp a n) = Ob s
  dies : ∀ s d, Ob { s with dies := d } = Ob s
  numbers : ∀ s (n : Session → NumRec) (l : Session → Table ScaleRec),
    Ob (s.onSession i fun x => { x with num := n x, scales := l x }) = Ob s

namespace Blind
variable {α : Type} {Ob : State → α} {i : Nat}

/-- A fold of steps that an observation does not see. -/
theorem foldl {β : Type} {f : State → β → State} (hf : ∀ s b, Ob (f s b) = Ob s) (l : List β) (s : State) :
    Ob (l.foldl f s) = Ob s := by
  induction l generalizing s with
  | nil => rfl
  | cons b l ih => rw [List.foldl_cons, ih, hf]

variable (h : Blind Ob i)
include h

/-! ### Counters -/

theorem sample (s : State) (key ev : Nat) : Ob (s.sample i key ev) = Ob s := by
  obtain ⟨r, hr⟩ := (s.session i).requestSample_keeps (decide (s.queued (key / 64) < 4)) s.time.now (key / 64) (key % 64) ev
    (vget (Vector.replicate 16 0) s.perf.slots (key / 64))
  have hring : s.sample i key ev = s.onSession i fun x => { x with ring := r } := congrArg (s.setSession i) hr
  rw [hring, h.onRing]

theorem bump (s : State) (key n runs : Nat) : Ob (s.bump i key n runs) = Ob s := by
  obtain ⟨d, p, l, ev, hb⟩ := s.bump_cases i key n runs
  rw [hb, foldl fun t _ => h.sample t key ev, h.counts]

theorem perfRuns (s : State) (u ev n runs : Nat) : Ob (s.perfRuns i u ev n runs) = Ob s := by
  unfold State.perfRuns
  split
  · rfl
  · exact foldl (fun t (e : Nat × Counter) => h.bump t e.1 n runs) _ s

theorem perfEvent (s : State) (u ev n : Nat) : Ob (s.perfEvent i u ev n) = Ob s := h.perfRuns s u ev n n

theorem memEvent (s : State) (sp : Space) (a b n : Nat) : Ob (s.memEvent i sp a b n) = Ob s := by
  unfold State.memEvent
  split <;> split <;> simp [h.perfEvent]

theorem touch (s : State) (sp : Space) (l : List Nat) : Ob (s.touch sp l) = Ob s := by
  unfold State.touch
  split
  · rfl
  · exact h.dirty s _

theorem touchData (s : State) (sp : Space) (l : List Nat) : Ob (s.touchData sp l) = Ob s := h.touch s sp _

/-! ### The memory protection engine -/

theorem violation (s : State) (sp : Space) (a k lv o : Nat) : Ob (s.violation i sp a k lv o) = Ob s := by
  unfold State.violation
  dsimp only
  rw [h.stops, h.onMem]

theorem fetchItem (s : State) (sp : Space) (q : Item) : Ob (s.fetchItem i sp q).1 = Ob s := by
  unfold State.fetchItem
  dsimp only
  split_ifs <;> simp [h.onChan, h.onMem, h.memEvent, h.violation]

theorem fetchAll (sp : Space) (l : List Item) (s : State) : Ob (s.fetchAll i sp l).1 = Ob s := by
  induction l generalizing s with
  | nil => rfl
  | cons q l ih =>
    unfold State.fetchAll
    dsimp only
    split
    · rw [ih, h.fetchItem]
    · exact h.fetchItem s sp q

theorem reach (s : State) (sp : Space) (l : List Item) : Ob (s.reach i sp l).1 = Ob s := by
  unfold State.reach
  split
  · rfl
  · exact h.fetchAll sp _ s

theorem storeItem (s : State) (sp : Space) (q : Item) : Ob (s.storeItem i sp q) = Ob s :=
  (h.touch _ sp _).trans (h.onChan s sp _)

theorem checkLine (s : State) (sp : Space) (line k : Nat) : Ob (s.checkLine i sp line k).1 = Ob s := by
  unfold State.checkLine
  dsimp only
  split
  · simp [h.onMem, h.memEvent]
  · split <;> simp [h.onMem, h.memEvent, h.violation]

theorem renewLine (s : State) (sp : Space) (line : Nat) : Ob (s.renewLine i sp line) = Ob s := by
  unfold State.renewLine
  dsimp only
  split <;> simp [h.onChan, h.checkLine]

theorem renewPage (s : State) (sp : Space) (p : Nat) : Ob (s.renewPage i sp p) = Ob s := by
  unfold State.renewPage
  simp [h.touchData, h.onChan, h.memEvent, foldl fun t l => h.renewLine t sp l]

theorem plainVersion (s : State) (sp : Space) (q : Item) : Ob (s.plainVersion i sp q).1 = Ob s := by
  unfold State.plainVersion
  dsimp only
  split <;> simp [h.onChan]

section
variable {next : State → Nat → Space → Item → State × Bool} (hn : ∀ s sp q, Ob (next s i sp q).1 = Ob s)
include hn

theorem evictBy (s : State) (sp : Space) (q : Item) : Ob (State.evictBy next s i sp q) = Ob s := by
  unfold State.evictBy
  split
  · rfl
  · exact h.onChan s sp _
  · dsimp only
    split
    · rw [h.onChan, h.reach]
    · split
      · split <;> simp [h.onChan, h.reach, h.storeItem, hn]
      · rw [hn, h.reach]

theorem makeRoomFor (sp : Space) (o n fuel k : Nat) (s : State) : Ob (State.makeRoomFor next i sp o n fuel k s) = Ob s := by
  induction fuel generalizing k s with
  | zero => rfl
  | succ fuel ih =>
    unfold State.makeRoomFor
    dsimp only
    split
    · split
      · rw [ih, h.evictBy hn]
      · rfl
    · rfl

theorem makeRoom (s : State) (sp : Space) (o : Nat) : Ob (State.makeRoom next s i sp o) = Ob s :=
  (h.makeRoomFor hn sp _ _ _ _ _).trans (h.counts s (s.draws + 1) s.perf)

end

theorem renewNodes (s : State) (sp : Space) (old : Channel) : Ob (s.renewNodes i sp old) = Ob s :=
  foldl (fun t q => h.storeItem t sp q) _ s

theorem sweepGroup (s : State) (sp : Space) (g : Nat) (mark : Channel → Channel) : Ob (s.sweepGroup i sp g mark) = Ob s := by
  have hroom := h.makeRoom fun s sp q => h.plainVersion s sp q
  have hpages := fun (l : List Nat) (t : State) => foldl (fun t p => h.renewPage t sp p) l t
  unfold State.sweepGroup
  dsimp only
  split_ifs <;> simp [hroom, hpages, h.renewNodes, h.onChan, h.storeItem, h.reach]

theorem sweepUpTo (s : State) (sp : Space) (e : Nat) : Ob (s.sweepUpTo i sp e) = Ob s := by
  unfold State.sweepUpTo
  split
  · simp [h.renewNodes, h.onChan, foldl fun t g => h.sweepGroup t sp g (·.sweptTo (g + 1))]
  · rfl

theorem endSweep (s : State) (sp : Space) : Ob (s.endSweep i sp) = Ob s := by
  unfold State.endSweep
  extract_lets t
  have ht : Ob t = Ob s := by
    unfold t
    split
    · split
      · exact h.onChan s sp _
      · rfl
    · rfl
  clear_value t
  split
  · rw [h.onMem, ht]
  · exact ht

theorem finishSweep (s : State) : Ob (s.finishSweep i) = Ob s :=
  foldl (fun t sp => (h.endSweep _ sp).trans (h.sweepUpTo t sp _)) _ s

theorem rollEpoch (s : State) : Ob (s.rollEpoch i).1 = Ob s := by
  unfold State.rollEpoch
  split
  · simp [h.onMem]
  · dsimp only
    rw [foldl fun t sp => h.onChan t sp _, h.onMem]
    split
    · exact h.finishSweep s
    · rfl

theorem nextVersion (s : State) (sp : Space) (q : Item) : Ob (s.nextVersion i sp q).1 = Ob s := by
  unfold State.nextVersion
  dsimp only
  split_ifs <;> simp [h.onChan, h.sweepUpTo, h.rollEpoch, h.plainVersion]

theorem walk (s : State) (sp : Space) (line : Nat) : Ob (s.walk i sp line).1 = Ob s :=
  (h.reach _ sp _).trans (h.makeRoom (fun s sp q => h.nextVersion s sp q) s sp _)

theorem refrank (s : State) (sp : Space) (p : Nat) : Ob (s.refrank i sp p).1 = Ob s := by
  unfold State.refrank
  dsimp only
  split_ifs <;> simp [h.onMem, h.touchData, h.onChan, h.memEvent, h.renewPage, h.sweepUpTo, h.rollEpoch]

theorem sweepAhead (s : State) (sp : Space) (g : Nat) : Ob (s.sweepAhead i sp g) = Ob s := by
  unfold State.sweepAhead
  split
  · split
    · exact h.sweepGroup s sp g _
    · rfl
  · rfl

theorem advance (s : State) (sp : Space) (line : Nat) : Ob (s.advance i sp line).1 = Ob s := by
  unfold State.advance
  dsimp only
  split_ifs <;> simp [h.onChan, h.refrank, h.memEvent, h.sweepAhead]

theorem poison (s : State) (sp : Space) (line : Nat) : Ob (s.poison i sp line) = Ob s := by
  have hlines : ∀ (l : List Nat) (r : State × Bool),
      Ob (l.foldl (fun (r : State × Bool) l => if r.2 then r.1.advance i sp l else r) r).1 = Ob r.1 := by
    intro l
    induction l with
    | nil => exact fun _ => rfl
    | cons a l ih =>
      intro r
      rw [List.foldl_cons, ih]
      split
      · exact h.advance r.1 sp a
      · rfl
  unfold State.poison
  dsimp only
  split <;> simp [h.onChan, h.touchData, h.memEvent, hlines]

theorem readLine (s : State) (sp : Space) (line : Nat) (part : Bool) : Ob (s.readLine i sp line part).1 = Ob s := by
  unfold State.readLine
  dsimp only
  split_ifs <;> simp [h.onMem, h.poison, h.checkLine, h.walk]

theorem writeLine (s : State) (sp : Space) (line off : Nat) (b : Bytes) : Ob (s.writeLine i sp line off b).1 = Ob s := by
  unfold State.writeLine
  extract_lets w r
  have hr : Ob r.1 = Ob s := by
    unfold r
    split
    · exact h.walk s sp line
    · exact h.readLine s sp line true
  clear_value r
  split
  · rfl
  · split
    · exact hr
    · have hgo := (h.advance r.1 sp line).trans hr
      generalize r.1.advance i sp line = a at hgo
      dsimp only
      split
      · rw [h.onChan, h.touchData, h.memEvent, hgo]
      · exact hgo

/-! ### Writes and counts of a job -/

omit h

/-- A job of session `i`, whose state an observation reads as it reads `s`. -/
def Sees (Ob : State → α) (i : Nat) (s : State) (j : Job) : Prop := j.sess = i ∧ Ob j.st = Ob s

include h

section
variable {s : State} {j : Job} (hj : Sees Ob i s j)
include hj

theorem writeRun (a : Nat) (b : Bytes) : Sees Ob i s (j.writeRun a b) := by
  obtain ⟨rfl, hs⟩ := hj
  unfold Job.writeRun
  split
  · simp only []
    split
    · exact ⟨rfl, hs⟩
    · rename_i o c cpa _
      split
      · exact ⟨rfl, hs⟩
      · have hline := (h.writeLine j.st (.hbm c) (cpa / 64) (cpa % 64) b).trans hs
        generalize j.st.writeLine j.sess (.hbm c) (cpa / 64) (cpa % 64) b = w at hline
        refine ⟨rfl, ?_⟩
        dsimp only [Job.meet]
        split
        · exact (h.outputs w.1 4 a b.length).trans hline
        · exact hline
  · exact ⟨rfl, hs⟩

theorem writeStore (die off : Nat) (b : Bytes) : Sees Ob i s (j.writeStore die off b) := by
  obtain ⟨rfl, hs⟩ := hj
  unfold Job.writeStore
  dsimp only
  split
  · split
    · exact ⟨rfl, hs⟩
    · exact ⟨rfl, (h.dies _ _).trans ((h.outputs _ die off b.length).trans ((h.perfEvent _ _ _ _).trans hs))⟩
  · exact ⟨rfl, hs⟩

theorem writeHbm (a : Nat) (b : Bytes) : Sees Ob i s (j.writeHbm a b) := by
  unfold Job.writeHbm
  generalize linesOf a b.length = l
  induction l generalizing j with
  | nil => exact hj
  | cons q l ih => exact ih (h.writeRun hj _ _)

theorem write (p : Place) (b : Bytes) : Sees Ob i s (j.write p b) := by
  cases p with
  | store die off => exact h.writeStore hj die off b
  | hbm a => exact h.writeHbm hj a b
  | none => exact hj

theorem writeFlat (d : Bytes) (k : Nat) (codes : List Nat) (scales : Bytes) : Sees Ob i s (j.writeFlat d k codes scales) := by
  have hdata := h.write (j := { j with owner := clOutParty d }) hj
    ((j.st.session j.sess).topPlace (clDst d) (flatWidth (clOut d) (clDst d) * k / 8))
    (pack (flatWidth (clOut d) (clDst d)) codes)
  unfold Job.writeFlat
  dsimp only
  split
  · exact hdata
  · exact h.write hdata _ scales

theorem count (k : Nat) (c : Counts) : Sees Ob i s (j.count k c) := by
  obtain ⟨rfl, hs⟩ := hj
  refine ⟨rfl, ?_⟩
  unfold Job.count
  dsimp only
  split
  · exact (h.numbers j.st (fun x => x.num.count c) fun x => x.scales).trans hs
  · exact (h.numbers j.st (fun x => x.num.count c) fun x =>
      Table.set ScaleRec.reset x.scales k ((Table.get ScaleRec.reset x.scales k).count c)).trans hs

theorem intake (c : Counts) : Sees Ob i s (j.intake c) := h.count hj _ _

end

end Blind

end Sys2Proof.Machine
end

section
/-! PROOFS. What the Sorting Office's work changes when it takes what has arrived: its own session and the free parts of the
machine, the queues of the ports and their control blocks; and of the session neither the chunks it has received, nor its
count of tainted tags, nor the LINK_TAG reason of its vote. -/

namespace Sys2Proof.Machine

/-! ### What ports answer and send on -/

/-- A port that has only sent control blocks. -/
def Port.Answers (q r : Port) : Prop :=
  r = { q with state := r.state, downReason := r.downReason, lanes := r.lanes, txCtl := r.txCtl, sentBlocks := r.sentBlocks
               owed := r.owed } ∧ q.sentBlocks <:+ r.sentBlocks

/-- A port that has sent control blocks and been given flits to send. -/
def Port.Posts (q r : Port) : Prop := Port.Answers { q with control := r.control, data := r.data } r

theorem Port.Answers.refl (q : Port) : q.Answers q := ⟨rfl, List.suffix_refl _⟩

theorem Port.Answers.trans {q r w : Port} (h : q.Answers r) (g : r.Answers w) : q.Answers w := by
  obtain ⟨hr, hb⟩ := h
  obtain ⟨gw, gb⟩ := g
  refine ⟨?_, hb.trans gb⟩
  rw [hr] at gw
  exact gw

theorem Port.Answers.posts {q r : Port} (h : q.Answers r) : q.Posts r := by
  obtain ⟨hr, hb⟩ := h
  refine ⟨?_, hb⟩
  rw [hr]

theorem Port.Posts.trans {q r w : Port} (h : q.Posts r) (g : r.Posts w) : q.Posts w := by
  obtain ⟨hr, hb⟩ := h
  obtain ⟨gw, gb⟩ := g
  refine ⟨?_, hb.trans gb⟩
  rw [hr] at gw
  exact gw

/-- A control block sent is an answer, whatever the counter then does to the port. -/
theorem Port.sent_answers (q : Port) (key : Bytes) (type : Nat) (body : Bytes) : q.Answers (q.sent key type body) := by
  unfold Port.sent
  generalize ctlBlock key q.txCtl type body = b
  rcases Port.limit_cases { q with txCtl := q.txCtl + 1, sentBlocks := b :: q.sentBlocks } with e | e <;> rw [e]
  · exact ⟨rfl, List.suffix_cons _ _⟩
  · exact ⟨rfl, List.suffix_cons _ _⟩

/-! ### The relation -/

/-- Of a session, the tags that failed after their flits had left, the chunks received, and the LINK_TAG reason (R224). -/
def Session.received (x : Session) : W64 × W64 × BitVec 16 :=
  (x.coll.tagTaint, x.coll.chunksRx, x.voteReasons &&& rsLinkTag)

/-- What the Sorting Office's work of session `i` keeps of the machine. -/
def State.Sorts (s t : State) (i : Nat) : Prop :=
  t = { s with
    sessions := t.sessions, dies := t.dies, channels := t.channels, far := t.far, perf := t.perf, draws := t.draws
    ports := t.ports, adders := t.adders, host := { s.host with dirty := t.host.dirty } } ∧
  (∀ j < 4, j ≠ i → t.session j = s.session j) ∧ (∀ k, (s.port k).Posts (t.port k)) ∧
  (t.session i).received = (s.session i).received

section
variable {s t u : State} {i : Nat}

theorem State.Sorts.refl (s : State) (i : Nat) : s.Sorts s i :=
  ⟨rfl, fun _ _ _ => rfl, fun k => (Port.Answers.refl (s.port k)).posts, rfl⟩

theorem State.Sorts.trans (h : s.Sorts t i) (g : t.Sorts u i) : s.Sorts u i := by
  obtain ⟨h1, h2, h3, h4⟩ := h
  obtain ⟨g1, g2, g3, g4⟩ := g
  refine ⟨?_, fun j hj hji => (g2 j hj hji).trans (h2 j hj hji), fun k => (h3 k).trans (g3 k), g4.trans h4⟩
  rw [g1, h1]

/-- A fold of steps of the Sorting Office's work. -/
theorem State.Sorts.foldl {β : Type} {f : State → β → State} (hf : ∀ s b, State.Sorts s (f s b) i) (l : List β)
    (s : State) : s.Sorts (l.foldl f s) i := by
  induction l generalizing s with
  | nil => exact .refl s i
  | cons b l ih => exact (hf s b).trans (ih (f s b))

theorem State.received_onSession (s : State) (i : Nat) (f : Session → Session)
    (hf : ∀ x, (f x).received = x.received) : ((s.onSession i f).session i).received = (s.session i).received := by
  by_cases hi : i < 4
  · rw [State.onSession_same s f hi, hf]
  · rw [State.session, State.onSession, State.setSession, vset_beyond _ _ (by omega)]; rfl

theorem State.Sorts.onSession (s : State) (i : Nat) (f : Session → Session) (hf : ∀ x, (f x).received = x.received) :
    s.Sorts (s.onSession i f) i :=
  ⟨rfl, fun _ _ hji => State.onSession_other s f (Ne.symm hji), fun k => (Port.Answers.refl (s.port k)).posts,
    s.received_onSession i f hf⟩

theorem State.setPort_beyond (s : State) {p : Nat} (q : Port) (hp : ¬ p < 18) : s.setPort p q = s := by
  rw [State.setPort, vset_beyond _ _ (by omega)]

theorem State.port_onPort (s : State) (p : Nat) (f : Port → Port) (k : Nat) :
    (s.onPort p f).port k = s.port k ∨ (s.onPort p f).port k = f (s.port k) := by
  by_cases hk : p = k
  · subst hk
    by_cases hp : p < 18
    · exact .inr (State.setPort_same s _ hp)
    · exact .inl (by rw [State.onPort, State.setPort_beyond s _ hp])
  · exact .inl (State.setPort_other s _ hk)

theorem State.Sorts.onPort (s : State) (p i : Nat) (f : Port → Port) (hf : (s.port p).Posts (f (s.port p))) :
    s.Sorts (s.onPort p f) i := by
  refine ⟨rfl, fun _ _ _ => rfl, fun k => ?_, rfl⟩
  by_cases hk : p = k
  · subst hk
    rcases s.port_onPort p f p with e | e <;> rw [e]
    · exact (Port.Answers.refl _).posts
    · exact hf
  · rw [State.onPort, State.setPort_other s _ hk]
    exact (Port.Answers.refl _).posts

/-- Work of the session that leaves what it has received. -/
theorem State.OwnWork.sorts (h : s.OwnWork t i) (hr : (t.session i).received = (s.session i).received) : s.Sorts t i := by
  obtain ⟨h1, h2, _⟩ := h
  have hports : t.ports = s.ports := by rw [h1]
  have hadders : t.adders = s.adders := by rw [h1]
  refine ⟨?_, h2, fun k => ?_, hr⟩
  · rw [hports, hadders]
    exact h1
  · rw [State.port, State.port, hports]
    exact (Port.Answers.refl _).posts

end

/-! ### Accesses of a job -/

theorem Session.received_reason (x : Session) {r : BitVec 16} (hr : r &&& rsLinkTag = 0) :
    (x.reason r).received = x.received := by
  have hv : (x.voteReasons ||| r) &&& rsLinkTag = x.voteReasons &&& rsLinkTag := by
    rw [BitVec.and_comm, BitVec.and_or_distrib_left, BitVec.and_comm rsLinkTag r, hr]
    simp [BitVec.and_comm]
  unfold Session.received Session.reason
  rw [hv]

theorem Session.received_stopAll (x : Session) (st : Status) : (x.stopAll st).received = x.received := by
  have hstop : ∀ (x : Session) (c : Nat), (x.stopCtx c st).received = x.received := fun x c => by
    unfold Session.stopCtx Session.stopCtxAt
    split
    · split
      · rfl
      · exact Session.received_reason _ (by decide)
    · rfl
  unfold Session.stopAll
  generalize List.range 4 = l
  induction l generalizing x with
  | nil => rfl
  | cons c l ih => rw [List.foldl_cons, ih, hstop]

/-- Memory work leaves what its session has received. -/
theorem received_blind (i : Nat) : Blind (fun s : State => (s.session i).received) i where
  onMem s _ := s.received_onSession i _ fun _ => rfl
  onChan s sp _ := by cases sp <;> rfl
  onRing s _ := s.received_onSession i _ fun _ => rfl
  counts _ _ _ := rfl
  dirty _ _ := rfl
  stops s st := s.received_onSession i _ fun x => x.received_stopAll st
  outputs s _ _ _ := s.received_onSession i _ fun _ => rfl
  dies _ _ := rfl
  numbers s _ _ := s.received_onSession i _ fun _ => rfl

/-- A job at work for session `i`, from a state on. -/
def State.SortsTo (s : State) (i : Nat) (j : Job) : Prop := j.sess = i ∧ s.Sorts j.st i

section
variable {s : State} {i : Nat} {j : Job}

theorem State.sortsTo_job (s : State) (i : Nat) (o : Op) (owner : Nat) : s.SortsTo i (s.job i o owner) :=
  ⟨rfl, .refl s i⟩

theorem State.SortsTo.write (h : s.SortsTo i j) (p : Place) (b : Bytes) : s.SortsTo i (j.write p b) := by
  obtain ⟨rfl, hs⟩ := h
  obtain ⟨hwork, hsess, _⟩ := j.write_goes p b
  obtain ⟨_, hreceived⟩ := (received_blind j.sess).write (s := j.st) ⟨rfl, rfl⟩ p b
  exact ⟨hsess, hs.trans (hwork.sorts hreceived)⟩

theorem State.SortsTo.writeFlat (h : s.SortsTo i j) (d : Bytes) (k : Nat) (codes : List Nat) (scales : Bytes) :
    s.SortsTo i (j.writeFlat d k codes scales) := by
  have hdata := State.SortsTo.write (j := { j with owner := clOutParty d }) h
    ((j.st.session j.sess).topPlace (clDst d) (flatWidth (clOut d) (clDst d) * k / 8))
    (pack (flatWidth (clOut d) (clDst d)) codes)
  unfold Job.writeFlat
  dsimp only
  split
  · exact hdata
  · exact hdata.write _ scales

theorem State.SortsTo.count (h : s.SortsTo i j) (k : Nat) (c : Counts) : s.SortsTo i (j.count k c) := by
  obtain ⟨rfl, hs⟩ := h
  obtain ⟨hwork, hsess, _⟩ := j.count_goes k c
  obtain ⟨_, hreceived⟩ := (received_blind j.sess).count (s := j.st) ⟨rfl, rfl⟩ k c
  exact ⟨hsess, hs.trans (hwork.sorts hreceived)⟩

theorem State.SortsTo.intake (h : s.SortsTo i j) (c : Counts) : s.SortsTo i (j.intake c) := h.count _ _

end

/-! ### Flits and control blocks that are sent -/

section
variable (s : State) (i : Nat)

theorem State.perfEvent_sorts (u ev n : Nat) : s.Sorts (s.perfEvent i u ev n) i :=
  (s.perfEvent_ownWork i u ev n).sorts ((received_blind i).perfEvent s u ev n)

theorem State.neverAcked_sorts (l : List OutFlit) : s.Sorts (s.neverAcked i l) i := by
  unfold State.neverAcked
  dsimp only
  split
  · exact .refl s i
  · exact .onSession s i _ fun _ => rfl

theorem State.forward_sorts (f : OutFlit) : s.Sorts (s.forward i f) i := by
  unfold State.forward
  dsimp only
  split
  · refine .onPort s _ i _ ?_
    split <;> exact ⟨rfl, List.suffix_refl _⟩
  · exact (State.Sorts.onSession s i (fun x => { x with coll := { x.coll with routeDrop := satAdd x.coll.routeDrop 1 } })
      fun _ => rfl).trans (State.neverAcked_sorts _ i _)

theorem State.sendChunk_sorts (dst : Nat) (o : Op) (header data : Bytes) : s.Sorts (s.sendChunk i dst o header data) i :=
  (State.Sorts.foldl (fun t f => t.forward_sorts i f) (chunkFlits dst (s.session i).rank (o.ctx, o.seq) header data) s).trans
    (.onSession _ i (fun x => { x with coll := { x.coll with chunksTx := satAdd x.coll.chunksTx 1 } }) fun _ => rfl)

/-! ### Steps of a collective -/

theorem State.finishOp_sorts (o : Op) (st : Status) : s.Sorts (s.finishOp i o st) i := .onSession s i _ fun _ => rfl

theorem State.closeJob_sorts (o : Op) (j : Job) : s.Sorts (s.closeJob i o j) i := by
  unfold State.closeJob
  split
  · exact .onSession s i _ fun _ => rfl
  · exact s.finishOp_sorts i o _

theorem State.copyChunk_sorts (o : Op) (c : Chunk) : s.Sorts (s.copyChunk i o c) i := by
  unfold State.copyChunk
  dsimp only
  have hjob := fun k codes scales => (s.sortsTo_job i o (clOutParty o.desc)).writeFlat o.desc k codes scales
  refine State.Sorts.trans ?_ (State.closeJob_sorts _ i _ _)
  exact State.Sorts.trans (hjob _ _ _).2 (.onSession _ i (fun x => x.dropChunks (· = c)) fun _ => rfl)

theorem State.residue_sorts (half fails retired taints : Nat) : s.Sorts (s.residue i half fails retired taints) i := by
  unfold State.residue
  refine State.Sorts.trans (t := { s with adders := vset s.adders half (min 40 (vget 0 s.adders half + retired)) })
    ⟨rfl, fun _ _ _ => rfl, fun k => (Port.Answers.refl (s.port k)).posts, rfl⟩ (.onSession _ i _ fun x => ?_)
  dsimp only
  split
  · rfl
  · exact Session.received_reason _ (by decide)

theorem State.reduceOwn_sorts (o : Op) (half : Nat) (faults : List AddFault) : s.Sorts (s.reduceOwn i o half faults) i := by
  unfold State.reduceOwn
  extract_lets x d group held c leaves late tagged
  split
  rename_i k n _
  extract_lets cuts fs bad hit taints t
  have ht : s.Sorts t i := by
    unfold t
    split
    · exact .refl s i
    · exact State.Sorts.trans (t := { s with draws := s.draws + bad.length })
        ⟨rfl, fun _ _ _ => rfl, fun k => (Port.Answers.refl (s.port k)).posts, rfl⟩ (State.residue_sorts _ i _ _ _ _)
  clear_value t
  split
  · exact .refl s i
  · split
    · exact .refl s i
    · extract_lets vals all u v j
      have hu : s.Sorts u i := ht.trans (.onSession t i _ fun _ => rfl)
      have hv : s.Sorts v i := hu.trans (u.perfEvent_sorts i _ _ _)
      clear_value v
      split
      rename_i codes sb cnt _
      extract_lets sent j' j'' w
      have hj : s.SortsTo i j'' :=
        (State.SortsTo.count (State.SortsTo.intake (j := j) ⟨rfl, hv⟩ _) _ _).writeFlat _ _ _ _
      clear_value j''
      have hw : s.Sorts w i := by
        unfold w
        split
        · refine hj.2.trans (.foldl (fun t r => ?_) _ _)
          split
          · exact .refl t i
          · exact .foldl (fun t c => t.sendChunk_sorts i _ _ _ _) _ _
        · exact hj.2
      exact hw.trans (State.closeJob_sorts w i _ _)

theorem State.advanceOne_sorts (half : Nat) (faults : List AddFault) (o : Op) : s.Sorts (s.advanceOne i half faults o) i := by
  unfold State.advanceOne
  split
  · exact .refl s i
  · split
    · extract_lets copies t
      have ht : s.Sorts t i := by
        refine .foldl (fun t c => ?_) _ _
        split
        · split
          · exact t.copyChunk_sorts i _ c
          · exact .refl t i
        · exact .refl t i
      clear_value t
      split
      · exact ht
      · extract_lets u
        have hu : s.Sorts u i := by
          unfold u
          split
          · exact ht.trans (t.reduceOwn_sorts i _ half faults)
          · exact ht
        clear_value u
        split
        · exact hu
        · split
          · split
            · exact hu.trans (u.finishOp_sorts i _ _)
            · exact hu
          · exact hu
    · exact .refl s i

end

/-! ### Credits -/

/-- Ports that have only answered. -/
def State.Answers (s t : State) : Prop := t = { s with ports := t.ports } ∧ ∀ k, (s.port k).Answers (t.port k)

section
variable {s t u : State} {i : Nat}

theorem State.Answers.refl (s : State) : s.Answers s := ⟨rfl, fun k => .refl (s.port k)⟩

theorem State.Answers.trans (h : s.Answers t) (g : t.Answers u) : s.Answers u := by
  obtain ⟨h1, h2⟩ := h
  obtain ⟨g1, g2⟩ := g
  refine ⟨?_, fun k => (h2 k).trans (g2 k)⟩
  rw [g1, h1]

theorem State.Answers.sorts (h : s.Answers t) (i : Nat) : s.Sorts t i := by
  obtain ⟨h1, h2⟩ := h
  have hsession : ∀ j, t.session j = s.session j := fun j => by rw [h1]; rfl
  refine ⟨?_, fun j _ _ => hsession j, fun k => (h2 k).posts, by rw [hsession]⟩
  rw [h1]

theorem State.Answers.onPort (s : State) (p : Nat) (f : Port → Port) (hf : (s.port p).Answers (f (s.port p))) :
    s.Answers (s.onPort p f) := by
  refine ⟨rfl, fun k => ?_⟩
  by_cases hk : p = k
  · subst hk
    rcases s.port_onPort p f p with e | e <;> rw [e]
    · exact .refl _
    · exact hf
  · rw [State.onPort, State.setPort_other s _ hk]
    exact .refl _

/-- R255, R280: credits go back by control blocks alone. -/
theorem State.settleCredits_answers (s : State) (i : Nat) : s.Answers (s.settleCredits i) := by
  unfold State.settleCredits
  generalize List.range 18 = l
  induction l generalizing s with
  | nil => exact .refl s
  | cons p l ih =>
    refine .trans ?_ (ih _)
    dsimp only
    split
    · refine .trans (t := s.sendCtl p 3 (le 2 (min (s.port p).owed 65535) ++ le 2 0)) ?_ ?_
      · exact State.Answers.onPort s p (fun _ => (s.port p).sent _ 3 _) (Port.sent_answers _ _ _ _)
      · exact .onPort _ p _ ⟨rfl, List.suffix_refl _⟩
    · exact .refl s

/-- A launched collective of the session takes what has arrived, and credits go back. -/
theorem State.advanceColl_sorts (s : State) (i half : Nat) (faults : List AddFault) :
    s.Sorts (s.advanceColl i half faults) i := by
  have hstale : s.Sorts (s.onSession i Session.dropStale) i := .onSession s i _ fun _ => rfl
  have hops := State.Sorts.foldl (fun t o => t.advanceOne_sorts i half faults o)
    ((s.onSession i Session.dropStale).session i).ops (s.onSession i Session.dropStale)
  exact hstale.trans (hops.trans ((State.settleCredits_answers _ i).sorts i))

end

end Sys2Proof.Machine
end

section
/-! PROOFS. The DATA flits that are delivered: what serving one leaves of the machine, of its port and of its session, by
whether its generation is stale, it goes on to another member, or it lands here. -/

namespace Sys2Proof.Machine

/-! ### A flit is counted and joins its chunk -/

/-- A port that has counted a DATA flit and owes its credit. -/
def Port.served (q : Port) : Port := { q with dataRx := satAdd q.dataRx 1, owed := q.owed + 1 }

/-- A DATA flit is counted on its port. -/
def State.served (s : State) (p : Nat) : State :=
  (s.perfEvent (s.portSession p) (4 + p / 9) (0x220 + p) 1).onPort p Port.served

/-- A DATA flit is counted and, where it is for this member, joins its chunk. -/
def State.reached (s : State) (p : Nat) (a : Arrived) : State :=
  if a.gen = s.linkGen (s.portSession p) ∧ a.flit.dst = (s.session (s.portSession p)).rank then
    (s.served p).onSession (s.portSession p) fun x => x.landFlit (portHalf p) a.tainted a.flit
  else s.served p

section
variable (s : State) (p : Nat) (a : Arrived)

theorem State.served_cases : ∃ pf d r, s.served p = State.setPort
    { s with
      perf := pf, draws := d
      sessions := vset s.sessions (s.portSession p) { s.session (s.portSession p) with ring := r } } p (s.port p).served := by
  obtain ⟨pf, d, r, hcount⟩ := s.perfEvent_sampled (s.portSession p) (4 + p / 9) (0x220 + p) 1
  refine ⟨pf, d, r, ?_⟩
  rw [State.served, hcount]
  rfl

theorem State.served_session (j : Nat) : ∃ r, (s.served p).session j = { s.session j with ring := r } :=
  (s.perfEvent_sampled (s.portSession p) (4 + p / 9) (0x220 + p) 1).session j

theorem State.served_linkGen (i : Nat) : (s.served p).linkGen i = s.linkGen i := by
  obtain ⟨pf, d, r, h⟩ := s.served_cases p
  rw [h]
  rfl

theorem State.served_rank (i : Nat) : ((s.served p).session i).rank = (s.session i).rank := by
  obtain ⟨r, h⟩ := s.served_session p i
  rw [h]
  rfl

/-- What counting a flit keeps of a session. -/
theorem State.served_keeps (i : Nat) : ((s.served p).session i).coll = (s.session i).coll ∧
    ((s.served p).session i).landing = (s.session i).landing ∧
    ((s.served p).session i).voteReasons = (s.session i).voteReasons ∧
    ∀ f, ((s.served p).session i).chunkOf f = (s.session i).chunkOf f := by
  obtain ⟨r, h⟩ := s.served_session p i
  rw [h]
  exact ⟨rfl, rfl, rfl, fun _ => rfl⟩

theorem State.served_port (hp : p < 18) : (s.served p).port p = (s.port p).served := by
  obtain ⟨pf, d, r, h⟩ := s.served_cases p
  rw [h, State.setPort_same _ _ hp]

theorem State.served_port_other {k : Nat} (hk : p ≠ k) : (s.served p).port k = s.port k := by
  obtain ⟨pf, d, r, h⟩ := s.served_cases p
  rw [h, State.setPort_other _ _ hk]
  rfl

/-- R284: a DATA flit of another generation. -/
theorem State.serveFlit_of_stale (h : a.gen ≠ s.linkGen (s.portSession p)) : s.serveFlit p a =
    ((s.served p).staleFlit (s.portSession p) a.flit
      (((s.served p).session (s.portSession p)).chunkOf a.flit)).settleCredits (s.portSession p) :=
  if_pos ((congrArg (a.gen ≠ ·) (s.served_linkGen p _)).mpr h)

/-- R258: a DATA flit for another member. -/
theorem State.serveFlit_of_forward (hgen : a.gen = s.linkGen (s.portSession p))
    (hdst : a.flit.dst ≠ (s.session (s.portSession p)).rank) :
    s.serveFlit p a = ((s.served p).forward (s.portSession p) a.flit).settleCredits (s.portSession p) :=
  (if_neg (not_not_intro (hgen.trans (s.served_linkGen p _).symm))).trans
    (if_pos ((congrArg (a.flit.dst ≠ ·) (s.served_rank p _)).mpr hdst))

/-- R258: a DATA flit for this member. -/
theorem State.serveFlit_of_land (hgen : a.gen = s.linkGen (s.portSession p))
    (hdst : a.flit.dst = (s.session (s.portSession p)).rank) : s.serveFlit p a =
    ((s.served p).onSession (s.portSession p) fun x => x.landFlit (portHalf p) a.tainted a.flit).advanceColl
      (s.portSession p) (portHalf p) a.faults :=
  (if_neg (not_not_intro (hgen.trans (s.served_linkGen p _).symm))).trans
    (if_neg (not_not_intro (hdst.trans (s.served_rank p _).symm)))

theorem State.staleFlit_sorts (s : State) {i : Nat} (hi : i < 4) (f : OutFlit) (h : Option Bytes) :
    s.Sorts (s.staleFlit i f h) i := by
  obtain ⟨ops, hstale⟩ := s.staleFlit_session f h hi
  rw [hstale]
  exact State.Sorts.trans (t := s.onSession i fun x => { x.staled (h.filter fun _ => f.dst = x.rank) with ops := ops })
    (.onSession s i _ fun _ => rfl) (.refl _ i)

theorem State.portSession_lt : s.portSession p < 4 := (s.port p).session.isLt

/-- Whatever becomes of a DATA flit once it has been counted is work of the Sorting Office. -/
theorem State.serveFlit_sorts : (s.reached p a).Sorts (s.serveFlit p a) (s.portSession p) := by
  by_cases hgen : a.gen = s.linkGen (s.portSession p)
  · by_cases hdst : a.flit.dst = (s.session (s.portSession p)).rank
    · rw [s.serveFlit_of_land p a hgen hdst, State.reached, if_pos ⟨hgen, hdst⟩]
      exact State.advanceColl_sorts _ _ _ _
    · rw [s.serveFlit_of_forward p a hgen hdst, State.reached, if_neg fun h => hdst h.2]
      exact ((s.served p).forward_sorts _ _).trans ((State.settleCredits_answers _ _).sorts _)
  · rw [s.serveFlit_of_stale p a hgen, State.reached, if_neg fun h => hgen h.1]
    exact ((s.served p).staleFlit_sorts (s.portSession_lt p) _ _).trans ((State.settleCredits_answers _ _).sorts _)

theorem State.reached_port (hp : p < 18) : (s.reached p a).port p = (s.port p).served := by
  unfold State.reached
  split <;> exact s.served_port p hp

theorem State.reached_frame : (s.reached p a).tallies = s.tallies ∧ (s.reached p a).mailboxes = s.mailboxes ∧
    (s.reached p a).slots = s.slots ∧ (s.reached p a).lc = s.lc ∧ (s.reached p a).resets = s.resets ∧
    ∀ j < 4, j ≠ s.portSession p → (s.reached p a).session j = s.session j := by
  obtain ⟨pf, d, r, h⟩ := s.served_cases p
  have hother : ∀ j, j ≠ s.portSession p → (s.served p).session j = s.session j := fun j hj => by
    rw [h]
    exact vget_vset_other _ _ _ (Ne.symm hj)
  unfold State.reached
  split
  · refine ⟨?_, ?_, ?_, ?_, ?_, fun j _ hj => ?_⟩
    · rw [h]; rfl
    · rw [h]; rfl
    · rw [h]; rfl
    · rw [h]; rfl
    · rw [h]; rfl
    · rw [State.onSession_other _ _ (Ne.symm hj), hother j hj]
  · refine ⟨?_, ?_, ?_, ?_, ?_, fun j _ hj => hother j hj⟩ <;> rw [h] <;> rfl

/-- What serving a flit leaves of the machine, of the other sessions and of its port. -/
theorem State.serveFlit_frame (hp : p < 18) :
    (s.serveFlit p a).tallies = s.tallies ∧ (s.serveFlit p a).mailboxes = s.mailboxes ∧
    (s.serveFlit p a).slots = s.slots ∧ (s.serveFlit p a).lc = s.lc ∧ (s.serveFlit p a).resets = s.resets ∧
    (∀ j < 4, j ≠ s.portSession p → (s.serveFlit p a).session j = s.session j) ∧
    (s.port p).served.Posts ((s.serveFlit p a).port p) := by
  obtain ⟨h1, h2, h3, _⟩ := s.serveFlit_sorts p a
  obtain ⟨htally, hmail, hslot, hlc, hreset, hsession⟩ := s.reached_frame p a
  refine ⟨?_, ?_, ?_, ?_, ?_, fun j hj hji => (h2 j hj hji).trans (hsession j hj hji), ?_⟩
  · rw [h1]; exact htally
  · rw [h1]; exact hmail
  · rw [h1]; exact hslot
  · rw [h1]; exact hlc
  · rw [h1]; exact hreset
  · rw [← s.reached_port p a hp]; exact h3 p

/-! ### What it leaves of its session -/

theorem Session.landFlit_tags (x : Session) (half : Nat) (t : Bool) (f : OutFlit) :
    (x.landFlit half t f).coll.tagTaint = x.coll.tagTaint ∧ (x.landFlit half t f).voteReasons = x.voteReasons := by
  unfold Session.landFlit
  dsimp only
  split
  · exact ⟨rfl, rfl⟩
  · split <;> exact ⟨rfl, rfl⟩

/-- A flit that is a chunk of its own completes it. -/
theorem Session.landFlit_whole (x : Session) (half : Nat) (t : Bool) {f : OutFlit} (hfirst : f.first = true)
    (hlast : f.last = true) : (x.landFlit half t f).coll.chunksRx = satAdd x.coll.chunksRx 1 := by
  unfold Session.landFlit
  simp [hfirst, hlast]

/-- A flit served neither adds to the tags that tainted a chunk nor takes the LINK_TAG reason away. -/
theorem State.serveFlit_tags : ((s.serveFlit p a).session (s.portSession p)).coll.tagTaint =
      (s.session (s.portSession p)).coll.tagTaint ∧
    ((s.serveFlit p a).session (s.portSession p)).voteReasons &&& rsLinkTag =
      (s.session (s.portSession p)).voteReasons &&& rsLinkTag := by
  obtain ⟨_, _, _, hreceived⟩ := s.serveFlit_sorts p a
  obtain ⟨hcoll, _, hvotes, _⟩ := s.served_keeps p (s.portSession p)
  have htags : ((s.reached p a).session (s.portSession p)).coll.tagTaint = (s.session (s.portSession p)).coll.tagTaint ∧
      ((s.reached p a).session (s.portSession p)).voteReasons = (s.session (s.portSession p)).voteReasons := by
    unfold State.reached
    split
    · obtain ⟨h1, h2⟩ := Session.landFlit_tags ((s.served p).session (s.portSession p)) (portHalf p) a.tainted a.flit
      rw [State.onSession_same _ _ (s.portSession_lt p), h1, h2, hcoll, hvotes]
      exact ⟨rfl, rfl⟩
    · rw [hcoll, hvotes]
      exact ⟨rfl, rfl⟩
  exact ⟨(congrArg (fun e => e.1) hreceived).trans htags.1,
    (congrArg (fun e => e.2.2) hreceived).trans (congrArg (· &&& rsLinkTag) htags.2)⟩

/-- R280: a chunk that lands whole is counted. -/
theorem State.serveFlit_lands (hgen : a.gen = s.linkGen (s.portSession p))
    (hdst : a.flit.dst = (s.session (s.portSession p)).rank) (hfirst : a.flit.first = true) (hlast : a.flit.last = true) :
    ((s.serveFlit p a).session (s.portSession p)).coll.chunksRx =
      satAdd (s.session (s.portSession p)).coll.chunksRx 1 := by
  obtain ⟨_, _, _, hreceived⟩ := s.serveFlit_sorts p a
  obtain ⟨hcoll, _⟩ := s.served_keeps p (s.portSession p)
  have hchunks : ((s.reached p a).session (s.portSession p)).coll.chunksRx =
      satAdd (s.session (s.portSession p)).coll.chunksRx 1 := by
    rw [State.reached, if_pos ⟨hgen, hdst⟩, State.onSession_same _ _ (s.portSession_lt p),
      Session.landFlit_whole _ _ _ hfirst hlast, hcoll]
  exact (congrArg (fun e => e.2.1) hreceived).trans hchunks

theorem State.Answers.session {s t : State} (h : s.Answers t) (j : Nat) : t.session j = s.session j := by
  obtain ⟨h, _⟩ := h
  rw [h]
  rfl

theorem Session.lost_staled (x : Session) (h : Bytes) :
    (hdrColl h, hdrStep h, hdrAttempt h) ∈ (x.staled (some h)).lost := List.mem_cons_self

/-- R284: a stale flit is counted, and the collective its chunk is for is lost. -/
theorem State.serveFlit_stale (hgen : a.gen ≠ s.linkGen (s.portSession p)) :
    ((s.serveFlit p a).session (s.portSession p)).coll = { (s.session (s.portSession p)).coll with
      staleDrop := satAdd (s.session (s.portSession p)).coll.staleDrop 1 } ∧
    ((s.serveFlit p a).session (s.portSession p)).landing = (s.session (s.portSession p)).landing ∧
    (a.flit.dst = (s.session (s.portSession p)).rank → ∀ h, (s.session (s.portSession p)).chunkOf a.flit = some h →
      (hdrColl h, hdrStep h, hdrAttempt h) ∈ ((s.serveFlit p a).session (s.portSession p)).lost) := by
  obtain ⟨hcoll, hlanding, _, hchunkOf⟩ := s.served_keeps p (s.portSession p)
  have hrank := s.served_rank p (s.portSession p)
  obtain ⟨ops, hstale⟩ := (s.served p).staleFlit_session a.flit (((s.served p).session (s.portSession p)).chunkOf a.flit)
    (s.portSession_lt p)
  rw [s.serveFlit_of_stale p a hgen, (State.settleCredits_answers _ _).session, hstale,
    State.setSession_same _ _ (s.portSession_lt p)]
  refine ⟨?_, hlanding, fun hdst h hchunk => ?_⟩
  · dsimp only [Session.staled]
    rw [hcoll]
  · have hkept : (((s.served p).session (s.portSession p)).chunkOf a.flit).filter
        (fun _ => a.flit.dst = ((s.served p).session (s.portSession p)).rank) = some h := by
      rw [hchunkOf, hchunk, hrank]
      simp [Option.filter, hdst]
    rw [hkept]
    exact Session.lost_staled _ h

theorem State.neverAcked_coll (s : State) (i : Nat) (l : List OutFlit) :
    ((s.neverAcked i l).session i).coll = (s.session i).coll ∧
      ((s.neverAcked i l).session i).landing = (s.session i).landing := by
  unfold State.neverAcked
  extract_lets ws
  split
  · exact ⟨rfl, rfl⟩
  · by_cases hi : i < 4
    · rw [State.onSession_same s _ hi]
      exact ⟨rfl, rfl⟩
    · rw [State.session, State.onSession, State.setSession, vset_beyond _ _ (by omega)]
      exact ⟨rfl, rfl⟩

/-- R258: a flit for another member is queued on the routed port. -/
theorem State.forward_routed {i k : Nat} {f : OutFlit} (hroute : s.route (s.session i) f.dst = some k)
    (hdata : f.type = 1) : s.forward i f = s.onPort k fun q => { q with data := q.data ++ [{ f with gen := s.linkGen i }] } := by
  unfold State.forward
  dsimp only
  rw [hroute]
  dsimp only
  simp only [hdata, if_true]

/-- R258: a flit that no port leads on is dropped and counted. -/
theorem State.forward_dropped {i : Nat} {f : OutFlit} (hroute : s.route (s.session i) f.dst = none) : s.forward i f =
    (s.onSession i fun x => { x with coll := { x.coll with routeDrop := satAdd x.coll.routeDrop 1 } }).neverAcked i
      [{ f with gen := s.linkGen i }] := by
  unfold State.forward
  dsimp only
  rw [hroute]

theorem State.route_served (hp : p < 18) (x : Session) (r : Option SampleRing) (dst : Nat) :
    (s.served p).route { x with ring := r } dst = s.route x dst := by
  have hport : ∀ k, ((s.served p).port k).runs = (s.port k).runs := fun k => by
    by_cases hk : p = k
    · subst hk
      rw [s.served_port p hp]
      rfl
    · rw [s.served_port_other p hk]
  have hheld : ∀ k, (s.served p).blockHeld (.port k) = s.blockHeld (.port k) := fun k => by
    obtain ⟨pf, d, r, h⟩ := s.served_cases p
    rw [h]
    rfl
  unfold State.route
  dsimp only
  rw [hport, hheld]
  rfl

theorem State.route_lt {s : State} {x : Session} {dst k : Nat} (h : s.route x dst = some k) : k < 18 := by
  by_contra hk
  have hreset : s.port k = Port.reset := vget_beyond _ _ (by omega)
  unfold State.route at h
  dsimp only at h
  split at h
  · rename_i hgoes
    obtain ⟨_, _, hruns, _⟩ := hgoes
    rw [Option.some.inj h, hreset] at hruns
    exact absurd hruns (by decide)
  · exact absurd h (by simp)

/-- R258: a DATA flit for another member is queued on the routed port, or dropped and counted. -/
theorem State.serveFlit_forwards (hp : p < 18) (hgen : a.gen = s.linkGen (s.portSession p))
    (hdst : a.flit.dst ≠ (s.session (s.portSession p)).rank) (hdata : a.flit.type = 1) :
    ((s.serveFlit p a).session (s.portSession p)).landing = (s.session (s.portSession p)).landing ∧
    (∀ k, s.route (s.session (s.portSession p)) a.flit.dst = some k →
      ((s.serveFlit p a).port k).data = (s.port k).data ++ [{ a.flit with gen := s.linkGen (s.portSession p) }]) ∧
    (s.route (s.session (s.portSession p)) a.flit.dst = none →
      ((s.serveFlit p a).session (s.portSession p)).coll.routeDrop =
        satAdd (s.session (s.portSession p)).coll.routeDrop 1) := by
  obtain ⟨hcoll, hlanding, _⟩ := s.served_keeps p (s.portSession p)
  have hroute : (s.served p).route ((s.served p).session (s.portSession p)) a.flit.dst =
      s.route (s.session (s.portSession p)) a.flit.dst := by
    obtain ⟨r, hserved⟩ := s.served_session p (s.portSession p)
    rw [hserved, s.route_served p hp]
  have hanswers := State.settleCredits_answers ((s.served p).forward (s.portSession p) a.flit) (s.portSession p)
  rw [s.serveFlit_of_forward p a hgen hdst, hanswers.session]
  refine ⟨?_, fun k hk => ?_, fun hnone => ?_⟩
  · cases hto : s.route (s.session (s.portSession p)) a.flit.dst with
    | some k =>
      rw [(s.served p).forward_routed (hroute.trans hto) hdata]
      exact hlanding
    | none =>
      rw [(s.served p).forward_dropped (hroute.trans hto), (State.neverAcked_coll _ _ _).2,
        State.onSession_same _ _ (s.portSession_lt p)]
      exact hlanding
  · have hport := (hanswers.2 k).1
    rw [hport]
    dsimp only
    rw [(s.served p).forward_routed (hroute.trans hk) hdata, State.onPort, State.setPort_same _ _ (State.route_lt hk),
      s.served_linkGen p]
    dsimp only
    by_cases hpk : p = k
    · subst hpk
      rw [s.served_port p hp]
      rfl
    · rw [s.served_port_other p hpk]
  · rw [(s.served p).forward_dropped (hroute.trans hnone), (State.neverAcked_coll _ _ _).1,
      State.onSession_same _ _ (s.portSession_lt p)]
    exact congrArg (fun c => satAdd c.routeDrop 1) hcoll

end

end Sys2Proof.Machine
end

section
/-! PROOFS. DATA flits in order: delivered in PS0 or kept for it, and those that are used although their tag failed. -/

namespace Sys2Proof.Machine

/-! ### The port that took a flit -/

theorem Port.Posts.keeps {q r : Port} (h : q.Posts r) : r.rxSlot = q.rxSlot ∧ r.rxSeq = q.rxSeq ∧
    r.discarding = q.discarding ∧ r.dataRx = q.dataRx ∧ r.tagFail = q.tagFail ∧ ∀ b ∈ q.sentBlocks, b ∈ r.sentBlocks := by
  obtain ⟨hr, hb⟩ := h
  refine ⟨?_, ?_, ?_, ?_, ?_, fun b hmem => hb.subset hmem⟩
  · rw [hr]
  · rw [hr]
  · rw [hr]
  · rw [hr]
  · rw [hr]

theorem Port.took_ends (q : Port) : q.took.ends = q.ends := rfl

theorem Port.mem_sent (q : Port) (key : Bytes) (type : Nat) (body : Bytes) :
    ctlBlock key q.txCtl type body ∈ (q.sent key type body).sentBlocks := by
  unfold Port.sent
  generalize ctlBlock key q.txCtl type body = b
  rcases Port.limit_cases { q with txCtl := q.txCtl + 1, sentBlocks := b :: q.sentBlocks } with e | e <;> rw [e] <;>
    exact List.mem_cons_self

/-- A port whose counters are not at their end, and whose next control block does not bring them there, runs on. -/
theorem Port.sent_runs {q : Port} {key : Bytes} {type : Nat} {body : Bytes} (hruns : q.runs = true)
    (hslots : ¬ [q.txSlot, q.rxSlot, q.rxCtl].contains (BitVec.allOnes 64)) (hctl : q.txCtl + 1 ≠ BitVec.allOnes 64) :
    (q.sent key type body).runs = true := by
  have hend : ¬ [q.txSlot, q.rxSlot, q.txCtl + 1, q.rxCtl].contains (BitVec.allOnes 64) := by
    simp only [List.contains_cons, Bool.or_eq_true, not_or, List.contains_nil, beq_iff_eq] at hslots ⊢
    exact ⟨hslots.1, hslots.2.1, fun h => hctl h.symm, hslots.2.2⟩
  unfold Port.sent Port.limit
  rw [if_neg hend]
  exact hruns

theorem Port.counted_slots {q : Port} {n : Nat} (h : (q.counted n).runs = true) :
    ¬ [(q.counted n).txSlot, (q.counted n).rxSlot, (q.counted n).rxCtl].contains (BitVec.allOnes 64) := by
  rw [Port.counted_of_runs h]
  intro hend
  unfold Port.counted Port.limit at h
  rw [if_pos (by
    simp only [List.contains_cons, Bool.or_eq_true, List.contains_nil] at hend ⊢
    rcases hend with h1 | h1 | h1 | h1
    · exact .inl h1
    · exact .inr (.inl h1)
    · exact .inr (.inr (.inr (.inl h1)))
    · exact absurd h1 (by decide)), Port.down_runs] at h
  exact Bool.noConfusion h

/-! ### Delivery -/

section
variable (s : State) (p : Nat) (f : InFlit) (tainted : Bool) (faults : List AddFault)

theorem State.stir_waking (s : State) (h : s.power.power = .ps1) :
    s.stir.power.waking = true ∧ s.stir.sessions = s.sessions ∧ s.stir.ports = s.ports := by
  unfold State.stir
  split
  · exact ⟨rfl, rfl, rfl⟩
  · rename_i hnot
    refine ⟨?_, rfl, rfl⟩
    by_contra hw
    exact hnot ⟨h, hw⟩

theorem State.deliver_asleep (h : s.power.power = .ps1) : s.deliver p f tainted faults =
    s.stir.onPort p fun q => { q with arrived := q.arrived ++ [⟨f.flit, f.gen, tainted, faults⟩] } := if_pos h

theorem State.deliver_awake (h : s.power.power ≠ .ps1) : s.deliver p f tainted faults =
    s.serveFlit p ⟨f.flit, f.gen, tainted, faults⟩ := if_neg h

/-- Delivery, at once or not, leaves its port's place in the sequence and its count of failed tags, and its session's
count of tainted tags and LINK_TAG reason. -/
theorem State.deliver_keeps (hp : p < 18) :
    ((s.deliver p f tainted faults).port p).tagFail = (s.port p).tagFail ∧
    ((s.deliver p f tainted faults).port p).rxSeq = (s.port p).rxSeq ∧
    ((s.deliver p f tainted faults).session (s.portSession p)).coll.tagTaint =
      (s.session (s.portSession p)).coll.tagTaint ∧
    ((s.deliver p f tainted faults).session (s.portSession p)).voteReasons &&& rsLinkTag =
      (s.session (s.portSession p)).voteReasons &&& rsLinkTag := by
  by_cases hps : s.power.power = .ps1
  · obtain ⟨_, hsessions, hports⟩ := s.stir_waking hps
    have hport : s.stir.port p = s.port p := by rw [State.port, hports]; rfl
    have hsession : ∀ j, ((s.deliver p f tainted faults).session j) = s.session j := fun j => by
      rw [s.deliver_asleep p f tainted faults hps, State.session, State.onPort_sessions, hsessions]; rfl
    rw [hsession, s.deliver_asleep p f tainted faults hps, State.onPort, State.setPort_same _ _ hp, hport]
    exact ⟨rfl, rfl, rfl, rfl⟩
  · rw [s.deliver_awake p f tainted faults hps]
    obtain ⟨htaint, hvote⟩ := s.serveFlit_tags p ⟨f.flit, f.gen, tainted, faults⟩
    obtain ⟨_, _, _, _, _, _, hport⟩ := s.serveFlit_frame p ⟨f.flit, f.gen, tainted, faults⟩ hp
    obtain ⟨_, hseq, _, _, hfail, _⟩ := hport.keeps
    exact ⟨hfail, hseq, htaint, hvote⟩

end

/-! ### A tag that failed too late -/

/-- R288, R289: the session of a flit that is used although its tag failed. -/
def Session.taintedBy (x : Session) (o : Op) : Session :=
  (({ x with coll := { x.coll with tagTaint := satAdd x.coll.tagTaint 1 } } : Session).setOp { o with taint := true }).reason
    rsLinkTag

theorem Session.taintedBy_votes (x : Session) (o : Op) : (x.taintedBy o).voteReasons &&& rsLinkTag = rsLinkTag := by
  change (x.voteReasons ||| rsLinkTag) &&& rsLinkTag = rsLinkTag
  generalize rsLinkTag = r
  refine BitVec.eq_of_getLsbD_eq fun k _ => ?_
  rw [BitVec.getLsbD_and, BitVec.getLsbD_or]
  cases r.getLsbD k <;> simp

theorem State.feeds_some {s : State} {p : Nat} {f : InFlit} {o : Op} (h : s.feeds p f = some o) :
    f.flit.type = 1 ∧ f.seq = (s.port p).rxSeq := by
  unfold State.feeds at h
  dsimp only at h
  split at h
  · rename_i hfeeds
    obtain ⟨htype, _, hseq, _⟩ := hfeeds
    exact ⟨htype, hseq⟩
  · exact absurd h (by simp)

theorem State.consumed_feeds {s : State} {p : Nat} {f : InFlit} (h : s.consumed p f = true) : ∃ o, s.feeds p f = some o := by
  unfold State.consumed at h
  cases hfeeds : s.feeds p f with
  | some o => exact ⟨o, rfl⟩
  | none => rw [hfeeds] at h; exact absurd h (by simp)

section
variable {s : State} {p : Nat} {f : InFlit} {faults : List AddFault} (hp : p < 18) (hruns : (s.port p).runs = true)
include hp hruns

/-- The state in which a flit whose tag failed too late is delivered. -/
theorem State.taintedFlit_eq {o : Op} (hfeeds : s.feeds p f = some o) : s.taintedFlit p f faults =
    ((State.setPort { s with draws := s.draws + 1 } p
      (((s.port p).counted (Config.correctedCodewords s.draws)).tagFailed.took.sent (s.portKey p "KRELAS-CTRL" true) 1
        (le 2 f.seq.toNat))).onSession (s.port p).session.toNat fun x => x.taintedBy o).deliver p f true faults := by
  obtain ⟨htype, hseq⟩ := State.feeds_some hfeeds
  have hfailed : ((s.port p).counted (Config.correctedCodewords s.draws)).tagFailed.ends = (s.port p).ends ∧
      ((s.port p).counted (Config.correctedCodewords s.draws)).tagFailed.rxSeq = (s.port p).rxSeq := by
    obtain ⟨hcounted, _⟩ := Port.counted_keeps (s.port p) (Config.correctedCodewords s.draws)
    have hends := Port.counted_ends (s.port p) (Config.correctedCodewords s.draws)
    generalize (s.port p).counted (Config.correctedCodewords s.draws) = v at hcounted hends ⊢
    rw [Port.tagFailed_eq]
    split <;> exact ⟨hends, hcounted⟩
  have horder := State.inOrder_data (s := { s with draws := s.draws + 1 }) (f := f) hp hfailed.1 htype
    (hseq.trans hfailed.2.symm)
  unfold State.taintedFlit
  dsimp only [State.portSession]
  rw [State.countSlot_of_runs hruns, State.onPort_setPort hp, horder, hfeeds]
  rfl

theorem State.taintedFlit_votes (hleft : s.consumed p f = true) :
    ((s.taintedFlit p f faults).port p).tagFail =
      satAdd ((s.port p).counted (Config.correctedCodewords s.draws)).tagFail 1 ∧
    ((s.taintedFlit p f faults).port p).rxSeq = ((s.port p).counted (Config.correctedCodewords s.draws)).rxSeq + 1 ∧
    ((s.taintedFlit p f faults).session (s.port p).session.toNat).coll.tagTaint =
      satAdd (s.session (s.port p).session.toNat).coll.tagTaint 1 ∧
    ((s.taintedFlit p f faults).session (s.port p).session.toNat).voteReasons &&& rsLinkTag = rsLinkTag := by
  obtain ⟨o, hfeeds⟩ := State.consumed_feeds hleft
  rw [State.taintedFlit_eq hp hruns hfeeds]
  have hcounted := Port.counted_ends (s.port p) (Config.correctedCodewords s.draws)
  generalize (s.port p).counted (Config.correctedCodewords s.draws) = v at hcounted ⊢
  generalize hw : v.tagFailed.took.sent (s.portKey p "KRELAS-CTRL" true) 1 (le 2 f.seq.toNat) = w
  have hposts : v.tagFailed.took.Posts w := by rw [← hw]; exact (Port.sent_answers _ _ _ _).posts
  obtain ⟨_, hseq, _, _, hfail, _⟩ := hposts.keeps
  have hends : w.session = (s.port p).session := by
    have htag : v.tagFailed.ends = v.ends := by
      rw [Port.tagFailed_eq]
      split <;> rfl
    have hchain : w.ends = (s.port p).ends := by
      rw [← hw, Port.sent_ends, Port.took_ends]
      exact htag.trans hcounted
    exact congrArg (fun e => e.1) hchain
  generalize ht : ((State.setPort { s with draws := s.draws + 1 } p w).onSession (s.port p).session.toNat
    fun x => x.taintedBy o) = t
  have hport : t.port p = w := by
    rw [← ht, State.port, State.onSession_ports]
    exact State.setPort_same _ w hp
  have hsession : t.portSession p = (s.port p).session.toNat := by rw [State.portSession, hport, hends]
  have hown : t.session (s.port p).session.toNat = (s.session (s.port p).session.toNat).taintedBy o := by
    rw [← ht, State.onSession_same _ _ (s.port p).session.isLt]
    rfl
  obtain ⟨h1, h2, h3, h4⟩ := t.deliver_keeps p f true faults hp
  rw [hsession, hown] at h3 h4
  have htagged : v.tagFailed.tagFail = satAdd v.tagFail 1 ∧ v.tagFailed.rxSeq = v.rxSeq := by
    rw [Port.tagFailed_eq]
    split <;> exact ⟨rfl, rfl⟩
  rw [hport] at h1 h2
  refine ⟨h1.trans (hfail.trans htagged.1), h2.trans (hseq.trans (congrArg (· + 1) htagged.2)), h3, ?_⟩
  exact h4.trans (Session.taintedBy_votes _ o)

end

end Sys2Proof.Machine
end

section
/-! PROOFS. A DATA flit in its place: the state in which it is delivered, and what its delivery leaves. -/

namespace Sys2Proof.Machine

/-! ### The port and the state once it is acknowledged -/

/-- A port that has counted the slot of a DATA flit, taken it in order and acknowledged it. -/
def State.ackedPort (s : State) (p : Nat) (seq : BitVec 12) : Port :=
  ((s.port p).counted (Config.correctedCodewords s.draws)).took.sent (s.portKey p "KRELAS-CTRL" true) 1 (le 2 seq.toNat)

/-- The state in which a DATA flit in order is delivered. -/
def State.acked (s : State) (p : Nat) (seq : BitVec 12) : State :=
  State.setPort { s with draws := s.draws + 1 } p (s.ackedPort p seq)

section
variable {s : State} {p : Nat} {seq : BitVec 12}

theorem State.acked_port (hp : p < 18) : (s.acked p seq).port p = s.ackedPort p seq := State.setPort_same _ _ hp

theorem State.acked_port_other {k : Nat} (hk : p ≠ k) : (s.acked p seq).port k = s.port k := State.setPort_other _ _ hk

theorem State.acked_portSession (hp : p < 18) : (s.acked p seq).portSession p = (s.port p).session.toNat := by
  have hends : (s.ackedPort p seq).ends = (s.port p).ends := by
    rw [State.ackedPort, Port.sent_ends, Port.took_ends, Port.counted_ends]
  have hsession : (s.ackedPort p seq).session = (s.port p).session := congrArg (fun e => e.1) hends
  rw [State.portSession, State.acked_port hp, hsession]

variable (hon : ((s.port p).counted (Config.correctedCodewords s.draws)).runs = true)
include hon

/-- Of a port that goes on, acknowledging a flit changes the slot, the place in the sequence and the control blocks. -/
theorem State.ackedPort_keeps : (s.ackedPort p seq).rxSlot = (s.port p).rxSlot + 1 ∧
    (s.ackedPort p seq).rxSeq = (s.port p).rxSeq + 1 ∧ (s.ackedPort p seq).discarding = false ∧
    (s.ackedPort p seq).dataRx = (s.port p).dataRx ∧ (s.ackedPort p seq).arrived = (s.port p).arrived ∧
    (s.ackedPort p seq).data = (s.port p).data ∧
    ctlBlock (s.portKey p "KRELAS-CTRL" true) (s.port p).txCtl 1 (le 2 seq.toNat) ∈ (s.ackedPort p seq).sentBlocks := by
  have hmem := Port.mem_sent ((s.port p).counted (Config.correctedCodewords s.draws)).took
    (s.portKey p "KRELAS-CTRL" true) 1 (le 2 seq.toNat)
  obtain ⟨hkeeps, _⟩ := Port.sent_answers ((s.port p).counted (Config.correctedCodewords s.draws)).took
    (s.portKey p "KRELAS-CTRL" true) 1 (le 2 seq.toNat)
  rw [← State.ackedPort] at hmem hkeeps
  rw [Port.counted_of_runs hon] at hmem hkeeps
  refine ⟨?_, ?_, ?_, ?_, ?_, ?_, hmem⟩
  · rw [hkeeps]; rfl
  · rw [hkeeps]; rfl
  · rw [hkeeps]; rfl
  · rw [hkeeps]; rfl
  · rw [hkeeps]; rfl
  · rw [hkeeps]; rfl

theorem State.acked_data (hp : p < 18) (k : Nat) : ((s.acked p seq).port k).data = (s.port k).data := by
  by_cases hk : p = k
  · subst hk
    obtain ⟨_, _, _, _, _, hdata, _⟩ := State.ackedPort_keeps (seq := seq) hon
    rw [State.acked_port hp, hdata]
  · rw [State.acked_port_other hk]

theorem State.acked_runs (hp : p < 18) (hruns : (s.port p).runs = true)
    (hctl : (s.port p).txCtl + 1 ≠ BitVec.allOnes 64) (k : Nat) : ((s.acked p seq).port k).runs = (s.port k).runs := by
  by_cases hk : p = k
  · subst hk
    have hsame : ((s.port p).counted (Config.correctedCodewords s.draws)).txCtl = (s.port p).txCtl := by
      rw [Port.counted_of_runs hon]
    rw [State.acked_port hp, hruns]
    exact Port.sent_runs hon (Port.counted_slots hon) (by rw [← hsame] at hctl; exact hctl)
  · rw [State.acked_port_other hk]

theorem State.acked_route (hp : p < 18) (hruns : (s.port p).runs = true)
    (hctl : (s.port p).txCtl + 1 ≠ BitVec.allOnes 64) (x : Session) (dst : Nat) :
    (s.acked p seq).route x dst = s.route x dst := by
  have hports := State.acked_runs (seq := seq) hon hp hruns hctl
  unfold State.route
  dsimp only
  rw [hports]
  rfl

/-- A DATA flit in its place is taken and acknowledged. -/
theorem State.takeFlit_data {b : Bytes} {f : InFlit} (hp : p < 18) (hruns : (s.port p).runs = true)
    (hlink : s.linkStruck (s.port p).session.toNat = false)
    (hopen : openFlit (s.portKey p "KRELAS-FLIT" false) (s.port p).rxSlot b = some f)
    (hheld : s.blockHeld (.port p) = false) (htype : f.flit.type = 1) (hseq : f.seq = (s.port p).rxSeq) :
    s.takeFlit p b = (s.acked p f.seq, some f) := by
  obtain ⟨hrx, _⟩ := Port.counted_keeps (s.port p) (Config.correctedCodewords s.draws)
  rw [State.takeFlit_opened hruns hlink (by rw [State.countSlot_port hruns hp]; exact hon) hopen,
    if_neg (by rw [hheld]; decide), State.countSlot_of_runs hruns]
  exact State.inOrder_data (s := { s with draws := s.draws + 1 }) hp
    (Port.counted_ends (s.port p) (Config.correctedCodewords s.draws)) htype (hseq.trans hrx.symm)

end

/-! ### Its delivery -/

section
variable {s : State} {p : Nat} {f : InFlit} {n : List AddFault} (hp : p < 18)
  (hon : ((s.port p).counted (Config.correctedCodewords s.draws)).runs = true)
include hp hon

/-- R526: in PS1 a flit waits on its port, and wakes the module. -/
theorem State.acked_deliver_asleep (hps : s.power.power = .ps1) :
    let t := (s.acked p f.seq).deliver p f false n;
    (t.port p).rxSeq = (s.port p).rxSeq + 1 ∧ (t.port p).arrived = (s.port p).arrived ++ [⟨f.flit, f.gen, false, n⟩] ∧
      t.power.waking = true ∧ t.sessions = s.sessions ∧ ∀ k < 18, k ≠ p → t.port k = s.port k := by
  intro t
  obtain ⟨hwaking, hsessions, hports⟩ := (s.acked p f.seq).stir_waking hps
  have hstir : ∀ k, (s.acked p f.seq).stir.port k = (s.acked p f.seq).port k := fun k => by
    rw [State.port, State.port, hports]
  have ht : t = (s.acked p f.seq).stir.onPort p
      fun q => { q with arrived := q.arrived ++ [⟨f.flit, f.gen, false, n⟩] } := State.deliver_asleep _ p f false n hps
  have hport : t.port p = { s.ackedPort p f.seq with
      arrived := (s.ackedPort p f.seq).arrived ++ [⟨f.flit, f.gen, false, n⟩] } := by
    rw [ht, State.onPort, State.setPort_same _ _ hp, hstir, State.acked_port hp]
  obtain ⟨_, hseq, _, _, harrived, _⟩ := State.ackedPort_keeps (seq := f.seq) hon
  rw [hport, ht]
  refine ⟨hseq, by rw [harrived], hwaking, hsessions, fun k _ hk => ?_⟩
  rw [State.onPort, State.setPort_other _ _ (Ne.symm hk), hstir, State.acked_port_other (Ne.symm hk)]

/-- What serving a flit just acknowledged leaves of the machine and of its port. -/
theorem State.acked_serve_frame (a : Arrived) :
    let t := (s.acked p f.seq).serveFlit p a;
    (t.port p).rxSlot = (s.port p).rxSlot + 1 ∧ (t.port p).rxSeq = (s.port p).rxSeq + 1 ∧ (t.port p).discarding = false ∧
      (t.port p).dataRx = satAdd (s.port p).dataRx 1 ∧
      ctlBlock (s.portKey p "KRELAS-CTRL" true) (s.port p).txCtl 1 (le 2 f.seq.toNat) ∈ (t.port p).sentBlocks ∧
      t.tallies = s.tallies ∧ t.mailboxes = s.mailboxes ∧ t.slots = s.slots ∧ t.lc = s.lc ∧ t.resets = s.resets ∧
      ∀ j < 4, j ≠ (s.port p).session.toNat → t.session j = s.session j := by
  intro t
  obtain ⟨htally, hmail, hslots, hlc, hresets, hother, hposts⟩ := (s.acked p f.seq).serveFlit_frame p a hp
  rw [State.acked_port hp] at hposts
  rw [State.acked_portSession hp] at hother
  obtain ⟨hslot, hseq, hdiscard, hrx, _, hmem⟩ := hposts.keeps
  dsimp only [Port.served] at hslot hseq hdiscard hrx hmem
  obtain ⟨kslot, kseq, kdiscard, krx, _, _, kmem⟩ := State.ackedPort_keeps (seq := f.seq) hon
  exact ⟨hslot.trans kslot, hseq.trans kseq, hdiscard.trans kdiscard, hrx.trans (congrArg (satAdd · 1) krx), hmem _ kmem,
    htally, hmail, hslots, hlc, hresets, hother⟩

end

/-! ### What it leaves of its session -/

section
variable {s : State} {p : Nat} {f : InFlit} {n : List AddFault} (hp : p < 18)
include hp

/-- R284: a stale flit. -/
theorem State.acked_serve_stale (hgen : f.gen ≠ s.linkGen (s.port p).session.toNat) :
    let x := s.session (s.port p).session.toNat;
    let y := ((s.acked p f.seq).serveFlit p ⟨f.flit, f.gen, false, n⟩).session (s.port p).session.toNat;
    y.coll = { x.coll with staleDrop := satAdd x.coll.staleDrop 1 } ∧ y.landing = x.landing ∧
      (f.flit.dst = x.rank → ∀ h, x.chunkOf f.flit = some h → (hdrColl h, hdrStep h, hdrAttempt h) ∈ y.lost) := by
  have hstale := (s.acked p f.seq).serveFlit_stale p ⟨f.flit, f.gen, false, n⟩
  rw [State.acked_portSession hp] at hstale
  exact hstale hgen

/-- R280: a chunk that lands whole. -/
theorem State.acked_serve_lands (hgen : f.gen = s.linkGen (s.port p).session.toNat)
    (hdst : f.flit.dst = (s.session (s.port p).session.toNat).rank) (hfirst : f.flit.first = true)
    (hlast : f.flit.last = true) :
    (((s.acked p f.seq).serveFlit p ⟨f.flit, f.gen, false, n⟩).session (s.port p).session.toNat).coll.chunksRx =
      satAdd (s.session (s.port p).session.toNat).coll.chunksRx 1 := by
  have hlands := (s.acked p f.seq).serveFlit_lands p ⟨f.flit, f.gen, false, n⟩
  rw [State.acked_portSession hp] at hlands
  exact hlands hgen hdst hfirst hlast

/-- R258: a flit for another member. -/
theorem State.acked_serve_forwards (hon : ((s.port p).counted (Config.correctedCodewords s.draws)).runs = true)
    (hruns : (s.port p).runs = true) (hctl : (s.port p).txCtl + 1 ≠ BitVec.allOnes 64)
    (hgen : f.gen = s.linkGen (s.port p).session.toNat)
    (hdst : f.flit.dst ≠ (s.session (s.port p).session.toNat).rank) (htype : f.flit.type = 1) :
    let x := s.session (s.port p).session.toNat;
    let t := (s.acked p f.seq).serveFlit p ⟨f.flit, f.gen, false, n⟩;
    (t.session (s.port p).session.toNat).landing = x.landing ∧
      (∀ k, s.route x f.flit.dst = some k →
        (t.port k).data = (s.port k).data ++ [{ f.flit with gen := s.linkGen (s.port p).session.toNat }]) ∧
      (s.route x f.flit.dst = none →
        (t.session (s.port p).session.toNat).coll.routeDrop = satAdd x.coll.routeDrop 1) := by
  intro x t
  have hforwards := (s.acked p f.seq).serveFlit_forwards p ⟨f.flit, f.gen, false, n⟩ hp
  rw [State.acked_portSession hp, State.acked_route hon hp hruns hctl] at hforwards
  obtain ⟨hlanding, hrouted, hdropped⟩ := hforwards hgen hdst htype
  refine ⟨hlanding, fun k hk => ?_, hdropped⟩
  rw [← State.acked_data (seq := f.seq) hon hp k]
  exact hrouted k hk

end

end Sys2Proof.Machine
end

section
/-! PROOFS. What a reset of Warm reach leaves: the sessions that it closes change nothing that outlasts it, and the machine is
under reset. -/

namespace Sys2Proof.Machine

/-! ### What closing a session lets stand -/

theorem Session.state_core (x : Session) : x.core.state = x.state := rfl

theorem Session.state_stopAll (x : Session) (st : Status) : (x.stopAll st).state = x.state := by
  rw [← Session.state_core, Session.core_stopAll, Session.state_core]

/-- What the close of a session lets stand: time, the host's memory, the firmware, AON, the fuses and straps, the life cycle
and the resets. -/
def State.standing (s : State) :=
  (s.time.now, s.host.memory, s.fw, s.aon, s.fuses, s.options, s.lc, s.resets)

/-- What stands stands, and no session opens. -/
def State.Closes (s t : State) : Prop :=
  t.standing = s.standing ∧ ∀ j, (s.session j).isOpen = false → (t.session j).isOpen = false

section
variable {s t u : State} {i : Nat}

theorem State.Closes.of_sessions (h : t.standing = s.standing) (hs : t.sessions = s.sessions) : s.Closes t := by
  refine ⟨h, fun j hj => ?_⟩
  rw [State.session, hs]
  exact hj

theorem State.Closes.trans (h : s.Closes t) (g : t.Closes u) : s.Closes u := by
  obtain ⟨h1, h2⟩ := h
  obtain ⟨g1, g2⟩ := g
  exact ⟨g1.trans h1, fun j hj => g2 j (h2 j hj)⟩

theorem State.Closes.foldl {β : Type} {f : State → β → State} (hf : ∀ s b, State.Closes s (f s b)) (l : List β)
    (s : State) : s.Closes (l.foldl f s) := by
  induction l generalizing s with
  | nil => exact .of_sessions rfl rfl
  | cons b l ih => exact (hf s b).trans (ih _)

/-- A change of a session that keeps its state, or frees it. -/
theorem State.Closes.onSession (s : State) (i : Nat) (f : Session → Session)
    (hf : ∀ x, (f x).state = x.state ∨ (f x).state = .free) : s.Closes (s.onSession i f) := by
  refine ⟨rfl, fun j hj => ?_⟩
  by_cases hij : i = j
  · subst hij
    by_cases hi : i < 4
    · have hfree : (s.session i).state = .free := by simpa [Session.isOpen] using hj
      have hstays : (f (s.session i)).state = .free := (hf (s.session i)).elim (·.trans hfree) id
      rw [State.onSession_same s f hi, Session.isOpen, hstays]
      decide
    · rw [State.session, State.onSession, State.setSession, vset_beyond _ _ (by omega)]
      exact hj
  · rw [State.onSession_other s f hij]
    exact hj

/-- A change of an open session. -/
theorem State.Closes.onOpen (s : State) (i : Nat) (f : Session → Session) (hopen : (s.session i).isOpen = true) :
    s.Closes (s.onSession i f) := by
  refine ⟨rfl, fun j hj => ?_⟩
  have hij : i ≠ j := fun h => by rw [h, hj] at hopen; exact Bool.noConfusion hopen
  rw [State.onSession_other s f hij]
  exact hj

end

section
variable (s : State) (i : Nat)

theorem State.respondLate_closes (mb : Nat) (p : Resp) : s.Closes (s.respondLate mb p) := by
  unfold State.respondLate
  dsimp only
  split
  · exact .of_sessions (by simp [State.standing]) (by simp)
  · exact .of_sessions rfl rfl

theorem State.setSlot_closes (n : Nat) (k : KeySlot) : s.Closes (s.setSlot n k) :=
  .of_sessions (by dsimp only [State.standing, State.setSlot]) (by dsimp only [State.setSlot])

theorem State.keepStored_closes : s.Closes (s.keepStored i) :=
  .of_sessions (by dsimp only [State.standing, State.keepStored]) (by dsimp only [State.keepStored])

theorem State.strikeSlot_closes (n : Nat) : s.Closes (s.strikeSlot n) := by
  unfold State.strikeSlot
  dsimp only
  split
  · exact (s.keepStored_closes _).trans (State.setSlot_closes _ n _)
  · exact s.setSlot_closes n _

theorem State.endIngests_closes (p : Ingest → Bool) (st : Status) : s.Closes (s.endIngests i p st) := by
  unfold State.endIngests
  refine State.Closes.trans (.foldl (fun t g => ?_) _ s) (.onSession _ i _ fun _ => .inl rfl)
  exact .onSession t i _ fun _ => .inl rfl

theorem State.dropResets_closes (p : Nat) (st : Status) : s.Closes (s.dropResets p st) :=
  (State.Closes.foldl (fun t mb => t.respondLate_closes mb ⟨st, 0, []⟩) (s.port p).resetMbs s).trans (.of_sessions rfl rfl)

theorem State.strikeSession_closes : s.Closes (s.strikeSession i) := by
  unfold State.strikeSession
  extract_lets a b c ports d
  have ha : s.Closes a := by
    refine .foldl (fun t n => ?_) _ s
    split
    · exact .of_sessions rfl rfl
    · exact t.strikeSlot_closes n
  have hc : b.Closes c := by
    refine .foldl (fun t p => ?_) _ b
    split
    · exact t.dropResets_closes p stRevoked
    · exact .of_sessions rfl rfl
  have hb : a.Closes b := a.endIngests_closes i _ stRevoked
  clear_value b c
  have hd : c.Closes d := .of_sessions (by dsimp only [State.standing, d]) (by dsimp only [d])
  clear_value a d
  refine ((ha.trans hb).trans (hc.trans hd)).trans (.onSession d i _ fun x => .inl ?_)
  dsimp only
  exact x.state_stopAll stRevoked

theorem State.joinRing_closes : s.Closes (s.joinRing i) := by
  unfold State.joinRing
  dsimp only
  split <;> exact .of_sessions rfl rfl

theorem State.leaveRing_closes : s.Closes s.leaveRing := by
  unfold State.leaveRing
  split
  · exact s.joinRing_closes _
  · exact .of_sessions rfl rfl

/-- A close that completes leaves its session free. -/
theorem State.finishClose_closes : s.Closes (s.finishClose i) ∧ (i < 4 → ((s.finishClose i).session i).isOpen = false) := by
  unfold State.finishClose
  extract_lets x served mailbox a b c d e f
  clear_value mailbox
  have ha : s.Closes a := by
    unfold a
    split
    · exact s.respondLate_closes _ _
    · exact .of_sessions rfl rfl
  have hb : a.Closes b := .foldl (fun t n => t.setSlot_closes n _) (a.slotsOf i) a
  have hc : b.Closes c := .of_sessions (by dsimp only [State.standing, c, State.clearBanks, State.clearChannels])
    (by dsimp only [c, State.clearBanks, State.clearChannels])
  have hd : c.Closes d := .of_sessions (by dsimp only [State.standing, d, State.clearMailboxes])
    (by dsimp only [d, State.clearMailboxes])
  have he : d.Closes e := .of_sessions (by dsimp only [State.standing, e, HostPort.resetFn]) (by dsimp only [e])
  clear_value a b c d e
  have hf : e.Closes f := .onSession e i (fun _ => Session.reset) fun _ => .inr rfl
  have hfree : i < 4 → (f.session i).isOpen = false := fun hi => by
    rw [show f.session i = Session.reset from State.setSession_same e _ hi]
    rfl
  clear_value f
  have hall : s.Closes f := ((ha.trans hb).trans (hc.trans hd)).trans (he.trans hf)
  split
  · exact ⟨hall.trans f.leaveRing_closes, fun hi => f.leaveRing_closes.2 i (hfree hi)⟩
  · exact ⟨hall, hfree⟩

theorem State.loseSession_closes : s.Closes (s.loseSession i) ∧ (i < 4 → ((s.loseSession i).session i).isOpen = false) := by
  unfold State.loseSession
  split
  · rename_i hopen
    extract_lets a
    have ha : s.Closes a := .onOpen s i _ hopen
    obtain ⟨hclose, hfree⟩ := (a.strikeSession i).finishClose_closes i
    exact ⟨ha.trans ((a.strikeSession_closes i).trans hclose), hfree⟩
  · rename_i hopen
    exact ⟨.of_sessions rfl rfl, fun _ => by simpa using hopen⟩

/-- R507: a reset of Warm reach closes every session. -/
theorem State.loseSessions_closes : s.Closes ((List.range 4).foldl State.loseSession s) ∧
    ∀ j < 4, (((List.range 4).foldl State.loseSession s).session j).isOpen = false := by
  have hclose : ∀ (l : List Nat) (s : State), s.Closes (l.foldl State.loseSession s) :=
    fun l s => .foldl (fun t j => (t.loseSession_closes j).1) l s
  have hfree : ∀ (l : List Nat) (s : State), ∀ j ∈ l, j < 4 → ((l.foldl State.loseSession s).session j).isOpen = false := by
    intro l
    induction l with
    | nil => exact fun _ j hj => absurd hj List.not_mem_nil
    | cons k l ih =>
      intro s j hj hlt
      rcases List.mem_cons.1 hj with rfl | hj
      · exact (hclose l _).2 j ((s.loseSession_closes j).2 hlt)
      · exact ih _ j hj hlt
  exact ⟨hclose _ s, fun j hj => hfree _ s j (List.mem_range.2 hj) hj⟩

end

/-! ### Sources that assert -/

section
variable {s : State}

/-- R506, R512: outside a reset, a source that asserts at Warm reach over the module puts it in reset. -/
theorem State.assertAt_warm (n : Nat) (hnone : s.resets.inReset = none) :
    s.UnderReset (s.assertAt n .warm .module) .warm ∧ (s.assertAt n .warm .module).asserted n = true := by
  generalize hu : ({ s with resets := { s.resets with
    holds := (s.resets.holds.filter fun k => !(k.source = n ∧ k.target = .module)) ++ [⟨n, .warm, .module, true⟩]
    since := if n < 14 then noteSince s.resets.since n .warm else s.resets.since } } : State) = u
  have hin : u.resets.inReset = none := by rw [← hu]; exact hnone
  have ht : s.assertAt n .warm .module = ({ u.warmReset with
      resets := { u.warmReset.resets with inReset := some .warm } } : State).settlePins := by
    have henter : u.enterReset .warm = { u.warmReset with resets := { u.warmReset.resets with inReset := some .warm } } := by
      unfold State.enterReset
      rw [hin]
      rfl
    rw [← henter, ← hu]
    rfl
  obtain ⟨⟨hstanding, _⟩, hfree⟩ := u.loseSessions_closes
  rw [ht]
  unfold State.warmReset
  generalize (List.range 4).foldl State.loseSession u = v at hstanding hfree ⊢
  rw [← hu] at hstanding
  obtain ⟨hnow, hmemory, hfw, haon, hfuses, hoptions, hlc, hresets⟩ :
      v.time.now = s.time.now ∧ v.host.memory = s.host.memory ∧ v.fw = s.fw ∧ v.aon = s.aon ∧ v.fuses = s.fuses ∧
        v.options = s.options ∧ v.lc = s.lc ∧ v.resets = { s.resets with
          holds := (s.resets.holds.filter fun k => !(k.source = n ∧ k.target = .module)) ++ [⟨n, .warm, .module, true⟩]
          since := if n < 14 then noteSince s.resets.since n .warm else s.resets.since } := by
    simpa [State.standing] using hstanding
  have hgood : v.resets.clockGood = s.resets.clockGood := by rw [hresets]
  have hreleased : v.resets.released = s.resets.released := by rw [hresets]
  refine ⟨⟨rfl, hfree, rfl, rfl, rfl, rfl, rfl, rfl, rfl, hmemory, congrArg (·.codeword) hlc, congrArg (·.records) hlc,
    rfl, rfl, rfl, fun _ => ⟨hfw, hnow, hgood, congrArg (· &&& warmKeeps) hreleased⟩,
    fun h => absurd h (by decide), fun h => absurd rfl h, fun _ => ⟨haon, hfuses, hoptions⟩,
    fun h => absurd h (by decide)⟩, ?_⟩
  have hholds : v.resets.holds = (s.resets.holds.filter fun k => !(k.source = n ∧ k.target = .module)) ++
      [⟨n, .warm, .module, true⟩] := by rw [hresets]
  have hmem : (⟨n, .warm, .module, true⟩ : Hold) ∈ v.resets.holds := by rw [hholds]; simp
  exact List.any_eq_true.2 ⟨_, hmem, by simp⟩

/-- R513: outside a reset, a source that asserts at Block reach asks a port to go idle. -/
theorem State.assertAt_port (n p : Nat) (hnone : s.resets.inReset = none) (hheld : s.blockHeld (.port p) = false) :
    s.assertAt n .block (.block (.port p)) = { s with resets := { s.resets with
      holds := (s.resets.holds.filter fun k => !(k.source = n ∧ k.target = .block (.port p))) ++
        [⟨n, .block, .block (.port p), true⟩]
      since := if n < 14 then noteSince s.resets.since n .block else s.resets.since
      blocks := s.resets.blocks ++ [⟨.port p, s.time.now, false, false⟩] } } := by
  have hheld' : s.resets.blocks.any (·.target = .port p) = false := hheld
  unfold State.assertAt
  dsimp only
  unfold State.askIdle
  rw [if_neg]
  simp [hnone, hheld', State.inQuarterReset, blockDie]

/-- The in-band source acts at Block reach, as a quarter's would, or at Warm reach (R508). -/
theorem State.sourceReach_inBand (s : State) : s.sourceReach 12 = s.fuseReach 12 ∧ 1 ≤ s.fuseReach 12 ∧
    s.fuseReach 12 ≤ 3 := by
  have hrange : sourceRange 12 = (1, 3, 1) := rfl
  refine ⟨if_neg (by rw [hrange]; dsimp only; omega), ?_⟩
  unfold State.fuseReach
  rw [hrange]
  generalize (if s.fuses.latched then (vget 0 s.fuses.reach 12).toNat else 0) = c
  dsimp only
  split <;> omega

end

end Sys2Proof.Machine
end

section
/-! PROOFS. Flits received, clause by clause, and together. -/

namespace Sys2Proof.Machine

theorem exec_resetFlit (p : Nat) (b : Bytes) (s : State) : exec (.resetFlit p b) s = execResetFlit p b s := rfl

/-- A control block sent by a port that has sent none since another. -/
theorem Port.sent_from {w q : Port} (hctl : w.txCtl = q.txCtl) (hblocks : w.sentBlocks = q.sentBlocks) (key : Bytes)
    (type : Nat) (body : Bytes) : w.sent key type body = Port.limit { w with
      txCtl := q.txCtl + 1, sentBlocks := ctlBlock key q.txCtl type body :: q.sentBlocks } := by
  rw [Port.sent, hctl, hblocks]

/-- The same of a port that then discards what arrives until it has what it asks for. -/
theorem Port.sent_discarding {w w' q : Port} (hw : w' = w) (hctl : w.txCtl = q.txCtl) (hblocks : w.sentBlocks = q.sentBlocks)
    (key : Bytes) (type : Nat) (body : Bytes) : Port.sent { w' with discarding := true } key type body = Port.limit { w with
      discarding := true, txCtl := q.txCtl + 1, sentBlocks := ctlBlock key q.txCtl type body :: q.sentBlocks } := by
  subst hw
  rw [Port.sent]
  dsimp only
  rw [hctl, hblocks]

/-! ### DATA flits -/

section
variable {s : State} {p : Nat} {b : Bytes} {n : List AddFault} (hb : (s.port p).bound = true)
  (hruns : (s.port p).runs = true) (htype : bitsAt b 0 1 3 0 < 2 ∨ 5 < bitsAt b 0 1 3 0)
include hb hruns htype

/-- R284: without a link key a flit of another generation is dropped as stale. -/
theorem execDataFlit_struck_stale (hlink : s.linkStruck (s.port p).session.toNat = true) (hdata : bitsAt b 0 1 3 0 = 1)
    (hgen : (s.rawFlit p b).gen ≠ s.linkGen (s.port p).session.toNat) :
    ∃ t, execDataFlit p b n s = .next t ∧
      t = (s.countSlot p).setSession (s.port p).session.toNat (t.session (s.port p).session.toNat) ∧
      (t.session (s.port p).session.toNat).coll = { (s.session (s.port p).session.toNat).coll with
        staleDrop := satAdd (s.session (s.port p).session.toNat).coll.staleDrop 1 } ∧
      (t.session (s.port p).session.toNat).landing = (s.session (s.port p).session.toNat).landing := by
  have hi : (s.port p).session.toNat < 4 := (s.port p).session.isLt
  have hsession : (s.countSlot p).session (s.port p).session.toNat = s.session (s.port p).session.toNat := by
    rw [State.countSlot_of_runs hruns]; rfl
  refine ⟨_, execDataFlit_struck hb hruns htype hlink, ?_⟩
  rw [if_pos ⟨hdata, hgen⟩]
  obtain ⟨ops, hstale⟩ := (s.countSlot p).staleFlit_session (s.rawFlit p b).flit
    (if (s.rawFlit p b).flit.first then none
     else ((s.countSlot p).session (s.port p).session.toNat).chunkOf (s.rawFlit p b).flit) hi
  rw [hstale, State.setSession_same _ _ hi, hsession]
  exact ⟨rfl, rfl, rfl⟩

variable (hp : p < 18) (hlink : s.linkStruck (s.port p).session.toNat = false)
  (hon : ((s.port p).counted (Config.correctedCodewords s.draws)).runs = true)
include hp hlink hon

/-- R252, R254: a tag that fails. -/
theorem execDataFlit_asks (hopen : openFlit (s.portKey p "KRELAS-FLIT" false) (s.port p).rxSlot b = none)
    (hkept : s.consumed p (s.rawFlit p b) = false) :
    execDataFlit p b n s = .next ((State.setPort { s with draws := s.draws + 1 } p
      (if 8 ≤ (satAdd (s.port p).epochTagFail 1).toNat then
        ((s.port p).counted (Config.correctedCodewords s.draws)).failed.down 3
       else Port.sent { ((s.port p).counted (Config.correctedCodewords s.draws)).failed with discarding := true }
        (s.portKey p "KRELAS-CTRL" true) 2 (le 2 (s.port p).rxSeq.toNat))).setSession (s.port p).session.toNat
      { s.session (s.port p).session.toNat with coll := { (s.session (s.port p).session.toNat).coll with
          retried := if (s.feeds p (s.rawFlit p b)).isSome then
            satAdd (s.session (s.port p).session.toNat).coll.retried 1
            else (s.session (s.port p).session.toNat).coll.retried } }) := by
  obtain ⟨hseq, _, hepoch, _⟩ := Port.counted_keeps (s.port p) (Config.correctedCodewords s.draws)
  have hnak := State.nak_tagFailed (s := { s with draws := s.draws + 1 }) hp
    (Port.counted_ends (s.port p) (Config.correctedCodewords s.draws)) hon
  rw [hseq, hepoch] at hnak
  rw [execDataFlit_failed hb hruns htype hlink hopen hkept,
    State.takeFlit_failed hruns hlink (by rw [State.countSlot_port hruns hp]; exact hon) hopen,
    State.countSlot_of_runs hruns, hnak]
  cases (s.feeds p (s.rawFlit p b)).isSome <;> rfl

variable {f : InFlit} (hopen : openFlit (s.portKey p "KRELAS-FLIT" false) (s.port p).rxSlot b = some f)
include hopen

/-- R254, R513: flits that leave nothing but their slot. -/
theorem execDataFlit_dropped (hdrop : s.blockHeld (.port p) = true ∨ f.flit.type = 0 ∨
      (f.seq ≠ (s.port p).rxSeq ∧ 2048 < ((s.port p).rxSeq - f.seq).toNat)) :
    execDataFlit p b n s = .next (State.setPort { s with draws := s.draws + 1 } p
      ((s.port p).counted (Config.correctedCodewords s.draws))) := by
  refine execDataFlit_undelivered hb hruns htype hlink hopen ?_
  obtain ⟨hseq, _⟩ := Port.counted_keeps (s.port p) (Config.correctedCodewords s.draws)
  rw [State.takeFlit_opened hruns hlink (by rw [State.countSlot_port hruns hp]; exact hon) hopen,
    State.countSlot_of_runs hruns]
  split
  · rfl
  · rename_i hheld
    refine State.inOrder_dropped hp ?_
    rw [hseq]
    exact hdrop.resolve_left hheld

/-- R254: a flit delivered before. -/
theorem execDataFlit_again (hheld : s.blockHeld (.port p) = false) (h0 : f.flit.type ≠ 0)
    (hne : f.seq ≠ (s.port p).rxSeq) (hold : ((s.port p).rxSeq - f.seq).toNat ≤ 2048) :
    execDataFlit p b n s = .next (State.setPort { s with draws := s.draws + 1 } p
      (((s.port p).counted (Config.correctedCodewords s.draws)).sent (s.portKey p "KRELAS-CTRL" true) 1
        (le 2 ((s.port p).rxSeq - 1).toNat))) := by
  refine execDataFlit_undelivered hb hruns htype hlink hopen ?_
  obtain ⟨hseq, _⟩ := Port.counted_keeps (s.port p) (Config.correctedCodewords s.draws)
  have hagain := State.inOrder_again (s := { s with draws := s.draws + 1 }) (f := f) hp
    (Port.counted_ends (s.port p) (Config.correctedCodewords s.draws)) h0
  rw [hseq] at hagain
  rw [State.takeFlit_opened hruns hlink (by rw [State.countSlot_port hruns hp]; exact hon) hopen,
    if_neg (by rw [hheld]; decide), State.countSlot_of_runs hruns]
  exact hagain hne hold

/-- A DATA flit in order is delivered in the state that its acknowledgement leaves. -/
theorem execDataFlit_data (hheld : s.blockHeld (.port p) = false) (hdata : f.flit.type = 1)
    (hseq : f.seq = (s.port p).rxSeq) : execDataFlit p b n s = .next ((s.acked p f.seq).deliver p f false n) :=
  execDataFlit_delivered hb hruns htype hlink hopen
    (State.takeFlit_data hon hp hruns hlink hopen hheld hdata hseq) hdata

end

/-! ### RESET flits -/

/-- The state in which a RESET flit in order is delivered: acknowledged, and its credit returned. -/
def State.resetTaken (s : State) (p : Nat) (seq : BitVec 12) : State :=
  State.setPort { s with draws := s.draws + 1 } p
    ((s.ackedPort p seq).sent (s.portKey p "KRELAS-CTRL" true) 3 (le 2 0 ++ le 2 1))

/-- The port that took a RESET flit waits for the next. -/
theorem State.resetTaken_rxSeq {s : State} {p : Nat} {seq : BitVec 12} (hp : p < 18)
    (hon : ((s.port p).counted (Config.correctedCodewords s.draws)).runs = true) :
    ((s.resetTaken p seq).port p).rxSeq = (s.port p).rxSeq + 1 := by
  obtain ⟨_, hacked, _⟩ := State.ackedPort_keeps (seq := seq) hon
  obtain ⟨_, hkeeps, _⟩ := (Port.sent_answers (s.ackedPort p seq) (s.portKey p "KRELAS-CTRL" true) 3
    (le 2 0 ++ le 2 1)).posts.keeps
  rw [State.resetTaken, State.setPort_same _ _ hp, hkeeps, hacked]

section
variable {s : State} {p : Nat} {b : Bytes} {f : InFlit} (hp : p < 18) (hb : (s.port p).bound = true)
  (hruns : (s.port p).runs = true) (htype : bitsAt b 0 1 3 0 = 5)
  (hlink : s.linkStruck (s.port p).session.toNat = false)
  (hon : ((s.port p).counted (Config.correctedCodewords s.draws)).runs = true)
  (hheld : s.blockHeld (.port p) = false)
  (hopen : openFlit (s.portKey p "KRELAS-FLIT" false) (s.port p).rxSlot b = some f) (hreset : f.flit.type = 5)
  (hseq : f.seq = (s.port p).rxSeq) (hdst : f.flit.dst = (s.session (s.port p).session.toNat).rank)
include hp hb hruns htype hlink hon hheld hopen hreset hseq hdst

/-- R250: a RESET flit for this member asserts the in-band source, where its TARGET is 0. -/
theorem execResetFlit_taken : execResetFlit p b s = .next
    (if u8 f.flit.payload 0 = 0 then (s.resetTaken p f.seq).assertSource 12 (.block (.port p))
     else s.resetTaken p f.seq) := by
  obtain ⟨hrx, _⟩ := Port.counted_keeps (s.port p) (Config.correctedCodewords s.draws)
  have horder : s.takeFlit p b = (s.resetTaken p f.seq, some f) := by
    rw [State.takeFlit_opened hruns hlink (by rw [State.countSlot_port hruns hp]; exact hon) hopen,
      if_neg (by rw [hheld]; decide), State.countSlot_of_runs hruns]
    exact State.inOrder_control (s := { s with draws := s.draws + 1 }) hp
      (Port.counted_ends (s.port p) (Config.correctedCodewords s.draws)) (by omega) (by omega) (hseq.trans hrx.symm)
  have htaken : s.takeTyped p 5 b = (s.resetTaken p f.seq, some f) := by
    unfold State.takeTyped
    dsimp only [State.portSession]
    rw [if_pos ⟨hb, hruns, htype⟩, horder]
    exact if_neg (not_not_intro hdst)
  rw [execResetFlit, htaken]

end

/-- R508, R512, R513: what the in-band source's assertion over a port leaves, by the reach its fuse gives. -/
theorem State.assertSource_inBand {s : State} {p : Nat} (hnone : s.resets.inReset = none)
    (hheld : s.blockHeld (.port p) = false) :
    let t := s.assertSource 12 (.block (.port p));
    t.asserted 12 = true ∧
    (s.sourceReach 12 = 1 → t = { s with resets := { s.resets with
        holds := t.resets.holds, since := t.resets.since
        blocks := s.resets.blocks ++ [⟨.port p, s.time.now, false, false⟩] } } ∧
      (⟨12, .block, .block (.port p), true⟩ : Hold) ∈ t.resets.holds) ∧
    (s.sourceReach 12 = 2 → s.UnderReset t .warm) ∧
    (3 ≤ s.sourceReach 12 → s.UnderReset t (Reach.ofCode (s.sourceReach 12))) := by
  intro t
  obtain ⟨hfuse, hleast, hmost⟩ := s.sourceReach_inBand
  obtain ⟨hunder, hasserted⟩ := State.assertAt_warm 12 hnone
  have hwarm : s.sourceReach 12 ≠ 1 → t = s.assertAt 12 .warm .module := fun hreach => by
    have hcases : s.sourceReach 12 = 2 ∨ s.sourceReach 12 = 3 := by omega
    unfold t State.assertSource
    dsimp only
    rcases hcases with h | h <;> rw [h] <;> rfl
  by_cases hreach : s.sourceReach 12 = 1
  · have ht : t = s.assertAt 12 .block (.block (.port p)) := by
      unfold t State.assertSource
      dsimp only
      rw [hreach]
      rfl
    rw [State.assertAt_port 12 p hnone hheld] at ht
    have hmem : (⟨12, .block, .block (.port p), true⟩ : Hold) ∈ t.resets.holds := by rw [ht]; simp
    refine ⟨List.any_eq_true.2 ⟨_, hmem, by simp⟩, fun _ => ⟨?_, hmem⟩, fun h => ?_, fun h => ?_⟩
    · rw [ht]
    · omega
    · omega
  · rw [hwarm hreach]
    refine ⟨hasserted, fun h => absurd h hreach, fun _ => hunder, fun h => ?_⟩
    rw [show s.sourceReach 12 = 3 by omega]
    exact hunder

end Sys2Proof.Machine
end

section
/-! PROOFS. The obligation about flits received. -/

namespace Sys2Proof.Machine

/-- Settles O41: a flit's slot is counted and its tag, link key and place in the sequence decide what its port answers; what
is delivered is work of the Sorting Office (`State.Sorts`), which leaves the port's sequence, the chunks received and the
session's vote; and a RESET flit asserts the in-band source, whose reach is Block or Warm. -/
theorem flitsArrive : Obligations.FlitsArrive := by
  unfold Obligations.FlitsArrive
  intro s p b n hp hb hruns q i x u v got raw tx sends
  have hcounted : s.countSlot p = u.setPort p v := State.countSlot_of_runs hruns
  obtain ⟨vseq, vtag, vepoch, vfec⟩ : v.rxSeq = q.rxSeq ∧ v.tagFail = q.tagFail ∧ v.epochTagFail = q.epochTagFail ∧
      v.fecUncorrectable = q.fecUncorrectable := Port.counted_keeps q (Config.correctedCodewords s.draws)
  have hgoes : v.runs = true → v.txCtl = q.txCtl ∧ v.sentBlocks = q.sentBlocks := fun hon => by
    rw [show v = { q with rxSlot := q.rxSlot + 1
                          fecCorrected := satAdd q.fecCorrected (Config.correctedCodewords s.draws) } from
      Port.counted_of_runs hon]
    exact ⟨rfl, rfl⟩
  refine ⟨fun htype => ⟨fun hlink => ⟨fun hgen => ?_, fun hdata hgen => ?_⟩, fun hlink hon => ?_⟩, ?_, ?_⟩
  · rw [exec_dataFlit, execDataFlit_struck hb hruns htype hlink, hcounted,
      if_neg fun h => hgen.elim (· h.1) (h.2 ·)]
  · rw [exec_dataFlit, ← hcounted]
    exact execDataFlit_struck_stale hb hruns htype hlink hdata hgen
  · obtain ⟨vctl, vblocks⟩ := hgoes hon
    refine ⟨fun hopen hkept => ?_, fun hopen hleft hheld => ?_, fun f hopen hdrop => ?_,
      fun f hopen hheld h0 hne hold => ?_, fun f hopen hheld hps hdata hseq => ?_,
      fun f hopen hheld hps hdata hseq hctl => ?_⟩
    · have hfailed : v.failed =
          { v with tagFail := satAdd q.tagFail 1, epochTagFail := satAdd q.epochTagFail 1 } := by
        rw [Port.failed, vtag, vepoch]
      refine (execDataFlit_asks (n := n) hb hruns htype hp hlink hon hopen hkept).trans
        (congrArg (fun r => Host.Outcome.next (State.setSession (u.setPort p r) i _)) ?_)
      by_cases h8 : 8 ≤ (satAdd q.epochTagFail 1).toNat
      · exact (if_pos h8).trans ((congrArg (Port.down · 3) hfailed).trans (if_pos h8).symm)
      · exact (if_neg h8).trans ((Port.sent_discarding hfailed vctl vblocks tx 2 (le 2 q.rxSeq.toNat)).trans
          (if_neg h8).symm)
    · obtain ⟨htag, hseq, htaint, hvote⟩ := State.taintedFlit_votes (faults := n) hp hruns hleft
      exact ⟨_, execDataFlit_consumed hb hruns htype hlink hopen hleft hheld, htag.trans (congrArg (satAdd · 1) vtag),
        hseq.trans (congrArg (· + 1) vseq), htaint, hvote⟩
    · exact execDataFlit_dropped hb hruns htype hp hlink hon hopen hdrop
    · exact (execDataFlit_again hb hruns htype hp hlink hon hopen hheld h0 hne hold).trans
        (congrArg (fun r => Host.Outcome.next (u.setPort p r))
          (Port.sent_from vctl vblocks tx 1 (le 2 (q.rxSeq - 1).toNat)))
    · exact ⟨_, execDataFlit_data hb hruns htype hp hlink hon hopen hheld hdata hseq,
        State.acked_deliver_asleep hp hon hps⟩
    · have hexec := execDataFlit_data (n := n) hb hruns htype hp hlink hon hopen hheld hdata hseq
      rw [State.deliver_awake (s.acked p f.seq) p f false n hps] at hexec
      obtain ⟨hslot, hrx, hdiscard, hcount, hblock, htally, hmail, hslots, hlc, hresets, hother⟩ :=
        State.acked_serve_frame (f := f) hp hon ⟨f.flit, f.gen, false, n⟩
      exact ⟨_, hexec, hslot, hrx, hdiscard, hcount, hblock, htally, hmail, hslots, hlc, hresets, hother,
        fun hgen => State.acked_serve_stale hp hgen,
        fun hgen hdst hfirst hlast => State.acked_serve_lands hp hgen hdst hfirst hlast,
        fun hgen hdst => State.acked_serve_forwards hp hon hruns hctl hgen hdst hdata⟩
  · intro htype hlink hon hheld f hopen hreset hseq hdst
    have hexec := execResetFlit_taken hp hb hruns htype hlink hon hheld hopen hreset hseq hdst
    have hrx : ((s.resetTaken p f.seq).port p).rxSeq = q.rxSeq + 1 := State.resetTaken_rxSeq hp hon
    refine ⟨fun htarget => ⟨s.resetTaken p f.seq, ?_, ?_, hrx⟩, fun htarget hnone => ?_⟩
    · rw [exec_resetFlit, hexec, if_neg htarget]
    · rw [State.resetTaken, State.setPort_same _ _ hp]
    · rw [exec_resetFlit, hexec, if_pos htarget]
      obtain ⟨hasserted, hblock, hquarter, hwide⟩ := State.assertSource_inBand (s := s.resetTaken p f.seq) hnone hheld
      generalize (s.resetTaken p f.seq).assertSource 12 (.block (.port p)) = t at hasserted hblock hquarter hwide ⊢
      refine ⟨t, rfl, hasserted, fun h => ?_, hquarter, hwide⟩
      obtain ⟨ht, hhold⟩ := hblock h
      have hports : t.ports = (s.resetTaken p f.seq).ports := by rw [ht]
      refine ⟨?_, hhold⟩
      rw [hports]
      exact ht
  · intro w
    have huncorrected : v.uncorrected = w := by
      unfold w
      rw [Port.uncorrected, vfec]
    rw [exec_uncorrectableCodeword]
    refine (execUncorrectableCodeword_runs hp hruns).trans (congrArg (fun r => Host.Outcome.next (u.setPort p r)) ?_)
    by_cases hon : v.runs = true
    · obtain ⟨vctl, vblocks⟩ := hgoes hon
      have hasks := Port.sent_discarding huncorrected vctl vblocks tx 2 (le 2 q.rxSeq.toNat)
      have hplace : le 2 v.rxSeq.toNat = le 2 q.rxSeq.toNat := by rw [vseq]
      exact (if_pos hon).trans ((congrArg (Port.sent _ tx 2) hplace).trans (hasks.trans (if_pos hon).symm))
    · exact (if_neg hon).trans (huncorrected.trans (if_neg hon).symm)

end Sys2Proof.Machine
end

section
/-! PROOFS. What the module seals opens: flits, control blocks and ring frames, each a head of known fields followed by
what is encrypted and its tag (R248, R251 to R253, R296, R297). -/

namespace Sys2Proof.Machine

/-! ### The parts of a byte string -/

/-- The first of the parts that follow one another. -/
theorem slice_first (a c : Bytes) : slice (a ++ c) 0 a.length = a := slice_append [] a c

/-- The last of them. -/
theorem slice_last (a b : Bytes) : slice (a ++ b) a.length b.length = b := by simpa using slice_append a b []

theorem u8_le (m : Nat) (c : Bytes) (h : m < 256) : (u8 (le 1 m ++ c) 0).toNat = m := by
  simp [u8, le, Nat.mod_eq_of_lt h]

theorem zeroRange_zeros (a c : Bytes) (k : Nat) : zeroRange (a ++ (zeros k ++ c)) a.length k = true := by
  have h := slice_append a (zeros k) c
  rw [zeros_length] at h
  rw [zeroRange, h, zeros]
  simp

theorem padTo_length {n : Nat} {b : Bytes} (h : b.length ≤ n) : (padTo n b).length = n := by
  rw [padTo, List.length_append, zeros_length]
  omega

theorem padTo_take (n : Nat) (b : Bytes) : (padTo n b).take b.length = b := by simp [padTo]

/-! ### Flits, R248, R251, R252 -/

/-- The number that a flit's header holds (R248). -/
def OutFlit.word (f : OutFlit) (gen seq : Nat) : Nat :=
  f.type + gen % 256 * 2 ^ 4 + f.dst * 2 ^ 12 + f.src * 2 ^ 23 + seq % 4096 * 2 ^ 34 + f.payload.length * 2 ^ 46 +
    boolNat f.first * 2 ^ 54 + boolNat f.last * 2 ^ 55 + (if f.type = 1 then 2 ^ 56 else 0)

theorem flitHeader_word (f : OutFlit) (gen seq : Nat) : flitHeader f gen seq = le 8 (f.word gen seq) := rfl

theorem boolNat_lt (b : Bool) : boolNat b < 2 := by cases b <;> decide

theorem boolNat_beq (b : Bool) : (boolNat b == 1) = b := by cases b <;> rfl

section
variable {f : OutFlit} {gen seq : Nat} (ht : f.type < 16) (hd : f.dst < 2048) (hs : f.src < 2048)
  (hp : f.payload.length ≤ 232) (hg : gen < 256) (hq : seq < 4096)
include ht hd hs hp hg hq

/-- The header's number keeps to its eight bytes, and each of its fields reads back. -/
theorem OutFlit.word_fields : f.word gen seq < 256 ^ 8 ∧ bitsOf (f.word gen seq) 3 0 = f.type ∧
    bitsOf (f.word gen seq) 11 4 = gen ∧ bitsOf (f.word gen seq) 22 12 = f.dst ∧ bitsOf (f.word gen seq) 33 23 = f.src ∧
    bitsOf (f.word gen seq) 45 34 = seq ∧ bitsOf (f.word gen seq) 53 46 = f.payload.length ∧
    bitOf (f.word gen seq) 54 = f.first ∧ bitOf (f.word gen seq) 55 = f.last := by
  have hfirst := boolNat_lt f.first
  have hlast := boolNat_lt f.last
  obtain ⟨c, hc, hdata⟩ : ∃ c < 2, (if f.type = 1 then 2 ^ 56 else 0) = c * 2 ^ 56 := by
    by_cases h : f.type = 1
    · exact ⟨1, by decide, by rw [if_pos h]; rfl⟩
    · exact ⟨0, by decide, by rw [if_neg h, Nat.zero_mul]⟩
  have hw : f.word gen seq = f.type + gen * 2 ^ 4 + f.dst * 2 ^ 12 + f.src * 2 ^ 23 + seq * 2 ^ 34 +
      f.payload.length * 2 ^ 46 + boolNat f.first * 2 ^ 54 + boolNat f.last * 2 ^ 55 + c * 2 ^ 56 := by
    rw [OutFlit.word, hdata, Nat.mod_eq_of_lt hg, Nat.mod_eq_of_lt hq]
  have hbit : ∀ (k : Nat) (b : Bool), f.word gen seq / 2 ^ k % 2 = boolNat b → bitOf (f.word gen seq) k = b :=
    fun k b h => by rw [bitOf, h, boolNat_beq]
  have hbits : ∀ hi lo v : Nat, f.word gen seq / 2 ^ lo % 2 ^ (hi + 1 - lo) = v → bitsOf (f.word gen seq) hi lo = v :=
    fun _ _ _ h => h
  refine ⟨?_, hbits 3 0 _ ?_, hbits 11 4 _ ?_, hbits 22 12 _ ?_, hbits 33 23 _ ?_, hbits 45 34 _ ?_, hbits 53 46 _ ?_,
    hbit 54 _ ?_, hbit 55 _ ?_⟩ <;> rw [hw] <;> omega

/-- A sealed flit opens under its key and slot. -/
theorem openFlit_sealFlit (key : Bytes) (slot : W64) : openFlit key slot (sealFlit key slot f gen seq) =
    some ⟨{ f with gen := gen, work := none }, gen, BitVec.ofNat 12 seq⟩ := by
  obtain ⟨hlt, htype, hgen, hdst, hsrc, hseq, hlen, hfirst, hlast⟩ := OutFlit.word_fields ht hd hs hp hg hq
  generalize hsealed : Crypto.gcmSeal key (flitNonce slot) (flitHeader f gen seq) (padTo 232 f.payload) = c
  have hct : c.1.length = 232 := by rw [← hsealed]; simp [Crypto.gcmSeal, padTo_length hp]
  have htag : c.2.length = 16 := by rw [← hsealed]; simp [Crypto.gcmSeal]
  have hopens := Crypto.gcmOpen_gcmSeal key (flitNonce slot) (flitHeader f gen seq) (padTo 232 f.payload)
  rw [hsealed] at hopens
  have hb : sealFlit key slot f gen seq = flitHeader f gen seq ++ (c.1 ++ c.2) := by
    unfold sealFlit
    dsimp only
    rw [hsealed, List.append_assoc]
  have hh : (flitHeader f gen seq).length = 8 := le_length _ _
  have h0 := slice_first (flitHeader f gen seq) (c.1 ++ c.2)
  have h8 := slice_append (flitHeader f gen seq) c.1 c.2
  have h240 := slice_last (flitHeader f gen seq ++ c.1) c.2
  have hword : fieldAt (flitHeader f gen seq ++ (c.1 ++ c.2)) 0 8 = f.word gen seq := fieldAt_le [] _ 8 _ hlt
  rw [List.length_append, hh, hct, htag, List.append_assoc] at h240
  rw [hh, hct] at h8
  rw [hh] at h0
  rw [openFlit, hb, hword, h0, h8, h240, hopens, htype, hgen, hdst, hsrc, hseq, hlen, hfirst, hlast]
  dsimp only
  rw [padTo_take]

end

/-! ### Control blocks, R253 -/

/-- The sixteen bytes of a control block that its tag covers. -/
def ctlHead (type : Nat) (body : Bytes) : Bytes := le 1 type ++ (zeros 3 ++ padTo 12 body)

section
variable {type : Nat} {body : Bytes} (hb : body.length ≤ 12)
include hb

theorem ctlHead_length : (ctlHead type body).length = 16 := by simp [ctlHead, padTo_length hb]

theorem ctlBlock_parts (key : Bytes) (counter : W64) : ctlBlock key counter type body =
    ctlHead type body ++ Crypto.gcmTag key (le 1 2 ++ zeros 3 ++ w64 counter) (ctlHead type body) [] := by
  rw [ctlBlock, List.take_of_length_le hb, List.append_assoc]
  rfl

/-- What a control block shows its receiver: the head under its tag, its type, and its body. -/
theorem ctlBlock_fields (key : Bytes) (counter : W64) (ht : type < 256) :
    slice (ctlBlock key counter type body) 0 16 = ctlHead type body ∧
    slice (ctlBlock key counter type body) 16 16 =
      Crypto.gcmTag key (le 1 2 ++ zeros 3 ++ w64 counter) (ctlHead type body) [] ∧
    (u8 (ctlBlock key counter type body) 0).toNat = type ∧ zeroRange (ctlBlock key counter type body) 1 3 = true ∧
    slice (ctlBlock key counter type body) 4 12 = padTo 12 body := by
  rw [ctlBlock_parts hb]
  generalize htag : Crypto.gcmTag key (le 1 2 ++ zeros 3 ++ w64 counter) (ctlHead type body) [] = tag
  have hlen : tag.length = 16 := by rw [← htag]; exact Crypto.gcmTag_length _ _ _ _
  have hhead := slice_first (ctlHead type body) tag
  have hlast := slice_last (ctlHead type body) tag
  have hbody := slice_append (le 1 type ++ zeros 3) (padTo 12 body) tag
  rw [ctlHead_length hb] at hhead
  rw [ctlHead_length hb, hlen] at hlast
  rw [List.length_append, le_length, zeros_length, padTo_length hb] at hbody
  refine ⟨hhead, hlast, ?_, ?_, ?_⟩
  · rw [ctlHead, List.append_assoc]
    exact u8_le type _ ht
  · rw [ctlHead, List.append_assoc, List.append_assoc]
    exact zeroRange_zeros (le 1 type) (padTo 12 body ++ tag) 3
  · rw [ctlHead]
    simpa only [List.append_assoc] using hbody

end

/-- R253: a control block whose tag verifies is taken under the receiver's counter, its body handed on when it is of the
type looked for. -/
theorem State.takeCtl_verified {s : State} {p type : Nat} {b : Bytes}
    (htag : slice b 16 16 = Crypto.gcmTag (s.portKey p "KRELAS-CTRL" false)
      (le 1 2 ++ zeros 3 ++ w64 (s.port p).rxCtl) (slice b 0 16) [])
    (htype : (u8 b 0).toNat = type) (hzero : zeroRange b 1 3 = true) : s.takeCtl p type b =
      (s.setPort p (Port.limit { s.port p with rxCtl := (s.port p).rxCtl + 1 }), some (slice b 4 12)) := by
  unfold State.takeCtl
  dsimp only
  rw [if_neg (not_not_intro htag), if_pos ⟨htype, hzero⟩]
  rfl

theorem State.takeCtl_ctlBlock (s : State) (p : Nat) {type : Nat} {body : Bytes} (ht : type < 256) (hb : body.length ≤ 12) :
    s.takeCtl p type (ctlBlock (s.portKey p "KRELAS-CTRL" false) (s.port p).rxCtl type body) =
      (s.setPort p (Port.limit { s.port p with rxCtl := (s.port p).rxCtl + 1 }), some (padTo 12 body)) := by
  obtain ⟨hhead, htag, htype, hzero, hbody⟩ :=
    ctlBlock_fields hb (s.portKey p "KRELAS-CTRL" false) (s.port p).rxCtl ht
  rw [State.takeCtl_verified (by rw [hhead]; exact htag) htype hzero, hbody]

/-! ### Ring frames, R296, R297 -/

/-- What stands in a ring frame after TYPE and HOPS: its direction and its sender's rank. -/
def ringSender (rank : Nat) (cw : Bool) : Bytes := le 1 (boolNat (!cw)) ++ ([0] ++ (le 2 rank ++ zeros 2))

/-- What a ring frame's tag covers besides its body: HOPS counts as 0, since it falls on the way. -/
def ringAad (rank : Nat) (cw : Bool) (type : Nat) : Bytes := le 1 type ++ ([0] ++ ringSender rank cw)

theorem ringSender_length (rank : Nat) (cw : Bool) : (ringSender rank cw).length = 6 := by simp [ringSender]

/-- The frame's parts in their order. -/
theorem ringFrame_parts (key : Bytes) (rank : Nat) (cw : Bool) (type : Nat) {body : Bytes} (n : W64)
    (hb : body.length ≤ 104) : ringFrame key rank cw type body n =
      le 1 type ++ (le 1 16 ++ (ringSender rank cw ++
        ((Crypto.gcmSeal key (ringNonce rank n.toNat) (ringAad rank cw type) (padTo 104 body)).1 ++
          ((Crypto.gcmSeal key (ringNonce rank n.toNat) (ringAad rank cw type) (padTo 104 body)).2 ++ w64 n)))) := by
  have haad : le 1 type ++ [0] ++ le 1 (boolNat (!cw)) ++ [0] ++ le 2 rank ++ zeros 2 = ringAad rank cw type := by
    simp [ringAad, ringSender]
  have hsender : slice (ringAad rank cw type) 2 6 = ringSender rank cw := by
    have h := slice_last (le 1 type ++ [0]) (ringSender rank cw)
    rw [ringSender_length, List.append_assoc] at h
    exact h
  unfold ringFrame
  dsimp only
  rw [haad, List.take_of_length_le hb, hsender]
  simp only [List.append_assoc]

/-- R297: a ring frame opens for every holder of the ring key. -/
theorem State.openFrame_ringFrame (s : State) (i : Nat) {rank type : Nat} (cw : Bool) {body : Bytes} (n : W64)
    (hr : rank < 65536) (ht : type < 256) (hb : body.length ≤ 104) :
    s.openFrame i type (ringFrame (s.ringKey i) rank cw type body n) = some (rank, 16, padTo 104 body) := by
  rw [ringFrame_parts (s.ringKey i) rank cw type n hb]
  have hopens := Crypto.gcmOpen_gcmSeal (s.ringKey i) (ringNonce rank n.toNat) (ringAad rank cw type) (padTo 104 body)
  generalize hsealed :
    Crypto.gcmSeal (s.ringKey i) (ringNonce rank n.toNat) (ringAad rank cw type) (padTo 104 body) = c at hopens
  have hct : c.1.length = 104 := by rw [← hsealed]; simp [Crypto.gcmSeal, padTo_length hb]
  have htag : c.2.length = 16 := by rw [← hsealed]; simp [Crypto.gcmSeal]
  generalize hframe : le 1 type ++ (le 1 16 ++ (ringSender rank cw ++ (c.1 ++ (c.2 ++ w64 n)))) = b
  have htype : slice b 0 1 = le 1 type := by rw [← hframe]; exact slice_first (le 1 type) _
  have hcode : (u8 b 0).toNat = type := by rw [← hframe]; exact u8_le type _ ht
  have hhops : (u8 b 1).toNat = 16 := by rw [← hframe]; rfl
  have hsender : slice b 2 6 = ringSender rank cw := by
    have h := slice_append (le 1 type ++ le 1 16) (ringSender rank cw) (c.1 ++ (c.2 ++ w64 n))
    rwa [ringSender_length, List.length_append, le_length, le_length, List.append_assoc, hframe] at h
  have hsrc : fieldAt b 4 2 = rank := by
    have h := fieldAt_le (le 1 type ++ (le 1 16 ++ (le 1 (boolNat (!cw)) ++ [0])))
      (zeros 2 ++ (c.1 ++ (c.2 ++ w64 n))) 2 rank hr
    rw [← hframe]
    simpa [ringSender] using h
  have hbody : slice b 8 104 = c.1 := by
    have h := slice_append (le 1 type ++ (le 1 16 ++ ringSender rank cw)) c.1 (c.2 ++ w64 n)
    rw [← hframe]
    simpa [ringSender_length, hct] using h
  have hseal : slice b 112 16 = c.2 := by
    have h := slice_append (le 1 type ++ (le 1 16 ++ (ringSender rank cw ++ c.1))) c.2 (w64 n)
    rw [← hframe]
    simpa [ringSender_length, hct, htag] using h
  have hcounter : fieldAt b 128 8 = n.toNat := by
    have h := fieldAt_le (le 1 type ++ (le 1 16 ++ (ringSender rank cw ++ (c.1 ++ c.2)))) [] 8 n.toNat n.isLt
    rw [← hframe]
    simpa [ringSender_length, hct, htag, w64] using h
  have haad : slice b 0 1 ++ [0] ++ slice b 2 6 = ringAad rank cw type := by
    rw [htype, hsender, ringAad, List.append_assoc]
  unfold State.openFrame
  dsimp only
  rw [if_pos hcode, hsrc, hcounter, haad, hbody, hseal, hopens, hhops]

/-- Settles O54: GCM decryption undoes encryption under one key, nonce and additional data, and the header of what is sealed
gives its receiver the nonce's parts and the fields that it hands on. -/
theorem sealedTrafficOpens : Obligations.SealedTrafficOpens := by
  unfold Obligations.SealedTrafficOpens
  refine ⟨fun key slot f gen seq ht hd hs hp hg => ?_, fun s p type body _ ht hb => s.takeCtl_ctlBlock p ht hb,
    fun s i rank type cw body n hr ht hb => s.openFrame_ringFrame i cw n hr ht hb⟩
  rw [openFlit_sealFlit ht hd hs hp hg seq.isLt, BitVec.ofNat_toNat, BitVec.setWidth_eq]

end Sys2Proof.Machine
end

section
/-! PROOFS. Grants and withdrawals of host windows and far targets, LINK_CONFIG and LINK_RESET (R246, R250, R448, R450, R455,
R483). -/

namespace Sys2Proof.Machine

theorem rangesMeet_eq_false {a n b m : Nat} (h : ¬ (a < b + m ∧ b < a + n)) : rangesMeet a n b m = false :=
  decide_eq_false h

/-! ### Host windows -/

/-- The window that a HOST_WINDOW request describes. -/
def windowOf (b : Bytes) : HostWindow := ⟨u8 b 2 = 1, windowOwner (u8 b 3).toNat, fieldAt b 8 8, fieldAt b 16 8⟩

/-- R448: a window is granted when its pages lie in the host's address space, its number is free, and it meets none that is
granted, whose owner it is not for data. -/
theorem State.grantWindow_free {s : State} {b : Bytes} (hform : windowForm b = true)
    (hbase : (windowOf b).base % 4096 = 0) (hsize : (windowOf b).size % 4096 = 0) (hpos : 0 < (windowOf b).size)
    (hend : (windowOf b).base + (windowOf b).size ≤ 2 ^ 64)
    (hfree : ∀ e ∈ s.host.windows, e.1 ≠ (u8 b 1).toNat ∧
      ¬ (e.2.base < (windowOf b).base + (windowOf b).size ∧ (windowOf b).base < e.2.base + e.2.size) ∧
      ((windowOf b).objects = false → e.2.objects = false → e.2.owner ≠ (windowOf b).owner)) :
    s.grantWindow b = ({ s with
      host := { s.host with windows := s.host.windows ++ [((u8 b 1).toNat, windowOf b)] } }, Resp.of stOk) := by
  have hmeets : (s.host.windows.any fun e => decide (e.1 = (u8 b 1).toNat) ||
      rangesMeet e.2.base e.2.size (windowOf b).base (windowOf b).size ||
      (!(windowOf b).objects && !e.2.objects && decide (e.2.owner = (windowOf b).owner))) = false := by
    rw [List.any_eq_false]
    intro e he
    obtain ⟨hnumber, hapart, howner⟩ := hfree e he
    have hdata : (!(windowOf b).objects && !e.2.objects && decide (e.2.owner = (windowOf b).owner)) = false := by
      cases hw : (windowOf b).objects <;> cases ho : e.2.objects <;> simp
      exact howner hw ho
    rw [hdata, rangesMeet_eq_false hapart, decide_eq_false hnumber]
    decide
  refine if_neg ?_
  rintro (h | h | h | h | h | h)
  · exact h hform
  · exact h hbase
  · exact h hsize
  · exact hpos.ne' h
  · exact Nat.not_lt.mpr hend h
  · exact absurd (hmeets.symm.trans h) (by decide)

theorem State.withdrawWindow_granted {s : State} {b : Bytes} (hform : bodyForm b 24 [(4, 4)] = true)
    (hgranted : ∃ w, ((u8 b 1).toNat, w) ∈ s.host.windows) : s.withdrawWindow b = ({ s with
      host := { s.host with windows := s.host.windows.filter fun e => e.1 ≠ (u8 b 1).toNat } }, Resp.of stOk) := by
  obtain ⟨w, hw⟩ := hgranted
  refine if_neg ?_
  rintro (h | h)
  · exact h hform
  · exact h (List.any_eq_true.mpr ⟨_, hw, decide_eq_true rfl⟩)

/-! ### Far targets -/

theorem State.grantTarget_free {s : State} {b : Bytes} (hlen : b.length = 24) (hzero : zeroRange b 2 6 = true)
    (hop : u8 b 0 = 0) (hnumber : (u8 b 1).toNat < 16) (hbase : fieldAt b 8 8 % 2 ^ 30 = 0)
    (hsize : fieldAt b 16 8 % 2 ^ 30 = 0) (hpos : 0 < fieldAt b 16 8) (hend : fieldAt b 8 8 + fieldAt b 16 8 ≤ 2 ^ 64)
    (hroom : s.farBytes + fieldAt b 16 8 ≤ 2 ^ 44)
    (hfree : ∀ t ∈ s.host.targets, t.1 ≠ (u8 b 1).toNat ∧
      ¬ (t.2.1 < fieldAt b 8 8 + fieldAt b 16 8 ∧ fieldAt b 8 8 < t.2.1 + t.2.2)) :
    s.grantTarget b = ({ s with host := { s.host with
      targets := s.host.targets ++ [((u8 b 1).toNat, fieldAt b 8 8, fieldAt b 16 8)] } }, Resp.of stOk) := by
  have hmeets : (s.host.targets.any fun t => decide (t.1 = (u8 b 1).toNat) ||
      rangesMeet t.2.1 t.2.2 (fieldAt b 8 8) (fieldAt b 16 8)) = false := by
    rw [List.any_eq_false]
    intro t ht
    obtain ⟨hother, hapart⟩ := hfree t ht
    rw [rangesMeet_eq_false hapart, decide_eq_false hother]
    decide
  have hform : bodyForm b 24 [(2, 6)] = true := by simp [bodyForm, hlen, hzero]
  refine if_neg ?_
  rintro (h | h | h | h | h | h | h | h | h)
  · exact h hform
  · exact h hop
  · omega
  · exact h hbase
  · exact h hsize
  · omega
  · omega
  · omega
  · exact absurd (hmeets.symm.trans h) (by decide)

/-- R483: a target is withdrawn when no open session's far range lies in it. -/
theorem State.withdrawTarget_unused {s : State} {b : Bytes} (hform : bodyForm b 24 [(2, 6)] = true)
    (hgranted : ∃ t, ((u8 b 1).toNat, t) ∈ s.host.targets)
    (hunused : ∀ i < 4, (s.session i).isOpen = true → ∀ u ∈ (s.session i).farParts, u.1 ≠ (u8 b 1).toNat) :
    s.withdrawTarget b = ({ s with
      host := { s.host with targets := s.host.targets.filter fun t => t.1 ≠ (u8 b 1).toNat } }, Resp.of stOk) := by
  obtain ⟨t, ht⟩ := hgranted
  refine if_neg ?_
  rintro (h | h | h)
  · exact h hform
  · exact h (List.any_eq_true.mpr ⟨_, ht, decide_eq_true rfl⟩)
  · obtain ⟨i, hi, hopen⟩ := List.any_eq_true.mp h
    obtain ⟨hopen, hlies⟩ := Bool.and_eq_true_iff.mp hopen
    obtain ⟨u, hu, hsame⟩ := List.any_eq_true.mp hlies
    exact hunused i (List.mem_range.mp hi) hopen u hu (of_decide_eq_true hsame)

theorem State.acceptKey_farParts (s : State) (r : Req) (i : Nat) :
    ((s.acceptKey r).session i).farParts = (s.session i).farParts := by
  obtain ⟨l, hl⟩ := s.acceptKey_session r i
  rw [hl]

/-! ### Ports -/

theorem State.acceptKey_linkGen (s : State) (r : Req) (i : Nat) : (s.acceptKey r).linkGen i = s.linkGen i := by
  unfold State.linkGen State.slotOf
  rw [State.acceptKey_slots]

theorem State.acceptKey_rank (s : State) (r : Req) (i : Nat) : ((s.acceptKey r).session i).rank = (s.session i).rank := by
  obtain ⟨l, hl⟩ := s.acceptKey_session r i
  rw [hl]
  rfl

theorem linkForm_port_lt {b : Bytes} (h : linkForm b = true) : (u8 b 0).toNat < 18 := by
  simp only [linkForm, Bool.and_eq_true, decide_eq_true_eq] at h
  omega

section
variable {s : State} {r : Req} (hform : linkForm r.body = true) (hright : s.linkRight r (u8 r.body 0).toNat = stOk)
include hform hright

theorem State.linkConfig_reads : s.linkConfig false r = (s, Resp.ok (s.port (u8 r.body 0).toNat).config) :=
  (if_neg (not_not_intro hform)).trans (if_neg (not_not_intro hright))

/-- R246: the answer of a write is the configuration that it left. -/
theorem State.linkConfig_writes : s.linkConfig true r =
    (s.setPort (u8 r.body 0).toNat ((s.port (u8 r.body 0).toNat).configure (slice r.body 8 8)),
      Resp.ok ((s.port (u8 r.body 0).toNat).configure (slice r.body 8 8)).config) := by
  refine ((if_neg (not_not_intro hform)).trans (if_neg (not_not_intro hright))).trans ?_
  simp only [↓reduceIte]
  rw [State.onPort, State.setPort_same _ _ (linkForm_port_lt hform)]

end

/-- The RESET flit that a LINK_RESET queues (R250). -/
def State.resetFlit (s : State) (r : Req) (q : Port) : OutFlit :=
  ⟨5, q.peerRank.toNat, (s.session r.session).rank, false, false, zeros 8 ++ w64 s.time.now, s.linkGen r.session, none⟩

theorem exec_linkReset_queued {s : State} {mb : Nat} {r : Req} (h : s.Accepts mb 0x0023 .sealed .work r)
    (hlen : r.body.length = 4) (hzero : zeroRange r.body 1 3 = true) (hp : (u8 r.body 0).toNat < 18)
    (hbound : (s.port (u8 r.body 0).toNat).bound = true)
    (hsession : (s.port (u8 r.body 0).toNat).session.toNat = r.session)
    (hruns : (s.port (u8 r.body 0).toNat).runs = true) :
    exec (.linkReset mb) s = .next (((s.acceptKey r).setPort (u8 r.body 0).toNat
      { s.port (u8 r.body 0).toNat with
        control := (s.port (u8 r.body 0).toNat).control ++ [s.resetFlit r (s.port (u8 r.body 0).toNat)]
        resetMbs := (s.port (u8 r.body 0).toNat).resetMbs ++ [r.mb] }).setMailbox mb
      { s.mailbox mb with state := .serving }) := by
  have hform : bodyForm r.body 4 [(1, 3)] = true := by simp [bodyForm, hlen, hzero]
  have hmailbox : (s.acceptKey r).mailbox mb = s.mailbox mb := by rw [State.mailbox, State.acceptKey_mailboxes]; rfl
  refine congrArg Host.Outcome.next ((State.serve_waits (t := (s.acceptKey r).setPort (u8 r.body 0).toNat
    { s.port (u8 r.body 0).toNat with
      control := (s.port (u8 r.body 0).toNat).control ++ [s.resetFlit r (s.port (u8 r.body 0).toNat)]
      resetMbs := (s.port (u8 r.body 0).toNat).resetMbs ++ [r.mb] }) h rfl ?_).trans ?_)
  · dsimp only
    rw [State.acceptKey_port, State.acceptKey_linkGen, State.acceptKey_rank, State.acceptKey_time]
    refine if_neg ?_
    rintro (hbad | hbad | hbad | hbad | hbad)
    · exact hbad hform
    · omega
    · exact hbad hbound
    · exact hbad hsession
    · exact hbad hruns
  · exact congrArg (fun m => State.setMailbox _ mb { m with state := .serving }) hmailbox

/-- Settles O2: each request meets the conditions of its command's effect in the state that its key's acceptance leaves,
which has the windows, targets and ports of the state before. -/
theorem grantsAndPortsAreCommanded : Obligations.GrantsAndPortsAreCommanded := by
  unfold Obligations.GrantsAndPortsAreCommanded
  refine ⟨fun s mb r => ⟨?grant, ?withdraw, ?grantTarget, ?withdrawTarget⟩, fun s mb r => ⟨?read, ?write, ?reset⟩⟩
  case grant =>
    intro w h hform hop hbase hsize hpos hend hfree
    rw [← s.acceptKey_host r] at hfree
    have hgrant := State.grantWindow_free hform hbase hsize hpos hend hfree
    rw [State.acceptKey_host] at hgrant
    exact State.serve_answered h (by rw [hop]; decide) hgrant
  case withdraw =>
    intro h hform hop hgranted
    rw [← s.acceptKey_host r] at hgranted
    have hwithdraw := State.withdrawWindow_granted hform hgranted
    rw [State.acceptKey_host] at hwithdraw
    exact State.serve_answered h (by rw [hop]; decide) hwithdraw
  case grantTarget =>
    intro h hlen hzero hop hnumber hbase hsize hpos hend hroom hfree
    have hbytes : (s.acceptKey r).farBytes = s.farBytes := by rw [State.farBytes, State.acceptKey_host]; rfl
    rw [← s.acceptKey_host r] at hfree
    have hgrant := State.grantTarget_free hlen hzero hop hnumber hbase hsize hpos hend (hbytes ▸ hroom) hfree
    rw [State.acceptKey_host] at hgrant
    exact State.serve_answered h (by rw [hop]; decide) hgrant
  case withdrawTarget =>
    intro h hform hop hgranted hunused
    rw [← s.acceptKey_host r] at hgranted
    have hwithdraw := State.withdrawTarget_unused hform hgranted fun i hi hopen => by
      rw [State.acceptKey_isOpen] at hopen
      rw [State.acceptKey_farParts]
      exact hunused i hi hopen
    rw [State.acceptKey_host] at hwithdraw
    exact State.serve_answered h (by rw [hop]; decide) hwithdraw
  case read =>
    intro p h hform hright hop
    have hreads := State.linkConfig_reads hform hright
    rw [State.acceptKey_port] at hreads
    exact State.serve_answered h (by rw [hop]; decide) hreads
  case write =>
    intro p q h hform hright hop
    have hwrites := State.linkConfig_writes hform hright
    rw [State.acceptKey_port] at hwrites
    exact State.serve_answered h (by rw [hop]; decide) hwrites
  case reset =>
    intro p q h hmb hlen hzero hp hbound hsession hruns
    refine ⟨s.resetFlit r q, rfl, rfl, rfl, rfl, rfl, ?_⟩
    rw [exec_linkReset_queued h hlen hzero hp hbound hsession hruns, hmb]

end Sys2Proof.Machine
end

section
/-! PROOFS. The states of a Krelas port: training, keying, lanes that fail and peers that are lost (R243, R244, R246,
R255, R256). -/

namespace Sys2Proof.Machine

/-! ### Keying, R256 -/

/-- A port that enters KEYING, before its HELLO. -/
def Port.keyed (q : Port) (epoch now : W64) : Port :=
  { q.again with state := .keying, peerLocked := true, keyEpoch := epoch, txSlot := 0, rxSlot := 0, txCtl := 0, rxCtl := 0,
                 keyingSince := now, discarding := false }

/-- A port none of whose counters stands at its end. -/
theorem Port.limit_of_short {q : Port}
    (h : ¬ [q.txSlot, q.rxSlot, q.txCtl, q.rxCtl].contains (BitVec.allOnes 64) = true) : Port.limit q = q := if_neg h

/-- The first control block under new keys leaves every counter far from its end. -/
theorem Port.sent_keyed (q : Port) (epoch now : W64) (key : Bytes) (type : Nat) (body : Bytes) :
    (q.keyed epoch now).sent key type body =
      { q.keyed epoch now with txCtl := 1, sentBlocks := ctlBlock key 0 type body :: q.sentBlocks } := by
  exact Port.limit_of_short (show ¬ ([0, 0, 0 + 1, 0] : List W64).contains (BitVec.allOnes 64) = true by decide)

section
variable {s : State} {p : Nat} {q : Port} (hp : p < 18)
include hp

theorem State.sendCtl_port (s : State) (type : Nat) (body : Bytes) :
    (s.setPort p q).sendCtl p type body =
      s.setPort p (q.sent ((s.setPort p q).portKey p "KRELAS-CTRL" true) type body) := by
  rw [State.sendCtl, State.onPort_setPort hp, State.setPort_same s q hp]
  rfl

/-- A port enters KEYING with HELLO its first block. -/
theorem State.enterKeying_setPort {x : Session} (hx : s.session q.session.toNat = x) {v : Port}
    (hv : q.keyed x.epoch s.time.now = v) : (s.setPort p q).enterKeying p =
    s.setPort p
      { v with
        txCtl := 1
        sentBlocks :=
          ctlBlock ((s.setPort p v).portKey p "KRELAS-CTRL" true) 0 0 (le 2 x.rank ++ le 1 p) :: v.sentBlocks } := by
  subst hx hv
  unfold State.enterKeying
  dsimp only
  rw [State.onPort_setPort hp, State.setPort_same s q hp]
  exact (State.sendCtl_port hp s 0 _).trans (congrArg (s.setPort p) (Port.sent_keyed q _ _ _ 0 _))

theorem State.startKeying_waits (h : (s.session q.session.toNat).consign = none) :
    (s.setPort p q).startKeying p = s.setPort p q := by
  unfold State.startKeying
  dsimp only
  rw [State.setPort_same s q hp, if_neg]
  rintro ⟨_, _, hconsign⟩
  rw [show ((s.setPort p q).session q.session.toNat).consign = none from h] at hconsign
  exact absurd hconsign (by decide)

theorem State.startKeying_goes (htrain : q.state = .training) (hlanes : q.lanes ≠ 0)
    (h : (s.session q.session.toNat).consign ≠ none) : (s.setPort p q).startKeying p = (s.setPort p q).enterKeying p := by
  unfold State.startKeying
  dsimp only
  rw [State.setPort_same s q hp, if_pos ⟨htrain, hlanes, Option.isSome_iff_ne_none.mpr h⟩]

end

/-! ### Training, R243, R244 -/

/-- The lanes that a port runs on are never none. -/
theorem goodLanes_ne_zero {f l : Byte} (h : goodLanes f = some l) : l ≠ 0 := by
  unfold goodLanes at h
  split_ifs at h <;> cases h <;> decide

theorem goodLanes_none {f : Byte} (hlow : f &&& 0x0F ≠ 0) (hhigh : f &&& 0xF0 ≠ 0) : goodLanes f = none := by
  have hany : f ≠ 0 := fun h => hlow (by rw [h]; decide)
  rw [goodLanes, if_neg hany, if_neg hlow, if_neg hhigh]

/-- What training has left of a port before its outcome is judged. -/
def Port.trained (q : Port) (delay : BitVec 16) (lanes : BitVec 8) : Port :=
  { q.afresh with cableDelay := delay, failedLanes := ~~~lanes }

section
variable {s : State} {p : Nat} {q : Port} {delay : BitVec 16} {lanes : BitVec 8} (hp : p < 18) (hq : s.port p = q)
  (htrain : q.state = .training) (hheld : s.blockHeld (.port p) = false)
include hp hq htrain hheld

theorem exec_portTrainingDone_long (hlong : 1600 < delay.toNat) :
    exec (.portTrainingDone p delay lanes) s = .next (s.setPort p ((q.trained delay lanes).down 1)) := by
  subst hq
  refine congrArg Host.Outcome.next ((if_pos ⟨htrain, by rw [hheld]; decide⟩).trans ((if_pos hlong).trans ?_))
  exact State.onPort_setPort hp _

theorem exec_portTrainingDone_short (hshort : delay.toNat ≤ 1600) : exec (.portTrainingDone p delay lanes) s =
    .next (match goodLanes (~~~lanes) with
      | none => s.setPort p ((q.trained delay lanes).down 4)
      | some l => (s.setPort p { q.trained delay lanes with lanes := l }).startKeying p) := by
  subst hq
  refine congrArg Host.Outcome.next ((if_pos ⟨htrain, by rw [hheld]; decide⟩).trans ((if_neg (by omega)).trans ?_))
  cases goodLanes (~~~lanes) with
  | none => exact State.onPort_setPort hp _
  | some l =>
    exact congrArg (State.startKeying · p)
      (State.onPort_setPort (q := (s.port p).trained delay lanes) hp fun q => { q with lanes := l })

end

/-! ### Lanes that fail, R244 -/

theorem exec_laneFailure {s : State} {p lane : Nat} {q : Port} (hq : s.port p = q)
    (h : q.runs = true ∨ q.state = .keying ∨ (q.state = .training ∧ q.lanes ≠ 0)) :
    exec (.laneFailure p lane) s =
      .next (match goodLanes (setBit q.failedLanes lane) with
        | some l => s.setPort p
            { q with
              failedLanes := setBit q.failedLanes lane, state := if q.runs then .degraded else q.state, lanes := l
              window := [], resend := q.window ++ q.resend }
        | none => s.setPort p ({ q with failedLanes := setBit q.failedLanes lane }.down 4)) := by
  subst hq
  exact congrArg Host.Outcome.next (if_pos (by simpa using h))

/-- Settles O43: a trained port is judged by its delay, then by its lanes, then by its session's consignment; a port that
enters KEYING counts from nothing, so that its HELLO cannot be the last block of its counter. -/
theorem portsChangeState : Obligations.PortsChangeState := by
  unfold Obligations.PortsChangeState
  intro s p lane delay lanes hp q x halves
  have hq : s.port p = q := rfl
  have hx : s.session q.session.toNat = x := rfl
  clear_value x q
  refine ⟨?training, ⟨rfl, rfl, rfl, rfl, rfl, rfl, rfl⟩, fun hkeying hlate => ?_, fun hruns => ?_, ?lanes⟩
  case training =>
    intro htrain hheld w
    refine ⟨fun hlong => exec_portTrainingDone_long hp hq htrain hheld hlong, fun hshort hnone => ?_, fun l hshort hhalf => ?_⟩
    · have hgood : goodLanes (~~~lanes) = none := hnone
      rw [exec_portTrainingDone_short hp hq htrain hheld hshort, hgood]
      rfl
    · have hgood : goodLanes (~~~lanes) = some l := hhalf
      have hexec := exec_portTrainingDone_short (lanes := lanes) hp hq htrain hheld hshort
      rw [hgood] at hexec
      have hlanes : l ≠ 0 := goodLanes_ne_zero hgood
      rw [← hx]
      refine ⟨fun hconsign => hexec.trans (congrArg Host.Outcome.next (State.startKeying_waits hp hconsign)), ?_⟩
      intro hconsign v
      have hgoes := State.startKeying_goes (q := { q.trained delay lanes with lanes := l }) hp htrain hlanes hconsign
      exact hexec.trans (congrArg Host.Outcome.next (hgoes.trans (State.enterKeying_setPort hp rfl (v := v) rfl)))
  · subst hq
    exact congrArg Host.Outcome.next (if_pos ⟨hkeying, hlate⟩)
  · subst hq
    exact congrArg Host.Outcome.next (if_pos hruns)
  case lanes =>
    intro hserves f
    refine ⟨fun hlow hhigh => ?_, fun half hhalf => ?_⟩
    · have hgood : goodLanes (setBit q.failedLanes lane) = none := goodLanes_none hlow hhigh
      rw [exec_laneFailure hq hserves, hgood]
      rfl
    · have hgood : goodLanes (setBit q.failedLanes lane) = some half := hhalf
      rw [exec_laneFailure hq hserves, hgood]
      rfl

end Sys2Proof.Machine
end

section
/-! PROOFS. What a port sends: the flit of each slot, what its queues then hold, and its timestamps (R248 to R254, R284, R305).
-/

namespace Sys2Proof.Machine

/-! ### What a counter's end leaves of a port -/

/-- The end of a counter may take a port DOWN, and changes nothing else of it. -/
theorem Port.limit_eq (q : Port) : ∃ st n l, Port.limit q = { q with state := st, downReason := n, lanes := l } := by
  rcases q.limit_cases with h | h <;> rw [h]
  · exact ⟨q.state, q.downReason, q.lanes, rfl⟩
  · exact ⟨.down, 3, 0, rfl⟩

/-- A port after the slot that it puts on the lanes. -/
theorem Port.afterSlot_slot (q : Port) (k : Slot) : (q.afterSlot k).txSlot = q.txSlot + 1 ∧
    (q.txSlot + 1 = BitVec.allOnes 64 → (q.afterSlot k).state = .down ∧ (q.afterSlot k).downReason = 3) := by
  have hparts : (q.afterSlot k).txSlot = (Port.limit { q with txSlot := q.txSlot + 1 }).txSlot ∧
      (q.afterSlot k).state = (Port.limit { q with txSlot := q.txSlot + 1 }).state ∧
      (q.afterSlot k).downReason = (Port.limit { q with txSlot := q.txSlot + 1 }).downReason := by
    cases k <;> exact ⟨rfl, rfl, rfl⟩
  obtain ⟨hslot, hstate, hreason⟩ := hparts
  obtain ⟨st, n, l, hlimit⟩ := Port.limit_eq { q with txSlot := q.txSlot + 1 }
  refine ⟨by rw [hslot, hlimit], fun hend => ?_⟩
  have hdown : Port.limit { q with txSlot := q.txSlot + 1 } = Port.down { q with txSlot := q.txSlot + 1 } 3 :=
    if_pos (by rw [hend]; simp)
  rw [hstate, hreason, hdown]
  exact ⟨rfl, rfl⟩

/-! ### Which flit a slot takes, R249, R254, R255 -/

/-- Of two data flits, the one whose stream is to go first. -/
def earlierFlit (key : OutFlit → Nat) (best : Option OutFlit) (f : OutFlit) : Option OutFlit :=
  match best with
  | none => some f
  | some g => if key f < key g then some f else best

/-- The data flits among which a port chooses: those of later streams, or all of them once its turns are over. -/
def Port.pool (q : Port) : List OutFlit :=
  let later := q.data.filter fun f => decide (q.lastStream < f.dst * 2048 + f.src)
  if later.isEmpty then q.data else later

theorem Port.nextData_eq (q : Port) :
    q.nextData = q.pool.foldl (earlierFlit fun f => f.dst * 2048 + f.src) none := rfl

theorem earlierFlit_cases (key : OutFlit → Nat) (best : Option OutFlit) (f : OutFlit) :
    earlierFlit key best f = some f ∨ (earlierFlit key best f = best ∧ best ≠ none) := by
  unfold earlierFlit
  split
  · exact .inl rfl
  · split
    · exact .inl rfl
    · exact .inr ⟨rfl, by simp⟩

/-- The flit chosen is one of those it was chosen among. -/
theorem foldl_earlierFlit_mem (key : OutFlit → Nat) (l : List OutFlit) (best : Option OutFlit) {g : OutFlit}
    (h : l.foldl (earlierFlit key) best = some g) : g ∈ l ∨ best = some g := by
  induction l generalizing best with
  | nil => exact .inr h
  | cons f l ih =>
    rcases ih _ h with hmem | hbest
    · exact .inl (List.mem_cons_of_mem _ hmem)
    · rcases earlierFlit_cases key best f with hf | ⟨hkept, _⟩
      · exact .inl (by rw [hf] at hbest; cases hbest; exact List.mem_cons_self)
      · exact .inr (hkept.symm.trans hbest)

theorem foldl_earlierFlit_none (key : OutFlit → Nat) (l : List OutFlit) (best : Option OutFlit)
    (h : l.foldl (earlierFlit key) best = none) : l = [] ∧ best = none := by
  induction l generalizing best with
  | nil => exact ⟨rfl, h⟩
  | cons f l ih =>
    obtain ⟨_, hnone⟩ := ih _ h
    rcases earlierFlit_cases key best f with hf | ⟨hkept, hsome⟩
    · exact absurd (hf.symm.trans hnone) (by simp)
    · exact absurd (hkept.symm.trans hnone) hsome

theorem Port.pool_sub (q : Port) {f : OutFlit} (h : f ∈ q.pool) : f ∈ q.data := by
  unfold Port.pool at h
  dsimp only at h
  split at h
  · exact h
  · exact List.mem_of_mem_filter h

theorem Port.pool_nil {q : Port} (h : q.pool = []) : q.data = [] := by
  unfold Port.pool at h
  dsimp only at h
  split at h
  · exact h
  · rename_i hlater
    exact absurd (List.isEmpty_iff.mpr h) hlater

theorem Port.nextData_mem {q : Port} {f : OutFlit} (h : q.nextData = some f) : f ∈ q.data :=
  q.pool_sub ((foldl_earlierFlit_mem _ _ _ h).resolve_right (by simp))

theorem Port.nextData_none {q : Port} (h : q.nextData = none) : q.data = [] :=
  Port.pool_nil (foldl_earlierFlit_none _ _ _ h).1

/-- The data flit that a port sends when no control flit goes first. -/
def Port.dataSlot (q : Port) : Slot :=
  match q.nextData with
  | some f => if q.dataCredits ≠ 0 then .data f else .idle
  | none => .idle

theorem Port.nextSlot_of_control {q : Port} (hresend : q.resend = []) (hroom : q.window.length < 2048) {f : OutFlit}
    {rest : List OutFlit} (hcontrol : q.control = f :: rest) (hcredit : q.ctlCredits ≠ 0) : q.nextSlot = .control f := by
  unfold Port.nextSlot
  rw [hresend]
  dsimp only
  rw [if_neg (Nat.not_le.mpr hroom), hcontrol]
  exact if_pos hcredit

theorem Port.nextSlot_of_data {q : Port} (hresend : q.resend = []) (hroom : q.window.length < 2048)
    (hcontrol : q.control = [] ∨ q.ctlCredits = 0) : q.nextSlot = q.dataSlot := by
  unfold Port.nextSlot Port.dataSlot
  rw [hresend]
  dsimp only
  rw [if_neg (Nat.not_le.mpr hroom)]
  cases h : q.control with
  | nil => cases q.nextData <;> rfl
  | cons f rest =>
    have hnone : q.ctlCredits = 0 := hcontrol.resolve_left (by rw [h]; exact List.cons_ne_nil _ _)
    exact (if_neg (not_not_intro hnone)).trans (by cases q.nextData <;> rfl)

theorem Port.dataSlot_cases (q : Port) : (∃ f ∈ q.data, q.dataCredits ≠ 0 ∧ q.dataSlot = .data f) ∨
    ((q.data = [] ∨ q.dataCredits = 0) ∧ q.dataSlot = .idle) := by
  unfold Port.dataSlot
  cases hnext : q.nextData with
  | none => exact .inr ⟨.inl (Port.nextData_none hnext), rfl⟩
  | some f =>
    by_cases hcredit : q.dataCredits = 0
    · exact .inr ⟨.inr hcredit, if_neg (not_not_intro hcredit)⟩
    · exact .inl ⟨f, Port.nextData_mem hnext, hcredit, if_pos hcredit⟩

/-- What a slot takes, and what leaves it to the next kind. -/
theorem Port.nextSlot_cases (q : Port) :
    (∃ n f rest, q.resend = (n, f) :: rest ∧ q.nextSlot = .again n f) ∨
    (q.resend = [] ∧ 2048 ≤ q.window.length ∧ q.nextSlot = .idle) ∨
    (q.resend = [] ∧ ∃ f ∈ q.control, q.ctlCredits ≠ 0 ∧ q.nextSlot = .control f) ∨
    (q.resend = [] ∧ (q.control = [] ∨ q.ctlCredits = 0) ∧ ∃ f ∈ q.data, q.dataCredits ≠ 0 ∧ q.nextSlot = .data f) ∨
    (q.resend = [] ∧ (q.control = [] ∨ q.ctlCredits = 0) ∧ (q.data = [] ∨ q.dataCredits = 0) ∧ q.nextSlot = .idle) := by
  cases hresend : q.resend with
  | cons e rest =>
    refine .inl ⟨e.1, e.2, rest, rfl, ?_⟩
    rw [Port.nextSlot, hresend]
  | nil =>
    refine .inr ?_
    by_cases hroom : q.window.length < 2048
    · refine .inr ?_
      by_cases hgoes : q.control ≠ [] ∧ q.ctlCredits ≠ 0
      · obtain ⟨hsome, hcredit⟩ := hgoes
        obtain ⟨f, rest, hcontrol⟩ := List.exists_cons_of_ne_nil hsome
        exact .inl ⟨rfl, f, by rw [hcontrol]; exact List.mem_cons_self, hcredit,
          Port.nextSlot_of_control hresend hroom hcontrol hcredit⟩
      · have hno : q.control = [] ∨ q.ctlCredits = 0 := by
          by_cases hc : q.ctlCredits = 0
          · exact .inr hc
          · exact .inl (not_not.mp fun h => hgoes ⟨h, hc⟩)
        rw [Port.nextSlot_of_data hresend hroom hno]
        rcases q.dataSlot_cases with ⟨f, hf, hcredit, hslot⟩ | ⟨hnone, hslot⟩
        · exact .inr (.inl ⟨rfl, hno, f, hf, hcredit, hslot⟩)
        · exact .inr (.inr ⟨rfl, hno, hnone, hslot⟩)
    · refine .inl ⟨rfl, Nat.le_of_not_lt hroom, ?_⟩
      rw [Port.nextSlot, hresend]
      exact if_pos (Nat.le_of_not_lt hroom)

/-! ### One slot of the transmitter -/

/-- The sequence number and flit that a slot carries. -/
def Port.carries (q : Port) : Slot → BitVec 12 × OutFlit
  | .again n f => (n, f)
  | .control f => (q.txSeq, f)
  | .data f => (q.txSeq, f)
  | .idle => (q.txSeq, idleFlit)

/-- The events that a slot counts: a data flit, or a retransmission. -/
def State.countSent (s : State) (i p : Nat) : Slot → State
  | .data _ => s.perfEvent i (4 + p / 9) (0x200 + p) 1
  | .again _ _ => s.perfEvent i (4 + p / 9) (0x240 + p) 1
  | _ => s

theorem State.countSent_sampled (s : State) (i p : Nat) (k : Slot) : s.Sampled (s.countSent i p k) i := by
  cases k with
  | again n f => exact s.perfEvent_sampled i _ _ 1
  | control f => exact .refl s i
  | data f => exact s.perfEvent_sampled i _ _ 1
  | idle => exact .refl s i

/-- What counting events and then replacing a port leaves. -/
theorem State.Sampled.setPort {s u : State} {i p : Nat} (h : s.Sampled u i) (hp : p < 18) (w : Port) :
    u.setPort p w = { s with
      ports := (u.setPort p w).ports, perf := (u.setPort p w).perf, sessions := (u.setPort p w).sessions
      draws := (u.setPort p w).draws } ∧
    (u.setPort p w).port p = w ∧ (∀ k, k ≠ p → (u.setPort p w).port k = s.port k) ∧
    ∀ j, (u.setPort p w).session j = { s.session j with ring := ((u.setPort p w).session j).ring } := by
  have hsession : ∀ j, (u.setPort p w).session j = { s.session j with ring := ((u.setPort p w).session j).ring } :=
    fun j => by
      obtain ⟨r, hr⟩ := h.session j
      have hkept : (u.setPort p w).session j = { s.session j with ring := r } := hr
      rw [hkept]
  obtain ⟨pf, d, r, rfl⟩ := h
  exact ⟨rfl, State.setPort_same _ w hp, fun k hk => State.setPort_other _ w (Ne.symm hk), hsession⟩

/-- The stamp of a RESET flit changes a port's control queue alone. -/
theorem Port.stampReset_eq (q : Port) (now : W64) : ∃ l, q.stampReset now = { q with control := l } := by
  unfold Port.stampReset
  split
  · split
    · exact ⟨_, rfl⟩
    · exact ⟨q.control, rfl⟩
  · exact ⟨q.control, rfl⟩

/-- A port as its slot finds it: without what it held of an earlier generation, its next RESET flit stamped. -/
def State.readyPort (s : State) (p : Nat) : Port :=
  ((s.port p).purge (s.linkGen (s.port p).session.toNat)).stampReset s.time.now

theorem State.readyPort_keeps (s : State) (p : Nat) : (s.readyPort p).bound = (s.port p).bound ∧
    (s.readyPort p).runs = ((s.port p).purge (s.linkGen (s.port p).session.toNat)).runs := by
  obtain ⟨l, h⟩ := Port.stampReset_eq ((s.port p).purge (s.linkGen (s.port p).session.toNat)) s.time.now
  rw [State.readyPort, h]
  exact ⟨rfl, rfl⟩

/-- A slot's transmission, by the port as the slot finds it. -/
theorem execFlitSlot_eq (s : State) (p : Nat) : execFlitSlot p s = .next (
    if ¬ (s.readyPort p).bound then s
    else if ¬ (s.readyPort p).runs ∨ s.linkStruck (s.port p).session.toNat then
      s.setPort p ((s.port p).purge (s.linkGen (s.port p).session.toNat))
    else if (s.readyPort p).txSlot = BitVec.allOnes 64 then s.setPort p ((s.readyPort p).down 3)
    else
      (s.countSent (s.port p).session.toNat p (s.readyPort p).nextSlot).setPort p
        { (s.readyPort p).afterSlot (s.readyPort p).nextSlot with
          wire := sealFlit (s.portKey p "KRELAS-FLIT" true) (s.readyPort p).txSlot
            ((s.readyPort p).carries (s.readyPort p).nextSlot).2 (s.linkGen (s.port p).session.toNat)
            ((s.readyPort p).carries (s.readyPort p).nextSlot).1.toNat }) := rfl

section
variable {s : State} {p : Nat} (hbound : (s.port p).bound = true)
include hbound

/-- A port that does not run, or has no link key, sends nothing. -/
theorem exec_flitSlot_silent (h : ((s.port p).purge (s.linkGen (s.port p).session.toNat)).runs = false ∨
      s.linkStruck (s.port p).session.toNat = true) :
    exec (.flitSlot p) s = .next (s.setPort p ((s.port p).purge (s.linkGen (s.port p).session.toNat))) := by
  obtain ⟨hb, hr⟩ := s.readyPort_keeps p
  refine (execFlitSlot_eq s p).trans (congrArg Host.Outcome.next ?_)
  rw [hb, hr, if_neg (not_not_intro hbound), if_pos (h.imp_left (by simp))]

variable (hruns : ((s.port p).purge (s.linkGen (s.port p).session.toNat)).runs = true)
  (hlink : s.linkStruck (s.port p).session.toNat = false)
include hruns hlink

/-- R252: a port whose slot counter has run out goes DOWN. -/
theorem exec_flitSlot_spent (hslot : (s.readyPort p).txSlot = BitVec.allOnes 64) :
    exec (.flitSlot p) s = .next (s.setPort p ((s.readyPort p).down 3)) := by
  obtain ⟨hb, hr⟩ := s.readyPort_keeps p
  refine (execFlitSlot_eq s p).trans (congrArg Host.Outcome.next ?_)
  rw [hb, hr, if_neg (not_not_intro hbound), if_neg (by rw [hruns, hlink]; decide), if_pos hslot]

/-- R251: a slot's flit goes out sealed under the slot counter. -/
theorem exec_flitSlot_sends (hslot : (s.readyPort p).txSlot ≠ BitVec.allOnes 64) : exec (.flitSlot p) s =
    .next ((s.countSent (s.port p).session.toNat p (s.readyPort p).nextSlot).setPort p
      { (s.readyPort p).afterSlot (s.readyPort p).nextSlot with
        wire := sealFlit (s.portKey p "KRELAS-FLIT" true) (s.readyPort p).txSlot
          ((s.readyPort p).carries (s.readyPort p).nextSlot).2 (s.linkGen (s.port p).session.toNat)
          ((s.readyPort p).carries (s.readyPort p).nextSlot).1.toNat }) := by
  obtain ⟨hb, hr⟩ := s.readyPort_keeps p
  refine (execFlitSlot_eq s p).trans (congrArg Host.Outcome.next ?_)
  rw [hb, hr, if_neg (not_not_intro hbound), if_neg (by rw [hruns, hlink]; decide), if_neg hslot]

end

/-! ### Timestamps, R305 -/

theorem exec_timestampTick_sends {s : State} {p : Nat} (hp : p < 18) (hruns : (s.port p).runs = true)
    (hdue : (s.port p).lastSentStamp = 0 ∨ (s.port p).lastSentStamp.toNat + ns 4096 ≤ s.time.now.toNat) :
    exec (.timestampTick p) s = .next (s.setPort p
      { (s.port p).sent (s.portKey p "KRELAS-CTRL" true) 4 (w64 s.time.now ++ le 4 (s.residence (s.port p))) with
        lastSentStamp := s.time.now }) := by
  refine congrArg Host.Outcome.next ((if_pos ⟨hruns, hdue⟩).trans ?_)
  exact State.onPort_setPort hp fun q => { q with lastSentStamp := s.time.now }

/-! ### What a slot leaves of the queues, R254, R255 -/

section
variable (q : Port) (f : OutFlit)

theorem Port.afterSlot_control : (q.afterSlot (.control f)).window = q.window ++ [(q.txSeq, f)] ∧
    (q.afterSlot (.control f)).txSeq = q.txSeq + 1 ∧ (q.afterSlot (.control f)).ctlCredits = q.ctlCredits - 1 := by
  obtain ⟨st, n, l, h⟩ := Port.limit_eq { q with txSlot := q.txSlot + 1 }
  unfold Port.afterSlot
  rw [h]
  exact ⟨rfl, rfl, rfl⟩

theorem Port.afterSlot_data : (q.afterSlot (.data f)).window = q.window ++ [(q.txSeq, f)] ∧
    (q.afterSlot (.data f)).txSeq = q.txSeq + 1 ∧ (q.afterSlot (.data f)).dataCredits = q.dataCredits - 1 ∧
    (q.afterSlot (.data f)).dataTx = satAdd q.dataTx 1 := by
  obtain ⟨st, n, l, h⟩ := Port.limit_eq { q with txSlot := q.txSlot + 1 }
  unfold Port.afterSlot
  rw [h]
  exact ⟨rfl, rfl, rfl, rfl⟩

theorem Port.afterSlot_again (n : BitVec 12) : (q.afterSlot (.again n f)).window = q.window ++ [(n, f)] ∧
    (q.afterSlot (.again n f)).retry = satAdd q.retry 1 := by
  obtain ⟨st, k, l, h⟩ := Port.limit_eq { q with txSlot := q.txSlot + 1 }
  unfold Port.afterSlot
  rw [h]
  exact ⟨rfl, rfl⟩

/-- R284: what the queues and the retry store keep is of the generation in use. -/
theorem Port.mem_purge (g : Nat) : (f ∈ (q.purge g).data ↔ f ∈ q.data ∧ f.gen = g) ∧
    (f ∈ (q.purge g).control ↔ f ∈ q.control ∧ f.gen = g) ∧
    ∀ n, (n, f) ∈ (q.purge g).unacked ↔ (n, f) ∈ q.unacked ∧ f.gen = g := by
  refine ⟨by simp [Port.purge], by simp [Port.purge], fun n => ?_⟩
  rw [Port.unacked, Port.purge, ← List.filter_append]
  simp [Port.unacked, or_and_right]

/-- Which kind of flit a slot takes says what the port holds and what it has credits for. -/
theorem Port.nextSlot_kinds :
    (q.nextSlot = .control f → q.ctlCredits ≠ 0 ∧ f ∈ q.control) ∧
    (q.nextSlot = .data f → q.dataCredits ≠ 0 ∧ f ∈ q.data ∧ (q.control = [] ∨ q.ctlCredits = 0)) ∧
    (q.nextSlot = .idle → q.resend = [] ∧
      (2048 ≤ q.window.length ∨ ((q.control = [] ∨ q.ctlCredits = 0) ∧ (q.data = [] ∨ q.dataCredits = 0)))) := by
  rcases q.nextSlot_cases with ⟨n, g, rest, _, h⟩ | ⟨hresend, hfull, h⟩ | ⟨_, g, hg, hcredit, h⟩ |
    ⟨_, hcontrol, g, hg, hcredit, h⟩ | ⟨hresend, hcontrol, hdata, h⟩ <;> rw [h]
  · exact ⟨by simp, by simp, by simp⟩
  · exact ⟨by simp, by simp, fun _ => ⟨hresend, .inl hfull⟩⟩
  · exact ⟨fun e => by cases e; exact ⟨hcredit, hg⟩, by simp, by simp⟩
  · exact ⟨by simp, fun e => by cases e; exact ⟨hcredit, hg, hcontrol⟩, by simp⟩
  · exact ⟨by simp, by simp, fun _ => ⟨hresend, .inr ⟨hcontrol, hdata⟩⟩⟩

end

/-- The flit that the obligation names is the one that the slot carries. -/
theorem Port.carries_of_named {q : Port} {n : BitVec 12} {f : OutFlit}
    (h : q.nextSlot = .again n f ∨
      (n = q.txSeq ∧ (q.nextSlot = .control f ∨ q.nextSlot = .data f ∨ (q.nextSlot = .idle ∧ f = idleFlit)))) :
    q.carries q.nextSlot = (n, f) := by
  rcases h with h | ⟨rfl, h | h | ⟨h, rfl⟩⟩ <;> rw [h] <;> rfl

/-- Settles O40: a slot's flit is sealed under the slot counter that it moves on, which may end there; what it counts touches
no port; and the flit is chosen by what the port holds and has credits for. -/
theorem flitsLeave : Obligations.FlitsLeave := by
  unfold Obligations.FlitsLeave
  refine ⟨?slot, ?choice, ?stamp⟩
  case slot =>
    intro s p n f hp hbound i r q
    refine ⟨fun h => exec_flitSlot_silent hbound h, fun hruns hlink hspent => exec_flitSlot_spent hbound hruns hlink hspent,
      fun hruns hlink hslot hnamed => ?_⟩
    have hsends := exec_flitSlot_sends hbound hruns hlink hslot
    rw [Port.carries_of_named (q := s.readyPort p) hnamed] at hsends
    obtain ⟨hmoved, hend⟩ := q.afterSlot_slot q.nextSlot
    obtain ⟨hframe, hport, hother, hsession⟩ := (s.countSent_sampled i p q.nextSlot).setPort hp
      { q.afterSlot q.nextSlot with
        wire := sealFlit (s.portKey p "KRELAS-FLIT" true) q.txSlot f (s.linkGen i) n.toNat }
    refine ⟨_, hsends, hframe, hport, ?_, fun hlast => ?_, fun k _ hk => hother k hk, fun j _ => hsession j⟩
    · exact (congrArg Port.txSlot hport).trans hmoved
    · obtain ⟨hdown, hreason⟩ := hend hlast
      exact ⟨(congrArg Port.state hport).trans hdown, (congrArg Port.downReason hport).trans hreason⟩
  case choice =>
    intro q f g
    obtain ⟨hcontrol, hdata, hidle⟩ := q.nextSlot_kinds f
    obtain ⟨hpdata, hpcontrol, hpunacked⟩ := q.mem_purge f g
    refine ⟨fun n rest h => by rw [Port.nextSlot, h], fun hresend hfull => ?_,
      fun hresend hroom rest h hcredit => Port.nextSlot_of_control hresend hroom h hcredit, fun h => ?_, fun h => ?_,
      fun n _ => q.afterSlot_again f n, hidle, ⟨hpdata, hpcontrol⟩, hpunacked⟩
    · rw [Port.nextSlot, hresend]
      exact if_pos hfull
    · exact ⟨(hcontrol h).1, (hcontrol h).2, q.afterSlot_control f⟩
    · obtain ⟨hcredit, hmem, hno⟩ := hdata h
      exact ⟨hcredit, hmem, hno, q.afterSlot_data f⟩
  case stamp =>
    intro s p hp hruns q hdue
    exact exec_timestampTick_sends hp hruns hdue

end Sys2Proof.Machine
end

section
/-! PROOFS. Control blocks: the one clause of their obligation that fails. A LINK_RESET that an acknowledgement completes
passes its mailbox's turn on (R471), and a request of an unknown code that waited behind it is then answered as well (R481):
that mailbox is none of those that the block completes, and it does not stay as it was. -/

namespace Sys2Proof.Machine

/-- R253, R254: an acknowledgement whose tag verifies names a place in the sequence. -/
theorem exec_ack_ctlBlock {s : State} {p : Nat} {body : Bytes} (hb : body.length ≤ 12)
    (hbound : (s.port p).bound = true) (hruns : (s.port p).runs = true) :
    exec (.ack p (ctlBlock (s.portKey p "KRELAS-CTRL" false) (s.port p).rxCtl 1 body)) s =
      .next ((s.setPort p (Port.limit { s.port p with rxCtl := (s.port p).rxCtl + 1 })).acknowledged p false
        (BitVec.ofNat 12 (fieldAt (padTo 12 body) 0 2))) := by
  have htake := s.takeCtl_ctlBlock p (type := 1) (by decide) hb
  have hready : s.ctlReady p Port.runs = true := by rw [State.ctlReady, hbound, hruns]; rfl
  have hexec : ∀ b, exec (.ack p b) s = execAck p b s := fun _ => rfl
  rw [hexec, execAck, State.takeAck, if_pos hready, htake]

/-- A RESET flit of this member. -/
def waitingReset : OutFlit := ⟨5, 0, 0, false, false, [], 0, none⟩

/-- A running port with one flit not acknowledged, for which the LINK_RESET in mailbox 16 waits. -/
def waitingPort : Port :=
  { Port.reset with bound := true, state := .up, window := [(0, waitingReset)], resetMbs := [16] }

/-- A module in PS0 with that port, its LINK_RESET in service, and in the next mailbox of the group a request of code 0, which
no command has. -/
def waitingState : State :=
  ({ State.reset with
    power := { PowerPins.reset with power := .ps0 }
    resets := { Resets.reset with inReset := none }
    mailboxes := vset (vset State.reset.mailboxes 16 { Mailbox.reset with state := .serving }) 17
      { Mailbox.reset with state := .submitted } } : State).setPort 0 waitingPort

theorem waitingState_port : waitingState.port 0 = waitingPort := State.setPort_same _ _ (by decide)

/-- The acknowledgement of that flit completes mailbox 16, and mailbox 17 with it. -/
theorem waitingState_acknowledged :
    (((waitingState.setPort 0 (Port.limit { waitingPort with rxCtl := 1 })).acknowledged 0 false 0).mailbox 17).state =
      .done := by decide

/-- Refutes O42: the acknowledgement of a RESET flit completes its LINK_RESET, whose turn passes to a waiting request of an
unknown code; that request's mailbox is answered too, where the obligation has it as it was. -/
theorem not_controlBlocksAct : ¬ Obligations.ControlBlocksAct := by
  unfold Obligations.ControlBlocksAct
  intro h
  have hbody : (le 2 0).length ≤ 12 := by decide
  have hbound : (waitingState.port 0).bound = true := by rw [waitingState_port]; rfl
  have hruns : (waitingState.port 0).runs = true := by rw [waitingState_port]; rfl
  have hexec := exec_ack_ctlBlock hbody hbound hruns
  obtain ⟨hhead, htag, htype, hzero, hfield⟩ := ctlBlock_fields hbody (waitingState.portKey 0 "KRELAS-CTRL" false)
    (waitingState.port 0).rxCtl (type := 1) (by decide)
  generalize ctlBlock (waitingState.portKey 0 "KRELAS-CTRL" false) (waitingState.port 0).rxCtl 1 (le 2 0) = b
    at hexec hhead htag htype hzero hfield
  have hseq : BitVec.ofNat 12 (fieldAt (padTo 12 (le 2 0)) 0 2) = 0 := by decide
  have hwaits : (waitingState.port 0).winPos 0 = some 0 := by rw [waitingState_port]; decide
  have hresets : (waitingState.port 0).resetsIn
      (waitingState.session (waitingState.port 0).session.toNat).rank (0 + 1) ≠ 0 := by rw [waitingState_port]; decide
  obtain ⟨_, _, _, hack, _⟩ := h waitingState 0 b (by decide) hbound
  obtain ⟨_, hcovers⟩ := hack hruns ⟨not_not_intro (by rw [hhead]; exact htag), htype, hzero⟩
  obtain ⟨_, _, hsettles⟩ := hcovers 0 (by rw [hfield, hseq]; exact hwaits)
  obtain ⟨t, ht, _, hother, _⟩ := hsettles hresets
  rw [hexec, hseq, waitingState_port] at ht
  have hkept := hother 17 (by decide) (by rw [waitingState_port]; decide)
  rw [← Host.Outcome.next.inj ht] at hkept
  have hdone := (congrArg Mailbox.state hkept).symm.trans waitingState_acknowledged
  exact absurd hdone (by decide)

end Sys2Proof.Machine
end

section
/-! PROOFS. CONSIGN_CONFIG and ROUTING_LOAD (R257, R262, R315 to R317, R482): the link key derived afresh, the timebase words
of the ring's session, and the ports that enter KEYING. -/

namespace Sys2Proof.Machine

/-! ### What a request reads of the host -/

section
variable (s : State) (r : Req)

theorem State.acceptKey_windowOk (objects : Bool) (owner : Option Nat) (a n : Nat) :
    (s.acceptKey r).windowOk objects owner a n = s.windowOk objects owner a n := by
  rw [State.windowOk, State.acceptKey_host]
  rfl

theorem State.acceptKey_cacheReady : (s.acceptKey r).cacheReady = s.cacheReady := by
  rw [State.cacheReady, State.acceptKey_host, State.acceptKey_fw]
  rfl

theorem State.acceptKey_hostLoad (a n : Nat) : (s.acceptKey r).hostLoad a n = s.hostLoad a n := by
  rw [State.hostLoad, State.acceptKey_host]
  rfl

theorem State.acceptKey_slotOf (i : Nat) (k : SlotKind) : (s.acceptKey r).slotOf i k = s.slotOf i k := by
  rw [State.slotOf, State.acceptKey_slots]
  rfl

theorem State.acceptKey_keySlot (n : Nat) : (s.acceptKey r).keySlot n = s.keySlot n := by
  rw [State.keySlot, State.acceptKey_slots]
  rfl

end

/-! ### Trained ports enter KEYING, R256, R316 -/

/-- What becomes of a port when session `i` is configured: one of its own that has trained enters KEYING with the keys of an
epoch, and every other stays as it was. -/
def Port.Keys (q r : Port) (i : Nat) (epoch : W64) : Prop :=
  if q.bound = true ∧ q.session.toNat = i ∧ q.state = .training ∧ q.lanes ≠ 0 then
    r.state = .keying ∧ r.peerLocked = true ∧ r.keyEpoch = epoch
  else r = q

/-- A port of the session that has trained enters KEYING. -/
def State.keyPort (i : Nat) (s : State) (p : Nat) : State :=
  if (s.port p).bound ∧ (s.port p).session.toNat = i then s.startKeying p else s

theorem State.keyPorts_eq (s : State) (i : Nat) : s.keyPorts i = (List.range 18).foldl (State.keyPort i) s := rfl

theorem State.setPort_self (s : State) (p : Nat) : s.setPort p (s.port p) = s := by
  rw [State.setPort, State.port, vset_vget]

theorem State.keyPort_keys {s : State} {i p : Nat} (hp : p < 18) (hconsign : (s.session i).consign ≠ none) :
    (s.keyPort i p = { s with ports := (s.keyPort i p).ports } ∧ ∀ k, k ≠ p → (s.keyPort i p).port k = s.port k) ∧
      (s.port p).Keys ((s.keyPort i p).port p) i (s.session i).epoch := by
  by_cases h : (s.port p).bound = true ∧ (s.port p).session.toNat = i ∧ (s.port p).state = .training ∧ (s.port p).lanes ≠ 0
  · obtain ⟨hbound, rfl, htrain, hlanes⟩ := h
    have hgoes := State.startKeying_goes hp htrain hlanes hconsign
    rw [State.setPort_self] at hgoes
    have henters := State.enterKeying_setPort (s := s) (q := s.port p) hp rfl rfl
    rw [State.setPort_self] at henters
    have hkey : s.keyPort (s.port p).session.toNat p = _ := (if_pos ⟨hbound, rfl⟩).trans (hgoes.trans henters)
    rw [Port.Keys, if_pos ⟨hbound, rfl, htrain, hlanes⟩, hkey, State.setPort_same _ _ hp]
    exact ⟨⟨rfl, fun k hk => State.setPort_other _ _ (Ne.symm hk)⟩, rfl, rfl, rfl⟩
  · have hkey : s.keyPort i p = s := by
      unfold State.keyPort
      split
      · rename_i hown
        exact if_neg fun ⟨htrain, hlanes, _⟩ => h ⟨hown.1, hown.2, htrain, hlanes⟩
      · rfl
    rw [Port.Keys, if_neg h, hkey]
    exact ⟨⟨rfl, fun _ _ => rfl⟩, rfl⟩

/-- R316: each port of the session that waited in TRAINING enters KEYING, and nothing but ports changes. -/
theorem State.keyPorts_upTo {s : State} {i : Nat} (hconsign : (s.session i).consign ≠ none) (n : Nat) (hn : n ≤ 18) :
    (List.range n).foldl (State.keyPort i) s = { s with ports := ((List.range n).foldl (State.keyPort i) s).ports } ∧
      (∀ k < n, (s.port k).Keys (((List.range n).foldl (State.keyPort i) s).port k) i (s.session i).epoch) ∧
      ∀ k, n ≤ k → ((List.range n).foldl (State.keyPort i) s).port k = s.port k := by
  induction n with
  | zero => exact ⟨rfl, fun k hk => absurd hk (Nat.not_lt_zero k), fun _ _ => rfl⟩
  | succ n ih =>
    obtain ⟨hframe, hkeys, hrest⟩ := ih (by omega)
    rw [List.range_succ, List.foldl_append, List.foldl_cons, List.foldl_nil]
    generalize (List.range n).foldl (State.keyPort i) s = t at hframe hkeys hrest
    have hsession : t.session i = s.session i := by rw [hframe]; rfl
    obtain ⟨⟨hstep, hothers⟩, hkeyed⟩ := State.keyPort_keys (s := t) (i := i) (p := n) (by omega) (by rw [hsession]; exact hconsign)
    refine ⟨?_, fun k hk => ?_, fun k hk => (hothers k (by omega)).trans (hrest k (by omega))⟩
    · rw [hstep, hframe]
    · by_cases hlast : k = n
      · subst hlast
        rw [← hrest k (le_refl k), ← hsession]
        exact hkeyed
      · rw [hothers k hlast]
        exact hkeys k (by omega)

/-! ### The timebase words, R295 -/

theorem State.joinRing_eq (s : State) (i : Nat) : s.joinRing i = { s with time := (s.joinRing i).time } ∧
    (s.joinRing i).time.now = s.time.now ∧ (s.ringSession ≠ some i → (s.joinRing i).time = s.time) ∧
    (s.ringSession = some i → (s.joinRing i).time.grandmaster = decide ((s.session i).rank = 0) ∧
      (s.time.sync = .free → (s.joinRing i).time.sync = .acquiring)) := by
  by_cases h : s.ringSession = some i
  · have hjoin : s.joinRing i = _ := if_pos h
    rw [hjoin]
    exact ⟨rfl, rfl, fun hne => absurd h hne, fun _ => ⟨rfl, fun hfree => if_pos hfree⟩⟩
  · have hjoin : s.joinRing i = s := if_neg h
    rw [hjoin]
    exact ⟨rfl, rfl, fun _ => rfl, fun hsame => absurd hsame h⟩

/-! ### CONSIGN_CONFIG, R315, R316 -/

/-- What a consignment's configuration leaves of its session. -/
def Session.configured (x : Session) (c : Consign) : Session :=
  { x with consign := some c, linkSalt := c.nonceDigest, frameSeq := 0, shares := [] }

/-- The machine once a session's consignment is kept and its link key derived afresh, before the ring and the ports take part.
-/
def State.configured (s : State) (i n : Nat) (c : Consign) : State :=
  { s.setSession i ((s.session i).configured c) with
    slots := vset s.slots n { s.keySlot n with
      key := (s.session i).linkKey c.nonceDigest, gen := satAdd (s.keySlot n).gen 1 } }

theorem State.rekeyLink_configured {s : State} {i n : Nat} (hi : i < 4) (hslot : s.slotOf i .link = some n) (c : Consign) :
    ((s.rekeyLink i c.nonceDigest).onSession i fun x =>
      { x with consign := some c, linkSalt := c.nonceDigest, frameSeq := 0 }) = s.configured i n c := by
  unfold State.rekeyLink
  rw [hslot]
  dsimp only
  rw [State.onSession, State.onSession_same _ _ hi, State.onSession, State.setSession_twice]
  rfl

section
variable {s : State} {r : Req} {n : Nat} {c : Consign} (hc : consignOf r.body = c)
  (hconsignment : (s.session r.session).isConsignment = true) (hform : consignForm r.body = true)
  (hrings : c.ringsOk = true) (hport : s.timePortOk r.session c = true)
  (hrouting : (s.session r.session).routingFits c = true)
  (hwindow : s.windowOk true (some r.session) (fieldAt r.body 8 8) (32 * c.members) = true) (hready : s.cacheReady = true)
  (hdigest : Crypto.sha512 (s.hostLoad (fieldAt r.body 8 8) (32 * c.members)) = c.nonceDigest)
  (hnonce : slice (s.hostLoad (fieldAt r.body 8 8) (32 * c.members)) (32 * c.rank) 32 = (s.session r.session).memberNonce)
  (hfirst : (s.session r.session).consign = none) (hslot : s.slotOf r.session .link = some n)
  (hgen : (s.keySlot n).gen.toNat + 1 < 2 ^ 32 - 1)
include hc hconsignment hform hrings hport hrouting hwindow hready hdigest hnonce hfirst hslot hgen

theorem State.configConsign_kept (hi : r.session < 4) : s.configConsign r =
    (((s.configured r.session n c).joinRing r.session).keyPorts r.session, Resp.of stOk) := by
  subst hc
  have hrebinds : s.linkRebinds r.session = true := by
    rw [State.linkRebinds, hslot]
    exact decide_eq_true hgen
  unfold State.configConsign
  dsimp only
  rw [if_neg, if_neg (not_not_intro hready), if_neg (not_not_intro hdigest), if_neg, if_neg (not_not_intro hrebinds),
    State.rekeyLink_configured hi hslot]
  · rw [hfirst]
    exact fun h => h.elim (· hnonce) (by simp)
  · rintro (h | h | h | h | h | h)
    · exact h hconsignment
    · exact h hform
    · exact h hrings
    · exact h hport
    · exact h hrouting
    · exact h hwindow

end

/-- What the ring and the ports do once a session is configured. -/
theorem State.configured_joins {s : State} {i n : Nat} (hi : i < 4) (c : Consign) :
    ∃ t, ((s.configured i n c).joinRing i).keyPorts i = t ∧
      t = { s.configured i n c with ports := t.ports, time := t.time } ∧
      (∀ k < 18, (s.port k).Keys (t.port k) i (s.session i).epoch) ∧
      t.time.now = s.time.now ∧ (t.ringSession ≠ some i → t.time = s.time) ∧
      (t.ringSession = some i → t.time.grandmaster = decide (c.rank = 0) ∧
        (s.time.sync = .free → t.time.sync = .acquiring)) := by
  refine ⟨_, rfl, ?_⟩
  have hsession : (s.configured i n c).session i = (s.session i).configured c := vget_vset_same _ _ _ hi
  obtain ⟨hring, hnow, hkept, hjoins⟩ := (s.configured i n c).joinRing_eq i
  rw [hsession] at hjoins
  have hsession' : ((s.configured i n c).joinRing i).session i = (s.session i).configured c := by
    rw [hring]; exact hsession
  have hport : ∀ k, ((s.configured i n c).joinRing i).port k = s.port k := fun k => by rw [hring]; rfl
  obtain ⟨hframe, hkeys, _⟩ := State.keyPorts_upTo (s := (s.configured i n c).joinRing i) (i := i)
    (by rw [hsession']; exact Option.some_ne_none c) 18 (le_refl 18)
  rw [← State.keyPorts_eq] at hframe hkeys
  generalize ((s.configured i n c).joinRing i).keyPorts i = t at hframe hkeys
  have htime : t.time = ((s.configured i n c).joinRing i).time := by rw [hframe]
  have hserved : t.ringSession = (s.configured i n c).ringSession := by rw [hframe, hring]; rfl
  rw [htime, hserved]
  refine ⟨?_, fun k hk => ?_, hnow, hkept, hjoins⟩
  · rw [hframe]
    dsimp only
    rw [hring]
  · have h := hkeys k hk
    rw [hport, hsession'] at h
    exact h

/-! ### ROUTING_LOAD, R257, R262, R317 -/

/-- What a routing set leaves of its session. -/
def Session.routed (x : Session) (o : Bytes) (ranks groups : Nat) : Session :=
  { x with
    routing := o.take (2048 * ranks)
    routingDigest := Crypto.sha512 (o.take (2048 * ranks))
    groups := (List.range groups).map fun g => groupRanks (slice o (2048 * ranks + 4160 * g) 4160) }

section
variable {s : State} {r : Req} {a ranks groups : Nat} {o : Bytes} (ha : fieldAt r.body 0 8 = a)
  (hn : fieldAt r.body 8 2 = ranks) (hg : (u8 r.body 10).toNat = groups)
  (ho : s.hostLoad a (2048 * ranks + 4160 * groups) = o) (hform : bodyForm r.body 80 [(11, 5)] = true)
  (hcount : (s.session r.session).rankCountOk ranks = true) (hmost : groups ≤ 15)
  (hsome : groups ≠ 0 → (s.session r.session).isConsignment = true)
  (hwindow : s.windowOk true (some r.session) a (2048 * ranks + 4160 * groups) = true) (hready : s.cacheReady = true)
  (hdigest : Crypto.sha512 o = slice r.body 16 64) (hrouting : (s.session r.session).routingOk o ranks groups = true)
include ha hn hg ho hform hcount hmost hsome hwindow hready hdigest hrouting

theorem State.loadRouting_kept : s.loadRouting r =
    (s.setSession r.session ((s.session r.session).routed o ranks groups), Resp.of stOk) := by
  subst ha hn hg ho
  unfold State.loadRouting
  dsimp only
  rw [if_neg, if_neg (not_not_intro hready), if_neg (not_not_intro hdigest), if_neg (not_not_intro hrouting)]
  · rfl
  · rintro (h | h | h | ⟨h, hno⟩ | h)
    · exact h hform
    · exact h hcount
    · omega
    · exact hno (hsome h)
    · exact h hwindow

end

/-- Settles O13: the checks of both commands read the state that their key's acceptance leaves, which shows the host, slots and
ports of the state before; a configuration then joins the ring and keys the ports that waited for it. -/
theorem consignmentsConfigure : Obligations.ConsignmentsConfigure := by
  unfold Obligations.ConsignmentsConfigure
  intro s mb r u x
  refine ⟨?consign, ?routing⟩
  case consign =>
    intro n c a nonces h hi hconsignment hform hrings hport hrouting hfirst hwindow hready hdigest hnonce hslot hgen
    have hkept := State.configConsign_kept (s := u) (n := n) rfl hconsignment hform hrings hport hrouting
      ((s.acceptKey_windowOk r _ _ _ _).trans hwindow) ((s.acceptKey_cacheReady r).trans hready)
      (by rw [State.acceptKey_hostLoad]; exact hdigest) (by rw [State.acceptKey_hostLoad]; exact hnonce) hfirst
      ((s.acceptKey_slotOf r _ _).trans hslot) (by rw [State.acceptKey_keySlot]; exact hgen) hi
    obtain ⟨t, ht, hframe, hkeys, hnow, hfixed, hserved⟩ := State.configured_joins (s := u) (n := n) hi c
    rw [State.acceptKey_time] at hnow hfixed hserved
    refine ⟨t, State.serve_answered h rfl (hkept.trans (congrArg (·, Resp.of stOk) ht)), ?_, fun k hk => ?_, hnow, hfixed, hserved⟩
    · rw [State.configured, State.acceptKey_slots, State.acceptKey_keySlot] at hframe
      exact hframe
    · have hport := hkeys k hk
      rw [State.acceptKey_port] at hport
      exact hport
  case routing =>
    intro a ranks groups o h hform hcount hmost hsome hwindow hready hdigest hrouting
    have hkept := State.loadRouting_kept (s := u) rfl rfl rfl (s.acceptKey_hostLoad r _ _) hform hcount hmost hsome
      ((s.acceptKey_windowOk r _ _ _ _).trans hwindow) ((s.acceptKey_cacheReady r).trans hready) hdigest hrouting
    exact State.serve_answered h rfl hkept

end Sys2Proof.Machine
end


section
/-! PROOFS. The engine of collectives. A launched collective that takes what has arrived stays launched or finishes, and
every other descriptor in progress stays as it was (`State.Advances`); what else the engine's work changes is its session
and the free parts of the machine (`State.Aside`). -/

namespace Sys2Proof.Machine

/-! ### What the work leaves of the rest of the machine -/

/-- Work that leaves tallies, key slots, mailboxes, resets, the lifecycle and every other session. -/
def State.Aside (s t : State) (i : Nat) : Prop :=
  t.tallies = s.tallies ∧ t.slots = s.slots ∧ t.mailboxes = s.mailboxes ∧ t.resets = s.resets ∧ t.lc = s.lc ∧
    ∀ j < 4, j ≠ i → t.session j = s.session j

section
variable {s t u : State} {i : Nat}

theorem State.Aside.trans (h : s.Aside t i) (g : t.Aside u i) : s.Aside u i := by
  obtain ⟨h1, h2, h3, h4, h5, h6⟩ := h
  obtain ⟨g1, g2, g3, g4, g5, g6⟩ := g
  exact ⟨g1.trans h1, g2.trans h2, g3.trans h3, g4.trans h4, g5.trans h5, fun j hj hji => (g6 j hj hji).trans (h6 j hj hji)⟩

theorem State.Sorts.aside (h : s.Sorts t i) : s.Aside t i := by
  obtain ⟨h1, h2, _⟩ := h
  exact ⟨by rw [h1], by rw [h1], by rw [h1], by rw [h1], by rw [h1], h2⟩

theorem State.OwnWork.aside (h : s.OwnWork t i) : s.Aside t i := by
  obtain ⟨h1, h2, _⟩ := h
  exact ⟨by rw [h1], by rw [h1], by rw [h1], by rw [h1], by rw [h1], h2⟩

/-! ### The descriptors in progress and the groups -/

/-- What the engine goes by of a session: its descriptors in progress and its groups. -/
def Session.roster (x : Session) : List Op × (Nat → List Nat) := (x.ops, x.groupOf)

/-- The roster of a session. -/
def State.roster (s : State) (i : Nat) : List Op × (Nat → List Nat) := (s.session i).roster

theorem State.roster_op? (h : t.roster i = s.roster i) (c q : Nat) : (t.session i).op? c q = (s.session i).op? c q := by
  rw [Session.op?, show (t.session i).ops = (s.session i).ops from congrArg Prod.fst h]
  rfl

theorem State.roster_groupOf (h : t.roster i = s.roster i) : (t.session i).groupOf = (s.session i).groupOf :=
  congrArg Prod.snd h

theorem State.roster_onSession (s : State) (i : Nat) (f : Session → Session) (hf : ∀ x, (f x).roster = x.roster) :
    (s.onSession i f).roster i = s.roster i := by
  unfold State.roster
  by_cases hi : i < 4
  · rw [State.onSession_same s f hi, hf]
  · rw [State.session, State.onSession, State.setSession, vset_beyond _ _ (by omega)]; rfl

theorem State.roster_foldl {β : Type} {f : State → β → State} (hf : ∀ s b, (f s b).roster i = s.roster i) (l : List β)
    (s : State) : (l.foldl f s).roster i = s.roster i := by
  induction l generalizing s with
  | nil => rfl
  | cons b l ih => rw [List.foldl_cons, ih, hf]

theorem State.roster_of_kept (hi : i < 4) (h : t.kept i = s.kept i) : t.roster i = s.roster i := by
  have hcore := State.core_session (State.core_of_kept hi h)
  have hgroup : (t.session i).core.groupOf = (s.session i).core.groupOf := by rw [hcore]
  exact Prod.ext (State.core_ops (State.core_of_kept hi h)) hgroup

/-- A job after accesses, whoever owned them: what work of its session keeps of the machine is as before. -/
def Job.Keeps (j k : Job) : Prop := k.sess = j.sess ∧ k.st.kept j.sess = j.st.kept j.sess

theorem Job.Keeps.refl (j : Job) : j.Keeps j := ⟨rfl, rfl⟩

theorem Job.Keeps.trans {j k l : Job} (h : j.Keeps k) (g : k.Keeps l) : j.Keeps l := by
  obtain ⟨h1, h2⟩ := h
  obtain ⟨g1, g2⟩ := g
  rw [h1] at g1 g2
  exact ⟨g1, g2.trans h2⟩

theorem Job.Keeps.of_kept {j k : Job} (a : Nat) (h : k.kept = ({ j with owner := a } : Job).kept) : j.Keeps k :=
  ⟨Job.kept_sess (j := { j with owner := a }) h, Job.kept_st (j := { j with owner := a }) h⟩

/-- A fold of accesses that carries a result beside the job. -/
theorem Job.Keeps.foldl_fst {β γ : Type} {f : Job × γ → β → Job × γ} (hf : ∀ (a : Job × γ) b, a.1.Keeps (f a b).1) (l : List β)
    (a : Job × γ) : a.1.Keeps (l.foldl f a).1 := by
  induction l generalizing a with
  | nil => exact .refl a.1
  | cons b l ih => exact (hf a b).trans (ih (f a b))

theorem Job.readFlat_keeps (j : Job) (d : Bytes) (q : Source) (k n : Nat) : j.Keeps (j.readFlat d q k n).1 := by
  refine .of_kept q.party ?_
  unfold Job.readFlat
  dsimp only
  split <;> simp

theorem Job.readRanges_keeps (j : Job) (d : Bytes) (q : Source) (l : List (Nat × Nat)) :
    j.Keeps (j.readRanges d q l).1 :=
  .foldl_fst (fun (a : Job × List (Nat × List Nat × Bytes)) r => a.1.readFlat_keeps d q r.1 r.2) (joinRanges l) (j, [])

theorem Job.writeFlat_keeps (j : Job) (d : Bytes) (k : Nat) (codes : List Nat) (scales : Bytes) :
    j.Keeps (j.writeFlat d k codes scales) := by
  refine .of_kept (clOutParty d) ?_
  unfold Job.writeFlat
  dsimp only
  split <;> simp

theorem Job.sources_keeps (j : Job) (d : Bytes) : j.Keeps (j.sources d).1 := by
  refine .of_kept j.owner ?_
  unfold Job.sources
  dsimp only
  split <;> simp

theorem Job.sizeTable_keeps (j : Job) (d : Bytes) (g : Nat) : j.Keeps (j.sizeTable d g).1 :=
  .of_kept j.owner (Job.kept_read _ _ _)

end

/-! ### Flits that are sent -/

section
variable (s : State) (i : Nat)

theorem State.roster_neverAcked (l : List OutFlit) : (s.neverAcked i l).roster i = s.roster i := by
  unfold State.neverAcked
  dsimp only
  split
  · rfl
  · exact s.roster_onSession i _ fun _ => rfl

theorem State.roster_forward (f : OutFlit) : (s.forward i f).roster i = s.roster i := by
  unfold State.forward
  dsimp only
  split
  · rfl
  · rw [State.roster_neverAcked]
    exact s.roster_onSession i (fun x => { x with coll := { x.coll with routeDrop := satAdd x.coll.routeDrop 1 } })
      fun _ => rfl

theorem State.roster_sendChunk (dst : Nat) (o : Op) (header data : Bytes) :
    (s.sendChunk i dst o header data).roster i = s.roster i := by
  have hflits := State.roster_foldl (fun t f => t.roster_forward i f)
    (chunkFlits dst (s.session i).rank (o.ctx, o.seq) header data) s
  unfold State.sendChunk
  dsimp only
  rw [State.roster_onSession _ i (fun x => { x with coll := { x.coll with chunksTx := satAdd x.coll.chunksTx 1 } })
    fun _ => rfl]
  exact hflits

theorem State.roster_postLeaf (dst : Nat) (o : Op) (header data : Bytes) :
    (s.postLeaf i dst o header data).roster i = s.roster i := by
  unfold State.postLeaf
  split
  · exact s.roster_onSession i _ fun _ => rfl
  · exact s.roster_sendChunk i dst o header data

theorem State.postLeaf_sorts (dst : Nat) (o : Op) (header data : Bytes) :
    s.Sorts (s.postLeaf i dst o header data) i := by
  unfold State.postLeaf
  split
  · exact .onSession s i _ fun _ => rfl
  · exact s.sendChunk_sorts i dst o header data

theorem State.roster_residue (half fails retired taints : Nat) :
    (s.residue i half fails retired taints).roster i = s.roster i := by
  unfold State.residue
  refine (State.roster_onSession _ i _ fun x => ?_).trans rfl
  dsimp only
  split <;> rfl

end

/-! ### Descriptors that advance -/

/-- A descriptor whose work has gone on: sources, sizes, elements written and taint alone have changed. -/
def Op.WorkedTo (o p : Op) : Prop :=
  p = { o with sources := p.sources, sizes := p.sizes, progress := p.progress, taint := p.taint }

/-- What a launched collective of `g` members becomes when it takes what has arrived: still launched, or finished, and
with ST_OK only when nothing is to come. -/
def Op.Follows (o p : Op) (g : Nat) : Prop :=
  p.desc = o.desc ∧ p.slot = o.slot ∧ p.index = o.index ∧
    (p.stage = .launched ∨ p.stage = .finished ∧ (p.status = stOk → p.outcome g = some stOk))

/-- Session `i` keeps its groups, every launched descriptor goes on, and every other stays as it was. -/
def State.Advances (s t : State) (i : Nat) : Prop :=
  (t.session i).groupOf = (s.session i).groupOf ∧
    ∀ c q o, (s.session i).op? c q = some o →
      (o.stage ≠ .launched → (t.session i).op? c q = some o) ∧
      (o.stage = .launched → ∃ p, (t.session i).op? c q = some p ∧
        o.Follows p ((s.session i).groupOf (clGroup o.desc)).length)

theorem Op.Follows.trans {o p r : Op} {g : Nat} (h : o.Follows p g) (hr : p.Follows r g) : o.Follows r g := by
  obtain ⟨h1, h2, h3, _⟩ := h
  obtain ⟨r1, r2, r3, hstage⟩ := hr
  exact ⟨r1.trans h1, r2.trans h2, r3.trans h3, hstage⟩

theorem Op.WorkedTo.follows {o p : Op} (h : o.WorkedTo p) (hl : o.stage = .launched) (g : Nat) : o.Follows p g := by
  rw [h]
  exact ⟨rfl, rfl, rfl, .inl hl⟩

/-- A collective that ends with a status is finished; it ends with ST_OK only when nothing is to come. -/
theorem Op.WorkedTo.follows_ended {o p : Op} {st : Status} {g : Nat} (h : o.WorkedTo p)
    (hst : st = stOk → p.outcome g = some stOk) : o.Follows { p with stage := .finished, status := st } g := by
  refine ⟨?_, ?_, ?_, .inr ⟨rfl, hst⟩⟩ <;> rw [h]

theorem Op.WorkedTo.op? {o p : Op} {x : Session} (h : o.WorkedTo p) (ho : x.op? o.ctx o.seq = some o) :
    x.op? p.ctx p.seq = some o := by
  rw [h]
  exact ho

theorem Session.op?_setOp_other (x : Session) {p : Op} {c q : Nat} (h : ¬(p.ctx = c ∧ p.seq = q)) :
    (x.setOp p).op? c q = x.op? c q := by
  unfold Session.op? Session.setOp
  dsimp only
  induction x.ops with
  | nil => rfl
  | cons a l ih =>
    rw [List.map_cons, List.find?_cons, List.find?_cons, ih]
    by_cases ha : a.ctx = p.ctx ∧ a.seq = p.seq
    · have hne : ¬(a.ctx = c ∧ a.seq = q) := by rwa [ha.1, ha.2]
      simp [ha, h]
    · rw [if_neg ha]

section
variable {s t u : State} {i : Nat}

theorem State.Advances.of_roster (h : t.roster i = s.roster i) : s.Advances t i := by
  refine ⟨State.roster_groupOf h, fun c q o ho => ?_⟩
  rw [State.roster_op? h, ho]
  exact ⟨fun _ => rfl, fun hl => ⟨o, rfl, rfl, rfl, rfl, .inl hl⟩⟩

theorem State.Advances.refl (s : State) (i : Nat) : s.Advances s i := .of_roster rfl

theorem State.Advances.trans (h : s.Advances t i) (g : t.Advances u i) : s.Advances u i := by
  obtain ⟨hgroup, hops⟩ := h
  obtain ⟨ggroup, gops⟩ := g
  refine ⟨ggroup.trans hgroup, fun c q o ho => ⟨fun hl => (gops c q o ((hops c q o ho).1 hl)).1 hl, fun hl => ?_⟩⟩
  obtain ⟨p, hp, hfollows⟩ := (hops c q o ho).2 hl
  obtain ⟨gstay, ggo⟩ := gops c q p hp
  by_cases hpl : p.stage = .launched
  · obtain ⟨r, hr, hrfollows⟩ := ggo hpl
    rw [hgroup, hfollows.1] at hrfollows
    exact ⟨r, hr, hfollows.trans hrfollows⟩
  · exact ⟨p, gstay hpl, hfollows⟩

theorem State.Advances.foldl {β : Type} {f : State → β → State} (hf : ∀ s b, State.Advances s (f s b) i) (l : List β)
    (s : State) : s.Advances (l.foldl f s) i := by
  induction l generalizing s with
  | nil => exact .refl s i
  | cons b l ih => exact (hf s b).trans (ih (f s b))

/-- A launched descriptor is replaced by one that follows it. -/
theorem State.Advances.setOp {o p : Op} (hi : i < 4) (ho : (s.session i).op? p.ctx p.seq = some o)
    (hl : o.stage = .launched) (hp : o.Follows p ((s.session i).groupOf (clGroup o.desc)).length) :
    s.Advances (s.onSession i fun x => x.setOp p) i := by
  unfold State.Advances
  rw [State.onSession_same _ _ hi]
  refine ⟨rfl, fun c q r hr => ?_⟩
  by_cases hkey : p.ctx = c ∧ p.seq = q
  · obtain ⟨rfl, rfl⟩ := hkey
    cases Option.some.inj (ho.symm.trans hr)
    exact ⟨fun h => absurd hl h, fun _ => ⟨p, Session.op?_setOp ho, hp⟩⟩
  · rw [Session.op?_setOp_other _ hkey, hr]
    exact ⟨fun _ => rfl, fun hrl => ⟨r, rfl, rfl, rfl, rfl, .inl hrl⟩⟩

/-- A job settled into the machine: its descriptor goes on, or it is finished with a bad status. -/
theorem State.closeJob_advances {o p : Op} (hi : i < 4) (ho : (s.session i).op? o.ctx o.seq = some o)
    (hl : o.stage = .launched) (hp : o.WorkedTo p) (j : Job) : s.Advances (s.closeJob i p j) i := by
  unfold State.closeJob
  split
  · exact .setOp hi (hp.op? ho) hl (hp.follows hl _)
  · rename_i hst
    exact .setOp hi (hp.op? ho) hl (hp.follows_ended fun h => absurd h hst)

theorem Op.workedTo_tookCopy (o : Op) (sender : Nat) (c : Chunk) : o.WorkedTo (o.tookCopy sender c) := by
  unfold Op.WorkedTo Op.tookCopy
  dsimp only
  split <;> rfl

theorem State.copyChunk_advances {o : Op} (hi : i < 4) (ho : (s.session i).op? o.ctx o.seq = some o)
    (hl : o.stage = .launched) (c : Chunk) : s.Advances (s.copyChunk i o c) i := by
  have hdrop : ∀ k codes scales, (((s.job i o (clOutParty o.desc)).writeFlat o.desc k codes scales).st.onSession i fun x =>
      x.dropChunks (· = c)).roster i = s.roster i := fun k codes scales =>
    (State.roster_onSession _ i (fun x => x.dropChunks (· = c)) fun _ => rfl).trans
      (State.roster_of_kept hi (Job.writeFlat_keeps _ _ _ _ _).2)
  unfold State.copyChunk
  dsimp only
  exact (State.Advances.of_roster (hdrop _ _ _)).trans
    (State.closeJob_advances hi ((State.roster_op? (hdrop _ _ _) _ _).trans ho) hl (o.workedTo_tookCopy _ c) _)

theorem State.reduceOwn_advances {o : Op} (hi : i < 4) (ho : (s.session i).op? o.ctx o.seq = some o)
    (hl : o.stage = .launched) (half : Nat) (faults : List AddFault) : s.Advances (s.reduceOwn i o half faults) i := by
  unfold State.reduceOwn
  extract_lets x d group held c leaves late tagged
  split
  rename_i k n _
  extract_lets cuts fs bad hit taints t
  have ht : t.roster i = s.roster i := by
    unfold t
    split
    · rfl
    · exact State.roster_residue { s with draws := s.draws + bad.length } i _ _ _ _
  clear_value t
  split
  · exact .refl s i
  · split
    · exact .refl s i
    · extract_lets vals all u v j
      have hu : u.roster i = s.roster i := by
        unfold u
        rw [State.roster_onSession t i _ ?_, ht]
        exact fun _ => rfl
      have hv : v.roster i = s.roster i := (State.roster_of_kept hi (u.kept_perfEvent i _ _ _)).trans hu
      clear_value v
      split
      rename_i codes sb cnt _
      extract_lets sent j' j'' w
      have hj : j''.st.roster i = s.roster i := by
        have hcounted : j.Keeps j' := .of_kept j.owner (by unfold j'; simp)
        exact (State.roster_of_kept hi (hcounted.trans (j'.writeFlat_keeps _ _ _ _)).2).trans hv
      clear_value j''
      have hw : w.roster i = s.roster i := by
        unfold w
        split
        · refine (State.roster_foldl (fun t r => ?_) _ _).trans hj
          split
          · rfl
          · exact State.roster_foldl (fun t c => t.roster_sendChunk i _ _ _ _) _ _
        · exact hj
      exact (State.Advances.of_roster hw).trans
        (State.closeJob_advances hi ((State.roster_op? hw _ _).trans ho) hl (by rfl) j'')

/-- A launched collective takes what has arrived for it. -/
theorem State.advanceOne_advances (s : State) (hi : i < 4) (half : Nat) (faults : List AddFault) (o : Op) :
    s.Advances (s.advanceOne i half faults o) i := by
  unfold State.advanceOne
  split
  · exact .refl s i
  · split
    · extract_lets copies t
      have ht : s.Advances t i := by
        refine .foldl (fun t c => ?_) _ _
        split
        · rename_i p hp
          obtain ⟨hctx, hseq, _⟩ := Session.op?_some hp
          split
          · rename_i hl
            exact State.copyChunk_advances hi (by rw [hctx, hseq]; exact hp) hl c
          · exact .refl t i
        · exact .refl t i
      clear_value t
      split
      · exact ht
      · rename_i p hp
        obtain ⟨hctx, hseq, _⟩ := Session.op?_some hp
        extract_lets u
        have hu : s.Advances u i := by
          unfold u
          split
          · rename_i hl
            exact ht.trans (State.reduceOwn_advances hi (by rw [hctx, hseq]; exact hp) hl.2 half faults)
          · exact ht
        clear_value u
        split
        · exact hu
        · rename_i r hr
          obtain ⟨hrctx, hrseq, _⟩ := Session.op?_some hr
          split
          · rename_i hl
            split
            · rename_i st hst
              exact hu.trans (.setOp hi (by rw [hrctx, hrseq]; exact hr) hl
                (Op.WorkedTo.follows_ended (o := r) (p := r) rfl fun h => hst.trans (congrArg some h)))
            · exact hu
          · exact hu
    · exact .refl s i

theorem State.advanceColl_advances (s : State) (hi : i < 4) (half : Nat) (faults : List AddFault) :
    s.Advances (s.advanceColl i half faults) i := by
  have hstale : (s.onSession i Session.dropStale).roster i = s.roster i := s.roster_onSession i _ fun _ => rfl
  have hops := State.Advances.foldl (fun t o => t.advanceOne_advances hi half faults o)
    ((s.onSession i Session.dropStale).session i).ops (s.onSession i Session.dropStale)
  have hcredits := fun t : State => State.Advances.of_roster (s := t) (t := t.settleCredits i) (i := i)
    (congrArg Session.roster (State.Answers.session (t.settleCredits_answers i) i))
  exact (State.Advances.of_roster hstale).trans (hops.trans (hcredits _))

end

/-! ### The data that leave -/

/-- A job of the engine that has read its sources and sent their data. -/
def Job.Sends (j k : Job) : Prop :=
  k.sess = j.sess ∧ j.st.Aside k.st j.sess ∧ k.st.roster j.sess = j.st.roster j.sess

theorem Job.Sends.refl (j : Job) : j.Sends j := ⟨rfl, (State.Sorts.refl j.st j.sess).aside, rfl⟩

theorem Job.Sends.trans {j k l : Job} (h : j.Sends k) (g : k.Sends l) : j.Sends l := by
  obtain ⟨h1, h2, h3⟩ := h
  obtain ⟨g1, g2, g3⟩ := g
  rw [h1] at g1 g2 g3
  exact ⟨g1, h2.trans g2, g3.trans h3⟩

theorem Job.Keeps.sends {j k : Job} (h : j.Keeps k) (hi : j.sess < 4) : j.Sends k :=
  ⟨h.1, (State.ownWork_of_kept hi h.2).aside, State.roster_of_kept hi h.2⟩

theorem Job.post_sends (j : Job) (hi : j.sess < 4) (o : Op) (q : Source) (index : Nat) (cuts : List (Nat × Nat × Nat)) :
    j.Sends (j.post o q index cuts) := by
  have hread := (j.readRanges_keeps o.desc q (cuts.map (·.2))).sends hi
  unfold Job.post
  generalize j.readRanges o.desc q (cuts.map (·.2)) = r at hread
  obtain ⟨k, l⟩ := r
  dsimp only
  split
  · refine hread.trans ⟨rfl, State.Sorts.aside (.foldl (fun t c => ?_) _ _), State.roster_foldl (fun t c => ?_) _ _⟩
    · exact t.postLeaf_sorts k.sess _ _ _ _
    · exact t.roster_postLeaf k.sess _ _ _ _
  · exact hread

theorem Job.postAll_sends (j : Job) (hi : j.sess < 4) (o : Op) (group : List Nat) (r : Nat) :
    j.Sends (j.postAll o group r) := by
  unfold Job.postAll
  generalize o.sources.zip (List.range o.sources.length) = l
  induction l generalizing j with
  | nil => exact .refl j
  | cons q l ih =>
    have hpost := j.post_sends hi o q.1 (if clReduces o.desc then r * o.sources.length + q.2 else 0) (sourceCuts o group)
    exact hpost.trans (ih _ (by rw [hpost.1]; exact hi))

/-! ### A collective's run -/

/-- What a collective reads at its launch: its job, with the size table of an EXCHANGE_V, and its sources. -/
def State.collReads (s : State) (i : Nat) (p : Op) : (Job × List (List Nat)) × List Source × Bool :=
  let a := (s.job i p (clOutParty p.desc)).sources p.desc
  (if p.code = opExchangeV then a.1.sizeTable p.desc ((s.session i).groupOf (clGroup p.desc)).length else (a.1, []), a.2)

/-- The collective with what it has read. -/
def State.collOp (s : State) (i : Nat) (p : Op) : Op :=
  { p with sources := (s.collReads i p).2.1, sizes := (s.collReads i p).1.2 }

/-- The checks of what a collective has read (R265 to R269). -/
def State.collGood (s : State) (i : Nat) (p : Op) : Bool :=
  let r := s.collReads i p
  (r.1.1.st.session i).sourcesGood p.desc ((s.session i).groupOf (clGroup p.desc)).length r.2.1 r.2.2 r.1.2

/-- The job that has sent the data of a collective. -/
def State.collSent (s : State) (i : Nat) (p : Op) : Job :=
  let group := (s.session i).groupOf (clGroup p.desc)
  (s.collReads i p).1.1.postAll (s.collOp i p) group (groupRank group (s.session i).rank)

/-- The work of a collective whose checks hold and whose early data are whole. -/
def State.collRun (s : State) (i : Nat) (faults : List AddFault) (p : Op) : State :=
  ((s.collSent i p).st.closeJob i (s.collOp i p) (s.collSent i p)).advanceColl i 0 faults

section
variable {s : State} {i : Nat} {p : Op}

theorem State.collReads_keeps (s : State) (i : Nat) (p : Op) :
    (s.job i p (clOutParty p.desc)).Keeps (s.collReads i p).1.1 := by
  have hsources := (s.job i p (clOutParty p.desc)).sources_keeps p.desc
  unfold State.collReads
  dsimp only
  split
  · exact hsources.trans (Job.sizeTable_keeps _ _ _)
  · exact hsources

theorem State.collReads_sess (s : State) (i : Nat) (p : Op) : (s.collReads i p).1.1.sess = i := (s.collReads_keeps i p).1

theorem State.collReads_kept (s : State) (i : Nat) (p : Op) : (s.collReads i p).1.1.st.kept i = s.kept i :=
  (s.collReads_keeps i p).2

theorem State.collOp_worked (s : State) (i : Nat) (p : Op) : p.WorkedTo (s.collOp i p) := rfl

/-- The reads leave the member's rank and the early data that were dropped. -/
theorem State.collReads_session (hi : i < 4) :
    ((s.collReads i p).1.1.st.session i).rank = (s.session i).rank ∧
      ((s.collReads i p).1.1.st.session i).lost = (s.session i).lost := by
  have hcore := State.core_session (State.core_of_kept hi (s.collReads_kept i p))
  have hrank := congrArg Session.rank hcore
  have hlost := congrArg Session.lost hcore
  exact ⟨hrank, hlost⟩

theorem State.runCollective_eq (hi : i < 4) (faults : List AddFault) :
    s.runCollective i faults p =
      if (s.collReads i p).1.1.status ≠ stOk then
        (s.collReads i p).1.1.st.finishOp i (s.collOp i p) (s.collReads i p).1.1.status
      else if ¬ s.collGood i p then (s.collReads i p).1.1.st.finishOp i (s.collOp i p) stRefused
      else if (s.session i).lost.contains p.collKey then
        (s.collReads i p).1.1.st.finishOp i (s.collOp i p) stRevoked
      else s.collRun i faults p := by
  obtain ⟨hrank, hlost⟩ := State.collReads_session (s := s) (p := p) hi
  unfold State.collRun State.collSent
  dsimp only
  rw [← hrank, ← hlost]
  rfl

/-- A collective that ends at its launch. -/
theorem State.collReads_finishOp (hi : i < 4) (hp : (s.session i).op? p.ctx p.seq = some p) (hl : p.stage = .launched)
    {st : Status} (hst : st ≠ stOk) :
    s.Aside ((s.collReads i p).1.1.st.finishOp i (s.collOp i p) st) i ∧
      s.Advances ((s.collReads i p).1.1.st.finishOp i (s.collOp i p) st) i := by
  have hkept := s.collReads_kept i p
  have hroster := State.roster_of_kept hi hkept
  have hop := (State.roster_op? hroster p.ctx p.seq).trans hp
  refine ⟨(State.ownWork_of_kept hi hkept).aside.trans (State.finishOp_sorts _ i _ _).aside,
    (State.Advances.of_roster hroster).trans (.setOp hi hop hl ?_)⟩
  exact (s.collOp_worked i p).follows_ended fun h => absurd h hst

theorem State.collSent_sends (hi : i < 4) : (s.collReads i p).1.1.Sends (s.collSent i p) :=
  Job.postAll_sends _ (by rw [s.collReads_sess]; exact hi) _ _ _

theorem State.collSent_work (hi : i < 4) : s.Aside (s.collSent i p).st i ∧ (s.collSent i p).st.roster i = s.roster i := by
  obtain ⟨_, haside, hroster⟩ := State.collSent_sends (s := s) (p := p) hi
  rw [s.collReads_sess] at haside hroster
  have hkept := s.collReads_kept i p
  exact ⟨(State.ownWork_of_kept hi hkept).aside.trans haside, hroster.trans (State.roster_of_kept hi hkept)⟩

theorem State.collRun_goes (hi : i < 4) (hp : (s.session i).op? p.ctx p.seq = some p) (hl : p.stage = .launched)
    (faults : List AddFault) : s.Aside (s.collRun i faults p) i ∧ s.Advances (s.collRun i faults p) i := by
  obtain ⟨haside, hroster⟩ := State.collSent_work (s := s) (p := p) hi
  have hclose := State.closeJob_advances hi ((State.roster_op? hroster _ _).trans hp) hl (s.collOp_worked i p) (s.collSent i p)
  exact ⟨haside.trans ((State.closeJob_sorts _ i _ _).trans (State.advanceColl_sorts _ i 0 faults)).aside,
    (State.Advances.of_roster hroster).trans (hclose.trans (State.advanceColl_advances _ hi 0 faults))⟩

theorem State.runCollective_goes (hi : i < 4) (hp : (s.session i).op? p.ctx p.seq = some p) (hl : p.stage = .launched)
    (faults : List AddFault) : s.Aside (s.runCollective i faults p) i ∧ s.Advances (s.runCollective i faults p) i := by
  rw [State.runCollective_eq hi]
  split
  · rename_i hst
    exact State.collReads_finishOp hi hp hl hst
  · split
    · exact State.collReads_finishOp hi hp hl (by decide)
    · split
      · exact State.collReads_finishOp hi hp hl (by decide)
      · exact State.collRun_goes hi hp hl faults

end

section
variable {s : State} {o : OpRef} {p : Op}

theorem State.collReads_ends (h : s.op? o = some p) (st : Status) :
    ((s.collReads o.session p).1.1.st.finishOp o.session (s.collOp o.session p) st).Ends o (s.collOp o.session p) st := by
  obtain ⟨hctx, hseq, _⟩ := Session.op?_some h
  have hroster := State.roster_of_kept (State.op?_lt h) (s.collReads_kept o.session p)
  exact State.finishOp_ends (p := s.collOp o.session p) st ((State.roster_op? hroster _ _).trans h) hctx hseq

/-- A collective whose sending meets a bad status ends with it. -/
theorem State.collRun_ends (h : s.op? o = some p) (faults : List AddFault)
    (hst : (s.collSent o.session p).status ≠ stOk) :
    (s.collRun o.session faults p).Ends o (s.collOp o.session p) (s.collSent o.session p).status := by
  obtain ⟨hctx, hseq, _⟩ := Session.op?_some h
  have hi := State.op?_lt h
  obtain ⟨_, hroster⟩ := State.collSent_work (s := s) (p := p) hi
  have hends := State.finishOp_ends (s := (s.collSent o.session p).st) (p := s.collOp o.session p)
    (s.collSent o.session p).status ((State.roster_op? hroster _ _).trans h) hctx hseq
  unfold State.collRun State.closeJob
  rw [if_neg hst]
  obtain ⟨_, hkeep⟩ := State.advanceColl_advances ((s.collSent o.session p).st.finishOp o.session (s.collOp o.session p)
    (s.collSent o.session p).status) hi 0 faults
  exact (hkeep _ _ _ hends).1 (by decide : Stage.finished ≠ .launched)

/-- A collective whose reading meets a bad status ends with it. -/
theorem State.runCollective_met (h : s.op? o = some p) (faults : List AddFault)
    (hst : (s.collReads o.session p).1.1.status ≠ stOk) :
    let t := s.runCollective o.session faults p
    t = (s.collReads o.session p).1.1.st.finishOp o.session (s.collOp o.session p) (s.collReads o.session p).1.1.status ∧
      t.Ends o (s.collOp o.session p) (s.collReads o.session p).1.1.status := by
  rw [State.runCollective_eq (State.op?_lt h), if_pos hst]
  exact ⟨rfl, State.collReads_ends h _⟩

theorem State.runCollective_refused (h : s.op? o = some p) (faults : List AddFault)
    (hst : (s.collReads o.session p).1.1.status = stOk) (hgood : s.collGood o.session p = false) :
    let t := s.runCollective o.session faults p
    t = (s.collReads o.session p).1.1.st.finishOp o.session (s.collOp o.session p) stRefused ∧
      t.Ends o (s.collOp o.session p) stRefused := by
  rw [State.runCollective_eq (State.op?_lt h), if_neg (not_not.mpr hst), if_pos (ne_true_of_eq_false hgood)]
  exact ⟨rfl, State.collReads_ends h _⟩

theorem State.runCollective_revoked (h : s.op? o = some p) (faults : List AddFault)
    (hst : (s.collReads o.session p).1.1.status = stOk) (hgood : s.collGood o.session p = true)
    (hlost : p.collKey ∈ (s.session o.session).lost) :
    let t := s.runCollective o.session faults p
    t = (s.collReads o.session p).1.1.st.finishOp o.session (s.collOp o.session p) stRevoked ∧
      t.Ends o (s.collOp o.session p) stRevoked := by
  rw [State.runCollective_eq (State.op?_lt h), if_neg (not_not.mpr hst), if_neg (not_not.mpr hgood),
    if_pos (List.contains_iff_mem.mpr hlost)]
  exact ⟨rfl, State.collReads_ends h _⟩

theorem State.runCollective_runs (h : s.op? o = some p) (faults : List AddFault)
    (hst : (s.collReads o.session p).1.1.status = stOk) (hgood : s.collGood o.session p = true)
    (hlost : p.collKey ∉ (s.session o.session).lost) :
    s.runCollective o.session faults p = s.collRun o.session faults p := by
  rw [State.runCollective_eq (State.op?_lt h), if_neg (not_not.mpr hst), if_neg (not_not.mpr hgood),
    if_neg fun hin => hlost (List.contains_iff_mem.mp hin)]

theorem State.collAt_some {c : Nat} (h : s.collAt o c = some p) :
    s.op? o = some p ∧ p.code = c ∧ p.stage = .launched := by
  obtain ⟨hlaunched, _⟩ := Option.filter_eq_some_iff.mp h
  obtain ⟨hp, hcode, hstage, _⟩ := State.launched_some hlaunched
  exact ⟨hp, hcode, hstage⟩

/-- The five collectives run alike; the additions of the two that reduce may fail their residue check. -/
theorem exec_collective {c : Nat} {cmd : Instr} {f : List AddFault}
    (hcmd : (c = opExchange ∧ cmd = Instr.exchange o) ∨ (c = opExchangeV ∧ cmd = Instr.exchangeV o) ∨
      (c = opReduceScatter ∧ cmd = Instr.reduceScatter o f) ∨ (c = opAllGather ∧ cmd = Instr.allGather o) ∨
      (c = opAllReduce ∧ cmd = Instr.allReduce o f)) (h : s.collAt o c = some p) :
    exec cmd s =
      .next (s.runCollective o.session (if c = opReduceScatter ∨ c = opAllReduce then f else []) p) := by
  rcases hcmd with ⟨rfl, rfl⟩ | ⟨rfl, rfl⟩ | ⟨rfl, rfl⟩ | ⟨rfl, rfl⟩ | ⟨rfl, rfl⟩
  · change execExchange o s = _
    rw [execExchange, h]; rfl
  · change execExchangeV o s = _
    rw [execExchangeV, h]; rfl
  · change execReduceScatter o f s = _
    rw [execReduceScatter, h]; rfl
  · change execAllGather o s = _
    rw [execAllGather, h]; rfl
  · change execAllReduce o f s = _
    rw [execAllReduce, h]; rfl

end

/-! ### Completion -/

/-- Credits go back on the session's own ports alone, and on those that owe some. -/
theorem State.settleCredits_port (s : State) {i k : Nat}
    (h : (s.port k).bound = false ∨ (s.port k).session.toNat ≠ i ∨ (s.port k).owed = 0) :
    (s.settleCredits i).port k = s.port k := by
  unfold State.settleCredits
  generalize List.range 18 = l
  induction l generalizing s with
  | nil => rfl
  | cons p l ih =>
    rw [List.foldl_cons]
    dsimp only
    split
    · rename_i hp
      obtain ⟨hbound, hsession, howed, _⟩ := hp
      have hpk : p ≠ k := by
        rintro rfl
        rcases h with h | h | h
        · rw [h] at hbound; cases hbound
        · exact h hsession
        · exact howed h
      have hport : ∀ f : Port → Port, ((s.sendCtl p 3 (le 2 (min (s.port p).owed 65535) ++ le 2 0)).onPort p f).port k =
          s.port k := fun f => by
        rw [State.onPort, State.setPort_other _ _ hpk, State.sendCtl, State.onPort, State.setPort_other _ _ hpk]
      rw [ih _ (by rwa [hport]), hport]
    · exact ih s h

/-- What a completed collective leaves of its session: its counts, neither its chunks nor its unsent flits. -/
def Session.collLeft (x : Session) (p : Op) (k : CollRec) : Session :=
  { x.dropChunks fun c => (x.chunksOf p).contains c with
    coll := k, unsent := x.unsent.filter fun w => w ≠ (p.ctx, p.seq) }

/-- The collectives a session has completed, with one that ends with a status (R282). -/
def CollRec.ended (k : CollRec) (st : Status) : CollRec := if st = stOk then { k with done := satAdd k.done 1 } else k

theorem exec_collectiveComplete_done {s : State} {o : OpRef} {p : Op} (h : s.op? o = some p)
    (hpower : s.power.power = .ps0 ∨ s.power.power = .ps1) (hc : p.isCollective = true) (hl : p.stage = .finished)
    (hgone : p.status ≠ stOk ∨ s.flitsGone o.session p = true) :
    exec (.collectiveComplete o) s =
      .next (((s.ended o.session p p.status true).onSession o.session fun y =>
        y.collLeft p ((s.session o.session).coll.ended p.status)).settleCredits o.session) := by
  have hi := State.op?_lt h
  obtain ⟨hctx, hseq, _⟩ := Session.op?_some h
  have hruns : s.runsIn 13 = true := by
    rcases hpower with h | h <;> simp [State.runsIn, h, Power.code, domainDepth]
  change execCollectiveComplete o s = _
  rw [execCollectiveComplete, h]
  dsimp only
  rw [if_pos ⟨hruns, hl, hc, hgone⟩, ← hctx, ← hseq]
  refine congrArg (fun t : State => Host.Outcome.next (t.settleCredits o.session)) ?_
  split
  · rename_i hst
    rw [State.completeOp_ended _ _ _ _ hi]
    simp only [State.ended, State.onSession, State.setSession, State.session, vget_vset_same _ _ _ hi, vset_vset,
      CollRec.ended, if_pos hst]
    rfl
  · rename_i hst
    rw [State.completeOp_ended _ _ _ _ hi]
    simp only [State.ended, State.onSession, State.setSession, State.session, vget_vset_same _ _ _ hi, vset_vset,
      CollRec.ended, if_neg hst]
    rfl

/-- A collective in progress for its TIMEOUT stops its context (R283). -/
theorem exec_collectiveTimeout_due {s : State} {o : OpRef} {p : Op} (h : s.op? o = some p) (hc : p.isCollective = true)
    (hl : p.stage ≠ .started) (hdue : p.launchedAt.toNat + ns (10000 * fieldAt p.desc 94 2) ≤ s.time.now.toNat) :
    exec (.collectiveTimeout o) s = .next (s.stopped o.session p stTimeout) := by
  change execCollectiveTimeout o s = _
  rw [execCollectiveTimeout, h]
  dsimp only
  rw [if_pos ⟨hl, hc, hdue⟩, State.stopOp_eq _ _ _ _ (State.op?_lt h) (by decide) (by decide)]

/-- Settles O37: the run by what a collective reads and sends, the completion from the finished record, and the timeout. -/
theorem collectivesRun : Obligations.CollectivesRun := by
  unfold Obligations.CollectivesRun
  intro s o p f hi i x
  refine ⟨?run, ?complete, fun h hc hl hdue => exec_collectiveTimeout_due h hc hl hdue⟩
  case run =>
    intro c cmd hcmd h d group a b good p'
    obtain ⟨hp, rfl, hl⟩ := State.collAt_some h
    obtain ⟨hctx, hseq, _⟩ := Session.op?_some hp
    have hexec := exec_collective hcmd h
    generalize (if p.code = opReduceScatter ∨ p.code = opAllReduce then f else []) = faults at hexec ⊢
    have hkey : (s.session i).op? p.ctx p.seq = some p := by rw [hctx, hseq]; exact hp
    obtain ⟨⟨htallies, hslots, hmailboxes, hresets, hlc, hother⟩, hgroups, hops⟩ :=
      State.runCollective_goes hi hkey hl faults
    obtain ⟨q, hq, hdesc, hslot, hindex, hstage⟩ := (hops _ _ _ hp).2 hl
    refine ⟨_, q, hexec, hq, hdesc, hslot, hindex, hstage.imp_right And.left, htallies, hslots, hmailboxes, hresets, hlc,
      hother, State.runCollective_met hp faults, State.runCollective_refused hp faults,
      State.runCollective_revoked hp faults, fun hst hgood hlost => ?_⟩
    have hrun := State.runCollective_runs hp faults hst hgood hlost
    refine ⟨hrun, fun hbad => hrun ▸ State.collRun_ends hp faults hbad, fun _ hfinished hok => ?_⟩
    rcases hstage with hlaunched | ⟨_, houtcome⟩
    · rw [hfinished] at hlaunched; cases hlaunched
    · exact houtcome hok
  case complete =>
    intro hpower hp hc hl hgone
    have hexec := exec_collectiveComplete_done hp hpower hc hl hgone
    generalize ht : ((s.ended o.session p p.status true).onSession o.session fun y =>
      y.collLeft p ((s.session o.session).coll.ended p.status)) = u at hexec
    obtain ⟨hports, _⟩ := u.settleCredits_answers o.session
    have hsession := State.Answers.session (u.settleCredits_answers o.session)
    have hsessions : (u.settleCredits o.session).sessions = u.sessions := by rw [hports]
    have hu : u = { s.ended i p p.status true with sessions := u.sessions } := by rw [← ht]; rfl
    have hown : u.session i = ((s.ended i p p.status true).session i).collLeft p (x.coll.ended p.status) := by
      rw [← ht]; exact State.onSession_same _ _ hi
    have hended : ((s.ended i p p.status true).session i).ops = x.ops.filter fun r => !(r.ctx = p.ctx ∧ r.seq = p.seq) := by
      rw [State.session, State.ended, vget_vset_same _ _ _ hi]
    refine ⟨_, hexec, ?_, fun j hj hji => ?_, fun k hk hidle => ?_, fun q hq => ?_, fun hst => ?_, fun hst => ?_⟩
    · rw [hsessions]
      exact hports.trans (congrArg (fun v : State => { v with ports := (u.settleCredits o.session).ports }) hu)
    · rw [hsession, ← ht, State.onSession_other _ _ (Ne.symm hji), State.ended_other _ _ _ _ hji]
    · have hport : u.port k = s.port k := by rw [← ht]; rfl
      rw [State.settleCredits_port u (by rwa [hport]), hport]
    · rw [hsession, hown] at hq
      have hmem : q ∈ ((s.ended i p p.status true).session i).ops := hq
      rw [hended] at hmem
      exact fun hkey => by simpa [hkey] using (List.mem_filter.mp hmem).2
    · rw [hsession, hown]
      exact congrArg CollRec.done (if_pos hst)
    · rw [hsession, hown]
      exact if_neg hst

end Sys2Proof.Machine
end


section
/-! PROOFS. The whole module: the state after a Power-on reset, and a step, which runs the front of the queue or idles for one
TIME clock (R292). The events of every clock change counters, the free values taken and sample rings alone
(`State.Clocked`). -/

namespace Sys2Proof.Machine

/-! ### The state after reset -/

/-- Settles O52: each part of the state after reset, as the reset value of that part gives it. -/
theorem resetIsAsStated : Obligations.ResetIsAsStated := by
  unfold Obligations.ResetIsAsStated
  intro s
  refine ⟨rfl, rfl, rfl, rfl, fun n _ => ?mailboxes, fun n hn => ?slots, fun i _ => ?sessions, fun _ => rfl,
    fun p _ => ?ports, rfl, rfl, rfl, rfl, rfl, rfl, rfl, rfl, by decide⟩
  case mailboxes =>
    rw [State.reset_mailbox]
    exact ⟨rfl, rfl, rfl⟩
  case slots =>
    rw [show s.slots = Vector.replicate 64 KeySlot.reset from rfl, vget_replicate _ _ hn]
    exact ⟨rfl, rfl⟩
  case sessions =>
    rw [State.reset_session]
    rfl
  case ports =>
    rw [State.reset_port]
    exact ⟨rfl, rfl⟩

/-! ### The events of every clock, R554 -/

/-- What counting the events of a clock changes: counter values, the free values taken, and sample rings. -/
def State.Clocked (s t : State) : Prop :=
  t = { s with perf := { s.perf with counters := t.perf.counters }, draws := t.draws, sessions := t.sessions } ∧
    ∀ j, ∃ r, t.session j = { s.session j with ring := r }

section
variable {s t u : State}

theorem State.Clocked.refl (s : State) : s.Clocked s := ⟨rfl, fun j => ⟨(s.session j).ring, rfl⟩⟩

theorem State.Clocked.trans (h : s.Clocked t) (g : t.Clocked u) : s.Clocked u := by
  obtain ⟨h1, h2⟩ := h
  obtain ⟨g1, g2⟩ := g
  refine ⟨by rw [g1, h1], fun j => ?_⟩
  obtain ⟨r, hx⟩ := h2 j
  obtain ⟨r', gx⟩ := g2 j
  exact ⟨r', by rw [gx, hx]⟩

/-- Counting that leaves the slot counters. -/
theorem State.Sampled.clocked {j : Nat} (h : s.Sampled t j) (hslots : t.perf.slots = s.perf.slots) : s.Clocked t := by
  refine ⟨?_, h.session⟩
  obtain ⟨p, d, r, rfl⟩ := h
  have hp : p = { s.perf with counters := p.counters } := congrArg (Perf.mk p.counters) hslots
  exact congrArg (fun q => ({ s with
    perf := q, draws := d, sessions := vset s.sessions j { s.session j with ring := r } } : State)) hp

end

theorem State.foldl_sample_perf (i key ev : Nat) (l : List Nat) (s : State) :
    (l.foldl (fun s _ => s.sample i key ev) s).perf = s.perf := by
  induction l generalizing s with
  | nil => rfl
  | cons _ l ih => exact ih (s.sample i key ev)

theorem State.bump_slots (s : State) (i key n runs : Nat) : (s.bump i key n runs).perf.slots = s.perf.slots := by
  unfold State.bump
  dsimp only
  split_ifs <;> simp only [State.foldl_sample_perf]

theorem State.putCounter_clocked (s : State) (key : Nat) (c : Counter) : s.Clocked (s.putCounter key c) :=
  ⟨rfl, fun j => ⟨(s.session j).ring, rfl⟩⟩

theorem State.sample_clocked (s : State) (i key ev : Nat) : s.Clocked (s.sample i key ev) :=
  (s.sample_sampled i key ev).clocked rfl

theorem State.bump_clocked (s : State) (i key n runs : Nat) : s.Clocked (s.bump i key n runs) :=
  (s.bump_sampled i key n runs).clocked (s.bump_slots i key n runs)

/-- A counter whose event is not one of every clock is left alone. -/
theorem State.clockCount_other (s : State) (key : Nat) {c : Counter}
    (h : c.event.toNat ∉ [0x005, 0x060, 0x261, 0x280, 0x281]) : s.clockCount key c = s := by
  have hcontains : [0x005, 0x060, 0x261, 0x280, 0x281].contains c.event.toNat = false := by simpa using h
  rw [State.clockCount, if_neg (by rw [hcontains]; simp)]

theorem State.clockCount_clocked (s : State) (key : Nat) (c : Counter) : s.Clocked (s.clockCount key c) := by
  unfold State.clockCount
  extract_lets i ev n drawn counted
  have hdrawn : s.Clocked drawn := ⟨rfl, fun j => ⟨(s.session j).ring, rfl⟩⟩
  have hcounted : drawn.Clocked counted := by
    unfold counted
    split
    · split
      · exact .refl drawn
      · dsimp only
        split
        · exact (drawn.putCounter_clocked key _).trans (State.sample_clocked _ i key ev)
        · exact drawn.putCounter_clocked key _
    · split
      · exact .refl drawn
      · exact drawn.bump_clocked i key n n
  split
  · exact hdrawn.trans (hcounted.trans (counted.putCounter_clocked key _))
  · exact .refl s

theorem State.clockEvents_clocked (s : State) : s.Clocked s.clockEvents := by
  unfold State.clockEvents
  generalize s.perf.counters = l
  induction l generalizing s with
  | nil => exact .refl s
  | cons e l ih => exact (s.clockCount_clocked e.1 e.2).trans (ih _)

theorem State.clockEvents_none {s : State}
    (h : ∀ e ∈ s.perf.counters, e.2.event.toNat ∉ [0x005, 0x060, 0x261, 0x280, 0x281]) : s.clockEvents = s := by
  unfold State.clockEvents
  generalize s.perf.counters = l at h
  induction l with
  | nil => rfl
  | cons e l ih =>
    rw [List.forall_mem_cons] at h
    rw [List.foldl_cons, s.clockCount_other e.1 h.1, ih h.2]

/-! ### One TIME clock, R292 -/

/-- A TIME clock adds 1 ns and the rate correction to postmark time with its fraction. -/
theorem State.tick_runs {s : State} (h : s.timeRuns = true) :
    s.tick = { s with time := { s.time with now := s.tick.time.now, fraction := s.tick.time.fraction } } ∧
      (s.tick.time.now.toNat : Int) * 2 ^ 32 + s.tick.time.fraction.toNat =
        ((s.time.now.toNat : Int) * 2 ^ 32 + s.time.fraction.toNat + 2 ^ 48 + s.time.rate.toInt * 2 ^ 16) % 2 ^ 96 := by
  rw [State.tick, if_pos h]
  refine ⟨rfl, ?_⟩
  have hrate := BitVec.le_toInt s.time.rate
  dsimp only
  rw [BitVec.toNat_ofNat, BitVec.toNat_ofNat]
  omega

/-- Whether the module idles quietly or not, only the time since which it does moves on. -/
theorem State.idleStep_eq (s : State) :
    let v := if s.timeRuns then s.tick.clockEvents else s
    s.idleStep = { v with power := { v.power with idleSince := s.idleStep.power.idleSince } } := by
  intro v
  change (if v.quiet then v else _) = { v with power := { v.power with
    idleSince := (if v.quiet then v else { v with power := { v.power with idleSince := v.time.now } }).power.idleSince } }
  split <;> rfl

/-- Settles O51: the front of the queue is run on the rest, and an idle step is one tick of time with the events of a clock. -/
theorem stepRunsTheFront : Obligations.StepRunsTheFront := by
  unfold Obligations.StepRunsTheFront
  refine ⟨fun s c rest h => by rw [step, h]; rfl, fun s h => ⟨s.idleStep, by rw [step, h], ?_⟩⟩
  have hidle := s.idleStep_eq
  dsimp only at hidle
  generalize s.idleStep = t at hidle ⊢
  cases hruns : s.timeRuns with
  | false =>
    rw [hruns, if_neg (by decide)] at hidle
    rw [hidle]
    exact ⟨rfl, fun i _ => rfl, fun _ => ⟨rfl, rfl, rfl⟩, fun _ => rfl, fun h => absurd h (by decide)⟩
  | true =>
    rw [hruns, if_pos rfl] at hidle
    obtain ⟨htick, htime⟩ := State.tick_runs hruns
    have hnone := State.clockEvents_none (s := s.tick)
    obtain ⟨hclock, hsessions⟩ := s.tick.clockEvents_clocked
    generalize s.tick.clockEvents = v at *
    generalize s.tick = w at *
    rw [hidle]
    refine ⟨?_, fun i _ => ?_, fun hcount => ?_, fun h => absurd h (by decide), fun _ => ⟨?_, ?_⟩⟩
    · rw [hclock, htick]
    · obtain ⟨r, hr⟩ := hsessions i
      change v.session i = { s.session i with ring := (v.session i).ring }
      rw [hr, htick]
      rfl
    · rcases hcount with hcount | hcount
      · cases hcount
      · rw [hnone (by rw [htick]; exact hcount), htick]
        exact ⟨rfl, rfl, rfl⟩
    · rw [hclock, htick]
    · rw [hclock]
      exact htime

end Sys2Proof.Machine
end


section
/-! PROOFS. The postal ring's own traffic: the frames of a member stand on its two sides under its frame counter, a master
sends its postmark both ways, and members measure their hops (R296 to R298, R301, R302). -/

namespace Sys2Proof.Machine

/-! ### Which meaning the commands have -/

theorem exec_timeFrameTick (s : State) : exec .timeFrameTick s = execTimeFrameTick s := rfl

theorem exec_measureTick (s : State) : exec .measureTick s = execMeasureTick s := rfl

theorem exec_measure (cw : Bool) (m : Bytes) (s : State) : exec (.measure cw m) s = execMeasure cw m s := rfl

theorem exec_measureReply (cw : Bool) (m : Bytes) (s : State) : exec (.measureReply cw m) s = execMeasureReply cw m s := rfl

theorem exec_timeFrame (cw : Bool) (m : Bytes) (s : State) : exec (.timeFrame cw m) s = execTimeFrame cw m s := rfl

/-! ### Frames of one member, R296, R297 -/

/-- What the frames of session `i` change: of the frame counters its own alone. -/
def State.RingTurn (s t : State) (i : Nat) : Prop :=
  s.RingWork t ∧ ∀ j, j ≠ i → (t.session j).frameSeq = (s.session j).frameSeq

section
variable {s t u : State} {i : Nat}

theorem State.RingTurn.refl (s : State) (i : Nat) : s.RingTurn s i := ⟨.refl s, fun _ _ => rfl⟩

theorem State.RingTurn.trans (h : s.RingTurn t i) (g : t.RingTurn u i) : s.RingTurn u i :=
  ⟨h.1.trans g.1, fun j hj => (g.2 j hj).trans (h.2 j hj)⟩

theorem State.RingWork.now (h : s.RingWork t) : t.time.now = s.time.now := by rw [h.1]

/-- A member's frames, and whatever its time then becomes. -/
theorem State.RingTurn.own (h : s.RingTurn t i) (b : TimeBase) :
    ({ t with time := b } : State) = { s with time := b, perf := t.perf, sessions := t.sessions, draws := t.draws } ∧
      ∀ j < 4, t.session j = { s.session j with ring := (t.session j).ring, frameSeq := (t.session j).frameSeq } ∧
        (j ≠ i → (t.session j).frameSeq = (s.session j).frameSeq) := by
  obtain ⟨⟨hframe, hsessions⟩, hother⟩ := h
  refine ⟨by rw [hframe], fun j _ => ⟨?_, hother j⟩⟩
  obtain ⟨r, n, hx⟩ := hsessions j
  rw [hx]

/-- A member's frames alone. -/
theorem State.RingTurn.owns (h : s.RingTurn t i) :
    t = { s with time := t.time, perf := t.perf, sessions := t.sessions, draws := t.draws } ∧
      ∀ j < 4, t.session j = { s.session j with ring := (t.session j).ring, frameSeq := (t.session j).frameSeq } ∧
        (j ≠ i → (t.session j).frameSeq = (s.session j).frameSeq) := h.own t.time

end

section
variable (s : State) (i : Nat) (cw : Bool) (type : Nat) (body : Bytes)

theorem State.onSide_side (f : RingSide → RingSide) :
    (s.onSide cw f).side cw = f (s.side cw) ∧ (s.onSide cw f).side (!cw) = s.side (!cw) := by
  cases cw <;> exact ⟨rfl, rfl⟩

theorem State.onSide_ringTurn (f : RingSide → RingSide) : s.RingTurn (s.onSide cw f) i := by
  cases cw <;> exact ⟨⟨rfl, fun j => ⟨(s.session j).ring, (s.session j).frameSeq, rfl⟩⟩, fun _ _ => rfl⟩

theorem State.sendFrame_ringTurn (hi : i < 4) : s.RingTurn (s.sendFrame i cw type body) i := by
  refine ⟨s.sendFrame_ringWork i cw type body hi, fun j hj => ?_⟩
  unfold State.sendFrame
  split
  · dsimp only
    obtain ⟨r, hr⟩ := (s.onSession i fun x => { x with frameSeq := (s.session i).frameSeq + 1 }).putFrame_session cw
      (ringFrame (s.ringKey i) (s.session i).rank cw type body (s.session i).frameSeq) j
    rw [hr, State.onSession_other _ _ (Ne.symm hj)]
  · rfl

theorem State.sendBoth_ringTurn (hi : i < 4) : s.RingTurn (s.sendBoth i type body) i :=
  (s.sendFrame_ringTurn i true type body hi).trans ((s.sendFrame i true type body).sendFrame_ringTurn i false type body hi)

/-- A frame sent leaves the other fields of its side. -/
theorem State.sendFrame_sides (h : s.ringUp = true) :
    (s.sendFrame i cw type body).side cw = { s.side cw with
        sent := ringFrame (s.ringKey i) (s.session i).rank cw type body (s.session i).frameSeq :: (s.side cw).sent } ∧
      (s.sendFrame i cw type body).side (!cw) = s.side (!cw) := by
  rw [State.sendFrame, if_pos h]
  exact (s.onSession i fun x => { x with frameSeq := (s.session i).frameSeq + 1 }).putFrame_sides cw _

/-- The timebase once a message has been sent both ways. -/
theorem State.sendBoth_time (h : s.ringUp = true) (hi : i < 4) :
    let key := s.ringKey i
    let x := s.session i
    (s.sendBoth i type body).time = { s.time with
      cw := { s.time.cw with sent := ringFrame key x.rank true type body x.frameSeq :: s.time.cw.sent }
      ccw := { s.time.ccw with sent := ringFrame key x.rank false type body (x.frameSeq + 1) :: s.time.ccw.sent } } := by
  intro key x
  obtain ⟨hwork, -, -, r, hx⟩ := s.sendFrame_up i true type body h hi
  have hsame := hwork.sameRing
  obtain ⟨hcw, (hccw : (s.sendFrame i true type body).side false = s.side false)⟩ := s.sendFrame_sides i true type body h
  obtain ⟨hthis, hother⟩ := (s.sendFrame i true type body).sendFrame_sides i false type body (hsame.ringUp.trans h)
  have hcw' : (s.sendBoth i type body).time.cw = _ := hother.trans hcw
  have hccw' : (s.sendBoth i type body).time.ccw = _ := hthis
  rw [(s.sendBoth_ringWork i type body hi).1, hcw', hccw', hccw, hsame.ringKey, hsame.rank, hx]
  rfl

end

/-! ### A master's TIME frames, R302 -/

section
variable {s : State} {i : Nat}

/-- A tick that comes before 4,096 ns have passed, or to another member, does nothing. -/
theorem exec_timeFrameTick_waits (hs : s.ringSession = some i)
    (h : s.time.ringMaster = false ∨ ¬ ∀ a, s.time.timeSent = some a → a.toNat + ns 4096 ≤ s.time.now.toNat) :
    exec .timeFrameTick s = .next s := by
  rw [exec_timeFrameTick, execTimeFrameTick, hs]
  dsimp only
  rw [if_neg]
  rintro ⟨hmaster, hdue⟩
  rcases h with h | h
  · rw [h] at hmaster
    cases hmaster
  · exact h fun a ha => by rw [ha] at hdue; exact of_decide_eq_true hdue

/-- A tick that is due sends the master's postmark both ways. -/
theorem exec_timeFrameTick_sends (hs : s.ringSession = some i) (hmaster : s.time.ringMaster = true)
    (hdue : ∀ a, s.time.timeSent = some a → a.toNat + ns 4096 ≤ s.time.now.toNat) :
    exec .timeFrameTick s =
      .next { s.sendTime i with time := { (s.sendTime i).time with timeSent := some (s.sendTime i).time.now } } := by
  rw [exec_timeFrameTick, execTimeFrameTick, hs]
  dsimp only
  rw [if_pos]
  refine ⟨hmaster, ?_⟩
  cases hsent : s.time.timeSent with
  | none => rfl
  | some a => exact decide_eq_true (hdue a hsent)

end

/-! ### Hop measurement, R301 -/

section
variable {s : State} {i : Nat}

/-- A side whose next MEASURE is due: 131,072 ns have passed since the last. -/
def State.MeasureDue (s : State) (cw : Bool) : Prop :=
  ∀ a, (s.side cw).sentAt = some a → a.toNat + ns 131072 ≤ s.time.now.toNat

theorem State.measure_waits {cw : Bool} (h : ¬ s.MeasureDue cw) : s.measure i cw = s := by
  unfold State.measure
  dsimp only
  rw [if_neg]
  exact fun hdue => h fun a ha => by rw [ha] at hdue; exact of_decide_eq_true hdue

/-- What a MEASURE leaves of the side it is sent on, beside its frame. -/
def RingSide.measuring (r : RingSide) (now : Nat) : RingSide :=
  { r with measSeq := r.measSeq + 1, sentAt := some (BitVec.ofNat 64 (stamp now)) }

theorem State.measure_due {cw : Bool} (h : s.MeasureDue cw) : s.measure i cw =
    (s.sendFrame i cw 2 (w32 (s.side cw).measSeq)).onSide cw fun r => r.measuring s.time.now.toNat := by
  refine if_pos ?_
  cases hsent : (s.side cw).sentAt with
  | none => rfl
  | some a => exact decide_eq_true (h a hsent)

theorem State.measure_ringTurn (s : State) {i : Nat} (cw : Bool) (hi : i < 4) : s.RingTurn (s.measure i cw) i := by
  by_cases h : s.MeasureDue cw
  · rw [State.measure_due h]
    exact (s.sendFrame_ringTurn i cw 2 _ hi).trans (State.onSide_ringTurn _ i cw _)
  · rw [State.measure_waits h]
    exact .refl s i

/-- A measurement leaves the other side. -/
theorem State.measure_other {cw : Bool} (hup : s.ringUp = true) : (s.measure i cw).side (!cw) = s.side (!cw) := by
  by_cases h : s.MeasureDue cw
  · rw [State.measure_due h]
    exact (State.onSide_side _ cw _).2.trans (s.sendFrame_sides i cw 2 _ hup).2
  · rw [State.measure_waits h]

/-- A MEASURE that is due leaves on its side, under the next frame counter. -/
theorem State.measure_sends {cw : Bool} (hup : s.ringUp = true) (hi : i < 4) (h : s.MeasureDue cw) :
    let r := s.side cw
    (s.measure i cw).side cw = { r with
        measSeq := r.measSeq + 1, sentAt := some (BitVec.ofNat 64 (stamp s.time.now.toNat))
        sent := ringFrame (s.ringKey i) (s.session i).rank cw 2 (w32 r.measSeq) (s.session i).frameSeq :: r.sent } ∧
      ((s.measure i cw).session i).frameSeq = (s.session i).frameSeq + 1 := by
  intro r
  obtain ⟨-, -, -, q, hx⟩ := s.sendFrame_up i cw 2 (w32 r.measSeq) hup hi
  have hthis := (s.sendFrame_sides i cw 2 (w32 r.measSeq) hup).1
  rw [State.measure_due h, (State.onSide_side _ cw _).1, hthis]
  refine ⟨rfl, ?_⟩
  have hx' : (((s.sendFrame i cw 2 (w32 r.measSeq)).onSide cw fun r => r.measuring s.time.now.toNat).session i) =
      (s.sendFrame i cw 2 (w32 r.measSeq)).session i := by cases cw <;> rfl
  rw [hx', hx]

end

/-- Two measurements, clockwise first: each that is due leaves on its own side (R301). -/
theorem exec_measureTick_measures {s : State} {i : Nat} (hs : s.ringSession = some i) (hup : s.ringUp = true) :
    exec .measureTick s = .next ((s.measure i true).measure i false) := by
  rw [exec_measureTick, execMeasureTick, hs]
  exact congrArg _ (if_pos hup)

section
variable {s : State} {i : Nat} {cw : Bool} {m : Bytes} (hs : s.ringSession = some i) (hup : s.ringUp = true)
include hs hup

/-- A MEASURE is answered toward the neighbour it came from. -/
theorem exec_measure_answered {src hops : Nat} {b : Bytes} (h : s.openFrame i 2 m = some (src, hops, b)) :
    exec (.measure cw m) s = .next (s.sendFrame i (!cw) 3
      (slice b 0 4 ++ zeros 4 ++ le 8 (stamp s.time.now.toNat) ++ le 8 (stamp s.time.now.toNat))) := by
  rw [exec_measure, execMeasure, hs]
  dsimp only
  rw [if_pos hup, h]
  rfl

theorem exec_measure_fails (h : s.openFrame i 2 m = none) : exec (.measure cw m) s = .next s := by
  rw [exec_measure, execMeasure, hs]
  dsimp only
  rw [if_pos hup, h]

/-- A reply gives a delay when it answers the outstanding MEASURE, and otherwise nothing. -/
theorem exec_measureReply_taken {src hops : Nat} {b : Bytes} {t1 : W64} (h : s.openFrame i 3 m = some (src, hops, b))
    (ht : (s.side (!cw)).sentAt = some t1) :
    let d : Int := (((stamp s.time.now.toNat : Nat) : Int) - t1.toNat -
      ((fieldAt b 16 8 : Nat) - (fieldAt b 8 8 : Nat) : Int)) / 2
    exec (.measureReply cw m) s = .next (if u32 b 0 + 1 = (s.side (!cw)).measSeq then
      s.onSide (!cw) fun r => { r with delays := (d :: r.delays).take 5 } else s) := by
  rw [exec_measureReply, execMeasureReply, hs]
  dsimp only
  rw [if_pos hup, h, ht]
  rfl

theorem exec_measureReply_fails (h : s.openFrame i 3 m = none) : exec (.measureReply cw m) s = .next s := by
  rw [exec_measureReply, execMeasureReply, hs]
  dsimp only
  rw [if_pos hup, h]

end

/-- Settles O44: a frame sent stands on its side under its sender's counter, and each measurement leaves the other side. -/
theorem ringIsMeasured : Obligations.RingIsMeasured := by
  unfold Obligations.RingIsMeasured
  intro s i cw m hs hi hup n now frame own due lapsed
  refine ⟨exec_timeFrameTick_waits hs, fun hmaster hdue => ?tick, ?measure, fun src hops b h => ?answer,
    exec_measure_fails hs hup, fun src hops b t1 h ht => ⟨fun hnew => ?reply, fun hold => ?stale⟩,
    exec_measureReply_fails hs hup⟩
  case tick =>
    have hexec := exec_timeFrameTick_sends hs hmaster hdue
    rw [State.sendTime] at hexec
    have hturn := s.sendBoth_ringTurn i 1 (w64 s.time.now) hi
    obtain ⟨-, -, r, hx⟩ := s.sendBoth_up i 1 (w64 s.time.now) hup hi
    have htime := s.sendBoth_time i 1 (w64 s.time.now) hup hi
    generalize s.sendBoth i 1 (w64 s.time.now) = u at hexec hturn hx htime
    refine ⟨_, hexec, hturn.own { u.time with timeSent := some u.time.now }, congrArg Session.frameSeq hx, ?_⟩
    rw [htime]
  case measure =>
    have hcw := s.measure_ringTurn true hi
    have hccw := (s.measure i true).measure_ringTurn false hi
    have hsame := hcw.1.sameRing
    have hthis : (s.measure i true).time.ccw = s.time.ccw := State.measure_other (cw := true) hup
    have hother : ((s.measure i true).measure i false).time.cw = (s.measure i true).time.cw :=
      State.measure_other (cw := false) (hsame.ringUp.trans hup)
    have hlater : (s.measure i true).MeasureDue false ↔ due s.time.ccw := by
      rw [State.MeasureDue, hcw.1.now, show (s.measure i true).side false = s.time.ccw from hthis]
    have hboth := (hcw.trans hccw).owns
    refine ⟨_, exec_measureTick_measures hs hup, hboth, fun h => ?_, fun h => ?_, fun h => ?_, fun h => ?_⟩
    · rw [hother]
      exact (State.measure_sends (cw := true) hup hi h).1
    · rw [hother, State.measure_waits (cw := true) h]
    · obtain ⟨hside, hseq⟩ := State.measure_sends (hsame.ringUp.trans hup) hi (hlater.mpr h)
      rw [show (s.measure i true).side false = s.time.ccw from hthis, hsame.ringKey, hsame.rank, hcw.1.now] at hside
      exact ⟨_, hside, hseq⟩
    · rw [State.measure_waits (mt hlater.mp h)]
      exact hthis
  case answer =>
    have hexec := exec_measure_answered (cw := cw) hs hup h
    have hturn := s.sendFrame_ringTurn i (!cw) 3
      (slice b 0 4 ++ zeros 4 ++ le 8 (stamp s.time.now.toNat) ++ le 8 (stamp s.time.now.toNat)) hi
    obtain ⟨-, hsent, hother, r, hx⟩ := s.sendFrame_up i (!cw) 3
      (slice b 0 4 ++ zeros 4 ++ le 8 (stamp s.time.now.toNat) ++ le 8 (stamp s.time.now.toNat)) hup hi
    rw [Bool.not_not] at hother
    generalize s.sendFrame i (!cw) 3 _ = t at hexec hturn hsent hother hx
    exact ⟨t, hexec, hturn.owns, congrArg Session.frameSeq hx, hsent, hother⟩
  case reply => rw [exec_measureReply_taken hs hup h ht, if_pos hnew]
  case stale => rw [exec_measureReply_taken hs hup h ht, if_neg hold]

end Sys2Proof.Machine
end


section
/-! PROOFS. A member's time (R292, R293, R302, R306): what a parent's postmark makes of postmark time, before the lock is judged
(`State.timed`) and after it (`TimeBase.judged`). -/

namespace Sys2Proof.Machine

/-! ### Judging the lock, R306 -/

/-- What an offset makes of SYNC_STATE: out of LOCKED past 8 ns, into it after sixteen intervals in a row within 2 ns. -/
def TimeBase.judged (t : TimeBase) (off : Int) : TimeBase :=
  if t.sync = .locked then
    if ns 8 < off.natAbs then { t with sync := .holdover, holdoverSince := t.now, holdoverUs := 0, good := 0 } else t
  else if 16 ≤ t.good ∧ (t.sync = .acquiring ∨ t.sync = .holdover) then
    { t with holdoverUs := t.holdoverNow, sync := .locked }
  else t

section
variable (t : TimeBase) (off : Int)

/-- Judging the lock leaves time and the ring. -/
theorem TimeBase.judged_eq : ∃ sync since us good,
    t.judged off = { t with sync := sync, holdoverSince := since, holdoverUs := us, good := good } := by
  unfold TimeBase.judged
  split_ifs
  all_goals exact ⟨_, _, _, _, rfl⟩

theorem TimeBase.judged_locked (h : t.sync = .locked) :
    (t.judged off).sync = if ns 8 < off.natAbs then .holdover else .locked := by
  rw [TimeBase.judged, if_pos h]
  split
  · rfl
  · exact h

theorem TimeBase.judged_unlocked (h : t.sync = .acquiring ∨ t.sync = .holdover) :
    (t.judged off).sync = (if 16 ≤ t.good then .locked else t.sync) ∧
      (t.judged off).holdoverUs = if 16 ≤ t.good then t.holdoverNow else t.holdoverUs := by
  have hne : t.sync ≠ .locked := by rcases h with h | h <;> rw [h] <;> decide
  rw [TimeBase.judged, if_neg hne]
  by_cases hgood : 16 ≤ t.good
  · rw [if_pos ⟨hgood, h⟩, if_pos hgood, if_pos hgood]
    exact ⟨rfl, rfl⟩
  · rw [if_neg fun c => hgood c.1, if_neg hgood, if_neg hgood]
    exact ⟨rfl, rfl⟩

/-- R295: HOLDOVER_US does not depend on when time was last taken, unless time has stepped in HOLDOVER. -/
theorem TimeBase.holdoverNow_congr {t u : TimeBase} (hsync : u.sync = t.sync) (hus : u.holdoverUs = t.holdoverUs)
    (hsince : u.holdoverSince = t.holdoverSince) (hnow : t.sync = .holdover → u.now = t.now) :
    u.holdoverNow = t.holdoverNow := by
  rw [TimeBase.holdoverNow, TimeBase.holdoverNow, hsync, hus, hsince]
  split
  next h => rw [hnow h]
  next => rfl

end

/-! ### Taking the parent's time, R292, R293 -/

/-- Consecutive intervals within ±2 ns, this one with the others. -/
def TimeBase.goodAfter (t : TimeBase) (off : Int) : Nat := if decide (off.natAbs ≤ ns 2) then t.good + 1 else 0

/-- An offset is noted, with what it says of the lock and of a step. -/
def TimeBase.noted (t : TimeBase) (off : Int) : TimeBase :=
  { t with offset := clampOffset off, good := t.goodAfter off, stepNeeded := decide (ns 2000 < off.natAbs) }

/-- The offset is taken: time steps forward while it may, and otherwise its rate is corrected. -/
def State.timed (s : State) (i : Nat) (parent : Int) : State :=
  let off : Int := (s.now : Int) - parent
  let u : State := { s with time := s.time.noted off }
  let v := if s.time.sync = .acquiring ∧ ¬ (s.session i).epochOpen ∧ off < 0 then
      { u with time := { u.time.stepTo (BitVec.ofInt 64 parent) with stepNeeded := false } }
    else u.newRate
  { v with time := { v.time with lastGood := v.time.now } }

section
variable (s : State) (i : Nat) (parent : Int)

/-- A step never goes back, and leaves all but time (R293). -/
theorem TimeBase.stepTo_eq (t : TimeBase) (p : W64) : ∃ now fraction,
    t.stepTo p = { t with now := now, fraction := fraction } ∧ t.now.toNat ≤ now.toNat ∧
      (t.now.toNat < p.toNat → now = p ∧ fraction = 0) := by
  unfold TimeBase.stepTo
  split
  next h => exact ⟨p, 0, rfl, h.le, fun _ => ⟨rfl, rfl⟩⟩
  next h => exact ⟨t.now, t.fraction, rfl, le_refl _, fun c => absurd c h⟩

/-- Time steps to its parent's: the member is ACQUIRING, no epoch is open, and its time is behind (R293). -/
def State.Steps (s : State) (i : Nat) (parent : Int) : Prop :=
  s.time.sync = .acquiring ∧ (s.session i).epochOpen = false ∧ (s.time.now.toNat : Int) < parent

theorem State.timed_eq : ∃ now fraction rate need d,
    s.timed i parent = { s with
      draws := d
      time := { s.time with
        offset := clampOffset ((s.now : Int) - parent), good := s.time.goodAfter ((s.now : Int) - parent)
        now := now, fraction := fraction, rate := rate, stepNeeded := need, lastGood := now } } ∧
    s.time.now.toNat ≤ now.toNat ∧
    (s.Steps i parent → parent < 2 ^ 64 →
      now = BitVec.ofInt 64 parent ∧ fraction = 0 ∧ rate = s.time.rate ∧ need = false) ∧
    (¬ s.Steps i parent →
      now = s.time.now ∧ fraction = s.time.fraction ∧ -858993 ≤ rate.toInt ∧ rate.toInt ≤ 858993) := by
  have hcond : (s.time.sync = .acquiring ∧ ¬ (s.session i).epochOpen ∧ (s.now : Int) - parent < 0) ↔ s.Steps i parent := by
    rw [State.Steps, State.now, Bool.not_eq_true, sub_neg]
  unfold State.timed
  dsimp only
  by_cases hstep : s.Steps i parent
  · obtain ⟨now, fraction, htime, hle, hto⟩ := (s.time.noted ((s.now : Int) - parent)).stepTo_eq (BitVec.ofInt 64 parent)
    rw [if_pos (hcond.mpr hstep), htime]
    refine ⟨now, fraction, s.time.rate, false, s.draws, rfl, hle, fun _ hlt => ?_, fun h => absurd hstep h⟩
    obtain ⟨-, -, hbehind⟩ := hstep
    have hparent : ((BitVec.ofInt 64 parent).toNat : Int) = parent := by
      rw [BitVec.toNat_ofInt]
      omega
    obtain ⟨hnow, hfraction⟩ := hto (by rw [← hparent] at hbehind; exact Int.ofNat_lt.mp hbehind)
    exact ⟨hnow, hfraction, rfl, rfl⟩
  · rw [if_neg (mt hcond.mp hstep)]
    obtain ⟨rate, hlo, hhi, hrate⟩ := State.newRate_eq { s with time := s.time.noted ((s.now : Int) - parent) }
    rw [hrate]
    exact ⟨s.time.now, s.time.fraction, rate, _, _, rfl, le_refl _, fun h => absurd h hstep,
      fun _ => ⟨rfl, rfl, hlo, hhi⟩⟩

/-- Taking time is taking the offset, then judging the lock. -/
theorem State.takeTime_eq : s.takeTime i parent =
    { s.timed i parent with time := (s.timed i parent).time.judged ((s.now : Int) - parent) } := by
  have hgood : (s.timed i parent).time.good = s.time.goodAfter ((s.now : Int) - parent) := by
    obtain ⟨now, fraction, rate, need, d, h, -⟩ := s.timed_eq i parent
    rw [h]
  unfold TimeBase.judged
  change (if (s.timed i parent).time.sync = .locked then
      if ns 8 < ((s.now : Int) - parent).natAbs then (s.timed i parent).enterHoldover else s.timed i parent
    else if 16 ≤ s.time.goodAfter ((s.now : Int) - parent) ∧
        ((s.timed i parent).time.sync = .acquiring ∨ (s.timed i parent).time.sync = .holdover) then
      { s.timed i parent with time := { (s.timed i parent).time with
        holdoverUs := (s.timed i parent).time.holdoverNow, sync := .locked } }
    else s.timed i parent) = _
  rw [← hgood]
  split_ifs <;> rfl

end

/-! ### TIME frames, R302 -/

/-- The state in which a member sends its own TIME: its parent's taken, the ring's length judged (R302). -/
def State.followed (s : State) (i : Nat) (cw : Bool) (parent : Int) : State :=
  let u := s.takeTime i parent
  { u with time := { u.time with ringBroken := decide (16 < u.hopsTo (u.session i) cw) } }

section
variable {s : State} {i : Nat} {cw : Bool} {m : Bytes} (hs : s.ringSession = some i) (hup : s.ringUp = true)
  (hgrand : s.time.grandmaster = false) (hmaster : s.time.ringMaster = false)
include hs hup hgrand hmaster

theorem exec_timeFrame_passed (h : s.openFrame i 1 m = none ∨ s.timeSide i ≠ some (!cw)) :
    exec (.timeFrame cw m) s = .next s := by
  rw [exec_timeFrame, execTimeFrame, hs]
  dsimp only
  rw [if_pos ⟨hup, by simp [hgrand], by simp [hmaster]⟩]
  rcases h with h | h
  · rw [h]
  · split
    · exact congrArg _ (if_neg h)
    · rfl

theorem exec_timeFrame_taken {src hops : Nat} {b : Bytes} (h : s.openFrame i 1 m = some (src, hops, b))
    (hside : s.timeSide i = some (!cw)) : exec (.timeFrame cw m) s =
      .next ((s.followed i (!cw) ((fieldAt b 0 8 : Nat) + (s.side (!cw)).delay)).sendTime i) := by
  rw [exec_timeFrame, execTimeFrame, hs]
  dsimp only
  rw [if_pos ⟨hup, by simp [hgrand], by simp [hmaster]⟩, h]
  exact congrArg _ (if_pos hside)

end

/-- R302: a side that is usable is the one with fewer hops, or else the other. -/
theorem State.timeSide_eq (s : State) (i : Nat) :
    s.timeSide i =
      let near := decide (s.hopsTo (s.session i) true ≤ s.hopsTo (s.session i) false)
      if (s.side near).usable then some near else if (s.side (!near)).usable then some (!near) else none := rfl

theorem RingSide.usable_iff (r : RingSide) : r.usable = true ↔ r.locked = true ∧ 3 ≤ r.delays.length := by
  rw [RingSide.usable, Bool.and_eq_true, decide_eq_true_eq]

/-- What following a parent's time comes to: the step or the new rate, the lock, and of the ring its length alone. -/
theorem State.followed_eq (s : State) (i : Nat) (cw : Bool) (parent : Int) :
    let off : Int := (s.time.now.toNat : Int) - parent
    ∃ now fraction rate need sync since us good d,
      s.followed i cw parent = { s with
        draws := d
        time := { s.time with
          offset := clampOffset off, now := now, fraction := fraction, rate := rate, stepNeeded := need, lastGood := now
          sync := sync, holdoverSince := since, holdoverUs := us, good := good
          ringBroken := decide (16 < s.hopsTo (s.session i) cw) } } ∧
      s.time.now.toNat ≤ now.toNat ∧
      (s.Steps i parent → parent < 2 ^ 64 →
        now = BitVec.ofInt 64 parent ∧ fraction = 0 ∧ rate = s.time.rate ∧ need = false) ∧
      (¬ s.Steps i parent →
        now = s.time.now ∧ fraction = s.time.fraction ∧ -858993 ≤ rate.toInt ∧ rate.toInt ≤ 858993) ∧
      (s.time.sync = .locked → sync = if ns 8 < off.natAbs then .holdover else .locked) ∧
      (s.time.sync = .acquiring ∨ s.time.sync = .holdover →
        sync = (if 16 ≤ s.time.goodAfter off then .locked else s.time.sync) ∧
          us = if 16 ≤ s.time.goodAfter off then s.time.holdoverNow else s.time.holdoverUs) := by
  intro off
  obtain ⟨now, fraction, rate, need, d, htimed, hle, hstep, hslew⟩ := s.timed_eq i parent
  obtain ⟨sync, since, us, good, hjudged⟩ := (s.timed i parent).time.judged_eq off
  have hlocked := (s.timed i parent).time.judged_locked off
  have hunlocked := (s.timed i parent).time.judged_unlocked off
  have hholdover : s.time.sync = .acquiring ∨ s.time.sync = .holdover →
      (s.timed i parent).time.holdoverNow = s.time.holdoverNow := fun hsync => by
    refine TimeBase.holdoverNow_congr (by rw [htimed]) (by rw [htimed]) (by rw [htimed]) fun h => ?_
    rw [htimed]
    exact (hslew fun c => by rw [c.1] at h; cases h).1
  rw [hjudged] at hlocked hunlocked
  refine ⟨now, fraction, rate, need, sync, since, us, good, d, ?_, hle, hstep, hslew, fun h => ?_, fun h => ?_⟩
  · rw [State.followed, State.takeTime_eq, State.now, hjudged, htimed]
    rfl
  · exact hlocked (by rw [htimed]; exact h)
  · rw [hholdover h] at hunlocked
    rw [htimed] at hunlocked
    exact hunlocked h

/-- Settles O45: time is taken, then the lock is judged, then the member's own TIME leaves both ways. -/
theorem timeIsTaken : Obligations.TimeIsTaken := by
  unfold Obligations.TimeIsTaken
  intro s i cw m hs hi hup hgrand hmaster now
  refine ⟨exec_timeFrame_passed hs hup hgrand hmaster, fun src hops b h hside => ?taken, ?side⟩
  case taken =>
    intro parent off good
    have hgood : s.time.goodAfter off = good := if_congr decide_eq_true_iff rfl rfl
    obtain ⟨next, fraction, rate, need, sync, since, us, good', d, hw, hle, hstep, hslew, hlocked, hunlocked⟩ :=
      s.followed_eq i (!cw) parent
    have hexec := exec_timeFrame_taken hs hup hgrand hmaster h hside
    generalize s.followed i (!cw) parent = w at hw hexec
    have hsame : s.SameRing w := by rw [hw]; exact ⟨rfl, rfl, fun _ => ⟨rfl, rfl, rfl⟩⟩
    have hsession : ∀ j, w.session j = s.session j := fun j => by rw [hw]; rfl
    have hbase : ∀ b p x n, ({ w with time := b, perf := p, sessions := x, draws := n } : State) =
        { s with time := b, perf := p, sessions := x, draws := n } := by rw [hw]; exact fun _ _ _ _ => rfl
    have hwtime : w.time = _ := congrArg State.time hw
    have htime := w.sendBoth_time i 1 (w64 w.time.now) (hsame.ringUp.trans hup) hi
    obtain ⟨hsent, -, r, hx⟩ := w.sendBoth_up i 1 (w64 w.time.now) (hsame.ringUp.trans hup) hi
    obtain ⟨hframe, hown⟩ := (w.sendBoth_ringTurn i 1 (w64 w.time.now) hi).owns
    rw [State.sendTime] at hexec
    generalize w.sendBoth i 1 (w64 w.time.now) = t at hexec htime hsent hx hframe hown
    refine ⟨t, hexec, hframe.trans (hbase _ _ _ _), fun j hj => ?_, fun j hj hne => ?_, ?_, ?_, fun ha ho hp hlt => ?_,
      fun hno => ?_, fun h => ?_, fun h => ?_, ?_, ?_, ?_⟩
    · exact (hown j hj).1.trans (by rw [hsession])
    · exact ((hown j hj).2 hne).trans (by rw [hsession])
    · rw [htime, hwtime]
    · rw [htime, hwtime]
      exact hle
    · rw [htime, hwtime]
      exact hstep ⟨ha, ho, hp⟩ hlt
    · rw [htime, hwtime]
      refine hslew fun ⟨ha, ho, hp⟩ => ?_
      rcases hno with h | h | h
      · exact h ha
      · rw [ho] at h
        cases h
      · exact absurd hp (not_lt.mpr h)
    · rw [htime, hwtime]
      exact hlocked h
    · rw [htime, hwtime, ← hgood]
      exact hunlocked h
    · rw [htime, hwtime]
    · rw [hx, hsession]
    · rw [hsent, show t.time.now = w.time.now from by rw [htime], hsame.ringKey, hsession, hwtime]
  case side =>
    intro near ready
    have huse : ∀ d, (s.side d).usable = true ↔ ready d := fun d => (s.side d).usable_iff
    rw [s.timeSide_eq]
    refine ⟨fun hn => if_pos ((huse near).mpr hn), fun hn hf => ?_, fun hn hf => ?_⟩
    · exact (if_neg (mt (huse near).mp hn)).trans (if_pos ((huse (!near)).mpr hf))
    · exact (if_neg (mt (huse near).mp hn)).trans (if_neg (mt (huse (!near)).mp hf))

end Sys2Proof.Machine
end


section
/-! PROOFS. Holdover and the bypass switches (R303, R304, R306, R326): a held member's arms, the ranks whose switch stands open,
and what a switch that moves leaves of the two sides. -/

namespace Sys2Proof.Machine

/-! ### Which meaning the commands have -/

theorem exec_holdoverTimeout (s : State) : exec .holdoverTimeout s = execHoldoverTimeout s := rfl

theorem exec_holdoverHeld (s : State) : exec .holdoverHeld s = execHoldoverHeld s := rfl

theorem exec_bypassSwitchChange (change : BypassChange) (idle : Bool) (s : State) :
    exec (.bypassSwitchChange change idle) s = execBypassSwitchChange change idle s := rfl

/-! ### HOLDOVER and TIME_LOST, R306 and R326 -/

theorem exec_holdoverTimeout_enters {s : State} (hsync : s.time.sync = .locked) (hgrand : s.time.grandmaster = false)
    (hlate : s.time.lastGood.toNat + ns 65536 ≤ s.time.now.toNat) :
    exec .holdoverTimeout s = .next s.enterHoldover := by
  rw [exec_holdoverTimeout, execHoldoverTimeout, if_pos ⟨hsync, by simp [hgrand], hlate⟩]

theorem exec_holdoverHeld_holds {s : State} {i : Nat} (hs : s.ringSession = some i) (hsync : s.time.sync = .holdover)
    (hopen : (s.session i).epochOpen = true)
    (hlost : s.time.holdoverSince.toNat + ns 10000000 ≤ s.time.now.toNat ∨ s.time.stepNeeded = true) :
    exec .holdoverHeld s = .next (s.hold i rcTimeLost) := by
  rw [exec_holdoverHeld, execHoldoverHeld, hs]
  exact congrArg _ (if_pos ⟨hsync, hopen, hlost⟩)

/-- Holding a member changes its held record and tallies alone. -/
theorem State.hold_eq (s : State) (i : Nat) (own : Byte) :
    let h := (s.session i).held
    s.hold i own = { s.setSession i { s.session i with held := { h with
      held := true, ownReasons := h.ownReasons ||| own, heldSince := if h.held then h.heldSince else s.time.now } } with
      tallies := (s.hold i own).tallies } := rfl

/-- A tally without its arm. -/
def Tally.disarmed (t : Tally) : Tally := { t with arm := none }

/-- What a tally comes to when session `i` is held. -/
def Tally.released (t : Tally) (i : Nat) : Tally :=
  match t.arm with
  | some (_, _, j, _) => if j = i then t.disarmed else t
  | none => t

theorem Tally.released_disarmed (t : Tally) (i : Nat) : (t.released i).disarmed = t.disarmed := by
  unfold Tally.released
  split
  · split <;> rfl
  · rfl

theorem Tally.released_other {t : Tally} {i : Nat} (h : ∀ a, t.arm = some a → a.2.2.1 ≠ i) : t.released i = t := by
  unfold Tally.released
  split
  next ha => exact if_neg (h _ ha)
  next => rfl

theorem State.mem_hold_tallies {s : State} {i : Nat} {own : Byte} {k : Nat × Tally} :
    k ∈ (s.hold i own).tallies ↔ ∃ e ∈ s.tallies, (e.1, e.2.released i) = k ∧ k.2 ≠ Tally.reset := by
  rw [show (s.hold i own).tallies =
    (s.tallies.map fun e => (e.1, e.2.released i)).filter fun e => decide (e.2 ≠ Tally.reset) from rfl]
  simp only [List.mem_filter, List.mem_map, decide_eq_true_eq]
  exact ⟨fun ⟨⟨e, he, hk⟩, hne⟩ => ⟨e, he, hk, hne⟩, fun ⟨e, he, hk, hne⟩ => ⟨⟨e, he, hk⟩, hne⟩⟩

/-- A tally that holds more than an arm stays, whatever becomes of its arm (R326). -/
theorem State.hold_keeps_counts (s : State) (i : Nat) (own : Byte) {e : Nat × Tally} (he : e ∈ s.tallies)
    (hne : e.2.disarmed ≠ Tally.reset) :
    ∃ k ∈ (s.hold i own).tallies, k.1 = e.1 ∧ k.2.disarmed = e.2.disarmed := by
  refine ⟨_, State.mem_hold_tallies.mpr ⟨e, he, rfl, fun h => hne ?_⟩, rfl, e.2.released_disarmed i⟩
  exact (e.2.released_disarmed i).symm.trans (congrArg Tally.disarmed h)

/-- An arm of another session stays set (R326). -/
theorem State.hold_keeps_arms (s : State) (i : Nat) (own : Byte) {e : Nat × Tally} (he : e ∈ s.tallies)
    {a : W64 × W32 × Nat × Nat} (ha : e.2.arm = some a) (hne : a.2.2.1 ≠ i) : e ∈ (s.hold i own).tallies := by
  have hkept : e.2.released i = e.2 := Tally.released_other fun b hb => by
    rw [ha] at hb
    cases hb
    exact hne
  refine State.mem_hold_tallies.mpr ⟨e, he, by rw [hkept], fun h => ?_⟩
  rw [h] at ha
  cases ha

/-! ### The module's own bypass, R303, R304 -/

/-- What closes the module's bypass: no supply, a Warm or wider reset, no consignment, or a side without lock. -/
def State.BypassCloses (s : State) (locked : Bool) : Prop :=
  s.power.converters = false ∨ (∃ r, s.resets.inReset = some r ∧ 3 ≤ r.code) ∨ s.ringSession = none ∨ locked = false

/-- A side that measures afresh. -/
def RingSide.fresh (r : RingSide) (locked : Bool) : RingSide := { r with locked := locked, delays := [], sentAt := none }

/-- Both sides afresh and the bypass as given. -/
def State.switched (s : State) (closed locked : Bool) : State :=
  { s with time := { s.time with bypassClosed := closed, cw := s.time.cw.fresh locked, ccw := s.time.ccw.fresh locked } }

theorem State.countActive_eq (s : State) : ∃ a, s.countActive = { s with time := { s.time with active := a } } ∧
    (s.ringSession = none → a = s.time.active) ∧
    ∀ i, s.ringSession = some i → a = BitVec.ofNat 6 (s.activeRanks (s.session i)).length := by
  cases h : s.ringSession with
  | none => exact ⟨s.time.active, by rw [State.countActive, h], fun _ => rfl, fun i hi => by cases hi⟩
  | some j =>
    refine ⟨BitVec.ofNat 6 (s.activeRanks (s.session j)).length, by rw [State.countActive, h],
      fun hn => absurd hn (by simp), fun i hi => ?_⟩
    cases hi
    rfl

theorem Reach.warm_or_wider (r : Reach) : (r = .warm ∨ r = .cold ∨ r = .powerOn) ↔ 3 ≤ r.code := by
  cases r <;> decide

/-- The switch closes when it must, opens when it may at the boundary of an IDLE frame, and stays otherwise. -/
theorem State.ownBypass_cases (s : State) (locked idle : Bool) :
    (s.BypassCloses locked → s.ownBypass locked idle = (s.switched true false).countActive) ∧
      (¬ s.BypassCloses locked → s.time.bypassClosed = true → idle = true →
        s.ownBypass locked idle = (s.switched false true).countActive) ∧
      (¬ s.BypassCloses locked → s.time.bypassClosed = false ∨ idle = false → s.ownBypass locked idle = s) := by
  unfold State.ownBypass
  extract_lets warm close fresh
  have hwarm : warm = true ↔ ∃ r, s.resets.inReset = some r ∧ 3 ≤ r.code := by
    unfold warm
    cases s.resets.inReset with
    | none => simp
    | some r => simp [← Reach.warm_or_wider, or_assoc]
  have hclose : close = true ↔ s.BypassCloses locked := by
    unfold close
    simp only [State.BypassCloses, ← hwarm, Bool.or_eq_true, Bool.not_eq_true', Option.isNone_iff_eq_none, or_assoc]
  refine ⟨fun h => if_pos (hclose.mpr h), fun h hclosed hidle => ?_, fun h hno => ?_⟩
  · have hlocked : locked = true := by
      by_contra hl
      exact h (.inr (.inr (.inr (by simpa using hl))))
    rw [if_neg (mt hclose.mp h), if_pos ⟨hclosed, hidle⟩]
    subst hlocked
    rfl
  · rw [if_neg (mt hclose.mp h), if_neg]
    rintro ⟨hclosed, hidle⟩
    rcases hno with hno | hno
    · simp [hclosed] at hno
    · simp [hidle] at hno

/-- ACTIVE as the bypass leaves it: unchanged outside a consignment, and else the ranks whose switch stands open, the
module's own as given (R295, R304). -/
theorem State.switched_countActive (s : State) (closed locked : Bool) :
    ∃ a : BitVec 6, ((s.ringSession = none → a = s.time.active) ∧ ∀ i, s.ringSession = some i →
        let x := s.session i
        a = BitVec.ofNat 6 ((x.ringRanks x.ownRing).filter fun r =>
          if r = x.rank then !closed else !(s.time.bypassed.getLsbD (x.placeOf r).2)).length) ∧
      (s.switched closed locked).countActive = { s with time := { s.time with
        bypassClosed := closed, active := a, cw := s.time.cw.fresh locked, ccw := s.time.ccw.fresh locked } } := by
  obtain ⟨a, heq, hnone, hsome⟩ := (s.switched closed locked).countActive_eq
  exact ⟨a, ⟨hnone, hsome⟩, heq⟩

/-! ### The switch of another member, R304 -/

/-- Another member of the ring stands at a position. -/
def State.StandsAt (s : State) (i p : Nat) : Prop :=
  let x := s.session i
  ∃ r ∈ x.ringRanks x.ownRing, r ≠ x.rank ∧ (x.placeOf r).2 = p

theorem State.standsAt_iff (s : State) (i p : Nat) :
    ((s.session i).ringRanks (s.session i).ownRing).any (fun r => r ≠ (s.session i).rank ∧ ((s.session i).placeOf r).2 = p) =
      true ↔ s.StandsAt i p := by
  simp only [List.any_eq_true, decide_eq_true_eq]
  rfl

/-- The switches with that of a position moved. -/
def switchesMoved (b : BitVec 32) (p : Nat) (closed : Bool) : BitVec 32 :=
  if closed then b ||| 1#32 <<< p else b &&& ~~~(1#32 <<< p)

theorem getLsbD_switchesMoved (b : BitVec 32) {p k : Nat} (closed : Bool) (hp : p < 32) (hk : k < 32) :
    (switchesMoved b p closed).getLsbD k = if k = p then closed else b.getLsbD k := by
  have hbit : (1#32 <<< p).getLsbD k = decide (k = p) := by
    rw [← BitVec.twoPow_eq, BitVec.getLsbD_twoPow]
    simp [hp, eq_comm]
  cases closed with
  | false =>
    rw [switchesMoved, if_neg (by decide), BitVec.getLsbD_and, BitVec.getLsbD_not, hbit]
    by_cases h : k = p <;> simp [h, hk, hp]
  | true =>
    rw [switchesMoved, if_pos rfl, BitVec.getLsbD_or, hbit]
    by_cases h : k = p <;> simp [h]

/-- A side on which the member is the neighbour measures afresh (R304). -/
def State.sideMoved (s : State) (i p : Nat) (cw : Bool) (r : RingSide) : RingSide :=
  if s.besides (s.session i) cw p then { r with delays := [], sentAt := none } else r

section
variable {s : State} {i p : Nat} {closed : Bool}

theorem State.memberBypass_stays (h : s.time.bypassed.getLsbD p = closed ∨ ¬ s.StandsAt i p) :
    s.memberBypass i p closed = s :=
  if_pos (h.imp_right (mt (s.standsAt_iff i p).mp))

theorem State.memberBypass_moves (hne : s.time.bypassed.getLsbD p ≠ closed) (hp : s.StandsAt i p) :
    let b := switchesMoved s.time.bypassed p closed
    let cw := s.sideMoved i p true s.time.cw
    let ccw := s.sideMoved i p false s.time.ccw
    let u : State := { s with time := { s.time with bypassed := b, cw := cw, ccw := ccw } }
    s.memberBypass i p closed = { s with time := { s.time with
      bypassed := b, active := BitVec.ofNat 6 (u.activeRanks (s.session i)).length, cw := cw, ccw := ccw } } :=
  if_neg fun h => h.elim hne fun c => c ((s.standsAt_iff i p).mpr hp)

/-- R304: the active ranks of the ring are those whose switch stands open. -/
theorem State.mem_activeRanks (s : State) (x : Session) (r : Nat) :
    r ∈ s.activeRanks x ↔ r ∈ x.ringRanks x.ownRing ∧ (r = x.rank → s.time.bypassClosed = false) ∧
      (r ≠ x.rank → s.time.bypassed.getLsbD (x.placeOf r).2 = false) := by
  rw [State.activeRanks, List.mem_filter]
  by_cases h : r = x.rank <;> simp [h]

variable {idle : Bool} (hs : s.ringSession = some i)
include hs

theorem exec_memberBypass_moves (h : closed = true ∨ idle = true) :
    exec (.bypassSwitchChange (.member p closed) idle) s = .next (s.memberBypass i p closed) := by
  rw [exec_bypassSwitchChange, execBypassSwitchChange, hs]
  exact congrArg _ (if_pos (by simpa using h))

theorem exec_memberBypass_stays
    (h : s.time.bypassed.getLsbD p = closed ∨ ¬ s.StandsAt i p ∨ (closed = false ∧ idle = false)) :
    exec (.bypassSwitchChange (.member p closed) idle) s = .next s := by
  by_cases hmoves : closed = true ∨ idle = true
  · rw [exec_memberBypass_moves hs hmoves, State.memberBypass_stays]
    rcases h with h | h | ⟨hclosed, hidle⟩
    · exact .inl h
    · exact .inr h
    · simp [hclosed, hidle] at hmoves
  · rw [exec_bypassSwitchChange, execBypassSwitchChange, hs]
    exact congrArg _ (if_neg (by simpa using hmoves))

end

/-- Settles O46: the hold releases a session's arms alone, and each switch that moves leaves the sides afresh beside it. -/
theorem holdoverAndBypassAct : Obligations.HoldoverAndBypassAct := by
  unfold Obligations.HoldoverAndBypassAct
  intro s
  refine ⟨exec_holdoverTimeout_enters, ?held, rfl, fun locked idle => ?own, fun i p closed idle hs => ?member⟩
  case held =>
    intro i hi hs hsync hopen hlost h
    exact ⟨_, exec_holdoverHeld_holds hs hsync hopen hlost, s.hold_eq i rcTimeLost, s.hold_disarms i rcTimeLost,
      fun e he => s.hold_keeps_counts i rcTimeLost he, fun e he a ha => s.hold_keeps_arms i rcTimeLost he ha⟩
  case own =>
    intro wide closes fresh counted
    obtain ⟨hcloses, hopens, hstays⟩ := s.ownBypass_cases locked idle
    have hexec : ∀ {t}, s.ownBypass locked idle = t → exec (.bypassSwitchChange (.own locked) idle) s = .next t :=
      fun h => congrArg Host.Outcome.next h
    refine ⟨fun h => ?_, fun h hclosed hidle => ?_, fun h hno => hexec (hstays h hno)⟩
    · obtain ⟨a, ha, heq⟩ := s.switched_countActive true false
      exact ⟨a, ha, hexec ((hcloses h).trans heq)⟩
    · obtain ⟨a, ha, heq⟩ := s.switched_countActive false true
      exact ⟨a, ha, hexec ((hopens h hclosed hidle).trans heq)⟩
  case member =>
    intro x there fresh
    refine ⟨exec_memberBypass_stays hs, fun hne hthere hmoves hp => ?_⟩
    have hmoved := State.memberBypass_moves hne hthere
    refine ⟨_, (exec_memberBypass_moves hs hmoves).trans (congrArg _ hmoved), rfl, fun k hk => ?_, rfl, fun r => ?_⟩
    · exact getLsbD_switchesMoved _ closed hp hk
    · exact State.mem_activeRanks _ x r

end Sys2Proof.Machine
end


section
/-! PROOFS. Roll call (R320 to R325): a member's message, what a master hears, rank 0's verdict and its receipt. -/

namespace Sys2Proof.Machine

/-! ### Which meaning the commands have -/

theorem exec_rollCallPostmark (i : Nat) (s : State) : exec (.rollCallPostmark i) s = execRollCallPostmark i s := rfl

theorem exec_rollCallMessage (f : RollSender) (m : Bytes) (s : State) :
    exec (.rollCallMessage f m) s = execRollCallMessage f m s := rfl

theorem exec_rollCallDecide (i : Nat) (s : State) : exec (.rollCallDecide i) s = execRollCallDecide i s := rfl

theorem exec_verdict (rx : Rx) (m : Bytes) (s : State) : exec (.verdict rx m) s = execVerdict rx m s := rfl

theorem exec_epochOpen (i : Nat) (s : State) : exec (.epochOpen i) s = execEpochOpen i s := rfl

/-! ### What messages leave of a roll call -/

/-- No message sent changes a roll call in progress, the manifest or the held state. -/
theorem State.Sends.keeps_roll {s t : State} (h : s.Sends t) (i : Nat) :
    (t.session i).roll = (s.session i).roll ∧ (t.session i).manifest = (s.session i).manifest ∧
      (t.session i).held = (s.session i).held := by
  obtain ⟨-, h2⟩ := h
  obtain ⟨r, n, c, w, hx⟩ := h2 i
  rw [hx]
  exact ⟨rfl, rfl, rfl⟩

/-- A message that goes by flit leaves the timebase and the ring's sides. -/
theorem State.forward_time (s : State) (i : Nat) (f : OutFlit) : (s.forward i f).time = s.time := by
  unfold State.forward
  dsimp only
  split
  · rfl
  · unfold State.neverAcked
    dsimp only
    split <;> rfl

theorem State.sendGateways_time (s : State) (i flitType type : Nat) (body : Bytes) :
    (s.sendGateways i flitType type body).time = s.time := by
  unfold State.sendGateways
  generalize s.session i = x
  dsimp only
  generalize x.rings.filter (· ≠ 0) = l
  induction l generalizing s with
  | nil => rfl
  | cons k l ih => rw [List.foldl_cons, ih, State.sendMsg, State.forward_time]

/-! ### Hearing, R318 and R322 -/

theorem RollCall.hear_again {r : RollCall} {m : RollMsg} (h : ∃ k ∈ r.heard, k.rank = m.rank) : r.hear m = r :=
  if_pos (by simpa using h)

theorem RollCall.hear_first {r : RollCall} {m : RollMsg} (h : ∀ k ∈ r.heard, k.rank ≠ m.rank) :
    r.hear m = { r with heard := r.heard ++ [m] } := if_neg (by simpa using h)

/-- Hearing a message leaves all but what was heard, of which the sender is then one. -/
theorem RollCall.hear_eq (r : RollCall) (m : RollMsg) :
    r.hear m = { r with heard := (r.hear m).heard } ∧ ∃ k ∈ (r.hear m).heard, k.rank = m.rank := by
  by_cases h : ∃ k ∈ r.heard, k.rank = m.rank
  · rw [RollCall.hear_again h]
    exact ⟨rfl, h⟩
  · rw [RollCall.hear_first (by simpa using h)]
    exact ⟨rfl, m, by simp, rfl⟩

/-! ### At the postmark, R321 -/

section
variable {s : State} {i : Nat} {r : RollCall}

/-- A member's roll call once its message has left. -/
def State.rollSent (s : State) (i : Nat) (r : RollCall) (body : Bytes) : RollCall :=
  ({ r with
    sent := true, body := body
    reference := if (s.session i).rank = 0 then some body else r.reference } : RollCall).hear
    ⟨(s.session i).rank, body, s.time.sync ≠ .locked⟩

/-- A message sent both ways, and by rank 0 to every gateway (R318). -/
def State.announced (u : State) (i : Nat) (body : Bytes) (first : Prop) [Decidable first] : State :=
  if first then (u.sendBoth i 7 body).sendGateways i 4 7 body else u.sendBoth i 7 body

theorem State.announced_sends {u : State} (body : Bytes) (first : Prop) [Decidable first] (hi : i < 4) :
    u.Sends (u.announced i body first) ∧ (u.announced i body first).time = (u.sendBoth i 7 body).time := by
  have hring := (u.sendBoth_ringWork i 7 body hi).sends
  unfold State.announced
  split
  · exact ⟨hring.trans (State.sendGateways_sends _ i 4 7 body), State.sendGateways_time _ i 4 7 body⟩
  · exact ⟨hring, rfl⟩

/-- What a member sends of its roll call stands in it, its own message among those heard. -/
theorem State.rollSent_eq (s : State) (i : Nat) (r : RollCall) (body : Bytes) :
    s.rollSent i r body = { r with
      sent := true, body := body, reference := if (s.session i).rank = 0 then some body else r.reference
      heard := (s.rollSent i r body).heard } ∧
    ∃ m ∈ (s.rollSent i r body).heard, m.rank = (s.session i).rank := RollCall.hear_eq _ _

theorem exec_rollCallPostmark_sends (hr : (s.session i).roll = some r) (hs : r.sent = false)
    (hp : r.p.toNat ≤ s.time.now.toNat) :
    let digest := Crypto.sha512 (s.manifest i r.epoch)
    let body := s.rollBody i r.epoch digest
    let u := s.setSession i { s.session i with manifest := digest, roll := some (s.rollSent i r body) }
    exec (.rollCallPostmark i) s = .next (u.announced i body ((s.session i).rank = 0)) := by
  intro digest body u
  rw [exec_rollCallPostmark, execRollCallPostmark]
  dsimp only
  rw [hr]
  dsimp only
  rw [if_neg (by simp [hs, State.now, hp])]
  rfl

end

/-! ### A message received, R318 and R322 -/

/-- A gateway's sending on changes the ring alone, and the ring's own messages go no further. -/
theorem State.relay_ringWork (u : State) {g : Msg} (type : Nat) (fit : Bool) (hi : g.sess < 4) :
    u.RingWork (u.relay g type fit) := by
  unfold State.relay
  dsimp only
  split
  · exact u.sendBoth_ringWork g.sess type g.body hi
  · exact .refl u

theorem State.relay_of_ring {u : State} {g : Msg} {type : Nat} {fit : Bool} (h : g.byFlit = false) : u.relay g type fit = u :=
  if_neg (by simp [h])

/-- Rank 0's message is the reference, where none is held. -/
def RollCall.referred (r : RollCall) (rank : Nat) (body : Bytes) : RollCall :=
  if rank = 0 ∧ r.reference.isNone then { r with reference := some body } else r

theorem RollCall.referred_eq (r : RollCall) (rank : Nat) (body : Bytes) :
    r.referred rank body = { r with reference := if rank = 0 ∧ r.reference = none then some body else r.reference } := by
  have hnone : (rank = 0 ∧ r.reference.isNone = true) ↔ (rank = 0 ∧ r.reference = none) := by simp
  by_cases h : rank = 0 ∧ r.reference = none
  · rw [RollCall.referred, if_pos (hnone.mpr h), if_pos h]
  · rw [RollCall.referred, if_neg (mt hnone.mp h), if_neg h]

/-- R322: whether the time of a message is out. -/
def State.timeOut (u : State) (rx : Rx) (locked : Bool) (rest : Nat) (g : Msg) : Bool :=
  !locked || match rx with | .ring cw => u.rollTimeBad cw rest g | .port _ => false

/-- A roll call once a message has been taken: a master of its sender's ring that has sent no summary hears it. -/
def Session.rollHeard (x : Session) (r : RollCall) (rank : Nat) (body : Bytes) (bad : Bool) : RollCall :=
  if x.isMaster ∧ ¬ r.summarySent ∧ (x.ringRanks x.ownRing).contains rank then
    (r.referred rank body).hear ⟨rank, body, bad⟩
  else r.referred rank body

theorem Session.rollHeard_reference (x : Session) (r : RollCall) (rank : Nat) (body : Bytes) (bad : Bool) :
    (x.rollHeard r rank body bad).reference = if rank = 0 ∧ r.reference = none then some body else r.reference := by
  unfold Session.rollHeard
  split
  · rw [(RollCall.hear_eq _ _).1, RollCall.referred_eq]
  · rw [RollCall.referred_eq]

theorem Session.rollHeard_again {x : Session} {r : RollCall} {rank : Nat} (body : Bytes) (bad : Bool)
    (h : ∃ k ∈ r.heard, k.rank = rank) : (x.rollHeard r rank body bad).heard = r.heard := by
  have hsame : (r.referred rank body).heard = r.heard := by rw [RollCall.referred_eq]
  unfold Session.rollHeard
  split
  · rw [RollCall.hear_again (by rw [hsame]; exact h), hsame]
  · exact hsame

theorem Session.rollHeard_first {x : Session} {r : RollCall} {rank : Nat} (body : Bytes) (bad : Bool)
    (hm : x.isMaster = true) (hs : r.summarySent = false) (hring : rank ∈ x.ringRanks x.ownRing)
    (h : ∀ k ∈ r.heard, k.rank ≠ rank) : (x.rollHeard r rank body bad).heard = r.heard ++ [⟨rank, body, bad⟩] := by
  have hsame : (r.referred rank body).heard = r.heard := by rw [RollCall.referred_eq]
  rw [Session.rollHeard, if_pos ⟨hm, by simp [hs], by simpa using hring⟩,
    RollCall.hear_first (by rw [hsame]; exact h), hsame]

section
variable {s u : State} {rx : Rx} {m : Bytes} {locked : Bool} {rest : Nat} {g : Msg} {r : RollCall}

theorem exec_rollCallMessage_taken (h : s.takeMsg rx 7 4 m = (u, some g)) (hr : (u.session g.sess).roll = some r) :
    let x := u.session g.sess
    let rank := fieldAt g.body 96 2
    exec (.rollCallMessage ⟨rx, locked, rest⟩ m) s = .next ((u.setSession g.sess { x with
      roll := some (x.rollHeard r rank g.body (u.timeOut rx locked rest g)) }).relay g 7 (rank = 0)) := by
  intro x rank
  rw [exec_rollCallMessage, execRollCallMessage, h]
  dsimp only
  rw [hr]
  have hkept : (r.referred rank g.body).summarySent = r.summarySent := by rw [RollCall.referred_eq]
  unfold Session.rollHeard
  rw [← hkept]
  rfl

end

/-! ### Rank 0's verdict, R323 -/

/-- DECISION opens the epoch exactly when no member has a reason. -/
def verdictOf (rs : List (Nat × Byte)) : Byte := if orAll (rs.map fun e => e.2.toNat) = 0 then 1 else 2

theorem verdictOf_opens (rs : List (Nat × Byte)) :
    (verdictOf rs = 1 ↔ ∀ e ∈ rs, e.2 = 0) ∧ (verdictOf rs = 1 ∨ verdictOf rs = 2) := by
  have hzero : orAll (rs.map fun e => e.2.toNat) = 0 ↔ ∀ e ∈ rs, e.2 = 0 := by
    rw [orAll_eq_zero, List.forall_mem_map]
    exact forall₂_congr fun e _ => BitVec.toNat_inj (y := 0)
  rw [← hzero, verdictOf]
  split
  next h => simp [h]
  next h => simp [h]

/-- What rank 0 holds of its verdict. -/
def Session.decided (x : Session) (r : RollCall) : Session :=
  { x with
    roll := some { r with verdict := some (verdictOf (x.rollReasons r),
      BitVec.ofNat 16 (orAll ((x.rollReasons r).map fun e => e.2.toNat))) }
    held := { x.held with reasonOf := (x.rollReasons r).filter fun e => e.2 ≠ 0 } }

theorem exec_rollCallDecide_decides {s : State} {i : Nat} {r : RollCall} (hr : (s.session i).roll = some r)
    (hrank : (s.session i).rank = 0) (hs : r.sent = true) (hv : r.verdict = none)
    (hp : r.p.toNat + ns 50000 ≤ s.time.now.toNat) : ∃ body, exec (.rollCallDecide i) s =
      .next (((s.setSession i ((s.session i).decided r)).sendBoth i 8 body).sendGateways i 4 8 body) := by
  rw [exec_rollCallDecide, execRollCallDecide]
  dsimp only
  rw [hr]
  dsimp only
  rw [if_neg (by simp [hrank, hs, hv, State.now, hp])]
  exact ⟨_, rfl⟩

/-! ### A verdict received, R318 and R323 -/

/-- A verdict that a member holds: its tag verifies, it is of the roll call in progress, and none is held. -/
def State.verdictHeld (u : State) (g : Msg) (r : RollCall) : State :=
  if slice g.body 32 16 = u.recordTag g.sess (slice g.body 0 32) ∧ u64 g.body 0 = r.epoch ∧ r.verdict.isNone then
    u.setSession g.sess { u.session g.sess with roll := some { r with verdict := some (u8 g.body 8, u16 g.body 10) } }
  else u

section
variable {s u : State} {rx : Rx} {m : Bytes} {g : Msg} {r : RollCall}

theorem exec_verdict_taken (h : s.takeMsg rx 8 4 m = (u, some g)) (hr : (u.session g.sess).roll = some r) :
    exec (.verdict rx m) s = .next ((u.verdictHeld g r).relay g 8 true) := by
  rw [exec_verdict, execVerdict, h]
  dsimp only
  rw [hr]
  rfl

theorem State.verdictHeld_fits (ht : slice g.body 32 16 = u.recordTag g.sess (slice g.body 0 32)) (he : u64 g.body 0 = r.epoch)
    (hv : r.verdict = none) : u.verdictHeld g r = u.setSession g.sess { u.session g.sess with
      roll := some { r with verdict := some (u8 g.body 8, u16 g.body 10) } } := if_pos ⟨ht, he, by simp [hv]⟩

theorem State.verdictHeld_fails (ht : slice g.body 32 16 ≠ u.recordTag g.sess (slice g.body 0 32)) : u.verdictHeld g r = u :=
  if_neg fun h => ht h.1

/-- A gateway sends what came by flit around its ring (R318). -/
theorem State.relay_sends {type : Nat} {fit : Bool} (hb : g.byFlit = true) (hf : fit = true)
    (hm : (u.session g.sess).isMaster = true) (hr : (u.session g.sess).ownRing ≠ 0) :
    u.relay g type fit = u.sendBoth g.sess type g.body := if_pos ⟨hb, hf, hm, hr⟩

end

/-! ### The epoch opens, R324 -/

/-- Work that visits the ports in turn, changing each alone: what it makes of one port holds of all. -/
theorem State.foldl_ports {f : State → Nat → State} {R : Port → Port → Prop} {s : State}
    (hf : ∀ t p, p < 18 → t = { s with ports := t.ports } → f t p = { t with ports := (f t p).ports } ∧
      (∀ k, k ≠ p → (f t p).port k = t.port k) ∧ R (t.port p) ((f t p).port p)) (n : Nat) (hn : n ≤ 18) :
    let t := (List.range n).foldl f s
    t = { s with ports := t.ports } ∧ (∀ k < n, R (s.port k) (t.port k)) ∧ ∀ k, n ≤ k → t.port k = s.port k := by
  induction n with
  | zero => exact ⟨rfl, fun k hk => absurd hk (Nat.not_lt_zero k), fun _ _ => rfl⟩
  | succ n ih =>
    obtain ⟨hframe, hdone, hrest⟩ := ih (by omega)
    dsimp only
    rw [List.range_succ, List.foldl_append, List.foldl_cons, List.foldl_nil]
    generalize (List.range n).foldl f s = t at hframe hdone hrest
    obtain ⟨hstep, hothers, hport⟩ := hf t n (by omega) hframe
    refine ⟨by rw [hstep, hframe], fun k hk => ?_, fun k hk => (hothers k (by omega)).trans (hrest k (by omega))⟩
    rcases Nat.lt_succ_iff_lt_or_eq.mp hk with hlt | rfl
    · rw [hothers k (by omega)]
      exact hdone k hlt
    · rw [← hrest k (le_refl k)]
      exact hport

/-- What an epoch that opens makes of a port: one of the session's counts tag failures afresh, and takes the keys of the
epoch where it carries flits or waits for HELLO. -/
def Port.Reopens (q r : Port) (i : Nat) (e : W64) : Prop :=
  if q.bound = true ∧ q.session.toNat = i then
    r.epochTagFail = 0 ∧
      (q.runs = true ∨ q.state = .keying → r.state = .keying ∧ r.keyEpoch = e ∧ r.txSlot = 0 ∧ r.rxSlot = 0)
  else r = q

/-- One port as the epoch opens. -/
def State.reopenPort (i : Nat) (s : State) (p : Nat) : State :=
  let q := s.port p
  if q.bound ∧ q.session.toNat = i then
    let s := s.onPort p fun q => { q with epochTagFail := 0 }
    if q.runs ∨ q.state = .keying then s.enterKeying p else s
  else s

theorem State.reopenPort_reopens {s : State} {i p : Nat} (hp : p < 18) :
    s.reopenPort i p = { s with ports := (s.reopenPort i p).ports } ∧
      (∀ k, k ≠ p → (s.reopenPort i p).port k = s.port k) ∧
      (s.port p).Reopens ((s.reopenPort i p).port p) i (s.session i).epoch := by
  unfold State.reopenPort Port.Reopens
  dsimp only
  by_cases hown : (s.port p).bound = true ∧ (s.port p).session.toNat = i
  · rw [if_pos hown, if_pos hown]
    by_cases hkeys : (s.port p).runs = true ∨ (s.port p).state = .keying
    · have henters := State.enterKeying_setPort (s := s) (q := { s.port p with epochTagFail := 0 }) (x := s.session i) hp
        (congrArg s.session hown.2) rfl
      rw [if_pos hkeys, State.onPort, henters, State.setPort_same _ _ hp]
      exact ⟨rfl, fun k hk => State.setPort_other _ _ (Ne.symm hk), rfl, fun _ => ⟨rfl, rfl, rfl, rfl⟩⟩
    · rw [if_neg hkeys, State.onPort, State.setPort_same _ _ hp]
      exact ⟨rfl, fun k hk => State.setPort_other _ _ (Ne.symm hk), rfl, fun h => absurd h hkeys⟩
  · rw [if_neg hown, if_neg hown]
    exact ⟨rfl, fun _ _ => rfl, rfl⟩

/-- A session whose epoch opens. -/
def Session.opened (x : Session) (e : W64) : Session :=
  { x with
    epoch := e, epochOpen := true, roll := none, frameSeq := 0
    held := { x.held with held := false, ownReasons := 0, groupReasons := 0, epoch := e } }

theorem State.openEpoch_opens {s : State} {i : Nat} (e : W64) (hi : i < 4) :
    let t := s.openEpoch i e
    t = { s with sessions := t.sessions, ports := t.ports } ∧ t.session i = (s.session i).opened e ∧
      ∀ p < 18, (s.port p).Reopens (t.port p) i e := by
  let u := s.setSession i ((s.session i).opened e)
  have hu : u.session i = (s.session i).opened e := State.setSession_same _ _ hi
  have hports := State.foldl_ports (f := State.reopenPort i) (R := fun q r => q.Reopens r i e) (s := u)
    (fun v p hp hv => by
      obtain ⟨hstep, hothers, hport⟩ := State.reopenPort_reopens (s := v) (i := i) hp
      have hepoch : (v.session i).epoch = e := by
        rw [hv]
        exact congrArg Session.epoch hu
      rw [hepoch] at hport
      exact ⟨hstep, hothers, hport⟩) 18 (le_refl _)
  have hfold : s.openEpoch i e = (List.range 18).foldl (State.reopenPort i) u := rfl
  rw [hfold]
  dsimp only at hports ⊢
  generalize (List.range 18).foldl (State.reopenPort i) u = t at hports ⊢
  obtain ⟨hframe, hreopens, -⟩ := hports
  have hsessions : t.sessions = u.sessions := by rw [hframe]
  refine ⟨?_, ?_, hreopens⟩
  · rw [hsessions]
    exact hframe
  · rw [State.session, hsessions]
    exact hu

/-! ### The member is held instead, R324 and R327 -/

/-- The reasons that a member's own roll call gives it. -/
def RollCall.ownReasons (r : RollCall) (rank : Nat) : Byte :=
  match r.reference with
  | some ref => classify ref r.body ((r.heard.find? (·.rank = rank)).any (·.timeBad))
  | none => 0

theorem RollCall.ownReasons_of_reference {r : RollCall} {ref : Bytes} (rank : Nat) (h : r.reference = some ref) :
    ∃ bad, r.ownReasons rank = classify ref r.body bad := by
  rw [RollCall.ownReasons, h]
  exact ⟨_, rfl⟩

/-- A member held at the postmark of opening, its roll call over. -/
def State.leftClosed (s : State) (i : Nat) (own : Byte) (f : HeldRec → HeldRec) : State :=
  (s.hold i own).onSession i fun x => { x with roll := none, held := f x.held }

theorem State.leftClosed_session (s : State) {i : Nat} (own : Byte) (f : HeldRec → HeldRec) (hi : i < 4) :
    (s.leftClosed i own f).session i = { s.session i with
      roll := none
      held := f { (s.session i).held with
        held := true, ownReasons := (s.session i).held.ownReasons ||| own
        heldSince := if (s.session i).held.held then (s.session i).held.heldSince else s.time.now } } := by
  rw [State.leftClosed, State.onSession_same _ _ hi, State.hold_session s own hi]

section
variable {s : State} {i : Nat} {r : RollCall} (hr : (s.session i).roll = some r)
  (hp : r.p.toNat + ns 100000 ≤ s.time.now.toNat)
include hr hp

theorem exec_epochOpen_opens {reasons : BitVec 16} (hv : r.verdict = some (1, reasons)) :
    exec (.epochOpen i) s = .next (s.openEpoch i r.epoch) := by
  rw [exec_epochOpen, execEpochOpen, State.epochDue, hr]
  dsimp only
  rw [if_neg (by simp [State.now, hp]), hv]
  rfl

theorem exec_epochOpen_refused {d : Byte} {reasons : BitVec 16} (hv : r.verdict = some (d, reasons)) (hd : d ≠ 1) :
    exec (.epochOpen i) s = .next (s.leftClosed i (r.ownReasons (s.session i).rank)
      fun h => { h with groupReasons := BitVec.ofNat 8 reasons.toNat, epoch := r.epoch }) := by
  rw [exec_epochOpen, execEpochOpen, State.epochDue, hr]
  dsimp only
  rw [if_neg (by simp [State.now, hp]), hv]
  exact congrArg _ (if_neg hd)

theorem exec_epochOpen_unheard (hv : r.verdict = none) :
    exec (.epochOpen i) s = .next (s.leftClosed i (r.ownReasons (s.session i).rank ||| rcNoVerdict)
      fun h => { h with epoch := r.epoch }) := by
  rw [exec_epochOpen, execEpochOpen, State.epochDue, hr]
  dsimp only
  rw [if_neg (by simp [State.now, hp]), hv]
  rfl

end

/-- The bits that a disjunction was given are set in it. -/
theorem or_and_given {w : Nat} (a b : BitVec w) : (a ||| b) &&& b = b := by
  ext n
  simp only [BitVec.getElem_and, BitVec.getElem_or]
  cases b[n] <;> simp

theorem State.leftClosed_frame (s : State) (i : Nat) (own : Byte) (f : HeldRec → HeldRec) : s.leftClosed i own f =
    { s with sessions := (s.leftClosed i own f).sessions, tallies := (s.leftClosed i own f).tallies } := by
  have hhold := s.hold_eq i own
  unfold State.leftClosed
  generalize s.hold i own = u at hhold ⊢
  exact congrArg (fun v : State => { v with
    sessions := (u.onSession i fun x => { x with roll := none, held := f x.held }).sessions }) hhold

/-- What holding a member at the postmark of opening leaves, whatever its record then notes of the group's reasons. -/
theorem State.leftClosed_held (s : State) {i : Nat} (own : Byte) {f : HeldRec → HeldRec} (hi : i < 4)
    {e : W64} (hf : ∀ h, (f h).held = h.held ∧ (f h).ownReasons = h.ownReasons ∧ (f h).epoch = e) :
    let t := s.leftClosed i own f
    let x := s.session i
    t = { s with sessions := t.sessions, tallies := t.tallies } ∧ (t.session i).held.held = true ∧
      (t.session i).roll = none ∧ (t.session i).epochOpen = x.epochOpen ∧ (t.session i).held.epoch = e ∧
      (t.session i).held.ownReasons = x.held.ownReasons ||| own ∧
      ∀ e ∈ t.tallies, ∀ a, e.2.arm = some a → a.2.2.1 ≠ i := by
  intro t x
  rw [s.leftClosed_session own f hi]
  obtain ⟨hheld, hreasons, hepoch⟩ := hf { (s.session i).held with
    held := true, ownReasons := (s.session i).held.ownReasons ||| own
    heldSince := if (s.session i).held.held then (s.session i).held.heldSince else s.time.now }
  exact ⟨s.leftClosed_frame i own f, hheld, rfl, rfl, hepoch, hreasons, s.hold_disarms i own⟩

/-- Settles O49: the message sent and heard, the verdict given and taken, and the two ways in which the roll call ends. -/
theorem rollCallRuns : Obligations.RollCallRuns := by
  unfold Obligations.RollCallRuns
  refine ⟨?postmark, ?message, ?decide, ?verdict, ?opening⟩
  case postmark =>
    intro s i r hi hr hs hp digest body
    have hexec := exec_rollCallPostmark_sends hr hs hp
    dsimp only at hexec
    generalize hv : s.rollSent i r body = v at hexec
    obtain ⟨hsent, hheard⟩ := hv ▸ s.rollSent_eq i r body
    let x : Session := { s.session i with manifest := digest, roll := some v }
    have hsame : s.SameRing (s.setSession i x) := State.sameRing_setSession rfl rfl rfl
    have hx : (s.setSession i x).session i = x := State.setSession_same _ _ hi
    obtain ⟨hsends, htime⟩ := State.announced_sends (u := s.setSession i x) body ((s.session i).rank = 0) hi
    generalize (s.setSession i x).announced i body ((s.session i).rank = 0) = t at hexec hsends htime
    obtain ⟨hroll, hmanifest, -⟩ := hsends.keeps_roll i
    obtain ⟨hslots, htallies, -, -⟩ := hsends.keeps i
    rw [hx] at hroll hmanifest
    refine ⟨t, v, hexec, hmanifest, hroll, ?_, ?_, ?_, ?_, hheard, fun hfirst => ?_, fun hup => ?_, htallies, hslots,
      fun j _ hj => ?_⟩
    · rw [hsent]
    · rw [hsent]
    · rw [hsent]
    · rw [hsent]
    · rw [hsent]
      exact if_pos hfirst
    · rw [htime, ((s.setSession i x).sendBoth_up i 7 body (hsame.ringUp.trans hup) hi).1, hsame.ringKey, hsame.rank, hx]
      rfl
    · obtain ⟨-, -, -, hseal⟩ := hsends.keeps j
      rw [hseal, State.setSession_other _ _ (Ne.symm hj)]
  case message =>
    intro s u rx m locked rest g r h hi hr x rank
    have hexec := exec_rollCallMessage_taken (locked := locked) (rest := rest) h hr
    dsimp only at hexec
    generalize hv : x.rollHeard r rank g.body (u.timeOut rx locked rest g) = v at hexec
    obtain ⟨hroll, -, -⟩ :=
      (State.relay_ringWork (u.setSession g.sess { x with roll := some v }) 7 (rank = 0) hi).sends.keeps_roll g.sess
    rw [State.setSession_same _ _ hi] at hroll
    refine ⟨_, v, hexec, hroll, ?_, fun hm hsum hring hfirst =>
       ⟨u.timeOut rx locked rest g, ?_, fun hl => ?_, fun k hk => ?_, fun cw hcw hl => ?_⟩, 
      fun hk => ?_, fun hb => State.relay_of_ring hb⟩
    · rw [← hv]
      exact Session.rollHeard_reference x r rank g.body _
    · rw [← hv]
      exact Session.rollHeard_first g.body _ hm hsum hring hfirst
    · rw [hl]
      rfl
    · rw [hk]
      exact Bool.or_false _
    · rw [hcw, hl]
      rfl
    · rw [← hv]
      exact Session.rollHeard_again g.body _ hk
  case decide =>
    intro s i r hi hr hrank hs hv hp rs
    obtain ⟨body, hexec⟩ := exec_rollCallDecide_decides hr hrank hs hv hp
    have hsends := ((s.setSession i ((s.session i).decided r)).sendBoth_ringWork i 8 body hi).sends.trans
      (State.sendGateways_sends _ i 4 8 body)
    obtain ⟨hroll, -, hheld⟩ := hsends.keeps_roll i
    obtain ⟨hslots, htallies, -, -⟩ := hsends.keeps i
    obtain ⟨hopens, htwo⟩ := verdictOf_opens rs
    rw [State.setSession_same _ _ hi] at hroll hheld
    exact ⟨_, verdictOf rs, _, _, hexec, hroll, rfl, hopens, htwo, congrArg HeldRec.reasonOf hheld, htallies, hslots⟩
  case verdict =>
    intro s u rx m g r h hi hr
    have hexec := exec_verdict_taken h hr
    refine ⟨fun ht he hv => ?_, fun hb ht => ?_, fun hb ht => ?_⟩
    · rw [State.verdictHeld_fits ht he hv] at hexec
      obtain ⟨hroll, -, -⟩ := (State.relay_ringWork (u.setSession g.sess { u.session g.sess with
        roll := some { r with verdict := some (u8 g.body 8, u16 g.body 10) } }) 8 true hi).sends.keeps_roll g.sess
      rw [State.setSession_same _ _ hi] at hroll
      exact ⟨_, hexec, hroll, fun hb => State.relay_of_ring hb⟩
    · rw [hexec, State.verdictHeld_fails ht, State.relay_of_ring hb]
    · rw [State.verdictHeld_fails ht] at hexec
      obtain ⟨hroll, -, -⟩ := (State.relay_ringWork u 8 true hi).sends.keeps_roll g.sess
      refine ⟨_, hexec, hroll.trans hr, fun hm hring hup _ => ?_⟩
      rw [State.relay_sends hb rfl hm hring]
      exact (u.sendBoth_up g.sess 8 g.body hup hi).1
  case opening =>
    intro s i r hi hr hp x
    refine ⟨fun reasons hv => ?opens, fun hv => ?closed⟩
    case opens =>
      obtain ⟨hframe, hsession, hports⟩ := s.openEpoch_opens r.epoch hi
      refine ⟨_, exec_epochOpen_opens hr hp hv, hframe, hsession, fun p hp hb hi' => ?_, fun p hp hno => ?_⟩
      · have hport := hports p hp
        rwa [Port.Reopens, if_pos ⟨hb, hi'⟩] at hport
      · have hport := hports p hp
        rwa [Port.Reopens, if_neg] at hport
        rintro ⟨hb, hi'⟩
        rcases hno with hno | hno
        · simp [hb] at hno
        · exact hno hi'
    case closed =>
      rcases hv with hv | ⟨d, reasons, hv, hd⟩
      · obtain ⟨hframe, hheld, hroll, hopen, hepoch, hown, harms⟩ := s.leftClosed_held
          (r.ownReasons x.rank ||| rcNoVerdict) (f := fun h => { h with epoch := r.epoch }) hi fun h => ⟨rfl, rfl, rfl⟩
        refine ⟨_, exec_epochOpen_unheard hr hp hv, hframe, hheld, hroll, hopen, hepoch, fun _ => ?_,
          fun ref href => ?_, harms⟩
        · rw [hown, ← BitVec.or_assoc]
          exact or_and_given _ rcNoVerdict
        · obtain ⟨bad, hbad⟩ := RollCall.ownReasons_of_reference x.rank href
          exact ⟨bad, by rw [hown, hbad, hv]; rfl⟩
      · obtain ⟨hframe, hheld, hroll, hopen, hepoch, hown, harms⟩ := s.leftClosed_held
          (r.ownReasons x.rank) (f := fun h => { h with groupReasons := BitVec.ofNat 8 reasons.toNat, epoch := r.epoch }) hi
          fun h => ⟨rfl, rfl, rfl⟩
        refine ⟨_, exec_epochOpen_refused hr hp hv hd, hframe, hheld, hroll, hopen, hepoch, fun hnone => ?_, fun ref href => ?_,
          harms⟩
        · rw [hv] at hnone
          cases hnone
        · obtain ⟨bad, hbad⟩ := RollCall.ownReasons_of_reference x.rank href
          exact ⟨bad, by rw [hown, hbad, hv, if_neg (by simp), show (0 : Byte) = 0#8 from rfl, BitVec.or_zero]⟩

end Sys2Proof.Machine
end


section
/-! PROOFS. The register windows and the status block (R295, R396, R444, R446, R452, R467 to R471, R490, R491): a write to a
mailbox by what the mailbox is doing, the SUBMIT of a request, and the pages that are written. -/

namespace Sys2Proof.Machine

/-! ### Which meaning the commands have -/

theorem exec_registerWrite (o : Origin) (off : Nat) (v : W32) (s : State) :
    exec (.registerWrite o off v) s = execRegisterWrite o off v s := rfl

theorem exec_nowLoRead (o : Origin) (s : State) : exec (.nowLoRead o) s = execNowLoRead o s := rfl

theorem exec_statusPageWrite (page : Nat) (s : State) : exec (.statusPageWrite page) s = execStatusPageWrite page s := rfl

/-! ### The first window, R446 -/

section
variable {s : State} {fn off n : Nat} {st : Option Nat} {v : W32}

/-- A write beyond BAR2, or beyond a virtual function's window, has no address. -/
theorem exec_registerWrite_beyond (h : 0x400000 ≤ off) (hb : 0x420000 ≤ off ∨ fn ≠ 0) :
    exec (.registerWrite ⟨fn, st⟩ off v) s = .fault .noSuchAddress :=
  if_pos (hb.imp id fun hf => ⟨h, hf⟩)

variable (hbarred : s.barred fn st = none)
include hbarred

/-- A write that is not barred, within the window that its function has. -/
theorem exec_registerWrite_within (h : ¬ (0x420000 ≤ off ∨ 0x400000 ≤ off ∧ fn ≠ 0)) :
    exec (.registerWrite ⟨fn, st⟩ off v) s = .next (
      let a := off / 4 * 4
      if 0x400000 ≤ a then (s.say .ok).bar2Write (a - 0x400000) v
      else if a < 0x80000 ∧ s.showsMailbox fn (a / 0x2000) then (s.say .ok).mbWrite (a / 0x2000) (a % 0x2000) v
      else s.say .ok) := by
  rw [exec_registerWrite, execRegisterWrite, if_neg h, hbarred]
  rfl

theorem exec_registerWrite_mailbox {o : Nat} (hn : n < 64) (hs : s.showsMailbox fn n = true) (ho : o < 0x2000) (h4 : o % 4 = 0) :
    exec (.registerWrite ⟨fn, st⟩ (0x2000 * n + o) v) s = .next ((s.say .ok).mbWrite n o v) := by
  have ha : (0x2000 * n + o) / 4 * 4 = 0x2000 * n + o := by omega
  have hdiv : (0x2000 * n + o) / 0x2000 = n := by omega
  have hmod : (0x2000 * n + o) % 0x2000 = o := by omega
  rw [exec_registerWrite_within hbarred (by omega)]
  dsimp only
  rw [ha, hdiv, hmod, if_neg (by omega), if_pos ⟨by omega, hs⟩]

/-- Above the mailboxes the window takes no write (R446). -/
theorem exec_registerWrite_ignored (hlo : 0x80000 ≤ off) (hhi : off < 0x400000) :
    exec (.registerWrite ⟨fn, st⟩ off v) s = .next (s.say .ok) := by
  rw [exec_registerWrite_within hbarred (by omega)]
  dsimp only
  rw [if_neg (by omega), if_neg (by omega)]

end

/-- The decoder's control register commits it with its Commit bit, and leaves it when it is committed (R452). -/
theorem State.bar2Write_commit {s : State} {v : W32} (hv : v.getLsbD 9 = true) (hfree : s.host.decoder.committed = false) :
    s.bar2Write 0x1320 v =
      s.commitDecoder s.host.decoder.base s.host.decoder.size (2 ^ (v.toNat / 2 ^ 4 % 16)) := by
  unfold State.bar2Write
  dsimp only
  rw [if_neg (by omega), if_neg (by omega), if_neg (by omega), if_neg (by omega), if_pos rfl, if_neg (by simp [hfree]),
    if_pos hv]

theorem exec_registerWrite_commit {s : State} {st : Option Nat} {v : W32} (hbarred : s.barred 0 st = none)
    (hv : v.getLsbD 9 = true) (hfree : s.host.decoder.committed = false) :
    exec (.registerWrite ⟨0, st⟩ 0x401320 v) s =
      .next ((s.say .ok).commitDecoder s.host.decoder.base s.host.decoder.size (2 ^ (v.toNat / 2 ^ 4 % 16))) := by
  have ha : 0x401320 / 4 * 4 = 0x401320 := by norm_num
  rw [exec_registerWrite_within hbarred (by omega)]
  dsimp only
  rw [ha, if_pos (by omega), show 0x401320 - 0x400000 = 0x1320 by norm_num]
  exact congrArg _ (State.bar2Write_commit (s := s.say .ok) hv hfree)

/-! ### A write to a mailbox, R467, R469, R470 -/

section
variable {s : State} {n off : Nat} {v : W32}

theorem State.mbWrite_control :
    s.mbWrite n 0 v = s.setMailbox n { s.mailbox n with busyErr := (s.mailbox n).busyErr && !v.getLsbD 2 } := by
  rw [State.mbWrite]
  cases v.getLsbD 2 <;> simp

theorem State.mbWrite_busy (h : (s.mailbox n).state = .submitted ∨ (s.mailbox n).state = .serving)
    (hoff : off = 4 ∨ off = 8 ∨ 64 ≤ off) : s.mbWrite n off v = s.setMailbox n { s.mailbox n with busyErr := true } := by
  unfold State.mbWrite
  dsimp only
  rw [if_neg (by omega), if_pos hoff, if_pos h]

variable (h : ¬ ((s.mailbox n).state = .submitted ∨ (s.mailbox n).state = .serving))
include h

theorem State.mbWrite_length : s.mbWrite n 4 v = s.setMailbox n { s.mailbox n with reqLen := BitVec.ofNat 13 v.toNat } := by
  unfold State.mbWrite
  dsimp only
  rw [if_neg (by decide), if_pos (by decide), if_neg h, if_pos rfl]

theorem State.mbWrite_submit (hv : v.getLsbD 0 = true) : s.mbWrite n 8 v = s.submit n := by
  unfold State.mbWrite
  dsimp only
  rw [if_neg (by decide), if_pos (by decide), if_neg h, if_neg (by decide), if_pos rfl, if_pos hv]

theorem State.mbWrite_buffer (hoff : 64 ≤ off) : s.mbWrite n off v =
    s.setMailbox n { s.mailbox n with buffer := memStore (s.mailbox n).buffer (off - 64) (w32 v) } := by
  unfold State.mbWrite
  dsimp only
  rw [if_neg (by omega), if_pos (by omega), if_neg h, if_neg (by omega), if_neg (by omega)]

end

/-! ### SUBMIT, R468, R471, R526, R528 -/

/-- A mailbox whose request has been submitted. -/
def Mailbox.submit (m : Mailbox) (order : Nat) (now : W64) : Mailbox :=
  { m with submits := m.submits + 1, respLen := 0, state := .submitted, order := order, at_ := now }

/-- Work that arrives wakes the module from PS1, and changes power no further (R526). -/
theorem State.stir_eq (s : State) : ∃ p : PowerPins, p.power = s.power.power ∧
    (s.power.power = .ps1 → p.waking = true) ∧ s.stir = { s with power := p } := by
  unfold State.stir
  split
  next h => exact ⟨{ s.power with waking := true, wakeAt := BitVec.ofNat 64 (s.now + ns 20000) }, rfl, fun _ => rfl, rfl⟩
  next h => exact ⟨s.power, rfl, fun hp => by simpa [hp] using h, rfl⟩

/-- Work that arrives in PS2 wakes the module as well (R528). -/
def State.stirDeep (s : State) : State :=
  if s.power.power = .ps2 ∧ ¬ s.power.waking2 then
    { s with power := { s.power with waking2 := true, wakeAt := BitVec.ofNat 64 (s.now + ns 3000000) } }
  else s

theorem State.stirDeep_eq (s : State) : ∃ p : PowerPins, p.power = s.power.power ∧ p.waking = s.power.waking ∧
    s.stirDeep = { s with power := p } := by
  unfold State.stirDeep
  split
  · exact ⟨{ s.power with waking2 := true, wakeAt := BitVec.ofNat 64 (s.now + ns 3000000) }, rfl, rfl, rfl⟩
  · exact ⟨s.power, rfl, rfl, rfl⟩

/-- A SUBMIT, before the request is judged: it wakes the module, and changes power no further. -/
theorem State.submit_eq (s : State) (n : Nat) : ∃ p : PowerPins, p.power = s.power.power ∧
    (s.power.power = .ps1 → p.waking = true) ∧
    let m := (s.mailbox n).submit s.submitNo s.time.now
    let w : State := { s with submitNo := s.submitNo + 1, mailboxes := vset s.mailboxes n m, power := p }
    s.submit n = if (s.mailbox n).reqLen.toNat < 16 ∨ 8128 < (s.mailbox n).reqLen.toNat then w.done n stRefused 0 []
      else w.passTurn := by
  let m := (s.mailbox n).submit s.submitNo s.time.now
  let u : State := { s with submitNo := s.submitNo + 1, mailboxes := vset s.mailboxes n m }
  obtain ⟨p, hpower, hwaking, hstir⟩ := u.stir_eq
  obtain ⟨q, hpower', hwaking', hdeep⟩ := ({ u with power := p } : State).stirDeep_eq
  refine ⟨q, hpower'.trans hpower, fun h => hwaking'.trans (hwaking h), ?_⟩
  have hsubmit : s.submit n = if m.reqLen.toNat < 16 ∨ 8128 < m.reqLen.toNat then u.stir.stirDeep.done n stRefused 0 []
      else u.stir.stirDeep.passTurn := rfl
  rw [hsubmit, hstir, hdeep]
  rfl

/-- A mailbox whose request has a known code stays as it is when the turn passes on. -/
theorem State.passTurns_known (fuel k : Nat) (s : State) (h : fieldAt (s.mailbox k).request 0 2 ∈ knownCodes) :
    (State.passTurns fuel s).mailbox k = s.mailbox k := by
  induction fuel generalizing s with
  | zero => rfl
  | succ fuel ih =>
    unfold State.passTurns
    split
    next j hj =>
      have hne : j ≠ k := by
        rintro rfl
        have hunknown := List.find?_some hj
        simp [State.unknownTurn, h] at hunknown
      have hk : ∀ st, (s.done j st 0 []).mailbox k = s.mailbox k := fun st => State.setMailbox_other _ _ hne
      dsimp only
      rw [ih _ (by rw [hk]; exact h), hk]
    next => rfl

/-- The turn does not pass while no request with an unknown code is next. -/
theorem State.passTurn_none {s : State} (h : ∀ k < 64, s.unknownTurn k = false) : s.passTurn = s := by
  have hnone : (List.range 64).find? s.unknownTurn = none := by
    rw [List.find?_eq_none]
    intro k hk
    rw [h k (List.mem_range.mp hk)]
    decide
  rw [State.passTurn, State.passTurns, hnone]

theorem State.submittedBefore_congr {s w : State} {a b : Nat} (ha : w.mailbox a = s.mailbox a) (hb : w.mailbox b = s.mailbox b) :
    w.submittedBefore a b = s.submittedBefore a b := by
  rw [State.submittedBefore, State.submittedBefore, ha, hb]

/-- A request that is submitted gives no other mailbox its turn (R471). -/
theorem State.turn_before_submit {s w : State} {n k : Nat} (hother : ∀ j, j ≠ n → w.mailbox j = s.mailbox j)
    (hfree : (s.mailbox n).state = .idle ∨ (s.mailbox n).state = .done) (hk : k ≠ n) (h : w.turn k = true) :
    s.turn k = true := by
  simp only [State.turn, Bool.and_eq_true, List.all_eq_true, List.mem_range] at h ⊢
  obtain ⟨hsubmitted, hbefore⟩ := h
  refine ⟨by rw [← hother k hk]; exact hsubmitted, fun j hj => ?_⟩
  by_cases hjn : j = n
  · subst hjn
    rcases hfree with hfree | hfree <;> rw [hfree] <;> exact Bool.or_true _
  · have hj' := hbefore j hj
    rwa [State.submittedBefore_congr (hother k hk) (hother j hjn), hother j hjn] at hj'

/-- A SUBMIT of a known request changes mailboxes and power alone: its mailbox waits, and where no request with an unknown
code was next the others stay as they were (R468, R471). -/
theorem State.submit_takes {s : State} {n : Nat} (hn : n < 64)
    (hfree : (s.mailbox n).state = .idle ∨ (s.mailbox n).state = .done) (hmin : 16 ≤ (s.mailbox n).reqLen.toNat)
    (hmax : (s.mailbox n).reqLen.toNat ≤ 8128) (hknown : fieldAt (s.mailbox n).request 0 2 ∈ knownCodes) :
    let t := s.submit n
    t = { s with submitNo := s.submitNo + 1, mailboxes := t.mailboxes, power := t.power } ∧
      t.mailbox n = (s.mailbox n).submit s.submitNo s.time.now ∧
      ((∀ k < 64, s.unknownTurn k = false) → ∀ k < 64, k ≠ n → t.mailbox k = s.mailbox k) ∧
      t.power.power = s.power.power ∧ (s.power.power = .ps1 → t.power.waking = true) := by
  obtain ⟨p, hpower, hwaking, hsubmit⟩ := s.submit_eq n
  dsimp only at hsubmit ⊢
  rw [hsubmit, if_neg (by omega)]
  let m := (s.mailbox n).submit s.submitNo s.time.now
  let w : State := { s with submitNo := s.submitNo + 1, mailboxes := vset s.mailboxes n m, power := p }
  have hm : w.mailbox n = m := vget_vset_same _ _ _ hn
  have hother : ∀ k, k ≠ n → w.mailbox k = s.mailbox k := fun k hk => vget_vset_other _ _ _ (Ne.symm hk)
  have hkept : w.passTurn.mailbox n = m := (State.passTurns_known 64 n w (by rw [hm]; exact hknown)).trans hm
  have hquiet : (∀ k < 64, s.unknownTurn k = false) → w.passTurn = w := fun h => State.passTurn_none fun k hk => by
    by_cases hkn : k = n
    · have hcode : fieldAt m.request 0 2 ∈ knownCodes := hknown
      rw [State.unknownTurn, hkn, hm, List.contains_iff_mem.mpr hcode, Bool.not_true, Bool.and_false]
    · rw [← Bool.not_eq_true, State.unknownTurn, Bool.and_eq_true, Bool.and_eq_true]
      rintro ⟨⟨hserved, hturn⟩, hcode⟩
      have hserved' : s.mbServed = true := by rwa [State.mbServed, ← hpower]
      have hearlier := h k hk
      rw [State.unknownTurn, hserved', State.turn_before_submit hother hfree hkn hturn, ← hother k hkn, hcode] at hearlier
      exact absurd hearlier (by decide)
  obtain ⟨boxes, since, hframe⟩ := w.passTurn_frame
  refine ⟨?_, hkept, fun h k _ hk => ?_, ?_, fun h => ?_⟩
  · rw [hframe]
  · rw [hquiet h, hother k hk]
  · rw [hframe]
    exact hpower
  · rw [hframe]
    exact hwaking h

/-- A SUBMIT of a length that no request may have is answered at once (R468). -/
theorem State.submit_refuses {s : State} {n : Nat} (hn : n < 64)
    (hlen : (s.mailbox n).reqLen.toNat < 16 ∨ 8128 < (s.mailbox n).reqLen.toNat) :
    let t := s.submit n
    (∀ k, k ≠ n → t.mailbox k = s.mailbox k) ∧
      t.mailbox n = ((s.mailbox n).submit s.submitNo s.time.now).answer s.time.now stRefused 0 [] := by
  obtain ⟨p, -, -, hsubmit⟩ := s.submit_eq n
  dsimp only at hsubmit ⊢
  rw [hsubmit, if_pos hlen]
  let m := (s.mailbox n).submit s.submitNo s.time.now
  let w : State := { s with submitNo := s.submitNo + 1, mailboxes := vset s.mailboxes n m, power := p }
  have hm : w.mailbox n = m := vget_vset_same _ _ _ hn
  refine ⟨fun k hk => ?_, ?_⟩
  · exact (State.setMailbox_other w _ (Ne.symm hk)).trans (vget_vset_other _ _ _ (Ne.symm hk))
  · refine (State.setMailbox_same w _ hn).trans ?_
    rw [hm]

/-! ### NOW_LO, R295 -/

theorem exec_nowLoRead_latches {s : State} {fn : Nat} {st : Option Nat} (h : s.barred fn st = none) :
    exec (.nowLoRead ⟨fn, st⟩) s = .next { s with
      time := { s.time with latch := vset s.time.latch fn (BitVec.ofNat 32 (s.time.now.toNat / 2 ^ 32)) }
      host := { s.host with reply := .bytes (le 4 (s.time.now.toNat % 2 ^ 32)) } } := by
  rw [exec_nowLoRead, execNowLoRead, h]
  rfl

/-! ### The status pages, R490, R491 -/

/-- A portion that is shown as it stands has not moved, and its page has the STATUS_SEQ and the postmark that are held (R488,
R490). -/
theorem State.modulePage_of_shown {w : State} {page : Bytes} (h : w.shown = some page) (hp : w.portionWith 0 0 = page) :
    w.modulePage = w.portionWith w.statusSeq w.written := by
  have hmoved : w.portionMoved = false := by
    rw [State.portionMoved, hp, h]
    simp
  have hseq : w.seqNow = w.statusSeq := if_neg (by simp [hmoved])
  have hwritten : w.writtenNow = w.written := if_neg (by simp [hmoved])
  exact congrArg₂ w.portionWith hseq hwritten

/-- A portion says nothing of the page write that shows it but its STATUS_SEQ and postmark. -/
theorem State.portionWith_written (s : State) (seq a : W32) (now b : W64) (page : Option Bytes) :
    ({ s with statusSeq := seq, written := now, shown := page } : State).portionWith a b = s.portionWith a b := rfl

theorem State.modulePage_written (s : State) (seq : W32) (now : W64) :
    ({ s with statusSeq := seq, written := now, shown := some (s.portionWith 0 0) } : State).modulePage =
      s.portionWith seq now := by
  rw [State.modulePage_of_shown rfl (s.portionWith_written _ _ _ _ _), State.portionWith_written]

/-- A page is stored into its owner's window, where there is one. -/
def State.pageStored (s : State) (owner : Option Nat) (page : Bytes) : State :=
  match s.pageWindow owner with
  | some a => if s.cacheReady then s.hostStore a page else s
  | none => s

theorem State.pageStored_ready {s : State} {owner : Option Nat} {a : Nat} (page : Bytes) (ha : s.pageWindow owner = some a)
    (hready : s.cacheReady = true) : s.pageStored owner page = s.hostStore a page := by
  rw [State.pageStored, ha]
  exact if_pos hready

section
variable {s : State} {a : Nat} (hreset : s.resets.inReset = none) (hfw : s.fw.state = .running)
  (hpower : s.power.power = .ps0 ∨ s.power.power = .ps1 ∨ s.power.power = .ps2) (hready : s.cacheReady = true)
include hreset hfw hpower hready

theorem exec_statusPageWrite_module (ha : s.pageWindow none = some a) :
    exec (.statusPageWrite 0) s =
      .next (({ s with statusSeq := s.seqNow + 2, written := s.time.now, shown := some (s.portionWith 0 0) }
        : State).hostStore a (s.portionWith (s.seqNow + 2) s.time.now)) := by
  rw [exec_statusPageWrite, execStatusPageWrite, if_pos ⟨by simp [hreset], hfw, hpower⟩, if_pos rfl]
  let w : State := { s with statusSeq := s.seqNow + 2, written := s.time.now, shown := some (s.portionWith 0 0) }
  have hpage : s.writeModulePage = w.pageStored none w.modulePage := rfl
  rw [hpage, State.pageStored_ready (s := w) _ ha hready, s.modulePage_written]

theorem exec_statusPageWrite_session {i : Nat} (hopen : (s.session i).isOpen = true) (ha : s.pageWindow (some i) = some a) :
    exec (.statusPageWrite (i + 1)) s = .next ((s.setSession i { s.session i with
      statusSeq := (s.session i).statusSeq + 1, statusEnv := s.statusEnvelope i }).hostStore a (s.statusEnvelope i)) := by
  rw [exec_statusPageWrite, execStatusPageWrite, if_pos ⟨by simp [hreset], hfw, hpower⟩, if_neg (by omega),
    Nat.add_sub_cancel]
  exact congrArg _ ((if_pos hopen).trans (State.pageStored_ready _ ha hready))

end

/-- Settles O25: a write by its offset and its mailbox's state, the SUBMIT that waits or is answered, and the page of each
write. -/
theorem registerWindowsAct : Obligations.RegisterWindowsAct := by
  unfold Obligations.RegisterWindowsAct
  refine ⟨fun s fn n off v st hbarred hn hs h4 => ?writes, fun s fn st hbarred hfn => ?now,
    fun s a hreset hfw hpower hready => ?pages⟩
  case writes =>
    intro m u
    have hfree : m.state = .idle ∨ m.state = .done → ¬ (m.state = .submitted ∨ m.state = .serving) := by
      rintro (h | h) <;> rw [h] <;> decide
    refine ⟨fun hidle => ⟨?_, fun hlo hhi => ?_, fun hv hmin hmax hknown => ?_, fun hv hlen => ?_⟩, fun hbusy hoff => ?_, ?_,
      exec_registerWrite_ignored hbarred, fun hf hv hc => ?_, exec_registerWrite_beyond⟩
    · rw [exec_registerWrite_mailbox hbarred hn hs (by omega) rfl, State.mbWrite_length (s := s.say .ok) (hfree hidle)]
      rfl
    · rw [exec_registerWrite_mailbox hbarred hn hs hhi h4, State.mbWrite_buffer (s := s.say .ok) (hfree hidle) hlo]
      rfl
    · rw [exec_registerWrite_mailbox hbarred hn hs (by omega) rfl, State.mbWrite_submit (s := s.say .ok) (hfree hidle) hv]
      obtain ⟨hframe, hm, hothers, hpower, hwaking⟩ := State.submit_takes (s := u) hn hidle hmin hmax hknown
      exact ⟨_, rfl, hframe, hm, hothers, hpower, hwaking⟩
    · rw [exec_registerWrite_mailbox hbarred hn hs (by omega) rfl, State.mbWrite_submit (s := s.say .ok) (hfree hidle) hv]
      obtain ⟨hothers, hm⟩ := State.submit_refuses (s := u) hn hlen
      exact ⟨_, rfl, fun k _ hk => hothers k hk, hm⟩
    · rw [exec_registerWrite_mailbox hbarred hn hs (by omega) (by omega), State.mbWrite_busy (s := s.say .ok) hbusy (by omega)]
      rfl
    · rw [show 0x2000 * n = 0x2000 * n + 0 from rfl, exec_registerWrite_mailbox hbarred hn hs (by omega) rfl,
        State.mbWrite_control]
      rfl
    · subst hf
      exact exec_registerWrite_commit hbarred hv hc
  case now =>
    exact ⟨_, exec_nowLoRead_latches hbarred, rfl, rfl, vget_vset_same _ _ _ hfn,
      fun k _ hk => vget_vset_other _ _ _ (Ne.symm hk)⟩
  case pages =>
    exact ⟨exec_statusPageWrite_module hreset hfw hpower hready,
      fun i => exec_statusPageWrite_session hreset hfw hpower hready⟩

end Sys2Proof.Machine
end

section
/-! PROOFS. O59. The canonical form of a channel's tables, and what each change to a channel keeps of it. -/

namespace Sys2Proof.Machine

/-! ### Tables -/

/-- What stays of a canonical table when entries are taken out. -/
theorem Table.risingFrom_filter {α : Type} (f : Nat × α → Bool) {t : Table α} {lo : Nat}
    (h : Table.risingFrom lo t = true) : Table.risingFrom lo (t.filter f) = true := by
  induction t generalizing lo with
  | nil => rfl
  | cons e t ih =>
    obtain ⟨k, v⟩ := e
    simp only [Table.risingFrom, Bool.and_eq_true, decide_eq_true_eq] at h
    rw [List.filter_cons]
    split
    · simp only [Table.risingFrom, Bool.and_eq_true, decide_eq_true_eq]
      exact ⟨h.1, ih h.2⟩
    · exact Table.risingFrom_mono (ih h.2) (by omega)

theorem Table.wf_filter {α : Type} [DecidableEq α] {d : α} (f : Nat × α → Bool) {t : Table α} (h : Table.wf d t = true) :
    Table.wf d (t.filter f) = true := by
  simp only [Table.wf, Bool.and_eq_true, List.all_eq_true] at *
  exact ⟨Table.risingFrom_filter f h.1, fun e he => h.2 e (List.mem_filter.1 he).1⟩

/-- A property that the default and every entry have is one of every value read. -/
theorem Table.get_of_all {α : Type} {P : α → Prop} {d : α} {t : Table α} (hd : P d) (h : ∀ e ∈ t, P e.2) (k : Nat) :
    P (Table.get d t k) := by
  induction t with
  | nil => exact hd
  | cons e t ih =>
    obtain ⟨a, v⟩ := e
    rw [Table.get]
    split
    · exact h (a, v) (by simp)
    · exact ih fun e he => h e (by simp [he])

theorem rawStore_wf {m : Table (Option Byte)} (h : Table.wf none m = true) (a : Nat) (b : Bytes) :
    Table.wf none (rawStore m a b) = true := by
  induction b generalizing m a with
  | nil => exact h
  | cons x b ih => exact ih (Table.set_wf h a (some x)) (a + 1)

/-- What is marked in a canonical table with a value that is not the default stays canonical. -/
theorem Table.risingFrom_mark {α : Type} (p : Nat → Bool) (x : α) {t : Table α} {lo : Nat} (h : Table.risingFrom lo t = true) :
    Table.risingFrom lo (t.map fun e => if p e.1 then (e.1, x) else e) = true := by
  induction t generalizing lo with
  | nil => rfl
  | cons e t ih =>
    obtain ⟨k, v⟩ := e
    simp only [Table.risingFrom, Bool.and_eq_true, decide_eq_true_eq] at h
    rw [List.map_cons]
    split <;>
    · simp only [Table.risingFrom, Bool.and_eq_true, decide_eq_true_eq]
      exact ⟨h.1, ih h.2⟩

theorem Table.wf_mark {α : Type} [DecidableEq α] {d : α} (p : Nat → Bool) {x : α} (hx : x ≠ d) {t : Table α}
    (h : Table.wf d t = true) : Table.wf d (t.map fun e => if p e.1 then (e.1, x) else e) = true := by
  simp only [Table.wf, Bool.and_eq_true, List.all_eq_true] at *
  refine ⟨Table.risingFrom_mark p x h.1, fun e he => ?_⟩
  obtain ⟨a, ha, rfl⟩ := List.mem_map.1 he
  split
  · simpa using hx
  · exact h.2 a ha

/-! ### Channels -/

/-- The canonical form of each table of a channel. -/
structure Channel.Canonical (ch : Channel) : Prop where
  data : Memory.wf ch.data = true
  counters : Table.wf ⟨0, []⟩ ch.counters = true
  minors : ∀ e ∈ ch.counters, Table.wf 0 e.2.minors = true
  versions : Table.wf 0 ch.versions = true
  cache : Table.wf none ch.cache = true
  stored : Table.wf none ch.stored = true
  lines : Table.wf .good ch.lines = true
  tagLines : Table.wf .good ch.tagLines = true
  groups : Table.wf .good ch.groups = true
  nodes : Table.wf .good ch.nodes = true

theorem Channel.wf_iff (ch : Channel) : ch.wf = true ↔ ch.Canonical := by
  simp only [Channel.wf, Bool.and_eq_true, List.all_eq_true]
  constructor
  · rintro ⟨⟨⟨⟨⟨⟨⟨⟨⟨h1, h2⟩, h3⟩, h4⟩, h5⟩, h6⟩, h7⟩, h8⟩, h9⟩, h10⟩
    exact ⟨h1, h2, h3, h4, h5, h6, h7, h8, h9, h10⟩
  · rintro ⟨h1, h2, h3, h4, h5, h6, h7, h8, h9, h10⟩
    exact ⟨⟨⟨⟨⟨⟨⟨⟨⟨h1, h2⟩, h3⟩, h4⟩, h5⟩, h6⟩, h7⟩, h8⟩, h9⟩, h10⟩

@[simp] theorem Channel.reset_wf : Channel.reset.wf = true := rfl

/-- The minor counters of a page of a canonical channel are a canonical table. -/
theorem Channel.Canonical.page {ch : Channel} (h : ch.Canonical) (p : Nat) : Table.wf 0 (ch.page p).minors = true :=
  Table.get_of_all (P := fun c : Counters => Table.wf 0 c.minors = true) (Table.wf_nil 0) h.minors p

section
variable {ch : Channel} (h : ch.Canonical)
include h

theorem Channel.Canonical.setData {m : Memory} (hm : Memory.wf m = true) : ({ ch with data := m } : Channel).Canonical :=
  ⟨hm, h.counters, h.minors, h.versions, h.cache, h.stored, h.lines, h.tagLines, h.groups, h.nodes⟩

theorem Channel.Canonical.setPage (p : Nat) {c : Counters} (hc : Table.wf 0 c.minors = true) : (ch.setPage p c).Canonical := by
  refine ⟨h.data, Table.set_wf h.counters p c, fun e he => ?_, h.versions, h.cache, h.stored, h.lines, h.tagLines, h.groups, h.nodes⟩
  rcases Table.mem_set he with he | rfl
  · exact h.minors e he
  · exact hc

theorem Channel.Canonical.setVersion (k : Nat) (v : BitVec 56) :
    ({ ch with versions := Table.set 0 ch.versions k v } : Channel).Canonical :=
  ⟨h.data, h.counters, h.minors, Table.set_wf h.versions k v, h.cache, h.stored, h.lines, h.tagLines, h.groups, h.nodes⟩

theorem Channel.Canonical.cached (q : Item) (c : Option Bool) : (ch.cached q c).Canonical :=
  ⟨h.data, h.counters, h.minors, h.versions, Table.set_wf h.cache q.key c, h.stored, h.lines, h.tagLines, h.groups, h.nodes⟩

theorem Channel.Canonical.setStored {t : Table (Option Byte)} (ht : Table.wf none t = true) :
    ({ ch with stored := t } : Channel).Canonical :=
  ⟨h.data, h.counters, h.minors, h.versions, h.cache, ht, h.lines, h.tagLines, h.groups, h.nodes⟩

theorem Channel.Canonical.setLine (k : Nat) (c : LineCond) :
    ({ ch with lines := Table.set .good ch.lines k c } : Channel).Canonical :=
  ⟨h.data, h.counters, h.minors, h.versions, h.cache, h.stored, Table.set_wf h.lines k c, h.tagLines, h.groups, h.nodes⟩

theorem Channel.Canonical.setTagLines {t : Table LineCond} (ht : Table.wf .good t = true) :
    ({ ch with tagLines := t } : Channel).Canonical :=
  ⟨h.data, h.counters, h.minors, h.versions, h.cache, h.stored, h.lines, ht, h.groups, h.nodes⟩

theorem Channel.Canonical.tagGood (t : Nat) : (ch.tagGood t).Canonical := h.setTagLines (Table.set_wf h.tagLines t .good)

theorem Channel.Canonical.setGroups {t : Table LineCond} (ht : Table.wf .good t = true) :
    ({ ch with groups := t } : Channel).Canonical :=
  ⟨h.data, h.counters, h.minors, h.versions, h.cache, h.stored, h.lines, h.tagLines, ht, h.nodes⟩

theorem Channel.Canonical.setNode (k : Nat) (c : LineCond) :
    ({ ch with nodes := Table.set .good ch.nodes k c } : Channel).Canonical :=
  ⟨h.data, h.counters, h.minors, h.versions, h.cache, h.stored, h.lines, h.tagLines, h.groups, Table.set_wf h.nodes k c⟩

theorem Channel.Canonical.mended (q : Item) : (ch.mended q).Canonical := by
  unfold Channel.mended
  split
  · exact h.setGroups (Table.wf_filter _ h.groups)
  · exact h.setNode _ _

theorem Channel.Canonical.setCondAt (c : LineCond) (f : FarFault) : (ch.setCondAt c f).Canonical := by
  cases f with
  | item q =>
    unfold Channel.setCondAt
    dsimp only
    split
    · exact h.setGroups (Table.set_wf h.groups _ _)
    · exact h.setNode _ _
  | tag t => exact h.setTagLines (Table.set_wf h.tagLines _ _)
  | line l => exact h.setLine _ _

theorem Channel.Canonical.emptied (o : Option (Nat × Nat)) : (ch.emptied o).Canonical :=
  ⟨rfl, rfl, (fun _ he => nomatch he), rfl, rfl, h.stored, Table.wf_filter _ h.lines, Table.wf_filter _ h.tagLines,
    Table.wf_filter _ h.groups, Table.wf_filter _ h.nodes⟩

/-- A fold of changes to a channel each of which keeps the canonical form. -/
theorem Channel.Canonical.foldl {β : Type} {f : Channel → β → Channel} (hf : ∀ ch b, ch.Canonical → (f ch b).Canonical)
    (l : List β) : (l.foldl f ch).Canonical := by
  induction l generalizing ch with
  | nil => exact h
  | cons b l ih => exact ih (hf ch b h)

theorem Channel.Canonical.spoil (l : List Nat) : (ch.spoil l).Canonical := by
  unfold Channel.spoil
  generalize zeros 64 = z
  refine h.foldl (fun u k hu => ?_) l
  exact (hu.setData (memStore_wf hu.data (64 * k) z)).setLine k .poisoned

theorem Channel.Canonical.stores (line : Nat) : (ch.stores line).Canonical := by
  unfold Channel.stores
  exact ((h.foldl (fun _ _ h => h.setLine _ _) _).setLine _ _).tagGood _

theorem Channel.Canonical.sweptTo (p : Nat) : (ch.sweptTo p).Canonical :=
  ⟨h.data, h.counters, h.minors, h.versions, h.cache, h.stored, h.lines, h.tagLines, h.groups, h.nodes⟩

end

end Sys2Proof.Machine
end

section
/-! PROOFS. O59. The canonical form of all the memories of a state, and what each change to one memory keeps of it. -/

namespace Sys2Proof.Machine

/-- The canonical form of the module's memories and the host's (`State.memoryWf`), of the parts of a state that hold them. -/
def MemoriesWf (channels : Vector Channel 64) (far : Vector Channel 4) (dies : Vector Die 4) (memory : Memory) : Prop :=
  (∀ c, (vget Channel.reset channels c).Canonical) ∧ (∀ i, (vget Channel.reset far i).Canonical) ∧
    (∀ d, Memory.wf (vget Die.reset dies d).store = true) ∧ Memory.wf memory = true

theorem State.memoryWf_iff (s : State) : s.memoryWf ↔ MemoriesWf s.channels s.far s.dies s.host.memory := by
  unfold State.memoryWf MemoriesWf
  simp only [Channel.wf_iff]
  constructor
  · rintro ⟨h, hd, hm⟩
    exact ⟨fun c => h (.hbm c), fun i => h (.far i), hd, hm⟩
  · rintro ⟨hc, hf, hd, hm⟩
    exact ⟨fun sp => by cases sp with | hbm c => exact hc c | far i => exact hf i, hd, hm⟩

section
variable {s : State} (h : s.memoryWf)
include h

theorem State.memoryWf.chan (sp : Space) : (s.chan sp).Canonical := (Channel.wf_iff _).1 (h.1 sp)

theorem State.memoryWf.store (d : Nat) : Memory.wf (vget Die.reset s.dies d).store = true := h.2.1 d

theorem State.memoryWf.host : Memory.wf s.host.memory = true := h.2.2

end

/-- A part of a state is the state's. -/
@[simp] theorem memoriesWf_self (s : State) : MemoriesWf s.channels s.far s.dies s.host.memory ↔ s.memoryWf := s.memoryWf_iff.symm

/-- A state given by its fields. -/
@[simp] theorem State.mk_memoryWf (a1 a2 host a4 a5 a6 a7 a8 a9 a10 a11 a12 a13 a14 a15 a16 a17 a18 a19 dies channels a22 far a24 a25
    a26 a27 a28 a29 a30) :
    State.memoryWf ⟨a1, a2, host, a4, a5, a6, a7, a8, a9, a10, a11, a12, a13, a14, a15, a16, a17, a18, a19, dies, channels, a22, far,
      a24, a25, a26, a27, a28, a29, a30⟩ ↔ MemoriesWf channels far dies host.memory :=
  State.memoryWf_iff _

theorem vget_all {α : Type} {n : Nat} {P : α → Prop} {d : α} {v : Vector α n} : (∀ i, P (vget d v i)) ↔ P d ∧ ∀ i (h : i < n), P v[i] := by
  constructor
  · intro h
    refine ⟨by simpa [vget] using h n, fun i hi => by simpa [vget, hi] using h i⟩
  · rintro ⟨hd, hv⟩ i
    by_cases hi : i < n
    · simpa [vget, hi] using hv i hi
    · simpa [vget, hi] using hd

theorem vget_vset_all {α : Type} {n : Nat} {P : α → Prop} {d : α} {v : Vector α n} (h : ∀ i, P (vget d v i)) (k : Nat) {a : α}
    (ha : P a) (i : Nat) : P (vget d (vset v k a) i) := by
  rw [vget_vset]
  split
  · exact ha
  · exact h i

section
variable {channels : Vector Channel 64} {far : Vector Channel 4} {dies : Vector Die 4} {memory : Memory}
  (h : MemoriesWf channels far dies memory)
include h

theorem MemoriesWf.setChannel (c : Nat) {ch : Channel} (hc : ch.Canonical) : MemoriesWf (vset channels c ch) far dies memory :=
  ⟨vget_vset_all h.1 c hc, h.2⟩

theorem MemoriesWf.setFar (i : Nat) {ch : Channel} (hc : ch.Canonical) : MemoriesWf channels (vset far i ch) dies memory :=
  ⟨h.1, vget_vset_all h.2.1 i hc, h.2.2⟩

theorem MemoriesWf.setDie (d : Nat) {die : Die} (hd : Memory.wf die.store = true) : MemoriesWf channels far (vset dies d die) memory :=
  ⟨h.1, h.2.1, vget_vset_all (P := fun d : Die => Memory.wf d.store = true) h.2.2.1 d hd, h.2.2.2⟩

theorem MemoriesWf.mapDies {f : Die → Die} (hf : ∀ d, Memory.wf d.store = true → Memory.wf (f d).store = true) :
    MemoriesWf channels far (dies.map f) memory := by
  obtain ⟨hc, hr, hd, hm⟩ := h
  refine ⟨hc, hr, (vget_all (P := fun d : Die => Memory.wf d.store = true)).2 ⟨?_, fun i hi => ?_⟩, hm⟩
  · rfl
  · rw [Vector.getElem_map]
    exact hf _ ((vget_all (P := fun d : Die => Memory.wf d.store = true).1 hd).2 i hi)

theorem MemoriesWf.withDies {ds : Vector Die 4} (hd : ∀ d, Memory.wf (vget Die.reset ds d).store = true) :
    MemoriesWf channels far ds memory :=
  ⟨h.1, h.2.1, hd, h.2.2.2⟩

theorem MemoriesWf.withChannels {cs : Vector Channel 64} (hc : ∀ c, (vget Channel.reset cs c).Canonical) :
    MemoriesWf cs far dies memory :=
  ⟨hc, h.2⟩

theorem MemoriesWf.withMemory {m : Memory} (hm : Memory.wf m = true) : MemoriesWf channels far dies m :=
  ⟨h.1, h.2.1, h.2.2.1, hm⟩

end

/-- A fold of steps each of which keeps the canonical form. -/
theorem State.memoryWf.foldl {β : Type} {f : State → β → State} {s : State} (h : s.memoryWf)
    (hf : ∀ s b, s.memoryWf → (f s b).memoryWf) (l : List β) : (l.foldl f s).memoryWf := by
  induction l generalizing s with
  | nil => exact h
  | cons b l ih => exact ih (hf s b h)

/-- The state of a pair. -/
theorem State.memoryWf.of_fst {α : Type} {p : State × α} {t : State} {a : α} (h : p.1.memoryWf) (e : p = (t, a)) : t.memoryWf := by
  subst e
  exact h

/-- A next state that a command answers has its memories in canonical form. -/
def Out.memoryWf (o : Out) : Prop := ∀ t, o = .next t → t.memoryWf

@[simp] theorem Out.next_memoryWf (t : State) : Out.memoryWf (.next t) ↔ t.memoryWf := by simp [Out.memoryWf]

@[simp] theorem Out.fault_memoryWf (r : Fault) : Out.memoryWf (.fault r) := by simp [Out.memoryWf]

@[simp] theorem Out.refused_memoryWf (r : Refusal) : Out.memoryWf (.refused r) := by simp [Out.memoryWf]

theorem State.setChan_memoryWf {s : State} (h : s.memoryWf) (sp : Space) {ch : Channel} (hc : ch.Canonical) :
    (s.setChan sp ch).memoryWf := by
  rw [State.memoryWf_iff] at h ⊢
  cases sp with
  | hbm c => exact h.setChannel c hc
  | far i => exact h.setFar i hc

/-- A change to a channel that keeps the canonical form. -/
theorem State.onChan_memoryWf {s : State} (h : s.memoryWf) (sp : Space) {f : Channel → Channel}
    (hf : ∀ ch, ch.Canonical → (f ch).Canonical) : (s.onChan sp f).memoryWf :=
  State.setChan_memoryWf h sp (hf _ (h.chan sp))

@[simp] theorem State.setSession_memoryWf (s : State) (i : Nat) (x : Session) : (s.setSession i x).memoryWf ↔ s.memoryWf := Iff.rfl

@[simp] theorem State.onSession_memoryWf (s : State) (i : Nat) (f : Session → Session) :
    (s.onSession i f).memoryWf ↔ s.memoryWf := Iff.rfl

@[simp] theorem State.onMem_memoryWf (s : State) (i : Nat) (f : MemRec → MemRec) : (s.onMem i f).memoryWf ↔ s.memoryWf := Iff.rfl

@[simp] theorem State.ite_memoryWf (c : Prop) [Decidable c] (s t : State) :
    (if c then s else t).memoryWf ↔ if c then s.memoryWf else t.memoryWf := by
  split <;> rfl

@[simp] theorem State.ite_fst_memoryWf {α : Type} (c : Prop) [Decidable c] (p q : State × α) :
    (if c then p else q).1.memoryWf ↔ if c then p.1.memoryWf else q.1.memoryWf := by
  split <;> rfl

/-- A fold of steps none of which changes a memory's form. -/
@[simp] theorem State.foldl_memoryWf {β : Type} {f : State → β → State} (hf : ∀ s b, (f s b).memoryWf ↔ s.memoryWf) (l : List β)
    (s : State) : (l.foldl f s).memoryWf ↔ s.memoryWf := by
  induction l generalizing s with
  | nil => rfl
  | cons b l ih => exact (ih (f s b)).trans (hf s b)

end Sys2Proof.Machine
end

section
/-! PROOFS. O59. What the memory protection engine keeps of the memories' form. -/

namespace Sys2Proof.Machine

/-! ### Counters -/

section
variable (s : State) (i : Nat)

@[simp] theorem State.sample_memoryWf (key event : Nat) : (s.sample i key event).memoryWf ↔ s.memoryWf := Iff.rfl

@[simp] theorem State.bump_memoryWf (key n runs : Nat) : (s.bump i key n runs).memoryWf ↔ s.memoryWf := by
  obtain ⟨d, p, l, ev, e⟩ := s.bump_cases i key n runs
  rw [e, State.foldl_memoryWf fun s _ => s.sample_memoryWf i key ev]
  simp

@[simp] theorem State.perfRuns_memoryWf (unit ev n runs : Nat) : (s.perfRuns i unit ev n runs).memoryWf ↔ s.memoryWf := by
  unfold State.perfRuns
  split <;> simp

@[simp] theorem State.perfEvent_memoryWf (unit ev n : Nat) : (s.perfEvent i unit ev n).memoryWf ↔ s.memoryWf :=
  s.perfRuns_memoryWf i unit ev n n

@[simp] theorem State.memEvent_memoryWf (sp : Space) (hbm far n : Nat) : (s.memEvent i sp hbm far n).memoryWf ↔ s.memoryWf := by
  unfold State.memEvent
  split <;> split <;> simp

@[simp] theorem State.touch_memoryWf (sp : Space) (lines : List Nat) : (s.touch sp lines).memoryWf ↔ s.memoryWf := by
  unfold State.touch
  split <;> simp

@[simp] theorem State.touchData_memoryWf (sp : Space) (lines : List Nat) : (s.touchData sp lines).memoryWf ↔ s.memoryWf :=
  s.touch_memoryWf sp _

@[simp] theorem State.violation_memoryWf (sp : Space) (a kind level owner : Nat) :
    (s.violation i sp a kind level owner).memoryWf ↔ s.memoryWf := Iff.rfl

end

section
variable {s : State} (h : s.memoryWf)
include h

/-! ### Stored bits -/

theorem State.dump_wf (sp : Space) : Table.wf none (s.dump sp) = true := by
  unfold State.dump
  extract_lets lines
  have hs := (h.chan sp).stored
  generalize (s.chan sp).stored = m at hs
  induction lines generalizing m with
  | nil => exact hs
  | cons l lines ih =>
    rw [List.foldl_cons]
    apply ih
    split
    · exact rawStore_wf (rawStore_wf hs _ _) _ _
    · exact hs

@[simp] theorem State.keepStored_memoryWf (i : Nat) : (s.keepStored i).memoryWf := by
  unfold State.keepStored
  rw [State.mk_memoryWf]
  refine ((memoriesWf_self s).2 h).withChannels ?_ |>.setFar i ((h.chan (.far i)).setStored (State.dump_wf h (.far i)))
  refine vget_all.2 ⟨(Channel.wf_iff _).1 Channel.reset_wf, fun c hc => ?_⟩
  rw [Vector.getElem_ofFn]
  dsimp only
  split
  · exact (h.chan (.hbm c)).setStored (State.dump_wf h (.hbm c))
  · exact h.chan (.hbm c)

@[simp] theorem State.loseHbm_memoryWf : s.loseHbm.memoryWf := by
  unfold State.loseHbm
  rw [State.mk_memoryWf]
  refine ((memoriesWf_self s).2 h).withChannels fun c => ?_
  by_cases hc : c < 64
  · rw [vget_replicate _ _ hc]; exact (Channel.wf_iff _).1 Channel.reset_wf
  · rw [vget_beyond _ _ (by omega)]; exact (Channel.wf_iff _).1 Channel.reset_wf

/-! ### Metadata -/

theorem State.cached_memoryWf (sp : Space) (q : Item) (c : Option Bool) : (s.onChan sp fun ch => ch.cached q c).memoryWf :=
  State.onChan_memoryWf h sp fun _ hc => hc.cached q c

/-- An item is noted as faulty. -/
theorem State.failed_memoryWf (sp : Space) (e : Nat × LineCond) :
    (s.onChan sp fun ch => { ch with failed := ch.failed ++ [e] }).memoryWf :=
  State.onChan_memoryWf h sp fun _ hc => ⟨hc.data, hc.counters, hc.minors, hc.versions, hc.cache, hc.stored, hc.lines, hc.tagLines,
    hc.groups, hc.nodes⟩

@[simp] theorem State.fetchItem_memoryWf (i : Nat) (sp : Space) (q : Item) : (s.fetchItem i sp q).1.memoryWf := by
  unfold State.fetchItem
  extract_lets ch corr t
  have ht : t.memoryWf := by simpa [t] using h
  clear_value t
  split
  · exact State.cached_memoryWf h sp q _
  · split
    · exact State.failed_memoryWf ht sp _
    · split
      · rw [State.violation_memoryWf]
        exact State.failed_memoryWf ht sp _
      · exact State.cached_memoryWf ht sp q _

omit h in
@[simp] theorem State.fetchAll_memoryWf (i : Nat) (sp : Space) (l : List Item) {s : State} (h : s.memoryWf) :
    (s.fetchAll i sp l).1.memoryWf := by
  induction l generalizing s with
  | nil => exact h
  | cons q l ih =>
    unfold State.fetchAll
    dsimp only
    split
    · exact ih (State.fetchItem_memoryWf h i sp q)
    · exact State.fetchItem_memoryWf h i sp q

@[simp] theorem State.reach_memoryWf (i : Nat) (sp : Space) (path : List Item) : (s.reach i sp path).1.memoryWf := by
  unfold State.reach
  split
  · exact h
  · exact State.fetchAll_memoryWf i sp _ h

@[simp] theorem State.storeItem_memoryWf (i : Nat) (sp : Space) (q : Item) : (s.storeItem i sp q).memoryWf := by
  unfold State.storeItem
  dsimp only
  rw [State.touch_memoryWf]
  exact State.onChan_memoryWf h sp fun _ hc => (hc.mended q).setStored (rawStore_wf hc.stored _ _)

@[simp] theorem State.plainVersion_memoryWf (i : Nat) (sp : Space) (q : Item) : (s.plainVersion i sp q).1.memoryWf := by
  unfold State.plainVersion
  dsimp only
  split
  · exact h
  · exact State.onChan_memoryWf h sp fun _ hc => hc.setVersion _ _

/-! ### Lines -/

@[simp] theorem State.checkLine_memoryWf (i : Nat) (sp : Space) (line kind : Nat) : (s.checkLine i sp line kind).1.memoryWf := by
  unfold State.checkLine
  dsimp only
  split
  · simp [h]
  · split <;> simp [h]

@[simp] theorem State.renewLine_memoryWf (i : Nat) (sp : Space) (line : Nat) : (s.renewLine i sp line).memoryWf := by
  unfold State.renewLine
  dsimp only
  refine State.onChan_memoryWf ?_ sp fun ch hc => ?_
  · split
    · exact State.onChan_memoryWf (by simp [h]) sp fun _ hc => (hc.spoil _).tagGood _
    · simp [h]
  · split
    · exact hc
    · exact hc.setLine _ _

@[simp] theorem State.renewPage_memoryWf (i : Nat) (sp : Space) (p : Nat) : (s.renewPage i sp p).memoryWf := by
  unfold State.renewPage
  dsimp only
  rw [State.touchData_memoryWf]
  refine State.onChan_memoryWf ?_ sp fun _ hc => hc.setTagLines (Table.wf_filter _ hc.tagLines)
  exact (State.memEvent_memoryWf _ i sp _ _ _).2 (h.foldl (fun s _ h => State.renewLine_memoryWf h i sp _) _)

end

/-! ### Room in the metadata cache -/

section
variable {next : State → Nat → Space → Item → State × Bool} (hn : ∀ s i sp q, s.memoryWf → (next s i sp q).1.memoryWf)
include hn

theorem State.evictBy_memoryWf {s : State} (h : s.memoryWf) (i : Nat) (sp : Space) (q : Item) :
    (State.evictBy next s i sp q).memoryWf := by
  unfold State.evictBy
  split
  · exact h
  · exact State.cached_memoryWf h sp q _
  · dsimp only
    have hr := State.reach_memoryWf h i sp (s.path sp q).dropLast
    split
    · exact State.cached_memoryWf hr sp q _
    · have hx := hn _ i sp q hr
      split
      · have hc := State.cached_memoryWf (State.storeItem_memoryWf hx i sp q) sp q none
        split
        · exact State.cached_memoryWf hc sp _ _
        · exact hc
      · exact hx

theorem State.makeRoomFor_memoryWf (i : Nat) (sp : Space) (o n fuel k : Nat) {s : State} (h : s.memoryWf) :
    (State.makeRoomFor next i sp o n fuel k s).memoryWf := by
  induction fuel generalizing k s with
  | zero => exact h
  | succ fuel ih =>
    unfold State.makeRoomFor
    dsimp only
    split
    · split
      · exact ih _ (State.evictBy_memoryWf hn h i _ _)
      · exact h
    · exact h

theorem State.makeRoom_memoryWf {s : State} (h : s.memoryWf) (i : Nat) (sp : Space) (o : Nat) :
    (State.makeRoom next s i sp o).memoryWf :=
  State.makeRoomFor_memoryWf hn i sp o _ _ _ (by simpa using h)

end

/-! ### Sweeps, key epochs and walks -/

theorem State.sweptTo_memoryWf {s : State} (h : s.memoryWf) (sp : Space) (p : Nat) :
    (s.onChan sp fun ch => ch.sweptTo p).memoryWf :=
  State.onChan_memoryWf h sp fun _ hc => hc.sweptTo p

section
variable {s : State} (h : s.memoryWf)
include h

@[simp] theorem State.renewNodes_memoryWf (i : Nat) (sp : Space) (old : Channel) : (s.renewNodes i sp old).memoryWf :=
  h.foldl (fun _ q h => State.storeItem_memoryWf h i sp q) _

theorem State.sweepGroup_memoryWf (i : Nat) (sp : Space) (g : Nat) {mark : Channel → Channel}
    (hm : ∀ ch : Channel, ch.Canonical → (mark ch).Canonical) : (s.sweepGroup i sp g mark).memoryWf := by
  unfold State.sweepGroup
  extract_lets old
  have hr : ∀ path, ((State.makeRoom State.plainVersion s i sp ((s.session i).itemOwner sp (0, g))).reach i sp path).1.memoryWf :=
    fun path => State.reach_memoryWf (State.makeRoom_memoryWf (fun s i sp q h => State.plainVersion_memoryWf h i sp q) h i sp _) i sp path
  have hr := hr (s.path sp (0, g))
  generalize (State.makeRoom State.plainVersion s i sp ((s.session i).itemOwner sp (0, g))).reach i sp (s.path sp (0, g)) = r at hr
  obtain ⟨t, st⟩ := r
  dsimp -zeta only at hr ⊢
  extract_lets pages u v w x y
  have hu : u.memoryWf := by
    unfold u
    split
    · exact hr.foldl (fun _ p h => State.renewPage_memoryWf h i sp p) _
    · exact hr
  have hv : v.memoryWf := State.onChan_memoryWf hu sp hm
  have hw : w.memoryWf := by
    unfold w
    split
    · exact State.onChan_memoryWf hv sp fun _ hc => (hc.setVersion _ _).cached _ _
    · exact hv
  have hx : x.memoryWf := State.cached_memoryWf (State.storeItem_memoryWf hw i sp (0, g)) sp (0, g) _
  apply State.renewNodes_memoryWf
  unfold y
  split
  · exact hv
  · split
    · exact hx
    · exact State.storeItem_memoryWf hx i sp _

@[simp] theorem State.sweepUpTo_memoryWf (i : Nat) (sp : Space) (e : Nat) : (s.sweepUpTo i sp e).memoryWf := by
  unfold State.sweepUpTo
  split
  · apply State.renewNodes_memoryWf
    refine State.sweptTo_memoryWf (h.foldl (fun _ g h => ?_) _) sp _
    exact State.sweepGroup_memoryWf h i sp g fun _ hc => hc.sweptTo _
  · exact h

@[simp] theorem State.endSweep_memoryWf (i : Nat) (sp : Space) : (s.endSweep i sp).memoryWf := by
  unfold State.endSweep
  extract_lets t
  have ht : t.memoryWf := by
    unfold t
    split
    · split
      · exact State.onChan_memoryWf h sp fun _ hc => ⟨hc.data, hc.counters, hc.minors, hc.versions, hc.cache, hc.stored,
          hc.lines, hc.tagLines, hc.groups, hc.nodes⟩
      · exact h
    · exact h
  split
  · exact ht
  · exact ht

@[simp] theorem State.finishSweep_memoryWf (i : Nat) : (s.finishSweep i).memoryWf :=
  h.foldl (fun _ sp h => State.endSweep_memoryWf (State.sweepUpTo_memoryWf h i sp _) i sp) _

@[simp] theorem State.rollEpoch_memoryWf (i : Nat) : (s.rollEpoch i).1.memoryWf := by
  unfold State.rollEpoch
  split
  · exact h
  · refine State.memoryWf.foldl ((State.onMem_memoryWf _ i _).2 ?_) (fun _ sp h => ?_) _
    · split
      · exact State.finishSweep_memoryWf h i
      · exact h
    · exact State.onChan_memoryWf h sp fun _ hc => ⟨hc.data, hc.counters, hc.minors, hc.versions, hc.cache, hc.stored,
        hc.lines, hc.tagLines, hc.groups, hc.nodes⟩

@[simp] theorem State.nextVersion_memoryWf (i : Nat) (sp : Space) (q : Item) : (s.nextVersion i sp q).1.memoryWf := by
  unfold State.nextVersion
  dsimp only
  split_ifs
  · exact State.onChan_memoryWf (by simp [h]) sp fun _ hc => hc.setVersion _ _
  · simp [h]
  · simp [h]

@[simp] theorem State.evict_memoryWf (i : Nat) (sp : Space) (q : Item) : (s.evict i sp q).memoryWf :=
  State.evictBy_memoryWf (fun _ i sp q h => State.nextVersion_memoryWf h i sp q) h i sp q

@[simp] theorem State.walk_memoryWf (i : Nat) (sp : Space) (line : Nat) : (s.walk i sp line).1.memoryWf :=
  State.reach_memoryWf (State.makeRoom_memoryWf (fun _ i sp q h => State.nextVersion_memoryWf h i sp q) h i sp _) i sp _

@[simp] theorem State.flush_memoryWf (i : Nat) (sp : Space) : (s.flush i sp).memoryWf :=
  h.foldl (fun _ _ h => h.foldl (fun _ q h => State.evict_memoryWf h i sp q) _) _

/-! ### Reading and writing a line -/

@[simp] theorem State.refrank_memoryWf (i : Nat) (sp : Space) (p : Nat) : (s.refrank i sp p).1.memoryWf := by
  unfold State.refrank
  extract_lets c q r lines fresh t u
  have hr : r.1.memoryWf := by
    unfold r q
    split_ifs <;> simp [h]
  clear_value r
  have ht : t.memoryWf := by
    unfold t
    generalize zeros 64 = z
    exact State.onChan_memoryWf hr sp fun _ hc => hc.foldl (fun _ l hc => (hc.setData (memStore_wf hc.data (64 * l) z)).setLine l .good) _
  split
  · rw [State.onMem_memoryWf, State.touchData_memoryWf]
    exact State.onChan_memoryWf (by simp [ht]) sp fun _ hc => (hc.setTagLines (Table.wf_filter _ hc.tagLines)).setPage p (Table.wf_nil 0)
  · exact hr

@[simp] theorem State.sweepAhead_memoryWf (i : Nat) (sp : Space) (g : Nat) : (s.sweepAhead i sp g).memoryWf := by
  unfold State.sweepAhead
  split
  · split
    · exact State.sweepGroup_memoryWf h i sp g fun _ hc => ⟨hc.data, hc.counters, hc.minors, hc.versions, hc.cache, hc.stored,
        hc.lines, hc.tagLines, hc.groups, hc.nodes⟩
    · exact h
  · exact h

theorem State.countUp_memoryWf (sp : Space) (line : Nat) : (s.onChan sp fun ch =>
    let c := ch.page (line / 64)
    (ch.setPage (line / 64) { c with minors := Table.set 0 c.minors (line % 64) (Table.get 0 c.minors (line % 64) + 1) }).cached
      (groupItem line) (some true)).memoryWf :=
  State.onChan_memoryWf h sp fun _ hc => (hc.setPage _ (Table.set_wf (hc.page _) _ _)).cached _ _

@[simp] theorem State.advance_memoryWf (i : Nat) (sp : Space) (line : Nat) : (s.advance i sp line).1.memoryWf := by
  have ha := State.sweepAhead_memoryWf h i sp (line / 64 / 8)
  unfold State.advance
  extract_lets p t
  split
  rename_i u good he
  have hu : u.memoryWf := by
    split at he
    · cases he; exact ha
    · split at he
      · have hr := State.refrank_memoryWf ((State.memEvent_memoryWf t i sp 0x053 0 1).2 ha) i sp p
        rw [he] at hr
        exact hr
      · cases he; exact ha
  split
  · exact State.countUp_memoryWf hu sp line
  · exact hu

@[simp] theorem State.poison_memoryWf (i : Nat) (sp : Space) (line : Nat) : (s.poison i sp line).memoryWf := by
  unfold State.poison
  extract_lets lines t r
  have hf : ∀ (l : List Nat) (r : State × Bool), r.1.memoryWf →
      (l.foldl (fun (r : State × Bool) l => if r.2 then r.1.advance i sp l else r) r).1.memoryWf := by
    intro l
    induction l with
    | nil => exact fun _ hr => hr
    | cons a l ih =>
      intro r hr
      rw [List.foldl_cons]
      apply ih
      split
      · exact State.advance_memoryWf hr i sp a
      · exact hr
  have hr : r.1.memoryWf := hf lines (t, true) (State.onChan_memoryWf h sp fun _ hc => (hc.spoil _).tagGood _)
  clear_value r
  split
  · simp [hr]
  · have hs := h.chan sp
    exact State.onChan_memoryWf hr sp fun _ hc => ⟨hs.data, hc.counters, hc.minors, hc.versions, hc.cache, hc.stored,
      hs.lines, hs.tagLines, hc.groups, hc.nodes⟩

@[simp] theorem State.readLine_memoryWf (i : Nat) (sp : Space) (line : Nat) (part : Bool) : (s.readLine i sp line part).1.memoryWf := by
  have hw := State.walk_memoryWf h i sp line
  unfold State.readLine
  extract_lets w r
  have hc : r.1.memoryWf := State.checkLine_memoryWf hw i sp line _
  clear_value r
  split
  · exact hw
  · split
    · exact hw
    · split
      · exact hc
      · split
        · exact hc
        · exact State.poison_memoryWf hc i sp line

@[simp] theorem State.writeLine_memoryWf (i : Nat) (sp : Space) (line off : Nat) (b : Bytes) : (s.writeLine i sp line off b).1.memoryWf := by
  unfold State.writeLine
  split
  · exact h
  · extract_lets w r
    have hr : r.1.memoryWf := by
      unfold r
      split
      · exact State.walk_memoryWf h i sp line
      · exact State.readLine_memoryWf h i sp line true
    clear_value r
    have ha := State.advance_memoryWf hr i sp line
    split
    · exact hr
    · dsimp only
      split
      · refine State.onChan_memoryWf ?_ sp fun _ hc => (hc.stores line).setData (memStore_wf hc.data _ _)
        simpa using ha
      · exact ha

end

end Sys2Proof.Machine
end

section
/-! PROOFS. O59. What the operations shared by the units keep of the memories' form: the launch and the completion of descriptors, the
accesses of a job, and the command cores. -/

namespace Sys2Proof.Machine

@[simp] theorem State.setTally_memoryWf (s : State) (n : Nat) (t : Tally) : (s.setTally n t).memoryWf ↔ s.memoryWf := Iff.rfl

@[simp] theorem State.tallyAdd_memoryWf (s : State) (n : Nat) (v : W32) : (s.tallyAdd n v).memoryWf ↔ s.memoryWf := Iff.rfl

@[simp] theorem State.completeOp_memoryWf (s : State) (i : Nat) (o : Op) (st : Status) :
    (s.completeOp i o st).memoryWf ↔ s.memoryWf :=
  by simp [State.completeOp]

/-- Dies whose stores are others' have their canonical form. -/
theorem MemoriesWf.map_iff {channels : Vector Channel 64} {far : Vector Channel 4} {dies : Vector Die 4} {memory : Memory}
    {f : Die → Die} (hf : ∀ d, (f d).store = d.store) :
    MemoriesWf channels far (dies.map f) memory ↔ MemoriesWf channels far dies memory := by
  unfold MemoriesWf
  rw [vget_all (P := fun d : Die => Memory.wf d.store = true), vget_all (P := fun d : Die => Memory.wf d.store = true)]
  simp only [Vector.getElem_map, hf]

@[simp] theorem State.phDone_memoryWf (s : State) (o : OpRef) : (s.phDone o).memoryWf ↔ s.memoryWf := by
  unfold State.phDone
  rw [State.mk_memoryWf, MemoriesWf.map_iff, memoriesWf_self]
  exact fun _ => rfl

@[simp] theorem State.stopOp_memoryWf (s : State) (i : Nat) (o : Op) (st : Status) : (s.stopOp i o st).memoryWf ↔ s.memoryWf :=
  by simp [State.stopOp]

@[simp] theorem State.finishOp_memoryWf (s : State) (i : Nat) (o : Op) (st : Status) :
    (s.finishOp i o st).memoryWf ↔ s.memoryWf :=
  Iff.rfl

@[simp] theorem State.tick_memoryWf (s : State) : s.tick.memoryWf ↔ s.memoryWf := by simp [State.tick]

@[simp] theorem State.stir_memoryWf (s : State) : s.stir.memoryWf ↔ s.memoryWf := by simp [State.stir]

@[simp] theorem State.draw_memoryWf (s : State) : s.draw.2.memoryWf ↔ s.memoryWf := by simp [State.draw]

@[simp] theorem State.random_memoryWf (s : State) (n : Nat) : (s.random n).2.memoryWf ↔ s.memoryWf := by simp [State.random]

@[simp] theorem Job.meet_st (j : Job) (s : State) (st : Status) : (j.meet s st).st = s := rfl

@[simp] theorem Job.noteStrike_st (j : Job) (struck : Bool) : (j.noteStrike struck).st = j.st := by
  unfold Job.noteStrike
  split <;> rfl

/-- A fold of steps of a job each of which keeps the canonical form. -/
theorem Job.foldl_memoryWf {β : Type} {f : Job → β → Job} {j : Job} (h : j.st.memoryWf)
    (hf : ∀ j b, j.st.memoryWf → (f j b).st.memoryWf) (l : List β) : (l.foldl f j).st.memoryWf := by
  induction l generalizing j with
  | nil => exact h
  | cons b l ih => exact ih (hf j b h)

/-- A fold of steps of a job that gathers values, each of which keeps the canonical form. -/
theorem Job.foldl_fst_memoryWf {β γ : Type} {f : Job × γ → β → Job × γ} (hf : ∀ a b, a.1.st.memoryWf → (f a b).1.st.memoryWf)
    (l : List β) {a : Job × γ} (h : a.1.st.memoryWf) : (l.foldl f a).1.st.memoryWf := by
  induction l generalizing a with
  | nil => exact h
  | cons b l ih => exact ih (hf a b h)

@[simp] theorem Job.readRun_memoryWf {j : Job} (h : j.st.memoryWf) (a len : Nat) : (j.readRun a len).1.st.memoryWf := by
  unfold Job.readRun
  split
  · simp only []
    split
    · exact h
    · rename_i o c cpa _
      generalize ((j.st.session j.sess).struck o || (j.st.session j.sess).struck j.owner) = struck
      split
      · exact h
      · have hk : (j.noteStrike struck).st.memoryWf := by simpa using h
        generalize j.noteStrike struck = k at hk
        have hr := State.readLine_memoryWf hk k.sess (.hbm c) (cpa / 64) false
        generalize k.st.readLine k.sess (.hbm c) (cpa / 64) false = w at hr
        exact hr
  · exact h

@[simp] theorem Job.readHbm_memoryWf {j : Job} (h : j.st.memoryWf) (a len : Nat) : (j.readHbm a len).1.st.memoryWf := by
  unfold Job.readHbm
  exact Job.foldl_fst_memoryWf (fun a q h => by dsimp only; exact Job.readRun_memoryWf h _ _) _ h

@[simp] theorem Job.writeRun_memoryWf {j : Job} (h : j.st.memoryWf) (a : Nat) (b : Bytes) : (j.writeRun a b).st.memoryWf := by
  unfold Job.writeRun
  split
  · simp only []
    split
    · exact h
    · rename_i o c cpa _
      split
      · exact h
      · have hw := State.writeLine_memoryWf h j.sess (.hbm c) (cpa / 64) (cpa % 64) b
        generalize j.st.writeLine j.sess (.hbm c) (cpa / 64) (cpa % 64) b = w at hw
        rw [Job.meet_st]
        split <;> exact hw
  · exact h

@[simp] theorem Job.writeHbm_memoryWf {j : Job} (h : j.st.memoryWf) (a : Nat) (b : Bytes) : (j.writeHbm a b).st.memoryWf :=
  Job.foldl_memoryWf h (fun _ _ h => Job.writeRun_memoryWf h _ _) _

@[simp] theorem Job.readStore_memoryWf (j : Job) (die off len : Nat) : (j.readStore die off len).1.st.memoryWf ↔ j.st.memoryWf := by
  unfold Job.readStore
  dsimp only
  split
  · split
    · rfl
    · simp
  · rfl

@[simp] theorem Job.writeStore_memoryWf {j : Job} (h : j.st.memoryWf) (die off : Nat) (b : Bytes) :
    (j.writeStore die off b).st.memoryWf := by
  unfold Job.writeStore
  extract_lets s d
  have hs : s.memoryWf := by simpa [s] using h
  split
  · split
    · exact h
    · rw [State.mk_memoryWf]
      exact ((memoriesWf_self s).2 hs).setDie die (memStore_wf (hs.store die) _ _)
  · exact h

@[simp] theorem Job.read_memoryWf {j : Job} (h : j.st.memoryWf) (p : Place) (len : Nat) : (j.read p len).1.st.memoryWf := by
  unfold Job.read
  split <;> simp [h]

@[simp] theorem Job.write_memoryWf {j : Job} (h : j.st.memoryWf) (p : Place) (b : Bytes) : (j.write p b).st.memoryWf := by
  unfold Job.write
  split <;> simp [h]

@[simp] theorem Job.writeCodes_memoryWf {j : Job} (h : j.st.memoryWf) (p : Place) (w : Nat) (cs : List Nat) :
    (j.writeCodes p w cs).st.memoryWf := by
  unfold Job.writeCodes
  dsimp only
  repeat' split
  all_goals simp [h]

@[simp] theorem Job.count_memoryWf (j : Job) (srec : Nat) (c : Counts) : (j.count srec c).st.memoryWf ↔ j.st.memoryWf := Iff.rfl

@[simp] theorem Job.intake_memoryWf (j : Job) (c : Counts) : (j.intake c).st.memoryWf ↔ j.st.memoryWf := Iff.rfl

@[simp] theorem State.job_memoryWf (s : State) (i : Nat) (o : Op) (owner : Nat) : (s.job i o owner).st.memoryWf ↔ s.memoryWf :=
  Iff.rfl

@[simp] theorem State.arrayJob_memoryWf (s : State) (i : Nat) (o : Op) (owner : Nat) :
    (s.arrayJob i o owner).st.memoryWf ↔ s.memoryWf :=
  Iff.rfl

@[simp] theorem State.hostStore_memoryWf {s : State} (h : s.memoryWf) (a : Nat) (b : Bytes) : (s.hostStore a b).memoryWf := by
  unfold State.hostStore
  rw [State.mk_memoryWf]
  exact ((memoriesWf_self s).2 h).withMemory (memStore_wf h.host a b)

@[simp] theorem State.takeObjectId_memoryWf (s : State) (i : Nat) (o : Op) : (s.takeObjectId i o).1.memoryWf ↔ s.memoryWf :=
  by simp [State.takeObjectId]

@[simp] theorem State.addSlots_memoryWf (s : State) (q : Nat) (l : List (Nat × Nat)) : (s.addSlots q l).memoryWf ↔ s.memoryWf :=
  Iff.rfl

@[simp] theorem State.wakePiece_memoryWf (s : State) (i : Nat) (o : Op) : (s.wakePiece i o).memoryWf ↔ s.memoryWf :=
  by simp [State.wakePiece]

@[simp] theorem State.launch_memoryWf (s : State) (i : Nat) (o : Op) : (s.launch i o).memoryWf ↔ s.memoryWf :=
  by simp [State.launch]

@[simp] theorem State.startOp_memoryWf {s : State} (h : s.memoryWf) (i c : Nat) (d : Bytes) : (s.startOp i c d).memoryWf := by
  unfold State.startOp
  extract_lets x k slot index o x2 x3 x4 x5 t die q u w v
  have ht : t.memoryWf := h
  have hu : u.memoryWf := by
    unfold u
    split
    · rw [State.mk_memoryWf]
      exact ((memoriesWf_self t).2 ht).setDie die (ht.store die)
    · exact ht
  have hv : v.memoryWf := by simpa [v] using hu
  split
  · exact hv
  · simpa using hv

@[simp] theorem execDescriptorStart_memoryWf {s : State} (h : s.memoryWf) (i : Nat) (c : Nat) :
    Out.memoryWf (execDescriptorStart i c s) := by
  unfold execDescriptorStart
  dsimp only
  repeat' split
  all_goals simp [h]

@[simp] theorem State.failHead_memoryWf (s : State) (o : OpRef) : (s.failHead o).memoryWf ↔ s.memoryWf := by
  unfold State.failHead
  dsimp only
  split <;> simp

@[simp] theorem State.launchHeld_memoryWf (s : State) (x : Session) (d : Bytes) : (s.launchHeld x d).2.memoryWf ↔ s.memoryWf := by
  unfold State.launchHeld
  dsimp only
  split <;> simp

@[simp] theorem execLaunchComparatorFire_memoryWf {s : State} (h : s.memoryWf) (o : OpRef) :
    Out.memoryWf (execLaunchComparatorFire o s) := by
  unfold execLaunchComparatorFire
  split <;> simp [h]

@[simp] theorem execCommandCorePoll_memoryWf {s : State} (h : s.memoryWf) (core : Nat) : Out.memoryWf (execCommandCorePoll core s) := by
  unfold execCommandCorePoll
  simp [h]

@[simp] theorem execNop_memoryWf {s : State} (h : s.memoryWf) (o : OpRef) : Out.memoryWf (execNop o s) := by
  unfold execNop
  split <;> simp [h]

@[simp] theorem execEndList_memoryWf {s : State} (h : s.memoryWf) (o : OpRef) : Out.memoryWf (execEndList o s) := by
  unfold execEndList
  split <;> simp [h]

@[simp] theorem execLink_memoryWf {s : State} (h : s.memoryWf) (o : OpRef) : Out.memoryWf (execLink o s) := by
  unfold execLink
  dsimp only
  repeat' split
  all_goals simp [h]

@[simp] theorem execTallyAdd_memoryWf {s : State} (h : s.memoryWf) (o : OpRef) : Out.memoryWf (execTallyAdd o s) := by
  unfold execTallyAdd
  split <;> simp [h]

@[simp] theorem execTallySet_memoryWf {s : State} (h : s.memoryWf) (o : OpRef) : Out.memoryWf (execTallySet o s) := by
  unfold execTallySet
  split <;> simp [h]

@[simp] theorem execTallyArm_memoryWf {s : State} (h : s.memoryWf) (o : OpRef) : Out.memoryWf (execTallyArm o s) := by
  unfold execTallyArm
  split <;> simp [h]

@[simp] theorem execArmFire_memoryWf {s : State} (h : s.memoryWf) (n : Nat) : Out.memoryWf (execArmFire n s) := by
  unfold execArmFire
  split <;> simp [h]

@[simp] theorem execDescriptorComplete_memoryWf {s : State} (h : s.memoryWf) (o : OpRef) :
    Out.memoryWf (execDescriptorComplete o s) := by
  unfold execDescriptorComplete
  split <;> simp [h]

end Sys2Proof.Machine
end

section
/-! PROOFS. O59. What the Counting Boards, the Pigeonholes and the Sorting Office's arrays keep of the memories' form. -/

namespace Sys2Proof.Machine

@[simp] theorem Job.putRow_memoryWf {j : Job} (h : j.st.memoryWf) (sp : OutSpec) (r : Nat) (c0 : Nat) (codes : List Nat)
    (scales : List Nat) :
    (j.putRow sp r c0 codes scales).st.memoryWf := by
  unfold Job.putRow
  split <;> simp [h]

@[simp] theorem Job.convertRow_memoryWf {j : Job} (h : j.st.memoryWf) (o : Op) (sp : OutSpec) (c0 : Nat)
    (row : Nat × List Acc) :
    (j.convertRow o sp c0 row).st.memoryWf := by
  unfold Job.convertRow
  split <;> simp [h]

@[simp] theorem Job.convertDual_memoryWf {j : Job} (h : j.st.memoryWf) (o : Op) (sp : OutSpec) (c0 : Nat)
    (rows : List (Nat × List Acc)) : (j.convertDual o sp c0 rows).st.memoryWf := by
  unfold Job.convertDual
  extract_lets x f s rnd es n parts qs k df l rowCodes m
  have hk : k.st.memoryWf := by simpa [k] using h
  have hm : m.st.memoryWf := Job.foldl_memoryWf (j := l) hk (fun _ _ h => Job.putRow_memoryWf h _ _ _ _ _) _
  clear_value m
  split
  · exact hm
  · exact Job.write_memoryWf hm _ _

@[simp] theorem Job.convertRows_memoryWf {j : Job} (h : j.st.memoryWf) (o : Op) (sp : OutSpec) (c0 : Nat)
    (rows : List (Nat × List Acc)) : (j.convertRows o sp c0 rows).st.memoryWf := by
  unfold Job.convertRows
  split
  · exact Job.foldl_memoryWf h (fun _ _ h => Job.convertDual_memoryWf h _ _ _ _) _
  · exact Job.foldl_memoryWf h (fun _ _ h => Job.convertRow_memoryWf h _ _ _ _) _

@[simp] theorem Job.readBf16_memoryWf {j : Job} (h : j.st.memoryWf) (p : Place) (n : Nat) : (j.readBf16 p n).1.st.memoryWf :=
  by simp [Job.readBf16, h]

@[simp] theorem Job.colvec_memoryWf {j : Job} (h : j.st.memoryWf) (e : Bytes) (die : Nat) (c0 : Nat) (n : Nat) :
    (j.colvec e die c0 n).1.st.memoryWf := by
  unfold Job.colvec
  dsimp only
  repeat' split
  all_goals simp [h]

@[simp] theorem Job.colvecs_memoryWf {j : Job} (h : j.st.memoryWf) (e : Bytes) (c0 n : Nat) (rows : List Nat) :
    (j.colvecs e c0 n rows).1.st.memoryWf := by
  unfold Job.colvecs
  refine Job.foldl_fst_memoryWf (fun a die ha => ?_) _ h
  dsimp only
  exact Job.colvec_memoryWf ha _ _ _ _

@[simp] theorem Job.rowInputs_memoryWf {j : Job} (h : j.st.memoryWf) (e : Bytes) (cv : List Acc) (side sidePitch r c0 n : Nat) :
    (j.rowInputs e cv side sidePitch r c0 n).1.st.memoryWf := by
  unfold Job.rowInputs
  extract_lets x prog wide
  split
  rename_i k z hk
  have hk : k.st.memoryWf := by
    rw [show k = _ from congrArg Prod.fst hk.symm]
    split
    · exact Job.readBf16_memoryWf h _ _
    · exact h
  split
  rename_i l st hl
  have hl : l.st.memoryWf := by
    rw [show l = _ from congrArg Prod.fst hl.symm]
    split
    · dsimp only
      exact (Job.intake_memoryWf _ _).2 (Job.read_memoryWf hk _ _)
    · split
      · dsimp only
        exact (Job.intake_memoryWf _ _).2 (Job.read_memoryWf hk _ _)
      · exact hk
  dsimp only
  split
  · exact Job.read_memoryWf hl _ _
  · exact hl

@[simp] theorem Job.addColred_memoryWf {j : Job} (h : j.st.memoryWf) (e : Bytes) (rows : List (List (Acc × Acc))) :
    (j.addColred e rows).st.memoryWf := by
  unfold Job.addColred
  exact Job.foldl_memoryWf h (fun k _ hk => Job.write_memoryWf ((Job.intake_memoryWf _ _).2 (Job.read_memoryWf hk _ _)) _ _) _

@[simp] theorem Job.sideOut_memoryWf {j : Job} (h : j.st.memoryWf) (p : Place) (row : List Acc) :
    (j.sideOut p row).st.memoryWf :=
  by simp [Job.sideOut, h]

@[simp] theorem Job.runRows_memoryWf {j : Job} (h : j.st.memoryWf) (o : Op) (e : Bytes) (sd : SideSpec) (sp : OutSpec) (c0 : Nat)
    (rows : List (Nat × List Acc)) : (j.runRows o e sd sp c0 rows).st.memoryWf := by
  have hrow : ∀ (k : Job) (cv : List Acc) (row : Nat × List Acc) (ro : RowOut) (p q : Place) (side : List Acc),
      k.st.memoryWf → (match ro.stat with
        | some (a, b) => (if progSideOut (kProg e) ∧ addrClass sd.outAddr ≠ 2 then k.sideOut p side else k).write q
            (w32 a.value ++ w32 b.value)
        | none => if progSideOut (kProg e) ∧ addrClass sd.outAddr ≠ 2 then k.sideOut p side else k).st.memoryWf := by
    intro k cv row ro p q side hk
    have hs : (if progSideOut (kProg e) ∧ addrClass sd.outAddr ≠ 2 then k.sideOut p side else k).st.memoryWf := by
      split
      · exact Job.sideOut_memoryWf hk _ _
      · exact hk
    split
    · exact Job.write_memoryWf hs _ _
    · exact hs
  unfold Job.runRows
  have hv := Job.colvecs_memoryWf h e c0 ((rows.head?.map fun r => r.2.length).getD 0) (rows.map (·.1))
  generalize j.colvecs e c0 ((rows.head?.map fun r => r.2.length).getD 0) (rows.map (·.1)) = v at hv
  dsimp only
  generalize hg : rows.foldl _ (v.1, []) = g
  have hg : g.1.st.memoryWf := by
    rw [← hg]
    refine Job.foldl_fst_memoryWf (fun a row ha => ?_) _ hv
    have hi := fun cv => Job.rowInputs_memoryWf ha e cv sd.inAddr sd.inPitch row.1 c0 row.2.length
    exact hrow _ [] row _ _ _ _ (hi _)
  have hc := fun w l => Job.convertRows_memoryWf hg o sp w l
  split
  · exact Job.foldl_memoryWf (hc _ _) (fun _ _ h => Job.addColred_memoryWf h _ _) _
  · exact hc _ _

@[simp] theorem State.useBoards_memoryWf {s : State} (h : s.memoryWf) (i party : Nat) : (s.useBoards i party).memoryWf := by
  unfold State.useBoards
  refine State.memoryWf.foldl (by split <;> simpa using h) (fun t q ht => ?_) _
  rw [State.mk_memoryWf]
  exact ((memoriesWf_self t).2 ht).setDie q (ht.store q)

@[simp] theorem Job.readTensorRow_memoryWf {j : Job} (h : j.st.memoryWf) (fmt : Nat) (addr : Nat) (pitch : Nat) (r : Nat)
    (cols : Nat) :
    (j.readTensorRow fmt addr pitch r cols).1.st.memoryWf :=
  by simp [Job.readTensorRow, h]

@[simp] theorem State.boardPasses_memoryWf (s : State) (i : Nat) (passes : Nat) (cols : Nat) (rows : Nat) :
    (s.boardPasses i passes cols rows).memoryWf ↔ s.memoryWf :=
  by simp [State.boardPasses]

@[simp] theorem State.kernelJob_memoryWf {s : State} (h : s.memoryWf) (i : Nat) (p : Op) : (s.kernelJob i p).st.memoryWf := by
  unfold State.kernelJob
  extract_lets d party rows cols e t sd sp
  have ht : t.memoryWf := by simp [t, h]
  refine Job.foldl_memoryWf ((State.job_memoryWf t i p party).2 ht) (fun k g hk => ?_) _
  split
  rename_i l xs hl
  refine Job.runRows_memoryWf ?_ _ _ _ _ _ _
  rw [show l = _ from congrArg Prod.fst hl.symm]
  refine Job.foldl_fst_memoryWf (fun a r ha => ?_) _ hk
  dsimp only
  exact Job.readTensorRow_memoryWf ha _ _ _ _ _

@[simp] theorem execRunKernel_memoryWf {s : State} (h : s.memoryWf) (o : OpRef) : Out.memoryWf (execRunKernel o s) := by
  unfold execRunKernel
  split <;> simp [h]

@[simp] theorem Job.phSource_memoryWf {j : Job} (h : j.st.memoryWf) (die : Nat) (d : Bytes) : (j.phSource die d).1.st.memoryWf := by
  unfold Job.phSource
  extract_lets f store w
  have hg := Job.foldl_fst_memoryWf (f := fun (acc : Job × List (List Nat)) r =>
    let (j, b) := acc.1.read (phPlace die (fieldAt d 48 8) (r * fieldAt d 56 4)) ((w * phCols d + 7) / 8)
    (j, unpack w (phCols d) b :: acc.2))
    (fun a r ha => by dsimp only; exact Job.read_memoryWf ha _ _) (List.range (phRows d)) (a := (j, [])) h
  generalize (List.range (phRows d)).foldl _ (j, []) = g at hg
  dsimp only
  split
  · exact Job.read_memoryWf hg _ _
  · exact hg

@[simp] theorem Job.phConvert_memoryWf {j : Job} (h : j.st.memoryWf) (o : Op) (die : Nat) :
    (j.phConvert o die).1.st.memoryWf := by
  unfold Job.phConvert
  dsimp only
  split <;> simp [h]

@[simp] theorem Job.phCount_memoryWf (j : Job) (o : Op) (lines : List LineStat) :
    (j.phCount o lines).st.memoryWf ↔ j.st.memoryWf := by
  unfold Job.phCount
  dsimp only
  split <;> simp

@[simp] theorem Job.phWrite_memoryWf {j : Job} (h : j.st.memoryWf) (data : Nat → Place) (scale : Place) (fmt : Nat) (p : PhOut) :
    (j.phWrite data scale fmt p).st.memoryWf := by
  unfold Job.phWrite
  extract_lets k
  have hk : k.st.memoryWf := Job.foldl_memoryWf h (fun _ _ h => Job.writeCodes_memoryWf h _ _ _) _
  split
  · exact hk
  · exact Job.write_memoryWf hk _ _

@[simp] theorem State.usePigeonhole_memoryWf {s : State} (h : s.memoryWf) (die party : Nat) : (s.usePigeonhole die party).memoryWf := by
  unfold State.usePigeonhole
  rw [State.mk_memoryWf]
  exact ((memoriesWf_self s).2 h).setDie die (h.store die)

@[simp] theorem State.phMoveJob_memoryWf {s : State} (h : s.memoryWf) (i : Nat) (p : Op) : (s.phMoveJob i p).st.memoryWf := by
  unfold State.phMoveJob
  extract_lets d die t pitch
  have ht : (t.job i p (phParty d)).st.memoryWf := (State.job_memoryWf _ _ _ _).2 (State.usePigeonhole_memoryWf h _ _)
  have hc := Job.phConvert_memoryWf ht p die
  generalize (t.job i p (phParty d)).phConvert p die = c at hc
  obtain ⟨k, out⟩ := c
  dsimp -zeta only at hc ⊢
  extract_lets l m n top
  have hl : l.st.memoryWf := (State.perfEvent_memoryWf _ _ _ _ _).2 hc
  have hm : m.st.memoryWf := by
    unfold m
    split
    · exact hl
    · exact (Job.phCount_memoryWf _ _ _).2 hl
  have hn : n.st.memoryWf := Job.phWrite_memoryWf hm _ _ _ _
  split
  · exact Job.phWrite_memoryWf hn _ _ _ _
  · exact hn

@[simp] theorem execPhMove_memoryWf {s : State} (h : s.memoryWf) (o : OpRef) : Out.memoryWf (execPhMove o s) := by
  unfold execPhMove
  rw [Out.next_memoryWf]
  split
  · split
    · simp [h]
    · exact h
  · exact h

@[simp] theorem execPhStream_memoryWf {s : State} (h : s.memoryWf) (o : OpRef) : Out.memoryWf (execPhStream o s) := by
  unfold execPhStream
  split <;> simp [h]

@[simp] theorem State.pieceSlots_memoryWf (s : State) (x : Session) (cls : Nat) (n : Nat) :
    (s.pieceSlots x cls n).memoryWf ↔ s.memoryWf :=
  by simp [State.pieceSlots]

@[simp] theorem State.pieceRuns_memoryWf (s : State) (i : Nat) (x : Session) (ev : Nat) (n : Nat) (runs : Nat) :
    (s.pieceRuns i x ev n runs).memoryWf ↔ s.memoryWf :=
  by simp [State.pieceRuns]

@[simp] theorem State.pieceEvent_memoryWf (s : State) (i : Nat) (x : Session) (ev : Nat) (n : Nat) :
    (s.pieceEvent i x ev n).memoryWf ↔ s.memoryWf :=
  by simp [State.pieceEvent]

@[simp] theorem State.tileSlots_memoryWf (s : State) (x : Session) (rows : Nat) (cols : Nat) (kc : Nat) :
    (s.tileSlots x rows cols kc).memoryWf ↔ s.memoryWf :=
  by simp [State.tileSlots]

@[simp] theorem State.launchSlots_memoryWf (s : State) (x : Session) (lost : Option Tile) :
    (s.launchSlots x lost).memoryWf ↔ s.memoryWf :=
  by simp [State.launchSlots]

@[simp] theorem State.openArray_memoryWf (s : State) (i : Nat) (p : Op) : (s.openArray i p).memoryWf ↔ s.memoryWf :=
  by simp [State.openArray]

@[simp] theorem State.launchArray_memoryWf (s : State) (o : OpRef) (code : Nat) :
    (s.launchArray o code).memoryWf ↔ s.memoryWf := by
  unfold State.launchArray
  split <;> simp

@[simp] theorem execMatmul_memoryWf {s : State} (h : s.memoryWf) (o : OpRef) : Out.memoryWf (execMatmul o s) :=
  by simp [execMatmul, h]

@[simp] theorem execMatmulAlt_memoryWf {s : State} (h : s.memoryWf) (o : OpRef) : Out.memoryWf (execMatmulAlt o s) :=
  by simp [execMatmulAlt, h]

@[simp] theorem execArrayScrub_memoryWf {s : State} (h : s.memoryWf) (o : OpRef) : Out.memoryWf (execArrayScrub o s) := by
  unfold execArrayScrub
  split <;> simp [h]

@[simp] theorem Job.feed_memoryWf {j : Job} (h : j.st.memoryWf) (o : Op) (die n : Nat) (use : Nat → Bool) (byRow : Bool) :
    (j.feed o die n use byRow).1.st.memoryWf := by
  unfold Job.feed
  have hc := Job.phConvert_memoryWf (j := j.as o (phParty o.desc)) h o die
  generalize (j.as o (phParty o.desc)).phConvert o die = c at hc
  dsimp only
  split_ifs
  all_goals first | simpa using hc | exact Job.write_memoryWf (by simpa using hc) _ _

@[simp] theorem Job.aLines_memoryWf {j : Job} (h : j.st.memoryWf) (user : Nat × Nat) (p : Product) (r0 cnt : Nat) :
    (j.aLines user p r0 cnt).1.st.memoryWf := by
  unfold Job.aLines
  extract_lets x f
  split
  · refine Job.foldl_fst_memoryWf (fun a die ha => ?_) _ h
    dsimp only
    split
    · exact (Job.intake_memoryWf _ _).2 (Job.feed_memoryWf ha _ _ _ _ _)
    · exact ha
  · refine Job.foldl_fst_memoryWf (fun a k ha => ?_) _ h
    dsimp only
    split <;> simpa using ha

@[simp] theorem Job.bLines_memoryWf {j : Job} (h : j.st.memoryWf) (user : Nat × Nat) (p : Product) (n0 cnt : Nat) :
    (j.bLines user p n0 cnt).1.st.memoryWf := by
  unfold Job.bLines
  extract_lets x f
  split
  · split
    · exact (Job.intake_memoryWf _ _).2 (Job.feed_memoryWf h _ _ _ _ _)
    · exact h
  · split
    rename_i k rows hk
    have hk : k.st.memoryWf := by
      rw [show k = _ from congrArg Prod.fst hk.symm]
      refine Job.foldl_fst_memoryWf (fun a r ha => ?_) _ h
      dsimp only
      exact (Job.readStore_memoryWf a.1 _ _ _).2 ha
    dsimp only
    rw [Job.intake_memoryWf]
    split
    · refine Job.foldl_fst_memoryWf (fun a r ha => ?_) _ hk
      dsimp only
      exact (Job.readStore_memoryWf a.1 _ _ _).2 ha
    · exact hk

@[simp] theorem State.heldWait_memoryWf (s : State) (p : Piece) (w : Nat) : (s.heldWait p w).2.memoryWf ↔ s.memoryWf := by
  unfold State.heldWait
  extract_lets h
  split
  · rfl
  · exact s.draw_memoryWf

@[simp] theorem State.issueTile_memoryWf {s : State} (h : s.memoryWf) (i operandLate scaleLate : Nat) :
    (s.issueTile i operandLate scaleLate).memoryWf := by
  unfold State.issueTile
  extract_lets x
  split
  · exact h
  · dsimp only
    rw [State.onSession_memoryWf]
    refine Job.bLines_memoryWf (Job.aLines_memoryWf ?_ _ _ _ _) _ _ _ _
    simpa using h

@[simp] theorem execTileIssue_memoryWf {s : State} (h : s.memoryWf) (i : Nat) (operandLate : Nat) (scaleLate : Nat) :
    Out.memoryWf (execTileIssue i operandLate scaleLate s) :=
  by simp [execTileIssue, h]

@[simp] theorem Job.drainRows_memoryWf {j : Job} (h : j.st.memoryWf) (o : Op) (p : Product) (r0 : Nat) (c0 : Nat)
    (accs : List (List Acc)) :
    (j.drainRows o p r0 c0 accs).st.memoryWf :=
  by simp [Job.drainRows, h]

@[simp] theorem State.drainTile_memoryWf {s : State} (h : s.memoryWf) (i : Nat) (drainHeld : Nat) :
    (s.drainTile i drainHeld).memoryWf := by
  unfold State.drainTile
  dsimp only
  repeat' split
  all_goals simp [h]

@[simp] theorem execTileDrain_memoryWf {s : State} (h : s.memoryWf) (i : Nat) (drainHeld : Nat) :
    Out.memoryWf (execTileDrain i drainHeld s) :=
  by simp [execTileDrain, h]

@[simp] theorem State.tail_memoryWf (s : State) (i : Nat) (p : Op) : (s.tail i p).memoryWf ↔ s.memoryWf := by
  unfold State.tail
  dsimp only
  repeat' split
  all_goals simp

@[simp] theorem execArrayOpComplete_memoryWf {s : State} (h : s.memoryWf) (o : OpRef) :
    Out.memoryWf (execArrayOpComplete o s) := by
  unfold execArrayOpComplete
  split <;> simp [h]

@[simp] theorem Job.gradRow_memoryWf {j : Job} (h : j.st.memoryWf) (d : Bytes) (i : Nat) : (j.gradRow d i).1.st.memoryWf := by
  unfold Job.gradRow
  dsimp only
  split <;> simp [h]

@[simp] theorem Job.readRaw_memoryWf {j : Job} (h : j.st.memoryWf) (a : Nat) (len : Nat) : (j.readRaw a len).1.st.memoryWf :=
  by simp [Job.readRaw, h]

@[simp] theorem Job.writePage_memoryWf {j : Job} (h : j.st.memoryWf) (rs : List (Nat × Bytes)) (page : Nat) :
    (j.writePage rs page).st.memoryWf := by
  unfold Job.writePage
  dsimp only
  rw [State.onSession_memoryWf]
  refine Job.foldl_memoryWf h (fun k ln hk => ?_) _
  split
  · exact hk
  · split
    · exact Job.writeHbm_memoryWf hk _ _
    · exact Job.writeHbm_memoryWf (Job.readRaw_memoryWf hk _ _) _ _

@[simp] theorem Job.writeState_memoryWf {j : Job} (h : j.st.memoryWf) (rs : List (Nat × Bytes)) : (j.writeState rs).st.memoryWf := by
  unfold Job.writeState
  exact Job.foldl_memoryWf h (fun _ _ h => Job.writePage_memoryWf h _ _) _

@[simp] theorem Job.rkRead_memoryWf {j : Job} (h : j.st.memoryWf) (d : Bytes) : (j.rkRead d).1.st.memoryWf := by
  unfold Job.rkRead
  extract_lets rows cols nb ms
  generalize hg : (List.range rows).foldl _ (j, []) = g
  have hg : g.1.st.memoryWf := by
    rw [← hg]
    refine Job.foldl_fst_memoryWf (fun a i ha => ?_) _ h
    dsimp only
    refine Job.gradRow_memoryWf ((Job.intake_memoryWf _ _).2 ?_) _ _
    split <;>
    exact Job.readHbm_memoryWf (Job.readHbm_memoryWf (Job.readHbm_memoryWf ha _ _) _ _) _ _
  dsimp only
  split
  · exact hg
  · exact Job.readHbm_memoryWf hg _ _

@[simp] theorem State.reckonJob_memoryWf {s : State} (h : s.memoryWf) (i : Nat) (p : Op) : (s.reckonJob i p).st.memoryWf := by
  unfold State.reckonJob
  dsimp only
  split <;> simp [h]

@[simp] theorem execReckon_memoryWf {s : State} (h : s.memoryWf) (o : OpRef) : Out.memoryWf (execReckon o s) := by
  unfold execReckon
  split <;> simp [h]

@[simp] theorem Job.dpRead_memoryWf {j : Job} (h : j.st.memoryWf) (d : Bytes) : (j.dpRead d).1.st.memoryWf := by
  unfold Job.dpRead
  dsimp only
  refine Job.foldl_fst_memoryWf (fun a r ha => ?_) _ h
  dsimp only
  rw [Job.intake_memoryWf, Job.intake_memoryWf]
  split
  · exact Job.read_memoryWf (Job.read_memoryWf ha _ _) _ _
  · exact Job.read_memoryWf ha _ _

@[simp] theorem State.noiseJob_memoryWf {s : State} (h : s.memoryWf) (i : Nat) (p : Op) (samples : List W32) :
    (s.noiseJob i p samples).st.memoryWf := by
  unfold State.noiseJob
  dsimp only
  rw [State.onSession_memoryWf]
  exact Job.convertRows_memoryWf (Job.dpRead_memoryWf ((State.job_memoryWf _ _ _ _).2 (State.useBoards_memoryWf h _ _)) _) _ _ _ _

@[simp] theorem State.noiseSamples_memoryWf (s : State) (i : Nat) (d : Bytes) :
    (s.noiseSamples i d).1.memoryWf ↔ s.memoryWf := by
  unfold State.noiseSamples
  dsimp only
  repeat' split
  all_goals simp

@[simp] theorem execDpNoise_memoryWf {s : State} (h : s.memoryWf) (o : OpRef) : Out.memoryWf (execDpNoise o s) := by
  unfold execDpNoise
  rw [Out.next_memoryWf]
  split
  · extract_lets i x
    split
    · simp [h]
    · split
      · simp [h]
      · split
        · simp [h]
        · have hn := (s.noiseSamples_memoryWf i ‹Op›.desc).2 h
          split <;> (rename_i hs; rw [hs] at hn; simp [hn])
  · exact h

@[simp] theorem execNoiseLaneFail_memoryWf {s : State} (h : s.memoryWf) (lane : Nat) :
    Out.memoryWf (execNoiseLaneFail lane s) :=
  by simp [execNoiseLaneFail, h]

end Sys2Proof.Machine
end

section
/-! PROOFS. O59. What collectives, the ports, steps and the ring keep of the memories' form. -/

namespace Sys2Proof.Machine

@[simp] theorem State.setPort_memoryWf (s : State) (p : Nat) (q : Port) : (s.setPort p q).memoryWf ↔ s.memoryWf := Iff.rfl

@[simp] theorem State.onPort_memoryWf (s : State) (p : Nat) (f : Port → Port) : (s.onPort p f).memoryWf ↔ s.memoryWf := Iff.rfl

@[simp] theorem State.sendCtl_memoryWf (s : State) (p : Nat) (ctype : Nat) (body : Bytes) :
    (s.sendCtl p ctype body).memoryWf ↔ s.memoryWf :=
  Iff.rfl

@[simp] theorem State.takeCtl_memoryWf (s : State) (p : Nat) (ctype : Nat) (block : Bytes) :
    (s.takeCtl p ctype block).1.memoryWf ↔ s.memoryWf :=
  by simp [State.takeCtl]

@[simp] theorem execFlitSlot_memoryWf {s : State} (h : s.memoryWf) (p : Nat) : Out.memoryWf (execFlitSlot p s) := by
  unfold execFlitSlot
  dsimp only
  repeat' split
  all_goals simp [h]

@[simp] theorem State.nak_memoryWf (s : State) (p : Nat) : (s.nak p).memoryWf ↔ s.memoryWf := by simp [State.nak]

@[simp] theorem State.countSlot_memoryWf (s : State) (p : Nat) : (s.countSlot p).memoryWf ↔ s.memoryWf :=
  by simp [State.countSlot]

@[simp] theorem State.inOrder_memoryWf (s : State) (p : Nat) (f : InFlit) : (s.inOrder p f).1.memoryWf ↔ s.memoryWf :=
  by simp [State.inOrder]

@[simp] theorem State.takeFlit_memoryWf (s : State) (p : Nat) (b : Bytes) : (s.takeFlit p b).1.memoryWf ↔ s.memoryWf := by
  unfold State.takeFlit
  dsimp only
  repeat' split
  all_goals simp

@[simp] theorem State.neverAcked_memoryWf (s : State) (i : Nat) (fs : List OutFlit) :
    (s.neverAcked i fs).memoryWf ↔ s.memoryWf :=
  by simp [State.neverAcked]

@[simp] theorem State.forward_memoryWf (s : State) (i : Nat) (f : OutFlit) : (s.forward i f).memoryWf ↔ s.memoryWf := by
  unfold State.forward
  dsimp only
  split <;> simp

@[simp] theorem execUncorrectableCodeword_memoryWf {s : State} (h : s.memoryWf) (p : Nat) :
    Out.memoryWf (execUncorrectableCodeword p s) :=
  by simp [execUncorrectableCodeword, h]

@[simp] theorem execCredit_memoryWf {s : State} (h : s.memoryWf) (p : Nat) (block : Bytes) : Out.memoryWf (execCredit p block s) := by
  unfold execCredit
  rw [Out.next_memoryWf]
  split
  · split <;>
    · rename_i he
      have ht := ((s.takeCtl_memoryWf p 3 block).2 h).of_fst he
      simp [ht]
  · exact h

@[simp] theorem State.enterKeying_memoryWf (s : State) (p : Nat) : (s.enterKeying p).memoryWf ↔ s.memoryWf := Iff.rfl

@[simp] theorem State.startKeying_memoryWf (s : State) (p : Nat) : (s.startKeying p).memoryWf ↔ s.memoryWf :=
  by simp [State.startKeying]

@[simp] theorem execPortTrainingDone_memoryWf {s : State} (h : s.memoryWf) (p : Nat) (delay : BitVec 16) (lanes : BitVec 8) :
    Out.memoryWf (execPortTrainingDone p delay lanes s) := by
  unfold execPortTrainingDone
  repeat' split
  all_goals simp [h]

@[simp] theorem execHello_memoryWf {s : State} (h : s.memoryWf) (p : Nat) (block : Bytes) : Out.memoryWf (execHello p block s) := by
  unfold execHello
  rw [Out.next_memoryWf]
  split
  · split <;>
    · rename_i he
      have ht := ((s.takeCtl_memoryWf p 0 block).2 h).of_fst he
      simp [ht]
  · exact h

@[simp] theorem execHelloTimeout_memoryWf {s : State} (h : s.memoryWf) (p : Nat) : Out.memoryWf (execHelloTimeout p s) :=
  by simp [execHelloTimeout, h]

@[simp] theorem execLaneFailure_memoryWf {s : State} (h : s.memoryWf) (p : Nat) (lane : Nat) :
    Out.memoryWf (execLaneFailure p lane s) := by
  unfold execLaneFailure
  dsimp only
  repeat' split
  all_goals simp [h]

@[simp] theorem execPeerLoss_memoryWf {s : State} (h : s.memoryWf) (p : Nat) : Out.memoryWf (execPeerLoss p s) :=
  by simp [execPeerLoss, h]

@[simp] theorem Job.sources_memoryWf {j : Job} (h : j.st.memoryWf) (d : Bytes) : (j.sources d).1.st.memoryWf := by
  unfold Job.sources
  split <;> simp [h]

@[simp] theorem Job.sizeTable_memoryWf {j : Job} (h : j.st.memoryWf) (d : Bytes) (g : Nat) : (j.sizeTable d g).1.st.memoryWf :=
  by simp [Job.sizeTable, h]

@[simp] theorem State.sendChunk_memoryWf (s : State) (i : Nat) (dst : Nat) (o : Op) (header : Bytes) (data : Bytes) :
    (s.sendChunk i dst o header data).memoryWf ↔ s.memoryWf :=
  by simp [State.sendChunk]

@[simp] theorem Job.readFlat_memoryWf {j : Job} (h : j.st.memoryWf) (d : Bytes) (q : Source) (k : Nat) (n : Nat) :
    (j.readFlat d q k n).1.st.memoryWf := by
  unfold Job.readFlat
  split <;> simp [h]

@[simp] theorem Job.writeFlat_memoryWf {j : Job} (h : j.st.memoryWf) (d : Bytes) (k : Nat) (codes : List Nat) (scales : Bytes) :
    (j.writeFlat d k codes scales).st.memoryWf := by
  unfold Job.writeFlat
  split <;> simp [h]

@[simp] theorem State.closeJob_memoryWf (s : State) (i : Nat) (o : Op) (j : Job) : (s.closeJob i o j).memoryWf ↔ s.memoryWf := by
  unfold State.closeJob
  simp

@[simp] theorem State.postLeaf_memoryWf (s : State) (i : Nat) (dst : Nat) (o : Op) (header : Bytes) (data : Bytes) :
    (s.postLeaf i dst o header data).memoryWf ↔ s.memoryWf :=
  by simp [State.postLeaf]

@[simp] theorem Job.readRanges_memoryWf {j : Job} (h : j.st.memoryWf) (d : Bytes) (q : Source) (l : List (Nat × Nat)) :
    (j.readRanges d q l).1.st.memoryWf := by
  unfold Job.readRanges
  refine Job.foldl_fst_memoryWf (fun a r ha => ?_) _ h
  dsimp only
  exact Job.readFlat_memoryWf ha _ _ _ _

@[simp] theorem Job.post_memoryWf {j : Job} (h : j.st.memoryWf) (o : Op) (q : Source) (index : Nat) (cuts : List
    (Nat × Nat × Nat)) :
    (j.post o q index cuts).st.memoryWf := by
  unfold Job.post
  dsimp only
  split <;> simp [h]

@[simp] theorem Job.postAll_memoryWf {j : Job} (h : j.st.memoryWf) (o : Op) (group : List Nat) (i : Nat) :
    (j.postAll o group i).st.memoryWf := by
  unfold Job.postAll
  exact Job.foldl_memoryWf h (fun _ _ h => Job.post_memoryWf h _ _ _ _) _

@[simp] theorem State.copyChunk_memoryWf {s : State} (h : s.memoryWf) (i : Nat) (o : Op) (c : Chunk) :
    (s.copyChunk i o c).memoryWf := by
  unfold State.copyChunk
  dsimp only
  rw [State.closeJob_memoryWf, State.onSession_memoryWf]
  exact Job.writeFlat_memoryWf ((State.job_memoryWf _ _ _ _).2 h) _ _ _ _

@[simp] theorem State.residue_memoryWf (s : State) (i : Nat) (half : Nat) (fails : Nat) (retired : Nat) (taints : Nat) :
    (s.residue i half fails retired taints).memoryWf ↔ s.memoryWf :=
  Iff.rfl

@[simp] theorem State.reduceOwn_memoryWf {s : State} (h : s.memoryWf) (i : Nat) (o : Op) (half : Nat) (faults : List AddFault) :
    (s.reduceOwn i o half faults).memoryWf := by
  unfold State.reduceOwn
  extract_lets x d group held c leaves late tagged
  generalize reduceRange d group.length (groupRank group x.rank) = kn
  obtain ⟨k, n⟩ := kn
  dsimp -zeta only
  extract_lets cuts fs bad hit taints t
  have ht : t.memoryWf := by
    unfold t
    split
    · exact h
    · rw [State.residue_memoryWf, State.mk_memoryWf, memoriesWf_self]
      exact h
  clear_value t
  split
  · exact h
  · split
    · exact h
    · extract_lets vals all sent u v j1 j2 j3 y
      have hj : j3.st.memoryWf := by
        refine Job.writeFlat_memoryWf ?_ _ _ _ _
        simpa [j2, j1, v, u] using ht
      rw [State.closeJob_memoryWf]
      unfold y
      split
      · refine (State.foldl_memoryWf (fun s r => ?_) _ _).2 hj
        split
        · rfl
        · simp
      · exact hj

@[simp] theorem State.advanceOne_memoryWf {s : State} (h : s.memoryWf) (i half : Nat) (faults : List AddFault) (o0 : Op) :
    (State.advanceOne i half faults s o0).memoryWf := by
  unfold State.advanceOne
  split
  · exact h
  · rename_i o _
    split
    · extract_lets copies t
      have ht : t.memoryWf := h.foldl (fun u c hu => by
        split
        · split
          · exact State.copyChunk_memoryWf hu _ _ _
          · exact hu
        · exact hu) _
      clear_value t
      split
      · exact ht
      · extract_lets u
        have hu : u.memoryWf := by
          unfold u
          split
          · exact State.reduceOwn_memoryWf ht _ _ _ _
          · exact ht
        clear_value u
        split
        · exact hu
        · split
          · split
            · simpa using hu
            · exact hu
          · exact hu
    · exact h

@[simp] theorem State.settleCredits_memoryWf (s : State) (i : Nat) : (s.settleCredits i).memoryWf ↔ s.memoryWf :=
  by simp [State.settleCredits]

@[simp] theorem State.advanceColl_memoryWf {s : State} (h : s.memoryWf) (i half : Nat) (faults : List AddFault) :
    (s.advanceColl i half faults).memoryWf := by
  unfold State.advanceColl
  extract_lets t
  exact (State.settleCredits_memoryWf _ _).2
    (State.memoryWf.foldl (s := t) h (fun _ _ h => State.advanceOne_memoryWf h _ _ _ _) _)

@[simp] theorem State.runCollective_memoryWf {s : State} (h : s.memoryWf) (i : Nat) (faults : List AddFault) (p : Op) :
    (s.runCollective i faults p).memoryWf := by
  unfold State.runCollective
  extract_lets d group j
  have hj := Job.sources_memoryWf (j := j) h d
  generalize j.sources d = w at hj
  obtain ⟨k, srcs, clean⟩ := w
  dsimp -zeta only at hj ⊢
  have hl : (if dOpcode d = opExchangeV then k.sizeTable d group.length else (k, [])).1.st.memoryWf := by
    split
    · exact Job.sizeTable_memoryWf hj _ _
    · exact hj
  generalize (if dOpcode d = opExchangeV then k.sizeTable d group.length else (k, [])) = v at hl
  obtain ⟨l, t⟩ := v
  dsimp -zeta only at hl ⊢
  extract_lets x q m
  split
  · simpa using hl
  · split
    · simpa using hl
    · split
      · simpa using hl
      · exact State.advanceColl_memoryWf ((State.closeJob_memoryWf _ _ _ _).2 (Job.postAll_memoryWf hl _ _ _)) _ _ _

@[simp] theorem execExchange_memoryWf {s : State} (h : s.memoryWf) (o : OpRef) : Out.memoryWf (execExchange o s) := by
  unfold execExchange
  split <;> simp [h]

@[simp] theorem execExchangeV_memoryWf {s : State} (h : s.memoryWf) (o : OpRef) : Out.memoryWf (execExchangeV o s) := by
  unfold execExchangeV
  split <;> simp [h]

@[simp] theorem execReduceScatter_memoryWf {s : State} (h : s.memoryWf) (o : OpRef) (residueFails : List AddFault) :
    Out.memoryWf (execReduceScatter o residueFails s) := by
  unfold execReduceScatter
  split <;> simp [h]

@[simp] theorem execAllGather_memoryWf {s : State} (h : s.memoryWf) (o : OpRef) : Out.memoryWf (execAllGather o s) := by
  unfold execAllGather
  split <;> simp [h]

@[simp] theorem execAllReduce_memoryWf {s : State} (h : s.memoryWf) (o : OpRef) (residueFails : List AddFault) :
    Out.memoryWf (execAllReduce o residueFails s) := by
  unfold execAllReduce
  split <;> simp [h]

@[simp] theorem execCollectiveComplete_memoryWf {s : State} (h : s.memoryWf) (o : OpRef) :
    Out.memoryWf (execCollectiveComplete o s) := by
  unfold execCollectiveComplete
  split <;> simp [h]

@[simp] theorem execCollectiveTimeout_memoryWf {s : State} (h : s.memoryWf) (o : OpRef) :
    Out.memoryWf (execCollectiveTimeout o s) := by
  unfold execCollectiveTimeout
  split <;> simp [h]

@[simp] theorem State.staleFlit_memoryWf (s : State) (i : Nat) (f : OutFlit) (h : Option Bytes) :
    (s.staleFlit i f h).memoryWf ↔ s.memoryWf := by
  unfold State.staleFlit
  dsimp only
  split <;> simp

@[simp] theorem State.serveFlit_memoryWf {s : State} (h : s.memoryWf) (p : Nat) (a : Arrived) : (s.serveFlit p a).memoryWf :=
  by simp [State.serveFlit, h]

@[simp] theorem State.deliver_memoryWf {s : State} (h : s.memoryWf) (p : Nat) (f : InFlit) (tainted : Bool)
    (faults : List AddFault) :
    (s.deliver p f tainted faults).memoryWf :=
  by simp [State.deliver, h]

@[simp] theorem State.serveArrived_memoryWf {s : State} (h : s.memoryWf) : s.serveArrived.memoryWf := by
  unfold State.serveArrived
  refine h.foldl (fun t p ht => ?_) _
  exact State.memoryWf.foldl ((State.onPort_memoryWf _ _ _).2 ht) (fun _ _ h => State.serveFlit_memoryWf h _ _) _

@[simp] theorem State.taintedFlit_memoryWf {s : State} (h : s.memoryWf) (p : Nat) (f : InFlit) (faults : List AddFault) :
    (s.taintedFlit p f faults).memoryWf :=
  by simp [State.taintedFlit, h]

@[simp] theorem execDataFlit_memoryWf {s : State} (h : s.memoryWf) (p : Nat) (b : Bytes) (residueFails : List AddFault) :
    Out.memoryWf (execDataFlit p b residueFails s) := by
  unfold execDataFlit
  rw [Out.next_memoryWf]
  extract_lets t i raw u fed
  split
  · split
    · split <;> simp [u, h]
    · split
      · split <;> simp [h]
      · split
        · rename_i he
          have ht := ((s.takeFlit_memoryWf p b).2 h).of_fst he
          split
          · exact ht
          · exact State.deliver_memoryWf ht _ _ _ _
        · rename_i he
          exact ((s.takeFlit_memoryWf p b).2 h).of_fst he
  · exact h

@[simp] theorem State.takeTyped_memoryWf (s : State) (p type : Nat) (b : Bytes) : (s.takeTyped p type b).1.memoryWf ↔ s.memoryWf := by
  unfold State.takeTyped
  split
  · extract_lets i
    have ht := s.takeFlit_memoryWf p b
    split <;> (rename_i he; rw [he] at ht)
    · exact ht
    · split
      · simpa using ht
      · exact ht
  · rfl

@[simp] theorem State.takeAck_memoryWf (s : State) (p ctype : Nat) (block : Bytes) : (s.takeAck p ctype block).1.memoryWf ↔ s.memoryWf := by
  unfold State.takeAck
  split
  · have ht := s.takeCtl_memoryWf p ctype block
    split <;> (rename_i he; rw [he] at ht; exact ht)
  · rfl

@[simp] theorem State.onSide_memoryWf (s : State) (cw : Bool) (f : RingSide → RingSide) :
    (s.onSide cw f).memoryWf ↔ s.memoryWf :=
  by simp [State.onSide]

@[simp] theorem State.putFrame_memoryWf (s : State) (cw : Bool) (frame : Bytes) : (s.putFrame cw frame).memoryWf ↔ s.memoryWf :=
  by simp [State.putFrame]

@[simp] theorem State.sendFrame_memoryWf (s : State) (i : Nat) (cw : Bool) (type : Nat) (body : Bytes) :
    (s.sendFrame i cw type body).memoryWf ↔ s.memoryWf :=
  by simp [State.sendFrame]

@[simp] theorem State.sendBoth_memoryWf (s : State) (i : Nat) (type : Nat) (body : Bytes) :
    (s.sendBoth i type body).memoryWf ↔ s.memoryWf :=
  by simp [State.sendBoth]

@[simp] theorem State.passOn_memoryWf (s : State) (cw : Bool) (frame : Bytes) : (s.passOn cw frame).memoryWf ↔ s.memoryWf :=
  by simp [State.passOn]

@[simp] theorem State.hold_memoryWf (s : State) (i : Nat) (own : Byte) : (s.hold i own).memoryWf ↔ s.memoryWf := Iff.rfl

@[simp] theorem State.newRate_memoryWf (s : State) : s.newRate.memoryWf ↔ s.memoryWf := Iff.rfl

@[simp] theorem State.enterHoldover_memoryWf (s : State) : s.enterHoldover.memoryWf ↔ s.memoryWf := Iff.rfl

@[simp] theorem State.takeTime_memoryWf (s : State) (i : Nat) (parent : ℤ) : (s.takeTime i parent).memoryWf ↔ s.memoryWf :=
  by simp [State.takeTime]

@[simp] theorem State.sendTime_memoryWf (s : State) (i : Nat) : (s.sendTime i).memoryWf ↔ s.memoryWf := by simp [State.sendTime]

@[simp] theorem execTimeFrame_memoryWf {s : State} (h : s.memoryWf) (cw : Bool) (frame : Bytes) :
    Out.memoryWf (execTimeFrame cw frame s) := by
  unfold execTimeFrame
  repeat' split
  all_goals simp [h]

@[simp] theorem execTimeFrameTick_memoryWf {s : State} (h : s.memoryWf) : Out.memoryWf (execTimeFrameTick s) := by
  unfold execTimeFrameTick
  split <;> simp [h]

@[simp] theorem State.measure_memoryWf (s : State) (i : Nat) (cw : Bool) : (s.measure i cw).memoryWf ↔ s.memoryWf :=
  by simp [State.measure]

@[simp] theorem execMeasureTick_memoryWf {s : State} (h : s.memoryWf) : Out.memoryWf (execMeasureTick s) := by
  unfold execMeasureTick
  split <;> simp [h]

@[simp] theorem execMeasure_memoryWf {s : State} (h : s.memoryWf) (cw : Bool) (frame : Bytes) :
    Out.memoryWf (execMeasure cw frame s) := by
  unfold execMeasure
  repeat' split
  all_goals simp [h]

@[simp] theorem execMeasureReply_memoryWf {s : State} (h : s.memoryWf) (cw : Bool) (frame : Bytes) :
    Out.memoryWf (execMeasureReply cw frame s) := by
  unfold execMeasureReply
  repeat' split
  all_goals simp [h]

@[simp] theorem State.countActive_memoryWf (s : State) : s.countActive.memoryWf ↔ s.memoryWf := by
  unfold State.countActive
  split <;> rfl

@[simp] theorem State.ownBypass_memoryWf (s : State) (bothLocked : Bool) (idleBoundary : Bool) :
    (s.ownBypass bothLocked idleBoundary).memoryWf ↔ s.memoryWf :=
  by simp [State.ownBypass]

@[simp] theorem State.memberBypass_memoryWf (s : State) (i : Nat) (p : Nat) (closed : Bool) :
    (s.memberBypass i p closed).memoryWf ↔ s.memoryWf :=
  by simp [State.memberBypass]

@[simp] theorem execBypassSwitchChange_memoryWf {s : State} (h : s.memoryWf) (change : BypassChange) (idleBoundary : Bool) :
    Out.memoryWf (execBypassSwitchChange change idleBoundary s) := by
  unfold execBypassSwitchChange
  repeat' split
  all_goals simp [h]

@[simp] theorem execTimestampTick_memoryWf {s : State} (h : s.memoryWf) (p : Nat) : Out.memoryWf (execTimestampTick p s) :=
  by simp [execTimestampTick, h]

@[simp] theorem execTimestamp_memoryWf {s : State} (h : s.memoryWf) (p : Nat) (block : Bytes) : Out.memoryWf (execTimestamp p block s) := by
  unfold execTimestamp
  rw [Out.next_memoryWf]
  split
  · split <;> (rename_i he; have ht := ((s.takeCtl_memoryWf p 4 block).2 h).of_fst he)
    · exact ht
    · dsimp only
      split <;> split <;> simp [ht]
  · exact h

@[simp] theorem execHoldoverTimeout_memoryWf {s : State} (h : s.memoryWf) : Out.memoryWf (execHoldoverTimeout s) :=
  by simp [execHoldoverTimeout, h]

@[simp] theorem execHoldoverHeld_memoryWf {s : State} (h : s.memoryWf) : Out.memoryWf (execHoldoverHeld s) := by
  unfold execHoldoverHeld
  split <;> simp [h]

@[simp] theorem State.joinRing_memoryWf (s : State) (i : Nat) : (s.joinRing i).memoryWf ↔ s.memoryWf := by simp [State.joinRing]

@[simp] theorem State.leaveRing_memoryWf (s : State) : s.leaveRing.memoryWf ↔ s.memoryWf := by
  unfold State.leaveRing
  split <;> simp

@[simp] theorem State.takeMsg_memoryWf (s : State) (rx : Rx) (type flitType : Nat) (m : Bytes) :
    (s.takeMsg rx type flitType m).1.memoryWf ↔ s.memoryWf := by
  unfold State.takeMsg
  cases rx with
  | ring cw =>
    dsimp only
    split
    · split <;> simp
    · rfl
  | port p =>
    have ht := s.takeTyped_memoryWf p flitType m
    dsimp only
    split <;> (rename_i he; rw [he] at ht)
    · split <;> exact ht
    · exact ht

@[simp] theorem State.sendMsg_memoryWf (s : State) (i : Nat) (flitType : Nat) (type : Nat) (dst : Nat) (body : Bytes) :
    (s.sendMsg i flitType type dst body).memoryWf ↔ s.memoryWf :=
  by simp [State.sendMsg]

@[simp] theorem State.sendUp_memoryWf (s : State) (i : Nat) (flitType : Nat) (type : Nat) (body : Bytes) :
    (s.sendUp i flitType type body).memoryWf ↔ s.memoryWf := by
  unfold State.sendUp
  dsimp only
  split <;> simp

@[simp] theorem State.sendGateways_memoryWf (s : State) (i : Nat) (flitType : Nat) (type : Nat) (body : Bytes) :
    (s.sendGateways i flitType type body).memoryWf ↔ s.memoryWf :=
  by simp [State.sendGateways]

@[simp] theorem State.sealSummaryDue_memoryWf (s : State) (i : Nat) : (s.sealSummaryDue i).memoryWf ↔ s.memoryWf := by
  unfold State.sealSummaryDue
  dsimp only
  split <;> simp

@[simp] theorem State.rollSummaryDue_memoryWf (s : State) (i : Nat) : (s.rollSummaryDue i).memoryWf ↔ s.memoryWf := by
  unfold State.rollSummaryDue
  dsimp only
  split <;> simp

@[simp] theorem execSummaryDeadline_memoryWf {s : State} (h : s.memoryWf) (i : Nat) : Out.memoryWf (execSummaryDeadline i s) :=
  by simp [execSummaryDeadline, h]

@[simp] theorem execSummary_memoryWf {s : State} (h : s.memoryWf) (p : Nat) (m : Bytes) : Out.memoryWf (execSummary p m s) := by
  unfold execSummary
  rw [Out.next_memoryWf]
  extract_lets kind
  split <;>
  · rename_i he
    have ht := ((s.takeMsg_memoryWf (.port p) 5 kind m).2 h).of_fst he
    simpa using ht

@[simp] theorem execRollCallPostmark_memoryWf {s : State} (h : s.memoryWf) (i : Nat) :
    Out.memoryWf (execRollCallPostmark i s) := by
  unfold execRollCallPostmark
  dsimp only
  split <;> simp [h]

@[simp] theorem State.relay_memoryWf (s : State) (g : Msg) (type : Nat) (fit : Bool) :
    (s.relay g type fit).memoryWf ↔ s.memoryWf :=
  by simp [State.relay]

@[simp] theorem execRollCallMessage_memoryWf {s : State} (h : s.memoryWf) (sender : RollSender) (m : Bytes) :
    Out.memoryWf (execRollCallMessage sender m s) := by
  unfold execRollCallMessage
  rw [Out.next_memoryWf]
  split <;> (rename_i he; have ht := ((s.takeMsg_memoryWf sender.rx 7 4 m).2 h).of_fst he)
  · extract_lets x rank
    split
    · rw [State.relay_memoryWf, State.onSession_memoryWf]
      exact ht
    · simpa using ht
  · exact ht

@[simp] theorem execRollCallDecide_memoryWf {s : State} (h : s.memoryWf) (i : Nat) : Out.memoryWf (execRollCallDecide i s) := by
  unfold execRollCallDecide
  dsimp only
  split <;> simp [h]

@[simp] theorem execVerdict_memoryWf {s : State} (h : s.memoryWf) (rx : Rx) (m : Bytes) : Out.memoryWf (execVerdict rx m s) := by
  unfold execVerdict
  rw [Out.next_memoryWf]
  split <;> (rename_i he; have ht := ((s.takeMsg_memoryWf rx 8 4 m).2 h).of_fst he)
  · dsimp only
    split <;> simp [ht]
  · exact ht

@[simp] theorem State.openEpoch_memoryWf (s : State) (i : Nat) (e : W64) : (s.openEpoch i e).memoryWf ↔ s.memoryWf :=
  by simp [State.openEpoch]

@[simp] theorem State.epochDue_memoryWf (s : State) (i : Nat) : (s.epochDue i).memoryWf ↔ s.memoryWf := by
  unfold State.epochDue
  repeat' split
  all_goals simp

@[simp] theorem execEpochOpen_memoryWf {s : State} (h : s.memoryWf) (i : Nat) : Out.memoryWf (execEpochOpen i s) :=
  by simp [execEpochOpen, h]

@[simp] theorem execStepSeal_memoryWf {s : State} (h : s.memoryWf) (o : OpRef) : Out.memoryWf (execStepSeal o s) := by
  unfold execStepSeal
  dsimp only
  split <;> simp [h]

@[simp] theorem execVote_memoryWf {s : State} (h : s.memoryWf) (rx : Rx) (m : Bytes) : Out.memoryWf (execVote rx m s) := by
  unfold execVote
  rw [Out.next_memoryWf]
  split <;>
  · rename_i he
    have ht := ((s.takeMsg_memoryWf rx 4 2 m).2 h).of_fst he
    simpa using ht

@[simp] theorem execSealCollectionClose_memoryWf {s : State} (h : s.memoryWf) (i : Nat) :
    Out.memoryWf (execSealCollectionClose i s) := by
  unfold execSealCollectionClose
  dsimp only
  split <;> simp [h]

@[simp] theorem execDecision_memoryWf {s : State} (h : s.memoryWf) (rx : Rx) (m : Bytes) : Out.memoryWf (execDecision rx m s) := by
  unfold execDecision
  rw [Out.next_memoryWf]
  split <;> (rename_i he; have ht := ((s.takeMsg_memoryWf rx 6 3 m).2 h).of_fst he)
  · dsimp only
    split <;> simp [ht]
  · exact ht

@[simp] theorem State.voidSlots_memoryWf (s : State) (x : Session) : (s.voidSlots x).memoryWf ↔ s.memoryWf :=
  by simp [State.voidSlots]

@[simp] theorem State.applyRecord_memoryWf (s : State) (i : Nat) (r : Bytes) : (s.applyRecord i r).memoryWf ↔ s.memoryWf := by
  unfold State.applyRecord
  dsimp only
  repeat' split
  all_goals simp

@[simp] theorem execSealFlip_memoryWf {s : State} (h : s.memoryWf) (i : Nat) : Out.memoryWf (execSealFlip i s) := by
  unfold execSealFlip
  dsimp only
  repeat' split
  all_goals simp [h]

end Sys2Proof.Machine
end

section
/-! PROOFS. O59. What far moves, checkpoints, the sweep, mailboxes, sessions and their ends keep of the memories' form. -/

namespace Sys2Proof.Machine

@[simp] theorem Job.readFar_memoryWf {j : Job} (h : j.st.memoryWf) (off len : Nat) : (j.readFar off len).1.st.memoryWf := by
  unfold Job.readFar
  refine Job.foldl_fst_memoryWf (fun a q ha => ?_) _ h
  simp only []
  split
  · split
    · exact ha
    · have hr := State.readLine_memoryWf ha a.1.sess (.far a.1.sess) q.1 false
      generalize a.1.st.readLine a.1.sess (.far a.1.sess) q.1 false = w at hr
      exact hr
  · exact ha

@[simp] theorem Job.writeFar_memoryWf {j : Job} (h : j.st.memoryWf) (off : Nat) (b : Bytes) : (j.writeFar off b).st.memoryWf := by
  unfold Job.writeFar
  refine Job.foldl_memoryWf h (fun k q hk => ?_) _
  generalize slice b (64 * q.1 + q.2.1 - off) q.2.2 = d
  split
  · simp only []
    split
    · exact hk
    · have hw := State.writeLine_memoryWf hk k.sess (.far k.sess) q.1 q.2.1 d
      generalize k.st.writeLine k.sess (.far k.sess) q.1 q.2.1 d = w at hw
      exact hw
  · exact hk

@[simp] theorem Job.movePage_memoryWf {j : Job} (h : j.st.memoryWf) (d : Bytes) (n : Nat) (k : Nat) :
    (j.movePage d n k).st.memoryWf := by
  unfold Job.movePage
  dsimp only
  repeat' split
  all_goals simp [h]

@[simp] theorem Job.movePages_memoryWf {j : Job} (h : j.st.memoryWf) (d : Bytes) (n : Nat) : (j.movePages d n).st.memoryWf :=
  Job.foldl_memoryWf h (fun _ _ h => Job.movePage_memoryWf h _ _ _) _

@[simp] theorem execFarMove_memoryWf {s : State} (h : s.memoryWf) (o : OpRef) : Out.memoryWf (execFarMove o s) := by
  unfold execFarMove
  split <;> simp [h]

/-- What a page met put back. -/
theorem State.restoreCond_memoryWf {s : State} (h : s.memoryWf) (sp : Space) (was : LineCond) (f : FarFault) :
    (s.onChan sp fun ch => if ch.condAt f = LineCond.uncorrectable then ch.setCondAt was f else ch).memoryWf :=
  State.onChan_memoryWf h sp fun ch hc => by
    split
    · exact hc.setCondAt was f
    · exact hc

@[simp] theorem Job.failPage_memoryWf {j : Job} (h : j.st.memoryWf) (d : Bytes) (line pick : Nat) :
    (j.failPage d line pick).st.memoryWf := by
  unfold Job.failPage
  extract_lets sp choices k j3
  have h3 : j3.st.memoryWf := by
    unfold j3
    split
    · rename_i f _
      have h1 : (j.st.onChan sp fun ch => ch.setCondAt .uncorrectable f).memoryWf :=
        State.onChan_memoryWf h _ fun ch hc => hc.setCondAt _ _
      have h2 := Job.movePage_memoryWf (j := { j with st := j.st.onChan sp fun ch => ch.setCondAt .uncorrectable f }) h1 d 4096 k
      exact State.restoreCond_memoryWf h2 sp _ f
    · split
      · exact Job.movePage_memoryWf h _ _ _
      · exact h
  clear_value j3
  split
  · rw [Job.meet_st]
    exact (State.onMem_memoryWf _ _ _).2 h3
  · exact h3

@[simp] theorem execUioCompletion_memoryWf {s : State} (h : s.memoryWf) (i : Nat) (st : UioStatus) :
    Out.memoryWf (execUioCompletion i st s) := by
  unfold execUioCompletion
  dsimp only
  repeat' split
  all_goals simp [h]

@[simp] theorem execFarMoveTimeout_memoryWf {s : State} (h : s.memoryWf) (o : OpRef) :
    Out.memoryWf (execFarMoveTimeout o s) := by
  unfold execFarMoveTimeout
  split <;> simp [h]

@[simp] theorem Job.exportChunk_memoryWf {j : Job} (h : j.st.memoryWf) (p : Op) (id : Nat) (salt : Bytes) (k : Nat) :
    (j.exportChunk p id salt k).st.memoryWf := by
  unfold Job.exportChunk
  dsimp only
  split <;> simp [h]

@[simp] theorem execCkptExport_memoryWf {s : State} (h : s.memoryWf) (o : OpRef) : Out.memoryWf (execCkptExport o s) := by
  unfold execCkptExport
  rw [Out.next_memoryWf]
  split
  · dsimp only
    split
    · simp [h]
    · split
      · rw [State.finishOp_memoryWf]
        exact Job.foldl_memoryWf (by simp [h]) (fun _ _ h => Job.exportChunk_memoryWf h _ _ _ _) _
      · exact h
  · exact h

@[simp] theorem Job.importChunk_memoryWf {j : Job} (h : j.st.memoryWf) (p : Op) (salt : Bytes) (k : Nat) :
    (j.importChunk p salt k).st.memoryWf := by
  unfold Job.importChunk
  dsimp only
  repeat' split
  all_goals simp [h]

@[simp] theorem execCkptImport_memoryWf {s : State} (h : s.memoryWf) (o : OpRef) : Out.memoryWf (execCkptImport o s) := by
  unfold execCkptImport
  rw [Out.next_memoryWf]
  split
  · dsimp only
    split
    · simp [h]
    · split
      · rw [State.finishOp_memoryWf]
        exact Job.foldl_memoryWf (by simp [h]) (fun _ _ h => Job.importChunk_memoryWf h _ _ _) _
      · exact h
  · exact h

@[simp] theorem execSweepStep_memoryWf {s : State} (h : s.memoryWf) (c : Nat) : Out.memoryWf (execSweepStep c s) := by
  unfold execSweepStep
  rw [Out.next_memoryWf]
  extract_lets sp
  split
  · split
    · exact State.endSweep_memoryWf (State.sweepGroup_memoryWf h _ _ _ fun ch hc => hc.sweptTo _) _ _
    · exact h
  · exact h

@[simp] theorem State.setMailbox_memoryWf (s : State) (n : Nat) (m : Mailbox) : (s.setMailbox n m).memoryWf ↔ s.memoryWf :=
  Iff.rfl

@[simp] theorem State.done_memoryWf (s : State) (mb : Nat) (st : Status) (detail : Nat) (body : Bytes) :
    (s.done mb st detail body).memoryWf ↔ s.memoryWf :=
  Iff.rfl

@[simp] theorem State.passTurns_memoryWf (n : Nat) (s : State) : (State.passTurns n s).memoryWf ↔ s.memoryWf := by
  induction n generalizing s with
  | zero => rfl
  | succ n ih =>
    rw [State.passTurns]
    split
    · simp [ih]
    · rfl

@[simp] theorem State.passTurn_memoryWf (s : State) : s.passTurn.memoryWf ↔ s.memoryWf := by simp [State.passTurn]

@[simp] theorem State.respond_memoryWf (s : State) (r : Req) (p : Resp) : (s.respond r p).memoryWf ↔ s.memoryWf :=
  by simp [State.respond]

@[simp] theorem State.acceptKey_memoryWf (s : State) (r : Req) : (s.acceptKey r).memoryWf ↔ s.memoryWf :=
  by simp [State.acceptKey]

theorem State.serve_memoryWf {s : State} (h : s.memoryWf) (mb code : Nat) (c : Carriage) (a : Access) (pick : Bytes → Bool)
    {effect : State → Req → State × Option Resp} (hf : ∀ s r, s.memoryWf → (effect s r).1.memoryWf) :
    (s.serve mb code c a pick effect).memoryWf := by
  unfold State.serve
  split
  · split
    · simp [h]
    · rename_i r _
      split
      · extract_lets t st
        have ht := hf t r (by simp [t, h])
        split
        · simp [t, h]
        · split <;> (rename_i he; simpa using ht.of_fst he)
      · exact h
  · exact h

/-- A mailbox command whose effect keeps the canonical form keeps it. -/
theorem State.serve_out_memoryWf {s : State} (h : s.memoryWf) {mb code : Nat} {c : Carriage} {a : Access} {pick : Bytes → Bool}
    {effect : State → Req → State × Option Resp} (hf : ∀ s r, s.memoryWf → (effect s r).1.memoryWf) :
    Out.memoryWf (.next (s.serve mb code c a pick effect)) :=
  (Out.next_memoryWf _).2 (State.serve_memoryWf h mb code c a pick hf)

@[simp] theorem State.respondLate_memoryWf (s : State) (mb : Nat) (p : Resp) : (s.respondLate mb p).memoryWf ↔ s.memoryWf :=
  by simp [State.respondLate]

@[simp] theorem State.entryFor_memoryWf (s : State) (r : Req) (key : Bytes) : (s.entryFor r key).2.memoryWf ↔ s.memoryWf := Iff.rfl

@[simp] theorem State.setPend_memoryWf (s : State) (r : Req) (l : List Pending) : (s.setPend r l).memoryWf ↔ s.memoryWf :=
  by simp [State.setPend]

@[simp] theorem State.endPending_memoryWf (s : State) (i : Nat) (code : Nat) (p : Pending → Bool) (st : Status) :
    (s.endPending i code p st).memoryWf ↔ s.memoryWf :=
  Iff.rfl

@[simp] theorem State.setSlot_memoryWf (s : State) (n : Nat) (k : KeySlot) : (s.setSlot n k).memoryWf ↔ s.memoryWf := Iff.rfl

@[simp] theorem State.strikeSlot_memoryWf {s : State} (h : s.memoryWf) (n : Nat) : (s.strikeSlot n).memoryWf := by
  unfold State.strikeSlot
  split <;> simp [h]

@[simp] theorem State.releaseSlot_memoryWf (s : State) (n : Nat) : (s.releaseSlot n).memoryWf ↔ s.memoryWf := Iff.rfl

@[simp] theorem State.settleSlot_memoryWf (s : State) (n : Nat) : (s.settleSlot n).memoryWf ↔ s.memoryWf := Iff.rfl

@[simp] theorem State.keySession_memoryWf (s : State) (i : Nat) (k : SlotKind) (key : Bytes) :
    (s.keySession i k key).memoryWf ↔ s.memoryWf := by
  unfold State.keySession
  split <;> rfl

@[simp] theorem State.bindSlots_memoryWf (s : State) (i : Nat) (l : List SlotKind) : (s.bindSlots i l).memoryWf ↔ s.memoryWf := by
  induction l generalizing s with
  | nil => rfl
  | cons k l ih =>
    rw [State.bindSlots]
    split
    · dsimp only
      rw [ih]
      split <;> simp
    · rfl

@[simp] theorem State.bindAll_memoryWf {s : State} (h : s.memoryWf) (i : Nat) (x : Session) : (s.bindAll i x).memoryWf := by
  unfold State.bindAll
  extract_lets t slots
  suffices t.memoryWf from this
  rw [State.memoryWf_iff] at h ⊢
  refine (h.withChannels ?_).setFar i ((Channel.wf_iff _).1 Channel.reset_wf)
  refine vget_all.2 ⟨(Channel.wf_iff _).1 Channel.reset_wf, fun k hk => ?_⟩
  rw [Vector.getElem_ofFn]
  split
  · exact h.1 k
  · exact (h.1 k).emptied _

@[simp] theorem State.openSession_memoryWf {s : State} (h : s.memoryWf) (r : Req) : (s.openSession r).1.memoryWf := by
  unfold State.openSession
  extract_lets b n ca pa c ps digests
  split
  · exact h
  split
  · exact h
  split
  · exact h
  split
  · exact h
  split
  · exact h
  split
  · exact h
  split
  · exact h
  split
  · exact h
  · exact State.bindAll_memoryWf (by simp [h]) _ _

@[simp] theorem execSessionOpen_memoryWf {s : State} (h : s.memoryWf) (mb : Nat) : Out.memoryWf (execSessionOpen mb s) := by
  unfold execSessionOpen
  exact State.serve_out_memoryWf h fun t r ht => by simp [ht]

@[simp] theorem State.becomeReady_memoryWf (s : State) (i : Nat) : (s.becomeReady i).memoryWf ↔ s.memoryWf :=
  by simp [State.becomeReady]

@[simp] theorem State.join_memoryWf (s : State) (r : Req) : (s.join r).1.memoryWf ↔ s.memoryWf := by simp [State.join]

@[simp] theorem execPartyJoin_memoryWf {s : State} (h : s.memoryWf) (mb : Nat) : Out.memoryWf (execPartyJoin mb s) := by
  unfold execPartyJoin
  exact State.serve_out_memoryWf h fun t r ht => by simp [ht]

@[simp] theorem State.dropResets_memoryWf (s : State) (p : Nat) (st : Status) : (s.dropResets p st).memoryWf ↔ s.memoryWf :=
  by simp [State.dropResets]

@[simp] theorem State.endIngests_memoryWf (s : State) (i : Nat) (p : Ingest → Bool) (st : Status) :
    (s.endIngests i p st).memoryWf ↔ s.memoryWf :=
  by simp [State.endIngests]

@[simp] theorem State.acceptClose_memoryWf (s : State) (i : Nat) (mailbox : Option Nat) :
    (s.acceptClose i mailbox).memoryWf ↔ s.memoryWf :=
  Iff.rfl

@[simp] theorem State.dropLeaves_memoryWf (s : State) (i : Nat) (p : Nat) : (s.dropLeaves i p).memoryWf ↔ s.memoryWf :=
  by simp [State.dropLeaves]

@[simp] theorem State.strikeParty_memoryWf {s : State} (h : s.memoryWf) (i : Nat) (p : Nat) : (s.strikeParty i p).memoryWf := by
  unfold State.strikeParty
  split <;> simp [h]

@[simp] theorem execPartyStrike_memoryWf {s : State} (h : s.memoryWf) (i : Nat) (p : Nat) :
    Out.memoryWf (execPartyStrike i p s) := by
  unfold execPartyStrike
  dsimp only
  split <;> simp [h]

@[simp] theorem State.strikeSession_memoryWf {s : State} (h : s.memoryWf) (i : Nat) : (s.strikeSession i).memoryWf := by
  unfold State.strikeSession
  extract_lets s1 s2 s3 ports s4
  have h1 : s1.memoryWf := h.foldl (fun s n hs => by split <;> simp [hs]) _
  have h2 : s2.memoryWf := by
    exact (State.endIngests_memoryWf _ _ _ _).2 h1
  have h3 : s3.memoryWf := h2.foldl (fun s p hs => by split <;> simp [hs]) _
  rw [State.onSession_memoryWf]
  unfold s4
  rw [State.mk_memoryWf, memoriesWf_self]
  exact h3

@[simp] theorem execSessionCloseStrike_memoryWf {s : State} (h : s.memoryWf) (i : Nat) :
    Out.memoryWf (execSessionCloseStrike i s) := by
  unfold execSessionCloseStrike
  split <;> simp [h]

@[simp] theorem State.clearBanks_memoryWf {s : State} (h : s.memoryWf) (x : Session) (f : Nat → Bool) : (s.clearBanks x f).memoryWf := by
  rw [State.memoryWf_iff] at h ⊢
  refine h.withDies ((vget_all (P := fun d : Die => Memory.wf d.store = true)).2 ⟨rfl, fun d hd => ?_⟩)
  simp only [State.clearBanks, Vector.getElem_ofFn]
  exact Table.wf_filter _ (h.2.2.1 d)

@[simp] theorem State.clearChannels_memoryWf {s : State} (h : s.memoryWf) (i : Nat) (f : Nat → Bool) : (s.clearChannels i f).memoryWf := by
  rw [State.memoryWf_iff] at h ⊢
  refine h.withChannels (vget_all.2 ⟨(Channel.wf_iff _).1 Channel.reset_wf, fun c hc => ?_⟩)
  have hch := (vget_all.1 h.1).2 c hc
  simp only [State.clearChannels, Vector.getElem_map]
  split
  · split
    · exact hch.emptied none
    · exact hch
  · exact hch

/-- Entries taken out of a channel's tables, and cache entries marked dirty. -/
theorem Channel.Canonical.cleared {ch : Channel} (hc : ch.Canonical) (f g h k m n p : Nat → Bool) :
    Channel.Canonical { ch with
      data := ch.data.filter fun e => f e.1
      counters := ch.counters.filter fun e => g e.1
      lines := ch.lines.filter fun e => h e.1
      tagLines := ch.tagLines.filter fun e => k e.1
      versions := ch.versions.filter fun e => m e.1
      cache := (ch.cache.filter fun e => m e.1).map fun e => if n e.1 then (e.1, some true) else e
      failed := ch.failed.filter fun e => p e.1 } where
  data := Table.wf_filter _ hc.data
  counters := Table.wf_filter _ hc.counters
  minors := fun e he => hc.minors e (List.mem_filter.1 he).1
  versions := Table.wf_filter _ hc.versions
  cache := Table.wf_mark _ (by simp) (Table.wf_filter _ hc.cache)
  stored := hc.stored
  lines := Table.wf_filter _ hc.lines
  tagLines := Table.wf_filter _ hc.tagLines
  groups := hc.groups
  nodes := hc.nodes

@[simp] theorem State.clearFar_memoryWf {s : State} (h : s.memoryWf) (i o : Nat) : (s.clearFar i o).memoryWf := by
  unfold State.clearFar
  extract_lets x r inside within above
  exact State.onChan_memoryWf h _ fun ch hc => hc.cleared (fun a => !inside a) (fun p => !inside (4096 * p)) (fun l => !inside (64 * l))
    (fun t => !inside (512 * t)) (fun k => !within k) above fun k => !within k

@[simp] theorem State.finishRemovals_memoryWf {s : State} (h : s.memoryWf) (i : Nat) : (s.finishRemovals i).memoryWf := by
  unfold State.finishRemovals
  refine h.foldl (fun s p hs => ?_) _
  dsimp only
  refine State.endSweep_memoryWf ?_ _ _
  rw [State.endPending_memoryWf, State.onSession_memoryWf]
  refine State.clearFar_memoryWf (State.clearBanks_memoryWf (State.clearChannels_memoryWf ?_ _ _) _ _) _ _
  split <;> simp [hs]

@[simp] theorem State.clearMailboxes_memoryWf (s : State) (i : Nat) (keep : Option Nat) :
    (s.clearMailboxes i keep).memoryWf ↔ s.memoryWf :=
  by simp [State.clearMailboxes]

@[simp] theorem State.finishClose_memoryWf {s : State} (h : s.memoryWf) (i : Nat) : (s.finishClose i).memoryWf := by
  unfold State.finishClose
  extract_lets x served mailbox s1 s2 s3 s4 s5 s6
  clear_value mailbox
  have h1 : s1.memoryWf := by
    unfold s1
    split <;> simp [h]
  have h2 : s2.memoryWf := by simpa [s2] using h1
  have h4 : s4.memoryWf := by simp [s4, s3, h2]
  have h5 : s5.memoryWf := by
    rw [State.memoryWf_iff] at h4 ⊢
    refine (h4.setFar i ((Channel.wf_iff _).1 Channel.reset_wf)).withDies
      ((vget_all (P := fun d : Die => Memory.wf d.store = true)).2 ⟨rfl, fun d hd => ?_⟩)
    simp only [s5, Vector.getElem_ofFn]
    split <;> exact h4.2.2.1 d
  split <;> simpa [s6] using h5

@[simp] theorem State.quiesced_memoryWf {s : State} (h : s.memoryWf) (i : Nat) : (s.quiesced i).memoryWf := by
  unfold State.quiesced
  dsimp only
  repeat' split
  all_goals simp [h]

@[simp] theorem execEngineQuiescent_memoryWf {s : State} (h : s.memoryWf) (i : Nat) (e : Engine) :
    Out.memoryWf (execEngineQuiescent i e s) :=
  by simp [execEngineQuiescent, h]

@[simp] theorem State.forceQuiet_memoryWf {s : State} (h : s.memoryWf) (i : Nat) (e : Engine) : (s.forceQuiet i e).memoryWf := by
  unfold State.forceQuiet
  extract_lets x closing l t
  have ht : t.memoryWf := by simpa [t] using h
  split
  · rw [State.memoryWf_iff] at ht ⊢
    exact ht.setDie _ (ht.2.2.1 _)
  · simpa using ht
  · refine ht.foldl (fun s p hs => ?_) _
    split <;> simp [hs]
  · exact ht

@[simp] theorem execQuiesceDeadline_memoryWf {s : State} (h : s.memoryWf) (i : Nat) : Out.memoryWf (execQuiesceDeadline i s) := by
  unfold execQuiesceDeadline
  rw [Out.next_memoryWf]
  dsimp only
  split
  · refine State.quiesced_memoryWf ?_ _
    exact h.foldl (fun _ _ h => State.forceQuiet_memoryWf h _ _) _
  · exact h

@[simp] theorem State.removeParty_memoryWf (s : State) (r : Req) : (s.removeParty r).1.memoryWf ↔ s.memoryWf := by
  unfold State.removeParty
  dsimp only
  repeat' split
  all_goals simp

@[simp] theorem execPartyRemove_memoryWf {s : State} (h : s.memoryWf) (mb : Nat) : Out.memoryWf (execPartyRemove mb s) := by
  unfold execPartyRemove
  exact State.serve_out_memoryWf h fun t r ht => by simp [ht]

@[simp] theorem execSessionClose_memoryWf {s : State} (h : s.memoryWf) (mb : Nat) : Out.memoryWf (execSessionClose mb s) := by
  unfold execSessionClose
  refine State.serve_out_memoryWf h fun t r ht => ?_
  split <;> simp [ht]

end Sys2Proof.Machine
end

section
/-! PROOFS. O59. What resets, the life cycle, power, clocks and firmware keep of the memories' form. -/

namespace Sys2Proof.Machine

@[simp] theorem State.ledgerWrite_memoryWf (s : State) (key : Nat) (method : Bool) (outcome : Nat) (elapsed : Nat)
    (detail : W32) :
    (s.ledgerWrite key method outcome elapsed detail).memoryWf ↔ s.memoryWf :=
  Iff.rfl

@[simp] theorem State.settleFallback_memoryWf (s : State) (key : Nat) (method : Bool) (good : Bool) :
    (s.settleFallback key method good).memoryWf ↔ s.memoryWf :=
  by simp [State.settleFallback]

@[simp] theorem State.logReset_memoryWf (s : State) (l : List (Nat × Reach)) (reach : Nat) (timedOut : Bool) (target : Nat) :
    (s.logReset l reach timedOut target).memoryWf ↔ s.memoryWf :=
  Iff.rfl

@[simp] theorem State.logWatch_memoryWf (s : State) (event : Nat) (sensor : Nat) (median : ℤ) :
    (s.logWatch event sensor median).memoryWf ↔ s.memoryWf :=
  Iff.rfl

@[simp] theorem State.settlePins_memoryWf (s : State) : s.settlePins.memoryWf ↔ s.memoryWf := Iff.rfl

@[simp] theorem State.loseSession_memoryWf {s : State} (h : s.memoryWf) (i : Nat) : (s.loseSession i).memoryWf :=
  by simp [State.loseSession, h]

/-- Dies that have lost their contents. -/
theorem MemoriesWf.resetDies {channels : Vector Channel 64} {far : Vector Channel 4} {dies : Vector Die 4} {memory : Memory}
    (h : MemoriesWf channels far dies memory) : MemoriesWf channels far (Vector.replicate 4 Die.reset) memory := by
  refine h.withDies ((vget_all (P := fun d : Die => Memory.wf d.store = true)).2 ⟨rfl, fun d hd => ?_⟩)
  rw [Vector.getElem_replicate]
  rfl

@[simp] theorem State.warmReset_memoryWf {s : State} (h : s.memoryWf) : s.warmReset.memoryWf := by
  unfold State.warmReset
  extract_lets t
  have ht : t.memoryWf := h.foldl (fun _ _ h => State.loseSession_memoryWf h _) _
  clear_value t
  rw [State.mk_memoryWf]
  exact MemoriesWf.resetDies ((memoriesWf_self t).2 ht)

@[simp] theorem State.coldReset_memoryWf (s : State) : s.coldReset.memoryWf ↔ s.memoryWf := Iff.rfl

@[simp] theorem State.powerOnReset_memoryWf {s : State} (h : s.memoryWf) : s.powerOnReset.memoryWf :=
  by simp [State.powerOnReset, h]

@[simp] theorem State.enterReset_memoryWf {s : State} (h : s.memoryWf) (r : Reach) : (s.enterReset r).memoryWf :=
  by simp [State.enterReset, h]

@[simp] theorem State.askIdle_memoryWf (s : State) (b : BlockTarget) : (s.askIdle b).memoryWf ↔ s.memoryWf :=
  by simp [State.askIdle]

@[simp] theorem State.assertAt_memoryWf {s : State} (h : s.memoryWf) (n : Nat) (r : Reach) (t : ResetTarget) :
    (s.assertAt n r t).memoryWf := by
  unfold State.assertAt
  dsimp only
  split <;> simp [h]

@[simp] theorem State.assertSource_memoryWf {s : State} (h : s.memoryWf) (n : Nat) (t : ResetTarget) :
    (s.assertSource n t).memoryWf := by
  unfold State.assertSource
  repeat' split
  all_goals simp [h]

@[simp] theorem State.deassert_memoryWf (s : State) (n : Nat) (f : ResetTarget → Bool) :
    (s.deassert n f).memoryWf ↔ s.memoryWf :=
  Iff.rfl

@[simp] theorem State.linkDown_memoryWf (s : State) : s.linkDown.memoryWf ↔ s.memoryWf := by simp [State.linkDown]

@[simp] theorem State.clearBlock_memoryWf {s : State} (h : s.memoryWf) (b : BlockTarget) : (s.clearBlock b).memoryWf := by
  unfold State.clearBlock
  split
  · simp [h]
  · rw [State.mk_memoryWf]
    exact ((memoriesWf_self s).2 h).setDie _ (h.store _)
  · rw [State.mk_memoryWf]
    exact ((memoriesWf_self s).2 h).setDie _ (h.store _)
  · simpa using h
  · exact h.foldl (fun _ _ h => State.flush_memoryWf h _ _) _
  · simpa using h
  · exact h
  · exact h
  · exact h

@[simp] theorem State.releaseBlock_memoryWf (s : State) (b : BlockTarget) : (s.releaseBlock b).memoryWf ↔ s.memoryWf := by
  unfold State.releaseBlock
  split <;> simp

@[simp] theorem State.markBlock_memoryWf (s : State) (b : BlockTarget) (late : Bool) :
    (s.markBlock b late).memoryWf ↔ s.memoryWf :=
  Iff.rfl

@[simp] theorem State.releaseDomain_memoryWf (s : State) (d : Nat) : (s.releaseDomain d).memoryWf ↔ s.memoryWf :=
  by simp [State.releaseDomain]

@[simp] theorem State.markStep_memoryWf (s : State) (key : Nat) (bad : Bool) : (s.markStep key bad).memoryWf ↔ s.memoryWf :=
  Iff.rfl

@[simp] theorem State.loseUnit_memoryWf (s : State) (key : Nat) : (s.loseUnit key).memoryWf ↔ s.memoryWf :=
  by simp [State.loseUnit]

@[simp] theorem State.lockedStep_memoryWf (s : State) (elapsed : Nat) (key : Nat) :
    (s.lockedStep elapsed key).memoryWf ↔ s.memoryWf :=
  by simp [State.lockedStep]

@[simp] theorem State.skipStep_memoryWf (s : State) (elapsed : Nat) (key : Nat) :
    (s.skipStep elapsed key).memoryWf ↔ s.memoryWf :=
  by simp [State.skipStep]

@[simp] theorem State.openPhase_memoryWf (s : State) (p : Nat) (elapsed : Nat) :
    (s.openPhase p elapsed).memoryWf ↔ s.memoryWf :=
  by simp [State.openPhase]

@[simp] theorem State.settlePhase_memoryWf (n : Nat) (s : State) (elapsed : Nat) :
    (State.settlePhase n s elapsed).memoryWf ↔ s.memoryWf := by
  induction n generalizing s with
  | zero => rfl
  | succ n ih =>
    rw [State.settlePhase]
    split
    · rw [ih, State.openPhase_memoryWf]
    · rfl

@[simp] theorem State.halt_memoryWf (s : State) : s.halt.memoryWf ↔ s.memoryWf := Iff.rfl

@[simp] theorem State.endStep_memoryWf (s : State) (key : Nat) (method : Bool) (outcome : Nat) (elapsed : Nat) (detail : W32) :
    (s.endStep key method outcome elapsed detail).memoryWf ↔ s.memoryWf :=
  by simp [State.endStep]

@[simp] theorem State.countStart_memoryWf (s : State) : s.countStart.memoryWf ↔ s.memoryWf := Iff.rfl

@[simp] theorem State.clearPoste_memoryWf (s : State) : s.clearPoste.memoryWf ↔ s.memoryWf := Iff.rfl

@[simp] theorem State.phase0_memoryWf {s : State} (h : s.memoryWf) : s.phase0.memoryWf := by simp [State.phase0, h]

@[simp] theorem State.keepQuarters_memoryWf {s : State} (h : s.memoryWf) : s.keepQuarters.memoryWf := by
  unfold State.keepQuarters
  rw [State.mk_memoryWf]
  refine ((memoriesWf_self s).2 h).withDies ((vget_all (P := fun d : Die => Memory.wf d.store = true)).2 ⟨rfl, fun d hd => ?_⟩)
  rw [Vector.getElem_ofFn]
  exact h.store d

@[simp] theorem State.beginStart_memoryWf {s : State} (h : s.memoryWf) (r : Reach) : (s.beginStart r).memoryWf := by
  unfold State.beginStart
  extract_lets resume own p l s1 k fw lc power s2 s3 s4
  have h1 : s1.memoryWf := by
    unfold s1
    split <;> simp [h]
  have h3 : s3.memoryWf := State.keepQuarters_memoryWf h1
  have h4 : s4.memoryWf := by
    unfold s4
    split <;> simp [h3]
  simpa using h4

@[simp] theorem execResetRelease_memoryWf {s : State} (h : s.memoryWf) : Out.memoryWf (execResetRelease s) := by
  unfold execResetRelease
  split <;> simp [h]

@[simp] theorem State.wipe_memoryWf {s : State} (h : s.memoryWf) (k : Nat) : (s.wipe k).memoryWf := by
  unfold State.wipe
  split
  · extract_lets slots t
    have ht : t.memoryWf := h.foldl (fun _ _ h => State.keepStored_memoryWf h _) _
    rw [State.mk_memoryWf]
    exact (memoriesWf_self t).2 ht
  split
  · rw [State.mk_memoryWf]
    exact ((memoriesWf_self s).2 h).mapDies fun _ _ => rfl
  split
  · exact h
  split
  · exact h
  split <;> exact h

@[simp] theorem State.lcStep_memoryWf {s : State} (h : s.memoryWf) (n : Nat) (k : Nat) : (s.lcStep n k).memoryWf :=
  by simp [State.lcStep, h]

@[simp] theorem execTransitionStepDone_memoryWf {s : State} (h : s.memoryWf) : Out.memoryWf (execTransitionStepDone s) := by
  unfold execTransitionStepDone
  repeat' split
  all_goals simp [h]

@[simp] theorem State.lcResume_memoryWf (s : State) (elapsed : Nat) : (s.lcResume elapsed).memoryWf ↔ s.memoryWf := by
  unfold State.lcResume
  split <;> simp

@[simp] theorem execLcStatus_memoryWf {s : State} (h : s.memoryWf) (mb : Nat) : Out.memoryWf (execLcStatus mb s) := by
  unfold execLcStatus
  refine State.serve_out_memoryWf h fun t r ht => ?_
  split <;> exact ht

@[simp] theorem execLcChallenge_memoryWf {s : State} (h : s.memoryWf) (mb : Nat) : Out.memoryWf (execLcChallenge mb s) := by
  unfold execLcChallenge
  refine State.serve_out_memoryWf h fun t r ht => ?_
  split
  · exact ht
  · simp [ht]

@[simp] theorem execChallengeExpiry_memoryWf {s : State} (h : s.memoryWf) : Out.memoryWf (execChallengeExpiry s) := by
  unfold execChallengeExpiry
  split <;> simp [h]

@[simp] theorem State.requestTransition_memoryWf {s : State} (h : s.memoryWf) (r : Req) : (s.requestTransition r).1.memoryWf := by
  unfold State.requestTransition
  extract_lets key st lc t
  split
  · exact h
  · split
    · exact h
    · dsimp only
      split
      · exact h
      · simpa [t] using h

@[simp] theorem execLcTransition_memoryWf {s : State} (h : s.memoryWf) (mb : Nat) : Out.memoryWf (execLcTransition mb s) := by
  unfold execLcTransition
  exact State.serve_out_memoryWf h fun t r ht => by simp [ht]

@[simp] theorem execTestEntryInstruction_memoryWf {s : State} (h : s.memoryWf) : Out.memoryWf (execTestEntryInstruction s) :=
  by simp [execTestEntryInstruction, h]

@[simp] theorem execSamplePreload_memoryWf {s : State} (h : s.memoryWf) (pinLevels : BitVec 16) (laneLevels : Bytes)
    (preset : BitVec 16) :
    Out.memoryWf (execSamplePreload pinLevels laneLevels preset s) :=
  by simp [execSamplePreload, h]

@[simp] theorem State.whenAwake_memoryWf {s : State} (h : s.memoryWf) {f : State → State} (hf : s.memoryWf → (f s).memoryWf) :
    (s.whenAwake f).memoryWf := by
  unfold State.whenAwake
  split
  · exact hf h
  · exact h

/-- A reset source asserted unless its pin is high. -/
theorem State.assertUnless_memoryWf {s : State} (h : s.memoryWf) (c : Prop) [Decidable c] (n : Nat) (t : ResetTarget) :
    (if c then s else s.assertSource n t).memoryWf := by
  split <;> simp [h]

@[simp] theorem execStandbyPowerGood_memoryWf {s : State} (h : s.memoryWf) (grounded : Bool) (addr : BitVec 2) :
    Out.memoryWf (execStandbyPowerGood grounded addr s) := by
  unfold execStandbyPowerGood
  rw [Out.next_memoryWf]
  split
  · exact h
  · extract_lets aon power s1 s2 s3 s4 s5 s6
    have h2 : s2.memoryWf := (State.deassert_memoryWf _ _ _).2 h
    have h5 : s5.memoryWf :=
      State.assertUnless_memoryWf (State.assertUnless_memoryWf (State.assertUnless_memoryWf h2 _ _ _) _ _ _) _ _ _
    have h6 : s6.memoryWf := by
      unfold s6
      split <;> simp [h5]
    exact State.phase0_memoryWf h6

@[simp] theorem State.loseStandby_memoryWf {s : State} (h : s.memoryWf) : s.loseStandby.memoryWf :=
  by simp [State.loseStandby, h]

@[simp] theorem State.standbyOut_memoryWf (s : State) : s.standbyOut.memoryWf ↔ s.memoryWf := Iff.rfl

@[simp] theorem execSb12Loss_memoryWf {s : State} (h : s.memoryWf) : Out.memoryWf (execSb12Loss s) := by simp [execSb12Loss, h]

@[simp] theorem State.softStart_memoryWf (s : State) : s.softStart.memoryWf ↔ s.memoryWf := by simp [State.softStart]

@[simp] theorem execIn48Rise_memoryWf {s : State} (h : s.memoryWf) (mV : Nat) : Out.memoryWf (execIn48Rise mV s) := by
  unfold execIn48Rise
  split <;> simp [h]

@[simp] theorem State.losePowerGood_memoryWf {s : State} (h : s.memoryWf) : s.losePowerGood.memoryWf :=
  by simp [State.losePowerGood, h]

@[simp] theorem execModulePowerGood_memoryWf {s : State} (h : s.memoryWf) (inputs : Inputs) (heldUs : Nat) :
    Out.memoryWf (execModulePowerGood inputs heldUs s) := by
  unfold execModulePowerGood
  split <;> simp [h]

@[simp] theorem execPerstN_memoryWf {s : State} (h : s.memoryWf) (level : Bool) (widthNs : Nat) :
    Out.memoryWf (execPerstN level widthNs s) :=
  by simp [execPerstN, h]

@[simp] theorem execSysResetN_memoryWf {s : State} (h : s.memoryWf) (level : Bool) (widthNs : Nat) :
    Out.memoryWf (execSysResetN level widthNs s) :=
  by simp [execSysResetN, h]

@[simp] theorem execTrstN_memoryWf {s : State} (h : s.memoryWf) (level : Bool) (widthNs : Nat) : Out.memoryWf (execTrstN level widthNs s) := by
  unfold execTrstN
  rw [Out.next_memoryWf]
  split
  · simp [h]
  split
  · exact h
  · refine State.whenAwake_memoryWf (by simp [h]) fun ht => ?_
    rw [State.markBlock_memoryWf]
    exact State.clearBlock_memoryWf (State.assertSource_memoryWf ht _ _) _

@[simp] theorem execCxlHotReset_memoryWf {s : State} (h : s.memoryWf) (assert : Bool) :
    Out.memoryWf (execCxlHotReset assert s) :=
  by simp [execCxlHotReset, h]

@[simp] theorem State.closeQuietly_memoryWf (s : State) (i : Nat) : (s.closeQuietly i).memoryWf ↔ s.memoryWf :=
  by simp [State.closeQuietly]

theorem foldl_resetFn_memory (l : List Nat) (h : HostPort) : (l.foldl HostPort.resetFn h).memory = h.memory := by
  induction l generalizing h with
  | nil => rfl
  | cons n l ih => exact ih (h.resetFn n)

@[simp] theorem execCxlFunctionLevelReset_memoryWf {s : State} (h : s.memoryWf) : Out.memoryWf (execCxlFunctionLevelReset s) := by
  unfold execCxlFunctionLevelReset
  rw [Out.next_memoryWf]
  split
  · extract_lets t host u
    have ht : t.memoryWf := (State.foldl_memoryWf State.closeQuietly_memoryWf _ _).2 h
    have hm : host.memory = t.host.memory := foldl_resetFn_memory _ _
    clear_value t host
    refine State.assertSource_memoryWf ?_ _ _
    unfold u
    rw [State.mk_memoryWf]
    dsimp only
    rwa [hm, memoriesWf_self]
  · exact h

@[simp] theorem execVfFlr_memoryWf {s : State} (h : s.memoryWf) (vf : Nat) : Out.memoryWf (execVfFlr vf s) := by
  unfold execVfFlr
  rw [Out.next_memoryWf]
  split
  · exact h
  · split
    · exact h
    · exact (State.foldl_memoryWf State.closeQuietly_memoryWf _ _).2 h

@[simp] theorem execControlWatchdog_memoryWf {s : State} (h : s.memoryWf) (core : Nat) :
    Out.memoryWf (execControlWatchdog core s) :=
  by simp [execControlWatchdog, h]

@[simp] theorem execTamper_memoryWf {s : State} (h : s.memoryWf) (assert : Bool) : Out.memoryWf (execTamper assert s) :=
  by simp [execTamper, h]

@[simp] theorem State.setFaults_memoryWf (s : State) (f : BitVec 4) : (s.setFaults f).memoryWf ↔ s.memoryWf := Iff.rfl

@[simp] theorem State.faultQuarter_memoryWf {s : State} (h : s.memoryWf) (q : Nat) : (s.faultQuarter q).memoryWf :=
  by simp [State.faultQuarter, h]

@[simp] theorem execQuarterFault_memoryWf {s : State} (h : s.memoryWf) (q : Nat) (assert : Bool) :
    Out.memoryWf (execQuarterFault q assert s) :=
  by simp [execQuarterFault, h]

@[simp] theorem execFirmwareRequestAssert_memoryWf {s : State} (h : s.memoryWf) :
    Out.memoryWf (execFirmwareRequestAssert s) := by
  unfold execFirmwareRequestAssert
  split <;> simp [h]

@[simp] theorem State.tripSource_memoryWf {s : State} (h : s.memoryWf) (n : Nat) : (s.tripSource n).memoryWf :=
  by simp [State.tripSource, h]

@[simp] theorem execClockGoodLoss_memoryWf {s : State} (h : s.memoryWf) (d : Nat) : Out.memoryWf (execClockGoodLoss d s) := by
  unfold execClockGoodLoss
  rw [Out.next_memoryWf]
  split
  · extract_lets resets t stop watch u
    have ht : t.memoryWf := by
      unfold t
      split <;> exact h
    have hs (v : State) (hv : v.memoryWf) : (stop v).memoryWf := hv
    have hu : u.memoryWf := hs _ ht
    clear_value t stop u
    split
    · simp [hs t ht]
    split
    · simp [hs t ht]
    split
    · simp [hs t ht]
    split
    · simp [ht]
    split
    · exact (hs t ht).foldl (fun _ _ h => State.assertAt_memoryWf h _ _ _) _
    split
    · simp [ht]
    · refine State.tripSource_memoryWf ?_ _
      rwa [State.logWatch_memoryWf]
  · exact h

@[simp] theorem State.stopServing_memoryWf (s : State) (i : Nat) : (s.stopServing i).memoryWf ↔ s.memoryWf :=
  by simp [State.stopServing]

@[simp] theorem State.strikeTouching_memoryWf {s : State} (h : s.memoryWf) (q : Nat) (i : Nat) :
    (s.strikeTouching q i).memoryWf :=
  by simp [State.strikeTouching, h]

@[simp] theorem State.clearQuarter_memoryWf {s : State} (h : s.memoryWf) (q : Nat) : (s.clearQuarter q).memoryWf := by
  unfold State.clearQuarter
  rw [State.mk_memoryWf]
  exact ((memoriesWf_self s).2 h).setDie _ rfl

@[simp] theorem execQuarterReset_memoryWf {s : State} (h : s.memoryWf) (q : Nat) : Out.memoryWf (execQuarterReset q s) := by
  unfold execQuarterReset
  rw [Out.next_memoryWf]
  split
  · exact State.clearQuarter_memoryWf (h.foldl (fun _ _ h => State.strikeTouching_memoryWf h _ _) _) _
  · exact h

@[simp] theorem execQuarterResetRelease_memoryWf {s : State} (h : s.memoryWf) (q : Nat) :
    Out.memoryWf (execQuarterResetRelease q s) := by
  unfold execQuarterResetRelease
  rw [Out.next_memoryWf]
  extract_lets mine t die d resets u
  have ht : t.memoryWf := (State.logReset_memoryWf _ _ _ _ _).2 h
  have hu : u.memoryWf := by
    unfold u
    rw [State.mk_memoryWf]
    exact ((memoriesWf_self t).2 ht).setDie _ (ht.store q)
  split
  · simpa using hu
  · exact h

@[simp] theorem execBlockReset_memoryWf {s : State} (h : s.memoryWf) (b : BlockTarget) : Out.memoryWf (execBlockReset b s) := by
  unfold execBlockReset
  split <;> simp [h]

@[simp] theorem execResetFlit_memoryWf {s : State} (h : s.memoryWf) (p : Nat) (b : Bytes) : Out.memoryWf (execResetFlit p b s) := by
  unfold execResetFlit
  rw [Out.next_memoryWf]
  split <;> (rename_i he; have ht := ((s.takeTyped_memoryWf p 5 b).2 h).of_fst he)
  · split <;> simp [ht]
  · exact ht

@[simp] theorem State.logLevels_memoryWf (s : State) (a : Watch) (b : Watch) : (s.logLevels a b).memoryWf ↔ s.memoryWf :=
  by simp [State.logLevels]

@[simp] theorem State.enterPs4_memoryWf {s : State} (h : s.memoryWf) : s.enterPs4.memoryWf := by simp [State.enterPs4, h]

@[simp] theorem State.declareTrip_memoryWf {s : State} (h : s.memoryWf) (w : Watch) : (s.declareTrip w).memoryWf := by
  unfold State.declareTrip
  split <;> simp [h]

@[simp] theorem State.declareSupply_memoryWf {s : State} (h : s.memoryWf) (w : Watch) : (s.declareSupply w).memoryWf := by
  unfold State.declareSupply
  split <;> simp [h]

@[simp] theorem State.standbyMs_memoryWf (s : State) : s.standbyMs.memoryWf ↔ s.memoryWf := by simp [State.standbyMs]

@[simp] theorem execWatchPostSample_memoryWf {s : State} (h : s.memoryWf) (l : List ℤ) :
    Out.memoryWf (execWatchPostSample l s) :=
  by simp [execWatchPostSample, h]

@[simp] theorem execThermalTripRelease_memoryWf {s : State} (h : s.memoryWf) : Out.memoryWf (execThermalTripRelease s) :=
  by simp [execThermalTripRelease, h]

@[simp] theorem execSupplyFaultRelease_memoryWf {s : State} (h : s.memoryWf) : Out.memoryWf (execSupplyFaultRelease s) :=
  by simp [execSupplyFaultRelease, h]

@[simp] theorem State.lockLate_memoryWf (s : State) (d : Nat) : (s.lockLate d).memoryWf ↔ s.memoryWf := by
  unfold State.lockLate
  rw [State.settlePins_memoryWf, State.settlePhase_memoryWf, State.endStep_memoryWf]

@[simp] theorem State.releaseClock_memoryWf (s : State) (d : Nat) : (s.releaseClock d).memoryWf ↔ s.memoryWf :=
  by simp [State.releaseClock]

@[simp] theorem execClockGood_memoryWf {s : State} (h : s.memoryWf) (d lockUs : Nat) : Out.memoryWf (execClockGood d lockUs s) := by
  unfold execClockGood
  rw [Out.next_memoryWf]
  extract_lets key method resets t us
  have ht : t.memoryWf := h
  clear_value t
  split
  · exact h
  split
  · simpa using h
  split <;> simpa using ht

@[simp] theorem execClockGoodTimeout_memoryWf {s : State} (h : s.memoryWf) (d : Nat) :
    Out.memoryWf (execClockGoodTimeout d s) :=
  by simp [execClockGoodTimeout, h]

@[simp] theorem State.quarterStep_memoryWf {s : State} (h : s.memoryWf) (key : Nat) (r : StepEnd) (elapsed : Nat) (detail : W32) :
    (s.quarterStep key r elapsed detail).memoryWf := by
  unfold State.quarterStep
  extract_lets q method good s1 unavail s2 left busy die d resets
  have h1 : s1.memoryWf := by simp [s1, h]
  have h2 : s2.memoryWf := by
    unfold s2
    split <;> exact h1
  rw [State.settlePins_memoryWf, State.mk_memoryWf]
  exact ((memoriesWf_self s2).2 h2).setDie _ (h2.store q)

@[simp] theorem State.readFuses_memoryWf (s : State) : s.readFuses.memoryWf ↔ s.memoryWf := Iff.rfl

@[simp] theorem State.bringupStep_memoryWf (s : State) (key : Nat) (r : StepEnd) (elapsed : Nat) (detail : W32) :
    (s.bringupStep key r elapsed detail).memoryWf ↔ s.memoryWf :=
  by simp [State.bringupStep]

@[simp] theorem execBringupStepEnd_memoryWf {s : State} (h : s.memoryWf) (key : Nat) (r : StepEnd) (elapsed : Nat) (detail : W32) :
    Out.memoryWf (execBringupStepEnd key r elapsed detail s) := by
  unfold execBringupStepEnd
  rw [Out.next_memoryWf]
  split
  · exact State.quarterStep_memoryWf h _ _ _ _
  split
  · exact h
  split
  · split <;> simp [h]
  split <;> simp [h]

@[simp] theorem State.linkUp_memoryWf (s : State) (width : Nat) (rate : Nat) : (s.linkUp width rate).memoryWf ↔ s.memoryWf :=
  Iff.rfl

@[simp] theorem execHostLinkUp_memoryWf {s : State} (h : s.memoryWf) (width : Nat) (full : Bool) :
    Out.memoryWf (execHostLinkUp width full s) :=
  by simp [execHostLinkUp, h]

@[simp] theorem execHostLinkDown_memoryWf {s : State} (h : s.memoryWf) : Out.memoryWf (execHostLinkDown s) :=
  by simp [execHostLinkDown, h]

@[simp] theorem execHostLinkRetry_memoryWf {s : State} (h : s.memoryWf) (success : Bool) (elapsed : Nat) :
    Out.memoryWf (execHostLinkRetry success elapsed s) :=
  by simp [execHostLinkRetry, h]

@[simp] theorem State.fwDecide_memoryWf (s : State) (reason : Nat) : (s.fwDecide reason).memoryWf ↔ s.memoryWf :=
  by simp [State.fwDecide]

@[simp] theorem execFwVerifyDone_memoryWf {s : State} (h : s.memoryWf) : Out.memoryWf (execFwVerifyDone s) :=
  by simp [execFwVerifyDone, h]

@[simp] theorem State.supply_memoryWf {s : State} (h : s.memoryWf) (r : Req) : (s.supply r).1.memoryWf := by
  unfold State.supply
  extract_lets b answer final image fw
  split
  · exact h
  split
  · exact h
  split
  · dsimp only
    split <;> exact h
  · exact h

@[simp] theorem execFwSupply_memoryWf {s : State} (h : s.memoryWf) (mb : Nat) : Out.memoryWf (execFwSupply mb s) := by
  unfold execFwSupply
  exact State.serve_out_memoryWf h fun t r ht => by simp [ht]

@[simp] theorem execLedgerClear_memoryWf {s : State} (h : s.memoryWf) (mb : Nat) : Out.memoryWf (execLedgerClear mb s) := by
  unfold execLedgerClear
  refine State.serve_out_memoryWf h fun t r ht => ?_
  split <;> exact ht

@[simp] theorem State.writeModulePage_memoryWf {s : State} (h : s.memoryWf) : s.writeModulePage.memoryWf := by
  unfold State.writeModulePage
  dsimp only
  split <;> simp [h]

@[simp] theorem State.writeSessionPage_memoryWf {s : State} (h : s.memoryWf) (i : Nat) : (s.writeSessionPage i).memoryWf := by
  unfold State.writeSessionPage
  dsimp only
  repeat' split
  all_goals simp [h]

@[simp] theorem execStatusPageWrite_memoryWf {s : State} (h : s.memoryWf) (page : Nat) :
    Out.memoryWf (execStatusPageWrite page s) :=
  by simp [execStatusPageWrite, h]

@[simp] theorem State.say_memoryWf (s : State) (r : Reply) : (s.say r).memoryWf ↔ s.memoryWf := Iff.rfl

end Sys2Proof.Machine
end

section
/-! PROOFS. O59. What the host port, the commands of the mailboxes, PERF, the management channels and SPDM keep of the memories' form. -/

namespace Sys2Proof.Machine

@[simp] theorem State.submit_memoryWf (s : State) (n : Nat) : (s.submit n).memoryWf ↔ s.memoryWf := by simp [State.submit]

@[simp] theorem State.mbWrite_memoryWf (s : State) (n : Nat) (off : Nat) (v : W32) :
    (s.mbWrite n off v).memoryWf ↔ s.memoryWf :=
  by simp [State.mbWrite]

@[simp] theorem State.commitDecoder_memoryWf (s : State) (base : Nat) (size : Nat) (ways : Nat) :
    (s.commitDecoder base size ways).memoryWf ↔ s.memoryWf :=
  Iff.rfl

@[simp] theorem State.bar2Write_memoryWf (s : State) (off : Nat) (v : W32) : (s.bar2Write off v).memoryWf ↔ s.memoryWf :=
  by simp [State.bar2Write]

@[simp] theorem execRegisterWrite_memoryWf {s : State} (h : s.memoryWf) (o : Origin) (off : Nat) (v : W32) :
    Out.memoryWf (execRegisterWrite o off v s) := by
  unfold execRegisterWrite
  repeat' split
  all_goals simp [h]

@[simp] theorem execNowLoRead_memoryWf {s : State} (h : s.memoryWf) (o : Origin) : Out.memoryWf (execNowLoRead o s) := by
  unfold execNowLoRead
  split <;> simp [h]

@[simp] theorem State.configWrite_memoryWf (s : State) (fn : Nat) (register : Nat) (v : W32) :
    (s.configWrite fn register v).memoryWf ↔ s.memoryWf :=
  by simp [State.configWrite]

@[simp] theorem execConfigurationRequest_memoryWf {s : State} (h : s.memoryWf) (fn : Nat) (register : Nat)
    (access : CfgAccess) :
    Out.memoryWf (execConfigurationRequest fn register access s) := by
  unfold execConfigurationRequest
  split <;> simp [h]

@[simp] theorem execD3hotEntry_memoryWf {s : State} (h : s.memoryWf) (fn : Nat) : Out.memoryWf (execD3hotEntry fn s) :=
  by simp [execD3hotEntry, h]

@[simp] theorem execHdmDecoderCommit_memoryWf {s : State} (h : s.memoryWf) (range : HdmRange) (ways : Nat)
    (stream : Option Nat) :
    Out.memoryWf (execHdmDecoderCommit range ways stream s) := by
  unfold execHdmDecoderCommit
  split <;> simp [h]

@[simp] theorem State.track_memoryWf (s : State) (a : Nat) : (s.track a).memoryWf ↔ s.memoryWf := by
  unfold State.track
  dsimp only
  repeat' split
  all_goals simp

@[simp] theorem execHdmRead_memoryWf {s : State} (h : s.memoryWf) (off : Nat) : Out.memoryWf (execHdmRead off s) := by
  unfold execHdmRead
  dsimp only
  repeat' split
  all_goals simp [h]

@[simp] theorem State.dropWrite_memoryWf (s : State) : s.dropWrite.memoryWf ↔ s.memoryWf := Iff.rfl

@[simp] theorem execHdmWrite_memoryWf {s : State} (h : s.memoryWf) (off : Nat) (data : Bytes) :
    Out.memoryWf (execHdmWrite off data s) := by
  unfold execHdmWrite
  split <;> simp [h]

@[simp] theorem execBirsp_memoryWf {s : State} (h : s.memoryWf) (off : Nat) (data : Bytes) :
    Out.memoryWf (execBirsp off data s) := by
  unfold execBirsp
  split <;> simp [h]

@[simp] theorem execBisnpinv_memoryWf {s : State} (h : s.memoryWf) : Out.memoryWf (execBisnpinv s) := by
  unfold execBisnpinv
  split <;> simp [h]

@[simp] theorem execH2dSnoop_memoryWf {s : State} (h : s.memoryWf) (_address : Nat) : Out.memoryWf (execH2dSnoop _address s) :=
  (Out.next_memoryWf _).2 h

theorem HostPort.setIde_memory (h : HostPort) (st : IdeStream) (v : IdeState) : (h.setIde st v).memory = h.memory := by
  cases st <;> rfl

@[simp] theorem execIdeKm_memoryWf {s : State} (h : s.memoryWf) (st : IdeStream) : Out.memoryWf (execIdeKm st s) := by
  unfold execIdeKm
  rw [Out.next_memoryWf]
  split
  · rw [State.mk_memoryWf, HostPort.setIde_memory, memoriesWf_self]
    exact h
  · exact h

@[simp] theorem execIdeSecureLost_memoryWf {s : State} (h : s.memoryWf) (st : IdeStream) : Out.memoryWf (execIdeSecureLost st s) := by
  unfold execIdeSecureLost
  rw [Out.next_memoryWf]
  split
  · rw [State.mk_memoryWf]
    dsimp only
    rw [HostPort.setIde_memory, memoriesWf_self]
    exact h
  · exact h

@[simp] theorem execCdatRead_memoryWf {s : State} (h : s.memoryWf) : Out.memoryWf (execCdatRead s) := by simp [execCdatRead, h]

@[simp] theorem State.grantWindow_memoryWf (s : State) (b : Bytes) : (s.grantWindow b).1.memoryWf ↔ s.memoryWf :=
  by simp [State.grantWindow]

@[simp] theorem State.withdrawWindow_memoryWf (s : State) (b : Bytes) : (s.withdrawWindow b).1.memoryWf ↔ s.memoryWf :=
  by simp [State.withdrawWindow]

@[simp] theorem execHostWindowGrant_memoryWf {s : State} (h : s.memoryWf) (mb : Nat) :
    Out.memoryWf (execHostWindowGrant mb s) := by
  unfold execHostWindowGrant
  exact State.serve_out_memoryWf h fun t r ht => by simp [ht]

@[simp] theorem execHostWindowWithdraw_memoryWf {s : State} (h : s.memoryWf) (mb : Nat) :
    Out.memoryWf (execHostWindowWithdraw mb s) := by
  unfold execHostWindowWithdraw
  exact State.serve_out_memoryWf h fun t r ht => by simp [ht]

@[simp] theorem State.grantTarget_memoryWf (s : State) (b : Bytes) : (s.grantTarget b).1.memoryWf ↔ s.memoryWf :=
  by simp [State.grantTarget]

@[simp] theorem State.withdrawTarget_memoryWf (s : State) (b : Bytes) : (s.withdrawTarget b).1.memoryWf ↔ s.memoryWf :=
  by simp [State.withdrawTarget]

@[simp] theorem execFarTargetGrant_memoryWf {s : State} (h : s.memoryWf) (mb : Nat) :
    Out.memoryWf (execFarTargetGrant mb s) := by
  unfold execFarTargetGrant
  exact State.serve_out_memoryWf h fun t r ht => by simp [ht]

@[simp] theorem execFarTargetWithdraw_memoryWf {s : State} (h : s.memoryWf) (mb : Nat) :
    Out.memoryWf (execFarTargetWithdraw mb s) := by
  unfold execFarTargetWithdraw
  exact State.serve_out_memoryWf h fun t r ht => by simp [ht]

@[simp] theorem State.linkConfig_memoryWf (s : State) (write : Bool) (r : Req) :
    (s.linkConfig write r).1.memoryWf ↔ s.memoryWf :=
  by simp [State.linkConfig]

@[simp] theorem execLinkConfigRead_memoryWf {s : State} (h : s.memoryWf) (mb : Nat) :
    Out.memoryWf (execLinkConfigRead mb s) := by
  unfold execLinkConfigRead
  exact State.serve_out_memoryWf h fun t r ht => by simp [ht]

@[simp] theorem execLinkConfigWrite_memoryWf {s : State} (h : s.memoryWf) (mb : Nat) :
    Out.memoryWf (execLinkConfigWrite mb s) := by
  unfold execLinkConfigWrite
  exact State.serve_out_memoryWf h fun t r ht => by simp [ht]

@[simp] theorem execPortStatus0_memoryWf {s : State} (h : s.memoryWf) (mb : Nat) : Out.memoryWf (execPortStatus0 mb s) := by
  unfold execPortStatus0
  exact State.serve_out_memoryWf h fun t r ht => by split <;> exact ht

@[simp] theorem execTimeRead_memoryWf {s : State} (h : s.memoryWf) (mb : Nat) : Out.memoryWf (execTimeRead mb s) := by
  unfold execTimeRead
  exact State.serve_out_memoryWf h fun t r ht => by split <;> exact ht

@[simp] theorem execLinkReset_memoryWf {s : State} (h : s.memoryWf) (mb : Nat) : Out.memoryWf (execLinkReset mb s) := by
  unfold execLinkReset
  exact State.serve_out_memoryWf h fun t r ht => by simp [ht]

@[simp] theorem State.resetsDone_memoryWf (s : State) (p : Nat) (n : Nat) : (s.resetsDone p n).memoryWf ↔ s.memoryWf :=
  by simp [State.resetsDone]

@[simp] theorem State.acknowledged_memoryWf (s : State) (p : Nat) (nak : Bool) (seq : BitVec 12) :
    (s.acknowledged p nak seq).memoryWf ↔ s.memoryWf := by
  unfold State.acknowledged
  dsimp only
  split <;> simp

@[simp] theorem execAck_memoryWf {s : State} (h : s.memoryWf) (p : Nat) (block : Bytes) : Out.memoryWf (execAck p block s) := by
  unfold execAck
  rw [Out.next_memoryWf]
  split <;> (rename_i he; have ht := ((s.takeAck_memoryWf p 1 block).2 h).of_fst he)
  · simpa using ht
  · exact ht

@[simp] theorem execNak_memoryWf {s : State} (h : s.memoryWf) (p : Nat) (block : Bytes) : Out.memoryWf (execNak p block s) := by
  unfold execNak
  rw [Out.next_memoryWf]
  split <;> (rename_i he; have ht := ((s.takeAck_memoryWf p 2 block).2 h).of_fst he)
  · simpa using ht
  · exact ht

@[simp] theorem State.attest_memoryWf {s : State} (h : s.memoryWf) (r : Req) : (s.attest r).1.memoryWf :=
  by simp [State.attest, h]

@[simp] theorem execAttestReport_memoryWf {s : State} (h : s.memoryWf) (mb : Nat) : Out.memoryWf (execAttestReport mb s) := by
  unfold execAttestReport
  exact State.serve_out_memoryWf h fun t r ht => by simp [ht]

@[simp] theorem State.planWeights_memoryWf (s : State) (r : Req) : (s.planWeights r).1.memoryWf ↔ s.memoryWf :=
  by simp [State.planWeights]

@[simp] theorem execWeightPlan_memoryWf {s : State} (h : s.memoryWf) (mb : Nat) : Out.memoryWf (execWeightPlan mb s) := by
  unfold execWeightPlan
  exact State.serve_out_memoryWf h fun t r ht => by simp [ht]

@[simp] theorem State.hashChunks_memoryWf (s : State) (i : Nat) : (s.hashChunks i).memoryWf ↔ s.memoryWf := Iff.rfl

@[simp] theorem execWeightDigestRoot_memoryWf {s : State} (h : s.memoryWf) (i : Nat) :
    Out.memoryWf (execWeightDigestRoot i s) := by
  unfold execWeightDigestRoot
  split <;> simp [h]

@[simp] theorem Job.ingestChunk_memoryWf {j : Job} (h : j.st.memoryWf) (g : Ingest) (salt : Bytes) (k : Nat) :
    (j.ingestChunk g salt k).st.memoryWf := by
  unfold Job.ingestChunk
  dsimp only
  repeat' split
  all_goals simp [h]

@[simp] theorem State.plainJob_memoryWf (s : State) (i : Nat) (owner : Nat) : (s.plainJob i owner).st.memoryWf ↔ s.memoryWf :=
  Iff.rfl

@[simp] theorem State.runIngest_memoryWf {s : State} (h : s.memoryWf) (i : Nat) (g : Ingest) : (s.runIngest i g).memoryWf := by
  unfold State.runIngest
  dsimp only
  split
  · simpa using h
  · rw [State.endIngests_memoryWf]
    exact Job.foldl_memoryWf ((State.plainJob_memoryWf _ _ _).2 h) (fun _ _ h => Job.ingestChunk_memoryWf h _ _ _) _

@[simp] theorem State.runIngests_memoryWf {s : State} (h : s.memoryWf) : s.runIngests.memoryWf := by
  unfold State.runIngests
  split
  · exact h.foldl (fun _ _ h => h.foldl (fun _ _ h => State.runIngest_memoryWf h _ _) _) _
  · exact h

@[simp] theorem State.acceptIngest_memoryWf (s : State) (r : Req) : (s.acceptIngest r).1.memoryWf ↔ s.memoryWf := by
  unfold State.acceptIngest
  dsimp only
  repeat' split
  all_goals simp

@[simp] theorem execIngest_memoryWf {s : State} (h : s.memoryWf) (mb : Nat) : Out.memoryWf (execIngest mb s) := by
  unfold execIngest
  rw [Out.next_memoryWf]
  exact State.runIngests_memoryWf (State.serve_memoryWf h _ _ _ _ _ fun _ _ ht => (State.acceptIngest_memoryWf _ _).2 ht)

@[simp] theorem execObjectTimeout_memoryWf {s : State} (h : s.memoryWf) (i : Nat) (id : Nat) :
    Out.memoryWf (execObjectTimeout i id s) := by
  unfold execObjectTimeout
  dsimp only
  repeat' split
  all_goals simp [h]

@[simp] theorem State.readFor_memoryWf {s : State} (h : s.memoryWf) (i : Nat) (a : Nat) (n : Nat) :
    (s.readFor i a n).1.memoryWf :=
  by simp [State.readFor, h]

@[simp] theorem State.loadList_memoryWf {s : State} (h : s.memoryWf) (r : Req) : (s.loadList r).1.memoryWf := by
  unfold State.loadList
  dsimp only
  repeat' split
  all_goals simp [h]

@[simp] theorem execListLoad_memoryWf {s : State} (h : s.memoryWf) (mb : Nat) : Out.memoryWf (execListLoad mb s) := by
  unfold execListLoad
  exact State.serve_out_memoryWf h fun t r ht => by simp [ht]

@[simp] theorem execListUnload_memoryWf {s : State} (h : s.memoryWf) (mb : Nat) : Out.memoryWf (execListUnload mb s) := by
  unfold execListUnload
  exact State.serve_out_memoryWf h fun t r ht => by simp [ht]

@[simp] theorem State.loadKernel_memoryWf {s : State} (h : s.memoryWf) (r : Req) : (s.loadKernel r).1.memoryWf := by
  unfold State.loadKernel
  dsimp only
  repeat' split
  all_goals simp [h]

@[simp] theorem execKernelLoad_memoryWf {s : State} (h : s.memoryWf) (mb : Nat) : Out.memoryWf (execKernelLoad mb s) := by
  unfold execKernelLoad
  exact State.serve_out_memoryWf h fun t r ht => by simp [ht]

@[simp] theorem State.startContext_memoryWf (s : State) (r : Req) : (s.startContext r).1.memoryWf ↔ s.memoryWf :=
  by simp [State.startContext]

@[simp] theorem execContextStart_memoryWf {s : State} (h : s.memoryWf) (mb : Nat) : Out.memoryWf (execContextStart mb s) := by
  unfold execContextStart
  exact State.serve_out_memoryWf h fun t r ht => by simp [ht]

@[simp] theorem execContextStop_memoryWf {s : State} (h : s.memoryWf) (mb : Nat) : Out.memoryWf (execContextStop mb s) := by
  unfold execContextStop
  exact State.serve_out_memoryWf h fun t r ht => by simp [ht]

@[simp] theorem execScaleWrite_memoryWf {s : State} (h : s.memoryWf) (mb : Nat) : Out.memoryWf (execScaleWrite mb s) := by
  unfold execScaleWrite
  exact State.serve_out_memoryWf h fun t r ht => by simp [ht]

@[simp] theorem execSealResolve_memoryWf {s : State} (h : s.memoryWf) (mb : Nat) : Out.memoryWf (execSealResolve mb s) := by
  unfold execSealResolve
  exact State.serve_out_memoryWf h fun t r ht => by simp [ht]

@[simp] theorem execVoidRequest_memoryWf {s : State} (h : s.memoryWf) (mb : Nat) : Out.memoryWf (execVoidRequest mb s) := by
  unfold execVoidRequest
  exact State.serve_out_memoryWf h fun t r ht => by split <;> exact ht

@[simp] theorem execRecordRead_memoryWf {s : State} (h : s.memoryWf) (mb : Nat) : Out.memoryWf (execRecordRead mb s) := by
  unfold execRecordRead
  refine State.serve_out_memoryWf h fun t r ht => ?_
  repeat' split
  all_goals exact ht

@[simp] theorem execTallyRead_memoryWf {s : State} (h : s.memoryWf) (mb : Nat) : Out.memoryWf (execTallyRead mb s) := by
  unfold execTallyRead
  exact State.serve_out_memoryWf h fun t r ht => by simp [ht]

@[simp] theorem State.rekeyLink_memoryWf (s : State) (i : Nat) (salt : Bytes) : (s.rekeyLink i salt).memoryWf ↔ s.memoryWf := by
  unfold State.rekeyLink
  split <;> rfl

@[simp] theorem State.keyPorts_memoryWf (s : State) (i : Nat) : (s.keyPorts i).memoryWf ↔ s.memoryWf := by simp [State.keyPorts]

@[simp] theorem State.configConsign_memoryWf (s : State) (r : Req) : (s.configConsign r).1.memoryWf ↔ s.memoryWf :=
  by simp [State.configConsign]

@[simp] theorem execConsignConfig_memoryWf {s : State} (h : s.memoryWf) (mb : Nat) : Out.memoryWf (execConsignConfig mb s) := by
  unfold execConsignConfig
  exact State.serve_out_memoryWf h fun t r ht => by simp [ht]

@[simp] theorem State.loadRouting_memoryWf (s : State) (r : Req) : (s.loadRouting r).1.memoryWf ↔ s.memoryWf :=
  by simp [State.loadRouting]

@[simp] theorem execRoutingLoad_memoryWf {s : State} (h : s.memoryWf) (mb : Nat) : Out.memoryWf (execRoutingLoad mb s) := by
  unfold execRoutingLoad
  exact State.serve_out_memoryWf h fun t r ht => by simp [ht]

@[simp] theorem execTimeSet_memoryWf {s : State} (h : s.memoryWf) (mb : Nat) : Out.memoryWf (execTimeSet mb s) := by
  unfold execTimeSet
  exact State.serve_out_memoryWf h fun t r ht => by simp [ht]

@[simp] theorem execRollCall_memoryWf {s : State} (h : s.memoryWf) (mb : Nat) : Out.memoryWf (execRollCall mb s) := by
  unfold execRollCall
  exact State.serve_out_memoryWf h fun t r ht => by simp [ht]

@[simp] theorem State.enterPs2_memoryWf (s : State) : s.enterPs2.memoryWf ↔ s.memoryWf := Iff.rfl

@[simp] theorem State.enterPs3_memoryWf {s : State} (h : s.memoryWf) : s.enterPs3.memoryWf := by
  unfold State.enterPs3
  extract_lets p s1 s2 r
  have h2 : s2.memoryWf := State.writeModulePage_memoryWf h
  clear_value s2
  rw [State.settlePins_memoryWf, State.mk_memoryWf]
  exact ((memoriesWf_self s2).2 h2).resetDies

@[simp] theorem State.wakePs3_memoryWf (s : State) : s.wakePs3.memoryWf ↔ s.memoryWf := by simp [State.wakePs3]

@[simp] theorem State.setPower_memoryWf {s : State} (h : s.memoryWf) (r : Req) : (s.setPower r).1.memoryWf := by
  unfold State.setPower
  dsimp only
  repeat' split
  all_goals simp [h]

@[simp] theorem execPowerSet_memoryWf {s : State} (h : s.memoryWf) (mb : Nat) : Out.memoryWf (execPowerSet mb s) := by
  unfold execPowerSet
  exact State.serve_out_memoryWf h fun t r ht => by simp [ht]

@[simp] theorem execPs1Entry_memoryWf {s : State} (h : s.memoryWf) : Out.memoryWf (execPs1Entry s) := by simp [execPs1Entry, h]

@[simp] theorem execPs0WakeDone_memoryWf {s : State} (h : s.memoryWf) : Out.memoryWf (execPs0WakeDone s) :=
  by simp [execPs0WakeDone, h]

@[simp] theorem execPs2WakeDone_memoryWf {s : State} (h : s.memoryWf) : Out.memoryWf (execPs2WakeDone s) :=
  by simp [execPs2WakeDone, h]

@[simp] theorem execPs3WakeDone_memoryWf {s : State} (h : s.memoryWf) : Out.memoryWf (execPs3WakeDone s) :=
  by simp [execPs3WakeDone, h]

@[simp] theorem execHostPortPowerOff_memoryWf {s : State} (h : s.memoryWf) : Out.memoryWf (execHostPortPowerOff s) :=
  by simp [execHostPortPowerOff, h]

@[simp] theorem execResetRequest_memoryWf {s : State} (h : s.memoryWf) (mb : Nat) : Out.memoryWf (execResetRequest mb s) := by
  unfold execResetRequest
  refine State.serve_out_memoryWf h fun t r ht => ?_
  dsimp only
  split <;> simp [ht]

@[simp] theorem State.readOut_memoryWf {s : State} (h : s.memoryWf) (mb code : Nat) (f : State → Bytes) : (s.readOut mb code f).memoryWf := by
  refine State.serve_memoryWf h _ _ _ _ _ fun t r ht => ?_
  split <;> exact ht

@[simp] theorem execResetLogRead_memoryWf {s : State} (h : s.memoryWf) (mb : Nat) : Out.memoryWf (execResetLogRead mb s) :=
  by simp [execResetLogRead, h]

@[simp] theorem execWatchRead_memoryWf {s : State} (h : s.memoryWf) (mb : Nat) : Out.memoryWf (execWatchRead mb s) :=
  by simp [execWatchRead, h]

@[simp] theorem execWatchLogRead_memoryWf {s : State} (h : s.memoryWf) (mb : Nat) : Out.memoryWf (execWatchLogRead mb s) :=
  by simp [execWatchLogRead, h]

@[simp] theorem execBackupRead_memoryWf {s : State} (h : s.memoryWf) (mb : Nat) : Out.memoryWf (execBackupRead mb s) :=
  by simp [execBackupRead, h]

@[simp] theorem execBackupWrite_memoryWf {s : State} (h : s.memoryWf) (mb : Nat) : Out.memoryWf (execBackupWrite mb s) := by
  unfold execBackupWrite
  exact State.serve_out_memoryWf h fun t r ht => by simp [ht]

@[simp] theorem State.putCounter_memoryWf (s : State) (key : Nat) (c : Counter) : (s.putCounter key c).memoryWf ↔ s.memoryWf :=
  Iff.rfl

@[simp] theorem State.setCounter_memoryWf (s : State) (unit : Nat) (number : Nat) (c : Counter) :
    (s.setCounter unit number c).memoryWf ↔ s.memoryWf :=
  Iff.rfl

@[simp] theorem State.perfConfig_memoryWf (s : State) (r : Req) (act : Nat → Bytes → Counter → Status × Counter) :
    (s.perfConfig r act).1.memoryWf ↔ s.memoryWf :=
  by simp [State.perfConfig]

@[simp] theorem execPerfConfigRead_memoryWf {s : State} (h : s.memoryWf) (mb : Nat) :
    Out.memoryWf (execPerfConfigRead mb s) := by
  unfold execPerfConfigRead
  exact State.serve_out_memoryWf h fun t r ht => by simp [ht]

@[simp] theorem execPerfConfigWrite_memoryWf {s : State} (h : s.memoryWf) (mb : Nat) :
    Out.memoryWf (execPerfConfigWrite mb s) := by
  unfold execPerfConfigWrite
  exact State.serve_out_memoryWf h fun t r ht => by simp [ht]

@[simp] theorem execPerfConfigClaim_memoryWf {s : State} (h : s.memoryWf) (mb : Nat) :
    Out.memoryWf (execPerfConfigClaim mb s) := by
  unfold execPerfConfigClaim
  exact State.serve_out_memoryWf h fun t r ht => by simp [ht]

@[simp] theorem execPerfConfigRelease_memoryWf {s : State} (h : s.memoryWf) (mb : Nat) :
    Out.memoryWf (execPerfConfigRelease mb s) := by
  unfold execPerfConfigRelease
  exact State.serve_out_memoryWf h fun t r ht => by simp [ht]

@[simp] theorem execPerfRead_memoryWf {s : State} (h : s.memoryWf) (mb : Nat) : Out.memoryWf (execPerfRead mb s) := by
  unfold execPerfRead
  refine State.serve_out_memoryWf h fun t r ht => ?_
  dsimp only
  repeat' split
  all_goals exact ht

@[simp] theorem execPerfRing_memoryWf {s : State} (h : s.memoryWf) (mb : Nat) : Out.memoryWf (execPerfRing mb s) := by
  unfold execPerfRing
  exact State.serve_out_memoryWf h fun t r ht => by simp [ht]

@[simp] theorem execPerfRingRead_memoryWf {s : State} (h : s.memoryWf) (mb : Nat) : Out.memoryWf (execPerfRingRead mb s) := by
  unfold execPerfRingRead
  refine State.serve_out_memoryWf h fun t r ht => ?_
  dsimp only
  split
  · exact ht
  · rename_i g _
    generalize hj : (List.range (min (fieldAt r.body 0 2) g.held)).foldl _ (t.plainJob r.session g.owner, []) = k
    have hk : k.1.st.memoryWf := by
      rw [← hj]
      refine Job.foldl_fst_memoryWf (fun a q ha => ?_) _ ((State.plainJob_memoryWf _ _ _).2 ht)
      exact Job.readHbm_memoryWf ha _ _
    split
    · exact ht
    · split <;> exact hk

@[simp] theorem execSampleRecordWrite_memoryWf {s : State} (h : s.memoryWf) (i : Nat) :
    Out.memoryWf (execSampleRecordWrite i s) := by
  unfold execSampleRecordWrite
  dsimp only
  repeat' split
  all_goals simp [h]

@[simp] theorem State.clockCount_memoryWf (s : State) (key : Nat) (c : Counter) : (s.clockCount key c).memoryWf ↔ s.memoryWf :=
  by simp [State.clockCount]

@[simp] theorem State.clockEvents_memoryWf (s : State) : s.clockEvents.memoryWf ↔ s.memoryWf := by simp [State.clockEvents]

@[simp] theorem State.idleStep_memoryWf (s : State) : s.idleStep.memoryWf ↔ s.memoryWf := by simp [State.idleStep]

@[simp] theorem State.mgmtAnswer_memoryWf {s : State} (h : s.memoryWf) {f : State → State × Reply} (hf : s.memoryWf → (f s).1.memoryWf) :
    (s.mgmtAnswer f).memoryWf := by
  unfold State.mgmtAnswer
  split
  · exact h
  split
  · exact h
  · exact hf h

@[simp] theorem State.mgmtSay_memoryWf {s : State} (h : s.memoryWf) (r : Reply) : (s.mgmtSay r).memoryWf :=
  State.mgmtAnswer_memoryWf h id

@[simp] theorem State.spdmAnswer_memoryWf {s : State} (h : s.memoryWf) (v : Via) {f : State → State × Reply}
    (hf : s.memoryWf → (f s).1.memoryWf) : (s.spdmAnswer v f).memoryWf := by
  unfold State.spdmAnswer
  generalize hp : (if s.spdmReady then f s else (s, Reply.error spdmBusy)) = p
  have h1 : p.1.memoryWf := by
    rw [← hp]
    split
    · exact hf h
    · exact h
  dsimp only
  split
  · split <;> exact h1
  · exact h1

@[simp] theorem State.spdmRequest_memoryWf {s : State} (h : s.memoryWf) (v : Via) (code : Nat) (secured : Bool) {f : State → State × Reply}
    (hf : s.memoryWf → (f s).1.memoryWf) : (s.spdmRequest v code secured f).memoryWf := by
  unfold State.spdmRequest
  extract_lets g
  have hg (h : s.memoryWf) : (g s).1.memoryWf := by
    unfold g
    split
    · exact hf h
    · exact h
  clear_value g
  split
  · exact State.spdmAnswer_memoryWf h _ hg
  · split
    · rw [State.mk_memoryWf, memoriesWf_self]
      exact h
    · exact State.spdmAnswer_memoryWf h _ hg

@[simp] theorem State.spdmSign_memoryWf (s : State) (known : Bytes) : (s.spdmSign known).2.memoryWf ↔ s.memoryWf := by
  simp [State.spdmSign]

@[simp] theorem execKeyExchange_memoryWf {s : State} (h : s.memoryWf) (v : Via) (requester : Requester) :
    Out.memoryWf (execKeyExchange v requester s) := by
  unfold execKeyExchange
  rw [Out.next_memoryWf]
  refine State.spdmRequest_memoryWf h _ _ _ fun ht => ?_
  split
  · exact ht
  · dsimp only
    split
    · exact ht
    · simp [ht]

@[simp] theorem execFinish_memoryWf {s : State} (h : s.memoryWf) (v : Via) (authenticated : Bool) :
    Out.memoryWf (execFinish v authenticated s) := by
  unfold execFinish
  rw [Out.next_memoryWf]
  refine State.spdmRequest_memoryWf h _ _ _ fun ht => ?_
  split
  · exact ht
  · dsimp only
    split
    · exact ht
    · split <;>
      · rw [State.mk_memoryWf]
        exact (memoriesWf_self s).2 ht

@[simp] theorem execGetVersion_memoryWf {s : State} (h : s.memoryWf) (v : Via) : Out.memoryWf (execGetVersion v s) :=
  by simp [execGetVersion, h]

@[simp] theorem execGetCapabilities_memoryWf {s : State} (h : s.memoryWf) (v : Via) : Out.memoryWf (execGetCapabilities v s) :=
  by simp [execGetCapabilities, h]

@[simp] theorem execNegotiateAlgorithms_memoryWf {s : State} (h : s.memoryWf) (v : Via) :
    Out.memoryWf (execNegotiateAlgorithms v s) :=
  by simp [execNegotiateAlgorithms, h]

@[simp] theorem execGetDigests_memoryWf {s : State} (h : s.memoryWf) (v : Via) : Out.memoryWf (execGetDigests v s) :=
  by simp [execGetDigests, h]

@[simp] theorem execGetCertificate_memoryWf {s : State} (h : s.memoryWf) (v : Via) (slot : Nat) (offset : Nat) (length : Nat) :
    Out.memoryWf (execGetCertificate v slot offset length s) :=
  by simp [execGetCertificate, h]

@[simp] theorem execChallenge_memoryWf {s : State} (h : s.memoryWf) (v : Via) (slot : Nat) (nonce : Bytes) :
    Out.memoryWf (execChallenge v slot nonce s) := by
  unfold execChallenge
  rw [Out.next_memoryWf]
  refine State.spdmRequest_memoryWf h _ _ _ fun ht => ?_
  split <;> simp [ht]

@[simp] theorem execGetMeasurements_memoryWf {s : State} (h : s.memoryWf) (v : Via) (index : Nat) :
    Out.memoryWf (execGetMeasurements v index s) := by
  unfold execGetMeasurements
  rw [Out.next_memoryWf]
  refine State.spdmRequest_memoryWf h _ _ _ fun ht => ?_
  split
  · exact ht
  split
  · exact ht
  split <;> exact ht

@[simp] theorem State.mctpControl_memoryWf (s : State) (command : Nat) (data : Bytes) :
    (s.mctpControl command data).1.memoryWf ↔ s.memoryWf := by
  unfold State.mctpControl
  split <;> simp

@[simp] theorem execSetEndpointId_memoryWf {s : State} (h : s.memoryWf) (eid : Byte) : Out.memoryWf (execSetEndpointId eid s) :=
  by simp [execSetEndpointId, h]

@[simp] theorem execGetEndpointId_memoryWf {s : State} (h : s.memoryWf) : Out.memoryWf (execGetEndpointId s) :=
  by simp [execGetEndpointId, h]

@[simp] theorem execGetMctpVersionSupport_memoryWf {s : State} (h : s.memoryWf) : Out.memoryWf (execGetMctpVersionSupport s) :=
  by simp [execGetMctpVersionSupport, h]

@[simp] theorem execGetMessageTypeSupport_memoryWf {s : State} (h : s.memoryWf) : Out.memoryWf (execGetMessageTypeSupport s) :=
  by simp [execGetMessageTypeSupport, h]

@[simp] theorem execGetVendorDefinedMessageSupport_memoryWf {s : State} (h : s.memoryWf) :
    Out.memoryWf (execGetVendorDefinedMessageSupport s) :=
  by simp [execGetVendorDefinedMessageSupport, h]

@[simp] theorem execEntdaa_memoryWf {s : State} (h : s.memoryWf) (address : BitVec 7) : Out.memoryWf (execEntdaa address s) :=
  by simp [execEntdaa, h]

@[simp] theorem execPldmDiscovery_memoryWf {s : State} (h : s.memoryWf) (command : Byte) :
    Out.memoryWf (execPldmDiscovery command s) :=
  by simp [execPldmDiscovery, h]

@[simp] theorem execPldmSensorRead_memoryWf {s : State} (h : s.memoryWf) (sensor : Nat) :
    Out.memoryWf (execPldmSensorRead sensor s) :=
  by simp [execPldmSensorRead, h]

@[simp] theorem execPollForPlatformEventMessage_memoryWf {s : State} (h : s.memoryWf) :
    Out.memoryWf (execPollForPlatformEventMessage s) :=
  by simp [execPollForPlatformEventMessage, h]

@[simp] theorem State.vendorServe_memoryWf (s : State) (command : Nat) (b : Bytes) :
    (s.vendorServe command b).1.memoryWf ↔ s.memoryWf := by
  unfold State.vendorServe
  split <;> simp

@[simp] theorem State.vendor_memoryWf (s : State) (request : Bytes) : (s.vendor request).memoryWf ↔ s.memoryWf :=
  by simp [State.vendor]

@[simp] theorem execLedgerRead_memoryWf {s : State} (h : s.memoryWf) (offset : Nat) (length : Nat) :
    Out.memoryWf (execLedgerRead offset length s) :=
  by simp [execLedgerRead, h]

@[simp] theorem execVendorResetLogRead_memoryWf {s : State} (h : s.memoryWf) (entry : Nat) :
    Out.memoryWf (execVendorResetLogRead entry s) :=
  by simp [execVendorResetLogRead, h]

@[simp] theorem execVendorWatchLogRead_memoryWf {s : State} (h : s.memoryWf) : Out.memoryWf (execVendorWatchLogRead s) :=
  by simp [execVendorWatchLogRead, h]

@[simp] theorem execVendorLcStatus_memoryWf {s : State} (h : s.memoryWf) : Out.memoryWf (execVendorLcStatus s) :=
  by simp [execVendorLcStatus, h]

@[simp] theorem execOptionRead_memoryWf {s : State} (h : s.memoryWf) : Out.memoryWf (execOptionRead s) :=
  by simp [execOptionRead, h]

@[simp] theorem execOptionWrite_memoryWf {s : State} (h : s.memoryWf) (block : Bytes) :
    Out.memoryWf (execOptionWrite block s) :=
  by simp [execOptionWrite, h]

@[simp] theorem State.withPending_memoryWf (s : State) (q : List Instr) : (s.withPending q).memoryWf ↔ s.memoryWf := Iff.rfl

end Sys2Proof.Machine
end

section
/-! PROOFS. O59. Every command keeps the memories' canonical form. -/

namespace Sys2Proof.Machine

/-- Every command keeps every memory in canonical form. -/
theorem exec_memoryWf {s : State} (h : s.memoryWf) : ∀ c : Instr, Out.memoryWf (exec c s)
  | .nop o => execNop_memoryWf h o
  | .endList o => execEndList_memoryWf h o
  | .link o => execLink_memoryWf h o
  | .matmul o => execMatmul_memoryWf h o
  | .matmulAlt o => execMatmulAlt_memoryWf h o
  | .arrayScrub o => execArrayScrub_memoryWf h o
  | .phMove o => execPhMove_memoryWf h o
  | .phStream o => execPhStream_memoryWf h o
  | .runKernel o => execRunKernel_memoryWf h o
  | .reckon o => execReckon_memoryWf h o
  | .dpNoise o => execDpNoise_memoryWf h o
  | .stepSeal o => execStepSeal_memoryWf h o
  | .exchange o => execExchange_memoryWf h o
  | .exchangeV o => execExchangeV_memoryWf h o
  | .reduceScatter o residueFails => execReduceScatter_memoryWf h o residueFails
  | .allGather o => execAllGather_memoryWf h o
  | .allReduce o residueFails => execAllReduce_memoryWf h o residueFails
  | .tallyAdd o => execTallyAdd_memoryWf h o
  | .tallySet o => execTallySet_memoryWf h o
  | .tallyArm o => execTallyArm_memoryWf h o
  | .farMove o => execFarMove_memoryWf h o
  | .ckptExport o => execCkptExport_memoryWf h o
  | .ckptImport o => execCkptImport_memoryWf h o
  | .descriptorStart session ctx => execDescriptorStart_memoryWf h session ctx
  | .tileIssue session operandLate scaleLate => execTileIssue_memoryWf h session operandLate scaleLate
  | .tileDrain session drainHeld => execTileDrain_memoryWf h session drainHeld
  | .arrayOpComplete o => execArrayOpComplete_memoryWf h o
  | .collectiveComplete o => execCollectiveComplete_memoryWf h o
  | .descriptorComplete o => execDescriptorComplete_memoryWf h o
  | .launchComparatorFire o => execLaunchComparatorFire_memoryWf h o
  | .armFire tally => execArmFire_memoryWf h tally
  | .commandCorePoll core => execCommandCorePoll_memoryWf h core
  | .sampleRecordWrite session => execSampleRecordWrite_memoryWf h session
  | .sweepStep channel => execSweepStep_memoryWf h channel
  | .fwSupply mb => execFwSupply_memoryWf h mb
  | .fwVerifyDone => execFwVerifyDone_memoryWf h
  | .ledgerClear mb => execLedgerClear_memoryWf h mb
  | .hostWindowGrant mb => execHostWindowGrant_memoryWf h mb
  | .hostWindowWithdraw mb => execHostWindowWithdraw_memoryWf h mb
  | .farTargetGrant mb => execFarTargetGrant_memoryWf h mb
  | .farTargetWithdraw mb => execFarTargetWithdraw_memoryWf h mb
  | .linkConfigRead mb => execLinkConfigRead_memoryWf h mb
  | .linkConfigWrite mb => execLinkConfigWrite_memoryWf h mb
  | .lcChallenge mb => execLcChallenge_memoryWf h mb
  | .lcTransition mb => execLcTransition_memoryWf h mb
  | .lcStatus mb => execLcStatus_memoryWf h mb
  | .transitionStepDone => execTransitionStepDone_memoryWf h
  | .challengeExpiry => execChallengeExpiry_memoryWf h
  | .portStatus0 mb => execPortStatus0_memoryWf h mb
  | .timeRead mb => execTimeRead_memoryWf h mb
  | .linkReset mb => execLinkReset_memoryWf h mb
  | .attestReport mb => execAttestReport_memoryWf h mb
  | .sessionOpen mb => execSessionOpen_memoryWf h mb
  | .sessionClose mb => execSessionClose_memoryWf h mb
  | .partyJoin mb => execPartyJoin_memoryWf h mb
  | .partyRemove mb => execPartyRemove_memoryWf h mb
  | .weightPlan mb => execWeightPlan_memoryWf h mb
  | .ingest mb => execIngest_memoryWf h mb
  | .weightDigestRoot session => execWeightDigestRoot_memoryWf h session
  | .listLoad mb => execListLoad_memoryWf h mb
  | .listUnload mb => execListUnload_memoryWf h mb
  | .kernelLoad mb => execKernelLoad_memoryWf h mb
  | .contextStart mb => execContextStart_memoryWf h mb
  | .contextStop mb => execContextStop_memoryWf h mb
  | .scaleWrite mb => execScaleWrite_memoryWf h mb
  | .routingLoad mb => execRoutingLoad_memoryWf h mb
  | .consignConfig mb => execConsignConfig_memoryWf h mb
  | .timeSet mb => execTimeSet_memoryWf h mb
  | .rollCall mb => execRollCall_memoryWf h mb
  | .sealResolve mb => execSealResolve_memoryWf h mb
  | .voidRequest mb => execVoidRequest_memoryWf h mb
  | .recordRead mb => execRecordRead_memoryWf h mb
  | .tallyRead mb => execTallyRead_memoryWf h mb
  | .powerSet mb => execPowerSet_memoryWf h mb
  | .resetRequest mb => execResetRequest_memoryWf h mb
  | .firmwareRequestAssert => execFirmwareRequestAssert_memoryWf h
  | .resetLogRead mb => execResetLogRead_memoryWf h mb
  | .watchRead mb => execWatchRead_memoryWf h mb
  | .watchLogRead mb => execWatchLogRead_memoryWf h mb
  | .backupRead mb => execBackupRead_memoryWf h mb
  | .backupWrite mb => execBackupWrite_memoryWf h mb
  | .perfConfigRead mb => execPerfConfigRead_memoryWf h mb
  | .perfConfigWrite mb => execPerfConfigWrite_memoryWf h mb
  | .perfConfigClaim mb => execPerfConfigClaim_memoryWf h mb
  | .perfConfigRelease mb => execPerfConfigRelease_memoryWf h mb
  | .perfRead mb => execPerfRead_memoryWf h mb
  | .perfRing mb => execPerfRing_memoryWf h mb
  | .perfRingRead mb => execPerfRingRead_memoryWf h mb
  | .registerWrite origin offset value => execRegisterWrite_memoryWf h origin offset value
  | .nowLoRead origin => execNowLoRead_memoryWf h origin
  | .statusPageWrite page => execStatusPageWrite_memoryWf h page
  | .hdmRead offset => execHdmRead_memoryWf h offset
  | .hdmWrite offset data => execHdmWrite_memoryWf h offset data
  | .birsp offset data => execBirsp_memoryWf h offset data
  | .bisnpinv => execBisnpinv_memoryWf h
  | .h2dSnoop address => execH2dSnoop_memoryWf h address
  | .uioCompletion session status => execUioCompletion_memoryWf h session status
  | .configurationRequest fn register access => execConfigurationRequest_memoryWf h fn register access
  | .hdmDecoderCommit range ways stream => execHdmDecoderCommit_memoryWf h range ways stream
  | .d3hotEntry fn => execD3hotEntry_memoryWf h fn
  | .ideKm stream => execIdeKm_memoryWf h stream
  | .ideSecureLost stream => execIdeSecureLost_memoryWf h stream
  | .cdatRead => execCdatRead_memoryWf h
  | .hostLinkDown => execHostLinkDown_memoryWf h
  | .hostLinkUp width fullRate => execHostLinkUp_memoryWf h width fullRate
  | .hostLinkRetry success elapsedUs => execHostLinkRetry_memoryWf h success elapsedUs
  | .keyExchange via requester => execKeyExchange_memoryWf h via requester
  | .finish via authenticated => execFinish_memoryWf h via authenticated
  | .getVersion via => execGetVersion_memoryWf h via
  | .getCapabilities via => execGetCapabilities_memoryWf h via
  | .negotiateAlgorithms via => execNegotiateAlgorithms_memoryWf h via
  | .getDigests via => execGetDigests_memoryWf h via
  | .getCertificate via slot offset length => execGetCertificate_memoryWf h via slot offset length
  | .challenge via slot nonce => execChallenge_memoryWf h via slot nonce
  | .getMeasurements via index => execGetMeasurements_memoryWf h via index
  | .setEndpointId eid => execSetEndpointId_memoryWf h eid
  | .getEndpointId => execGetEndpointId_memoryWf h
  | .getMctpVersionSupport => execGetMctpVersionSupport_memoryWf h
  | .getMessageTypeSupport => execGetMessageTypeSupport_memoryWf h
  | .getVendorDefinedMessageSupport => execGetVendorDefinedMessageSupport_memoryWf h
  | .entdaa address => execEntdaa_memoryWf h address
  | .pldmDiscovery command => execPldmDiscovery_memoryWf h command
  | .pldmSensorRead sensor => execPldmSensorRead_memoryWf h sensor
  | .pollForPlatformEventMessage => execPollForPlatformEventMessage_memoryWf h
  | .ledgerRead offset length => execLedgerRead_memoryWf h offset length
  | .vendorResetLogRead entry => execVendorResetLogRead_memoryWf h entry
  | .vendorWatchLogRead => execVendorWatchLogRead_memoryWf h
  | .vendorLcStatus => execVendorLcStatus_memoryWf h
  | .optionRead => execOptionRead_memoryWf h
  | .optionWrite block => execOptionWrite_memoryWf h block
  | .flitSlot port => execFlitSlot_memoryWf h port
  | .dataFlit port flit residueFails => execDataFlit_memoryWf h port flit residueFails
  | .resetFlit port flit => execResetFlit_memoryWf h port flit
  | .uncorrectableCodeword port => execUncorrectableCodeword_memoryWf h port
  | .hello port block => execHello_memoryWf h port block
  | .ack port block => execAck_memoryWf h port block
  | .nak port block => execNak_memoryWf h port block
  | .credit port block => execCredit_memoryWf h port block
  | .timestamp port block => execTimestamp_memoryWf h port block
  | .timestampTick port => execTimestampTick_memoryWf h port
  | .portTrainingDone port cableDelay lanes => execPortTrainingDone_memoryWf h port cableDelay lanes
  | .helloTimeout port => execHelloTimeout_memoryWf h port
  | .laneFailure port lane => execLaneFailure_memoryWf h port lane
  | .collectiveTimeout o => execCollectiveTimeout_memoryWf h o
  | .farMoveTimeout o => execFarMoveTimeout_memoryWf h o
  | .objectTimeout session id => execObjectTimeout_memoryWf h session id
  | .timeFrame clockwise frame => execTimeFrame_memoryWf h clockwise frame
  | .timeFrameTick => execTimeFrameTick_memoryWf h
  | .measureTick => execMeasureTick_memoryWf h
  | .measure clockwise frame => execMeasure_memoryWf h clockwise frame
  | .measureReply clockwise frame => execMeasureReply_memoryWf h clockwise frame
  | .holdoverTimeout => execHoldoverTimeout_memoryWf h
  | .holdoverHeld => execHoldoverHeld_memoryWf h
  | .bypassSwitchChange change idleBoundary => execBypassSwitchChange_memoryWf h change idleBoundary
  | .vote rx message => execVote_memoryWf h rx message
  | .summary port message => execSummary_memoryWf h port message
  | .summaryDeadline session => execSummaryDeadline_memoryWf h session
  | .decision rx message => execDecision_memoryWf h rx message
  | .sealCollectionClose session => execSealCollectionClose_memoryWf h session
  | .sealFlip session => execSealFlip_memoryWf h session
  | .rollCallPostmark session => execRollCallPostmark_memoryWf h session
  | .rollCallMessage sender message => execRollCallMessage_memoryWf h sender message
  | .rollCallDecide session => execRollCallDecide_memoryWf h session
  | .verdict rx message => execVerdict_memoryWf h rx message
  | .epochOpen session => execEpochOpen_memoryWf h session
  | .partyStrike session party => execPartyStrike_memoryWf h session party
  | .sessionCloseStrike session => execSessionCloseStrike_memoryWf h session
  | .engineQuiescent session engine => execEngineQuiescent_memoryWf h session engine
  | .quiesceDeadline session => execQuiesceDeadline_memoryWf h session
  | .noiseLaneFail lane => execNoiseLaneFail_memoryWf h lane
  | .modulePowerGood inputs heldUs => execModulePowerGood_memoryWf h inputs heldUs
  | .in48Rise mV => execIn48Rise_memoryWf h mV
  | .sb12Loss => execSb12Loss_memoryWf h
  | .perstN level widthNs => execPerstN_memoryWf h level widthNs
  | .sysResetN level widthNs => execSysResetN_memoryWf h level widthNs
  | .trstN level widthNs => execTrstN_memoryWf h level widthNs
  | .cxlHotReset assert => execCxlHotReset_memoryWf h assert
  | .cxlFunctionLevelReset => execCxlFunctionLevelReset_memoryWf h
  | .vfFlr vf => execVfFlr_memoryWf h vf
  | .controlWatchdog core => execControlWatchdog_memoryWf h core
  | .tamper assert => execTamper_memoryWf h assert
  | .quarterFault quarter assert => execQuarterFault_memoryWf h quarter assert
  | .quarterReset quarter => execQuarterReset_memoryWf h quarter
  | .quarterResetRelease quarter => execQuarterResetRelease_memoryWf h quarter
  | .blockReset target => execBlockReset_memoryWf h target
  | .resetRelease => execResetRelease_memoryWf h
  | .bringupStepEnd key result elapsedUs detail => execBringupStepEnd_memoryWf h key result elapsedUs detail
  | .clockGood domain lockUs => execClockGood_memoryWf h domain lockUs
  | .clockGoodTimeout domain => execClockGoodTimeout_memoryWf h domain
  | .clockGoodLoss domain => execClockGoodLoss_memoryWf h domain
  | .watchPostSample samples => execWatchPostSample_memoryWf h samples
  | .thermalTripRelease => execThermalTripRelease_memoryWf h
  | .supplyFaultRelease => execSupplyFaultRelease_memoryWf h
  | .ps1Entry => execPs1Entry_memoryWf h
  | .ps0WakeDone => execPs0WakeDone_memoryWf h
  | .ps2WakeDone => execPs2WakeDone_memoryWf h
  | .ps3WakeDone => execPs3WakeDone_memoryWf h
  | .hostPortPowerOff => execHostPortPowerOff_memoryWf h
  | .peerLoss port => execPeerLoss_memoryWf h port
  | .standbyPowerGood mgmtModeGrounded mgmtAddr => execStandbyPowerGood_memoryWf h mgmtModeGrounded mgmtAddr
  | .testEntryInstruction => execTestEntryInstruction_memoryWf h
  | .samplePreload pinLevels laneLevels preset => execSamplePreload_memoryWf h pinLevels laneLevels preset

/-- At reset no memory lists a key. -/
theorem reset_memoriesWf : State.reset.memoryWf := by
  have hch : Channel.reset.Canonical := (Channel.wf_iff _).1 Channel.reset_wf
  rw [State.memoryWf_iff]
  refine ⟨vget_all.2 ⟨hch, fun c hc => ?_⟩, vget_all.2 ⟨hch, fun i hi => ?_⟩,
    (vget_all (P := fun d : Die => Memory.wf d.store = true)).2 ⟨rfl, fun d hd => ?_⟩, rfl⟩
  · rw [State.reset, Vector.getElem_replicate]
    exact hch
  · rw [State.reset, Vector.getElem_replicate]
    exact hch
  · rw [State.reset, Vector.getElem_replicate]
    rfl

/-- Settles O59: what each operation of a memory keeps, over the commands. -/
theorem memoryStaysCanonical : Obligations.MemoryStaysCanonical := by
  refine ⟨fun s t hstep h => ?_, reset_memoriesWf⟩
  unfold step at hstep
  split at hstep
  · cases hstep
    exact (State.idleStep_memoryWf s).2 h
  · exact exec_memoryWf ((State.withPending_memoryWf s _).2 h) _ t hstep

end Sys2Proof.Machine
end

section
/-! PROOFS. O26. The HDM window, one equation for each way a request can go. -/

namespace Sys2Proof.Machine

section
variable {s : State} (hport : s.portAwake = true) (hcfg : s.host.configDone = true) {off : Nat} (hoff : off < 2 ^ 40)
include hport hcfg

include hoff in
theorem execHdmRead_active (hdec : s.host.decoder.committed = true) (hmem : s.host.memActive = true) (hide : s.host.ideMem ≠ .lost)
    {r : Option Bytes} (hr : ({ s with draws := s.draws + 1 } : State).hdmLine s.draws (off / 64 * 64 / 2 ^ 34) (off / 64 * 64 % 2 ^ 34) = r) :
    execHdmRead off s = .next ((({ s with draws := s.draws + 1 } : State).track (off / 64 * 64)).say (r.elim .poison .bytes)) := by
  rw [execHdmRead, if_neg (Nat.not_le.2 hoff)]
  simp only [hport, hcfg, hdec, hmem, hide, not_true_eq_false, or_self, if_false, State.draw, hr]
  cases r <;> rfl

include hoff in
theorem execHdmRead_inactive (hdec : s.host.decoder.committed = true) (hmem : s.host.memActive = false) :
    execHdmRead off s = .next (s.say .poison) := by
  rw [execHdmRead, if_neg (Nat.not_le.2 hoff)]
  simp [hport, hcfg, hdec, hmem]

include hoff in
theorem execHdmWrite_data (hdec : s.host.decoder.committed = true) {d : Bytes} (hd : d ≠ []) :
    execHdmWrite off d s = .next s.dropWrite := by
  rw [execHdmWrite, if_neg (Nat.not_le.2 hoff)]
  simp [hport, hcfg, hdec, hd]

include hoff in
theorem execBirsp_data {d : Bytes} (hd : d ≠ []) : execBirsp off d s = .next s.dropWrite := by
  rw [execBirsp, if_neg (Nat.not_le.2 hoff)]
  simp [hport, hcfg, hd]

include hoff in
theorem execBirsp_empty : execBirsp off [] s = .next (s.say .ok) := by
  rw [execBirsp, if_neg (Nat.not_le.2 hoff)]
  simp [hport, hcfg]

theorem execH2dSnoop_miss (off : Nat) : execH2dSnoop off s = .next (s.say .snoopMiss) := by
  simp [execH2dSnoop, hport, hcfg]

omit hcfg in
theorem execBisnpinv_dirty {a : Nat} {rest : List Nat} (hdirty : s.host.dirty = a :: rest) :
    execBisnpinv s = .next { s with host := { s.host with
      dirty := rest, filter := s.host.filter.filter (fun b => b ≠ a), biSent := satAdd s.host.biSent 1 } } := by
  simp only [execBisnpinv, hdirty, hport, if_true]

end

/-- R337: past the window there is no address. -/
theorem hdm_noSuchAddress (s : State) {off : Nat} (hoff : 2 ^ 40 ≤ off) (d : Bytes) :
    execHdmRead off s = .fault .noSuchAddress ∧ execHdmWrite off d s = .fault .noSuchAddress ∧
      execBirsp off d s = .fault .noSuchAddress :=
  ⟨if_pos hoff, if_pos hoff, if_pos hoff⟩

/-- Settles O26: a request of the window is one branch of its command. -/
theorem hdmWindowActs : Obligations.HdmWindowActs := by
  intro s off d hport hcfg
  refine ⟨fun hoff hdec => ⟨fun hmem hide => ⟨fun b hb => ?_, fun hb => ?_⟩, fun hmem => ?_, fun hd => ?_⟩, fun hoff hd => ?_,
    fun hoff => ?_, fun a rest hdirty => ?_, ?_, fun hoff => hdm_noSuchAddress s hoff d⟩
  · exact execHdmRead_active hport hcfg hoff hdec hmem hide hb
  · exact execHdmRead_active hport hcfg hoff hdec hmem hide hb
  · exact execHdmRead_inactive hport hcfg hoff hdec hmem
  · exact execHdmWrite_data hport hcfg hoff hdec hd
  · exact execBirsp_data hport hcfg hoff hd
  · exact execBirsp_empty hport hcfg hoff
  · exact execBisnpinv_dirty hport hdirty
  · exact execH2dSnoop_miss hport hcfg off

end Sys2Proof.Machine
end

section
/-! PROOFS. The memory protection engine at work: what its accesses, its write-backs and its sweeps keep of the spaces of the
session they serve, and that they leave every other space alone. -/

namespace Sys2Proof.Machine

/-! ### Reading the spaces -/

@[simp] theorem State.session_onChan (s : State) (sp : Space) (f : Channel → Channel) (j : Nat) : (s.onChan sp f).session j = s.session j := by
  cases sp <;> rfl

@[simp] theorem State.session_touch (s : State) (sp : Space) (l : List Nat) (j : Nat) : (s.touch sp l).session j = s.session j := by
  unfold State.touch
  split <;> rfl

@[simp] theorem State.session_touchData (s : State) (sp : Space) (l : List Nat) (j : Nat) : (s.touchData sp l).session j = s.session j :=
  s.session_touch sp _ j

section
variable (s : State) (q : Space)

@[simp] theorem State.chan_onSession (i : Nat) (f : Session → Session) : (s.onSession i f).chan q = s.chan q := by
  cases q <;> rfl

@[simp] theorem State.chan_onMem (i : Nat) (f : MemRec → MemRec) : (s.onMem i f).chan q = s.chan q := s.chan_onSession q i _

@[simp] theorem State.chan_touch (sp : Space) (l : List Nat) : (s.touch sp l).chan q = s.chan q := by
  unfold State.touch
  split
  · rfl
  · cases q <;> rfl

@[simp] theorem State.chan_touchData (sp : Space) (l : List Nat) : (s.touchData sp l).chan q = s.chan q := s.chan_touch q sp _

/-- A fold of steps that leave a space as it is. -/
theorem State.chan_foldl {β : Type} {f : State → β → State} {q : Space} (hf : ∀ s b, (f s b).chan q = s.chan q) (l : List β)
    (s : State) : (l.foldl f s).chan q = s.chan q := by
  induction l generalizing s with
  | nil => rfl
  | cons b l ih => exact (ih _).trans (hf s b)

@[simp] theorem State.chan_sample (i key ev : Nat) : (s.sample i key ev).chan q = s.chan q := s.chan_onSession q i _

@[simp] theorem State.chan_bump (i key n runs : Nat) : (s.bump i key n runs).chan q = s.chan q := by
  obtain ⟨d, p, l, ev, h⟩ := s.bump_cases i key n runs
  rw [h, State.chan_foldl fun t _ => t.chan_sample q i key ev]
  cases q <;> rfl

@[simp] theorem State.chan_memEvent (i : Nat) (sp : Space) (a b n : Nat) : (s.memEvent i sp a b n).chan q = s.chan q := by
  have h (u ev : Nat) : (s.perfEvent i u ev n).chan q = s.chan q := by
    unfold State.perfEvent State.perfRuns
    split
    · rfl
    · exact State.chan_foldl (fun t (e : Nat × Counter) => t.chan_bump q i e.1 n n) _ s
  unfold State.memEvent
  split <;> split
  · rfl
  · exact h _ _
  · rfl
  · exact h _ _

@[simp] theorem State.chan_violation (i : Nat) (sp : Space) (a k lv o : Nat) : (s.violation i sp a k lv o).chan q = s.chan q := by
  unfold State.violation
  rw [State.chan_onSession, State.chan_onMem]

@[simp] theorem State.chan_checkLine (i : Nat) (sp : Space) (line k : Nat) : (s.checkLine i sp line k).1.chan q = s.chan q := by
  unfold State.checkLine
  dsimp only
  split
  · simp
  · split <;> simp

end

section
variable {s : State} {i : Nat} {sp : Space}

/-- A space a session holds is one of the module's. -/
theorem State.chan_onChan_same (hi : i < 4) (hsp : sp ∈ s.spaces i) (f : Channel → Channel) :
    (s.onChan sp f).chan sp = f (s.chan sp) := by
  obtain ⟨hm, -⟩ := List.mem_filter.1 hsp
  rcases List.mem_append.1 hm with hm | hm
  · obtain ⟨c, hc, rfl⟩ := List.mem_map.1 hm
    exact vget_vset_same _ _ _ (List.mem_range.1 hc)
  · obtain rfl := List.mem_singleton.1 hm
    exact vget_vset_same _ _ _ hi

theorem State.chan_onChan_other {q : Space} (hq : q ≠ sp) (f : Channel → Channel) : (s.onChan sp f).chan q = s.chan q :=
  (s.chan_onChan sp q f).resolve_right fun h => hq h.1

/-- A space that a session holds, by its number. -/
theorem State.mem_spaces : sp ∈ s.spaces i ↔ (∃ c < 64, sp = .hbm c ∧ s.holderOf sp = some i) ∨
    (sp = .far i ∧ s.holderOf sp = some i) := by
  simp only [State.spaces, List.mem_filter, List.mem_append, List.mem_map, List.mem_range, List.mem_singleton, decide_eq_true_eq]
  constructor
  · rintro ⟨⟨c, hc, rfl⟩ | rfl, h⟩
    · exact .inl ⟨c, hc, rfl, h⟩
    · exact .inr ⟨rfl, h⟩
  · rintro (⟨c, hc, rfl, h⟩ | ⟨rfl, h⟩)
    · exact ⟨.inl ⟨c, hc, rfl⟩, h⟩
    · exact ⟨.inr rfl, h⟩

end

/-! ### What stands in a session -/

theorem Context.live_of_stopped {k : Context} (h : k.state = .stopped) : k.live = false := by
  simp [Context.live, h]

/-- Stopping one context leaves each other, and itself where it does not execute. -/
theorem Session.stopCtx_other {x : Session} {c d : Nat} (st : Status) (h : c = d → (x.ctx d).live = false) :
    (x.stopCtx c st).ctx d = x.ctx d := by
  by_cases hc : (x.ctx c).live = true
  · have hne : c ≠ d := fun e => by
      subst e
      rw [h rfl] at hc
      exact Bool.false_ne_true hc
    rw [Session.stopCtx_live st hc]
    exact x.setCtx_other _ hne
  · rw [Session.stopCtx, if_neg hc]

theorem Session.foldl_stopCtx_dead {d : Nat} (st : Status) (l : List Nat) {x : Session} (h : (x.ctx d).live = false) :
    (l.foldl (fun x c => x.stopCtx c st) x).ctx d = x.ctx d := by
  induction l generalizing x with
  | nil => rfl
  | cons c l ih =>
    have hc := Session.stopCtx_other (c := c) st fun _ => h
    exact (ih (by rwa [hc])).trans hc

/-- R360: every context that executes stops with the status. -/
theorem Session.stopAll_ctx {x : Session} {d : Nat} (st : Status) (hd : d < 4) (h : (x.ctx d).live = true) :
    ((x.stopAll st).ctx d).state = .stopped ∧ ((x.stopAll st).ctx d).status = st := by
  have hall (l : List Nat) (hl : d ∈ l) {x : Session} (h : (x.ctx d).live = true) :
      ((l.foldl (fun x c => x.stopCtx c st) x).ctx d).state = .stopped ∧ ((l.foldl (fun x c => x.stopCtx c st) x).ctx d).status = st := by
    induction l generalizing x with
    | nil => exact absurd hl List.not_mem_nil
    | cons c l ih =>
      by_cases e : c = d
      · subst e
        have hs := Session.stopCtx_ctx st hd h
        rw [List.foldl_cons, Session.foldl_stopCtx_dead st l (Context.live_of_stopped hs.1)]
        exact hs
      · have hc := Session.stopCtx_other (x := x) st fun h => absurd h e
        exact ih ((List.mem_cons.1 hl).resolve_left fun h => e h.symm) (by rwa [hc])
  exact hall _ (List.mem_range.2 hd) h

/-- A quarantine stands, and so does a context that does not execute. -/
structure Session.Stands (x y : Session) : Prop where
  quarantined : x.mem.quarantined = true → y.mem.quarantined = true
  dead : ∀ c, (x.ctx c).live = false → y.ctx c = x.ctx c

theorem Session.Stands.refl (x : Session) : x.Stands x := ⟨id, fun _ _ => rfl⟩

theorem Session.Stands.trans {x y z : Session} (h : x.Stands y) (g : y.Stands z) : x.Stands z where
  quarantined hx := g.quarantined (h.quarantined hx)
  dead c hc :=
    have hy := h.dead c hc
    (g.dead c (by rwa [hy])).trans hy

theorem State.stands_onSession (s : State) (i : Nat) {f : Session → Session} (h : (s.session i).Stands (f (s.session i))) :
    (s.session i).Stands ((s.onSession i f).session i) := by
  by_cases hi : i < 4
  · rwa [State.onSession_same s _ hi]
  · rw [State.session, State.session, vget_beyond _ _ (Nat.le_of_not_lt hi), vget_beyond _ _ (Nat.le_of_not_lt hi)]
    exact .refl _

theorem State.stands_onMem (s : State) (i : Nat) {f : MemRec → MemRec}
    (h : (s.session i).mem.quarantined = true → (f (s.session i).mem).quarantined = true) :
    (s.session i).Stands ((s.onMem i f).session i) :=
  s.stands_onSession i ⟨h, fun _ _ => rfl⟩

/-! ### Work of a session on its spaces -/

/-- Work of session `i` that takes each space to one in the relation `R` of that space with it, keeps the holder of each, and leaves
those that the session does not hold, and its quarantine and its stopped contexts, as they are. -/
structure State.Works (R : Space → Channel → Channel → Prop) (s t : State) (i : Nat) : Prop where
  own : s.OwnWork t i
  core : t.core i = s.core i
  stands : (s.session i).Stands (t.session i)
  holder : ∀ q, (t.chan q).holder = (s.chan q).holder
  other : ∀ q, q ∉ s.spaces i → t.chan q = s.chan q
  chans : ∀ q, R q (s.chan q) (t.chan q)

section
variable {R : Space → Channel → Channel → Prop} {s t u : State} {i : Nat} {sp : Space}

theorem State.Works.holderOf (h : State.Works R s t i) (q : Space) : t.holderOf q = s.holderOf q := by
  cases q with
  | hbm c => exact congrArg (Option.map Prod.fst) (h.holder (.hbm c))
  | far j =>
    have hx : (t.session j).config = (s.session j).config ∧ (t.session j).state = (s.session j).state := by
      obtain ⟨-, hj, hc, -, -⟩ := h.own
      by_cases hji : j = i
      · subst hji
        exact ⟨hc, congrArg (fun q => q.1.state) h.core⟩
      · by_cases hj4 : j < 4
        · rw [hj j hj4 hji]
          exact ⟨rfl, rfl⟩
        · rw [State.session, vget_beyond _ _ (Nat.le_of_not_lt hj4), State.session, vget_beyond _ _ (Nat.le_of_not_lt hj4)]
          exact ⟨rfl, rfl⟩
    have hgib : (t.session j).farGib = (s.session j).farGib := congrArg (fun b => fieldAt b 48 4) hx.1
    have hopen : (t.session j).isOpen = (s.session j).isOpen := congrArg (fun x => decide (x ≠ SessState.free)) hx.2
    simp only [State.holderOf, hgib, hopen]

theorem State.Works.spaces (h : State.Works R s t i) : t.spaces i = s.spaces i := by
  unfold State.spaces
  simp only [h.holderOf]

theorem State.Works.groupsOf (h : State.Works R s t i) (hsp : sp ∈ s.spaces i) : t.groupsOf sp = s.groupsOf sp := by
  rcases State.mem_spaces.1 hsp with ⟨c, -, rfl, -⟩ | ⟨rfl, -⟩
  · rfl
  · simp only [State.groupsOf, Session.farGib, Session.cfgField, h.own.2.2.1]

theorem State.Works.trans (hR : ∀ q a b c, R q a b → R q b c → R q a c) (h : State.Works R s t i) (g : State.Works R t u i) :
    State.Works R s u i where
  own := h.own.trans g.own
  core := g.core.trans h.core
  stands := h.stands.trans g.stands
  holder q := (g.holder q).trans (h.holder q)
  other q hq := (g.other q (by rwa [h.spaces])).trans (h.other q hq)
  chans q := hR q _ _ _ (h.chans q) (g.chans q)

/-- Work that leaves every space as it is. -/
theorem State.Works.of_chan (hR : ∀ q a, R q a a) (ho : s.OwnWork t i) (hc : t.core i = s.core i)
    (hst : (s.session i).Stands (t.session i)) (h : ∀ q, t.chan q = s.chan q) : State.Works R s t i where
  own := ho
  core := hc
  stands := hst
  holder q := by rw [h]
  other q _ := h q
  chans q := by rw [h]; exact hR q _

/-- A change of one space of the session. -/
theorem State.Works.onChan (hR : ∀ q a, R q a a) (hsp : sp ∈ s.spaces i) {f : Channel → Channel}
    (hh : (f (s.chan sp)).holder = (s.chan sp).holder) (hf : R sp (s.chan sp) (f (s.chan sp))) : State.Works R s (s.onChan sp f) i where
  own := State.OwnWork.onChan s i sp f
  core := s.core_onChan i sp f
  stands := by
    rw [State.session_onChan]
    exact .refl _
  holder q := by
    rcases s.chan_onChan sp q f with h | ⟨rfl, h⟩
    · rw [h]
    · rw [h, hh]
  other q hq := (s.chan_onChan sp q f).resolve_right fun h => hq (h.1 ▸ hsp)
  chans q := by
    rcases s.chan_onChan sp q f with h | ⟨rfl, h⟩
    · rw [h]
      exact hR q _
    · rw [h]
      exact hf

theorem State.Works.mono {R' : Space → Channel → Channel → Prop} (hR : ∀ q a b, R q a b → R' q a b) (h : State.Works R s t i) :
    State.Works R' s t i :=
  ⟨h.own, h.core, h.stands, h.holder, h.other, fun q => hR q _ _ (h.chans q)⟩

end

/-! ### What the protection engine keeps of a space -/

/-- What metadata work keeps of a space: every counter, and, where the space has no fault, that it has none and its bytes. -/
structure Channel.Moves (a b : Channel) : Prop where
  counters : b.counters = a.counters
  sound : a.Sound → b.Sound ∧ b.data = a.data

/-- What metadata work keeps of a space while no key epoch rolls: how far its sweep has come as well. -/
structure Channel.Plain (a b : Channel) : Prop extends Channel.Moves a b where
  sweep : b.sweep = a.sweep
  ahead : b.ahead = a.ahead

theorem Channel.Moves.refl (a : Channel) : a.Moves a := ⟨rfl, fun h => ⟨h, rfl⟩⟩

theorem Channel.Moves.trans (a b c : Channel) (h : a.Moves b) (g : b.Moves c) : a.Moves c where
  counters := g.counters.trans h.counters
  sound ha :=
    have hb := h.sound ha
    have hc := g.sound hb.1
    ⟨hc.1, hc.2.trans hb.2⟩

theorem Channel.Plain.refl (a : Channel) : a.Plain a := ⟨.refl a, rfl, rfl⟩

theorem Channel.Plain.trans (a b c : Channel) (h : a.Plain b) (g : b.Plain c) : a.Plain c :=
  ⟨Channel.Moves.trans a b c h.toMoves g.toMoves, g.sweep.trans h.sweep, g.ahead.trans h.ahead⟩

theorem Channel.Moves.pair {a b : Channel} (h : a.Moves b) (l : Nat) : b.pair l = a.pair l := by
  simp only [Channel.pair, Channel.page, h.counters]

theorem Channel.Moves.lineBytes {a b : Channel} (h : a.Moves b) (ha : a.Sound) (l : Nat) : b.lineBytes l = a.lineBytes l := by
  simp only [Channel.lineBytes, (h.sound ha).2]

theorem Channel.plain_cached (ch : Channel) (q : Item) (c : Option Bool) : ch.Plain (ch.cached q c) :=
  ⟨⟨rfl, fun h => ⟨h, rfl⟩⟩, rfl, rfl⟩

theorem Channel.plain_versions (ch : Channel) (v : Table (BitVec 56)) : ch.Plain { ch with versions := v } :=
  ⟨⟨rfl, fun h => ⟨h, rfl⟩⟩, rfl, rfl⟩

theorem Channel.plain_mended (ch : Channel) (q : Item) : ch.Plain (ch.mended q) := by
  unfold Channel.mended
  split
  · refine ⟨⟨rfl, fun ⟨hf, hg, hn, hl, ht⟩ => ⟨⟨hf, ?_, hn, hl, ht⟩, rfl⟩⟩, rfl, rfl⟩
    simp [hg]
  · refine ⟨⟨rfl, fun ⟨hf, hg, hn, hl, ht⟩ => ⟨⟨hf, hg, ?_, hl, ht⟩, rfl⟩⟩, rfl, rfl⟩
    simp [hn, Table.set]

theorem Channel.holder_mended (ch : Channel) (q : Item) : (ch.mended q).holder = ch.holder := by
  unfold Channel.mended
  split <;> rfl

/-- A line that stands sound is written good. -/
theorem Channel.plain_lineGood (ch : Channel) (l : Nat) : ch.Plain { ch with lines := Table.set .good ch.lines l .good } :=
  ⟨⟨rfl, fun ⟨hf, hg, hn, hl, ht⟩ => ⟨⟨hf, hg, hn, by simp [hl, Table.set], ht⟩, rfl⟩⟩, rfl, rfl⟩

theorem Channel.plain_tagFilter (ch : Channel) (f : Nat × LineCond → Bool) : ch.Plain { ch with tagLines := ch.tagLines.filter f } :=
  ⟨⟨rfl, fun ⟨hf, hg, hn, hl, ht⟩ => ⟨⟨hf, hg, hn, hl, by simp [ht]⟩, rfl⟩⟩, rfl, rfl⟩

theorem Channel.spoil_eq (ch : Channel) (l : List Nat) : ∃ d t, ch.spoil l = { ch with data := d, lines := t } := by
  unfold Channel.spoil
  generalize zeros 64 = z
  induction l generalizing ch with
  | nil => exact ⟨_, _, rfl⟩
  | cons k l ih =>
    obtain ⟨d, t, h⟩ := ih { ch with data := memStore ch.data (64 * k) z, lines := Table.set .good ch.lines k .poisoned }
    exact ⟨d, t, h⟩

theorem Channel.Sound.conds {ch : Channel} (h : ch.Sound) (q : Item) (c : LineCond) (hc : c ≠ .good) : (ch.conds q).contains c = false := by
  obtain ⟨-, hg, hn, -, -⟩ := h
  have hall : ∀ x ∈ ch.conds q, x = .good := by
    intro x hx
    unfold Channel.conds at hx
    rw [hg, hn] at hx
    split at hx
    · obtain ⟨k, -, rfl⟩ := List.mem_map.1 hx
      rfl
    · exact List.mem_singleton.1 hx
  rw [List.contains_eq_mem]
  simpa using fun hm => hc (hall c hm)

/-- What a check of a line takes for lost, by the conditions of its tag line and its own. -/
theorem contains_lost (tag cond : LineCond) : (([tag, cond].contains .uncorrectable || [tag, cond].contains .tagLost) = true) ↔
    tag = .uncorrectable ∨ tag = .tagLost ∨ cond = .uncorrectable ∨ cond = .tagLost := by
  simp only [List.contains_cons, List.contains_nil, Bool.or_false, Bool.or_eq_true, beq_iff_eq,
    eq_comm (a := LineCond.uncorrectable), eq_comm (a := LineCond.tagLost)]
  tauto

/-! ### Work while no key epoch rolls -/

/-- Work of session `i` on its metadata while no key epoch rolls. -/
structure State.Plain (s t : State) (i : Nat) : Prop extends State.Works (fun _ => Channel.Plain) s t i where
  readOnly : (t.session i).mem.readOnly = (s.session i).mem.readOnly

/-- A change of the session's memory record that leaves `readOnly`. -/
theorem State.readOnly_onMem (s : State) (i : Nat) (f : MemRec → MemRec)
    (h : (f (s.session i).mem).readOnly = (s.session i).mem.readOnly) :
    ((s.onMem i f).session i).mem.readOnly = (s.session i).mem.readOnly := by
  by_cases hi : i < 4
  · rw [State.onMem, State.onSession_same s _ hi]
    exact h
  · rw [State.session, vget_beyond _ _ (Nat.le_of_not_lt hi), State.session, vget_beyond _ _ (Nat.le_of_not_lt hi)]

theorem Session.mem_stopAll (x : Session) (st : Status) : (x.stopAll st).mem = x.mem := by
  have h (c : Nat) (x : Session) : (x.stopCtx c st).mem = x.mem := by
    unfold Session.stopCtx Session.stopCtxAt
    split
    · split <;> rfl
    · rfl
  unfold Session.stopAll
  generalize List.range 4 = l
  induction l generalizing x with
  | nil => rfl
  | cons c l ih => exact (ih _).trans (h c x)

/-- What a memory event changes of its session: the sample ring. -/
theorem State.session_memEvent (s : State) (i : Nat) (sp : Space) (a b n : Nat) :
    ∃ r, (s.memEvent i sp a b n).session i = { s.session i with ring := r } := by
  by_cases hi : i < 4
  swap
  · exact ⟨(s.session i).ring, by
      rw [State.session, vget_beyond _ _ (Nat.le_of_not_lt hi), State.session, vget_beyond _ _ (Nat.le_of_not_lt hi)]⟩
  have hfold {β : Type} (f : State → β → State) (hf : ∀ (s : State) b, ∃ r, (f s b).session i = { s.session i with ring := r })
      (l : List β) (s : State) : ∃ r, (l.foldl f s).session i = { s.session i with ring := r } := by
    induction l generalizing s with
    | nil => exact ⟨(s.session i).ring, rfl⟩
    | cons b l ih =>
      obtain ⟨r, hr⟩ := hf s b
      obtain ⟨r', hr'⟩ := ih (f s b)
      exact ⟨r', by rw [List.foldl_cons, hr', hr]⟩
  have hsample (key ev : Nat) (s : State) : ∃ r, (s.sample i key ev).session i = { s.session i with ring := r } := by
    rw [State.sample, State.onSession_same _ _ hi]
    exact Session.requestSample_keeps _ _ _ _ _ _ _
  have hperf (u ev : Nat) : ∃ r, (s.perfEvent i u ev n).session i = { s.session i with ring := r } := by
    unfold State.perfEvent State.perfRuns
    split
    · exact ⟨(s.session i).ring, rfl⟩
    · refine hfold _ (fun s e => ?_) _ s
      obtain ⟨d, p, l, ev', h⟩ := s.bump_cases i e.1 n n
      rw [h]
      exact hfold _ (fun s _ => hsample e.1 ev' s) l { s with draws := d, perf := p }
  unfold State.memEvent
  split <;> split
  · exact ⟨(s.session i).ring, rfl⟩
  · exact hperf _ _
  · exact ⟨(s.session i).ring, rfl⟩
  · exact hperf _ _

@[simp] theorem State.mem_memEvent (s : State) (i : Nat) (sp : Space) (a b n : Nat) :
    ((s.memEvent i sp a b n).session i).mem = (s.session i).mem := by
  obtain ⟨r, h⟩ := s.session_memEvent i sp a b n
  rw [h]

section
variable {s t u : State} {i : Nat} {sp : Space}

theorem State.Plain.trans (h : s.Plain t i) (g : t.Plain u i) : s.Plain u i :=
  ⟨h.toWorks.trans (fun _ => Channel.Plain.trans) g.toWorks, g.readOnly.trans h.readOnly⟩

theorem State.Plain.refl (s : State) (i : Nat) : s.Plain s i :=
  ⟨.of_chan (fun _ => Channel.Plain.refl) (.refl s i) rfl (.refl _) fun _ => rfl, rfl⟩

/-- A free value is taken. -/
theorem State.Plain.drawn (s : State) (i : Nat) : s.Plain ({ s with draws := s.draws + 1 } : State) i :=
  ⟨.of_chan (fun _ => Channel.Plain.refl) ⟨rfl, fun _ _ _ => rfl, rfl, rfl, rfl⟩ rfl (.refl _) fun q => by cases q <;> rfl, rfl⟩

theorem State.Plain.onChan (hsp : sp ∈ s.spaces i) {f : Channel → Channel} (hh : (f (s.chan sp)).holder = (s.chan sp).holder)
    (hf : (s.chan sp).Plain (f (s.chan sp))) : s.Plain (s.onChan sp f) i := by
  refine ⟨.onChan (fun _ => Channel.Plain.refl) hsp hh hf, ?_⟩
  rw [show (s.onChan sp f).session i = s.session i by cases sp <;> rfl]

theorem State.Plain.cached (hsp : sp ∈ s.spaces i) (q : Item) (c : Option Bool) : s.Plain (s.onChan sp fun ch => ch.cached q c) i :=
  .onChan hsp rfl (Channel.plain_cached _ q c)

theorem State.Plain.versions (hsp : sp ∈ s.spaces i) (f : Channel → Table (BitVec 56)) :
    s.Plain (s.onChan sp fun ch => { ch with versions := f ch }) i :=
  .onChan hsp rfl (Channel.plain_versions _ _)

theorem State.Plain.onMem (s : State) (i : Nat) (f : MemRec → MemRec)
    (h : (f (s.session i).mem).readOnly = (s.session i).mem.readOnly)
    (hq : (s.session i).mem.quarantined = true → (f (s.session i).mem).quarantined = true := by exact id) : s.Plain (s.onMem i f) i :=
  ⟨.of_chan (fun _ => Channel.Plain.refl) (.onMem s i f) (s.core_onMem i f) (s.stands_onMem i hq)
    fun q => s.chan_onMem q i f, s.readOnly_onMem i f h⟩

theorem State.Plain.touch (s : State) (i : Nat) (sp : Space) (l : List Nat) : s.Plain (s.touch sp l) i := by
  refine ⟨.of_chan (fun _ => Channel.Plain.refl) (s.touch_ownWork i sp l) (s.core_touch i sp l)
    (by rw [State.session_touch]; exact .refl _) fun q => s.chan_touch q sp l, ?_⟩
  unfold State.touch
  split <;> rfl

theorem State.Plain.memEvent (s : State) (i : Nat) (sp : Space) (a b n : Nat) : s.Plain (s.memEvent i sp a b n) i := by
  obtain ⟨r, hr⟩ := s.session_memEvent i sp a b n
  refine ⟨.of_chan (fun _ => Channel.Plain.refl) (s.memEvent_ownWork i sp a b n) (s.core_memEvent i sp a b n)
    (by rw [hr]; exact ⟨id, fun _ _ => rfl⟩) fun q => s.chan_memEvent q i sp a b n, ?_⟩
  rw [State.mem_memEvent]

theorem State.stands_violation (s : State) (i : Nat) (sp : Space) (a k lv o : Nat) :
    (s.session i).Stands ((s.violation i sp a k lv o).session i) := by
  unfold State.violation
  extract_lets e v
  have hv : (s.session i).Stands (v.session i) := s.stands_onMem i fun _ => rfl
  clear_value v
  refine hv.trans (v.stands_onSession i ⟨fun h => ?_, fun c hc => Session.foldl_stopCtx_dead _ _ hc⟩)
  rwa [Session.mem_stopAll]

theorem State.Plain.violation (s : State) (i : Nat) (sp : Space) (a k lv o : Nat) : s.Plain (s.violation i sp a k lv o) i := by
  refine ⟨.of_chan (fun _ => Channel.Plain.refl) (s.violation_ownWork i sp a k lv o) (s.core_violation i sp a k lv o)
    (s.stands_violation i sp a k lv o) fun q => s.chan_violation q i sp a k lv o, ?_⟩
  unfold State.violation
  extract_lets e v
  have hv : (v.session i).mem.readOnly = (s.session i).mem.readOnly := s.readOnly_onMem i _ rfl
  clear_value v
  by_cases hi : i < 4
  · rw [State.onSession_same _ _ hi, Session.mem_stopAll, hv]
  · rw [State.session, vget_beyond _ _ (Nat.le_of_not_lt hi), State.session, vget_beyond _ _ (Nat.le_of_not_lt hi)]

/-- A fold of steps each of which is such work, on a session whose spaces do not change. -/
theorem State.Plain.foldl {β : Type} {f : State → β → State}
    (hf : ∀ (s : State) b, sp ∈ s.spaces i → s.Plain (f s b) i) (l : List β) (hsp : sp ∈ s.spaces i) : s.Plain (l.foldl f s) i := by
  induction l generalizing s with
  | nil => exact .refl s i
  | cons b l ih =>
    have h := hf s b hsp
    exact h.trans (ih (by rwa [h.spaces]))

end

section
variable (s : State) (i : Nat) {sp : Space} (hsp : sp ∈ s.spaces i)
include hsp

theorem State.fetchItem_plain (q : Item) : s.Plain (s.fetchItem i sp q).1 i := by
  unfold State.fetchItem
  extract_lets ch corr t
  have ht : s.Plain t i := (State.Plain.memEvent s i sp _ _ _).trans (.onMem _ i _ rfl)
  have hfail (e : List (Nat × LineCond)) {c : LineCond} (hc : c ≠ .good) (h : (ch.conds q).contains c = true) :
      t.Plain (t.onChan sp fun ch => { ch with failed := ch.failed ++ e }) i := by
    refine .onChan (by rwa [ht.spaces]) rfl ⟨⟨rfl, fun hs => ?_⟩, rfl, rfl⟩
    have hch : t.chan sp = s.chan sp := by simp [t]
    rw [hch] at hs
    exact absurd h (by rw [hs.conds q c hc]; decide)
  clear_value t
  split
  · exact .cached hsp q _
  · split
    · next h =>
      dsimp only
      exact ht.trans ((hfail [(q.key, .uncorrectable)] (by decide) h).trans (.onMem _ i _ rfl))
    · split
      · next h => exact ht.trans ((hfail _ (by decide) h).trans (.violation _ i sp _ _ _ _))
      · exact ht.trans (.cached (by rwa [ht.spaces]) q _)

theorem State.fetchAll_plain (l : List Item) : s.Plain (s.fetchAll i sp l).1 i := by
  induction l generalizing s with
  | nil => exact .refl s i
  | cons q l ih =>
    have h := s.fetchItem_plain i hsp q
    unfold State.fetchAll
    dsimp only
    split
    · exact h.trans (ih _ (by rwa [h.spaces]))
    · exact h

theorem State.reach_plain (path : List Item) : s.Plain (s.reach i sp path).1 i := by
  unfold State.reach
  split
  · exact .refl s i
  · exact s.fetchAll_plain i hsp _

theorem State.storeItem_plain (q : Item) : s.Plain (s.storeItem i sp q) i := by
  unfold State.storeItem
  dsimp only
  refine (State.Plain.onChan hsp (Channel.holder_mended _ q) ?_).trans (.touch _ i sp _)
  have h := Channel.plain_mended (s.chan sp) q
  exact ⟨⟨h.counters, h.sound⟩, h.sweep, h.ahead⟩

omit hsp in
theorem State.checkLine_plain (line k : Nat) : s.Plain (s.checkLine i sp line k).1 i := by
  unfold State.checkLine
  extract_lets ch conds t
  have ht : s.Plain t i := (State.Plain.memEvent s i sp _ _ _).trans (.onMem _ i _ rfl)
  clear_value t
  split
  · dsimp only
    exact ht.trans (.onMem t i _ rfl)
  · split
    · exact ht.trans (.violation t i sp _ _ _ _)
    · exact ht
    · exact ht

omit hsp in
/-- R344, R357, R358: what a check of a line finds, by the condition of its tag line and its own. -/
theorem State.checkLine_status (line k : Nat) : (s.checkLine i sp line k).2 =
    let tag := Table.get .good (s.chan sp).tagLines (line / 8)
    let cond := Table.get .good (s.chan sp).lines line
    if tag = .uncorrectable ∨ tag = .tagLost ∨ cond = .uncorrectable ∨ cond = .tagLost then stUncorrectable
    else if cond = .tagBad then stIntegrity
    else if cond = .poisoned then stPoisoned
    else stOk := by
  unfold State.checkLine
  dsimp only
  generalize Table.get .good (s.chan sp).tagLines (line / 8) = tag
  generalize Table.get .good (s.chan sp).lines line = cond
  simp only [contains_lost]
  split
  · rfl
  · cases cond <;> rfl

omit hsp in
theorem State.checkLine_sound (h : (s.chan sp).Sound) (line k : Nat) : (s.checkLine i sp line k).2 = stOk := by
  obtain ⟨-, -, -, hl, ht⟩ := h
  rw [State.checkLine_status, hl, ht]
  rfl

theorem State.renewLine_plain (line : Nat) : s.Plain (s.renewLine i sp line) i := by
  unfold State.renewLine
  dsimp only
  have hr := s.checkLine_plain i (sp := sp) line 1
  have hst (h : ((s.checkLine i sp line 1).1.chan sp).Sound) : (s.checkLine i sp line 1).2 = stOk :=
    s.checkLine_sound i (by rwa [State.chan_checkLine] at h) line 1
  generalize s.checkLine i sp line 1 = r at hr hst
  have hsp1 : sp ∈ r.1.spaces i := by rwa [hr.spaces]
  have hv : r.1.Plain (if r.2 = stUncorrectable ∨ r.2 = stIntegrity then
      r.1.onChan sp fun ch => (ch.spoil (ch.spoiledWith line)).tagGood (line / 8) else r.1) i := by
    split
    · next hbad =>
      obtain ⟨d, t, he⟩ := (r.1.chan sp).spoil_eq ((r.1.chan sp).spoiledWith line)
      refine .onChan hsp1 (by rw [he]; rfl) ?_
      rw [he]
      refine ⟨⟨rfl, fun h => absurd hbad ?_⟩, rfl, rfl⟩
      rw [hst h]
      decide
    · exact .refl _ i
  generalize (if r.2 = stUncorrectable ∨ r.2 = stIntegrity then _ else r.1) = v at hv ⊢
  refine hr.trans (hv.trans (.onChan (by rwa [hv.spaces]) ?_ ?_))
  · split <;> rfl
  · split
    · exact .refl _
    · exact Channel.plain_lineGood _ line

theorem State.renewPage_plain (p : Nat) : s.Plain (s.renewPage i sp p) i := by
  unfold State.renewPage
  extract_lets lines t
  have ht : s.Plain t i := (State.Plain.foldl (fun s l h => s.renewLine_plain i h l) lines hsp).trans (.memEvent _ i sp _ _ _)
  exact ht.trans ((State.Plain.onChan (by rwa [ht.spaces]) rfl (Channel.plain_tagFilter _ _)).trans (.touch _ i sp _))

theorem State.plainVersion_plain (q : Item) : s.Plain (s.plainVersion i sp q).1 i := by
  unfold State.plainVersion
  dsimp only
  split
  · exact .refl s i
  · dsimp only
    exact .versions hsp _

theorem State.renewNodes_plain (old : Channel) : s.Plain (s.renewNodes i sp old) i :=
  .foldl (fun s q h => s.storeItem_plain i h q) _ hsp

end

/-! ### Making room, by work of a kind -/

section
variable {Rel : State → State → Prop} {i : Nat} (hplain : ∀ {s t : State}, s.Plain t i → Rel s t)
  (htrans : ∀ {s t u : State}, Rel s t → Rel t u → Rel s u) (hspaces : ∀ {s t : State}, Rel s t → t.spaces i = s.spaces i)
  {next : State → Nat → Space → Item → State × Bool}
  (hnext : ∀ (s : State) (sp : Space) (q : Item), sp ∈ s.spaces i → Rel s (next s i sp q).1)
include hplain htrans hspaces hnext

theorem State.evictBy_rel (s : State) {sp : Space} (hsp : sp ∈ s.spaces i) (q : Item) : Rel s (State.evictBy next s i sp q) := by
  unfold State.evictBy
  split
  · exact hplain (.refl s i)
  · exact hplain (.cached hsp q _)
  · dsimp only
    have hr := s.reach_plain i hsp (s.path sp q).dropLast
    generalize s.reach i sp (s.path sp q).dropLast = r at hr
    have hsp1 : sp ∈ r.1.spaces i := by rwa [hr.spaces]
    split
    · exact hplain (hr.trans (.cached hsp1 q _))
    · have hv := hnext r.1 sp q hsp1
      generalize next r.1 i sp q = v at hv
      have hsp2 : sp ∈ v.1.spaces i := by rwa [hspaces hv]
      have hrv := htrans (hplain hr) hv
      split
      · have hw := (v.1.storeItem_plain i hsp2 q).trans (.cached (by rwa [(v.1.storeItem_plain i hsp2 q).spaces]) q none)
        split
        · exact htrans hrv (hplain (hw.trans (.cached (by rwa [hw.spaces]) _ _)))
        · exact htrans hrv (hplain hw)
      · exact hrv

omit hplain htrans hspaces hnext in
/-- The ways of an owner hold items of the session's spaces alone. -/
theorem State.mem_spaces_of_inWays {s : State} {sp : Space} (hsp : sp ∈ s.spaces i) {o : Nat} {e : Space × Item}
    (he : e ∈ s.inWays i sp o) : e.1 ∈ s.spaces i := by
  cases sp with
  | hbm c =>
    obtain ⟨l, hl, hel⟩ := List.mem_flatten.1 he
    obtain ⟨d, hd, rfl⟩ := List.mem_map.1 hl
    obtain ⟨x, -, rfl⟩ := List.mem_map.1 hel
    obtain ⟨hd64, hp⟩ := List.mem_filter.1 hd
    simp only [Bool.and_eq_true, decide_eq_true_eq] at hp
    exact State.mem_spaces.2 (.inl ⟨d, List.mem_range.1 hd64, rfl, congrArg (Option.map Prod.fst) hp.2⟩)
  | far j =>
    obtain ⟨x, -, rfl⟩ := List.mem_map.1 (List.mem_filter.1 he).1
    exact hsp

theorem State.makeRoomFor_rel (sp : Space) (o n fuel k : Nat) {s : State} (hsp : sp ∈ s.spaces i) :
    Rel s (State.makeRoomFor next i sp o n fuel k s) := by
  induction fuel generalizing k s with
  | zero => exact hplain (.refl s i)
  | succ fuel ih =>
    unfold State.makeRoomFor
    dsimp only
    split
    · next e he =>
      have h := State.evictBy_rel hplain htrans hspaces hnext s (State.mem_spaces_of_inWays hsp (List.mem_of_getElem? he)) e.2
      split
      · exact htrans h (ih (k + 1) (by rwa [hspaces h]))
      · exact hplain (.refl s i)
    · exact hplain (.refl s i)

theorem State.makeRoom_rel {s : State} {sp : Space} (hsp : sp ∈ s.spaces i) (o : Nat) : Rel s (State.makeRoom next s i sp o) := by
  have h := State.Plain.drawn s i
  exact htrans (hplain h) (State.makeRoomFor_rel hplain htrans hspaces hnext sp o _ _ _ (by rwa [h.spaces]))

end

/-! ### Sweeping -/

section
variable {s : State} {i : Nat} {sp : Space} (hsp : sp ∈ s.spaces i)
include hsp

/-- What a walk of the sweep does before it comes to the lines of its group. -/
theorem State.sweepReach_plain (o : Nat) (path : List Item) : s.Plain ((State.makeRoom State.plainVersion s i sp o).reach i sp path).1 i := by
  have h := State.makeRoom_rel (Rel := fun s t => s.Plain t i) id State.Plain.trans (fun h => h.spaces)
    (fun s sp q h => s.plainVersion_plain i h q) hsp o
  exact h.trans (State.reach_plain _ i (by rwa [h.spaces]) path)

/-- R355: a group is swept by work that leaves the sweep's pointer, but for its mark. -/
theorem State.sweepGroup_plain (g : Nat) {mark : Channel → Channel} (hm : ∀ ch, (mark ch).holder = ch.holder) :
    ∃ u, s.Plain u i ∧ (u.onChan sp mark).Plain (s.sweepGroup i sp g mark) i := by
  unfold State.sweepGroup
  extract_lets old
  have hr := State.sweepReach_plain hsp ((s.session i).itemOwner sp (0, g)) (s.path sp (0, g))
  generalize (State.makeRoom State.plainVersion s i sp ((s.session i).itemOwner sp (0, g))).reach i sp (s.path sp (0, g)) = r at hr
  obtain ⟨t, st⟩ := r
  dsimp -zeta only at hr ⊢
  extract_lets pages u v w x y
  have hspt : sp ∈ t.spaces i := by rwa [hr.spaces]
  have hu : s.Plain u i := by
    unfold u
    split
    · exact hr.trans (.foldl (fun s p h => s.renewPage_plain i h p) _ hspt)
    · exact hr
  refine ⟨u, hu, ?_⟩
  have hspv : sp ∈ v.spaces i := by
    have hv : State.Works (fun _ _ _ => True) u v i := .onChan (fun _ _ => trivial) (by rwa [hu.spaces]) (hm _) trivial
    rwa [hv.spaces, hu.spaces]
  change v.Plain _ i
  clear_value v
  have hw : v.Plain w i := by
    unfold w
    split
    · exact .onChan hspv rfl ((Channel.plain_versions _ _).trans _ _ _ (Channel.plain_cached _ _ _))
    · exact .refl v i
  have hspw : sp ∈ w.spaces i := by rwa [hw.spaces]
  have hx : v.Plain x i := hw.trans ((w.storeItem_plain i hspw (0, g)).trans
    (.cached (by rwa [(w.storeItem_plain i hspw (0, g)).spaces]) _ _))
  have hy : v.Plain y i := by
    unfold y
    split
    · exact .refl v i
    · split
      · exact hx
      · exact hx.trans (x.storeItem_plain i (by rwa [hx.spaces]) (1, g))
  exact hy.trans (y.renewNodes_plain i (by rwa [hy.spaces]) old)

end

end Sys2Proof.Machine
end

section
/-! PROOFS. O39. A step of the key-epoch sweep, from what the work on its group leaves of the sweep's pointer. -/

namespace Sys2Proof.Machine

/-! ### Where the pointer comes to stand -/

/-- A pointer that moves past what has been swept ahead passes nothing else. -/
theorem past_ahead (ahead : List Nat) (l : List Nat) (p : Nat) :
    let e := l.foldl (fun p _ => if ahead.contains p then p + 1 else p) p
    p ≤ e ∧ ∀ k, p ≤ k → k < e → k ∈ ahead := by
  induction l generalizing p with
  | nil => exact ⟨Nat.le_refl p, fun k h1 h2 => absurd h2 (Nat.not_lt.2 h1)⟩
  | cons a l ih =>
    rw [List.foldl_cons]
    split
    · next h =>
      obtain ⟨h1, h2⟩ := ih (p + 1)
      refine ⟨by omega, fun k hk he => ?_⟩
      by_cases hkp : k = p
      · subst hkp
        simpa using h
      · exact h2 k (by omega) he
    · exact ih p

theorem Channel.sweptTo_sweep (ch : Channel) (p : Nat) :
    ∃ e, (ch.sweptTo p).sweep = some e ∧ p ≤ e ∧ ∀ k, p ≤ k → k < e → k ∈ ch.ahead :=
  ⟨_, rfl, past_ahead ch.ahead _ p⟩

theorem Channel.sweptTo_congr {a b : Channel} (h : b.ahead = a.ahead) (p : Nat) : (b.sweptTo p).sweep = (a.sweptTo p).sweep := by
  simp only [Channel.sweptTo, h]

section
variable {s : State} {i : Nat} {sp : Space} (hi : i < 4) (hsp : sp ∈ s.spaces i)
include hi hsp

/-- R355: after a step of the sweep its pointer stands where the pointer and the groups swept ahead put it. -/
theorem State.sweepGroup_sweep (g : Nat) :
    ((s.sweepGroup i sp g (·.sweptTo (g + 1))).chan sp).sweep = ((s.chan sp).sweptTo (g + 1)).sweep := by
  obtain ⟨u, hu, hv⟩ := State.sweepGroup_plain hsp g (mark := (·.sweptTo (g + 1))) fun _ => rfl
  rw [(hv.chans sp).sweep, State.chan_onChan_same hi (by rwa [hu.spaces])]
  exact Channel.sweptTo_congr (hu.chans sp).ahead (g + 1)

omit hi in
/-- A sweep of a group leaves which spaces the session holds. -/
theorem State.sweepGroup_works (g : Nat) {mark : Channel → Channel} (hm : ∀ ch, (mark ch).holder = ch.holder) :
    State.Works (fun _ _ _ => True) s (s.sweepGroup i sp g mark) i := by
  obtain ⟨u, hu, hv⟩ := State.sweepGroup_plain hsp g hm
  have htrans := fun {a b c : State} => State.Works.trans (R := fun _ _ _ => True) (s := a) (t := b) (u := c) (i := i) fun _ _ _ _ _ _ => trivial
  exact htrans (hu.toWorks.mono fun _ _ _ _ => trivial)
    (htrans (.onChan (fun _ _ => trivial) (by rwa [hu.spaces]) (hm _) trivial) (hv.toWorks.mono fun _ _ _ _ => trivial))

/-- R355: a space's sweep ends at its last group. -/
theorem State.endSweep_sweep {e : Nat} (he : (s.chan sp).sweep = some e) :
    ((s.endSweep i sp).chan sp).sweep = if s.groupsOf sp ≤ e then none else some e := by
  unfold State.endSweep
  rw [he]
  extract_lets t
  have ht : (t.chan sp).sweep = if s.groupsOf sp ≤ e then none else some e := by
    unfold t
    dsimp only
    split
    · rw [State.chan_onChan_same hi hsp]
    · exact he
  clear_value t
  split
  · rwa [State.chan_onMem]
  · exact ht

end

/-- R355: where no space of the session is swept any more, its sweep has ended. -/
theorem State.endSweep_sweeping {s : State} {i : Nat} {sp : Space} (hi : i < 4) (hsp : sp ∈ s.spaces i)
    (h : ∀ q ∈ s.spaces i, ((s.endSweep i sp).chan q).sweep = none) : ((s.endSweep i sp).session i).mem.sweeping = false := by
  unfold State.endSweep at h ⊢
  extract_lets t at h ⊢
  have ht : State.Works (fun _ _ _ => True) s t i := by
    have hrefl : State.Works (fun _ _ _ => True) s s i := .of_chan (fun _ _ => trivial) (.refl s i) rfl (.refl _) fun _ => rfl
    unfold t
    split
    · split
      · exact .onChan (fun _ _ => trivial) hsp rfl trivial
      · exact hrefl
    · exact hrefl
  clear_value t
  have hall : ((t.spaces i).all fun q => (t.chan q).sweep.isNone) = true := by
    rw [List.all_eq_true, ht.spaces]
    intro q hq
    have hq := h q hq
    split at hq
    · rw [State.chan_onMem] at hq
      simp [hq]
    · simp [hq]
  rw [if_pos hall, State.onMem, State.onSession_same _ _ hi]

/-- Settles O39: the pointer of the group's sweep, and the end of the space's and of the session's. -/
theorem sweepStepsOn : Obligations.SweepStepsOn := by
  intro s c i g hc sp hpower hholder hi hsweep
  have hsp : sp ∈ s.spaces i := by
    by_cases h64 : c < 64
    · have e : sp = .hbm c := if_pos h64
      exact State.mem_spaces.2 (.inl ⟨c, h64, e, hholder⟩)
    · have e : sp = .far (c - 64) := if_neg h64
      rw [e] at hholder
      have hic : c - 64 = i := by
        unfold State.holderOf at hholder
        dsimp only at hholder
        split at hholder
        · exact absurd hholder (by simp)
        · exact Option.some.inj hholder
      exact State.mem_spaces.2 (.inr ⟨by rw [e, hic], by rw [e]; exact hholder⟩)
  obtain ⟨e, he, hge, hahead⟩ := (s.chan sp).sweptTo_sweep (g + 1)
  have hg := State.sweepGroup_works hsp g (mark := (·.sweptTo (g + 1))) fun _ => rfl
  have hsp1 : sp ∈ (s.sweepGroup i sp g (·.sweptTo (g + 1))).spaces i := by rwa [hg.spaces]
  have hruns : s.runsIn 8 = true := by
    unfold State.runsIn
    rcases hpower with h | h <;> rw [h] <;> rfl
  refine ⟨(s.sweepGroup i sp g (·.sweptTo (g + 1))).endSweep i sp, e, ?_, ?_, rfl, he, hge, fun k h1 h2 => hahead k h1 h2, ?_, ?_⟩
  · change execSweepStep c s = _
    unfold execSweepStep
    simp only [sp, hholder, hsweep, hruns, if_true]
  · exact (s.sweepGroup_ownWork i sp g _).trans (State.endSweep_ownWork _ i sp)
  · rw [State.endSweep_sweep hi hsp1 ((State.sweepGroup_sweep hi hsp g).trans he), hg.groupsOf hsp]
  · intro h
    exact State.endSweep_sweeping hi hsp1 fun q hq => h q (by rwa [hg.spaces] at hq)

end Sys2Proof.Machine
end

section
/-! PROOFS. The memory protection engine where key epochs roll, and on spaces without a fault: a walk finds no fault, and a read
of a line answers what the space shows there. -/

namespace Sys2Proof.Machine

/-! ### Work in which a key epoch may roll -/

/-- Work of session `i` on its metadata. -/
abbrev State.Moves (s t : State) (i : Nat) : Prop := State.Works (fun _ => Channel.Moves) s t i

section
variable {s t u : State} {i : Nat} {sp : Space}

theorem State.Plain.moves (h : s.Plain t i) : s.Moves t i := h.toWorks.mono fun _ _ _ h => h.toMoves

theorem State.Moves.refl (s : State) (i : Nat) : s.Moves s i := (State.Plain.refl s i).moves

theorem State.Moves.trans (h : s.Moves t i) (g : t.Moves u i) : s.Moves u i := State.Works.trans (fun _ => Channel.Moves.trans) h g

theorem State.Moves.onMem (s : State) (i : Nat) (f : MemRec → MemRec)
    (hq : (s.session i).mem.quarantined = true → (f (s.session i).mem).quarantined = true := by exact id) : s.Moves (s.onMem i f) i :=
  .of_chan (fun _ => Channel.Moves.refl) (.onMem s i f) (s.core_onMem i f) (s.stands_onMem i hq) fun q => s.chan_onMem q i f

/-- A change of a sweep's pointer. -/
theorem State.Moves.marked (hsp : sp ∈ s.spaces i) {mark : Channel → Channel}
    (hm : ∀ ch, ∃ p l, mark ch = { ch with sweep := p, ahead := l }) :
    s.Moves (s.onChan sp mark) i := by
  obtain ⟨p, l, h⟩ := hm (s.chan sp)
  exact .onChan (fun _ => Channel.Moves.refl) hsp (by rw [h]) (by rw [h]; exact ⟨rfl, fun h => ⟨h, rfl⟩⟩)

/-- A fold of steps each of which is such work, on spaces of the session. -/
theorem State.Moves.foldl {β : Type} {f : State → β → State} (l : List β)
    (hf : ∀ (t : State), ∀ b ∈ l, t.spaces i = s.spaces i → t.Moves (f t b) i) : s.Moves (l.foldl f s) i := by
  have h (l' : List β) (hl : ∀ b ∈ l', b ∈ l) (t : State) (ht : t.spaces i = s.spaces i) : t.Moves (l'.foldl f t) i := by
    induction l' generalizing t with
    | nil => exact .refl t i
    | cons b l' ih =>
      have hb := hf t b (hl b (by simp)) ht
      exact hb.trans (ih (fun b hb => hl b (by simp [hb])) _ (hb.spaces.trans ht))
  exact h l (fun _ => id) s rfl

end

section
variable {s : State} {i : Nat} {sp : Space} (hsp : sp ∈ s.spaces i)
include hsp

theorem State.sweepGroup_moves (g : Nat) {mark : Channel → Channel} (hm : ∀ ch, ∃ p l, mark ch = { ch with sweep := p, ahead := l }) :
    s.Moves (s.sweepGroup i sp g mark) i := by
  obtain ⟨u, hu, hv⟩ := State.sweepGroup_plain hsp g (mark := mark) fun ch => by
    obtain ⟨p, l, h⟩ := hm ch
    rw [h]
  exact hu.moves.trans ((State.Moves.marked (by rwa [hu.spaces]) hm).trans hv.moves)

theorem State.sweepUpTo_moves (e : Nat) : s.Moves (s.sweepUpTo i sp e) i := by
  unfold State.sweepUpTo
  split
  · extract_lets gs t old
    have ht : s.Moves t i := .foldl gs fun t g _ h => State.sweepGroup_moves (by rwa [h]) g fun _ => ⟨_, _, rfl⟩
    have hu := State.Moves.marked (s := t) (by rwa [ht.spaces]) (mark := (·.sweptTo (max (old.sweep.getD 0) e))) fun _ => ⟨_, _, rfl⟩
    exact ht.trans (hu.trans (State.renewNodes_plain _ i (by rwa [hu.spaces, ht.spaces]) old).moves)
  · exact .refl s i

theorem State.endSweep_moves : s.Moves (s.endSweep i sp) i := by
  unfold State.endSweep
  extract_lets t
  have ht : s.Moves t i := by
    unfold t
    split
    · split
      · exact .marked hsp fun _ => ⟨_, _, rfl⟩
      · exact .refl s i
    · exact .refl s i
  clear_value t
  split
  · exact ht.trans (.onMem t i _)
  · exact ht

end

section
variable (s : State) (i : Nat)

theorem State.finishSweep_moves : s.Moves (s.finishSweep i) i :=
  .foldl (s.spaces i) fun t sp hsp h =>
    have hu := State.sweepUpTo_moves (s := t) (by rwa [h]) (t.groupsOf sp)
    hu.trans (State.endSweep_moves (by rwa [hu.spaces, h]))

theorem State.rollEpoch_moves : s.Moves (s.rollEpoch i).1 i := by
  unfold State.rollEpoch
  split
  · dsimp only
    exact .onMem s i _
  · extract_lets t u
    have ht : s.Moves t i := by
      unfold t
      split
      · exact s.finishSweep_moves i
      · exact .refl s i
    exact ht.trans ((State.Moves.onMem t i _).trans (.foldl _ fun v sp hsp h => .marked (by rwa [h]) fun _ => ⟨_, _, rfl⟩))

theorem State.nextVersion_moves {sp : Space} (hsp : sp ∈ s.spaces i) (q : Item) : s.Moves (s.nextVersion i sp q).1 i := by
  unfold State.nextVersion
  have hr := s.rollEpoch_moves i
  split
  · generalize s.rollEpoch i = r at hr
    dsimp only
    split
    · dsimp only
      have hu := State.sweepUpTo_moves (s := r.1) (i := i) (sp := sp) (by rwa [hr.spaces]) (min (q.pages.2 / 8) (r.1.groupsOf sp))
      exact hr.trans (hu.trans (State.Plain.versions (by rwa [hu.spaces, hr.spaces]) _).moves)
    · exact hr
  · exact (s.plainVersion_plain i hsp q).moves

theorem State.makeRoom_moves {sp : Space} (hsp : sp ∈ s.spaces i) (o : Nat) : s.Moves (State.makeRoom State.nextVersion s i sp o) i :=
  State.makeRoom_rel (Rel := fun s t => s.Moves t i) State.Plain.moves State.Moves.trans (fun h => h.spaces)
    (fun s _ q h => s.nextVersion_moves i h q) hsp o

theorem State.walk_moves {sp : Space} (hsp : sp ∈ s.spaces i) (line : Nat) : s.Moves (s.walk i sp line).1 i := by
  have h := s.makeRoom_moves i hsp ((s.session i).lineOwner sp line)
  exact h.trans (State.reach_plain _ i (by rwa [h.spaces]) _).moves

theorem State.sweepAhead_moves {sp : Space} (hsp : sp ∈ s.spaces i) (g : Nat) : s.Moves (s.sweepAhead i sp g) i := by
  unfold State.sweepAhead
  split
  · split
    · exact State.sweepGroup_moves hsp g fun _ => ⟨_, _, rfl⟩
    · exact .refl s i
  · exact .refl s i

end

/-! ### Spaces without a fault -/

/-- What a read shows of a line of a space without a fault: zeros until it is written. -/
def Channel.shown (ch : Channel) (line : Nat) : Bytes := if ch.pair line = (0, 0) then zeros 64 else ch.lineBytes line

theorem Channel.Moves.shown {a b : Channel} (h : a.Moves b) (ha : a.Sound) (l : Nat) : b.shown l = a.shown l := by
  unfold Channel.shown
  rw [h.pair, h.lineBytes ha]

@[simp] theorem Channel.lineBytes_length (ch : Channel) (line : Nat) : (ch.lineBytes line).length = 64 := by simp [Channel.lineBytes]

@[simp] theorem Channel.shown_length (ch : Channel) (line : Nat) : (ch.shown line).length = 64 := by
  unfold Channel.shown
  split
  · exact zeros_length 64
  · exact ch.lineBytes_length line

section
variable {s : State} {i : Nat} {sp : Space}

theorem State.fetchItem_sound (h : (s.chan sp).Sound) (q : Item) : (s.fetchItem i sp q).2 = stOk := by
  unfold State.fetchItem
  dsimp only
  split
  · rfl
  · rw [h.conds q _ (by decide), h.conds q _ (by decide)]
    rfl

theorem State.reach_sound (hsp : sp ∈ s.spaces i) (h : (s.chan sp).Sound) (path : List Item) : (s.reach i sp path).2 = stOk := by
  have hall (l : List Item) (s : State) (hsp : sp ∈ s.spaces i) (h : (s.chan sp).Sound) : (s.fetchAll i sp l).2 = stOk := by
    induction l generalizing s with
    | nil => rfl
    | cons q l ih =>
      have hq := s.fetchItem_plain i hsp q
      unfold State.fetchAll
      dsimp only
      rw [if_pos (State.fetchItem_sound h q)]
      exact ih _ (by rwa [hq.spaces]) ((hq.chans sp).sound h).1
  have hfail : (path.findSome? fun q => (s.chan sp).failed.find? (·.1 = q.key)) = none := by
    rw [h.1, List.findSome?_eq_none_iff]
    exact fun _ _ => rfl
  unfold State.reach
  rw [hfail]
  exact hall _ s hsp h

theorem State.walk_sound (hsp : sp ∈ s.spaces i) (h : (s.chan sp).Sound) (line : Nat) : (s.walk i sp line).2 = stOk := by
  have hm := s.makeRoom_moves i hsp ((s.session i).lineOwner sp line)
  exact State.reach_sound (by rwa [hm.spaces]) ((hm.chans sp).sound h).1 _

/-- R343, R344, R349: a read of a line of a space without a fault. -/
theorem State.readLine_sound (hsp : sp ∈ s.spaces i) (h : (s.chan sp).Sound) (line : Nat) (part : Bool) :
    (s.readLine i sp line part).2 = (stOk, (s.chan sp).shown line) ∧ s.Moves (s.readLine i sp line part).1 i := by
  have hw := s.walk_moves i hsp line
  have hst := State.walk_sound hsp h line
  unfold State.readLine
  generalize s.walk i sp line = w at hw hst
  have hs := ((hw.chans sp).sound h).1
  dsimp only
  rw [if_neg (not_not.2 hst), (hw.chans sp).pair]
  unfold Channel.shown
  split
  · exact ⟨rfl, hw⟩
  · have hc := w.1.checkLine_sound i hs line (if part then 2 else 1)
    rw [if_pos hc, (hw.chans sp).lineBytes h]
    exact ⟨rfl, hw.trans (w.1.checkLine_plain i line _).moves⟩

end

end Sys2Proof.Machine
end

section
/-! PROOFS. O58. What a check of a line leaves, lines that are stored as zeros, the re-frank of a page and the roll of a key
epoch. -/

namespace Sys2Proof.Machine

/-! ### A line that is checked, by what is found -/

/-- The condition of a line's stored bytes, and that of its tag line. -/
def Channel.cond (ch : Channel) (line : Nat) : LineCond := Table.get .good ch.lines line

@[inherit_doc Channel.cond] def Channel.tagCond (ch : Channel) (line : Nat) : LineCond := Table.get .good ch.tagLines (line / 8)

/-- A line whose bytes or tag are lost. -/
def Channel.Gone (ch : Channel) (line : Nat) : Prop :=
  ch.tagCond line = .uncorrectable ∨ ch.tagCond line = .tagLost ∨ ch.cond line = .uncorrectable ∨ ch.cond line = .tagLost

/-- How many correctable errors a read of a line meets. -/
def Channel.corrections (ch : Channel) (line : Nat) : Nat := ([ch.tagCond line, ch.cond line].filter (· = .correctable)).length

/-- A line is read: its correctable errors are counted. -/
def State.counted (s : State) (i : Nat) (sp : Space) (line : Nat) : State :=
  (s.memEvent i sp 0x050 0x270 1).onMem i fun m =>
    { m with corrected := satAdd m.corrected ((s.chan sp).corrections line) }

section
variable (s : State) (i : Nat) (sp : Space) (line k : Nat)

@[simp] theorem State.chan_counted (q : Space) : (s.counted i sp line).chan q = s.chan q := by
  rw [State.counted, State.chan_onMem, State.chan_memEvent]

theorem State.counted_plain : s.Plain (s.counted i sp line) i := (State.Plain.memEvent s i sp _ _ _).trans (.onMem _ i _ rfl)

/-- What a line that is read changes of its session. -/
theorem State.session_counted (hi : i < 4) : ∃ r, (s.counted i sp line).session i =
    { s.session i with
      ring := r, mem := { (s.session i).mem with corrected := satAdd (s.session i).mem.corrected ((s.chan sp).corrections line) } } := by
  obtain ⟨r, h⟩ := s.session_memEvent i sp 0x050 0x270 1
  exact ⟨r, by rw [State.counted, State.onMem, State.onSession_same _ _ hi, h]⟩

variable {s sp line}

theorem State.checkLine_lost (h : (s.chan sp).Gone line) : s.checkLine i sp line k =
    ((s.counted i sp line).onMem i fun m => { m with uncorrectable := satAdd m.uncorrectable 1 }, stUncorrectable) := by
  unfold State.checkLine
  dsimp only
  exact if_pos ((contains_lost _ _).2 h)

section
variable (h : ¬ (s.chan sp).Gone line)
include h

theorem State.checkLine_kept : s.checkLine i sp line k = match (s.chan sp).cond line with
    | .tagBad => ((s.counted i sp line).violation i sp (64 * line) k 0 (((s.counted i sp line).session i).lineOwner sp line), stIntegrity)
    | .poisoned => (s.counted i sp line, stPoisoned)
    | _ => (s.counted i sp line, stOk) := by
  unfold State.checkLine
  dsimp only
  rw [if_neg]
  · rfl
  · exact fun hl => h ((contains_lost _ _).1 hl)

theorem State.checkLine_tagBad (hc : (s.chan sp).cond line = .tagBad) : s.checkLine i sp line k =
    ((s.counted i sp line).violation i sp (64 * line) k 0 (((s.counted i sp line).session i).lineOwner sp line), stIntegrity) := by
  rw [s.checkLine_kept i k h, hc]

theorem State.checkLine_poisoned (hc : (s.chan sp).cond line = .poisoned) :
    s.checkLine i sp line k = (s.counted i sp line, stPoisoned) := by
  rw [s.checkLine_kept i k h, hc]

theorem State.checkLine_good (hc : (s.chan sp).cond line = .good ∨ (s.chan sp).cond line = .correctable) :
    s.checkLine i sp line k = (s.counted i sp line, stOk) := by
  rw [s.checkLine_kept i k h]
  rcases hc with hc | hc <;> rw [hc]

end

end

/-! ### Lines stored as zeros -/

theorem Channel.lineBytes_eq (ch : Channel) (l : Nat) : ch.lineBytes l = memLoad ch.data (64 * l) 64 := rfl

/-- A store of one line, as reads of lines see it. -/
theorem memLoad_storeLine {m : Memory} (h : Memory.wf m = true) (k : Nat) {b : Bytes} (hb : b.length = 64) (l : Nat) :
    memLoad (memStore m (64 * k) b) (64 * l) 64 = if l = k then b else memLoad m (64 * l) 64 := by
  split
  · next e =>
    subst e
    have hload := memLoad_memStore h (64 * l) b
    rwa [hb] at hload
  · exact memLoad_memStore_apart h _ _ _ _ (by omega)

/-- Lines that are stored as zeros under a condition. -/
def Channel.blank (c : LineCond) (ch : Channel) (ls : List Nat) : Channel :=
  ls.foldl (fun ch l => { ch with data := memStore ch.data (64 * l) (zeros 64), lines := Table.set .good ch.lines l c }) ch

theorem Channel.blank_spec (c : LineCond) {ch : Channel} (hd : Memory.wf ch.data = true) (hl : Table.wf .good ch.lines = true)
    (ls : List Nat) : ∃ d t, ch.blank c ls = { ch with data := d, lines := t } ∧ Memory.wf d = true ∧ Table.wf .good t = true ∧
      (∀ l, memLoad d (64 * l) 64 = if l ∈ ls then zeros 64 else ch.lineBytes l) ∧
      ∀ l, Table.get .good t l = if l ∈ ls then c else ch.cond l := by
  unfold Channel.blank
  have hz : (zeros 64).length = 64 := zeros_length 64
  generalize zeros 64 = z at hz ⊢
  induction ls generalizing ch with
  | nil => exact ⟨_, _, rfl, hd, hl, fun l => by simp [Channel.lineBytes_eq], fun l => by simp [Channel.cond]⟩
  | cons k ls ih =>
    obtain ⟨d, t, he, hdw, htw, hbytes, hconds⟩ :=
      ih (ch := { ch with data := memStore ch.data (64 * k) z, lines := Table.set .good ch.lines k c })
      (memStore_wf hd _ _) (Table.set_wf hl _ _)
    refine ⟨d, t, he, hdw, htw, fun l => ?_, fun l => ?_⟩
    · rw [hbytes l, Channel.lineBytes_eq, memLoad_storeLine hd k hz l]
      by_cases h1 : l ∈ ls <;> by_cases h2 : l = k <;> simp [h1, h2, Channel.lineBytes_eq]
    · rw [hconds l]
      by_cases h1 : l ∈ ls
      · simp [h1]
      · by_cases h2 : l = k
        · subst h2
          simp [Channel.cond, Table.get_set_same hl, h1]
        · simp [Channel.cond, Table.get_set_other hl _ h2, h1, h2]

theorem Channel.blank_sound {ch : Channel} (h : ch.Sound) (ls : List Nat) : (ch.blank .good ls).Sound := by
  unfold Channel.blank
  generalize zeros 64 = z
  induction ls generalizing ch with
  | nil => exact h
  | cons k ls ih =>
    obtain ⟨hf, hg, hn, hl, ht⟩ := h
    exact ih (ch := { ch with data := memStore ch.data (64 * k) z, lines := Table.set .good ch.lines k .good })
      ⟨hf, hg, hn, by simp [hl, Table.set], ht⟩

/-! ### Lines that are renewed -/

/-- A line whose stored bytes and tag a renewal reads without a failure. -/
def Channel.Sane (ch : Channel) (l : Nat) : Prop :=
  ch.cond l ∈ [LineCond.good, .correctable, .poisoned] ∧ ch.tagCond l ∈ [LineCond.good, .correctable]

section
variable {s : State} {i : Nat} {sp : Space} (hi : i < 4) (hsp : sp ∈ s.spaces i)
include hi hsp

theorem State.renewLine_sane {l : Nat} (h : (s.chan sp).Sane l) :
    (s.renewLine i sp l).chan sp =
        { s.chan sp with lines := if (s.chan sp).cond l = .poisoned then (s.chan sp).lines else Table.set .good (s.chan sp).lines l .good } ∧
      ∃ n, ((s.renewLine i sp l).session i).mem = { (s.session i).mem with corrected := n } := by
  obtain ⟨hc, ht⟩ := h
  have hkept : ¬ ((s.chan sp).tagCond l = .uncorrectable ∨ (s.chan sp).tagCond l = .tagLost ∨
      (s.chan sp).cond l = .uncorrectable ∨ (s.chan sp).cond l = .tagLost) := by
    generalize (s.chan sp).cond l = c at hc
    generalize (s.chan sp).tagCond l = t at ht
    rintro (rfl | rfl | rfl | rfl) <;> simp at hc ht
  have hcheck : ∃ st, s.checkLine i sp l 1 = (s.counted i sp l, st) ∧ ¬ (st = stUncorrectable ∨ st = stIntegrity) := by
    by_cases hp : (s.chan sp).cond l = .poisoned
    · exact ⟨_, State.checkLine_poisoned i 1 hkept hp, by decide⟩
    · exact ⟨_, State.checkLine_good i 1 hkept (by simpa [hp] using hc), by decide⟩
  obtain ⟨st, hst, hno⟩ := hcheck
  obtain ⟨r, hr⟩ := s.session_counted i sp l hi
  unfold State.renewLine
  rw [hst]
  dsimp only
  rw [if_neg hno]
  refine ⟨?_, _, by rw [State.session_onChan, hr]⟩
  rw [State.chan_onChan_same hi (by rwa [(s.counted_plain i sp l).spaces]), State.chan_counted]
  change (if (s.chan sp).cond l = .poisoned then _ else _) = _
  split <;> rfl

theorem State.renewLines_sane (ls : List Nat) (hwf : Table.wf .good (s.chan sp).lines = true) (h : ∀ l ∈ ls, (s.chan sp).Sane l) :
    ∃ t, (ls.foldl (fun s l => s.renewLine i sp l) s).chan sp = { s.chan sp with lines := t } ∧ Table.wf .good t = true ∧
      (∀ l, Table.get .good t l = if l ∈ ls ∧ (s.chan sp).cond l ≠ .poisoned then .good else (s.chan sp).cond l) ∧
      ∃ n, ((ls.foldl (fun s l => s.renewLine i sp l) s).session i).mem = { (s.session i).mem with corrected := n } := by
  induction ls generalizing s with
  | nil => exact ⟨_, rfl, hwf, fun l => (if_neg fun h => List.not_mem_nil h.1).symm, _, rfl⟩
  | cons k ls ih =>
    obtain ⟨hch, n, hmem⟩ := State.renewLine_sane hi hsp (h k (by simp))
    have hspaces := (s.renewLine_plain i hsp k).spaces
    have hget (l : Nat) : ((s.renewLine i sp k).chan sp).cond l =
        if l = k ∧ (s.chan sp).cond l ≠ .poisoned then .good else (s.chan sp).cond l := by
      rw [Channel.cond, hch]
      by_cases hp : (s.chan sp).cond k = .poisoned
      · rw [if_pos hp]
        split
        · next h => exact absurd (h.1 ▸ hp) h.2
        · rfl
      · rw [if_neg hp]
        by_cases hl : l = k
        · subst hl
          rw [Table.get_set_same hwf, if_pos ⟨rfl, hp⟩]
        · rw [Table.get_set_other hwf _ hl, if_neg fun h => hl h.1]
          rfl
    have hsane : ∀ l ∈ ls, ((s.renewLine i sp k).chan sp).Sane l := by
      intro l hl
      obtain ⟨hc, ht⟩ := h l (by simp [hl])
      refine ⟨?_, ?_⟩
      · rw [hget]
        split
        · simp
        · exact hc
      · rw [Channel.tagCond, hch]
        exact ht
    have hwf' : Table.wf .good ((s.renewLine i sp k).chan sp).lines = true := by
      rw [hch]
      dsimp only
      split
      · exact hwf
      · exact Table.set_wf hwf _ _
    obtain ⟨t, he, htw, hconds, n', hmem'⟩ := ih (by rwa [hspaces]) hwf' hsane
    refine ⟨t, by rw [List.foldl_cons, he, hch], htw, fun l => ?_, n', by rw [List.foldl_cons, hmem', hmem]⟩
    rw [hconds, hget]
    by_cases hp : (s.chan sp).cond l = .poisoned
    · simp [hp]
    · by_cases hk : l = k
      · subst hk
        simp [hp]
      · simp [hp, hk]

/-- R352, R355: a page whose lines a renewal reads without a failure. -/
theorem State.renewPage_sane (p : Nat) (hwf : Table.wf .good (s.chan sp).lines = true) (h : ∀ l, l / 64 = p → (s.chan sp).Sane l) :
    ∃ t g, (s.renewPage i sp p).chan sp = { s.chan sp with lines := t, tagLines := g } ∧
      (∀ l, Table.get .good t l = if l / 64 = p ∧ (s.chan sp).pair l ≠ (0, 0) ∧ (s.chan sp).cond l ≠ .poisoned then .good
        else (s.chan sp).cond l) ∧
      ∃ n, ((s.renewPage i sp p).session i).mem = { (s.session i).mem with corrected := n } := by
  unfold State.renewPage
  extract_lets lines u
  have hmem (l : Nat) : l ∈ lines ↔ l / 64 = p ∧ (s.chan sp).pair l ≠ (0, 0) := by
    simp only [lines, List.mem_filter, List.mem_map, List.mem_range, decide_eq_true_eq]
    refine and_congr ⟨?_, fun h => ⟨l % 64, by omega, by omega⟩⟩ Iff.rfl
    rintro ⟨a, ha, rfl⟩
    omega
  obtain ⟨t, hch, -, hconds, n, hn⟩ := State.renewLines_sane hi hsp lines hwf fun l hl => h l ((hmem l).1 hl).1
  have hu : u.chan sp = { s.chan sp with lines := t } := by rw [State.chan_memEvent, hch]
  have hspaces : u.spaces i = s.spaces i :=
    ((State.Plain.foldl (fun s l h => s.renewLine_plain i h l) lines hsp).trans (.memEvent _ i sp _ _ _)).spaces
  refine ⟨t, (s.chan sp).tagLines.filter fun e => !(lines.map (· / 8)).contains e.1, ?_, fun l => ?_, n, ?_⟩
  · rw [State.chan_touchData, State.chan_onChan_same hi (by rwa [hspaces]), hu]
  · simp only [hconds, hmem, and_assoc]
  · rw [State.session_touchData, State.session_onChan, State.mem_memEvent, hn]

end

/-! ### The re-frank of a page, R352 -/

/-- A page's lines are written under a new major counter, its fresh ones as zeros. -/
def State.refrankAt (s : State) (i : Nat) (sp : Space) (p : Nat) (major : W64) : State :=
  let lines := (List.range 64).map (64 * p + ·)
  let fresh := lines.filter fun l => (s.chan sp).pair l = (0, 0)
  let t := s.onChan sp fun ch => ch.blank .good fresh
  let u := ((t.renewPage i sp p).memEvent i sp 0x051 0x271 fresh.length).onChan sp fun ch =>
    { ch with tagLines := ch.tagLines.filter fun e => e.1 / 8 ≠ p }.setPage p ⟨major, []⟩
  (u.touchData sp lines).onMem i fun m => { m with refrank := satAdd m.refrank 1 }

/-- R352, R354 to R356: a re-frank, and where the major counter is at its end the roll it waits for. -/
theorem State.refrank_eq (s : State) (i : Nat) (sp : Space) (p : Nat) : s.refrank i sp p =
    if ((s.chan sp).page p).major = BitVec.allOnes 64 then
      if (s.rollEpoch i).2 then (((s.rollEpoch i).1.sweepUpTo i sp (p / 8 + 1)).refrankAt i sp p 1, true) else s.rollEpoch i
    else (s.refrankAt i sp p (((s.chan sp).page p).major + 1), true) := by
  unfold State.refrank
  by_cases h : ((s.chan sp).page p).major = BitVec.allOnes 64
  · simp only [h, if_true]
    by_cases hr : (s.rollEpoch i).2 = true
    · simp only [hr, if_true]
      rfl
    · simp only [hr, Bool.false_eq_true, if_false]
  · simp only [h, if_false]
    rfl

theorem mem_pageLines {p l : Nat} : l ∈ (List.range 64).map (64 * p + ·) ↔ l / 64 = p := by
  rw [List.mem_map]
  refine ⟨?_, fun h => ⟨l % 64, List.mem_range.2 (by omega), by omega⟩⟩
  rintro ⟨a, ha, rfl⟩
  rw [List.mem_range] at ha
  omega

theorem Channel.page_setPage {ch : Channel} (h : Table.wf ⟨0, []⟩ ch.counters = true) (p : Nat) (c : Counters) (q : Nat) :
    (ch.setPage p c).page q = if q = p then c else ch.page q := by
  unfold Channel.page Channel.setPage
  split
  · next e =>
    subst e
    exact Table.get_set_same h q c
  · next e => exact Table.get_set_other h c e

/-- What a write to the space `sp` keeps of a space `q`. -/
structure KeptBy (sp q : Space) (a b : Channel) : Prop where
  own : q = sp → a.Sound → b.Sound
  other : q ≠ sp → a.Moves b

theorem KeptBy.of_moves (sp q : Space) {a b : Channel} (h : a.Moves b) : KeptBy sp q a b := ⟨fun _ ha => (h.sound ha).1, fun _ => h⟩

theorem KeptBy.refl (sp q : Space) (a : Channel) : KeptBy sp q a a := .of_moves sp q (.refl a)

theorem KeptBy.trans (sp q : Space) (a b c : Channel) (h : KeptBy sp q a b) (g : KeptBy sp q b c) : KeptBy sp q a c :=
  ⟨fun e ha => g.own e (h.own e ha), fun e => .trans a b c (h.other e) (g.other e)⟩

/-- Work of session `i` that writes to the space `sp`. -/
abbrev State.WritesAt (sp : Space) (s t : State) (i : Nat) : Prop := State.Works (KeptBy sp) s t i

section
variable {s t u : State} {i : Nat} {sp : Space}

theorem State.WritesAt.trans (h : State.WritesAt sp s t i) (g : State.WritesAt sp t u i) : State.WritesAt sp s u i :=
  State.Works.trans (KeptBy.trans sp) h g

theorem State.Moves.writesAt (h : s.Moves t i) : State.WritesAt sp s t i := State.Works.mono (fun q _ _ h => .of_moves sp q h) h

theorem State.WritesAt.onChan (hsp : sp ∈ s.spaces i) {f : Channel → Channel} (hh : (f (s.chan sp)).holder = (s.chan sp).holder)
    (hf : (s.chan sp).Sound → (f (s.chan sp)).Sound) : State.WritesAt sp s (s.onChan sp f) i :=
  State.Works.onChan (KeptBy.refl sp) hsp hh ⟨fun _ => hf, fun h => absurd rfl h⟩

end

theorem Channel.holder_blank (c : LineCond) (ch : Channel) (ls : List Nat) : (ch.blank c ls).holder = ch.holder := by
  unfold Channel.blank
  generalize zeros 64 = z
  exact List.foldlRecOn (motive := fun u : Channel => u.holder = ch.holder) ls _ rfl fun u h l _ => h

section
variable {s : State} {i : Nat} {sp : Space} (hi : i < 4) (hsp : sp ∈ s.spaces i)
include hsp

/-- A re-frank writes to the space of its page. -/
theorem State.refrankAt_writes (p : Nat) (major : W64) : State.WritesAt sp s (s.refrankAt i sp p major) i := by
  unfold State.refrankAt
  extract_lets lines fresh t u
  have ht : State.WritesAt sp s t i := .onChan hsp (Channel.holder_blank _ _ _) fun h => Channel.blank_sound h fresh
  have hspt : sp ∈ t.spaces i := by rwa [ht.spaces]
  have hv := (t.renewPage_plain i hspt p).trans (.memEvent _ i sp 0x051 0x271 fresh.length)
  have hu : State.WritesAt sp s u i := (ht.trans hv.moves.writesAt).trans <|
    .onChan (by rwa [hv.spaces]) rfl fun ⟨hf, hg, hn, hl, htag⟩ => ⟨hf, hg, hn, hl, congrArg (List.filter _) htag⟩
  exact hu.trans ((State.Plain.touch u i sp _).trans (.onMem _ i _ rfl)).moves.writesAt

include hi in
/-- R352: what a re-frank leaves of its space, where it reads every line of the page without a failure. -/
theorem State.refrankAt_spec (p : Nat) (major : W64) (hdata : Memory.wf (s.chan sp).data = true)
    (hcounters : Table.wf ⟨0, []⟩ (s.chan sp).counters = true) (hlines : Table.wf .good (s.chan sp).lines = true)
    (h : ∀ l, l / 64 = p → (s.chan sp).Sane l) :
    let v := (s.refrankAt i sp p major).chan sp
    (∀ q, v.page q = if q = p then ⟨major, []⟩ else (s.chan sp).page q) ∧
      (∀ l, v.lineBytes l = if l / 64 = p ∧ (s.chan sp).pair l = (0, 0) then zeros 64 else (s.chan sp).lineBytes l) ∧
      (∀ l, v.cond l = if l / 64 = p ∧ ((s.chan sp).pair l = (0, 0) ∨ (s.chan sp).cond l ≠ .poisoned) then .good
        else (s.chan sp).cond l) ∧
      Memory.wf v.data = true ∧ Table.wf ⟨0, []⟩ v.counters = true ∧
      ∃ n, ((s.refrankAt i sp p major).session i).mem =
        { (s.session i).mem with corrected := n, refrank := satAdd (s.session i).mem.refrank 1 } := by
  unfold State.refrankAt
  extract_lets lines fresh t u v
  have hfresh (l : Nat) : l ∈ fresh ↔ l / 64 = p ∧ (s.chan sp).pair l = (0, 0) := by
    rw [List.mem_filter, mem_pageLines, decide_eq_true_eq]
  obtain ⟨d, g, hblank, hd, hg, hbytes, hconds⟩ := Channel.blank_spec .good hdata hlines fresh
  have ht : t.chan sp = { s.chan sp with data := d, lines := g } := by
    rw [State.chan_onChan_same hi hsp, hblank]
  have hspt : sp ∈ t.spaces i := by
    have h : State.WritesAt sp s t i := .onChan hsp (Channel.holder_blank _ _ _) fun h => Channel.blank_sound h fresh
    rwa [h.spaces]
  have hsane (l : Nat) (hl : l / 64 = p) : (t.chan sp).Sane l := by
    obtain ⟨hc, htag⟩ := h l hl
    refine ⟨?_, by rw [ht]; exact htag⟩
    rw [ht]
    change Table.get .good g l ∈ _
    rw [hconds]
    split
    · simp
    · exact hc
  obtain ⟨g', tags, hpage, hconds', n, hn⟩ := State.renewPage_sane hi hspt p (by rw [ht]; exact hg) hsane
  have hv : v = { s.chan sp with data := d, lines := g', tagLines := tags.filter fun e => e.1 / 8 ≠ p }.setPage p ⟨major, []⟩ := by
    have hspaces : ((t.renewPage i sp p).memEvent i sp 0x051 0x271 fresh.length).spaces i = t.spaces i :=
      ((t.renewPage_plain i hspt p).trans (.memEvent _ i sp _ _ _)).spaces
    unfold v u
    rw [State.chan_onMem, State.chan_touchData, State.chan_onChan_same hi (by rwa [hspaces]), State.chan_memEvent, hpage, ht]
  have hcond (l : Nat) : (t.chan sp).cond l = if l ∈ fresh then .good else (s.chan sp).cond l := by
    rw [ht]
    exact hconds l
  have hpair (l : Nat) : (t.chan sp).pair l = (s.chan sp).pair l := by
    rw [ht]
    rfl
  rw [hv]
  refine ⟨fun q => Channel.page_setPage hcounters p _ q, fun l => ?_, fun l => ?_, hd, Table.set_wf hcounters _ _, n, ?_⟩
  · refine (hbytes l).trans ?_
    simp only [hfresh]
  · refine (hconds' l).trans ?_
    simp only [hcond, hpair, hfresh]
    by_cases hp : l / 64 = p
    · by_cases h0 : (s.chan sp).pair l = (0, 0) <;> simp [hp, h0]
    · simp [hp]
  · unfold u
    rw [State.onMem, State.onSession_same _ _ hi, State.session_touchData, State.session_onChan]
    dsimp only
    rw [State.mem_memEvent, hn]
    unfold t
    rw [State.session_onChan]

end

/-! ### The roll of a key epoch, R354 -/

/-- A change that is made again changes nothing more, on some of a session's spaces. -/
theorem State.chan_foldl_onChan {s : State} {i : Nat} (hi : i < 4) {f : Channel → Channel} (hf : ∀ ch, f (f ch) = f ch)
    (hh : ∀ ch, (f ch).holder = ch.holder) (l : List Space) (hl : ∀ q ∈ l, q ∈ s.spaces i) (q : Space) :
    (l.foldl (fun s sp => s.onChan sp f) s).chan q = if q ∈ l then f (s.chan q) else s.chan q := by
  induction l generalizing s with
  | nil => simp
  | cons sp l ih =>
    have hsp := hl sp (by simp)
    have hw : State.Works (fun _ _ _ => True) s (s.onChan sp f) i := .onChan (fun _ _ => trivial) hsp (hh _) trivial
    rw [List.foldl_cons, ih fun q hq => by
      rw [hw.spaces]
      exact hl q (by simp [hq])]
    by_cases hq : q = sp
    · subst hq
      simp only [State.chan_onChan_same hi hsp, hf, ite_self, List.mem_cons_self, if_true]
    · simp [State.chan_onChan_other hq, hq]

theorem State.session_foldl_onChan (f : Channel → Channel) (l : List Space) (s : State) (j : Nat) :
    (l.foldl (fun s sp => s.onChan sp f) s).session j = s.session j := by
  induction l generalizing s with
  | nil => rfl
  | cons sp l ih => rw [List.foldl_cons, ih, State.session_onChan]

section
variable {s : State} {i : Nat} (hi : i < 4)
include hi

/-- R356: with no epoch left the memory becomes read-only. -/
theorem State.rollEpoch_last (h : (s.session i).mem.keyEpoch = BitVec.allOnes 32) :
    (s.rollEpoch i).2 = false ∧ (s.rollEpoch i).1 = { s with sessions := (s.rollEpoch i).1.sessions } ∧
      ((s.rollEpoch i).1.session i).mem = { (s.session i).mem with readOnly := true } := by
  rw [State.rollEpoch, if_pos h]
  refine ⟨rfl, rfl, ?_⟩
  dsimp only
  rw [State.onMem, State.onSession_same _ _ hi]

/-- R354: a roll starts a sweep of every space the session holds. -/
theorem State.rollEpoch_next (h : (s.session i).mem.keyEpoch ≠ BitVec.allOnes 32) (hsweep : (s.session i).mem.sweeping = false) :
    (s.rollEpoch i).2 = true ∧
      ((s.rollEpoch i).1.session i).mem = { (s.session i).mem with keyEpoch := (s.session i).mem.keyEpoch + 1, sweeping := true } ∧
      ∀ q, (s.rollEpoch i).1.chan q = if q ∈ s.spaces i then { s.chan q with sweep := some 0, ahead := [] } else s.chan q := by
  rw [State.rollEpoch, if_neg h, hsweep]
  dsimp only
  rw [if_neg Bool.false_ne_true]
  have hm : s.Moves (s.onMem i fun m => { m with keyEpoch := m.keyEpoch + 1, sweeping := true }) i := .onMem s i _
  refine ⟨rfl, ?_, fun q => ?_⟩
  · rw [State.session_foldl_onChan, State.onMem, State.onSession_same _ _ hi]
  · rw [State.chan_foldl_onChan hi (f := fun ch => { ch with sweep := some 0, ahead := [] }) (fun _ => rfl) (fun _ => rfl) _ fun _ => id,
      hm.spaces, State.chan_onMem]

end

/-- Settles O58: the re-frank of a page, and the roll of an epoch. -/
theorem countersRunOut : Obligations.CountersRunOut := by
  refine ⟨?_, fun s i hi => ?_⟩
  · intro s i sp p ch r u hi hsp hwf hmajor hsane
    have hcan := (Channel.wf_iff _).1 hwf
    obtain ⟨hpage, hbytes, hcond, -, -, n, hmem⟩ := State.refrankAt_spec hi hsp p ((ch.page p).major + 1) hcan.data hcan.counters hcan.lines hsane
    have hr : r = (s.refrankAt i sp p ((ch.page p).major + 1), true) := (s.refrank_eq i sp p).trans (if_neg hmajor)
    have hu : u = (s.refrankAt i sp p ((ch.page p).major + 1)).chan sp := congrArg (fun r => r.1.chan sp) hr
    rw [← hu] at hpage hbytes hcond
    have hpair (l : Nat) (hl : l / 64 ≠ p) : u.pair l = ch.pair l := by
      unfold Channel.pair
      rw [hpage, if_neg hl]
    refine ⟨congrArg Prod.snd hr, (hpage p).trans (if_pos rfl),
      fun l hl => ⟨hpair l hl, (hbytes l).trans (if_neg fun h => hl h.1), (hcond l).trans (if_neg fun h => hl h.1)⟩,
      fun l hl h0 => ⟨(hbytes l).trans (if_pos ⟨hl, h0⟩), (hcond l).trans (if_pos ⟨hl, .inl h0⟩)⟩,
      fun l hl h0 => ⟨fun hp => (hcond l).trans ((if_neg ?_).trans hp),
        fun hp => ⟨(hcond l).trans (if_pos ⟨hl, .inr hp⟩), (hbytes l).trans (if_neg fun h => h0 h.2)⟩⟩, ?_, ?_⟩
    · rintro ⟨-, h | h⟩
      · exact h0 h
      · exact h hp
    · rw [hr, hmem]
    · rw [hr, hmem]
  · exact ⟨fun h => State.rollEpoch_last hi h, fun h hsweep => State.rollEpoch_next hi h hsweep⟩

end Sys2Proof.Machine
end

section
/-! PROOFS. O56. A write of a line, on spaces without a fault: what the space shows afterwards, and when it completes. -/

namespace Sys2Proof.Machine

/-! ### A line's counter moves on, R346, R352 -/

/-- A line's minor counter moves on by one, and its group waits to be written back. -/
def Channel.countUp (ch : Channel) (line : Nat) : Channel :=
  let c := ch.page (line / 64)
  (ch.setPage (line / 64) { c with minors := Table.set 0 c.minors (line % 64) (Table.get 0 c.minors (line % 64) + 1) }).cached
    (groupItem line) (some true)

/-- The counters of a space in canonical form. -/
structure Channel.Counted (ch : Channel) : Prop where
  counters : Table.wf ⟨0, []⟩ ch.counters = true
  minors : ∀ p, Table.wf 0 (ch.page p).minors = true

theorem Channel.Counted.of_wf {ch : Channel} (h : ch.wf = true) : ch.Counted :=
  have hc := (Channel.wf_iff ch).1 h
  ⟨hc.counters, hc.page⟩

theorem Channel.Counted.of_counters {a b : Channel} (h : a.Counted) (e : b.counters = a.counters) : b.Counted :=
  ⟨by rw [e]; exact h.counters, fun p => by
    have hp : b.page p = a.page p := by rw [Channel.page, e]; rfl
    rw [hp]
    exact h.minors p⟩

/-- R346: only the counter of the line moves, short of the end of its minor. -/
theorem Channel.pair_countUp {ch : Channel} (h : ch.Counted) {line : Nat} (hm : (ch.pair line).2 ≠ 127) (l : Nat) :
    (ch.countUp line).pair l = if l = line then ((ch.pair line).1, (ch.pair line).2 + 1) else ch.pair l := by
  have hpage (q : Nat) : (ch.countUp line).page q = if q = line / 64 then { ch.page (line / 64) with
      minors := Table.set 0 (ch.page (line / 64)).minors (line % 64) (Table.get 0 (ch.page (line / 64)).minors (line % 64) + 1) }
      else ch.page q :=
    Channel.page_setPage h.counters _ _ q
  unfold Channel.pair at hm ⊢
  simp only [hpage]
  by_cases hl : l = line
  · subst hl
    simp only [if_true, Table.get_set_same (h.minors _)]
    dsimp only at hm
    generalize Table.get 0 (ch.page (l / 64)).minors (l % 64) = x at hm ⊢
    have hx := x.isLt
    rw [BitVec.toNat_add, show (1 : BitVec 7).toNat = 1 from rfl, Nat.mod_eq_of_lt (by omega)]
  · rw [if_neg hl]
    by_cases hp : l / 64 = line / 64
    · rw [if_pos hp, hp]
      dsimp only
      rw [Table.get_set_other (h.minors _) _ (by omega)]
    · rw [if_neg hp]

theorem Channel.shown_countUp {ch : Channel} (h : ch.Counted) {line : Nat} (hm : (ch.pair line).2 ≠ 127) {l : Nat} (hl : l ≠ line) :
    (ch.countUp line).shown l = ch.shown l := by
  unfold Channel.shown
  rw [Channel.pair_countUp h hm, if_neg hl]
  rfl

section
variable {s : State} {i : Nat} {sp : Space}

theorem State.countUp_writes (hsp : sp ∈ s.spaces i) (line : Nat) : State.WritesAt sp s (s.onChan sp fun ch => ch.countUp line) i :=
  .onChan hsp rfl fun h => h

/-- R352: the next major counter of a page. -/
def nextMajor (c : Counters) : W64 := if c.major = BitVec.allOnes 64 then 1 else c.major + 1

theorem nextMajor_ne_zero (c : Counters) : (nextMajor c).toNat ≠ 0 := by
  unfold nextMajor
  split
  · decide
  · next h =>
    intro h0
    have hlt := c.major.isLt
    rw [BitVec.toNat_add, show (1 : W64).toNat = 1 from rfl] at h0
    exact h (BitVec.eq_of_toNat_eq (by rw [BitVec.toNat_allOnes]; omega))

/-- A re-frank that completes: what rolls first is work on metadata alone. -/
theorem State.refrank_good (hsp : sp ∈ s.spaces i) {p : Nat} (h : (s.refrank i sp p).2 = true) :
    ∃ u : State, s.Moves u i ∧ (s.refrank i sp p).1 = u.refrankAt i sp p (nextMajor ((s.chan sp).page p)) := by
  rw [State.refrank_eq] at h ⊢
  unfold nextMajor
  split
  · next hmajor =>
    rw [if_pos hmajor] at h
    have hr := s.rollEpoch_moves i
    split at h
    · next hgood =>
      rw [if_pos hgood]
      exact ⟨_, hr.trans (State.sweepUpTo_moves (by rwa [hr.spaces]) _), rfl⟩
    · next hbad => exact absurd h hbad
  · exact ⟨s, .refl s i, rfl⟩

/-- R352: what a re-frank leaves of a space without a fault, as reads see it. -/
theorem State.refrankAt_sound (hi : i < 4) (hsp : sp ∈ s.spaces i) (hs : (s.chan sp).Sound) (hd : Memory.wf (s.chan sp).data = true)
    (hc : (s.chan sp).Counted) (p : Nat) {major : W64} (hmajor : major.toNat ≠ 0) :
    let v := (s.refrankAt i sp p major).chan sp
    Memory.wf v.data = true ∧ v.Counted ∧ (∀ l, l / 64 = p → v.pair l = (major.toNat, 0)) ∧ ∀ l, v.shown l = (s.chan sp).shown l := by
  obtain ⟨-, -, -, hl, ht⟩ := hs
  have hsane (l : Nat) : (s.chan sp).Sane l := by
    unfold Channel.Sane Channel.cond Channel.tagCond
    rw [hl, ht]
    simp
  obtain ⟨hpage, hbytes, -, hdata, hcounters, -⟩ := State.refrankAt_spec hi hsp p major hd hc.counters
    (by rw [hl]; rfl) fun l _ => hsane l
  generalize (s.refrankAt i sp p major).chan sp = v at hpage hbytes hdata hcounters
  have hpair (l : Nat) : v.pair l = if l / 64 = p then (major.toNat, 0) else (s.chan sp).pair l := by
    unfold Channel.pair
    rw [hpage]
    split <;> rfl
  refine ⟨hdata, ⟨hcounters, fun q => ?_⟩, fun l hl => (hpair l).trans (if_pos hl), fun l => ?_⟩
  · rw [hpage]
    split
    · rfl
    · exact hc.minors q
  · unfold Channel.shown
    rw [hpair, hbytes]
    by_cases hl : l / 64 = p
    · by_cases h0 : (s.chan sp).pair l = (0, 0)
      · simp [hl, h0]
      · simp [hl, h0, hmajor]
    · simp [hl]

end

/-! ### The advance of a line's counter, R344, R355, R356 -/

section
variable {s : State} {i : Nat} {sp : Space}

theorem State.advance_eq (s : State) (i : Nat) (sp : Space) (line : Nat) : s.advance i sp line =
    let t := s.sweepAhead i sp (line / 64 / 8)
    let r := if (t.session i).mem.readOnly then (t, false)
      else if ((t.chan sp).pair line).2 = 127 then (t.memEvent i sp 0x053 0 1).refrank i sp (line / 64) else (t, true)
    if r.2 then (r.1.onChan sp fun ch => ch.countUp line, true) else (r.1, false) := rfl

/-- What an advance that completes leaves of a space without a fault, as reads see it. -/
theorem State.advance_sound (hi : i < 4) (hsp : sp ∈ s.spaces i) (hs : (s.chan sp).Sound) (hd : Memory.wf (s.chan sp).data = true)
    (hc : (s.chan sp).Counted) {line : Nat} (h : (s.advance i sp line).2 = true) :
    let v := (s.advance i sp line).1.chan sp
    State.WritesAt sp s (s.advance i sp line).1 i ∧ Memory.wf v.data = true ∧
      v.pair line = (if ((s.chan sp).pair line).2 = 127 then ((nextMajor ((s.chan sp).page (line / 64))).toNat, 1)
        else (((s.chan sp).page (line / 64)).major.toNat, ((s.chan sp).pair line).2 + 1)) ∧
      ∀ l, l ≠ line → v.shown l = (s.chan sp).shown l := by
  rw [State.advance_eq] at h ⊢
  have ht := State.sweepAhead_moves s i hsp (line / 64 / 8)
  generalize s.sweepAhead i sp (line / 64 / 8) = t at ht h ⊢
  have hspt : sp ∈ t.spaces i := by rwa [ht.spaces]
  have hst := (ht.chans sp).sound hs
  have hct := hc.of_counters (ht.chans sp).counters
  have hdt : Memory.wf (t.chan sp).data = true := by rwa [hst.2]
  have hpair := (ht.chans sp).pair line
  have hpage : (t.chan sp).page (line / 64) = (s.chan sp).page (line / 64) := by
    rw [Channel.page, (ht.chans sp).counters]
    rfl
  dsimp only at h ⊢
  by_cases hro : (t.session i).mem.readOnly = true
  · rw [if_pos hro] at h
    exact absurd h Bool.false_ne_true
  rw [if_neg hro] at h ⊢
  rw [hpair] at h ⊢
  by_cases hm : ((s.chan sp).pair line).2 = 127
  · rw [if_pos hm] at h ⊢
    have he : t.Moves (t.memEvent i sp 0x053 0 1) i := (State.Plain.memEvent t i sp _ _ _).moves
    have hgood : ((t.memEvent i sp 0x053 0 1).refrank i sp (line / 64)).2 = true := by
      by_contra hn
      rw [if_neg hn] at h
      exact absurd h Bool.false_ne_true
    obtain ⟨u, hu, hr⟩ := State.refrank_good (by rwa [he.spaces]) hgood
    rw [if_pos hgood, if_pos hm, hr]
    rw [State.chan_memEvent, hpage]
    have htu := he.trans hu
    have hspu : sp ∈ u.spaces i := by rwa [htu.spaces]
    have hsu := (htu.chans sp).sound hst.1
    obtain ⟨hd', hc', hpair', hshown⟩ := State.refrankAt_sound hi hspu hsu.1 (by rwa [hsu.2])
      (hct.of_counters (htu.chans sp).counters) (line / 64) (nextMajor_ne_zero ((s.chan sp).page (line / 64)))
    have hw := State.refrankAt_writes hspu (line / 64) (nextMajor ((s.chan sp).page (line / 64)))
    generalize u.refrankAt i sp (line / 64) (nextMajor ((s.chan sp).page (line / 64))) = w at hd' hc' hpair' hshown hw
    have hspw : sp ∈ w.spaces i := by rwa [hw.spaces]
    have hne : ((w.chan sp).pair line).2 ≠ 127 := by
      rw [hpair' line rfl]
      exact (by decide : (0 : Nat) ≠ 127)
    dsimp only
    rw [State.chan_onChan_same hi hspw]
    refine ⟨((ht.trans htu).writesAt.trans hw).trans (State.countUp_writes hspw line), hd', ?_, fun l hl => ?_⟩
    · rw [Channel.pair_countUp hc' hne, if_pos rfl, hpair' line rfl]
    · rw [Channel.shown_countUp hc' hne hl, hshown, ((ht.trans htu).chans sp).shown hs]
  · rw [if_neg hm]
    dsimp only
    rw [if_neg hm, if_pos rfl]
    dsimp only
    have hne : ((t.chan sp).pair line).2 ≠ 127 := by rwa [hpair]
    rw [State.chan_onChan_same hi hspt]
    refine ⟨ht.writesAt.trans (State.countUp_writes hspt line), hdt, ?_, fun l hl => ?_⟩
    · rw [Channel.pair_countUp hct hne, if_pos rfl, hpair]
      rfl
    · rw [Channel.shown_countUp hct hne hl, (ht.chans sp).shown hs]

/-! ### The write of a line, R344 -/

theorem Channel.stores_eq (ch : Channel) (line : Nat) : ∃ t g, ch.stores line = { ch with lines := t, tagLines := g } := by
  unfold Channel.stores
  extract_lets others u
  have hu : ∃ t, u = { ch with lines := t } :=
    List.foldlRecOn (motive := fun u : Channel => ∃ t, u = { ch with lines := t }) others _ ⟨_, rfl⟩ fun v ⟨t, hv⟩ l _ => by
      subst hv
      exact ⟨_, rfl⟩
  obtain ⟨t, hu⟩ := hu
  exact ⟨_, _, by rw [hu]; rfl⟩

theorem Channel.stores_sound {ch : Channel} (h : ch.Sound) (line : Nat) : (ch.stores line).Sound := by
  obtain ⟨hf, hg, hn, hl, ht⟩ := h
  unfold Channel.stores
  rw [ht, if_neg (by rw [Table.get_nil]; decide)]
  refine ⟨hf, hg, hn, ?_, ?_⟩
  · change Table.set LineCond.good ch.lines line .good = []
    rw [hl]
    rfl
  · change Table.set LineCond.good ch.tagLines (line / 8) .good = []
    rw [ht]
    rfl

@[simp] theorem overlay_length {old : Bytes} {off : Nat} {b : Bytes} (h : off + b.length ≤ old.length) :
    (overlay old off b).length = old.length := by
  simp only [overlay, List.length_append, List.length_take, List.length_drop]
  omega

/-- Bytes that fill a line leave nothing of what it held. -/
theorem overlay_all {old b : Bytes} (h : b.length = old.length) : overlay old 0 b = b := by
  rw [overlay, List.take_zero, List.nil_append, Nat.zero_add, h, List.drop_length, List.append_nil]

theorem slice_overlay {old : Bytes} {off : Nat} {b : Bytes} (h : off + b.length ≤ old.length) : slice (overlay old off b) off b.length = b := by
  have hs := slice_append (old.take off) b (old.drop (off + b.length))
  rw [List.length_take, Nat.min_eq_left (by omega), ← List.append_assoc] at hs
  exact hs

/-- A write's counter moves, and its line and tag are stored. -/
def State.stored (s : State) (i : Nat) (sp : Space) (line : Nat) (b : Bytes) : State :=
  ((s.memEvent i sp 0x051 0x271 1).touchData sp [line]).onChan sp fun ch =>
    { ch.stores line with data := memStore ch.data (64 * line) b }

/-- What a write reads first: the walk where it fills the line, else the line. -/
def State.readFirst (s : State) (i : Nat) (sp : Space) (line : Nat) (b : Bytes) : State × Status × Bytes :=
  if b.length = 64 then ((s.walk i sp line).1, (s.walk i sp line).2, zeros 64) else s.readLine i sp line true

theorem State.writeLine_eq (s : State) (i : Nat) (sp : Space) (line off : Nat) (b : Bytes) : s.writeLine i sp line off b =
    if (s.session i).mem.readOnly then (s, stLocked)
    else
      let r := s.readFirst i sp line b
      if r.2.1 ≠ stOk then (r.1, r.2.1)
      else if (r.1.advance i sp line).2 then ((r.1.advance i sp line).1.stored i sp line (overlay r.2.2 off b), stOk)
      else ((r.1.advance i sp line).1, stLocked) := rfl

section
variable (hi : i < 4) (hsp : sp ∈ s.spaces i) (hs : (s.chan sp).Sound)
include hsp hs

/-- What a write reads first of a space without a fault. -/
theorem State.readFirst_sound (line : Nat) {off : Nat} {b : Bytes} (hlen : off + b.length ≤ 64) :
    (s.readFirst i sp line b).2.1 = stOk ∧ overlay (s.readFirst i sp line b).2.2 off b = overlay ((s.chan sp).shown line) off b ∧
      s.Moves (s.readFirst i sp line b).1 i := by
  unfold State.readFirst
  split
  · next h64 =>
    obtain rfl : off = 0 := by omega
    refine ⟨State.walk_sound hsp hs line, ?_, s.walk_moves i hsp line⟩
    dsimp only
    rw [overlay_all (by simp [h64]), overlay_all (by simp [h64])]
  · obtain ⟨hr, hm⟩ := State.readLine_sound hsp hs line true
    rw [hr]
    exact ⟨rfl, rfl, hm⟩

omit hs in
include hi in
/-- A line that is stored, as reads see it. -/
theorem State.stored_sound (hd : Memory.wf (s.chan sp).data = true) (line : Nat) {b : Bytes} (hb : b.length = 64) :
    let v := (s.stored i sp line b).chan sp
    State.WritesAt sp s (s.stored i sp line b) i ∧ (∀ l, v.pair l = (s.chan sp).pair l) ∧
      ∀ l, v.lineBytes l = if l = line then b else (s.chan sp).lineBytes l := by
  unfold State.stored
  have hp : s.Plain ((s.memEvent i sp 0x051 0x271 1).touchData sp [line]) i := (State.Plain.memEvent s i sp _ _ _).trans (.touch _ i sp _)
  have hch : ((s.memEvent i sp 0x051 0x271 1).touchData sp [line]).chan sp = s.chan sp := by
    rw [State.chan_touchData, State.chan_memEvent]
  generalize (s.memEvent i sp 0x051 0x271 1).touchData sp [line] = t at hp hch ⊢
  have hspt : sp ∈ t.spaces i := by rwa [hp.spaces]
  obtain ⟨c, g, he⟩ := (t.chan sp).stores_eq line
  dsimp only
  rw [State.chan_onChan_same hi hspt]
  refine ⟨hp.moves.writesAt.trans (.onChan hspt (by rw [he]) fun h => ?_), fun l => ?_, fun l => ?_⟩
  · obtain ⟨hf, hg, hn, hl, ht⟩ := Channel.stores_sound h line
    exact ⟨hf, hg, hn, hl, ht⟩
  · rw [he, hch]
    rfl
  · rw [hch]
    exact memLoad_storeLine hd line hb l

include hi in
/-- R343, R344, R352: what a write that completes leaves of a space without a fault. -/
theorem State.writeLine_sound (hd : Memory.wf (s.chan sp).data = true) (hc : (s.chan sp).Counted) {line off : Nat} {b : Bytes}
    (hlen : off + b.length ≤ 64) (h : (s.writeLine i sp line off b).2 = stOk) :
    let v := (s.writeLine i sp line off b).1.chan sp
    State.WritesAt sp s (s.writeLine i sp line off b).1 i ∧
      v.pair line = (if ((s.chan sp).pair line).2 = 127 then ((nextMajor ((s.chan sp).page (line / 64))).toNat, 1)
        else (((s.chan sp).page (line / 64)).major.toNat, ((s.chan sp).pair line).2 + 1)) ∧
      ∀ l, v.shown l = if l = line then overlay ((s.chan sp).shown line) off b else (s.chan sp).shown l := by
  rw [State.writeLine_eq] at h ⊢
  by_cases hro : (s.session i).mem.readOnly = true
  · rw [if_pos hro] at h
    exact absurd h (by decide : stLocked ≠ stOk)
  rw [if_neg hro] at h ⊢
  obtain ⟨hst, hov, hm⟩ := State.readFirst_sound hsp hs line hlen
  generalize s.readFirst i sp line b = r at hst hov hm h ⊢
  dsimp only at h ⊢
  rw [if_neg (not_not.2 hst)] at h ⊢
  by_cases hgood : (r.1.advance i sp line).2 = true
  swap
  · rw [if_neg hgood] at h
    exact absurd h (by decide : stLocked ≠ stOk)
  rw [if_pos hgood]
  have hsr := (hm.chans sp).sound hs
  obtain ⟨hw, hdw, hpair, hshown⟩ := State.advance_sound hi (by rwa [hm.spaces]) hsr.1 (by rwa [hsr.2])
    (hc.of_counters (hm.chans sp).counters) hgood
  rw [(hm.chans sp).pair, show (r.1.chan sp).page (line / 64) = (s.chan sp).page (line / 64) by
    rw [Channel.page, (hm.chans sp).counters]; rfl] at hpair
  generalize (r.1.advance i sp line).1 = w at hw hdw hpair hshown ⊢
  dsimp only
  obtain ⟨hv, hvpair, hvbytes⟩ := State.stored_sound hi (by rwa [hw.spaces, hm.spaces]) hdw line
    (b := overlay r.2.2 off b) (by rw [hov, overlay_length (by simpa using hlen), Channel.shown_length])
  refine ⟨(hm.writesAt.trans hw).trans hv, (hvpair line).trans hpair, fun l => ?_⟩
  by_cases e : l = line
  · subst e
    rw [if_pos rfl, Channel.shown, hvbytes, if_pos rfl, hvpair, hpair, hov, if_neg]
    split
    · exact fun h => absurd (congrArg Prod.snd h) Nat.one_ne_zero
    · exact fun h => absurd (congrArg Prod.snd h) (Nat.succ_ne_zero _)
  · rw [if_neg e, ← (hm.chans sp).shown hs l, ← hshown l e, Channel.shown, hvpair, hvbytes, if_neg e]
    rfl

end

end

end Sys2Proof.Machine
end

section
/-! PROOFS. O56. When a write completes, a run of session HBM, and what is read back. -/

namespace Sys2Proof.Machine

/-! ### A write completes, R344, R347 -/

/-- No metadata of the session's spaces waits to be written back. -/
def State.Clean (s : State) (i : Nat) : Prop := ∀ q ∈ s.spaces i, ∀ e ∈ (s.chan q).cache, e.2 ≠ some true

section
variable {s : State} {i : Nat} {sp : Space}

theorem State.Clean.cached (h : s.Clean i) (hsp : sp ∈ s.spaces i) (q : Item) {c : Option Bool} (hc : c ≠ some true) :
    State.Clean (s.onChan sp fun ch => ch.cached q c) i := by
  intro r hr e he
  rw [(State.Plain.cached hsp q c).spaces] at hr
  rcases s.chan_onChan sp r fun ch => ch.cached q c with hch | ⟨rfl, hch⟩
  · rw [hch] at he
    exact h r hr e he
  · rw [hch] at he
    rcases Table.mem_set he with he | rfl
    · exact h r hr e he
    · exact hc

/-- What waits not is dropped with no access. -/
theorem State.evictBy_clean (h : s.Clean i) (hsp : sp ∈ s.spaces i) (next : State → Nat → Space → Item → State × Bool) (q : Item) :
    s.Plain (State.evictBy next s i sp q) i ∧ State.Clean (State.evictBy next s i sp q) i := by
  unfold State.evictBy
  split
  · exact ⟨.refl s i, h⟩
  · exact ⟨.cached hsp q none, h.cached hsp q (by decide)⟩
  · next hq => exact absurd rfl (h sp hsp _ (Table.mem_of_get hq (by decide)))

theorem State.makeRoomFor_clean (next : State → Nat → Space → Item → State × Bool) (o n fuel k : Nat) (h : s.Clean i)
    (hsp : sp ∈ s.spaces i) : s.Plain (State.makeRoomFor next i sp o n fuel k s) i := by
  induction fuel generalizing k s with
  | zero => exact .refl s i
  | succ fuel ih =>
    unfold State.makeRoomFor
    dsimp only
    split
    · next e he =>
      obtain ⟨hp, hc⟩ := State.evictBy_clean h (State.mem_spaces_of_inWays hsp (List.mem_of_getElem? he)) next e.2
      split
      · exact hp.trans (ih (k + 1) hc (by rwa [hp.spaces]))
      · exact .refl s i
    · exact .refl s i

theorem State.walk_clean (h : s.Clean i) (hsp : sp ∈ s.spaces i) (line : Nat) : s.Plain (s.walk i sp line).1 i := by
  have hd := State.Plain.drawn s i
  have hc : ({ s with draws := s.draws + 1 } : State).Clean i := fun q hq e he => h q (by rwa [← hd.spaces]) e (by cases q <;> exact he)
  have hm := hd.trans (State.makeRoomFor_clean State.nextVersion ((s.session i).lineOwner sp line) s.draws
    (2 * (s.inWays i sp ((s.session i).lineOwner sp line)).length) 0 hc (by rwa [hd.spaces]))
  exact hm.trans (State.reach_plain _ i (by rwa [hm.spaces]) _)

theorem State.sweepAhead_readOnly (hsp : sp ∈ s.spaces i) (g : Nat) :
    ((s.sweepAhead i sp g).session i).mem.readOnly = (s.session i).mem.readOnly := by
  unfold State.sweepAhead
  split
  · split
    · obtain ⟨u, hu, hr⟩ := State.sweepGroup_plain hsp g (mark := fun ch => { ch with ahead := ch.ahead ++ [g] }) fun _ => rfl
      rw [hr.readOnly, State.session_onChan, hu.readOnly]
    · rfl
  · rfl

theorem State.advance_plain (hsp : sp ∈ s.spaces i) (hro : (s.session i).mem.readOnly = false) {line : Nat}
    (hm : ((s.chan sp).pair line).2 ≠ 127) :
    s.advance i sp line = ((s.sweepAhead i sp (line / 64 / 8)).onChan sp fun ch => ch.countUp line, true) := by
  have hr := State.sweepAhead_readOnly hsp (line / 64 / 8)
  have hp := ((s.sweepAhead_moves i hsp (line / 64 / 8)).chans sp).pair line
  rw [State.advance_eq]
  generalize s.sweepAhead i sp (line / 64 / 8) = t at hr hp ⊢
  have h1 : ¬ (t.session i).mem.readOnly = true := by rw [hr, hro]; exact Bool.false_ne_true
  have h2 : ¬ ((t.chan sp).pair line).2 = 127 := by rwa [hp]
  dsimp only
  rw [if_neg h1, if_neg h2, if_pos rfl]

/-- What a write reads first keeps whether the memory is read-only where nothing waits to be written back. -/
theorem State.readFirst_clean (hsp : sp ∈ s.spaces i) (hs : (s.chan sp).Sound) (hclean : s.Clean i) (line : Nat) (b : Bytes) :
    s.Plain (s.readFirst i sp line b).1 i := by
  have hw := State.walk_clean hclean hsp line
  unfold State.readFirst
  split
  · exact hw
  · have hst := State.walk_sound hsp hs line
    unfold State.readLine
    generalize s.walk i sp line = w at hw hst
    have hc := w.1.checkLine_sound i ((hw.chans sp).sound hs).1 line 2
    dsimp only
    rw [if_neg (not_not.2 hst)]
    split
    · exact hw
    · simp only [if_true, hc]
      exact hw.trans (w.1.checkLine_plain i line 2)

/-- R344: a write of a space without a fault completes where no re-frank is due and nothing waits to be written back. -/
theorem State.writeLine_completes (hsp : sp ∈ s.spaces i) (hs : (s.chan sp).Sound) (hclean : s.Clean i) {line off : Nat} {b : Bytes}
    (hlen : off + b.length ≤ 64) (hro : (s.session i).mem.readOnly = false) (hm : ((s.chan sp).pair line).2 ≠ 127) :
    (s.writeLine i sp line off b).2 = stOk := by
  obtain ⟨hst, -, -⟩ := State.readFirst_sound hsp hs line hlen
  have hr := State.readFirst_clean hsp hs hclean line b
  rw [State.writeLine_eq, if_neg (by rw [hro]; exact Bool.false_ne_true)]
  generalize s.readFirst i sp line b = r at hst hr
  dsimp only
  rw [if_neg (not_not.2 hst), State.advance_plain (by rwa [hr.spaces]) (hr.readOnly.trans hro) (by rwa [(hr.chans sp).pair]), if_pos rfl]

end

/-! ### A run of session HBM, R344 -/

theorem Job.status_meet_ok (j : Job) (s : State) : (j.meet s stOk).status = j.status := by
  unfold Job.meet
  dsimp only
  split
  · next h =>
    rcases h with h | ⟨h, -⟩
    · exact h.symm
    · exact absurd h (by decide)
  · rfl

section
variable {j : Job} {a o c cpa : Nat} {b : Bytes}

/-- A run that is written by a write that completes. -/
theorem Job.writeRun_ok (hlive : j.live = true) (hloc : (j.st.session j.sess).locate a = some (o, c, cpa))
    (ho : (j.st.session j.sess).struck o = false) (hown : (j.st.session j.sess).struck j.owner = false)
    (hh : (j.st.chan (.hbm c)).holder = some (j.sess, o)) (hw : (j.st.writeLine j.sess (.hbm c) (cpa / 64) (cpa % 64) b).2 = stOk) :
    j.writeRun a b = j.meet ((j.st.writeLine j.sess (.hbm c) (cpa / 64) (cpa % 64) b).1.onSession j.sess fun x =>
      x.overwrite 4 a b.length) stOk := by
  have hn : ¬ ((j.st.session j.sess).struck o = true ∨ (j.st.session j.sess).struck j.owner = true ∨
      (j.st.chan (.hbm c)).holder ≠ some (j.sess, o)) := by simp [ho, hown, hh]
  unfold Job.writeRun
  rw [if_pos hlive]
  extract_lets x
  split
  · next h => exact absurd (h.symm.trans hloc) (Option.some_ne_none _).symm
  · next h =>
    obtain ⟨rfl, rfl, rfl⟩ : _ ∧ _ ∧ _ := by simpa using h.symm.trans hloc
    rw [if_neg hn]
    generalize j.st.writeLine _ _ _ _ b = w at hw
    dsimp only
    rw [if_pos hw, hw]

/-- A run that is read. -/
theorem Job.readRun_ok (hlive : j.live = true) (hloc : (j.st.session j.sess).locate a = some (o, c, cpa))
    (hres : (j.st.session j.sess).resolve j.copies a = a)
    (ho : (j.st.session j.sess).struck o = false) (hown : (j.st.session j.sess).struck j.owner = false)
    (hh : (j.st.chan (.hbm c)).holder = some (j.sess, o)) (len : Nat) {t : State} {st : Status} {v : Bytes}
    (hr : j.st.readLine j.sess (.hbm c) (cpa / 64) false = (t, st, v)) :
    j.readRun a len = (j.meet t st, slice v (cpa % 64) len) := by
  unfold Job.readRun
  simp only [hlive, hres, hloc, ho, hown, hh, Job.dropsRead, Job.noteStrike, if_true, Bool.false_and, Bool.or_self, if_false, ne_eq,
    not_true_eq_false, or_self, Bool.false_eq_true, hr]

/-- A run that is read in a channel without a fault. -/
theorem Job.readRun_sound (hlive : j.live = true) (hloc : (j.st.session j.sess).locate a = some (o, c, cpa))
    (hres : (j.st.session j.sess).resolve j.copies a = a)
    (ho : (j.st.session j.sess).struck o = false) (hown : (j.st.session j.sess).struck j.owner = false)
    (hh : (j.st.chan (.hbm c)).holder = some (j.sess, o)) (hsp : .hbm c ∈ j.st.spaces j.sess) (hs : (j.st.chan (.hbm c)).Sound)
    (len : Nat) : (j.readRun a len).2 = slice ((j.st.chan (.hbm c)).shown (cpa / 64)) (cpa % 64) len := by
  have hr := (State.readLine_sound hsp hs (cpa / 64) false).1
  rcases hp : j.st.readLine j.sess (.hbm c) (cpa / 64) false with ⟨t, st, v⟩
  rw [hp] at hr
  obtain ⟨-, rfl⟩ := Prod.mk.inj hr
  rw [Job.readRun_ok hlive hloc hres ho hown hh len hp]

/-- What of a session tells where a run lies is in its core. -/
theorem State.run_core {s t : State} {i : Nat} (h : t.core i = s.core i) (copies : Table Bool) (a : Nat) :
    (t.session i).locate a = (s.session i).locate a ∧ (t.session i).resolve copies a = (s.session i).resolve copies a ∧
      (t.session i).struck = (s.session i).struck := by
  have hc := State.core_session h
  refine ⟨?_, ?_, funext fun o => Session.struck_core hc o⟩
  · exact congrArg (fun x => x.locate a) hc
  · exact congrArg (fun x => x.resolve copies a) hc

theorem Job.run_readsBack (hlive : j.live = true) (hi : j.sess < 4) (hloc : (j.st.session j.sess).locate a = some (o, c, cpa))
    (hc : c < 64) (hres : (j.st.session j.sess).resolve j.copies a = a)
    (ho : (j.st.session j.sess).struck o = false) (hown : (j.st.session j.sess).struck j.owner = false)
    (hh : (j.st.chan (.hbm c)).holder = some (j.sess, o)) (hwf : (j.st.chan (.hbm c)).wf = true) (hs : (j.st.chan (.hbm c)).Sound)
    (hlen : cpa % 64 + b.length ≤ 64) (hw : (j.st.writeLine j.sess (.hbm c) (cpa / 64) (cpa % 64) b).2 = stOk) :
    ((j.writeRun a b).readRun a b.length).2 = b ∧ (j.writeRun a b).status = j.status := by
  have hsp : Space.hbm c ∈ j.st.spaces j.sess := State.mem_spaces.2 (.inl ⟨c, hc, rfl, congrArg (Option.map Prod.fst) hh⟩)
  obtain ⟨hworks, -, hshown⟩ := State.writeLine_sound hi hsp hs ((Channel.wf_iff _).1 hwf).data (.of_wf hwf) hlen hw
  have hcore := j.st.core_writeLine j.sess (.hbm c) (cpa / 64) (cpa % 64) b
  rw [Job.writeRun_ok hlive hloc ho hown hh hw]
  generalize (j.st.writeLine j.sess (.hbm c) (cpa / 64) (cpa % 64) b).1 = w at hworks hshown hcore
  have hw' : State.WritesAt (.hbm c) w (w.onSession j.sess fun x => x.overwrite 4 a b.length) j.sess :=
    .of_chan (fun q ch => KeptBy.refl _ q ch) (State.OwnWork.onSession _ _ _ rfl rfl rfl) (State.core_onSession _ _ _ rfl)
      (w.stands_onSession _ ⟨id, fun _ _ => rfl⟩) fun q => w.chan_onSession q j.sess _
  have hv := hworks.trans hw'
  have hchan := w.chan_onSession (.hbm c) j.sess fun x => x.overwrite 4 a b.length
  generalize w.onSession j.sess (fun x => x.overwrite 4 a b.length) = v at hv hchan
  obtain ⟨hl, hr, hstr⟩ := State.run_core hv.core j.copies a
  have hst := j.status_meet_ok v
  refine ⟨?_, hst⟩
  have hs' : (v.chan (.hbm c)).Sound := (hv.chans _).own rfl hs
  rw [Job.readRun_sound (j := j.meet v stOk) (o := o) (c := c) (cpa := cpa) (by unfold Job.live; rw [hst]; exact hlive)
    (hl.trans hloc) (hr.trans hres) ((congrFun hstr o).trans ho) ((congrFun hstr j.owner).trans hown)
    ((hv.holder _).trans hh) (by rw [show (j.meet v stOk).st.spaces (j.meet v stOk).sess = j.st.spaces j.sess from hv.spaces]; exact hsp) hs']
  rw [show ((j.meet v stOk).st.chan (.hbm c)) = w.chan (.hbm c) from hchan, hshown, if_pos rfl]
  exact slice_overlay (by simpa using hlen)

end

/-! ### O56 -/

section
variable {s : State} {i : Nat} {sp : Space}

/-- R343, R349: what a read shows of each line of the session's spaces once a write of one of them completes. -/
theorem State.readLine_writeLine (hi : i < 4) (hsp : sp ∈ s.spaces i) (hall : ∀ q ∈ s.spaces i, (s.chan q).wf = true ∧ (s.chan q).Sound)
    {line off : Nat} {b : Bytes} (hlen : off + b.length ≤ 64) (h : (s.writeLine i sp line off b).2 = stOk) {q : Space}
    (hq : q ∈ s.spaces i) (l : Nat) :
    ((s.writeLine i sp line off b).1.readLine i q l false).2 =
      if q = sp ∧ l = line then (stOk, overlay (s.readLine i sp line false).2.2 off b) else (s.readLine i q l false).2 := by
  obtain ⟨hwf, hs⟩ := hall sp hsp
  have hsq := (hall q hq).2
  obtain ⟨hw, -, hshown⟩ := State.writeLine_sound hi hsp hs ((Channel.wf_iff _).1 hwf).data (.of_wf hwf) hlen h
  generalize (s.writeLine i sp line off b).1 = t at hw hshown
  have hqt : q ∈ t.spaces i := by rwa [hw.spaces]
  rw [(State.readLine_sound hsp hs line false).1, (State.readLine_sound hq hsq l false).1]
  by_cases e : q = sp
  · subst e
    rw [(State.readLine_sound hqt ((hw.chans q).own rfl hs) l false).1, hshown]
    by_cases hl : l = line
    · rw [if_pos hl, if_pos ⟨rfl, hl⟩]
    · rw [if_neg hl, if_neg fun h => hl h.2]
  · have hm := (hw.chans q).other e
    rw [(State.readLine_sound hqt (hm.sound hsq).1 l false).1, hm.shown hsq, if_neg fun h => e h.1]

/-- R346: a line that was never written reads as zeros after its walk alone. -/
theorem State.readLine_fresh {line : Nat} (hw : (s.walk i sp line).2 = stOk) (h : ((s.walk i sp line).1.chan sp).pair line = (0, 0))
    (part : Bool) : s.readLine i sp line part = ((s.walk i sp line).1, stOk, zeros 64) := by
  unfold State.readLine
  generalize s.walk i sp line = w at hw h
  dsimp only
  rw [if_neg (not_not.2 hw), if_pos h]

end

/-- Settles O56: a write's steps (the walk or the read before it, the advance of its counter, the store) each leave what the
other lines show, and the line shows the bytes written. -/
theorem writtenLinesReadBack : Obligations.WrittenLinesReadBack := by
  unfold Obligations.WrittenLinesReadBack
  refine ⟨fun s i sp line off b hi hsp hall _ hlen => ?_, fun s i sp line part q => ?_,
    fun j a o c cpa b hlive hi hloc hc hres ho hown hh hall _ hlen hw => ?_⟩
  · obtain ⟨hwf, hs⟩ := hall sp hsp
    refine ⟨fun h => ?_, fun hro => ?_, fun hro hm hclean => State.writeLine_completes hsp hs hclean hlen hro hm⟩
    · obtain ⟨hw, hpair, -⟩ := State.writeLine_sound hi hsp hs ((Channel.wf_iff _).1 hwf).data (.of_wf hwf) hlen h
      exact ⟨fun q hq l => State.readLine_writeLine hi hsp hall hlen h hq l, hw.other, hpair⟩
    · rw [State.writeLine_eq, if_pos hro]
  · refine ⟨fun hw h => State.readLine_fresh hw h part, fun hv => ?_⟩
    unfold State.fetchItem
    exact if_pos hv
  · have hsp : Space.hbm c ∈ j.st.spaces j.sess := State.mem_spaces.2 (.inl ⟨c, hc, rfl, congrArg (Option.map Prod.fst) hh⟩)
    exact Job.run_readsBack hlive hi hloc hc hres ho hown hh (hall _ hsp).1 (hall _ hsp).2 hlen hw

end Sys2Proof.Machine
end

section
/-! PROOFS. O57. What a failure leaves: its lines poisoned under moved counters, its counts, its log entry and the quarantine. -/

namespace Sys2Proof.Machine

/-! ### Counters that move on together -/

/-- The counters of several lines move on. -/
def Channel.countAll (ch : Channel) (ls : List Nat) : Channel := ls.foldl Channel.countUp ch

theorem Channel.Counted.countUp {ch : Channel} (h : ch.Counted) (line : Nat) : (ch.countUp line).Counted := by
  refine ⟨Table.set_wf h.counters _ _, fun p => ?_⟩
  rw [show (ch.countUp line).page p = _ from Channel.page_setPage h.counters _ _ p]
  split
  · exact Table.set_wf (h.minors _) _ _
  · exact h.minors p

/-- Each line's counter moves on by one, and nothing but counters and metadata with them. -/
theorem Channel.countAll_spec {ch : Channel} (h : ch.Counted) {ls : List Nat} (hn : ls.Nodup) (hm : ∀ l ∈ ls, (ch.pair l).2 ≠ 127) :
    (∃ c m, ch.countAll ls = { ch with counters := c, cache := m }) ∧
      ∀ l, (ch.countAll ls).pair l = if l ∈ ls then ((ch.pair l).1, (ch.pair l).2 + 1) else ch.pair l := by
  unfold Channel.countAll
  induction ls generalizing ch with
  | nil => exact ⟨⟨_, _, rfl⟩, fun l => (if_neg List.not_mem_nil).symm⟩
  | cons k ls ih =>
    obtain ⟨hk, hn⟩ := List.nodup_cons.1 hn
    have hpair := Channel.pair_countUp h (hm k List.mem_cons_self)
    have hother (l : Nat) (hl : l ∈ ls) : (ch.countUp k).pair l = ch.pair l :=
      (hpair l).trans (if_neg (ne_of_mem_of_not_mem hl hk))
    obtain ⟨⟨c, m, he⟩, hall⟩ := ih (h.countUp k) hn fun l hl => by
      rw [hother l hl]
      exact hm l (List.mem_cons_of_mem _ hl)
    refine ⟨⟨c, m, he⟩, fun l => ?_⟩
    rw [List.foldl_cons, hall l]
    by_cases hl : l ∈ ls
    · rw [if_pos hl, if_pos (List.mem_cons_of_mem _ hl), hother l hl]
    · rw [if_neg hl, hpair]
      by_cases e : l = k
      · subst e
        rw [if_pos rfl, if_pos List.mem_cons_self]
      · rw [if_neg e, if_neg fun h => (List.mem_cons.1 h).elim e hl]

theorem nodup_spoiledWith (ch : Channel) (line : Nat) : (ch.spoiledWith line).Nodup := by
  unfold Channel.spoiledWith taggedBy
  split
  · exact List.nodup_range.map fun a b h => Nat.add_left_cancel h
  · exact List.nodup_singleton line

/-! ### Work of a session, of any kind -/

/-- Work of session `i` on its spaces, whatever it makes of them. -/
abbrev State.Serves (s t : State) (i : Nat) : Prop := State.Works (fun _ _ _ => True) s t i

section
variable {s t u : State} {i : Nat} {sp : Space}

theorem State.Serves.refl (s : State) (i : Nat) : s.Serves s i := (State.Plain.refl s i).toWorks.mono fun _ _ _ _ => trivial

theorem State.Serves.trans (h : s.Serves t i) (g : t.Serves u i) : s.Serves u i := State.Works.trans (fun _ _ _ _ _ _ => trivial) h g

theorem State.Plain.serves (h : s.Plain t i) : s.Serves t i := h.toWorks.mono fun _ _ _ _ => trivial

theorem State.Moves.serves (h : s.Moves t i) : s.Serves t i := State.Works.mono (fun _ _ _ _ => trivial) h

theorem State.WritesAt.serves (h : State.WritesAt sp s t i) : s.Serves t i := State.Works.mono (fun _ _ _ _ => trivial) h

theorem State.Serves.onChan (hsp : sp ∈ s.spaces i) {f : Channel → Channel} (hh : (f (s.chan sp)).holder = (s.chan sp).holder) :
    s.Serves (s.onChan sp f) i :=
  State.Works.onChan (fun _ _ => trivial) hsp hh trivial

theorem State.refrank_serves (hsp : sp ∈ s.spaces i) (p : Nat) : s.Serves (s.refrank i sp p).1 i := by
  rw [State.refrank_eq]
  have hr := s.rollEpoch_moves i
  split
  · split
    · have hu := hr.trans (State.sweepUpTo_moves (sp := sp) (by rwa [hr.spaces]) (p / 8 + 1))
      exact hu.serves.trans (State.refrankAt_writes (by rwa [hu.spaces]) p 1).serves
    · exact hr.serves
  · exact (State.refrankAt_writes hsp p _).serves

theorem State.advance_serves (hsp : sp ∈ s.spaces i) (line : Nat) : s.Serves (s.advance i sp line).1 i := by
  rw [State.advance_eq]
  have ht := (s.sweepAhead_moves i hsp (line / 64 / 8)).serves
  generalize s.sweepAhead i sp (line / 64 / 8) = t at ht ⊢
  have hspt : sp ∈ t.spaces i := by rwa [ht.spaces]
  dsimp only
  have hr : t.Serves (if (t.session i).mem.readOnly then (t, false)
      else if ((t.chan sp).pair line).2 = 127 then (t.memEvent i sp 0x053 0 1).refrank i sp (line / 64) else (t, true)).1 i := by
    split
    · exact .refl t i
    · split
      · have he := State.Plain.memEvent t i sp 0x053 0 1
        exact he.serves.trans (State.refrank_serves (by rwa [he.spaces]) _)
      · exact .refl t i
  generalize (if (t.session i).mem.readOnly then (t, false)
      else if ((t.chan sp).pair line).2 = 127 then (t.memEvent i sp 0x053 0 1).refrank i sp (line / 64) else (t, true)) = r at hr ⊢
  split
  · exact ht.trans (hr.trans (State.Serves.onChan (f := fun ch => ch.countUp line) (by rwa [hr.spaces]) rfl))
  · exact ht.trans hr

/-! ### Poisoning, R358 -/

/-- The counters of several lines move on in turn, until one cannot. -/
def State.advances (s : State) (i : Nat) (sp : Space) (ls : List Nat) : State × Bool :=
  ls.foldl (fun (r : State × Bool) l => if r.2 then r.1.advance i sp l else r) (s, true)

theorem State.poison_eq (s : State) (i : Nat) (sp : Space) (line : Nat) : s.poison i sp line =
    let lines := (s.chan sp).spoiledWith line
    let r := (s.onChan sp fun ch => (ch.blank .poisoned lines).tagGood (line / 8)).advances i sp lines
    if r.2 then (r.1.memEvent i sp 0x051 0x271 lines.length).touchData sp lines
    else r.1.onChan sp fun ch => { ch with data := (s.chan sp).data, lines := (s.chan sp).lines, tagLines := (s.chan sp).tagLines } := rfl

theorem State.advances_serves (hsp : sp ∈ s.spaces i) (ls : List Nat) : s.Serves (s.advances i sp ls).1 i :=
  List.foldlRecOn (motive := fun r : State × Bool => s.Serves r.1 i) ls _ (.refl s i) fun r h l _ => by
    split
    · exact h.trans (State.advance_serves (by rwa [h.spaces]) l)
    · exact h

theorem State.poison_serves (hsp : sp ∈ s.spaces i) (line : Nat) : s.Serves (s.poison i sp line) i := by
  rw [State.poison_eq]
  extract_lets lines r
  have ht : s.Serves (s.onChan sp fun ch => (ch.blank .poisoned lines).tagGood (line / 8)) i :=
    .onChan hsp (Channel.holder_blank .poisoned _ lines)
  have hr : s.Serves r.1 i := ht.trans (State.advances_serves (by rwa [ht.spaces]) lines)
  split
  · exact hr.trans ((State.Plain.memEvent _ i sp _ _ _).trans (.touch _ i sp _)).serves
  · exact hr.trans (.onChan (by rwa [hr.spaces]) rfl)

/-- Where no sweep runs, no minor counter is at its end and memory may be written, counters move on and nothing else. -/
theorem State.advances_calm (hi : i < 4) {ls : List Nat} (hsp : sp ∈ s.spaces i) (hro : (s.session i).mem.readOnly = false)
    (hsweep : (s.chan sp).sweep = none) (hc : (s.chan sp).Counted) (hn : ls.Nodup) (hm : ∀ l ∈ ls, ((s.chan sp).pair l).2 ≠ 127) :
    (s.advances i sp ls).2 = true ∧ (s.advances i sp ls).1.chan sp = (s.chan sp).countAll ls ∧
      (s.advances i sp ls).1.session i = s.session i := by
  unfold State.advances Channel.countAll
  induction ls generalizing s with
  | nil => exact ⟨rfl, rfl, rfl⟩
  | cons k ls ih =>
    obtain ⟨hk, hn⟩ := List.nodup_cons.1 hn
    have hkm := hm k List.mem_cons_self
    have hadv : s.advance i sp k = (s.onChan sp fun ch => ch.countUp k, true) := by
      rw [State.advance_plain hsp hro hkm, State.sweepAhead, hsweep]
    have hw := State.Serves.onChan hsp (f := fun ch => ch.countUp k) rfl
    have hch := State.chan_onChan_same hi hsp fun ch => ch.countUp k
    have hx := s.session_onChan sp (fun ch => ch.countUp k) i
    rw [List.foldl_cons, List.foldl_cons, if_pos rfl, hadv]
    generalize s.onChan sp (fun ch => ch.countUp k) = t at hw hch hx
    have hspt : sp ∈ t.spaces i := by rwa [hw.spaces]
    rw [← hch, ← hx]
    refine ih hspt (by rwa [hx]) (by rw [hch]; exact hsweep) (by rw [hch]; exact hc.countUp k) hn fun l hl => ?_
    rw [hch, Channel.pair_countUp hc hkm, if_neg (ne_of_mem_of_not_mem hl hk)]
    exact hm l (List.mem_cons_of_mem _ hl)

/-- Memory in which the lines that fail with a line may be poisoned at once. -/
def State.Calm (s : State) (i : Nat) (sp : Space) (line : Nat) : Prop :=
  (s.session i).mem.readOnly = false ∧ (s.chan sp).sweep = none ∧ ∀ l ∈ (s.chan sp).spoiledWith line, ((s.chan sp).pair l).2 ≠ 127

/-- R358: the lines that fail with a line are left poisoned with their counters moved on, and no other line is changed. -/
structure Channel.Spoiled (ch u : Channel) (line : Nat) : Prop where
  spoiled : ∀ l ∈ ch.spoiledWith line, Table.get .good u.lines l = .poisoned ∧ u.lineBytes l = zeros 64 ∧
    u.pair l = ((ch.pair l).1, (ch.pair l).2 + 1)
  kept : ∀ l, l ∉ ch.spoiledWith line → Table.get .good u.lines l = Table.get .good ch.lines l ∧
    u.lineBytes l = ch.lineBytes l ∧ u.pair l = ch.pair l

theorem State.poison_calm (hi : i < 4) (hsp : sp ∈ s.spaces i) (hwf : (s.chan sp).wf = true) {line : Nat} (h : s.Calm i sp line) :
    (s.chan sp).Spoiled ((s.poison i sp line).chan sp) line ∧ ((s.poison i sp line).session i).mem = (s.session i).mem := by
  obtain ⟨hro, hsweep, hm⟩ := h
  have hcan := (Channel.wf_iff _).1 hwf
  have hn := nodup_spoiledWith (s.chan sp) line
  rw [State.poison_eq]
  generalize hls : (s.chan sp).spoiledWith line = ls at hm hn
  obtain ⟨d, t, hb, -, -, hbytes, hconds⟩ := Channel.blank_spec .poisoned hcan.data hcan.lines ls
  have hw : s.Serves (s.onChan sp fun ch => (ch.blank .poisoned ls).tagGood (line / 8)) i :=
    .onChan hsp (Channel.holder_blank .poisoned _ ls)
  have hch := State.chan_onChan_same hi hsp fun ch => (ch.blank .poisoned ls).tagGood (line / 8)
  have hx := s.session_onChan sp (fun ch => (ch.blank .poisoned ls).tagGood (line / 8)) i
  dsimp only
  generalize s.onChan sp (fun ch => (ch.blank .poisoned ls).tagGood (line / 8)) = v at hw hch hx
  rw [hb] at hch
  have hcount : (v.chan sp).Counted := (Channel.Counted.of_wf hwf).of_counters (by rw [hch]; rfl)
  have hpair (l : Nat) : (v.chan sp).pair l = (s.chan sp).pair l := by rw [hch]; rfl
  have hmv (l : Nat) (hl : l ∈ ls) : ((v.chan sp).pair l).2 ≠ 127 := by
    rw [hpair]
    exact hm l hl
  obtain ⟨hgood, hchan, hsess⟩ := State.advances_calm hi (by rwa [hw.spaces]) (by rwa [hx]) (by rw [hch]; exact hsweep) hcount hn hmv
  obtain ⟨⟨c, m, he⟩, hpairs⟩ := Channel.countAll_spec hcount hn hmv
  rw [if_pos hgood, State.chan_touchData, State.chan_memEvent, State.session_touchData, State.mem_memEvent, hchan, hsess, hx]
  have hlines (l : Nat) : Table.get .good ((v.chan sp).countAll ls).lines l = if l ∈ ls then .poisoned else (s.chan sp).cond l := by
    rw [he, hch]
    exact hconds l
  have hdata (l : Nat) : ((v.chan sp).countAll ls).lineBytes l = if l ∈ ls then zeros 64 else (s.chan sp).lineBytes l := by
    rw [he, hch]
    exact hbytes l
  refine ⟨⟨fun l hl => ?_, fun l hl => ?_⟩, rfl⟩
  · rw [hls] at hl
    exact ⟨(hlines l).trans (if_pos hl), (hdata l).trans (if_pos hl), by rw [hpairs, if_pos hl, hpair]⟩
  · rw [hls] at hl
    exact ⟨(hlines l).trans (if_neg hl), (hdata l).trans (if_neg hl), by rw [hpairs, if_neg hl, hpair]⟩

end

end Sys2Proof.Machine
end

section
/-! PROOFS. O57. A read, a write and a fetch by what they find. -/

namespace Sys2Proof.Machine

section
variable {s : State} {i : Nat} {sp : Space} {line : Nat}

/-! ### A failed tag, R359, R360 -/

/-- The log entry of a tag that fails. -/
def State.violationAt (s : State) (sp : Space) (a kind level owner : Nat) : Violation :=
  { far := match sp with | .far _ => true | _ => false
    address := match sp with
      | .hbm c => BitVec.ofNat 63 (c * 2 ^ 34 + a)
      | .far _ => BitVec.ofNat 63 a
    postmark := s.time.now, kind := BitVec.ofNat 4 kind, level := BitVec.ofNat 4 level, owner := BitVec.ofNat 5 owner }

/-- What a tag that fails changes of its session: it is counted, logged where the log has room, and all is stopped. -/
theorem State.session_violation (hi : i < 4) (a k lv o : Nat) : (s.violation i sp a k lv o).session i =
    ({ s.session i with mem := { (s.session i).mem with
        integrity := satAdd (s.session i).mem.integrity 1, quarantined := true,
        log := if (s.session i).mem.log.length < 16 then (s.session i).mem.log ++ [s.violationAt sp a k lv o] else (s.session i).mem.log } } :
      Session).stopAll stIntegrity := by
  unfold State.violation
  rw [State.onSession_same _ _ hi, State.onMem, State.onSession_same _ _ hi]
  rfl

/-! ### A read of a line, by what its check finds, R344, R358 -/

theorem State.readLine_checked (hw : (s.walk i sp line).2 = stOk) (hp : ((s.walk i sp line).1.chan sp).pair line ≠ (0, 0)) (part : Bool)
    {t : State} {st : Status} (h : (s.walk i sp line).1.checkLine i sp line (if part then 2 else 1) = (t, st)) :
    s.readLine i sp line part =
      if st = stOk then (t, stOk, ((s.walk i sp line).1.chan sp).lineBytes line)
      else if st = stPoisoned then (t.onMem i fun m => { m with poisonRead := satAdd m.poisonRead 1 }, stPoisoned, zeros 64)
      else (t.poison i sp line, st, zeros 64) := by
  unfold State.readLine
  generalize s.walk i sp line = w at hw hp h
  dsimp only
  rw [if_neg (not_not.2 hw), if_neg hp, h]

section
variable (hw : (s.walk i sp line).2 = stOk) (hp : ((s.walk i sp line).1.chan sp).pair line ≠ (0, 0)) (part : Bool)
include hw hp

theorem State.readLine_gone (h : ((s.walk i sp line).1.chan sp).Gone line) : s.readLine i sp line part =
    ((((s.walk i sp line).1.counted i sp line).onMem i fun m => { m with uncorrectable := satAdd m.uncorrectable 1 }).poison i sp line,
      stUncorrectable, zeros 64) := by
  rw [State.readLine_checked hw hp part (State.checkLine_lost i _ h), if_neg (by decide), if_neg (by decide)]

variable (hg : ¬ ((s.walk i sp line).1.chan sp).Gone line)
include hg

theorem State.readLine_poisoned (h : ((s.walk i sp line).1.chan sp).cond line = .poisoned) : s.readLine i sp line part =
    (((s.walk i sp line).1.counted i sp line).onMem i fun m => { m with poisonRead := satAdd m.poisonRead 1 }, stPoisoned, zeros 64) := by
  rw [State.readLine_checked hw hp part (State.checkLine_poisoned i _ hg h), if_neg (by decide), if_pos rfl]

theorem State.readLine_tagBad (h : ((s.walk i sp line).1.chan sp).cond line = .tagBad) : s.readLine i sp line part =
    ((((s.walk i sp line).1.counted i sp line).violation i sp (64 * line) (if part then 2 else 1) 0
      ((((s.walk i sp line).1.counted i sp line).session i).lineOwner sp line)).poison i sp line, stIntegrity, zeros 64) := by
  rw [State.readLine_checked hw hp part (State.checkLine_tagBad i _ hg h), if_neg (by decide), if_neg (by decide)]

theorem State.readLine_good (h : ((s.walk i sp line).1.chan sp).cond line = .good ∨ ((s.walk i sp line).1.chan sp).cond line = .correctable) :
    s.readLine i sp line part =
      ((s.walk i sp line).1.counted i sp line, stOk, ((s.walk i sp line).1.chan sp).lineBytes line) := by
  rw [State.readLine_checked hw hp part (State.checkLine_good i _ hg h), if_pos rfl]

end

/-- The correctable errors met with a poisoned line are its tag line's. -/
theorem Channel.corrections_poisoned {ch : Channel} (h : ch.cond line = .poisoned) :
    ch.corrections line = if ch.tagCond line = .correctable then 1 else 0 := by
  unfold Channel.corrections
  rw [h]
  by_cases ht : ch.tagCond line = .correctable <;> simp [ht]

/-! ### What each failure leaves -/

section
variable (hi : i < 4)
include hi

theorem State.mem_onMem (s : State) (f : MemRec → MemRec) : ((s.onMem i f).session i).mem = f (s.session i).mem := by
  rw [State.onMem, State.onSession_same _ _ hi]

theorem State.mem_counted (s : State) (sp : Space) (line : Nat) : ((s.counted i sp line).session i).mem =
    { (s.session i).mem with corrected := satAdd (s.session i).mem.corrected ((s.chan sp).corrections line) } := by
  obtain ⟨r, hx⟩ := s.session_counted i sp line hi
  rw [hx]

/-- Poisoning after work that counts and logs the failure. -/
theorem State.poison_after {t : State} (hp : s.Plain t i) (hch : t.chan sp = s.chan sp) (hsp : sp ∈ s.spaces i)
    (hwf : (s.chan sp).wf = true) (h : s.Calm i sp line) :
    (s.chan sp).Spoiled ((t.poison i sp line).chan sp) line ∧ ((t.poison i sp line).session i).mem = (t.session i).mem := by
  obtain ⟨hro, hsweep, hm⟩ := h
  rw [← hch] at hwf hsweep hm ⊢
  exact State.poison_calm hi (by rwa [hp.spaces]) hwf ⟨hp.readOnly.trans hro, hsweep, hm⟩

variable (hsp : sp ∈ s.spaces i)
include hsp

/-- R358: an uncorrectable line is counted and poisoned. -/
theorem State.lost_calm (hwf : (s.chan sp).wf = true) (h : s.Calm i sp line) :
    let t := ((s.counted i sp line).onMem i fun m => { m with uncorrectable := satAdd m.uncorrectable 1 }).poison i sp line
    (s.chan sp).Spoiled (t.chan sp) line ∧ (t.session i).mem.uncorrectable = satAdd (s.session i).mem.uncorrectable 1 ∧
      (t.session i).mem.quarantined = (s.session i).mem.quarantined := by
  obtain ⟨hspoil, hmem⟩ := State.poison_after hi
    (t := (s.counted i sp line).onMem i fun m => { m with uncorrectable := satAdd m.uncorrectable 1 })
    ((s.counted_plain i sp line).trans (.onMem _ i _ rfl)) (by rw [State.chan_onMem, State.chan_counted]) hsp hwf h
  rw [State.mem_onMem hi, State.mem_counted hi] at hmem
  exact ⟨hspoil, by rw [hmem], by rw [hmem]⟩

/-- R359, R360: a tag that fails quarantines its session and stops what executes. -/
theorem State.tagBad_stops (a k lv o : Nat) :
    let t := ((s.counted i sp line).violation i sp a k lv o).poison i sp line
    (t.session i).mem.quarantined = true ∧ ∀ c < 4, ((s.session i).ctx c).live = true →
      ((t.session i).ctx c).state = .stopped ∧ ((t.session i).ctx c).status = stIntegrity := by
  have hpl := (s.counted_plain i sp line).trans (.violation _ i sp a k lv o)
  have hst := (State.poison_serves (s := (s.counted i sp line).violation i sp a k lv o) (by rwa [hpl.spaces]) line).stands
  rw [State.session_violation hi] at hst
  refine ⟨hst.quarantined (by rw [Session.mem_stopAll]), fun c hc hlive => ?_⟩
  obtain ⟨r, hx⟩ := s.session_counted i sp line hi
  have hs := Session.stopAll_ctx (x := { (s.counted i sp line).session i with mem := { ((s.counted i sp line).session i).mem with
    integrity := satAdd ((s.counted i sp line).session i).mem.integrity 1, quarantined := true,
    log := if ((s.counted i sp line).session i).mem.log.length < 16 then
      ((s.counted i sp line).session i).mem.log ++ [(s.counted i sp line).violationAt sp a k lv o]
      else ((s.counted i sp line).session i).mem.log } }) (d := c) stIntegrity hc (by rw [hx]; exact hlive)
  rw [hst.dead c (Context.live_of_stopped hs.1)]
  exact hs

/-- R357 to R359: a tag that fails is counted and logged, and its line poisoned. -/
theorem State.tagBad_calm (hwf : (s.chan sp).wf = true) (h : s.Calm i sp line) (a k lv o : Nat) :
    let t := ((s.counted i sp line).violation i sp a k lv o).poison i sp line
    (s.chan sp).Spoiled (t.chan sp) line ∧ (t.session i).mem.integrity = satAdd (s.session i).mem.integrity 1 ∧
      ((s.session i).mem.log.length < 16 → (t.session i).mem.log = (s.session i).mem.log ++ [s.violationAt sp a k lv o]) := by
  have hpl := (s.counted_plain i sp line)
  obtain ⟨hspoil, hmem⟩ := State.poison_after hi (hpl.trans (.violation _ i sp a k lv o))
    (by rw [State.chan_violation, State.chan_counted]) hsp hwf h
  have htime : (s.counted i sp line).violationAt sp a k lv o = s.violationAt sp a k lv o := by
    unfold State.violationAt
    rw [congrArg State.time hpl.own.1]
  rw [State.session_violation hi, Session.mem_stopAll, State.mem_counted hi, htime] at hmem
  refine ⟨hspoil, by rw [hmem], fun hl => ?_⟩
  rw [hmem]
  exact if_pos hl

end

/-! ### Writes over what failed, R344 -/

theorem Channel.stores_good {ch : Channel} (h : ch.Canonical) (line : Nat) :
    (ch.stores line).cond line = .good ∧ (ch.stores line).tagCond line = .good := by
  unfold Channel.stores
  extract_lets others u
  have hu : u.Canonical := h.foldl (fun _ _ h => h.setLine _ _) others
  exact ⟨Table.get_set_same hu.lines line .good, Table.get_set_same hu.tagLines (line / 8) .good⟩

theorem Channel.Canonical.countUp {ch : Channel} (h : ch.Canonical) (line : Nat) : (ch.countUp line).Canonical :=
  (h.setPage (line / 64) (c := { ch.page (line / 64) with
    minors := Table.set 0 (ch.page (line / 64)).minors (line % 64) (Table.get 0 (ch.page (line / 64)).minors (line % 64) + 1) })
    (Table.set_wf (h.page _) _ _)).cached _ _

theorem State.chan_stored (hi : i < 4) (hsp : sp ∈ s.spaces i) (b : Bytes) : (s.stored i sp line b).chan sp =
    { (s.chan sp).stores line with data := memStore (s.chan sp).data (64 * line) b } := by
  have hp : s.Plain ((s.memEvent i sp 0x051 0x271 1).touchData sp [line]) i := (State.Plain.memEvent s i sp _ _ _).trans (.touch _ i sp _)
  rw [State.stored, State.chan_onChan_same hi (by rwa [hp.spaces]), State.chan_touchData, State.chan_memEvent]

/-- A full-line write where no re-frank is due: the line and its tag line are good again, and the line holds the bytes. -/
theorem State.writeLine_full (hi : i < 4) (hsp : sp ∈ s.spaces i) {b : Bytes} (hb : b.length = 64)
    (hro : (s.session i).mem.readOnly = false) (hw : (s.walk i sp line).2 = stOk) (hwf : ((s.walk i sp line).1.chan sp).wf = true)
    (hro' : ((s.walk i sp line).1.session i).mem.readOnly = false) (hsweep : ((s.walk i sp line).1.chan sp).sweep = none)
    (hm : (((s.walk i sp line).1.chan sp).pair line).2 ≠ 127) :
    let r := s.writeLine i sp line 0 b
    r.2 = stOk ∧ (r.1.chan sp).cond line = .good ∧ (r.1.chan sp).tagCond line = .good ∧ (r.1.chan sp).lineBytes line = b := by
  have hwm := s.walk_moves i hsp line
  rw [State.writeLine_eq, if_neg (by rw [hro]; exact Bool.false_ne_true), State.readFirst, if_pos hb]
  generalize s.walk i sp line = w at hw hwf hro' hsweep hm hwm
  have hspw : sp ∈ w.1.spaces i := by rwa [hwm.spaces]
  have hcan := ((Channel.wf_iff _).1 hwf).countUp line
  have hb' : overlay (zeros 64) 0 b = b := overlay_all (by rw [hb]; exact (zeros_length 64).symm)
  generalize zeros 64 = z at hb'
  dsimp only
  rw [if_neg (not_not.2 hw), State.advance_plain hspw hro' hm, if_pos rfl, hb', State.sweepAhead, hsweep]
  have hs := State.Serves.onChan hspw (f := fun ch => ch.countUp line) rfl
  have hch := State.chan_onChan_same hi hspw fun ch => ch.countUp line
  dsimp only
  generalize w.1.onChan sp (fun ch => ch.countUp line) = t at hs hch
  rw [← hch] at hcan
  rw [State.chan_stored hi (by rwa [hs.spaces])]
  obtain ⟨hline, htag⟩ := Channel.stores_good hcan line
  exact ⟨rfl, hline, htag, (memLoad_storeLine hcan.data line hb line).trans (if_pos rfl)⟩

/-! ### Metadata that fails, R357 -/

/-- A fetch of an item that was written: it is counted. -/
def State.fetching (s : State) (i : Nat) (sp : Space) (q : Item) : State :=
  (s.memEvent i sp 0x052 0 1).onMem i fun m =>
    { m with metaFetch := satAdd m.metaFetch 1, corrected := satAdd m.corrected (((s.chan sp).conds q).filter (· = .correctable)).length }

section
variable (hi : i < 4) (hsp : sp ∈ s.spaces i) {q : Item} (hv : (s.chan sp).version q ≠ 0)

theorem State.fetching_plain (s : State) (i : Nat) (sp : Space) (q : Item) : s.Plain (s.fetching i sp q) i :=
  (State.Plain.memEvent s i sp _ _ _).trans (.onMem _ i _ rfl)

include hi in
theorem State.mem_fetching (q : Item) : ((s.fetching i sp q).session i).mem = { (s.session i).mem with
    metaFetch := satAdd (s.session i).mem.metaFetch 1,
    corrected := satAdd (s.session i).mem.corrected (((s.chan sp).conds q).filter (· = .correctable)).length } := by
  rw [State.fetching, State.mem_onMem hi, State.mem_memEvent]

include hi hsp in
/-- A faulty item is kept. -/
theorem State.chan_failed (c : LineCond) :
    ((s.fetching i sp q).onChan sp fun ch => { ch with failed := ch.failed ++ [(q.key, c)] }).chan sp =
      { s.chan sp with failed := (s.chan sp).failed ++ [(q.key, c)] } := by
  rw [State.chan_onChan_same hi (by rwa [(s.fetching_plain i sp q).spaces]), State.fetching, State.chan_onMem, State.chan_memEvent]

include hv

theorem State.fetchItem_lost (h : ((s.chan sp).conds q).contains .uncorrectable = true) : s.fetchItem i sp q =
    (((s.fetching i sp q).onChan sp fun ch => { ch with failed := ch.failed ++ [(q.key, .uncorrectable)] }).onMem i fun m =>
      { m with uncorrectable := satAdd m.uncorrectable 1 }, stUncorrectable) := by
  unfold State.fetchItem
  dsimp only
  rw [if_neg hv, if_pos h]
  rfl

theorem State.fetchItem_tagBad (h : ((s.chan sp).conds q).contains .uncorrectable = false)
    (ht : ((s.chan sp).conds q).contains .tagBad = true) : ∃ a k lv o, s.fetchItem i sp q =
      (((s.fetching i sp q).onChan sp fun ch => { ch with failed := ch.failed ++ [(q.key, .tagBad)] }).violation i sp a k lv o, stIntegrity) := by
  refine ⟨(s.fetching i sp q).faultAddr sp q, if q.1 = 0 then 3 else 4, q.1, ((s.fetching i sp q).session i).itemOwner sp q, ?_⟩
  unfold State.fetchItem
  dsimp only
  rw [if_neg hv, if_neg (by rw [h]; exact Bool.false_ne_true), if_pos ht]
  rfl

end

/-- Every access beneath an item that was found faulty has its status. -/
theorem State.reach_failed {path : List Item} {q : Item} (hq : q ∈ path) {c : LineCond} (h : (q.key, c) ∈ (s.chan sp).failed) :
    (s.reach i sp path).1 = s ∧ ((s.reach i sp path).2 = stIntegrity ∨ (s.reach i sp path).2 = stUncorrectable) := by
  have hsome : (path.findSome? fun q => (s.chan sp).failed.find? (·.1 = q.key)) ≠ none := fun hn => by
    have hf := List.find?_eq_none.1 (List.findSome?_eq_none_iff.1 hn q hq) _ h
    exact hf (decide_eq_true rfl)
  unfold State.reach
  split
  · refine ⟨rfl, ?_⟩
    dsimp only
    split
    · exact .inl rfl
    · exact .inr rfl
  · next hn => exact absurd hn hsome

end

/-- Settles O57: by what a read's check finds, a write over it, a fetch of metadata, and the walks beneath it. -/
theorem memoryFailuresAreHandled : Obligations.MemoryFailuresAreHandled := by
  unfold Obligations.MemoryFailuresAreHandled
  refine ⟨fun s i sp line part => ?_, fun s i sp line off b hro => ⟨fun hb hst => ?_, fun hb hi hsp => ?_⟩,
    fun s i sp q hi hsp hv h => ?_, fun s i sp q hi hsp hv h ht => ?_, fun s i sp path ⟨q, hq, c, h⟩ => State.reach_failed hq h⟩
  · intro w ch r m u tag cond gone calm spoiled hi hsp hw hwf hp
    have hspw : sp ∈ w.1.spaces i := by rwa [(s.walk_moves i hsp line).spaces]
    refine ⟨fun hg hc => ?_, fun hg => ?_, fun hg hc => ?_, fun hg hc => ?_⟩
    · have hr : r = _ := State.readLine_poisoned hw hp part hg hc
      refine ⟨congrArg Prod.snd hr, ?_, ?_⟩
      · unfold u
        rw [hr, State.chan_onMem, State.chan_counted]
      · rw [hr, State.mem_onMem hi, State.mem_counted hi, Channel.corrections_poisoned hc]
        rfl
    · have hr : r = _ := State.readLine_gone hw hp part hg
      have hu : u = r.1.chan sp := rfl
      rw [hr] at hu ⊢
      refine ⟨rfl, fun hcalm => ?_⟩
      obtain ⟨hspoil, hcounts⟩ := State.lost_calm hi hspw hwf hcalm
      rw [← hu] at hspoil
      exact ⟨⟨hspoil.spoiled, hspoil.kept⟩, hcounts⟩
    · have hr : r = _ := State.readLine_tagBad hw hp part hg hc
      have hu : u = r.1.chan sp := rfl
      rw [hr] at hu ⊢
      obtain ⟨hq, hstop⟩ := State.tagBad_stops (s := w.1) (line := line) hi hspw (64 * line) (if part then 2 else 1) 0
        (((w.1.counted i sp line).session i).lineOwner sp line)
      refine ⟨rfl, hq, hstop, fun hcalm => ?_⟩
      obtain ⟨hspoil, hint, hlog⟩ := State.tagBad_calm (s := w.1) (line := line) hi hspw hwf hcalm (64 * line) (if part then 2 else 1) 0
        (((w.1.counted i sp line).session i).lineOwner sp line)
      rw [← hu] at hspoil
      refine ⟨⟨hspoil.spoiled, hspoil.kept⟩, hint, fun hl => ⟨_, hlog hl, rfl, ?_, rfl, ?_⟩⟩
      · cases part <;> rfl
      · obtain ⟨r, hx⟩ := w.1.session_counted i sp line hi
        rw [hx]
        rfl
    · have hr : r = _ := State.readLine_good hw hp part hg hc
      refine ⟨congrArg Prod.snd hr, ?_⟩
      unfold u
      rw [hr, State.chan_counted]
  · rw [State.writeLine_eq, if_neg (by rw [hro]; exact Bool.false_ne_true), State.readFirst, if_neg hb]
    exact if_pos hst
  · exact fun hw hwf hro' hsweep hm => State.writeLine_full hi hsp hb hro hw hwf hro' hsweep hm
  · rw [State.fetchItem_lost hv h, State.mem_onMem hi, State.chan_onMem, State.chan_failed hi hsp, State.session_onChan, State.mem_fetching hi]
    exact ⟨rfl, rfl, rfl, rfl⟩
  · obtain ⟨a, k, lv, o, hr⟩ := State.fetchItem_tagBad hv h ht
    rw [hr, State.chan_violation, State.chan_failed hi hsp, State.session_violation hi, Session.mem_stopAll, State.session_onChan,
      State.mem_fetching hi]
    exact ⟨rfl, rfl, rfl, rfl⟩

end Sys2Proof.Machine
end

section
/-! PROOFS. O38. The statement supposes nothing of the salt that a CKPT_EXPORT drew at its launch. The module draws 32 bytes,
but a descriptor in progress that carries a longer salt is a state: its chunk header is longer than 128 bytes, and the chunk
is longer than its stride in host memory. -/

namespace Sys2Proof.Machine

/-- A checkpoint of one chunk of 64 bytes to host address 0x1000. -/
def oneChunk : Bytes := padTo 128 (le 2 opExport ++ zeros 30 ++ le 8 64 ++ zeros 16 ++ le 8 0x1000)

/-- The descriptor in progress, with the identifier and salt that it drew. -/
def exporting (sizes : List (List Nat)) : Op :=
  { ctx := 0, seq := 0, slot := 0, index := 0, desc := oneChunk, stage := .launched, readyAt := 0, launchedAt := 0
    status := stOk, step := 0, attempt := 0, scales := [], copies := [], sources := [], sizes := sizes, progress := 0
    dropped := false, taint := false, feeds := none }

/-- A module that serves it: its session holds channel 0, and an object window of the session lies at 0x1000. -/
def exportState (sizes : List (List Nat)) : State :=
  { State.reset with
    power := { PowerPins.reset with power := .ps0 }
    fw := { Firmware.reset with state := .running }
    host := { HostPort.reset with linkUp := true, windows := [(0, ⟨true, some 0, 0x1000, 2 ^ 24⟩)] }
    channels := vset State.reset.channels 0 { Channel.reset with holder := some (0, 0) }
    sessions := vset State.reset.sessions 0 { Session.reset with ops := [exporting sizes] } }

theorem exportState_serves (sizes : List (List Nat)) :
    (exportState sizes).launched ⟨0, 0, 0⟩ opExport = some (exporting sizes) ∧
      (exportState sizes).windowOk true (some 0) (ckHost oneChunk) (ckStride * ckChunks (ckLength oneChunk)) = true ∧
      (exportState sizes).cacheReady = true :=
  ⟨rfl, rfl, rfl⟩

/-- An identifier, and a salt of as many bytes as a chunk's stride. -/
def longSalt : List (List Nat) := [[0], List.replicate ckStride 1]

theorem exportState_reads :
    (((exportState longSalt).job 0 (exporting longSalt) (ckParty oneChunk)).readHbm (ckMem oneChunk)
      (ckPayload (ckLength oneChunk) 0)).1.live = true := by
  decide +kernel

/-! ### A chunk that is longer than its stride -/

/-- A chunk header: 64 bytes, its salt, and 32 bytes of zeros. -/
theorem State.chunkHead_eq (s : State) (i : Nat) (d : Bytes) (id : Nat) (step : W32) (salt : Bytes) (k : Nat) :
    ∃ pre, pre.length = 64 ∧ s.chunkHead i d id step salt k = pre ++ salt ++ zeros 32 := by
  refine ⟨_, ?_, rfl⟩
  simp only [List.length_append, le_length, slice_length, w32_length, zeros_length]
  rfl

/-- What a chunk that goes out leaves in host memory. -/
theorem Job.exportChunk_memory {j : Job} {p : Op} {k : Nat}
    (hlive : (j.readHbm (ckMem p.desc + 1048576 * k) (ckPayload (ckLength p.desc) k)).1.live = true) (id : Nat) (salt : Bytes) :
    ∃ pre post, pre.length = 64 ∧ (j.exportChunk p id salt k).st.host.memory =
      memStore j.st.host.memory (ckHost p.desc + ckStride * k) (pre ++ salt ++ post) := by
  have hgo := (j.readHbm_goes (ckMem p.desc + 1048576 * k) (ckPayload (ckLength p.desc) k)).1.1
  have hmem := congrArg (fun s : State => s.host.memory) hgo
  unfold Job.exportChunk
  dsimp only at hmem ⊢
  rw [if_pos hlive]
  generalize j.readHbm (ckMem p.desc + 1048576 * k) (ckPayload (ckLength p.desc) k) = r at hmem
  obtain ⟨pre, hpre, hhead⟩ := r.1.st.chunkHead_eq r.1.sess p.desc id p.step salt k
  unfold State.hostStore padTo
  dsimp only
  rw [hhead, hmem]
  simp only [List.append_assoc]
  exact ⟨pre, _, hpre, rfl⟩

/-- A byte that a store wrote. -/
theorem get_memStore {m : Memory} (h : Memory.wf m = true) (a : Nat) {b : Bytes} {n : Nat} (hn : n < b.length) :
    Table.get 0 (memStore m a b) (a + n) = b[n] := by
  have hload := memLoad_memStore h a b
  have hget := List.getElem_of_eq hload (i := n) (by simpa using hn)
  simpa [memLoad] using hget

/-- The job that sends every chunk out. -/
def State.exported (s : State) (i : Nat) (p : Op) : Job :=
  (List.range (ckChunks (ckLength p.desc))).foldl
    (fun j k => j.exportChunk p ((p.sizes.getD 0 []).getD 0 0) ((p.sizes.getD 1 []).map (BitVec.ofNat 8)) k) (s.job i p (ckParty p.desc))

theorem State.host_finishOp (s : State) (i : Nat) (p : Op) (st : Status) : (s.finishOp i p st).host = s.host := rfl

/-- The obligation keeps the byte of host memory that follows the object. -/
theorem exported_keeps (h : Obligations.FarMovesAndCheckpointsRun) {s : State} {o : OpRef} {p : Op}
    (hl : s.launched o opExport = some p)
    (hw : s.windowOk true (some o.session) (ckHost p.desc) (ckStride * ckChunks (ckLength p.desc)) = true) (hr : s.cacheReady = true) :
    Table.get 0 (s.exported o.session p).st.host.memory (ckHost p.desc + ckStride * ckChunks (ckLength p.desc)) =
      Table.get 0 s.host.memory (ckHost p.desc + ckStride * ckChunks (ckLength p.desc)) := by
  obtain ⟨-, -, -, hexport, -⟩ := h s o p (State.launched_lt hl)
  obtain ⟨hexport, -⟩ := hexport hl
  obtain ⟨t, m, -, -, ht, -, hm, hkept⟩ := hexport hw hr
  have hend := hkept _ (.inr le_rfl)
  unfold State.exported
  generalize (List.range (ckChunks (ckLength p.desc))).foldl _ _ = j at ht ⊢
  rw [← hm, ht, State.host_finishOp] at hend
  exact hend

/-- The salt as bytes. -/
theorem longSalt_bytes : (longSalt.getD 1 []).map (BitVec.ofNat 8) = List.replicate ckStride (BitVec.ofNat 8 1) := by
  rw [show longSalt.getD 1 [] = List.replicate ckStride 1 from rfl, List.map_replicate]

/-- The byte one stride after the chunk's first is a byte of the salt. -/
theorem exportState_spills : Table.get 0 ((exportState longSalt).exported 0 (exporting longSalt)).st.host.memory
    (ckHost oneChunk + ckStride * ckChunks (ckLength oneChunk)) = 1 := by
  have hone : ckChunks (ckLength oneChunk) = 1 := by decide
  have hdesc : (exporting longSalt).desc = oneChunk := rfl
  have hsizes : (exporting longSalt).sizes = longSalt := rfl
  have hempty : ((exportState longSalt).job 0 (exporting longSalt) (ckParty oneChunk)).st.host.memory = [] := rfl
  obtain ⟨pre, post, hpre, hmem⟩ := Job.exportChunk_memory (p := exporting longSalt) (k := 0) exportState_reads
    (((exporting longSalt).sizes.getD 0 []).getD 0 0) (((exporting longSalt).sizes.getD 1 []).map (BitVec.ofNat 8))
  rw [hdesc, hempty, hsizes, longSalt_bytes] at hmem
  rw [State.exported, hdesc, hone, show List.range 1 = [0] from rfl, List.foldl_cons, List.foldl_nil, hsizes, longSalt_bytes, hmem,
    Nat.mul_zero, Nat.add_zero, Nat.mul_one]
  have hstride : 64 ≤ ckStride := by decide
  generalize ckStride = n at hstride
  rw [get_memStore rfl _ (by simp only [List.length_append, List.length_replicate]; omega),
    List.getElem_append_left (by simp only [List.length_append, List.length_replicate]; omega),
    List.getElem_append_right (by omega), List.getElem_replicate]
  rfl

/-- Refutes O38: the salt of a descriptor in progress is a list of any length, and one of a stride's bytes makes its chunk
spill over the end of the object in host memory. The statement does not suppose the 32 bytes that a launch draws (R372). -/
theorem not_farMovesAndCheckpointsRun : ¬ Obligations.FarMovesAndCheckpointsRun := by
  intro h
  obtain ⟨hlaunched, hwindow, hready⟩ := exportState_serves longSalt
  have hkept := exported_keeps h hlaunched hwindow hready
  rw [show (exporting longSalt).desc = oneChunk from rfl] at hkept
  have hspilt := exportState_spills.symm.trans hkept
  exact absurd hspilt (by decide +kernel)

end Sys2Proof.Machine
end
